-- ==== Sys2Proof/Word.lean ====
section
/-!
DEFINITION. The words of the block and the identifiers of its parts (R6, R15 to R22 of 01_organisation.md).
-/

namespace Sys2Proof

abbrev Word := BitVec 32
abbrev Byte := BitVec 8

/-- Thread ID: hearth [8:6], core within the hearth [5:4], thread within the core [3:0] (R15). -/
abbrev Tid := BitVec 9
/-- Global core number, TID[8:4] (R16). -/
abbrev CoreId := BitVec 5
abbrev HearthId := BitVec 3
/-- Channel ID: pin engine [8:3], context [2:0] (R17). -/
abbrev Chan := BitVec 9
abbrev EngineId := BitVec 6
/-- Port number 0 to 511 (R18). -/
abbrev Port := BitVec 9
/-- Queue ID: quadrant [13:12], queue within it [11:0] (R19). -/
abbrev Qid := BitVec 14
abbrev Quadrant := BitVec 2
/-- Node ID: package [17:4], block [3:0] (R20). -/
abbrev Node := BitVec 18
abbrev BankId := BitVec 4
abbrev BaseId := BitVec 4
abbrev LaneId := BitVec 2
/-- Memory-side master code (R164). -/
abbrev Master := BitVec 6
abbrev TaskId := BitVec 12

end Sys2Proof
end

