-- ==== Sys2Proof/Syntax.lean ====
section
/-!
DEFINITION. The commands of the block: one constructor of `Instr` per row of spec/opcode_table.json, with the row's
operands.  An operand names the acting unit (a thread, a channel, a lane, a register's instance) and carries what comes
from outside the block (a pin level, a response status, the words of a received flit).
-/

namespace Sys2Proof

/-- Who makes a register access: a thread's store (R27), the debug access port with the authority of the block
supervisor (R541), or the boot unit's record writes (R473). -/
inductive Writer where
  | thread (t : Tid)
  | debug
  | boot
  deriving DecidableEq, Repr

/-- The holders of notices (R130). -/
inductive Holder where
  | thread (t : Tid)
  | channel (ch : Chan)
  | queueEngine
  | stager
  | temper
  | faultUnit
  | chainUnit
  deriving DecidableEq, Repr

/-- The thread registers a master writes under R124 by THR_STATE_WRITE. -/
inductive ThrReg where
  | pc | a | x | y | tp | role
  deriving DecidableEq, Repr

/-- A 64-byte flit (R411): header fields and the words of its body. -/
structure Flit where
  vc : BitVec 2
  type : BitVec 4
  hops : BitVec 5
  dest : Node
  age : BitVec 12
  src : Node
  h2 : Word
  h3 : Word
  body : List Word
  deriving DecidableEq, Repr

/-- A codeword as its receiver sees it after FEC decoding (R406, R409): `uncorrectable`, or its control field and the
flits of its slots. -/
inductive Codeword where
  | uncorrectable
  | decoded (corrected : Bool) (seq ack : BitVec 10) (flits : List Flit)
  deriving DecidableEq, Repr

/-- What wakes a power domain (R399). -/
inductive WakeCause where
  | item | notice | access | registerWrite | eventInput
  deriving DecidableEq, Repr

/-- Source of a reload request (BOOT.CAUSE.SOURCE, R486). -/
inductive ReloadSource where
  | bootCtl (w : Writer)
  | service
  | debugPort
  | fallback
  deriving DecidableEq, Repr

/-- Fabric ports and channels (R516). -/
inductive FabricPort where
  | smCommand | htReply | dpReply
  deriving DecidableEq, Repr

/-- How a frame or a transfer that a bus program sends ends on the wire: sent, its start so many cycles ago, or the error
code of each new attempt that failed, first first (R283, R289). -/
inductive BusResult where
  | done (back : Nat)
  | failed (errs : List Byte)
  deriving DecidableEq, Repr

/-- What the receive lane showed of a CAN frame as it was sent (R287), its bits first first: those before the edge from FDF
to res, how many cycles ago that edge reached the port, the bits from there to the end of the data field, those of an FD
frame's CRC field, and the rest. -/
structure CanEcho where
  early : List Bool
  back : Nat
  bits : List Bool
  crc : List Bool
  tail : List Bool
  deriving DecidableEq, Repr

/-- A CAN frame on the bus (R288): format, identifier, the control fields at their places of the CONTROL word, the
acceptance field, the data bytes, how many cycles ago its SOF edge was, and the line bits of its phases (R286). -/
structure CanFrame where
  fmt : BitVec 3
  id : BitVec 29
  control : Word
  af : Word
  data : List Byte
  back : Nat
  line : List (List Bool)
  deriving DecidableEq, Repr

/-- How a CAN frame on the bus ends for its receiver (R282, R288, R289): valid; cut after so many words by an overrun; or
with an error, after whose flag the first bit is dominant or not. -/
inductive FrameEnd where
  | complete
  | cut (words : Nat)
  | error (err : Byte) (dominant : Bool)
  deriving DecidableEq, Repr

/-- A LIN response on the bus: its bytes and its checksum (R290). -/
structure LinResponse where
  data : List Byte
  check : Byte
  deriving DecidableEq, Repr

/-- A stretch of an MII clock as TC or RC measures it (R294): how many cycles ago a rising edge was, and the period. -/
structure MiiGrid where
  back : Nat
  period : Nat
  deriving DecidableEq, Repr

/-- A CAN frame that a program sends: how its sending ends, and its echo (R287, R288). -/
structure CanSent where
  result : BusResult
  echo : CanEcho
  deriving DecidableEq, Repr

/-- A LIN header that a commander sends: its channel, the response that another node gives to it, and the code of an error
that the line showed, 0 for none (R283, R290). -/
structure LinStart where
  ch : Chan
  resp : Option LinResponse
  err : Byte
  deriving DecidableEq, Repr

/-- A LIN header on the line and what follows it: the dominant bits of its break, the length of a bit of its sync byte in
1/256 cycles, whether a response of this node comes in time, the response of another node, and the code of an error that
the line showed meanwhile, 0 for none (R283, R290). -/
structure LinHeard where
  brk : Nat
  bitTime : Nat
  inTime : Bool
  resp : Option LinResponse
  err : Byte
  deriving DecidableEq, Repr

/-- A PSI5 frame on RX: its start within the sync period, and its bits, none for a Manchester violation (R292). -/
structure Psi5Bits where
  start : Nat
  bits : List (Option Bool)
  deriving DecidableEq, Repr

/-- A 10BASE-T1S frame that a program sends: how its sending ends, and the grid of TC (R294, R295). -/
structure T1sSent where
  result : BusResult
  grid : List MiiGrid
  deriving DecidableEq, Repr

/-- What RD and RC see of the segment: a BEACON, or a frame as RD samples it, its nibbles with the grid of RC and an error
of the PHY (R294, R295). -/
structure T1sHeard where
  beacon : Bool
  nibbles : List (BitVec 4)
  grid : List MiiGrid
  err : Bool
  deriving DecidableEq, Repr

/-- The commands: the rows of the opcode table, in its order. -/
inductive Instr where
  -- threads: loads and stores (R76)
  | ldA (t : Tid) (m : BitVec 3) (o : BitVec 23)
  | ldX (t : Tid) (m : BitVec 3) (o : BitVec 23)
  | ldY (t : Tid) (m : BitVec 3) (o : BitVec 23)
  | stA (t : Tid) (m : BitVec 3) (o : BitVec 23)
  | stX (t : Tid) (m : BitVec 3) (o : BitVec 23)
  | stY (t : Tid) (m : BitVec 3) (o : BitVec 23)
  | ldBu (t : Tid) (m : BitVec 3) (o : BitVec 23)
  | ldHu (t : Tid) (m : BitVec 3) (o : BitVec 23)
  | stB (t : Tid) (m : BitVec 3) (o : BitVec 23)
  | stH (t : Tid) (m : BitVec 3) (o : BitVec 23)
  | lea (t : Tid) (m : BitVec 3) (o : BitVec 23)
  | ldhi (t : Tid) (m : BitVec 3) (o : BitVec 23)
  -- threads: integer and binary32 arithmetic
  | add (t : Tid) (m : BitVec 3) (o : BitVec 23)
  | addc (t : Tid) (m : BitVec 3) (o : BitVec 23)
  | sub (t : Tid) (m : BitVec 3) (o : BitVec 23)
  | subb (t : Tid) (m : BitVec 3) (o : BitVec 23)
  | and (t : Tid) (m : BitVec 3) (o : BitVec 23)
  | or (t : Tid) (m : BitVec 3) (o : BitVec 23)
  | xor (t : Tid) (m : BitVec 3) (o : BitVec 23)
  | cmp (t : Tid) (m : BitVec 3) (o : BitVec 23)
  | tst (t : Tid) (m : BitVec 3) (o : BitVec 23)
  | shl (t : Tid) (m : BitVec 3) (o : BitVec 23)
  | shr (t : Tid) (m : BitVec 3) (o : BitVec 23)
  | sar (t : Tid) (m : BitVec 3) (o : BitVec 23)
  | rol (t : Tid) (m : BitVec 3) (o : BitVec 23)
  | mul (t : Tid) (m : BitVec 3) (o : BitVec 23)
  | mulh (t : Tid) (m : BitVec 3) (o : BitVec 23)
  | div (t : Tid) (m : BitVec 3) (o : BitVec 23)
  | divu (t : Tid) (m : BitVec 3) (o : BitVec 23)
  | rem (t : Tid) (m : BitVec 3) (o : BitVec 23)
  | remu (t : Tid) (m : BitVec 3) (o : BitVec 23)
  | fadd (t : Tid) (m : BitVec 3) (o : BitVec 23)
  | fsub (t : Tid) (m : BitVec 3) (o : BitVec 23)
  | fmul (t : Tid) (m : BitVec 3) (o : BitVec 23)
  | fdiv (t : Tid) (m : BitVec 3) (o : BitVec 23)
  | fsqrt (t : Tid) (m : BitVec 3) (o : BitVec 23)
  | fcmp (t : Tid) (m : BitVec 3) (o : BitVec 23)
  | addX (t : Tid) (m : BitVec 3) (o : BitVec 23)
  | addY (t : Tid) (m : BitVec 3) (o : BitVec 23)
  | cmpX (t : Tid) (m : BitVec 3) (o : BitVec 23)
  | cmpY (t : Tid) (m : BitVec 3) (o : BitVec 23)
  -- threads: queues and locks
  | ldq (t : Tid) (m : BitVec 3) (o : BitVec 23)
  | ldw (t : Tid) (m : BitVec 3) (o : BitVec 23)
  | stq (t : Tid) (m : BitVec 3) (o : BitVec 23)
  | stqe (t : Tid) (m : BitVec 3) (o : BitVec 23)
  | stw (t : Tid) (m : BitVec 3) (o : BitVec 23)
  | stwe (t : Tid) (m : BitVec 3) (o : BitVec 23)
  | cas (t : Tid) (m : BitVec 3) (o : BitVec 23)
  | swap (t : Tid) (m : BitVec 3) (o : BitVec 23)
  | waitev (t : Tid) (m : BitVec 3) (o : BitVec 23)
  -- threads: branches, fences, halt
  | goCc (t : Tid) (annul : Bool) (cond : BitVec 4) (disp : BitVec 21)
  | gol (t : Tid) (annul : Bool) (cond : BitVec 4) (disp : BitVec 21)
  | goi (t : Tid) (m : BitVec 3) (o : BitVec 23)
  | cgoA (t : Tid) (annul : Bool) (rel : BitVec 3) (src : Bool) (imm : BitVec 7) (disp : BitVec 14)
  | cgoX (t : Tid) (annul : Bool) (rel : BitVec 3) (src : Bool) (imm : BitVec 7) (disp : BitVec 14)
  | fenceC (t : Tid)
  | fenceH (t : Tid)
  | fenceS (t : Tid)
  | msync (t : Tid)
  | halt (t : Tid)
  | illegalInstruction (t : Tid) (w : Word)
  -- threads: REG group (R77)
  | nop (t : Tid)
  | neg (t : Tid)
  | not (t : Tid)
  | mvXa (t : Tid)
  | mvYa (t : Tid)
  | mvAx (t : Tid)
  | mvAy (t : Tid)
  | mvYx (t : Tid)
  | mvXy (t : Tid)
  | clz (t : Tid)
  | fneg (t : Tid)
  | fabs (t : Tid)
  | ftoi (t : Tid)
  | ftou (t : Tid)
  | itof (t : Tid)
  | utof (t : Tid)
  -- core machinery
  | farAccessCompletion (t : Tid) (idx : Nat) (stat : BitVec 2) (data : Word)
  | storeBufferEntryLeave (c : CoreId) (idx : Nat)
  | lateStoreFault (c : CoreId) (idx : Nat) (stat : BitVec 2)
  | runAheadLoad (t : Tid) (m : BitVec 3) (o : BitVec 23)
  | runAheadEntryExpiry (t : Tid) (idx : Nat)
  | time0lRead (t : Tid)
  | sltTabWrite (w : Writer) (c : CoreId) (wi : BitVec 3) (v : Word)
  | sltCommit (w : Writer) (c : CoreId)
  | slotTableCopy (c : CoreId)
  | predLeave (w : Writer) (c : CoreId)
  | idlecntRead (c : CoreId)
  | sqcntRead (c : CoreId)
  -- thread life cycle, roles, locks
  | threadRelease (w : Writer) (t : Tid)
  | threadStop (w : Writer) (t : Tid)
  | threadStopped (t : Tid)
  | haltComplete (t : Tid)
  | threadFault (t : Tid)
  | noticeHeldPush (h : Holder)
  | thrStateWrite (w : Writer) (t : Tid) (r : ThrReg) (v : Word)
  | thrCfgWrite (w : Writer) (t : Tid) (v : Word)
  | roleReassign (w : Writer) (t : Tid) (v : Word)
  | rolebusyClear (t : Tid)
  | watchWake
  | inheritanceChain (t : Tid)
  | priorityRecompute
  | forceRelease (w : Writer) (c : CoreId) (owner : Tid)
  | watchRead
  | lckCntRead
  -- memories
  | handover (w : Writer) (b : BankId) (wipe : Bool) (newOwner : Master)
  | handoverComplete (b : BankId)
  | wipeComplete (b : BankId)
  | tamper
  | lifecycleChange (lc : BitVec 3)
  | bankRetentionEntry (b : BankId)
  | bankRetained (b : BankId)
  | bankWake (b : BankId)
  | bankWakeComplete (b : BankId)
  | memRetWrite (w : Writer) (b : BankId) (v : Word)
  | memRetRead (b : BankId)
  | memEccRead (coreLocal : Bool) (i : CoreId)
  | memNownRead (b : BankId)
  | memConfRead (b : BankId) (m : Master)
  -- queues
  | wakeNotice (q : Qid)
  | depthWaiterServe (q : Qid)
  | slotClaimRetry (k : Quadrant)
  | assemblyHoldRelease (k : Quadrant)
  | queueFlush (w : Writer) (q : Qid)
  | qcfgWrite (w : Writer) (q : Qid) (v : Word)
  | quotaWrite (w : Writer) (o : BitVec 12) (v : Word)
  | doorbellPush (q : Qid) (full : Bool) (data : BitVec 64)
  | doorbellPushe (q : Qid) (full : Bool) (data : BitVec 64)
  | doorbellCidx (q : Qid) (v : Word)
  | doorbellStatusRead (q : Qid)
  | hostMoverBatch (r : BitVec 10)
  | hostMoverResponse (r : BitVec 10) (ok : Bool)
  | ringEnable (w : Writer) (r : BitVec 10) (v : Word)
  | slaglostRead
  | slagcntRead (r : BitVec 4)
  -- pin engines: control
  | cstWrite (w : Writer) (e : EngineId) (wi : BitVec 2) (v : Word)
  | ectlCommit (w : Writer) (e : EngineId)
  | channelTableCopy (e : EngineId)
  | start (w : Writer) (ch : Chan)
  | stop (w : Writer) (ch : Chan)
  | safe (w : Writer) (ch : Chan)
  | unlatch (w : Writer) (ch : Chan)
  -- pin engines: instruction set (R248)
  | movi (ch : Chan) (dd : BitVec 3) (imm : BitVec 16)
  | movh (ch : Chan) (dd : BitVec 3) (imm : BitVec 16)
  | mov (ch : Chan) (dd ds : BitVec 3)
  | peAdd (ch : Chan) (dd ds : BitVec 3) (useImm : Bool) (imm : BitVec 16)
  | peSub (ch : Chan) (dd ds : BitVec 3) (useImm : Bool) (imm : BitVec 16)
  | peAnd (ch : Chan) (dd ds : BitVec 3) (useImm : Bool) (imm : BitVec 16)
  | peOr (ch : Chan) (dd ds : BitVec 3) (useImm : Bool) (imm : BitVec 16)
  | peXor (ch : Chan) (dd ds : BitVec 3) (useImm : Bool) (imm : BitVec 16)
  | peShl (ch : Chan) (dd ds : BitVec 3) (useImm : Bool) (imm : BitVec 16)
  | peShr (ch : Chan) (dd ds : BitVec 3) (useImm : Bool) (imm : BitVec 16)
  | peCmp (ch : Chan) (dd ds : BitVec 3) (useImm : Bool) (imm : BitVec 16)
  | br (ch : Chan) (f : BitVec 4) (dd : BitVec 3) (target : BitVec 10)
  | djnz (ch : Chan) (dd : BitVec 3) (target : BitVec 10)
  | drive (ch : Chan) (dd ds : BitVec 3) (f : BitVec 4) (imm : BitVec 2)
  | timedDriveDue (ch : Chan) (lane : BitVec 2)
  | sample (ch : Chan) (dd : BitVec 3) (lane : BitVec 2)
  | waite (ch : Chan) (lane : BitVec 2) (timed : Bool) (ds : BitVec 3)
  | waitt (ch : Chan) (dd : BitVec 3)
  | tstamp (ch : Chan) (dd : BitVec 3) (lane : BitVec 2) (lowWord pop : Bool)
  | rdc (ch : Chan) (dd : BitVec 3)
  | pull (ch : Chan) (dd : BitVec 3) (src : Bool)
  | tpull (ch : Chan) (dd : BitVec 3) (src : Bool)
  | push (ch : Chan) (dd : BitVec 3) (snk fin : Bool) (prio kind : BitVec 4)
  | tag (ch : Chan) (dd : BitVec 3)
  | shtx (ch : Chan) (ds : BitVec 3) (n : BitVec 6)
  | shrx (ch : Chan) (dd : BitVec 3) (n : BitVec 6)
  | crci (ch : Chan) (lane : BitVec 2)
  | rdca (ch : Chan) (dd : BitVec 3) (lane : BitVec 2)
  | rdcb (ch : Chan) (dd : BitVec 3) (lane : BitVec 2)
  | stmode (ch : Chan) (lane mode : BitVec 2) (n : BitVec 4)
  | stcnt (ch : Chan) (dd : BitVec 3) (lane : BitVec 2)
  | bset (ch : Chan) (setB : Bool)
  | ben (ch : Chan) (en : Bool)
  | hsync (ch : Chan) (kind : BitVec 2)
  | bstat (ch : Chan) (dd : BitVec 3)
  | tsclr (ch : Chan) (lane : BitVec 2)
  | evt (ch : Chan)
  | wrap (ch : Chan) (ds : BitVec 3) (top : BitVec 10)
  | peHalt (ch : Chan)
  | peIllegal (ch : Chan) (w : Word)
  -- pin engines: events
  | portEdge (p : Port) (level : Bool)
  | readbackMismatch (p : Port)
  | stagedActionDue (ch : Chan)
  | voteWindowExpiry (ch : Chan)
  | portFenceSet (w : Writer) (p : Port)
  | portFenceClear (w : Writer) (p : Port)
  | safeWhenDry (ch : Chan)
  | pmdataWrite (w : Writer) (e : EngineId) (v : Word)
  | estatRead (e : EngineId)
  | cerrRead (ch : Chan)
  -- bus programs (chapter 09)
  | online (ch : Chan)
  | offline (ch : Chan)
  | listen (ch : Chan)
  | sleep (ch : Chan)
  | wake (ch : Chan)
  | readCounters (ch : Chan)
  | abortTx (ch : Chan)
  | recover (ch : Chan)
  | canTxFrame (ch : Chan) (x : CanSent)
  | canRxFrame (ch : Chan) (f : CanFrame) (e : FrameEnd)
  | busOffRecovery (ch : Chan)
  | linFrameStart (x : LinStart)
  | linHeaderRx (ch : Chan) (pid : Byte) (x : LinHeard)
  | linResponseTimeout (ch : Chan)
  | sentMessage (ch : Chan) (lane : BitVec 2) (back cal : Nat) (pulses : List Nat)
  | sentSlowMessage (ch : Chan) (lane : BitVec 2) (id : Byte) (data : BitVec 16)
  | psi5Frame (ch : Chan) (slot : BitVec 2) (x : Psi5Bits)
  | psi5SlotEnd (ch : Chan) (slot : BitVec 2)
  | t1sTxFrame (ch : Chan) (x : T1sSent)
  | t1sRxFrame (ch : Chan) (dest : Qid) (back : Nat) (x : T1sHeard)
  | t1sBeaconMissing (ch : Chan)
  | mdioTransfer (ch : Chan) (rdata : BitVec 16)
  | spiTransfer (ch : Chan) (rdata : List Word)
  | twsTransfer (ch : Chan) (r : BusResult) (rdata : List Byte)
  | uartTx (ch : Chan)
  | uartRx (ch : Chan) (char : BitVec 9) (err : Byte)
  | hallSectorChange (ch : Chan) (hall : BitVec 3)
  | zeroCrossing (ch : Chan) (lane : BitVec 2)
  | partnerSessionOpen (t : Tid) (key addr reply dest deadline : Word)
  -- time bases
  | timePortWord (time : BitVec 64) (valid step : Bool)
  | timePortSample
  | capturePacket (n : BaseId) (j : BitVec 2)
  | estimationWindowEnd (n : BaseId)
  | referenceLost (n : BaseId)
  | stillTimeout (n : BaseId)
  | slewUpdate (n : BaseId)
  | refReadmit (w : Writer) (n : BaseId) (j : BitVec 2)
  | t0incWrite (w : Writer) (v : Word)
  | tbVallRead (mst : Master) (n : BaseId)
  | tbPortlRead (mst : Master)
  | tbPortRead
  | refstatRead (n : BaseId) (j : BitVec 2)
  | tbWinRead (n : BaseId)
  -- timed actions, tasks, events
  | post (t : Tid) (p4 : Word)
  | revalidationPass
  | quench (n : BaseId)
  | quenchRecompute (n : BaseId)
  | taskEnable (w : Writer) (c : CoreId) (v : Word)
  | taskRelease (k : TaskId)
  | taskDone (w : Writer) (k : TaskId)
  | taskRebase (w : Writer) (c : CoreId)
  | taCntRead
  | eventFire (i : BitVec 12)
  | softwareEventPulse (w : Writer) (src : BitVec 10)
  | ovrcntRead
  -- signal engine
  | sigPacketRead
  | directoryLookup (q : Qid)
  | directoryFillReturn (line : BitVec 21) (ok : Bool) (words : List Word)
  | directoryInvalidate (w : Writer) (line : BitVec 21)
  | pinnedEntryReplace (w : Writer) (entry : BitVec 23)
  | dironWrite (w : Writer) (v : Word)
  | sigCntRead (k : BitVec 4)
  -- bellows and power domains
  | bellowsEpochEnd (h : HearthId)
  | bellowsApply (h : HearthId)
  | hstatRead (h : HearthId)
  | powerRequestOn (w : Writer) (d : BitVec 5)
  | powerRequestRetained (w : Writer) (d : BitVec 5)
  | powerRequestOff (w : Writer) (d : BitVec 5)
  | drainComplete (d : BitVec 5)
  | domainLowState (d : BitVec 5)
  | domainWake (d : BitVec 5) (cause : WakeCause)
  | domainOn (d : BitVec 5)
  | heldItemAgeCheck
  | pdAckRise (d : BitVec 5)
  | pdAckFall (d : BitVec 5)
  | dstatRead (d : BitVec 5)
  -- chain
  | laneEnableWrite (w : Writer) (l : LaneId) (v : Word)
  | laneInit (l : LaneId)
  | initFlitTimer (l : LaneId)
  | initFlitRx (l : LaneId) (f : Flit)
  | laneSignalLoss (l : LaneId)
  | codewordTimeout (l : LaneId)
  | codewordRx (l : LaneId) (cw : Codeword)
  | creditRx (l : LaneId) (f : Flit)
  | itemsFlitRx (l : LaneId) (f : Flit)
  | rwriteRx (l : LaneId) (f : Flit)
  | probeTimer (l : LaneId)
  | probeRx (l : LaneId) (f : Flit)
  | timeFlitTimer
  | timeFlitRx (l : LaneId) (f : Flit)
  | tunnelPoll (txCidx rxPidx : BitVec 16)
  | tunnelEntryClose
  | tunnelRxEntry (header : BitVec 64) (flits : List Flit)
  | lcntRead (l : LaneId)
  | egrRead
  | chnCntRead
  | tunstatRead
  -- mirror pair
  | heartbeatTimer
  | heartbeatRx (l : LaneId) (f : Flit)
  | joinTimeout
  | mirrorCopyComplete
  | mirrorFlitRx (l : LaneId) (f : Flit)
  | mirrorTbSnapshot
  | mackRx (l : LaneId) (f : Flit)
  | mirKick (w : Writer)
  | kickTimeout
  | padGuardTrip
  | partnerSilence
  | partnerOkTestEnd
  | takeover
  | mirForce (w : Writer)
  | mirCntRead
  -- fault counting
  | faultEvent (cls : BitVec 4) (inst : BitVec 24)
  | faultInject (w : Writer) (cls : BitVec 4) (inst : BitVec 24)
  | scntRead (cls : BitVec 4)
  | fltStatRead
  -- resets and boot
  | coldReset (straps : Byte) (hold : Bool) (lc : BitVec 3)
  | reload (src : ReloadSource) (straps : Byte) (hold : Bool) (lc : BitVec 3)
  | warmReset (w : Writer)
  | hearthReset (w : Writer) (h : HearthId)
  | hearthResetComplete (sections : List (List Byte))
  | sectionLoaded (gap bytes : List Byte)
  | flashTimeout
  | criticalRelease
  | digestValid (tail : List Byte)
  | seal
  | bootGo
  | serviceReloadRequest (full32 : Bool) (v : Word) (straps : Byte) (hold : Bool) (lc : BitVec 3)
  | serviceStatRead
  -- ember
  | calendarSecond
  | calendarSet (w : Writer)
  | calendarSetApply
  | cal0Read (mst : Master)
  | wakeRecognised (p : BitVec 5)
  | wakeTimerFired
  | retokFall
  | retokRise
  | emberClockStop
  -- ports and host
  | irqPulseEnd (k : BitVec 3)
  | hostViewRead (off : BitVec 24) (two : Bool)
  | hostViewWrite (off : BitVec 24)
  | hostUnmappedAccess (off : BitVec 24)
  | swinCfgWrite (w : Writer) (k : BitVec 4) (v : Word)
  | vstatRead
  | herrRead
  | registerWrite (w : Writer) (off : BitVec 24) (v : Word)
  | storeAcknowledged (c : CoreId) (idx : Nat)
  | tamperDeassert
  | codewordAlignmentLock (l : LaneId)
  | tunnelRingWriteResponse (ok : Bool)
  | basePassesCycleCountZero (n : BaseId)
  | bitBoundary (ch : Chan)
  | bitSamplePoint (ch : Chan)
  | quadcapTransition (ch : Chan) (a b z : Bool)
  | directoryWriteBackResponse (line : BitVec 21) (ok : Bool)
  | billetHeadersRead (copyA copyB : List Byte)
  | emberTick (pins : BitVec 32)
  | vectorWriteResponse (v : Byte) (ok : Bool)
  | fabricCreditReturn (p : FabricPort)
  | builtInTest (c : CoreId) (start : Bool)
  deriving DecidableEq, Repr

end Sys2Proof
end

