-- ==== Sys2Proof/WellFormed.lean ====
section
/-!
DEFINITION. Well-formed commands: what the type of an operand does not already bound.  A command that is not well formed
names a part the block does not have, or a message longer than its wire can carry.
-/

namespace Sys2Proof

/-- A domain number of the table of R395. -/
def domainExists (d : BitVec 5) : Bool := decide (d.toNat < 22)

/-- A flit carries twelve body words (R411). -/
def Flit.wf (f : Flit) : Bool := decide (f.body.length = 12) && decide (f.hops.toNat ≤ 16)

/-- A codeword holds at most ten flits (R406). -/
def Codeword.wf : Codeword → Bool
  | .uncorrectable => true
  | .decoded _ _ _ flits => decide (flits.length ≤ 10) && flits.all Flit.wf

/-- A memory-side master of the table of R164: a core, the chain unit, the signal engine, the host or the boot unit. -/
def masterExists (m : Master) : Bool := decide (m.toNat < 0x20) || (decide (0x28 ≤ m.toNat) && decide (m.toNat < 0x2C))

/-- The command names parts that exist and carries data that its carrier holds. Log entry 57 (DESIGN CHOICE). -/
def Instr.wellFormed : Instr → Bool
  | .memConfRead _ m => masterExists m
  | .bootGo => true
  | .powerRequestOn _ d => domainExists d
  | .powerRequestRetained _ d => domainExists d
  | .powerRequestOff _ d => domainExists d
  | .drainComplete d => domainExists d
  | .domainLowState d => domainExists d
  | .domainWake d _ => domainExists d
  | .domainOn d => domainExists d
  | .pdAckRise d => domainExists d
  | .pdAckFall d => domainExists d
  | .dstatRead d => domainExists d
  | .initFlitRx _ f => f.wf
  | .codewordRx _ cw => cw.wf
  | .creditRx _ f => f.wf
  | .itemsFlitRx _ f => f.wf
  | .rwriteRx _ f => f.wf
  | .probeRx _ f => f.wf
  | .timeFlitRx _ f => f.wf
  | .tunnelRxEntry _ fs => decide (fs.length ≤ 31) && fs.all Flit.wf
  | .heartbeatRx _ f => f.wf
  | .mirrorFlitRx _ f => f.wf
  | .mackRx _ f => f.wf
  | .farAccessCompletion _ i _ _ => decide (i < 4)
  | .runAheadEntryExpiry _ i => decide (i < 2)
  | .storeBufferEntryLeave _ i => decide (i < 64)
  | .directoryFillReturn _ _ ws => decide (ws.length = 16)
  | .t1sRxFrame _ _ _ x => decide (x.nibbles.length ≤ 3060)
  | .psi5Frame _ _ x => decide (x.bits.length ≤ 31)
  | .canRxFrame _ f _ => decide (f.data.length ≤ 2048)
  | .billetHeadersRead a b => decide (a.length ≤ 0x800000) && decide (b.length ≤ 0x800000)
  | _ => true

end Sys2Proof
end

