-- ==== Sys2Proof/Decode.lean ====
section
/-!
DEFINITION. The words of the block's two instruction sets (R70, R76, R77, R247 to R250), read and written, and the words
of the table.  The rows of spec/opcode_table.json give no bits ("fields" is empty in each), so no word of the table
spells a command; the spec's own encodings are decoded by name.
-/

namespace Sys2Proof

/-- The command that a word spells by the table's bits: none, for no row gives bits. -/
def decodeTableWord (_nbits _w : Nat) : Option Instr := none

/-! ## Thread instruction words (R70) -/

/-- The memory/ALU format: OP[31:26], MODE[25:23], OPND[22:0]. -/
def memFormat (op : BitVec 6) (m : BitVec 3) (o : BitVec 23) : Word := op ++ m ++ o

/-- The branch format: OP[31:26], ANNUL[25], COND[24:21], DISP21[20:0]. -/
def branchWord (op : BitVec 6) (annul : Bool) (cond : BitVec 4) (disp : BitVec 21) : Word :=
  op ++ BitVec.ofBool annul ++ cond ++ disp

/-- The compare-and-branch format: OP[31:26], ANNUL[25], REL[24:22], SRC[21], IMM7[20:14], DISP14[13:0]. -/
def compareWord (op : BitVec 6) (annul : Bool) (rel : BitVec 3) (src : Bool) (imm : BitVec 7) (disp : BitVec 14) : Word :=
  op ++ BitVec.ofBool annul ++ rel ++ BitVec.ofBool src ++ imm ++ disp

/-- The register operation of a REG-group function code (R77). -/
def decodeReg (t : Tid) (f : Nat) : Option Instr :=
  match f with
  | 0x00 => some (.nop t)
  | 0x01 => some (.neg t)
  | 0x02 => some (.not t)
  | 0x03 => some (.mvXa t)
  | 0x04 => some (.mvYa t)
  | 0x05 => some (.mvAx t)
  | 0x06 => some (.mvAy t)
  | 0x07 => some (.mvYx t)
  | 0x08 => some (.mvXy t)
  | 0x09 => some (.clz t)
  | 0x10 => some (.fneg t)
  | 0x11 => some (.fabs t)
  | 0x12 => some (.ftoi t)
  | 0x13 => some (.ftou t)
  | 0x14 => some (.itof t)
  | 0x15 => some (.utof t)
  | _ => none

/-- The barrier of an operand field of FENCE (R76, R89). -/
def decodeFence (t : Tid) (o : Nat) : Option Instr :=
  match o with
  | 0 => some (.fenceC t)
  | 1 => some (.fenceH t)
  | 2 => some (.fenceS t)
  | _ => none

/-- The instruction of the control class: MODE = 0b000, and the operand field as each lays it out (R74, R77, R89). -/
def decodeControl (t : Tid) (op : Nat) (o : BitVec 23) : Option Instr :=
  match op with
  | 0x38 => decodeFence t o.toNat
  | 0x39 => if o = 0 then some (.msync t) else none
  | 0x3A => if o = 0 then some (.halt t) else none
  | 0x3E => decodeReg t o.toNat
  | _ => none

/-- The instruction of an opcode in the memory/ALU format that takes an operand (R76); whether it accepts the mode is for
its meaning to say (R74). -/
def decodeMem (t : Tid) (op : Nat) (m : BitVec 3) (o : BitVec 23) : Option Instr :=
  match op with
  | 0x01 => some (.ldA t m o)
  | 0x02 => some (.ldX t m o)
  | 0x03 => some (.ldY t m o)
  | 0x04 => some (.stA t m o)
  | 0x05 => some (.stX t m o)
  | 0x06 => some (.stY t m o)
  | 0x07 => some (.ldBu t m o)
  | 0x08 => some (.ldHu t m o)
  | 0x09 => some (.stB t m o)
  | 0x0A => some (.stH t m o)
  | 0x0B => some (.lea t m o)
  | 0x0C => some (.ldhi t m o)
  | 0x0D => some (.add t m o)
  | 0x0E => some (.addc t m o)
  | 0x0F => some (.sub t m o)
  | 0x10 => some (.subb t m o)
  | 0x11 => some (.and t m o)
  | 0x12 => some (.or t m o)
  | 0x13 => some (.xor t m o)
  | 0x14 => some (.cmp t m o)
  | 0x15 => some (.tst t m o)
  | 0x16 => some (.shl t m o)
  | 0x17 => some (.shr t m o)
  | 0x18 => some (.sar t m o)
  | 0x19 => some (.rol t m o)
  | 0x1A => some (.mul t m o)
  | 0x1B => some (.mulh t m o)
  | 0x1C => some (.div t m o)
  | 0x1D => some (.divu t m o)
  | 0x1E => some (.rem t m o)
  | 0x1F => some (.remu t m o)
  | 0x20 => some (.fadd t m o)
  | 0x21 => some (.fsub t m o)
  | 0x22 => some (.fmul t m o)
  | 0x23 => some (.fdiv t m o)
  | 0x24 => some (.fsqrt t m o)
  | 0x25 => some (.fcmp t m o)
  | 0x26 => some (.addX t m o)
  | 0x27 => some (.addY t m o)
  | 0x28 => some (.cmpX t m o)
  | 0x29 => some (.cmpY t m o)
  | 0x2A => some (.ldq t m o)
  | 0x2B => some (.ldw t m o)
  | 0x2C => some (.stq t m o)
  | 0x2D => some (.stqe t m o)
  | 0x2E => some (.stw t m o)
  | 0x2F => some (.stwe t m o)
  | 0x30 => some (.cas t m o)
  | 0x31 => some (.swap t m o)
  | 0x32 => some (.waitev t m o)
  | 0x35 => some (.goi t m o)
  | _ => if m = 0 then decodeControl t op o else none

/-- The instruction that a word spells for thread t; a word that spells none is an illegal instruction (R70, R76). -/
def decodeThreadWord (t : Tid) (w : Word) : Instr :=
  let annul := w.getLsbD 25
  match (w.extractLsb' 26 6).toNat with
  | 0x33 => .goCc t annul (w.extractLsb' 21 4) (w.extractLsb' 0 21)
  | 0x34 => .gol t annul (w.extractLsb' 21 4) (w.extractLsb' 0 21)
  | 0x36 => .cgoA t annul (w.extractLsb' 22 3) (w.getLsbD 21) (w.extractLsb' 14 7) (w.extractLsb' 0 14)
  | 0x37 => .cgoX t annul (w.extractLsb' 22 3) (w.getLsbD 21) (w.extractLsb' 14 7) (w.extractLsb' 0 14)
  | op => (decodeMem t op (w.extractLsb' 23 3) (w.extractLsb' 0 23)).getD (.illegalInstruction t w)

/-- The word of a thread instruction, written from the same tables; none for a command that no word spells. -/
def encodeThreadWord : Instr → Option Word
  | .ldA _ m o => some (memFormat 0x01 m o)
  | .ldX _ m o => some (memFormat 0x02 m o)
  | .ldY _ m o => some (memFormat 0x03 m o)
  | .stA _ m o => some (memFormat 0x04 m o)
  | .stX _ m o => some (memFormat 0x05 m o)
  | .stY _ m o => some (memFormat 0x06 m o)
  | .ldBu _ m o => some (memFormat 0x07 m o)
  | .ldHu _ m o => some (memFormat 0x08 m o)
  | .stB _ m o => some (memFormat 0x09 m o)
  | .stH _ m o => some (memFormat 0x0A m o)
  | .lea _ m o => some (memFormat 0x0B m o)
  | .ldhi _ m o => some (memFormat 0x0C m o)
  | .add _ m o => some (memFormat 0x0D m o)
  | .addc _ m o => some (memFormat 0x0E m o)
  | .sub _ m o => some (memFormat 0x0F m o)
  | .subb _ m o => some (memFormat 0x10 m o)
  | .and _ m o => some (memFormat 0x11 m o)
  | .or _ m o => some (memFormat 0x12 m o)
  | .xor _ m o => some (memFormat 0x13 m o)
  | .cmp _ m o => some (memFormat 0x14 m o)
  | .tst _ m o => some (memFormat 0x15 m o)
  | .shl _ m o => some (memFormat 0x16 m o)
  | .shr _ m o => some (memFormat 0x17 m o)
  | .sar _ m o => some (memFormat 0x18 m o)
  | .rol _ m o => some (memFormat 0x19 m o)
  | .mul _ m o => some (memFormat 0x1A m o)
  | .mulh _ m o => some (memFormat 0x1B m o)
  | .div _ m o => some (memFormat 0x1C m o)
  | .divu _ m o => some (memFormat 0x1D m o)
  | .rem _ m o => some (memFormat 0x1E m o)
  | .remu _ m o => some (memFormat 0x1F m o)
  | .fadd _ m o => some (memFormat 0x20 m o)
  | .fsub _ m o => some (memFormat 0x21 m o)
  | .fmul _ m o => some (memFormat 0x22 m o)
  | .fdiv _ m o => some (memFormat 0x23 m o)
  | .fsqrt _ m o => some (memFormat 0x24 m o)
  | .fcmp _ m o => some (memFormat 0x25 m o)
  | .addX _ m o => some (memFormat 0x26 m o)
  | .addY _ m o => some (memFormat 0x27 m o)
  | .cmpX _ m o => some (memFormat 0x28 m o)
  | .cmpY _ m o => some (memFormat 0x29 m o)
  | .ldq _ m o => some (memFormat 0x2A m o)
  | .ldw _ m o => some (memFormat 0x2B m o)
  | .stq _ m o => some (memFormat 0x2C m o)
  | .stqe _ m o => some (memFormat 0x2D m o)
  | .stw _ m o => some (memFormat 0x2E m o)
  | .stwe _ m o => some (memFormat 0x2F m o)
  | .cas _ m o => some (memFormat 0x30 m o)
  | .swap _ m o => some (memFormat 0x31 m o)
  | .waitev _ m o => some (memFormat 0x32 m o)
  | .goi _ m o => some (memFormat 0x35 m o)
  | .nop _ => some (memFormat 0x3E 0 0x00)
  | .neg _ => some (memFormat 0x3E 0 0x01)
  | .not _ => some (memFormat 0x3E 0 0x02)
  | .mvXa _ => some (memFormat 0x3E 0 0x03)
  | .mvYa _ => some (memFormat 0x3E 0 0x04)
  | .mvAx _ => some (memFormat 0x3E 0 0x05)
  | .mvAy _ => some (memFormat 0x3E 0 0x06)
  | .mvYx _ => some (memFormat 0x3E 0 0x07)
  | .mvXy _ => some (memFormat 0x3E 0 0x08)
  | .clz _ => some (memFormat 0x3E 0 0x09)
  | .fneg _ => some (memFormat 0x3E 0 0x10)
  | .fabs _ => some (memFormat 0x3E 0 0x11)
  | .ftoi _ => some (memFormat 0x3E 0 0x12)
  | .ftou _ => some (memFormat 0x3E 0 0x13)
  | .itof _ => some (memFormat 0x3E 0 0x14)
  | .utof _ => some (memFormat 0x3E 0 0x15)
  | .fenceC _ => some (memFormat 0x38 0 0)
  | .fenceH _ => some (memFormat 0x38 0 1)
  | .fenceS _ => some (memFormat 0x38 0 2)
  | .msync _ => some (memFormat 0x39 0 0)
  | .halt _ => some (memFormat 0x3A 0 0)
  | .goCc _ a c d => some (branchWord 0x33 a c d)
  | .gol _ a c d => some (branchWord 0x34 a c d)
  | .cgoA _ a r s i d => some (compareWord 0x36 a r s i d)
  | .cgoX _ a r s i d => some (compareWord 0x37 a r s i d)
  | _ => none

/-! ## Pin-engine words, version 0x02 (R247) -/

/-- The pin-engine format: OP[31:26], DD[25:23], DS[22:20], F[19:16], IMM[15:0]. -/
def pinWord (op : BitVec 6) (dd ds : BitVec 3) (f : BitVec 4) (imm : BitVec 16) : Word := op ++ dd ++ ds ++ f ++ imm

/-- The fields of a pin-engine word. -/
structure PinFields where
  op : Nat
  dd : BitVec 3
  ds : BitVec 3
  f : BitVec 4
  imm : BitVec 16
  deriving DecidableEq, Repr

def pinFields (w : Word) : PinFields :=
  ⟨(w.extractLsb' 26 6).toNat, w.extractLsb' 23 3, w.extractLsb' 20 3, w.extractLsb' 16 4, w.extractLsb' 0 16⟩

/-- The command, where the fields it does not use are 0 (R247). -/
def onlyIf (b : Bool) (i : Instr) : Option Instr := if b then some i else none

/-- The assist function of an ASN word (R250): a lane function has its lane in IMM[15:14], a channel function 0 there. -/
def decodeAssist (ch : Chan) (p : PinFields) : Option Instr :=
  let lane : BitVec 2 := p.imm.extractLsb' 14 2
  let rest : BitVec 14 := p.imm.extractLsb' 0 14
  let noDd := p.dd == 0
  let noRest := rest == 0
  let noLane := lane == 0
  if p.ds ≠ 0 then none
  else match p.f.toNat with
    | 0x0 => onlyIf (noDd && noRest) (.crci ch lane)
    | 0x1 => onlyIf noRest (.rdca ch p.dd lane)
    | 0x2 => onlyIf noRest (.rdcb ch p.dd lane)
    | 0x3 => onlyIf (noDd && rest.extractLsb' 8 6 == 0 && rest.extractLsb' 2 2 == 0)
               (.stmode ch lane (rest.extractLsb' 0 2) (rest.extractLsb' 4 4))
    | 0x4 => onlyIf noRest (.stcnt ch p.dd lane)
    | 0x5 => onlyIf (noDd && noLane && rest.extractLsb' 1 13 == 0) (.bset ch (rest.getLsbD 0))
    | 0x6 => onlyIf (noDd && noLane && rest.extractLsb' 1 13 == 0) (.ben ch (rest.getLsbD 0))
    | 0x7 => onlyIf (noDd && noLane && rest.extractLsb' 2 12 == 0) (.hsync ch (rest.extractLsb' 0 2))
    | 0x8 => onlyIf (noLane && noRest) (.bstat ch p.dd)
    | 0x9 => onlyIf (noDd && noRest) (.tsclr ch lane)
    | _ => none

/-- The pin-engine instruction of the fields of a word (R248, R249); a field that only some forms of an instruction use is
for its meaning to check. -/
def decodePin (ch : Chan) (p : PinFields) : Option Instr :=
  let useImm := p.f.getLsbD 0
  let aluForm := p.f.extractLsb' 1 3 == 0
  let lane : BitVec 2 := p.f.extractLsb' 0 2
  let highF := p.f.extractLsb' 2 2 == 0
  let noDd := p.dd == 0
  let noDs := p.ds == 0
  let noF := p.f == 0
  let noImm := p.imm == 0
  let target : BitVec 10 := p.imm.extractLsb' 0 10
  let noHigh := p.imm.extractLsb' 10 6 == 0
  match p.op with
  | 0x01 =>
    if p.f = 0 then onlyIf noDs (.movi ch p.dd p.imm)
    else if p.f = 1 then onlyIf noDs (.movh ch p.dd p.imm)
    else none
  | 0x02 => onlyIf (noF && noImm) (.mov ch p.dd p.ds)
  | 0x03 => onlyIf aluForm (.peAdd ch p.dd p.ds useImm p.imm)
  | 0x04 => onlyIf aluForm (.peSub ch p.dd p.ds useImm p.imm)
  | 0x05 => onlyIf aluForm (.peAnd ch p.dd p.ds useImm p.imm)
  | 0x06 => onlyIf aluForm (.peOr ch p.dd p.ds useImm p.imm)
  | 0x07 => onlyIf aluForm (.peXor ch p.dd p.ds useImm p.imm)
  | 0x08 => onlyIf aluForm (.peShl ch p.dd p.ds useImm p.imm)
  | 0x09 => onlyIf aluForm (.peShr ch p.dd p.ds useImm p.imm)
  | 0x0A => onlyIf aluForm (.peCmp ch p.dd p.ds useImm p.imm)
  | 0x0B => onlyIf (noDs && noHigh) (.br ch p.f p.dd target)
  | 0x0C => onlyIf (noDs && noF && noHigh) (.djnz ch p.dd target)
  | 0x10 => onlyIf (p.imm.extractLsb' 2 14 == 0) (.drive ch p.dd p.ds p.f (p.imm.extractLsb' 0 2))
  | 0x11 => onlyIf (noDs && highF && noImm) (.sample ch p.dd lane)
  | 0x12 => onlyIf (noDd && !p.f.getLsbD 2 && noImm) (.waite ch lane (p.f.getLsbD 3) p.ds)
  | 0x13 => onlyIf (noDs && noF && noImm) (.waitt ch p.dd)
  | 0x14 => onlyIf (noDs && highF && p.imm.extractLsb' 2 14 == 0) (.tstamp ch p.dd lane (p.imm.getLsbD 0) (p.imm.getLsbD 1))
  | 0x15 => onlyIf (noDs && noF && noImm) (.rdc ch p.dd)
  | 0x18 =>
    if p.f.getLsbD 1 then onlyIf (noDs && highF && noImm) (.tpull ch p.dd (p.f.getLsbD 0))
    else onlyIf (noDs && highF && noImm) (.pull ch p.dd (p.f.getLsbD 0))
  | 0x19 => onlyIf (noDs && highF && p.imm.extractLsb' 8 8 == 0)
              (.push ch p.dd (p.f.getLsbD 0) (p.f.getLsbD 1) (p.imm.extractLsb' 0 4) (p.imm.extractLsb' 4 4))
  | 0x1A => onlyIf (noDs && noF && noImm) (.tag ch p.dd)
  | 0x1C => onlyIf (noDd && noF && p.imm.extractLsb' 6 10 == 0) (.shtx ch p.ds (p.imm.extractLsb' 0 6))
  | 0x1D => onlyIf (noDs && noF && p.imm.extractLsb' 6 10 == 0) (.shrx ch p.dd (p.imm.extractLsb' 0 6))
  | 0x1E => decodeAssist ch p
  | 0x1F => onlyIf (noDd && noDs && noF && noImm) (.evt ch)
  | 0x20 => onlyIf (noDd && noF && noHigh) (.wrap ch p.ds target)
  | 0x21 => onlyIf (noDd && noDs && noF && noImm) (.peHalt ch)
  | _ => none

/-- The instruction that a word spells for channel ch; a word that spells none is illegal (R248, R251). -/
def decodePinWord (ch : Chan) (w : Word) : Instr := (decodePin ch (pinFields w)).getD (.peIllegal ch w)

/-- The fields that a form of a pin-engine instruction does not use are 0, its condition and its bit count are known
(R248, R249, R251). -/
def Instr.pinLegal : Instr → Bool
  | .br _ f dd _ => decide (f.toNat < 10) && (if 5 ≤ f.toNat ∧ f.toNat ≤ 7 then !dd.getLsbD 2 else dd == 0)
  | .drive _ dd ds f imm => (f.getLsbD 3 || dd == 0) && (if f.getLsbD 2 then imm == 0 else ds == 0)
  | .waite _ _ timed ds => timed || ds == 0
  | .shtx _ _ n => decide (1 ≤ n.toNat) && decide (n.toNat ≤ 32)
  | .shrx _ _ n => decide (1 ≤ n.toNat) && decide (n.toNat ≤ 32)
  | .peAdd _ _ ds u imm => if u then ds == 0 else imm == 0
  | .peSub _ _ ds u imm => if u then ds == 0 else imm == 0
  | .peAnd _ _ ds u imm => if u then ds == 0 else imm == 0
  | .peOr _ _ ds u imm => if u then ds == 0 else imm == 0
  | .peXor _ _ ds u imm => if u then ds == 0 else imm == 0
  | .peShl _ _ ds u imm => if u then ds == 0 else imm == 0
  | .peShr _ _ ds u imm => if u then ds == 0 else imm == 0
  | .peCmp _ _ ds u imm => if u then ds == 0 else imm == 0
  | _ => true

/-- A word is a legal pin-engine instruction (R251). -/
def pinWordOk (w : Word) : Bool := (decodePin 0 (pinFields w)).any Instr.pinLegal

/-- The word of an assist function. -/
def assistWord (f : BitVec 4) (dd : BitVec 3) (lane : BitVec 2) (rest : BitVec 14) : Word := pinWord 0x1E dd 0 f (lane ++ rest)

/-- The word of a pin-engine instruction, written from the same tables; none for a command that no word spells. -/
def encodePinWord : Instr → Option Word
  | .movi _ dd imm => some (pinWord 0x01 dd 0 0 imm)
  | .movh _ dd imm => some (pinWord 0x01 dd 0 1 imm)
  | .mov _ dd ds => some (pinWord 0x02 dd ds 0 0)
  | .peAdd _ dd ds u imm => some (pinWord 0x03 dd ds ((0 : BitVec 3) ++ BitVec.ofBool u) imm)
  | .peSub _ dd ds u imm => some (pinWord 0x04 dd ds ((0 : BitVec 3) ++ BitVec.ofBool u) imm)
  | .peAnd _ dd ds u imm => some (pinWord 0x05 dd ds ((0 : BitVec 3) ++ BitVec.ofBool u) imm)
  | .peOr _ dd ds u imm => some (pinWord 0x06 dd ds ((0 : BitVec 3) ++ BitVec.ofBool u) imm)
  | .peXor _ dd ds u imm => some (pinWord 0x07 dd ds ((0 : BitVec 3) ++ BitVec.ofBool u) imm)
  | .peShl _ dd ds u imm => some (pinWord 0x08 dd ds ((0 : BitVec 3) ++ BitVec.ofBool u) imm)
  | .peShr _ dd ds u imm => some (pinWord 0x09 dd ds ((0 : BitVec 3) ++ BitVec.ofBool u) imm)
  | .peCmp _ dd ds u imm => some (pinWord 0x0A dd ds ((0 : BitVec 3) ++ BitVec.ofBool u) imm)
  | .br _ f dd t => some (pinWord 0x0B dd 0 f ((0 : BitVec 6) ++ t))
  | .djnz _ dd t => some (pinWord 0x0C dd 0 0 ((0 : BitVec 6) ++ t))
  | .drive _ dd ds f imm => some (pinWord 0x10 dd ds f ((0 : BitVec 14) ++ imm))
  | .sample _ dd l => some (pinWord 0x11 dd 0 ((0 : BitVec 2) ++ l) 0)
  | .waite _ l timed ds => some (pinWord 0x12 0 ds (BitVec.ofBool timed ++ (0 : BitVec 1) ++ l) 0)
  | .waitt _ dd => some (pinWord 0x13 dd 0 0 0)
  | .tstamp _ dd l low pop =>
    some (pinWord 0x14 dd 0 ((0 : BitVec 2) ++ l) ((0 : BitVec 14) ++ BitVec.ofBool pop ++ BitVec.ofBool low))
  | .rdc _ dd => some (pinWord 0x15 dd 0 0 0)
  | .pull _ dd s => some (pinWord 0x18 dd 0 ((0 : BitVec 3) ++ BitVec.ofBool s) 0)
  | .tpull _ dd s => some (pinWord 0x18 dd 0 ((1 : BitVec 3) ++ BitVec.ofBool s) 0)
  | .push _ dd s e prio kind =>
    some (pinWord 0x19 dd 0 ((0 : BitVec 2) ++ BitVec.ofBool e ++ BitVec.ofBool s) ((0 : BitVec 8) ++ kind ++ prio))
  | .tag _ dd => some (pinWord 0x1A dd 0 0 0)
  | .shtx _ ds n => some (pinWord 0x1C 0 ds 0 ((0 : BitVec 10) ++ n))
  | .shrx _ dd n => some (pinWord 0x1D dd 0 0 ((0 : BitVec 10) ++ n))
  | .crci _ l => some (assistWord 0x0 0 l 0)
  | .rdca _ dd l => some (assistWord 0x1 dd l 0)
  | .rdcb _ dd l => some (assistWord 0x2 dd l 0)
  | .stmode _ l m n => some (assistWord 0x3 0 l ((0 : BitVec 6) ++ n ++ (0 : BitVec 2) ++ m))
  | .stcnt _ dd l => some (assistWord 0x4 dd l 0)
  | .bset _ b => some (assistWord 0x5 0 0 ((0 : BitVec 13) ++ BitVec.ofBool b))
  | .ben _ b => some (assistWord 0x6 0 0 ((0 : BitVec 13) ++ BitVec.ofBool b))
  | .hsync _ k => some (assistWord 0x7 0 0 ((0 : BitVec 12) ++ k))
  | .bstat _ dd => some (assistWord 0x8 dd 0 0)
  | .tsclr _ l => some (assistWord 0x9 0 l 0)
  | .evt _ => some (pinWord 0x1F 0 0 0 0)
  | .wrap _ ds t => some (pinWord 0x20 0 ds 0 ((0 : BitVec 6) ++ t))
  | .peHalt _ => some (pinWord 0x21 0 0 0 0)
  | _ => none

end Sys2Proof
end

