-- ==== Sys2Proof/Config.lean ====
section
/-!
DEFINITION. The free values: what the spec leaves open although the machine goes on.  Each is a constant without a
body, applied to a plain counter of the state (`State.fresh`) or to the operands it depends on: no proof can see it.
-/

namespace Sys2Proof.Config

/-- How many instructions a misprediction squashed: it depends on the slots the thread held meanwhile (R54, R66), which
this model does not time; its meaning keeps the limit of the rule (at most 6).  Log entry 6. -/
opaque squashed : Nat → Nat

/-- Whether a displayed or derived time-base quantity is rounded up: the spec gives exact formulas (R310, R311, R322)
and no rounding; the value shown is the floor or the floor plus one.  Log entry 8. -/
opaque roundUp : Nat → Bool

/-- What a supplied program takes from its compiled text, which is not in the manual (R280): a choice per use, by the
model's own counter.  Log entry 20. -/
opaque option : Nat → BitVec 32

/-- The options an instance of a supplied program was built with (R280): the channel and the option's number in this
model, which Machine/BusPrograms.lean names.  Log entry 20. -/
opaque builtWith : Nat → Nat → BitVec 32

/-- The supplied channel programs (R279). -/
inductive BusProgram where
  | canfd | canxl | lin | sent | psi5 | t1s | mdio | spi | tws | uart | pwm | hallcap | quadcap | zxcap
  deriving DecidableEq, Repr, Inhabited

/-- The program that an instance runs: its text is not in the manual (R279, R280).  Log entry 20. -/
opaque program : Nat → BusProgram

/-- How many words the packet of source 0 has whose first word is given, for a program whose packet layout the manual does
not give (MDIO, SPI, TWS; R281, R295, R296).  Log entry 20. -/
opaque packetWords : Nat → BitVec 32 → Nat

/-- The bits that a packet of MDIO or TWS puts on its data lane, first first; none for a start or a repeated start: the
layout of such packets is not in the manual (R295, R296).  Log entry 20. -/
opaque busBits : Nat → List (BitVec 32) → List (Option Bool)

/-- The level of PARTNER_OK in as it is sampled: a pin that no command of the table carries (R438, R439, R535).  Log
entry 30. -/
opaque partnerOkIn : Nat → Bool

/-- The residence time, in units of 2^-16 ns, that a PROBE reply carries: it depends on the link's timing (R421), which
this model leaves out.  Log entry 31. -/
opaque residence : Nat → BitVec 64

/-- The straps BOOT_CFG and BOOT_HOLD as sampled at the release of a reload that no command of the table carries them for
(R467, R481): bits [7:0] and bit 8.  Log entry 32. -/
opaque bootPins : Nat → BitVec 9

/-- Whether a load on the path predicted for the last branch had issued before that branch resolved, by the model's counter
`fresh`: slot timing (R53, R56). Log entry 6 (DESIGN CHOICE). -/
opaque earlyLoad : Nat → Bool

/-- In how many of the 16 cycles after its own the n-th replacement of a pinned directory entry takes effect (R379). Log
entry 43 (DEDUCED). -/
opaque replaceDelay : Nat → BitVec 4

/-- Whether the pipeline lets a thread issue in a cycle as far as only its next instruction's word and the pipeline's timing
say: the scoreboard, a free far-access entry, a branch that resolves (R33). Log entry 23 (DESIGN CHOICE). -/
opaque pipelineReady : Nat → Nat → Bool

/-- The block has seen no edge of the pad guard's clock for 64 cycles: a clock of the PHY interface (R438). Log entry 30
(DESIGN CHOICE). -/
opaque guardClockLost : Nat → Bool

end Sys2Proof.Config
end

