-- ==== Sys2Proof/Machine/RegMap.lean ====
section
/-!
DEFINITION. The control registers of the register index (R558, 19_address_map.md): one constructor of `RegKind` per
register of the index, its place (offset from 0x0500_0000, instances and strides) and its fields with their access
codes (R9) and image mark (R8), as the field tables of the chapters give them.  A field's reset value stands in
`State.reset`; every field not named here is reserved, reads 0 and ignores writes (R11).
-/

namespace Sys2Proof.Machine

/-- Access codes (R9). -/
inductive Acc where
  | ro | rw | rws | w1c | wo | rc
  deriving DecidableEq, Repr

/-- One field of a control register: lowest bit, width, access code (R9), and whether its Reset column reads "image"
(R8). -/
structure FieldDesc where
  lo : Nat
  len : Nat
  acc : Acc
  image : Bool
  deriving DecidableEq, Repr

/-- A register of the index: offset of instance (0, 0), instance counts and strides, fields. -/
structure RegDesc where
  base : Nat
  n : Nat
  stride : Nat
  m : Nat
  mstride : Nat
  fields : List FieldDesc
  deriving DecidableEq, Repr

/-- The registers of the register index (R558). -/
inductive RegKind where
  | blkVersion | blkNodeid | blkFeat0 | blkFeat1 | blkFeat2 | blkFeat3 | sltTab | sltAct | sltCtl | sltPred
  | sltStat | sltIdlecnt | sltSqcnt | thrPc | thrA | thrX | thrY | thrTp | thrCfg | thrRole | thrCtl
  | thrStat | thrFault | thrFq | lckFaddr | lckFcmd | lckFstat | lckWatch | lckCnt | memBcfg | memHandover
  | memOwner | memRet | memWipe | memEcc | memNown | memConf | memClecc | evmCsel | evmCdest | evmOvr
  | evmSwset | evmOvrcnt | qeQcfg | qeQstat | qeQlevel | qeQevt | qeFlush | qeSlaglost | qeSlagcnt | qeQuad
  | qeOwnlim | qeOwnstat | qeOwncfg | qeOwnfuse | ringBasel | ringBaseh | ringCfg | ringIdx | ringStat
  | peCst | peCsa | peEctl | pePmaddr | pePmdata | peEstat | peCcfg | peCctl | peCstat | peWrap | peLanes
  | peQsrc | peQsnk | peBitcfg | peBitpa | peBitsa | peBitpb | peBitsb | peVote | peCerr | pePad | peSamp
  | peRbk | peStuff | peCrcpa | peCrcpb | peCrcia | peCrcib | peCrccfg | peTscfg | peFence | pePstat | tbCfg
  | tbStat | tbVall | tbValh | tbRatel | tbRateh | tbPhil | tbPhih | tbCorr | tbMon | tbServo | tbPred
  | tbRange | tbObsto | tbWin | tbRefcfg | tbRefarg | tbRefoff | tbRefstat | tbT0inc | tbPort | tbPortl
  | tbPorth | tskSel | tskCfg | tskPerl | tskPerh | tskT0l | tskT0h | tskDest | tskStat | tskCmd | tskDone
  | taHor | taNq | taCnt | taUse | taP0 | taP1 | taP2 | taP3 | taP4 | taPstat | sigCfg | sigBasel | sigBaseh
  | sigSize | sigStat | sigInv | sigPw | sigPwcmd | sigCnt | sigChm | sigChc | sigChd | belHcfg | belHstat
  | belTbnd | belTiss | belTwait | pwrDreq | pwrDstat | pwrHold | pwrWake | chnLctl | chnLstat | chnLdly
  | chnLcnt | chnRt | chnRwin | chnTcfg | chnEgr | chnCnt | chnTxbl | chnTxbh | chnRxbl | chnRxbh | chnTuncfg
  | chnTunstat | mirCfg | mirTim | mirStat | mirCmd | mirSent | mirAcked | mirCnt | mirShd | mirShp | mirChm
  | mirTskm | fltScfg | fltScnt | fltSlast | fltAlm | fltAcause | fltStat | fltInj | embCal0 | embCal1
  | embCal2 | embSet0 | embSet1 | embCalcmd | embCalerr | embTaioff | embStat | embWcfg | embWstat
  | embWtimer | embScr | bootStat | bootSeq | bootCause | bootStrap | bootTcrit | bootTfull | bootCtl
  | bootHstat | bootDigest | hstSbase | hstPbasel | hstPbaseh | hstCfg | hstVaddrl | hstVaddrh | hstVdata
  | hstVctl | hstVstat | hstSvccfg | hstHerr
  deriving DecidableEq, Repr

/-- Place and fields of each register, from the field table of its chapter (R558). -/
def RegKind.desc : RegKind → RegDesc
  -- R2, 00_scope.md
  | .blkVersion => ⟨0x0, 1, 0x0, 1, 0x0,
      [⟨16, 16, .ro, false⟩, ⟨8, 8, .ro, false⟩, ⟨0, 8, .ro, false⟩]⟩
  -- R23, 01_organisation.md
  | .blkNodeid => ⟨0x10, 1, 0x0, 1, 0x0,
      [⟨31, 1, .ro, false⟩, ⟨4, 14, .rws, true⟩, ⟨0, 4, .rws, true⟩]⟩
  -- R100, 03_instruction_set.md
  | .blkFeat0 => ⟨0x20, 1, 0x0, 1, 0x0,
      [⟨24, 8, .ro, false⟩, ⟨16, 8, .ro, false⟩, ⟨15, 1, .ro, false⟩, ⟨14, 1, .ro, false⟩, ⟨13, 1, .ro, false⟩, ⟨12, 1, .ro, false⟩, ⟨11, 1, .ro, false⟩, ⟨0, 6, .ro, false⟩]⟩
  -- R101, 03_instruction_set.md
  | .blkFeat1 => ⟨0x24, 1, 0x0, 1, 0x0,
      [⟨24, 8, .ro, false⟩, ⟨20, 4, .ro, false⟩, ⟨16, 4, .ro, false⟩, ⟨8, 3, .ro, false⟩, ⟨0, 5, .ro, false⟩]⟩
  -- R102, 03_instruction_set.md
  | .blkFeat2 => ⟨0x28, 1, 0x0, 1, 0x0,
      [⟨28, 4, .ro, false⟩, ⟨12, 4, .ro, false⟩, ⟨0, 8, .ro, false⟩]⟩
  -- R103, 03_instruction_set.md
  | .blkFeat3 => ⟨0x2C, 1, 0x0, 1, 0x0,
      [⟨8, 4, .ro, false⟩, ⟨6, 1, .ro, false⟩, ⟨5, 1, .ro, false⟩, ⟨4, 1, .ro, false⟩, ⟨3, 1, .ro, false⟩, ⟨2, 1, .ro, false⟩, ⟨1, 1, .ro, false⟩, ⟨0, 1, .ro, false⟩]⟩
  -- R59, 02_barrel_cores.md
  | .sltTab => ⟨0x10000, 32, 0x80, 8, 0x4,
      [⟨24, 8, .rw, true⟩, ⟨16, 8, .rw, true⟩, ⟨8, 8, .rw, true⟩, ⟨0, 8, .rw, true⟩]⟩
  -- R59, 02_barrel_cores.md
  | .sltAct => ⟨0x10020, 32, 0x80, 8, 0x4,
      [⟨24, 8, .ro, true⟩, ⟨16, 8, .ro, true⟩, ⟨8, 8, .ro, true⟩, ⟨0, 8, .ro, true⟩]⟩
  -- R62, 02_barrel_cores.md
  | .sltCtl => ⟨0x10040, 32, 0x80, 1, 0x0,
      [⟨3, 1, .rw, true⟩, ⟨2, 1, .ro, false⟩, ⟨1, 1, .ro, false⟩, ⟨0, 1, .wo, false⟩]⟩
  -- R63, 02_barrel_cores.md
  | .sltPred => ⟨0x10044, 32, 0x80, 1, 0x0,
      [⟨16, 16, .rw, false⟩, ⟨12, 1, .wo, false⟩, ⟨8, 2, .ro, false⟩]⟩
  -- R64, 02_barrel_cores.md
  | .sltStat => ⟨0x10048, 32, 0x80, 1, 0x0,
      [⟨16, 16, .ro, false⟩, ⟨0, 5, .ro, false⟩]⟩
  -- R65, 02_barrel_cores.md
  | .sltIdlecnt => ⟨0x1004C, 32, 0x80, 1, 0x0,
      [⟨0, 32, .rc, false⟩]⟩
  -- R66, 02_barrel_cores.md
  | .sltSqcnt => ⟨0x10050, 32, 0x80, 1, 0x0,
      [⟨0, 32, .rc, false⟩]⟩
  -- R148, 05_threads_and_locks.md
  | .thrPc => ⟨0x11000, 512, 0x40, 1, 0x0,
      [⟨2, 30, .rw, true⟩]⟩
  -- R149, 05_threads_and_locks.md
  | .thrA => ⟨0x11004, 512, 0x40, 1, 0x0,
      [⟨0, 32, .rw, false⟩]⟩
  -- R149, 05_threads_and_locks.md
  | .thrX => ⟨0x11008, 512, 0x40, 1, 0x0,
      [⟨0, 32, .rw, false⟩]⟩
  -- R149, 05_threads_and_locks.md
  | .thrY => ⟨0x1100C, 512, 0x40, 1, 0x0,
      [⟨0, 32, .rw, false⟩]⟩
  -- R150, 05_threads_and_locks.md
  | .thrTp => ⟨0x11010, 512, 0x40, 1, 0x0,
      [⟨12, 6, .rw, true⟩]⟩
  -- R151, 05_threads_and_locks.md
  | .thrCfg => ⟨0x11014, 512, 0x40, 1, 0x0,
      [⟨9, 1, .rw, true⟩, ⟨8, 1, .rw, true⟩, ⟨0, 4, .rw, true⟩]⟩
  -- R152, 05_threads_and_locks.md
  | .thrRole => ⟨0x11018, 512, 0x40, 1, 0x0,
      [⟨16, 16, .rw, true⟩, ⟨0, 16, .ro, false⟩]⟩
  -- R153, 05_threads_and_locks.md
  | .thrCtl => ⟨0x1101C, 512, 0x40, 1, 0x0,
      [⟨1, 1, .wo, false⟩, ⟨0, 1, .wo, false⟩]⟩
  -- R154, 05_threads_and_locks.md
  | .thrStat => ⟨0x11020, 512, 0x40, 1, 0x0,
      [⟨16, 4, .ro, true⟩, ⟨12, 1, .ro, false⟩, ⟨11, 1, .ro, false⟩, ⟨10, 1, .w1c, false⟩, ⟨9, 1, .ro, false⟩, ⟨8, 1, .w1c, false⟩, ⟨0, 3, .ro, false⟩]⟩
  -- R155, 05_threads_and_locks.md
  | .thrFault => ⟨0x11024, 512, 0x40, 1, 0x0,
      [⟨24, 8, .ro, false⟩, ⟨0, 1, .w1c, false⟩]⟩
  -- R156, 05_threads_and_locks.md
  | .thrFq => ⟨0x19000, 32, 0x4, 1, 0x0,
      [⟨0, 14, .rws, true⟩]⟩
  -- R157, 05_threads_and_locks.md
  | .lckFaddr => ⟨0x20000, 32, 0x10, 1, 0x0,
      [⟨2, 30, .rw, false⟩]⟩
  -- R158, 05_threads_and_locks.md
  | .lckFcmd => ⟨0x20004, 32, 0x10, 1, 0x0,
      [⟨31, 1, .wo, false⟩, ⟨0, 9, .wo, false⟩]⟩
  -- R159, 05_threads_and_locks.md
  | .lckFstat => ⟨0x20008, 32, 0x10, 1, 0x0,
      [⟨31, 1, .ro, false⟩, ⟨0, 4, .ro, false⟩]⟩
  -- R160, 05_threads_and_locks.md
  | .lckWatch => ⟨0x20200, 1, 0x0, 1, 0x0,
      [⟨16, 16, .rc, false⟩, ⟨0, 13, .ro, false⟩]⟩
  -- R161, 05_threads_and_locks.md
  | .lckCnt => ⟨0x20204, 1, 0x0, 1, 0x0,
      [⟨16, 16, .rc, false⟩, ⟨8, 8, .rc, false⟩, ⟨0, 8, .rc, false⟩]⟩
  -- R191, 06_memories_and_ordering.md
  | .memBcfg => ⟨0x30000, 16, 0x100, 1, 0x0,
      [⟨9, 1, .rws, true⟩, ⟨8, 1, .rws, true⟩, ⟨0, 6, .rws, true⟩]⟩
  -- R192, 06_memories_and_ordering.md
  | .memHandover => ⟨0x30004, 16, 0x100, 1, 0x0,
      [⟨31, 1, .wo, false⟩, ⟨8, 1, .wo, false⟩, ⟨0, 6, .wo, false⟩]⟩
  -- R193, 06_memories_and_ordering.md
  | .memOwner => ⟨0x30008, 16, 0x100, 1, 0x0,
      [⟨31, 1, .ro, false⟩, ⟨30, 1, .w1c, false⟩, ⟨8, 6, .ro, false⟩, ⟨0, 6, .ro, true⟩]⟩
  -- R194, 06_memories_and_ordering.md
  | .memRet => ⟨0x3000C, 16, 0x100, 1, 0x0,
      [⟨16, 8, .rc, false⟩, ⟨8, 2, .ro, false⟩, ⟨0, 1, .rw, true⟩]⟩
  -- R195, 06_memories_and_ordering.md
  | .memWipe => ⟨0x30010, 16, 0x100, 1, 0x0,
      [⟨31, 1, .w1c, false⟩, ⟨30, 1, .ro, false⟩, ⟨0, 2, .ro, false⟩]⟩
  -- R196, 06_memories_and_ordering.md
  | .memEcc => ⟨0x30014, 16, 0x100, 1, 0x0,
      [⟨24, 8, .rc, false⟩, ⟨16, 8, .rc, false⟩, ⟨15, 1, .ro, false⟩, ⟨0, 7, .ro, false⟩]⟩
  -- R197, 06_memories_and_ordering.md
  | .memNown => ⟨0x30018, 16, 0x100, 1, 0x0,
      [⟨16, 16, .rc, false⟩, ⟨6, 1, .ro, false⟩, ⟨0, 6, .ro, false⟩]⟩
  -- R198, 06_memories_and_ordering.md
  | .memConf => ⟨0x30040, 16, 0x100, 44, 0x4,
      [⟨0, 32, .rc, false⟩]⟩
  -- R196, 06_memories_and_ordering.md
  | .memClecc => ⟨0x31000, 32, 0x10, 1, 0x0,
      [⟨24, 8, .rc, false⟩, ⟨16, 8, .rc, false⟩, ⟨15, 1, .ro, false⟩, ⟨0, 7, .ro, false⟩]⟩
  -- R357, 11_timed_actions.md
  | .evmCsel => ⟨0x40000, 4096, 0x8, 1, 0x0,
      [⟨31, 1, .rw, true⟩, ⟨30, 1, .rw, true⟩, ⟨29, 1, .rw, true⟩, ⟨16, 12, .rw, true⟩, ⟨0, 12, .rw, true⟩]⟩
  -- R357, 11_timed_actions.md
  | .evmCdest => ⟨0x40004, 4096, 0x8, 1, 0x0,
      [⟨18, 4, .rw, true⟩, ⟨14, 4, .rw, true⟩, ⟨0, 14, .rw, true⟩]⟩
  -- R357, 11_timed_actions.md
  | .evmOvr => ⟨0x48000, 128, 0x4, 1, 0x0,
      [⟨0, 32, .w1c, false⟩]⟩
  -- R357, 11_timed_actions.md
  | .evmSwset => ⟨0x49000, 1, 0x0, 1, 0x0,
      [⟨31, 1, .wo, false⟩, ⟨0, 10, .wo, false⟩]⟩
  -- R357, 11_timed_actions.md
  | .evmOvrcnt => ⟨0x49004, 1, 0x0, 1, 0x0,
      [⟨0, 32, .rc, false⟩]⟩
  -- R225, 07_queues.md
  | .qeQcfg => ⟨0x80000, 16384, 0x10, 1, 0x0,
      [⟨31, 1, .rws, true⟩, ⟨30, 1, .rws, true⟩, ⟨29, 1, .rws, true⟩, ⟨28, 1, .rws, true⟩, ⟨27, 1, .rws, true⟩, ⟨24, 3, .rws, true⟩, ⟨15, 9, .rws, true⟩, ⟨0, 15, .rw, true⟩]⟩
  -- R226, 07_queues.md
  | .qeQstat => ⟨0x80004, 16384, 0x10, 1, 0x0,
      [⟨31, 1, .ro, false⟩, ⟨16, 15, .ro, false⟩, ⟨15, 1, .ro, false⟩, ⟨0, 15, .ro, false⟩]⟩
  -- R227, 07_queues.md
  | .qeQlevel => ⟨0x80008, 16384, 0x10, 1, 0x0,
      [⟨31, 1, .rw, true⟩, ⟨30, 1, .rw, true⟩, ⟨0, 15, .rw, true⟩]⟩
  -- R228, 07_queues.md
  | .qeQevt => ⟨0x8000C, 16384, 0x10, 1, 0x0,
      [⟨31, 1, .rw, true⟩, ⟨16, 9, .rw, true⟩, ⟨15, 1, .rw, true⟩, ⟨0, 8, .rw, true⟩]⟩
  -- R229, 07_queues.md
  | .qeFlush => ⟨0xC0000, 1, 0x0, 1, 0x0,
      [⟨31, 1, .wo, false⟩, ⟨0, 14, .wo, false⟩]⟩
  -- R230, 07_queues.md
  | .qeSlaglost => ⟨0xC0004, 1, 0x0, 1, 0x0,
      [⟨0, 32, .rc, false⟩]⟩
  -- R230, 07_queues.md
  | .qeSlagcnt => ⟨0xC0044, 9, 0x4, 1, 0x0,
      [⟨0, 32, .rc, false⟩]⟩
  -- R231, 07_queues.md
  | .qeQuad => ⟨0xC0100, 4, 0x4, 1, 0x0,
      [⟨31, 1, .ro, false⟩, ⟨0, 17, .ro, false⟩]⟩
  -- R232, 07_queues.md
  | .qeOwnlim => ⟨0xC8000, 2055, 0x10, 1, 0x0,
      [⟨14, 18, .rw, true⟩, ⟨0, 14, .rws, true⟩]⟩
  -- R233, 07_queues.md
  | .qeOwnstat => ⟨0xC8004, 2055, 0x10, 1, 0x0,
      [⟨31, 1, .ro, false⟩, ⟨30, 1, .ro, false⟩, ⟨0, 19, .ro, false⟩]⟩
  -- R234, 07_queues.md
  | .qeOwncfg => ⟨0xC8008, 2055, 0x10, 1, 0x0,
      [⟨31, 1, .rw, true⟩, ⟨14, 2, .rws, true⟩, ⟨0, 14, .rw, true⟩]⟩
  -- R235, 07_queues.md
  | .qeOwnfuse => ⟨0xC800C, 2055, 0x10, 1, 0x0,
      [⟨0, 14, .ro, false⟩]⟩
  -- R236, 07_queues.md
  | .ringBasel => ⟨0xE0000, 1024, 0x20, 1, 0x0,
      [⟨6, 26, .rw, true⟩]⟩
  -- R236, 07_queues.md
  | .ringBaseh => ⟨0xE0004, 1024, 0x20, 1, 0x0,
      [⟨0, 16, .rw, true⟩]⟩
  -- R236, 07_queues.md
  | .ringCfg => ⟨0xE0008, 1024, 0x20, 1, 0x0,
      [⟨31, 1, .rw, true⟩, ⟨27, 4, .rw, true⟩, ⟨16, 8, .rw, true⟩, ⟨0, 14, .rw, true⟩]⟩
  -- R236, 07_queues.md
  | .ringIdx => ⟨0xE000C, 1024, 0x20, 1, 0x0,
      [⟨16, 16, .ro, false⟩, ⟨0, 16, .ro, false⟩]⟩
  -- R236, 07_queues.md
  | .ringStat => ⟨0xE0010, 1024, 0x20, 1, 0x0,
      [⟨31, 1, .ro, false⟩, ⟨30, 1, .w1c, false⟩]⟩
  -- R275, 08_pin_engines.md
  | .peCst => ⟨0x100000, 64, 0x800, 4, 0x4,
      [⟨24, 8, .rw, true⟩, ⟨16, 8, .rw, true⟩, ⟨8, 8, .rw, true⟩, ⟨0, 8, .rw, true⟩]⟩
  -- R275, 08_pin_engines.md
  | .peCsa => ⟨0x100010, 64, 0x800, 4, 0x4,
      [⟨24, 8, .ro, true⟩, ⟨16, 8, .ro, true⟩, ⟨8, 8, .ro, true⟩, ⟨0, 8, .ro, true⟩]⟩
  -- R275, 08_pin_engines.md
  | .peEctl => ⟨0x100020, 64, 0x800, 1, 0x0,
      [⟨2, 1, .ro, false⟩, ⟨1, 1, .ro, false⟩, ⟨0, 1, .wo, false⟩]⟩
  -- R275, 08_pin_engines.md
  | .pePmaddr => ⟨0x100024, 64, 0x800, 1, 0x0,
      [⟨0, 10, .rw, false⟩]⟩
  -- R275, 08_pin_engines.md
  | .pePmdata => ⟨0x100028, 64, 0x800, 1, 0x0,
      [⟨0, 32, .rw, false⟩]⟩
  -- R275, 08_pin_engines.md
  | .peEstat => ⟨0x10002C, 64, 0x800, 1, 0x0,
      [⟨24, 8, .rc, false⟩, ⟨16, 8, .rc, false⟩]⟩
  -- R276, 08_pin_engines.md
  | .peCcfg => ⟨0x100100, 64, 0x800, 8, 0x40,
      [⟨22, 10, .rws, true⟩, ⟨16, 5, .rws, true⟩, ⟨8, 1, .rws, true⟩, ⟨7, 1, .rws, true⟩, ⟨6, 1, .rw, true⟩]⟩
  -- R276, 08_pin_engines.md
  | .peCctl => ⟨0x100104, 64, 0x800, 8, 0x40,
      [⟨3, 1, .wo, false⟩, ⟨2, 1, .wo, false⟩, ⟨1, 1, .wo, false⟩, ⟨0, 1, .wo, false⟩]⟩
  -- R276, 08_pin_engines.md
  | .peCstat => ⟨0x100108, 64, 0x800, 8, 0x40,
      [⟨31, 1, .w1c, false⟩, ⟨24, 3, .ro, false⟩, ⟨16, 4, .ro, false⟩, ⟨0, 10, .ro, false⟩]⟩
  -- R276, 08_pin_engines.md
  | .peWrap => ⟨0x10010C, 64, 0x800, 8, 0x40,
      [⟨16, 10, .rw, true⟩, ⟨0, 10, .rw, true⟩]⟩
  -- R276, 08_pin_engines.md
  | .peLanes => ⟨0x100110, 64, 0x800, 8, 0x40,
      [⟨31, 1, .rws, true⟩, ⟨24, 6, .rws, true⟩, ⟨23, 1, .rws, true⟩, ⟨16, 6, .rws, true⟩, ⟨15, 1, .rws, true⟩, ⟨8, 6, .rws, true⟩, ⟨7, 1, .rws, true⟩, ⟨0, 6, .rws, true⟩]⟩
  -- R276, 08_pin_engines.md
  | .peQsrc => ⟨0x100114, 64, 0x800, 8, 0x40,
      [⟨31, 1, .rws, true⟩, ⟨15, 1, .rws, true⟩, ⟨16, 14, .rws, true⟩, ⟨0, 14, .rws, true⟩]⟩
  -- R276, 08_pin_engines.md
  | .peQsnk => ⟨0x100118, 64, 0x800, 8, 0x40,
      [⟨31, 1, .rws, true⟩, ⟨16, 14, .rws, true⟩, ⟨15, 1, .rws, true⟩, ⟨0, 14, .rws, true⟩]⟩
  -- R277, 08_pin_engines.md
  | .peBitcfg => ⟨0x10011C, 64, 0x800, 8, 0x40,
      [⟨10, 2, .rw, true⟩, ⟨9, 1, .rw, true⟩, ⟨8, 1, .ro, false⟩, ⟨7, 1, .rw, true⟩, ⟨6, 1, .rw, true⟩, ⟨5, 1, .rw, true⟩, ⟨2, 2, .rw, true⟩, ⟨0, 2, .rw, true⟩]⟩
  -- R277, 08_pin_engines.md
  | .peBitpa => ⟨0x100120, 64, 0x800, 8, 0x40,
      [⟨8, 24, .rw, true⟩, ⟨0, 8, .rw, true⟩]⟩
  -- R277, 08_pin_engines.md
  | .peBitsa => ⟨0x100124, 64, 0x800, 8, 0x40,
      [⟨24, 8, .rw, true⟩, ⟨0, 24, .rw, true⟩]⟩
  -- R277, 08_pin_engines.md
  | .peBitpb => ⟨0x100128, 64, 0x800, 8, 0x40,
      [⟨8, 24, .rw, true⟩, ⟨0, 8, .rw, true⟩]⟩
  -- R277, 08_pin_engines.md
  | .peBitsb => ⟨0x10012C, 64, 0x800, 8, 0x40,
      [⟨24, 8, .rw, true⟩, ⟨0, 24, .rw, true⟩]⟩
  -- R277, 08_pin_engines.md
  | .peVote => ⟨0x100130, 64, 0x800, 8, 0x40,
      [⟨20, 12, .rws, true⟩, ⟨9, 9, .rws, true⟩, ⟨0, 9, .rws, true⟩]⟩
  -- R277, 08_pin_engines.md
  | .peCerr => ⟨0x100134, 64, 0x800, 8, 0x40,
      [⟨24, 8, .ro, false⟩, ⟨16, 8, .rc, false⟩, ⟨8, 8, .rc, false⟩, ⟨0, 8, .rc, false⟩]⟩
  -- R278, 08_pin_engines.md
  | .pePad => ⟨0x120000, 512, 0x40, 1, 0x0,
      [⟨9, 9, .ro, false⟩, ⟨8, 1, .ro, false⟩, ⟨6, 2, .rws, true⟩, ⟨4, 2, .rws, true⟩, ⟨2, 2, .rws, true⟩, ⟨0, 2, .rws, true⟩]⟩
  -- R278, 08_pin_engines.md
  | .peSamp => ⟨0x120004, 512, 0x40, 1, 0x0,
      [⟨8, 8, .rw, true⟩, ⟨0, 2, .rw, true⟩]⟩
  -- R278, 08_pin_engines.md
  | .peRbk => ⟨0x120008, 512, 0x40, 1, 0x0,
      [⟨30, 2, .rw, true⟩, ⟨29, 1, .rw, true⟩, ⟨28, 1, .rw, true⟩, ⟨26, 2, .rw, true⟩, ⟨18, 8, .rw, true⟩, ⟨0, 10, .rw, true⟩]⟩
  -- R278, 08_pin_engines.md
  | .peStuff => ⟨0x12000C, 512, 0x40, 1, 0x0,
      [⟨4, 4, .rw, true⟩, ⟨2, 1, .rw, true⟩, ⟨0, 2, .rw, true⟩]⟩
  -- R278, 08_pin_engines.md
  | .peCrcpa => ⟨0x120010, 512, 0x40, 1, 0x0,
      [⟨0, 32, .rw, true⟩]⟩
  -- R278, 08_pin_engines.md
  | .peCrcpb => ⟨0x120014, 512, 0x40, 1, 0x0,
      [⟨0, 32, .rw, true⟩]⟩
  -- R278, 08_pin_engines.md
  | .peCrcia => ⟨0x120018, 512, 0x40, 1, 0x0,
      [⟨0, 32, .rw, true⟩]⟩
  -- R278, 08_pin_engines.md
  | .peCrcib => ⟨0x12001C, 512, 0x40, 1, 0x0,
      [⟨0, 32, .rw, true⟩]⟩
  -- R278, 08_pin_engines.md
  | .peCrccfg => ⟨0x120020, 512, 0x40, 1, 0x0,
      [⟨8, 6, .rw, true⟩, ⟨0, 6, .rw, true⟩]⟩
  -- R278, 08_pin_engines.md
  | .peTscfg => ⟨0x120024, 512, 0x40, 1, 0x0,
      [⟨31, 1, .w1c, false⟩, ⟨2, 3, .ro, false⟩, ⟨0, 2, .rw, true⟩]⟩
  -- R278, 08_pin_engines.md
  | .peFence => ⟨0x120028, 512, 0x40, 1, 0x0,
      [⟨31, 1, .ro, false⟩, ⟨30, 1, .wo, false⟩, ⟨29, 1, .wo, false⟩, ⟨0, 2, .ro, false⟩]⟩
  -- R278, 08_pin_engines.md
  | .pePstat => ⟨0x12002C, 512, 0x40, 1, 0x0,
      [⟨5, 1, .ro, false⟩, ⟨4, 1, .ro, false⟩, ⟨3, 1, .ro, false⟩, ⟨2, 1, .ro, false⟩, ⟨1, 1, .ro, false⟩, ⟨0, 1, .ro, false⟩]⟩
  -- R325, 10_time_bases.md
  | .tbCfg => ⟨0x140000, 16, 0x100, 1, 0x0,
      [⟨31, 1, .rws, true⟩, ⟨29, 2, .rws, true⟩, ⟨28, 1, .rw, true⟩, ⟨0, 16, .rws, true⟩]⟩
  -- R325, 10_time_bases.md
  | .tbStat => ⟨0x140004, 16, 0x100, 1, 0x0,
      [⟨24, 8, .ro, false⟩, ⟨23, 1, .w1c, false⟩, ⟨22, 1, .w1c, false⟩, ⟨21, 1, .ro, false⟩, ⟨20, 1, .ro, false⟩, ⟨18, 2, .ro, false⟩, ⟨0, 3, .ro, false⟩]⟩
  -- R325, 10_time_bases.md
  | .tbVall => ⟨0x140008, 16, 0x100, 1, 0x0,
      [⟨0, 32, .ro, false⟩]⟩
  -- R325, 10_time_bases.md
  | .tbValh => ⟨0x14000C, 16, 0x100, 1, 0x0,
      [⟨0, 32, .ro, false⟩]⟩
  -- R325, 10_time_bases.md
  | .tbRatel => ⟨0x140010, 16, 0x100, 1, 0x0,
      [⟨0, 32, .ro, false⟩]⟩
  -- R325, 10_time_bases.md
  | .tbRateh => ⟨0x140014, 16, 0x100, 1, 0x0,
      [⟨0, 32, .ro, false⟩]⟩
  -- R325, 10_time_bases.md
  | .tbPhil => ⟨0x140018, 16, 0x100, 1, 0x0,
      [⟨0, 32, .ro, false⟩]⟩
  -- R325, 10_time_bases.md
  | .tbPhih => ⟨0x14001C, 16, 0x100, 1, 0x0,
      [⟨0, 32, .ro, false⟩]⟩
  -- R325, 10_time_bases.md
  | .tbCorr => ⟨0x140020, 16, 0x100, 1, 0x0,
      [⟨0, 32, .ro, false⟩]⟩
  -- R326, 10_time_bases.md
  | .tbMon => ⟨0x140024, 16, 0x100, 1, 0x0,
      [⟨26, 6, .rw, true⟩, ⟨20, 4, .rw, true⟩, ⟨16, 4, .rw, true⟩, ⟨0, 16, .rw, true⟩]⟩
  -- R326, 10_time_bases.md
  | .tbServo => ⟨0x140028, 16, 0x100, 1, 0x0,
      [⟨16, 16, .rw, true⟩, ⟨0, 16, .rw, true⟩]⟩
  -- R326, 10_time_bases.md
  | .tbPred => ⟨0x14002C, 16, 0x100, 1, 0x0,
      [⟨20, 12, .rw, true⟩, ⟨16, 4, .rw, true⟩, ⟨12, 4, .rw, true⟩, ⟨8, 4, .rw, true⟩, ⟨0, 8, .rw, true⟩]⟩
  -- R326, 10_time_bases.md
  | .tbRange => ⟨0x140030, 16, 0x100, 1, 0x0,
      [⟨16, 16, .rw, true⟩, ⟨0, 16, .rw, true⟩]⟩
  -- R326, 10_time_bases.md
  | .tbObsto => ⟨0x140034, 16, 0x100, 1, 0x0,
      [⟨0, 16, .rw, true⟩]⟩
  -- R326, 10_time_bases.md
  | .tbWin => ⟨0x140038, 16, 0x100, 1, 0x0,
      [⟨16, 16, .rc, false⟩, ⟨0, 8, .ro, false⟩]⟩
  -- R327, 10_time_bases.md
  | .tbRefcfg => ⟨0x140040, 16, 0x100, 4, 0x10,
      [⟨31, 1, .rw, true⟩, ⟨29, 2, .rw, true⟩, ⟨27, 2, .rw, true⟩, ⟨25, 2, .rw, true⟩, ⟨0, 16, .rw, true⟩]⟩
  -- R327, 10_time_bases.md
  | .tbRefarg => ⟨0x140044, 16, 0x100, 4, 0x10,
      [⟨0, 18, .rw, true⟩]⟩
  -- R327, 10_time_bases.md
  | .tbRefoff => ⟨0x140048, 16, 0x100, 4, 0x10,
      [⟨0, 32, .rw, true⟩]⟩
  -- R327, 10_time_bases.md
  | .tbRefstat => ⟨0x14004C, 16, 0x100, 4, 0x10,
      [⟨31, 1, .ro, false⟩, ⟨30, 1, .w1c, false⟩, ⟨29, 1, .ro, false⟩, ⟨16, 8, .rc, false⟩, ⟨0, 16, .ro, false⟩]⟩
  -- R328, 10_time_bases.md
  | .tbT0inc => ⟨0x141000, 1, 0x0, 1, 0x0,
      [⟨0, 32, .rws, true⟩]⟩
  -- R328, 10_time_bases.md
  | .tbPort => ⟨0x141004, 1, 0x0, 1, 0x0,
      [⟨31, 1, .ro, false⟩, ⟨8, 8, .rc, false⟩]⟩
  -- R328, 10_time_bases.md
  | .tbPortl => ⟨0x141008, 1, 0x0, 1, 0x0,
      [⟨0, 32, .ro, false⟩]⟩
  -- R328, 10_time_bases.md
  | .tbPorth => ⟨0x14100C, 1, 0x0, 1, 0x0,
      [⟨0, 32, .ro, false⟩]⟩
  -- R356, 11_timed_actions.md
  | .tskSel => ⟨0x150000, 32, 0x40, 1, 0x0,
      [⟨0, 12, .rw, false⟩]⟩
  -- R356, 11_timed_actions.md
  | .tskCfg => ⟨0x150004, 32, 0x40, 1, 0x0,
      [⟨31, 1, .rw, true⟩, ⟨27, 4, .rw, true⟩, ⟨21, 6, .rw, true⟩, ⟨13, 8, .rw, true⟩, ⟨8, 5, .rws, true⟩, ⟨7, 1, .rw, true⟩, ⟨6, 1, .rw, true⟩]⟩
  -- R356, 11_timed_actions.md
  | .tskPerl => ⟨0x150008, 32, 0x40, 1, 0x0,
      [⟨0, 32, .rw, true⟩]⟩
  -- R356, 11_timed_actions.md
  | .tskPerh => ⟨0x15000C, 32, 0x40, 1, 0x0,
      [⟨0, 32, .rw, true⟩]⟩
  -- R356, 11_timed_actions.md
  | .tskT0l => ⟨0x150010, 32, 0x40, 1, 0x0,
      [⟨0, 32, .rw, true⟩]⟩
  -- R356, 11_timed_actions.md
  | .tskT0h => ⟨0x150014, 32, 0x40, 1, 0x0,
      [⟨0, 32, .rw, true⟩]⟩
  -- R356, 11_timed_actions.md
  | .tskDest => ⟨0x150018, 32, 0x40, 1, 0x0,
      [⟨24, 8, .rw, true⟩, ⟨18, 4, .rw, true⟩, ⟨14, 4, .rw, true⟩, ⟨0, 14, .rw, true⟩]⟩
  -- R356, 11_timed_actions.md
  | .tskStat => ⟨0x15001C, 32, 0x40, 1, 0x0,
      [⟨24, 8, .ro, false⟩, ⟨23, 1, .w1c, false⟩, ⟨22, 1, .ro, false⟩, ⟨21, 1, .ro, false⟩, ⟨20, 1, .w1c, false⟩, ⟨0, 16, .ro, false⟩]⟩
  -- R356, 11_timed_actions.md
  | .tskCmd => ⟨0x150020, 32, 0x40, 1, 0x0,
      [⟨31, 1, .wo, false⟩]⟩
  -- R356, 11_timed_actions.md
  | .tskDone => ⟨0x150800, 1, 0x0, 1, 0x0,
      [⟨0, 12, .wo, false⟩]⟩
  -- R355, 11_timed_actions.md
  | .taHor => ⟨0x154000, 16, 0x4, 1, 0x0,
      [⟨0, 32, .rw, true⟩]⟩
  -- R355, 11_timed_actions.md
  | .taNq => ⟨0x154040, 32, 0x4, 1, 0x0,
      [⟨0, 14, .rws, true⟩]⟩
  -- R355, 11_timed_actions.md
  | .taCnt => ⟨0x1540C0, 1, 0x0, 1, 0x0,
      [⟨16, 16, .rc, false⟩, ⟨8, 8, .rc, false⟩, ⟨0, 8, .rc, false⟩]⟩
  -- R355, 11_timed_actions.md
  | .taUse => ⟨0x1540C4, 1, 0x0, 1, 0x0,
      [⟨16, 16, .ro, false⟩, ⟨0, 14, .ro, false⟩]⟩
  -- R354, 11_timed_actions.md
  | .taP0 => ⟨0x158000, 512, 0x20, 1, 0x0,
      [⟨28, 4, .rw, false⟩, ⟨25, 3, .rw, false⟩, ⟨23, 2, .rw, false⟩, ⟨22, 1, .rw, false⟩, ⟨21, 1, .rw, false⟩, ⟨12, 9, .rw, false⟩, ⟨10, 2, .rw, false⟩, ⟨9, 1, .rw, false⟩, ⟨8, 1, .rw, false⟩, ⟨4, 4, .rw, false⟩, ⟨0, 4, .rw, false⟩]⟩
  -- R354, 11_timed_actions.md
  | .taP1 => ⟨0x158004, 512, 0x20, 1, 0x0,
      [⟨0, 32, .rw, false⟩]⟩
  -- R354, 11_timed_actions.md
  | .taP2 => ⟨0x158008, 512, 0x20, 1, 0x0,
      [⟨0, 32, .rw, false⟩]⟩
  -- R354, 11_timed_actions.md
  | .taP3 => ⟨0x15800C, 512, 0x20, 1, 0x0,
      [⟨0, 32, .rw, false⟩]⟩
  -- R354, 11_timed_actions.md
  | .taP4 => ⟨0x158010, 512, 0x20, 1, 0x0,
      [⟨31, 1, .rw, false⟩, ⟨30, 1, .rw, false⟩, ⟨0, 16, .rw, false⟩]⟩
  -- R354, 11_timed_actions.md
  | .taPstat => ⟨0x158014, 512, 0x20, 1, 0x0,
      [⟨0, 4, .ro, false⟩]⟩
  -- R380, 12_signal_engine.md
  | .sigCfg => ⟨0x160000, 1, 0x0, 1, 0x0,
      [⟨31, 1, .rw, false⟩, ⟨26, 5, .rws, true⟩, ⟨23, 3, .rws, true⟩]⟩
  -- R380, 12_signal_engine.md
  | .sigBasel => ⟨0x160004, 1, 0x0, 1, 0x0,
      [⟨6, 26, .rws, true⟩]⟩
  -- R380, 12_signal_engine.md
  | .sigBaseh => ⟨0x160008, 1, 0x0, 1, 0x0,
      [⟨0, 16, .rws, true⟩]⟩
  -- R380, 12_signal_engine.md
  | .sigSize => ⟨0x16000C, 1, 0x0, 1, 0x0,
      [⟨0, 24, .rws, true⟩]⟩
  -- R380, 12_signal_engine.md
  | .sigStat => ⟨0x160010, 1, 0x0, 1, 0x0,
      [⟨31, 1, .w1c, false⟩, ⟨30, 1, .w1c, false⟩, ⟨16, 6, .ro, false⟩, ⟨0, 15, .ro, true⟩]⟩
  -- R381, 12_signal_engine.md
  | .sigInv => ⟨0x160020, 1, 0x0, 1, 0x0,
      [⟨31, 1, .wo, false⟩, ⟨0, 21, .wo, false⟩]⟩
  -- R381, 12_signal_engine.md
  | .sigPw => ⟨0x160030, 4, 0x4, 1, 0x0,
      [⟨0, 32, .rw, false⟩]⟩
  -- R381, 12_signal_engine.md
  | .sigPwcmd => ⟨0x160040, 1, 0x0, 1, 0x0,
      [⟨31, 1, .wo, false⟩, ⟨0, 23, .wo, false⟩]⟩
  -- R382, 12_signal_engine.md
  | .sigCnt => ⟨0x160060, 11, 0x4, 1, 0x0,
      [⟨0, 32, .rc, false⟩]⟩
  -- R383, 12_signal_engine.md
  | .sigChm => ⟨0x161000, 512, 0x10, 1, 0x0,
      [⟨0, 32, .rw, true⟩]⟩
  -- R383, 12_signal_engine.md
  | .sigChc => ⟨0x161004, 512, 0x10, 1, 0x0,
      [⟨16, 16, .rw, true⟩, ⟨14, 2, .rw, true⟩, ⟨13, 1, .rw, true⟩]⟩
  -- R383, 12_signal_engine.md
  | .sigChd => ⟨0x161008, 512, 0x10, 1, 0x0,
      [⟨0, 32, .rw, true⟩]⟩
  -- R403, 13_bellows_arbitration_power.md
  | .belHcfg => ⟨0x170000, 8, 0x100, 1, 0x0,
      [⟨31, 1, .rw, true⟩, ⟨24, 4, .rw, true⟩, ⟨16, 4, .rw, true⟩, ⟨8, 8, .rw, true⟩, ⟨0, 8, .rw, true⟩]⟩
  -- R403, 13_bellows_arbitration_power.md
  | .belHstat => ⟨0x170004, 8, 0x100, 1, 0x0,
      [⟨28, 4, .ro, false⟩, ⟨24, 4, .ro, false⟩, ⟨8, 8, .rc, false⟩, ⟨4, 4, .ro, false⟩]⟩
  -- R404, 13_bellows_arbitration_power.md
  | .belTbnd => ⟨0x171000, 512, 0x4, 1, 0x0,
      [⟨8, 6, .rws, true⟩, ⟨0, 6, .rws, true⟩]⟩
  -- R404, 13_bellows_arbitration_power.md
  | .belTiss => ⟨0x172000, 512, 0x8, 1, 0x0,
      [⟨17, 6, .ro, false⟩, ⟨0, 17, .ro, false⟩]⟩
  -- R404, 13_bellows_arbitration_power.md
  | .belTwait => ⟨0x172004, 512, 0x8, 1, 0x0,
      [⟨24, 8, .ro, false⟩, ⟨0, 17, .ro, false⟩]⟩
  -- R405, 13_bellows_arbitration_power.md
  | .pwrDreq => ⟨0x178000, 22, 0x10, 1, 0x0,
      [⟨31, 1, .wo, false⟩, ⟨0, 2, .wo, false⟩]⟩
  -- R405, 13_bellows_arbitration_power.md
  | .pwrDstat => ⟨0x178004, 22, 0x10, 1, 0x0,
      [⟨31, 1, .w1c, false⟩, ⟨30, 1, .w1c, false⟩, ⟨24, 3, .ro, false⟩, ⟨16, 8, .rc, false⟩, ⟨0, 16, .ro, false⟩]⟩
  -- R405, 13_bellows_arbitration_power.md
  | .pwrHold => ⟨0x178008, 22, 0x10, 1, 0x0,
      [⟨16, 16, .rw, true⟩, ⟨0, 16, .rw, true⟩]⟩
  -- R405, 13_bellows_arbitration_power.md
  | .pwrWake => ⟨0x17800C, 22, 0x10, 1, 0x0,
      [⟨31, 1, .rw, true⟩, ⟨16, 4, .rw, true⟩, ⟨0, 16, .rw, true⟩]⟩
  -- R443, 14_chain_and_mirror.md
  | .chnLctl => ⟨0x180000, 4, 0x10, 1, 0x0,
      [⟨31, 1, .rw, true⟩, ⟨30, 1, .rws, true⟩]⟩
  -- R443, 14_chain_and_mirror.md
  | .chnLstat => ⟨0x180004, 4, 0x10, 1, 0x0,
      [⟨30, 2, .ro, false⟩, ⟨27, 3, .ro, false⟩, ⟨0, 18, .ro, false⟩]⟩
  -- R443, 14_chain_and_mirror.md
  | .chnLdly => ⟨0x180008, 4, 0x10, 1, 0x0,
      [⟨0, 16, .ro, false⟩]⟩
  -- R443, 14_chain_and_mirror.md
  | .chnLcnt => ⟨0x18000C, 4, 0x10, 1, 0x0,
      [⟨16, 16, .rc, false⟩, ⟨8, 8, .rc, false⟩, ⟨0, 8, .rc, false⟩]⟩
  -- R444, 14_chain_and_mirror.md
  | .chnRt => ⟨0x180100, 64, 0x4, 1, 0x0,
      [⟨31, 1, .rw, true⟩, ⟨30, 1, .rw, true⟩, ⟨25, 5, .rw, true⟩, ⟨18, 4, .rw, true⟩, ⟨0, 18, .rw, true⟩]⟩
  -- R444, 14_chain_and_mirror.md
  | .chnRwin => ⟨0x180200, 16, 0x4, 1, 0x0,
      [⟨31, 1, .rw, true⟩, ⟨0, 18, .rw, true⟩]⟩
  -- R444, 14_chain_and_mirror.md
  | .chnTcfg => ⟨0x180240, 1, 0x0, 1, 0x0,
      [⟨31, 1, .rw, true⟩, ⟨27, 4, .rw, true⟩, ⟨0, 16, .rw, true⟩]⟩
  -- R444, 14_chain_and_mirror.md
  | .chnEgr => ⟨0x180244, 1, 0x0, 1, 0x0,
      [⟨16, 16, .rc, false⟩, ⟨0, 10, .ro, false⟩]⟩
  -- R444, 14_chain_and_mirror.md
  | .chnCnt => ⟨0x180248, 1, 0x0, 1, 0x0,
      [⟨24, 8, .rc, false⟩, ⟨16, 8, .rc, false⟩, ⟨8, 8, .rc, false⟩, ⟨0, 8, .rc, false⟩]⟩
  -- R445, 14_chain_and_mirror.md
  | .chnTxbl => ⟨0x180280, 1, 0x0, 1, 0x0,
      [⟨6, 26, .rw, true⟩]⟩
  -- R445, 14_chain_and_mirror.md
  | .chnTxbh => ⟨0x180284, 1, 0x0, 1, 0x0,
      [⟨0, 16, .rw, true⟩]⟩
  -- R445, 14_chain_and_mirror.md
  | .chnRxbl => ⟨0x180288, 1, 0x0, 1, 0x0,
      [⟨6, 26, .rw, true⟩]⟩
  -- R445, 14_chain_and_mirror.md
  | .chnRxbh => ⟨0x18028C, 1, 0x0, 1, 0x0,
      [⟨0, 16, .rw, true⟩]⟩
  -- R445, 14_chain_and_mirror.md
  | .chnTuncfg => ⟨0x180290, 1, 0x0, 1, 0x0,
      [⟨31, 1, .rw, true⟩, ⟨27, 4, .rw, true⟩, ⟨23, 4, .rw, true⟩, ⟨8, 8, .rw, true⟩]⟩
  -- R445, 14_chain_and_mirror.md
  | .chnTunstat => ⟨0x180294, 1, 0x0, 1, 0x0,
      [⟨31, 1, .ro, false⟩, ⟨30, 1, .w1c, false⟩, ⟨16, 8, .rc, false⟩, ⟨0, 16, .rc, false⟩]⟩
  -- R446, 14_chain_and_mirror.md
  | .mirCfg => ⟨0x181000, 1, 0x0, 1, 0x0,
      [⟨31, 1, .rws, true⟩, ⟨30, 1, .rws, true⟩, ⟨28, 2, .rws, true⟩, ⟨24, 4, .rws, true⟩, ⟨23, 1, .rws, true⟩, ⟨0, 18, .rws, true⟩]⟩
  -- R446, 14_chain_and_mirror.md
  | .mirTim => ⟨0x181004, 1, 0x0, 1, 0x0,
      [⟨24, 8, .rws, true⟩, ⟨16, 8, .rw, true⟩, ⟨0, 15, .rws, true⟩]⟩
  -- R446, 14_chain_and_mirror.md
  | .mirStat => ⟨0x181008, 1, 0x0, 1, 0x0,
      [⟨29, 3, .ro, false⟩, ⟨28, 1, .w1c, false⟩, ⟨27, 1, .ro, false⟩, ⟨26, 1, .ro, false⟩, ⟨25, 1, .ro, false⟩, ⟨24, 1, .w1c, false⟩, ⟨23, 1, .w1c, false⟩, ⟨0, 16, .ro, false⟩]⟩
  -- R446, 14_chain_and_mirror.md
  | .mirCmd => ⟨0x18100C, 1, 0x0, 1, 0x0,
      [⟨31, 1, .wo, false⟩, ⟨30, 1, .wo, false⟩]⟩
  -- R446, 14_chain_and_mirror.md
  | .mirSent => ⟨0x181010, 1, 0x0, 1, 0x0,
      [⟨0, 20, .ro, false⟩]⟩
  -- R446, 14_chain_and_mirror.md
  | .mirAcked => ⟨0x181014, 1, 0x0, 1, 0x0,
      [⟨0, 20, .ro, false⟩]⟩
  -- R446, 14_chain_and_mirror.md
  | .mirCnt => ⟨0x181018, 1, 0x0, 1, 0x0,
      [⟨24, 8, .rc, false⟩, ⟨16, 8, .rc, false⟩, ⟨8, 8, .rc, false⟩]⟩
  -- R446, 14_chain_and_mirror.md
  | .mirShd => ⟨0x181080, 32, 0x4, 1, 0x0,
      [⟨0, 16, .rws, true⟩]⟩
  -- R446, 14_chain_and_mirror.md
  | .mirShp => ⟨0x181100, 16, 0x4, 1, 0x0,
      [⟨0, 32, .rws, true⟩]⟩
  -- R446, 14_chain_and_mirror.md
  | .mirChm => ⟨0x181140, 16, 0x4, 1, 0x0,
      [⟨0, 32, .rws, true⟩]⟩
  -- R446, 14_chain_and_mirror.md
  | .mirTskm => ⟨0x181200, 128, 0x4, 1, 0x0,
      [⟨0, 32, .rws, true⟩]⟩
  -- R463, 15_faults_and_safety.md
  | .fltScfg => ⟨0x190000, 12, 0x10, 1, 0x0,
      [⟨28, 4, .rws, true⟩, ⟨24, 4, .rws, true⟩, ⟨22, 2, .rws, true⟩, ⟨0, 22, .rws, true⟩]⟩
  -- R463, 15_faults_and_safety.md
  | .fltScnt => ⟨0x190004, 12, 0x10, 1, 0x0,
      [⟨16, 16, .rc, false⟩, ⟨0, 16, .rc, false⟩]⟩
  -- R463, 15_faults_and_safety.md
  | .fltSlast => ⟨0x190008, 12, 0x10, 1, 0x0,
      [⟨31, 1, .ro, false⟩, ⟨0, 24, .ro, false⟩]⟩
  -- R464, 15_faults_and_safety.md
  | .fltAlm => ⟨0x190100, 1, 0x0, 1, 0x0,
      [⟨2, 1, .ro, false⟩, ⟨1, 1, .w1c, false⟩, ⟨0, 1, .w1c, false⟩]⟩
  -- R464, 15_faults_and_safety.md
  | .fltAcause => ⟨0x190104, 1, 0x0, 1, 0x0,
      [⟨28, 4, .ro, false⟩, ⟨24, 4, .ro, false⟩, ⟨20, 4, .ro, false⟩]⟩
  -- R464, 15_faults_and_safety.md
  | .fltStat => ⟨0x190108, 1, 0x0, 1, 0x0,
      [⟨24, 8, .rc, false⟩, ⟨16, 8, .rc, false⟩, ⟨0, 9, .ro, false⟩]⟩
  -- R464, 15_faults_and_safety.md
  | .fltInj => ⟨0x19010C, 1, 0x0, 1, 0x0,
      [⟨31, 1, .wo, false⟩, ⟨24, 4, .wo, false⟩, ⟨0, 24, .wo, false⟩]⟩
  -- R504, 17_ember_and_calendar.md
  | .embCal0 => ⟨0x1A0000, 1, 0x0, 1, 0x0,
      [⟨24, 3, .ro, false⟩, ⟨16, 5, .ro, false⟩, ⟨8, 6, .ro, false⟩, ⟨0, 6, .ro, false⟩]⟩
  -- R504, 17_ember_and_calendar.md
  | .embCal1 => ⟨0x1A0004, 1, 0x0, 1, 0x0,
      [⟨31, 1, .ro, false⟩, ⟨30, 1, .ro, false⟩, ⟨16, 12, .ro, false⟩, ⟨8, 4, .ro, false⟩, ⟨0, 5, .ro, false⟩]⟩
  -- R504, 17_ember_and_calendar.md
  | .embCal2 => ⟨0x1A0008, 1, 0x0, 1, 0x0,
      [⟨0, 15, .ro, false⟩]⟩
  -- R505, 17_ember_and_calendar.md
  | .embSet0 => ⟨0x1A0010, 1, 0x0, 1, 0x0,
      [⟨24, 3, .rw, false⟩, ⟨16, 5, .rw, false⟩, ⟨8, 6, .rw, false⟩, ⟨0, 6, .rw, false⟩]⟩
  -- R505, 17_ember_and_calendar.md
  | .embSet1 => ⟨0x1A0014, 1, 0x0, 1, 0x0,
      [⟨31, 1, .rw, false⟩, ⟨30, 1, .rw, false⟩, ⟨16, 12, .rw, false⟩, ⟨8, 4, .rw, false⟩, ⟨0, 5, .rw, false⟩]⟩
  -- R505, 17_ember_and_calendar.md
  | .embCalcmd => ⟨0x1A0018, 1, 0x0, 1, 0x0,
      [⟨31, 1, .wo, false⟩]⟩
  -- R505, 17_ember_and_calendar.md
  | .embCalerr => ⟨0x1A001C, 1, 0x0, 1, 0x0,
      [⟨31, 1, .w1c, false⟩, ⟨30, 1, .ro, false⟩, ⟨0, 4, .ro, false⟩]⟩
  -- R505, 17_ember_and_calendar.md
  | .embTaioff => ⟨0x1A0020, 1, 0x0, 1, 0x0,
      [⟨0, 32, .rw, false⟩]⟩
  -- R505, 17_ember_and_calendar.md
  | .embStat => ⟨0x1A0024, 1, 0x0, 1, 0x0,
      [⟨31, 1, .w1c, false⟩, ⟨30, 1, .w1c, false⟩, ⟨2, 1, .ro, false⟩, ⟨1, 1, .ro, false⟩]⟩
  -- R506, 17_ember_and_calendar.md
  | .embWcfg => ⟨0x1A0040, 32, 0x4, 1, 0x0,
      [⟨8, 8, .rw, false⟩, ⟨0, 3, .rw, false⟩]⟩
  -- R506, 17_ember_and_calendar.md
  | .embWstat => ⟨0x1A00C0, 1, 0x0, 1, 0x0,
      [⟨0, 32, .w1c, false⟩]⟩
  -- R506, 17_ember_and_calendar.md
  | .embWtimer => ⟨0x1A00C4, 1, 0x0, 1, 0x0,
      [⟨31, 1, .w1c, false⟩, ⟨0, 24, .rw, false⟩]⟩
  -- R506, 17_ember_and_calendar.md
  | .embScr => ⟨0x1A0100, 16, 0x4, 1, 0x0,
      [⟨0, 32, .rw, false⟩]⟩
  -- R486, 16_startup_and_image.md
  | .bootStat => ⟨0x1B0000, 1, 0x0, 1, 0x0,
      [⟨28, 4, .ro, false⟩, ⟨27, 1, .ro, false⟩, ⟨26, 1, .ro, false⟩, ⟨25, 1, .ro, false⟩, ⟨24, 1, .ro, false⟩, ⟨23, 1, .ro, false⟩, ⟨22, 1, .ro, false⟩, ⟨8, 8, .ro, false⟩, ⟨0, 8, .ro, false⟩]⟩
  -- R486, 16_startup_and_image.md
  | .bootSeq => ⟨0x1B0004, 1, 0x0, 1, 0x0,
      [⟨0, 32, .ro, false⟩]⟩
  -- R486, 16_startup_and_image.md
  | .bootCause => ⟨0x1B0008, 1, 0x0, 1, 0x0,
      [⟨16, 16, .ro, false⟩, ⟨8, 3, .ro, false⟩, ⟨4, 4, .ro, false⟩, ⟨0, 4, .ro, false⟩]⟩
  -- R486, 16_startup_and_image.md
  | .bootStrap => ⟨0x1B000C, 1, 0x0, 1, 0x0,
      [⟨0, 8, .ro, false⟩]⟩
  -- R486, 16_startup_and_image.md
  | .bootTcrit => ⟨0x1B0010, 1, 0x0, 1, 0x0,
      [⟨0, 32, .ro, false⟩]⟩
  -- R486, 16_startup_and_image.md
  | .bootTfull => ⟨0x1B0014, 1, 0x0, 1, 0x0,
      [⟨0, 32, .ro, false⟩]⟩
  -- R487, 16_startup_and_image.md
  | .bootCtl => ⟨0x1B0018, 1, 0x0, 1, 0x0,
      [⟨31, 1, .wo, false⟩, ⟨30, 1, .wo, false⟩, ⟨29, 1, .wo, false⟩, ⟨0, 3, .wo, false⟩]⟩
  -- R487, 16_startup_and_image.md
  | .bootHstat => ⟨0x1B001C, 1, 0x0, 1, 0x0,
      [⟨31, 1, .ro, false⟩, ⟨30, 1, .w1c, false⟩, ⟨0, 3, .ro, false⟩]⟩
  -- R488, 16_startup_and_image.md
  | .bootDigest => ⟨0x1B0020, 8, 0x4, 1, 0x0,
      [⟨0, 32, .ro, false⟩]⟩
  -- R556, 19_address_map.md
  | .hstSbase => ⟨0x1C0000, 16, 0x20, 1, 0x0,
      [⟨16, 16, .rw, true⟩]⟩
  -- R556, 19_address_map.md
  | .hstPbasel => ⟨0x1C0004, 16, 0x20, 1, 0x0,
      [⟨16, 16, .rw, true⟩]⟩
  -- R556, 19_address_map.md
  | .hstPbaseh => ⟨0x1C0008, 16, 0x20, 1, 0x0,
      [⟨0, 16, .rw, true⟩]⟩
  -- R556, 19_address_map.md
  | .hstCfg => ⟨0x1C000C, 16, 0x20, 1, 0x0,
      [⟨31, 1, .rw, true⟩, ⟨30, 1, .rw, true⟩, ⟨16, 8, .rw, true⟩, ⟨0, 5, .rw, true⟩]⟩
  -- R557, 19_address_map.md
  | .hstVaddrl => ⟨0x1C1000, 256, 0x10, 1, 0x0,
      [⟨2, 30, .rw, true⟩]⟩
  -- R557, 19_address_map.md
  | .hstVaddrh => ⟨0x1C1004, 256, 0x10, 1, 0x0,
      [⟨16, 8, .rw, true⟩, ⟨0, 16, .rw, true⟩]⟩
  -- R557, 19_address_map.md
  | .hstVdata => ⟨0x1C1008, 256, 0x10, 1, 0x0,
      [⟨0, 32, .rw, true⟩]⟩
  -- R557, 19_address_map.md
  | .hstVctl => ⟨0x1C100C, 256, 0x10, 1, 0x0,
      [⟨31, 1, .rw, true⟩, ⟨30, 1, .rw, true⟩, ⟨0, 3, .rw, true⟩]⟩
  -- R557, 19_address_map.md
  | .hstVstat => ⟨0x1C2000, 1, 0x0, 1, 0x0,
      [⟨31, 1, .w1c, false⟩, ⟨16, 8, .ro, false⟩, ⟨8, 8, .rc, false⟩, ⟨0, 8, .rc, false⟩]⟩
  -- R557, 19_address_map.md
  | .hstSvccfg => ⟨0x1C2004, 1, 0x0, 1, 0x0,
      [⟨31, 1, .rw, true⟩]⟩
  -- R557, 19_address_map.md
  | .hstHerr => ⟨0x1C2008, 1, 0x0, 1, 0x0,
      [⟨16, 16, .rc, false⟩, ⟨0, 16, .rc, false⟩]⟩

/-- Every register kind, in index order (used to find the register at an offset). -/
def RegKind.group0 : List RegKind :=
  [.blkVersion, .blkNodeid, .blkFeat0, .blkFeat1, .blkFeat2, .blkFeat3, .sltTab, .sltAct, .sltCtl, .sltPred,
   .sltStat, .sltIdlecnt, .sltSqcnt, .thrPc, .thrA, .thrX, .thrY, .thrTp, .thrCfg, .thrRole, .thrCtl, .thrStat, .thrFault, .thrFq, .lckFaddr, .lckFcmd, .lckFstat, .lckWatch, .lckCnt, .memBcfg]
def RegKind.group1 : List RegKind :=
  [.memHandover, .memOwner, .memRet, .memWipe, .memEcc, .memNown, .memConf, .memClecc, .evmCsel, .evmCdest, .evmOvr, .evmSwset, .evmOvrcnt, .qeQcfg, .qeQstat, .qeQlevel, .qeQevt, .qeFlush, .qeSlaglost, .qeSlagcnt, .qeQuad, .qeOwnlim, .qeOwnstat, .qeOwncfg, .qeOwnfuse, .ringBasel, .ringBaseh, .ringCfg, .ringIdx, .ringStat]
def RegKind.group2 : List RegKind :=
  [.peCst, .peCsa, .peEctl, .pePmaddr, .pePmdata, .peEstat, .peCcfg, .peCctl, .peCstat, .peWrap, .peLanes, .peQsrc, .peQsnk, .peBitcfg, .peBitpa, .peBitsa, .peBitpb, .peBitsb, .peVote, .peCerr, .pePad, .peSamp, .peRbk, .peStuff, .peCrcpa, .peCrcpb, .peCrcia, .peCrcib, .peCrccfg, .peTscfg]
def RegKind.group3 : List RegKind :=
  [.peFence, .pePstat, .tbCfg, .tbStat, .tbVall, .tbValh, .tbRatel, .tbRateh, .tbPhil, .tbPhih, .tbCorr, .tbMon, .tbServo, .tbPred, .tbRange, .tbObsto, .tbWin, .tbRefcfg, .tbRefarg, .tbRefoff, .tbRefstat, .tbT0inc, .tbPort, .tbPortl, .tbPorth, .tskSel, .tskCfg, .tskPerl, .tskPerh, .tskT0l]
def RegKind.group4 : List RegKind :=
  [.tskT0h, .tskDest, .tskStat, .tskCmd, .tskDone, .taHor, .taNq, .taCnt, .taUse, .taP0, .taP1, .taP2, .taP3, .taP4, .taPstat, .sigCfg, .sigBasel, .sigBaseh, .sigSize, .sigStat, .sigInv, .sigPw, .sigPwcmd, .sigCnt, .sigChm, .sigChc, .sigChd, .belHcfg, .belHstat, .belTbnd]
def RegKind.group5 : List RegKind :=
  [.belTiss, .belTwait, .pwrDreq, .pwrDstat, .pwrHold, .pwrWake, .chnLctl, .chnLstat, .chnLdly, .chnLcnt, .chnRt, .chnRwin, .chnTcfg, .chnEgr, .chnCnt, .chnTxbl, .chnTxbh, .chnRxbl, .chnRxbh, .chnTuncfg, .chnTunstat, .mirCfg, .mirTim, .mirStat, .mirCmd, .mirSent, .mirAcked, .mirCnt, .mirShd, .mirShp]
def RegKind.group6 : List RegKind :=
  [.mirChm, .mirTskm, .fltScfg, .fltScnt, .fltSlast, .fltAlm, .fltAcause, .fltStat, .fltInj, .embCal0, .embCal1, .embCal2, .embSet0, .embSet1, .embCalcmd, .embCalerr, .embTaioff, .embStat, .embWcfg, .embWstat, .embWtimer, .embScr, .bootStat, .bootSeq, .bootCause, .bootStrap, .bootTcrit, .bootTfull, .bootCtl, .bootHstat]
def RegKind.group7 : List RegKind :=
  [.bootDigest, .hstSbase, .hstPbasel, .hstPbaseh, .hstCfg, .hstVaddrl, .hstVaddrh, .hstVdata, .hstVctl, .hstVstat, .hstSvccfg, .hstHerr]
def RegKind.all : List RegKind :=
  RegKind.group0 ++ RegKind.group1 ++ RegKind.group2 ++ RegKind.group3 ++ RegKind.group4 ++ RegKind.group5 ++ RegKind.group6 ++ RegKind.group7

/-- A named field of a register kind. -/
structure Fld where
  kind : RegKind
  lo : Nat
  len : Nat
  deriving DecidableEq, Repr

/-! The fields by name: `F.<register>_<FIELD>`, bits as in the chapter's field table. -/

def F.blkVersion_MAJOR : Fld := ⟨.blkVersion, 16, 16⟩
def F.blkVersion_MINOR : Fld := ⟨.blkVersion, 8, 8⟩
def F.blkVersion_PATCH : Fld := ⟨.blkVersion, 0, 8⟩
def F.blkNodeid_LOADED : Fld := ⟨.blkNodeid, 31, 1⟩
def F.blkNodeid_PACKAGE : Fld := ⟨.blkNodeid, 4, 14⟩
def F.blkNodeid_BLOCK : Fld := ⟨.blkNodeid, 0, 4⟩
def F.blkFeat0_ISA_MAJOR : Fld := ⟨.blkFeat0, 24, 8⟩
def F.blkFeat0_ISA_MINOR : Fld := ⟨.blkFeat0, 16, 8⟩
def F.blkFeat0_FP : Fld := ⟨.blkFeat0, 15, 1⟩
def F.blkFeat0_DIVIDER : Fld := ⟨.blkFeat0, 14, 1⟩
def F.blkFeat0_PRED2 : Fld := ⟨.blkFeat0, 13, 1⟩
def F.blkFeat0_RUNAHEAD : Fld := ⟨.blkFeat0, 12, 1⟩
def F.blkFeat0_LOCKS : Fld := ⟨.blkFeat0, 11, 1⟩
def F.blkFeat0_SLOTLEN : Fld := ⟨.blkFeat0, 0, 6⟩
def F.blkFeat1_PIN_ENGINES : Fld := ⟨.blkFeat1, 24, 8⟩
def F.blkFeat1_HEARTHS : Fld := ⟨.blkFeat1, 20, 4⟩
def F.blkFeat1_CORES : Fld := ⟨.blkFeat1, 16, 4⟩
def F.blkFeat1_FAR_ENTRIES : Fld := ⟨.blkFeat1, 8, 3⟩
def F.blkFeat1_THREADS : Fld := ⟨.blkFeat1, 0, 5⟩
def F.blkFeat2_QUADRANTS : Fld := ⟨.blkFeat2, 28, 4⟩
def F.blkFeat2_CONTEXTS : Fld := ⟨.blkFeat2, 12, 4⟩
def F.blkFeat2_PE_VERSION : Fld := ⟨.blkFeat2, 0, 8⟩
def F.blkFeat3_LANES : Fld := ⟨.blkFeat3, 8, 4⟩
def F.blkFeat3_EMBER : Fld := ⟨.blkFeat3, 6, 1⟩
def F.blkFeat3_VOTE : Fld := ⟨.blkFeat3, 5, 1⟩
def F.blkFeat3_TUNNEL : Fld := ⟨.blkFeat3, 4, 1⟩
def F.blkFeat3_MIRROR : Fld := ⟨.blkFeat3, 3, 1⟩
def F.blkFeat3_CHAIN : Fld := ⟨.blkFeat3, 2, 1⟩
def F.blkFeat3_SIGNAL : Fld := ⟨.blkFeat3, 1, 1⟩
def F.blkFeat3_CANXL : Fld := ⟨.blkFeat3, 0, 1⟩
def F.sltTab_ENTRY3 : Fld := ⟨.sltTab, 24, 8⟩
def F.sltTab_ENTRY2 : Fld := ⟨.sltTab, 16, 8⟩
def F.sltTab_ENTRY1 : Fld := ⟨.sltTab, 8, 8⟩
def F.sltTab_ENTRY0 : Fld := ⟨.sltTab, 0, 8⟩
def F.sltAct_ENTRY3 : Fld := ⟨.sltAct, 24, 8⟩
def F.sltAct_ENTRY2 : Fld := ⟨.sltAct, 16, 8⟩
def F.sltAct_ENTRY1 : Fld := ⟨.sltAct, 8, 8⟩
def F.sltAct_ENTRY0 : Fld := ⟨.sltAct, 0, 8⟩
def F.sltCtl_NOSPEC : Fld := ⟨.sltCtl, 3, 1⟩
def F.sltCtl_DIRTY : Fld := ⟨.sltCtl, 2, 1⟩
def F.sltCtl_PEND : Fld := ⟨.sltCtl, 1, 1⟩
def F.sltCtl_COMMIT : Fld := ⟨.sltCtl, 0, 1⟩
def F.sltPred_OFF : Fld := ⟨.sltPred, 16, 16⟩
def F.sltPred_LEAVE : Fld := ⟨.sltPred, 12, 1⟩
def F.sltPred_MODE : Fld := ⟨.sltPred, 8, 2⟩
def F.sltStat_SPECCAP : Fld := ⟨.sltStat, 16, 16⟩
def F.sltStat_POS : Fld := ⟨.sltStat, 0, 5⟩
def F.sltIdlecnt_IDLE : Fld := ⟨.sltIdlecnt, 0, 32⟩
def F.sltSqcnt_SQUASH : Fld := ⟨.sltSqcnt, 0, 32⟩
def F.thrPc_PC : Fld := ⟨.thrPc, 2, 30⟩
def F.thrA_VALUE : Fld := ⟨.thrA, 0, 32⟩
def F.thrX_VALUE : Fld := ⟨.thrX, 0, 32⟩
def F.thrY_VALUE : Fld := ⟨.thrY, 0, 32⟩
def F.thrTp_PAGE : Fld := ⟨.thrTp, 12, 6⟩
def F.thrCfg_HNOTE : Fld := ⟨.thrCfg, 9, 1⟩
def F.thrCfg_CLASS : Fld := ⟨.thrCfg, 8, 1⟩
def F.thrCfg_PRIO : Fld := ⟨.thrCfg, 0, 4⟩
def F.thrRole_SERVICE : Fld := ⟨.thrRole, 16, 16⟩
def F.thrRole_EPOCH : Fld := ⟨.thrRole, 0, 16⟩
def F.thrCtl_STOP : Fld := ⟨.thrCtl, 1, 1⟩
def F.thrCtl_RELEASE : Fld := ⟨.thrCtl, 0, 1⟩
def F.thrStat_EFFECTIVE : Fld := ⟨.thrStat, 16, 4⟩
def F.thrStat_INHERITING : Fld := ⟨.thrStat, 12, 1⟩
def F.thrStat_NPEND : Fld := ⟨.thrStat, 11, 1⟩
def F.thrStat_ROLEREJ : Fld := ⟨.thrStat, 10, 1⟩
def F.thrStat_ROLEBUSY : Fld := ⟨.thrStat, 9, 1⟩
def F.thrStat_WIGN : Fld := ⟨.thrStat, 8, 1⟩
def F.thrStat_STATE : Fld := ⟨.thrStat, 0, 3⟩
def F.thrFault_CODE : Fld := ⟨.thrFault, 24, 8⟩
def F.thrFault_VALID : Fld := ⟨.thrFault, 0, 1⟩
def F.thrFq_QID : Fld := ⟨.thrFq, 0, 14⟩
def F.lckFaddr_ADDR : Fld := ⟨.lckFaddr, 2, 30⟩
def F.lckFcmd_GO : Fld := ⟨.lckFcmd, 31, 1⟩
def F.lckFcmd_OWNER : Fld := ⟨.lckFcmd, 0, 9⟩
def F.lckFstat_BUSY : Fld := ⟨.lckFstat, 31, 1⟩
def F.lckFstat_RESULT : Fld := ⟨.lckFstat, 0, 4⟩
def F.lckWatch_HIGH : Fld := ⟨.lckWatch, 16, 16⟩
def F.lckWatch_INUSE : Fld := ⟨.lckWatch, 0, 13⟩
def F.lckCnt_WFULL : Fld := ⟨.lckCnt, 16, 16⟩
def F.lckCnt_DEPTH : Fld := ⟨.lckCnt, 8, 8⟩
def F.lckCnt_DEADLK : Fld := ⟨.lckCnt, 0, 8⟩
def F.memBcfg_MIRRORED : Fld := ⟨.memBcfg, 9, 1⟩
def F.memBcfg_MODE : Fld := ⟨.memBcfg, 8, 1⟩
def F.memBcfg_INITOWNER : Fld := ⟨.memBcfg, 0, 6⟩
def F.memHandover_GO : Fld := ⟨.memHandover, 31, 1⟩
def F.memHandover_WIPE : Fld := ⟨.memHandover, 8, 1⟩
def F.memHandover_NEWOWNER : Fld := ⟨.memHandover, 0, 6⟩
def F.memOwner_BUSY : Fld := ⟨.memOwner, 31, 1⟩
def F.memOwner_HOERR : Fld := ⟨.memOwner, 30, 1⟩
def F.memOwner_PENDING : Fld := ⟨.memOwner, 8, 6⟩
def F.memOwner_OWNER : Fld := ⟨.memOwner, 0, 6⟩
def F.memRet_WAKES : Fld := ⟨.memRet, 16, 8⟩
def F.memRet_STATE : Fld := ⟨.memRet, 8, 2⟩
def F.memRet_REQ : Fld := ⟨.memRet, 0, 1⟩
def F.memWipe_DONE : Fld := ⟨.memWipe, 31, 1⟩
def F.memWipe_ACTIVE : Fld := ⟨.memWipe, 30, 1⟩
def F.memWipe_CAUSE : Fld := ⟨.memWipe, 0, 2⟩
def F.memEcc_CORR : Fld := ⟨.memEcc, 24, 8⟩
def F.memEcc_UNCORR : Fld := ⟨.memEcc, 16, 8⟩
def F.memEcc_SPFULL : Fld := ⟨.memEcc, 15, 1⟩
def F.memEcc_SPARES : Fld := ⟨.memEcc, 0, 7⟩
def F.memNown_COUNT : Fld := ⟨.memNown, 16, 16⟩
def F.memNown_VALID : Fld := ⟨.memNown, 6, 1⟩
def F.memNown_LAST : Fld := ⟨.memNown, 0, 6⟩
def F.memConf_CYCLES : Fld := ⟨.memConf, 0, 32⟩
def F.memClecc_CORR : Fld := ⟨.memClecc, 24, 8⟩
def F.memClecc_UNCORR : Fld := ⟨.memClecc, 16, 8⟩
def F.memClecc_SPFULL : Fld := ⟨.memClecc, 15, 1⟩
def F.memClecc_SPARES : Fld := ⟨.memClecc, 0, 7⟩
def F.evmCsel_EN : Fld := ⟨.evmCsel, 31, 1⟩
def F.evmCsel_GEN : Fld := ⟨.evmCsel, 30, 1⟩
def F.evmCsel_GINV : Fld := ⟨.evmCsel, 29, 1⟩
def F.evmCsel_GATE : Fld := ⟨.evmCsel, 16, 12⟩
def F.evmCsel_SRC : Fld := ⟨.evmCsel, 0, 12⟩
def F.evmCdest_KIND : Fld := ⟨.evmCdest, 18, 4⟩
def F.evmCdest_PRIO : Fld := ⟨.evmCdest, 14, 4⟩
def F.evmCdest_QID : Fld := ⟨.evmCdest, 0, 14⟩
def F.evmOvr_OVR : Fld := ⟨.evmOvr, 0, 32⟩
def F.evmSwset_GO : Fld := ⟨.evmSwset, 31, 1⟩
def F.evmSwset_SRC : Fld := ⟨.evmSwset, 0, 10⟩
def F.evmOvrcnt_COUNT : Fld := ⟨.evmOvrcnt, 0, 32⟩
def F.qeQcfg_EN : Fld := ⟨.qeQcfg, 31, 1⟩
def F.qeQcfg_MODE : Fld := ⟨.qeQcfg, 30, 1⟩
def F.qeQcfg_ROLECHK : Fld := ⟨.qeQcfg, 29, 1⟩
def F.qeQcfg_HOSTPUSH : Fld := ⟨.qeQcfg, 28, 1⟩
def F.qeQcfg_MIRRORED : Fld := ⟨.qeQcfg, 27, 1⟩
def F.qeQcfg_RKIND : Fld := ⟨.qeQcfg, 24, 3⟩
def F.qeQcfg_READER : Fld := ⟨.qeQcfg, 15, 9⟩
def F.qeQcfg_DEPTH : Fld := ⟨.qeQcfg, 0, 15⟩
def F.qeQstat_OPEN : Fld := ⟨.qeQstat, 31, 1⟩
def F.qeQstat_PKTS : Fld := ⟨.qeQstat, 16, 15⟩
def F.qeQstat_PARTIAL : Fld := ⟨.qeQstat, 15, 1⟩
def F.qeQstat_DEPTH : Fld := ⟨.qeQstat, 0, 15⟩
def F.qeQlevel_EN : Fld := ⟨.qeQlevel, 31, 1⟩
def F.qeQlevel_UNIT : Fld := ⟨.qeQlevel, 30, 1⟩
def F.qeQlevel_LEVEL : Fld := ⟨.qeQlevel, 0, 15⟩
def F.qeQevt_SRCEN : Fld := ⟨.qeQevt, 31, 1⟩
def F.qeQevt_LSRC : Fld := ⟨.qeQevt, 16, 9⟩
def F.qeQevt_IRQEN : Fld := ⟨.qeQevt, 15, 1⟩
def F.qeQevt_VEC : Fld := ⟨.qeQevt, 0, 8⟩
def F.qeFlush_GO : Fld := ⟨.qeFlush, 31, 1⟩
def F.qeFlush_QID : Fld := ⟨.qeFlush, 0, 14⟩
def F.qeSlaglost_COUNT : Fld := ⟨.qeSlaglost, 0, 32⟩
def F.qeSlagcnt_COUNT : Fld := ⟨.qeSlagcnt, 0, 32⟩
def F.qeQuad_WAITERS : Fld := ⟨.qeQuad, 31, 1⟩
def F.qeQuad_FREE : Fld := ⟨.qeQuad, 0, 17⟩
def F.qeOwnlim_QUOTA : Fld := ⟨.qeOwnlim, 14, 18⟩
def F.qeOwnlim_FLOOR : Fld := ⟨.qeOwnlim, 0, 14⟩
def F.qeOwnstat_OVER : Fld := ⟨.qeOwnstat, 31, 1⟩
def F.qeOwnstat_WAIT : Fld := ⟨.qeOwnstat, 30, 1⟩
def F.qeOwnstat_USE : Fld := ⟨.qeOwnstat, 0, 19⟩
def F.qeOwncfg_NOTIFY : Fld := ⟨.qeOwncfg, 31, 1⟩
def F.qeOwncfg_HOME : Fld := ⟨.qeOwncfg, 14, 2⟩
def F.qeOwncfg_NQ : Fld := ⟨.qeOwncfg, 0, 14⟩
def F.qeOwnfuse_FUSE : Fld := ⟨.qeOwnfuse, 0, 14⟩
def F.ringBasel_ADDR : Fld := ⟨.ringBasel, 6, 26⟩
def F.ringBaseh_ADDR : Fld := ⟨.ringBaseh, 0, 16⟩
def F.ringCfg_EN : Fld := ⟨.ringCfg, 31, 1⟩
def F.ringCfg_LOG2SIZE : Fld := ⟨.ringCfg, 27, 4⟩
def F.ringCfg_VEC : Fld := ⟨.ringCfg, 16, 8⟩
def F.ringCfg_QID : Fld := ⟨.ringCfg, 0, 14⟩
def F.ringIdx_CIDX : Fld := ⟨.ringIdx, 16, 16⟩
def F.ringIdx_PIDX : Fld := ⟨.ringIdx, 0, 16⟩
def F.ringStat_FULL : Fld := ⟨.ringStat, 31, 1⟩
def F.ringStat_WERR : Fld := ⟨.ringStat, 30, 1⟩
def F.peCst_ENTRY3 : Fld := ⟨.peCst, 24, 8⟩
def F.peCst_ENTRY2 : Fld := ⟨.peCst, 16, 8⟩
def F.peCst_ENTRY1 : Fld := ⟨.peCst, 8, 8⟩
def F.peCst_ENTRY0 : Fld := ⟨.peCst, 0, 8⟩
def F.peCsa_ENTRY3 : Fld := ⟨.peCsa, 24, 8⟩
def F.peCsa_ENTRY2 : Fld := ⟨.peCsa, 16, 8⟩
def F.peCsa_ENTRY1 : Fld := ⟨.peCsa, 8, 8⟩
def F.peCsa_ENTRY0 : Fld := ⟨.peCsa, 0, 8⟩
def F.peEctl_DIRTY : Fld := ⟨.peEctl, 2, 1⟩
def F.peEctl_PEND : Fld := ⟨.peEctl, 1, 1⟩
def F.peEctl_COMMIT : Fld := ⟨.peEctl, 0, 1⟩
def F.pePmaddr_ADDR : Fld := ⟨.pePmaddr, 0, 10⟩
def F.pePmdata_DATA : Fld := ⟨.pePmdata, 0, 32⟩
def F.peEstat_CORR : Fld := ⟨.peEstat, 24, 8⟩
def F.peEstat_UNCORR : Fld := ⟨.peEstat, 16, 8⟩
def F.peCcfg_ENTRY : Fld := ⟨.peCcfg, 22, 10⟩
def F.peCcfg_OWNCORE : Fld := ⟨.peCcfg, 16, 5⟩
def F.peCcfg_VOTE : Fld := ⟨.peCcfg, 8, 1⟩
def F.peCcfg_ORPHAN : Fld := ⟨.peCcfg, 7, 1⟩
def F.peCcfg_HNOTE : Fld := ⟨.peCcfg, 6, 1⟩
def F.peCctl_UNLATCH : Fld := ⟨.peCctl, 3, 1⟩
def F.peCctl_SAFE : Fld := ⟨.peCctl, 2, 1⟩
def F.peCctl_STOP : Fld := ⟨.peCctl, 1, 1⟩
def F.peCctl_START : Fld := ⟨.peCctl, 0, 1⟩
def F.peCstat_WIGN : Fld := ⟨.peCstat, 31, 1⟩
def F.peCstat_STATE : Fld := ⟨.peCstat, 24, 3⟩
def F.peCstat_PENDING : Fld := ⟨.peCstat, 16, 4⟩
def F.peCstat_PC : Fld := ⟨.peCstat, 0, 10⟩
def F.peWrap_WRAPB : Fld := ⟨.peWrap, 16, 10⟩
def F.peWrap_WRAPT : Fld := ⟨.peWrap, 0, 10⟩
def F.peLanes_V3 : Fld := ⟨.peLanes, 31, 1⟩
def F.peLanes_PORT3 : Fld := ⟨.peLanes, 24, 6⟩
def F.peLanes_V2 : Fld := ⟨.peLanes, 23, 1⟩
def F.peLanes_PORT2 : Fld := ⟨.peLanes, 16, 6⟩
def F.peLanes_V1 : Fld := ⟨.peLanes, 15, 1⟩
def F.peLanes_PORT1 : Fld := ⟨.peLanes, 8, 6⟩
def F.peLanes_V0 : Fld := ⟨.peLanes, 7, 1⟩
def F.peLanes_PORT0 : Fld := ⟨.peLanes, 0, 6⟩
def F.peQsrc_EN1 : Fld := ⟨.peQsrc, 31, 1⟩
def F.peQsrc_EN0 : Fld := ⟨.peQsrc, 15, 1⟩
def F.peQsrc_SRC1 : Fld := ⟨.peQsrc, 16, 14⟩
def F.peQsrc_SRC0 : Fld := ⟨.peQsrc, 0, 14⟩
def F.peQsnk_EN1 : Fld := ⟨.peQsnk, 31, 1⟩
def F.peQsnk_SNK1 : Fld := ⟨.peQsnk, 16, 14⟩
def F.peQsnk_EN0 : Fld := ⟨.peQsnk, 15, 1⟩
def F.peQsnk_SNK0 : Fld := ⟨.peQsnk, 0, 14⟩
def F.peBitcfg_SYNC : Fld := ⟨.peBitcfg, 10, 2⟩
def F.peBitcfg_LSBF : Fld := ⟨.peBitcfg, 9, 1⟩
def F.peBitcfg_SET : Fld := ⟨.peBitcfg, 8, 1⟩
def F.peBitcfg_RXEN : Fld := ⟨.peBitcfg, 7, 1⟩
def F.peBitcfg_TXEN : Fld := ⟨.peBitcfg, 6, 1⟩
def F.peBitcfg_EN : Fld := ⟨.peBitcfg, 5, 1⟩
def F.peBitcfg_RXL : Fld := ⟨.peBitcfg, 2, 2⟩
def F.peBitcfg_TXL : Fld := ⟨.peBitcfg, 0, 2⟩
def F.peBitpa_PERIOD : Fld := ⟨.peBitpa, 8, 24⟩
def F.peBitpa_FRAC : Fld := ⟨.peBitpa, 0, 8⟩
def F.peBitsa_SJWF : Fld := ⟨.peBitsa, 24, 8⟩
def F.peBitsa_SP : Fld := ⟨.peBitsa, 0, 24⟩
def F.peBitpb_PERIOD : Fld := ⟨.peBitpb, 8, 24⟩
def F.peBitpb_FRAC : Fld := ⟨.peBitpb, 0, 8⟩
def F.peBitsb_SJWF : Fld := ⟨.peBitsb, 24, 8⟩
def F.peBitsb_SP : Fld := ⟨.peBitsb, 0, 24⟩
def F.peVote_WINDOW : Fld := ⟨.peVote, 20, 12⟩
def F.peVote_TWINB : Fld := ⟨.peVote, 9, 9⟩
def F.peVote_TWINA : Fld := ⟨.peVote, 0, 9⟩
def F.peCerr_CODE : Fld := ⟨.peCerr, 24, 8⟩
def F.peCerr_LATE : Fld := ⟨.peCerr, 16, 8⟩
def F.peCerr_COLL : Fld := ⟨.peCerr, 8, 8⟩
def F.peCerr_DISC : Fld := ⟨.peCerr, 0, 8⟩
def F.pePad_BOUND : Fld := ⟨.pePad, 9, 9⟩
def F.pePad_BV : Fld := ⟨.pePad, 8, 1⟩
def F.pePad_SAFE : Fld := ⟨.pePad, 6, 2⟩
def F.pePad_MODE : Fld := ⟨.pePad, 4, 2⟩
def F.pePad_PULL : Fld := ⟨.pePad, 2, 2⟩
def F.pePad_STRENGTH : Fld := ⟨.pePad, 0, 2⟩
def F.peSamp_SPACE : Fld := ⟨.peSamp, 8, 8⟩
def F.peSamp_MAJ : Fld := ⟨.peSamp, 0, 2⟩
def F.peRbk_MODE : Fld := ⟨.peRbk, 30, 2⟩
def F.peRbk_ACTLVL : Fld := ⟨.peRbk, 29, 1⟩
def F.peRbk_XEN : Fld := ⟨.peRbk, 28, 1⟩
def F.peRbk_XL : Fld := ⟨.peRbk, 26, 2⟩
def F.peRbk_FILT : Fld := ⟨.peRbk, 18, 8⟩
def F.peRbk_DLY : Fld := ⟨.peRbk, 0, 10⟩
def F.peStuff_N : Fld := ⟨.peStuff, 4, 4⟩
def F.peStuff_CRCPOS : Fld := ⟨.peStuff, 2, 1⟩
def F.peStuff_MODE : Fld := ⟨.peStuff, 0, 2⟩
def F.peCrcpa_POLY : Fld := ⟨.peCrcpa, 0, 32⟩
def F.peCrcpb_POLY : Fld := ⟨.peCrcpb, 0, 32⟩
def F.peCrcia_INIT : Fld := ⟨.peCrcia, 0, 32⟩
def F.peCrcib_INIT : Fld := ⟨.peCrcib, 0, 32⟩
def F.peCrccfg_WIDTHB : Fld := ⟨.peCrccfg, 8, 6⟩
def F.peCrccfg_WIDTHA : Fld := ⟨.peCrccfg, 0, 6⟩
def F.peTscfg_OVF : Fld := ⟨.peTscfg, 31, 1⟩
def F.peTscfg_COUNT : Fld := ⟨.peTscfg, 2, 3⟩
def F.peTscfg_EDGES : Fld := ⟨.peTscfg, 0, 2⟩
def F.peFence_FENCED : Fld := ⟨.peFence, 31, 1⟩
def F.peFence_CLEAR : Fld := ⟨.peFence, 30, 1⟩
def F.peFence_SET : Fld := ⟨.peFence, 29, 1⟩
def F.peFence_CAUSE : Fld := ⟨.peFence, 0, 2⟩
def F.pePstat_GUARD : Fld := ⟨.pePstat, 5, 1⟩
def F.pePstat_DIFF : Fld := ⟨.pePstat, 4, 1⟩
def F.pePstat_MISM : Fld := ⟨.pePstat, 3, 1⟩
def F.pePstat_OE : Fld := ⟨.pePstat, 2, 1⟩
def F.pePstat_OUT : Fld := ⟨.pePstat, 1, 1⟩
def F.pePstat_IN : Fld := ⟨.pePstat, 0, 1⟩
def F.tbCfg_EN : Fld := ⟨.tbCfg, 31, 1⟩
def F.tbCfg_KIND : Fld := ⟨.tbCfg, 29, 2⟩
def F.tbCfg_REVERT : Fld := ⟨.tbCfg, 28, 1⟩
def F.tbCfg_WRAP : Fld := ⟨.tbCfg, 0, 16⟩
def F.tbStat_GEN : Fld := ⟨.tbStat, 24, 8⟩
def F.tbStat_DRIFT : Fld := ⟨.tbStat, 23, 1⟩
def F.tbStat_REFLOST : Fld := ⟨.tbStat, 22, 1⟩
def F.tbStat_SLEWING : Fld := ⟨.tbStat, 21, 1⟩
def F.tbStat_DIR : Fld := ⟨.tbStat, 20, 1⟩
def F.tbStat_SEL : Fld := ⟨.tbStat, 18, 2⟩
def F.tbStat_STATE : Fld := ⟨.tbStat, 0, 3⟩
def F.tbVall_VALUE : Fld := ⟨.tbVall, 0, 32⟩
def F.tbValh_VALUE : Fld := ⟨.tbValh, 0, 32⟩
def F.tbRatel_RATE : Fld := ⟨.tbRatel, 0, 32⟩
def F.tbRateh_RATE : Fld := ⟨.tbRateh, 0, 32⟩
def F.tbPhil_PHI : Fld := ⟨.tbPhil, 0, 32⟩
def F.tbPhih_PHI : Fld := ⟨.tbPhih, 0, 32⟩
def F.tbCorr_C : Fld := ⟨.tbCorr, 0, 32⟩
def F.tbMon_WLOG : Fld := ⟨.tbMon, 26, 6⟩
def F.tbMon_M : Fld := ⟨.tbMon, 20, 4⟩
def F.tbMon_N : Fld := ⟨.tbMon, 16, 4⟩
def F.tbMon_TOL : Fld := ⟨.tbMon, 0, 16⟩
def F.tbServo_CMAX : Fld := ⟨.tbServo, 16, 16⟩
def F.tbServo_SLEW : Fld := ⟨.tbServo, 0, 16⟩
def F.tbPred_ETOL : Fld := ⟨.tbPred, 20, 12⟩
def F.tbPred_HOLDMIN : Fld := ⟨.tbPred, 16, 4⟩
def F.tbPred_DIRCONF : Fld := ⟨.tbPred, 12, 4⟩
def F.tbPred_K : Fld := ⟨.tbPred, 8, 4⟩
def F.tbPred_PTOL : Fld := ⟨.tbPred, 0, 8⟩
def F.tbRange_RMAX : Fld := ⟨.tbRange, 16, 16⟩
def F.tbRange_RMIN : Fld := ⟨.tbRange, 0, 16⟩
def F.tbObsto_TIMEOUT : Fld := ⟨.tbObsto, 0, 16⟩
def F.tbWin_WINDOWS : Fld := ⟨.tbWin, 16, 16⟩
def F.tbWin_HIST : Fld := ⟨.tbWin, 0, 8⟩
def F.tbRefcfg_V : Fld := ⟨.tbRefcfg, 31, 1⟩
def F.tbRefcfg_SRC : Fld := ⟨.tbRefcfg, 29, 2⟩
def F.tbRefcfg_CAPT : Fld := ⟨.tbRefcfg, 27, 2⟩
def F.tbRefcfg_LANE : Fld := ⟨.tbRefcfg, 25, 2⟩
def F.tbRefcfg_SCALE : Fld := ⟨.tbRefcfg, 0, 16⟩
def F.tbRefarg_ARG : Fld := ⟨.tbRefarg, 0, 18⟩
def F.tbRefoff_OFFSET : Fld := ⟨.tbRefoff, 0, 32⟩
def F.tbRefstat_VALID : Fld := ⟨.tbRefstat, 31, 1⟩
def F.tbRefstat_EXCL : Fld := ⟨.tbRefstat, 30, 1⟩
def F.tbRefstat_INTOL : Fld := ⟨.tbRefstat, 29, 1⟩
def F.tbRefstat_ERR : Fld := ⟨.tbRefstat, 16, 8⟩
def F.tbRefstat_OFFS : Fld := ⟨.tbRefstat, 0, 16⟩
def F.tbT0inc_INC : Fld := ⟨.tbT0inc, 0, 32⟩
def F.tbPort_NT_VALID : Fld := ⟨.tbPort, 31, 1⟩
def F.tbPort_STEPS : Fld := ⟨.tbPort, 8, 8⟩
def F.tbPortl_SAMPLE : Fld := ⟨.tbPortl, 0, 32⟩
def F.tbPorth_SAMPLE : Fld := ⟨.tbPorth, 0, 32⟩
def F.tskSel_TASK : Fld := ⟨.tskSel, 0, 12⟩
def F.tskCfg_EN : Fld := ⟨.tskCfg, 31, 1⟩
def F.tskCfg_BASE : Fld := ⟨.tskCfg, 27, 4⟩
def F.tskCfg_S : Fld := ⟨.tskCfg, 21, 6⟩
def F.tskCfg_M : Fld := ⟨.tskCfg, 13, 8⟩
def F.tskCfg_OWNCORE : Fld := ⟨.tskCfg, 8, 5⟩
def F.tskCfg_RELQ : Fld := ⟨.tskCfg, 7, 1⟩
def F.tskCfg_RELE : Fld := ⟨.tskCfg, 6, 1⟩
def F.tskPerl_P : Fld := ⟨.tskPerl, 0, 32⟩
def F.tskPerh_P : Fld := ⟨.tskPerh, 0, 32⟩
def F.tskT0l_T0 : Fld := ⟨.tskT0l, 0, 32⟩
def F.tskT0h_T0 : Fld := ⟨.tskT0h, 0, 32⟩
def F.tskDest_ESRC : Fld := ⟨.tskDest, 24, 8⟩
def F.tskDest_KIND : Fld := ⟨.tskDest, 18, 4⟩
def F.tskDest_PRIO : Fld := ⟨.tskDest, 14, 4⟩
def F.tskDest_QID : Fld := ⟨.tskDest, 0, 14⟩
def F.tskStat_LAG : Fld := ⟨.tskStat, 24, 8⟩
def F.tskStat_LAGN : Fld := ⟨.tskStat, 23, 1⟩
def F.tskStat_RUNNING : Fld := ⟨.tskStat, 22, 1⟩
def F.tskStat_ONGRID : Fld := ⟨.tskStat, 21, 1⟩
def F.tskStat_WIGN : Fld := ⟨.tskStat, 20, 1⟩
def F.tskStat_JOBS : Fld := ⟨.tskStat, 0, 16⟩
def F.tskCmd_REBASE : Fld := ⟨.tskCmd, 31, 1⟩
def F.tskDone_TASK : Fld := ⟨.tskDone, 0, 12⟩
def F.taHor_H : Fld := ⟨.taHor, 0, 32⟩
def F.taNq_QID : Fld := ⟨.taNq, 0, 14⟩
def F.taCnt_LATE : Fld := ⟨.taCnt, 16, 16⟩
def F.taCnt_DROP : Fld := ⟨.taCnt, 8, 8⟩
def F.taCnt_QUENCH : Fld := ⟨.taCnt, 0, 8⟩
def F.taUse_STAGED : Fld := ⟨.taUse, 16, 16⟩
def F.taUse_PEND : Fld := ⟨.taUse, 0, 14⟩
def F.taP0_BASE : Fld := ⟨.taP0, 28, 4⟩
def F.taP0_KIND : Fld := ⟨.taP0, 25, 3⟩
def F.taP0_LATE : Fld := ⟨.taP0, 23, 2⟩
def F.taP0_ENDP : Fld := ⟨.taP0, 22, 1⟩
def F.taP0_TRIG : Fld := ⟨.taP0, 21, 1⟩
def F.taP0_CHANNEL : Fld := ⟨.taP0, 12, 9⟩
def F.taP0_LANE : Fld := ⟨.taP0, 10, 2⟩
def F.taP0_OUT : Fld := ⟨.taP0, 9, 1⟩
def F.taP0_OE : Fld := ⟨.taP0, 8, 1⟩
def F.taP0_PRIO : Fld := ⟨.taP0, 4, 4⟩
def F.taP0_IKIND : Fld := ⟨.taP0, 0, 4⟩
def F.taP1_TARGET : Fld := ⟨.taP1, 0, 32⟩
def F.taP2_TARGET : Fld := ⟨.taP2, 0, 32⟩
def F.taP3_PARAM : Fld := ⟨.taP3, 0, 32⟩
def F.taP4_QN : Fld := ⟨.taP4, 31, 1⟩
def F.taP4_LN : Fld := ⟨.taP4, 30, 1⟩
def F.taP4_TAG : Fld := ⟨.taP4, 0, 16⟩
def F.taPstat_RESULT : Fld := ⟨.taPstat, 0, 4⟩
def F.sigCfg_DIRON : Fld := ⟨.sigCfg, 31, 1⟩
def F.sigCfg_BLOG : Fld := ⟨.sigCfg, 26, 5⟩
def F.sigCfg_PROBES : Fld := ⟨.sigCfg, 23, 3⟩
def F.sigBasel_ADDR : Fld := ⟨.sigBasel, 6, 26⟩
def F.sigBaseh_ADDR : Fld := ⟨.sigBaseh, 0, 16⟩
def F.sigSize_ENTRIES : Fld := ⟨.sigSize, 0, 24⟩
def F.sigStat_FERR : Fld := ⟨.sigStat, 31, 1⟩
def F.sigStat_PWERR : Fld := ⟨.sigStat, 30, 1⟩
def F.sigStat_OUTST : Fld := ⟨.sigStat, 16, 6⟩
def F.sigStat_PINNED : Fld := ⟨.sigStat, 0, 15⟩
def F.sigInv_GO : Fld := ⟨.sigInv, 31, 1⟩
def F.sigInv_LINE : Fld := ⟨.sigInv, 0, 21⟩
def F.sigPw_WORD : Fld := ⟨.sigPw, 0, 32⟩
def F.sigPwcmd_GO : Fld := ⟨.sigPwcmd, 31, 1⟩
def F.sigPwcmd_ENTRY : Fld := ⟨.sigPwcmd, 0, 23⟩
def F.sigCnt_COUNT : Fld := ⟨.sigCnt, 0, 32⟩
def F.sigChm_MASK : Fld := ⟨.sigChm, 0, 32⟩
def F.sigChc_OKKIND : Fld := ⟨.sigChc, 16, 16⟩
def F.sigChc_IDW : Fld := ⟨.sigChc, 14, 2⟩
def F.sigChc_DEFEN : Fld := ⟨.sigChc, 13, 1⟩
def F.sigChd_DEFQ : Fld := ⟨.sigChd, 0, 32⟩
def F.belHcfg_AUTORET : Fld := ⟨.belHcfg, 31, 1⟩
def F.belHcfg_RETEP : Fld := ⟨.belHcfg, 24, 4⟩
def F.belHcfg_MAXMOVE : Fld := ⟨.belHcfg, 16, 4⟩
def F.belHcfg_HIGH : Fld := ⟨.belHcfg, 8, 8⟩
def F.belHcfg_LOW : Fld := ⟨.belHcfg, 0, 8⟩
def F.belHstat_RETIRED : Fld := ⟨.belHstat, 28, 4⟩
def F.belHstat_SKIP : Fld := ⟨.belHstat, 24, 4⟩
def F.belHstat_MOVES : Fld := ⟨.belHstat, 8, 8⟩
def F.belHstat_IDLEEP : Fld := ⟨.belHstat, 4, 4⟩
def F.belTbnd_MAXSLOTS : Fld := ⟨.belTbnd, 8, 6⟩
def F.belTbnd_MINSLOTS : Fld := ⟨.belTbnd, 0, 6⟩
def F.belTiss_ENTRIES : Fld := ⟨.belTiss, 17, 6⟩
def F.belTiss_ISSUE : Fld := ⟨.belTiss, 0, 17⟩
def F.belTwait_LAG : Fld := ⟨.belTwait, 24, 8⟩
def F.belTwait_WAIT : Fld := ⟨.belTwait, 0, 17⟩
def F.pwrDreq_GO : Fld := ⟨.pwrDreq, 31, 1⟩
def F.pwrDreq_TARGET : Fld := ⟨.pwrDreq, 0, 2⟩
def F.pwrDstat_DENIED : Fld := ⟨.pwrDstat, 31, 1⟩
def F.pwrDstat_ABORT : Fld := ⟨.pwrDstat, 30, 1⟩
def F.pwrDstat_STATE : Fld := ⟨.pwrDstat, 24, 3⟩
def F.pwrDstat_WAKES : Fld := ⟨.pwrDstat, 16, 8⟩
def F.pwrDstat_HELD : Fld := ⟨.pwrDstat, 0, 16⟩
def F.pwrHold_AGE : Fld := ⟨.pwrHold, 16, 16⟩
def F.pwrHold_LIMIT : Fld := ⟨.pwrHold, 0, 16⟩
def F.pwrWake_WPEN : Fld := ⟨.pwrWake, 31, 1⟩
def F.pwrWake_WPRIO : Fld := ⟨.pwrWake, 16, 4⟩
def F.pwrWake_KINDS : Fld := ⟨.pwrWake, 0, 16⟩
def F.chnLctl_EN : Fld := ⟨.chnLctl, 31, 1⟩
def F.chnLctl_DIRECT : Fld := ⟨.chnLctl, 30, 1⟩
def F.chnLstat_STATE : Fld := ⟨.chnLstat, 30, 2⟩
def F.chnLstat_CAUSE : Fld := ⟨.chnLstat, 27, 3⟩
def F.chnLstat_PEER : Fld := ⟨.chnLstat, 0, 18⟩
def F.chnLdly_DELAY : Fld := ⟨.chnLdly, 0, 16⟩
def F.chnLcnt_CORR : Fld := ⟨.chnLcnt, 16, 16⟩
def F.chnLcnt_UNCORR : Fld := ⟨.chnLcnt, 8, 8⟩
def F.chnLcnt_REPLAY : Fld := ⟨.chnLcnt, 0, 8⟩
def F.chnRt_V : Fld := ⟨.chnRt, 31, 1⟩
def F.chnRt_TUN : Fld := ⟨.chnRt, 30, 1⟩
def F.chnRt_LEN : Fld := ⟨.chnRt, 25, 5⟩
def F.chnRt_LANES : Fld := ⟨.chnRt, 18, 4⟩
def F.chnRt_PREFIX : Fld := ⟨.chnRt, 0, 18⟩
def F.chnRwin_V : Fld := ⟨.chnRwin, 31, 1⟩
def F.chnRwin_NODE : Fld := ⟨.chnRwin, 0, 18⟩
def F.chnTcfg_EN : Fld := ⟨.chnTcfg, 31, 1⟩
def F.chnTcfg_TB : Fld := ⟨.chnTcfg, 27, 4⟩
def F.chnTcfg_PERIOD : Fld := ⟨.chnTcfg, 0, 16⟩
def F.chnEgr_HIGH : Fld := ⟨.chnEgr, 16, 16⟩
def F.chnEgr_USE : Fld := ⟨.chnEgr, 0, 10⟩
def F.chnCnt_HOP : Fld := ⟨.chnCnt, 24, 8⟩
def F.chnCnt_AGE : Fld := ⟨.chnCnt, 16, 8⟩
def F.chnCnt_NOROUTE : Fld := ⟨.chnCnt, 8, 8⟩
def F.chnCnt_LOST : Fld := ⟨.chnCnt, 0, 8⟩
def F.chnTxbl_ADDR : Fld := ⟨.chnTxbl, 6, 26⟩
def F.chnTxbh_ADDR : Fld := ⟨.chnTxbh, 0, 16⟩
def F.chnRxbl_ADDR : Fld := ⟨.chnRxbl, 6, 26⟩
def F.chnRxbh_ADDR : Fld := ⟨.chnRxbh, 0, 16⟩
def F.chnTuncfg_EN : Fld := ⟨.chnTuncfg, 31, 1⟩
def F.chnTuncfg_TXLOG : Fld := ⟨.chnTuncfg, 27, 4⟩
def F.chnTuncfg_RXLOG : Fld := ⟨.chnTuncfg, 23, 4⟩
def F.chnTuncfg_VEC : Fld := ⟨.chnTuncfg, 8, 8⟩
def F.chnTunstat_TXFULL : Fld := ⟨.chnTunstat, 31, 1⟩
def F.chnTunstat_WERR : Fld := ⟨.chnTunstat, 30, 1⟩
def F.chnTunstat_BAD : Fld := ⟨.chnTunstat, 16, 8⟩
def F.chnTunstat_ENTRIES : Fld := ⟨.chnTunstat, 0, 16⟩
def F.mirCfg_EN : Fld := ⟨.mirCfg, 31, 1⟩
def F.mirCfg_RANK : Fld := ⟨.mirCfg, 30, 1⟩
def F.mirCfg_GLANE : Fld := ⟨.mirCfg, 28, 2⟩
def F.mirCfg_LANES : Fld := ⟨.mirCfg, 24, 4⟩
def F.mirCfg_KICKEN : Fld := ⟨.mirCfg, 23, 1⟩
def F.mirCfg_PARTNER : Fld := ⟨.mirCfg, 0, 18⟩
def F.mirTim_JOINTO : Fld := ⟨.mirTim, 24, 8⟩
def F.mirTim_KICKP : Fld := ⟨.mirTim, 16, 8⟩
def F.mirTim_TBM : Fld := ⟨.mirTim, 0, 15⟩
def F.mirStat_ROLE : Fld := ⟨.mirStat, 29, 3⟩
def F.mirStat_DIVERGED : Fld := ⟨.mirStat, 28, 1⟩
def F.mirStat_GUARD : Fld := ⟨.mirStat, 27, 1⟩
def F.mirStat_PARTNER_OK : Fld := ⟨.mirStat, 26, 1⟩
def F.mirStat_SILENT : Fld := ⟨.mirStat, 25, 1⟩
def F.mirStat_INCOMPLETE : Fld := ⟨.mirStat, 24, 1⟩
def F.mirStat_MREJ : Fld := ⟨.mirStat, 23, 1⟩
def F.mirStat_HBGEN : Fld := ⟨.mirStat, 0, 16⟩
def F.mirCmd_FORCE : Fld := ⟨.mirCmd, 31, 1⟩
def F.mirCmd_KICK : Fld := ⟨.mirCmd, 30, 1⟩
def F.mirSent_MSEQ : Fld := ⟨.mirSent, 0, 20⟩
def F.mirAcked_MSEQ : Fld := ⟨.mirAcked, 0, 20⟩
def F.mirCnt_HBMISS : Fld := ⟨.mirCnt, 24, 8⟩
def F.mirCnt_REJ : Fld := ⟨.mirCnt, 16, 8⟩
def F.mirCnt_TAKE : Fld := ⟨.mirCnt, 8, 8⟩
def F.mirShd_THREADS : Fld := ⟨.mirShd, 0, 16⟩
def F.mirShp_PORTS : Fld := ⟨.mirShp, 0, 32⟩
def F.mirChm_CHANNELS : Fld := ⟨.mirChm, 0, 32⟩
def F.mirTskm_TASKS : Fld := ⟨.mirTskm, 0, 32⟩
def F.fltScfg_THRESH : Fld := ⟨.fltScfg, 28, 4⟩
def F.fltScfg_ACTION : Fld := ⟨.fltScfg, 24, 4⟩
def F.fltScfg_ALM : Fld := ⟨.fltScfg, 22, 2⟩
def F.fltScfg_WINDOW : Fld := ⟨.fltScfg, 0, 22⟩
def F.fltScnt_EVENTS : Fld := ⟨.fltScnt, 16, 16⟩
def F.fltScnt_ACTIONS : Fld := ⟨.fltScnt, 0, 16⟩
def F.fltSlast_VALID : Fld := ⟨.fltSlast, 31, 1⟩
def F.fltSlast_INSTANCE : Fld := ⟨.fltSlast, 0, 24⟩
def F.fltAlm_FATAL : Fld := ⟨.fltAlm, 2, 1⟩
def F.fltAlm_MAJOR : Fld := ⟨.fltAlm, 1, 1⟩
def F.fltAlm_MINOR : Fld := ⟨.fltAlm, 0, 1⟩
def F.fltAcause_FCLASS : Fld := ⟨.fltAcause, 28, 4⟩
def F.fltAcause_JCLASS : Fld := ⟨.fltAcause, 24, 4⟩
def F.fltAcause_MCLASS : Fld := ⟨.fltAcause, 20, 4⟩
def F.fltStat_TOVF : Fld := ⟨.fltStat, 24, 8⟩
def F.fltStat_NDROP : Fld := ⟨.fltStat, 16, 8⟩
def F.fltStat_TRACK : Fld := ⟨.fltStat, 0, 9⟩
def F.fltInj_GO : Fld := ⟨.fltInj, 31, 1⟩
def F.fltInj_CLASS : Fld := ⟨.fltInj, 24, 4⟩
def F.fltInj_INSTANCE : Fld := ⟨.fltInj, 0, 24⟩
def F.embCal0_DOW : Fld := ⟨.embCal0, 24, 3⟩
def F.embCal0_HOUR : Fld := ⟨.embCal0, 16, 5⟩
def F.embCal0_MIN : Fld := ⟨.embCal0, 8, 6⟩
def F.embCal0_SEC : Fld := ⟨.embCal0, 0, 6⟩
def F.embCal1_VALID : Fld := ⟨.embCal1, 31, 1⟩
def F.embCal1_CALEND : Fld := ⟨.embCal1, 30, 1⟩
def F.embCal1_YEAR : Fld := ⟨.embCal1, 16, 12⟩
def F.embCal1_MONTH : Fld := ⟨.embCal1, 8, 4⟩
def F.embCal1_DAY : Fld := ⟨.embCal1, 0, 5⟩
def F.embCal2_SUB : Fld := ⟨.embCal2, 0, 15⟩
def F.embSet0_DOW : Fld := ⟨.embSet0, 24, 3⟩
def F.embSet0_HOUR : Fld := ⟨.embSet0, 16, 5⟩
def F.embSet0_MIN : Fld := ⟨.embSet0, 8, 6⟩
def F.embSet0_SEC : Fld := ⟨.embSet0, 0, 6⟩
def F.embSet1_VALID : Fld := ⟨.embSet1, 31, 1⟩
def F.embSet1_CALEND : Fld := ⟨.embSet1, 30, 1⟩
def F.embSet1_YEAR : Fld := ⟨.embSet1, 16, 12⟩
def F.embSet1_MONTH : Fld := ⟨.embSet1, 8, 4⟩
def F.embSet1_DAY : Fld := ⟨.embSet1, 0, 5⟩
def F.embCalcmd_GO : Fld := ⟨.embCalcmd, 31, 1⟩
def F.embCalerr_ERR : Fld := ⟨.embCalerr, 31, 1⟩
def F.embCalerr_PEND : Fld := ⟨.embCalerr, 30, 1⟩
def F.embCalerr_REASON : Fld := ⟨.embCalerr, 0, 4⟩
def F.embTaioff_OFFSET : Fld := ⟨.embTaioff, 0, 32⟩
def F.embStat_CAL_LOST : Fld := ⟨.embStat, 31, 1⟩
def F.embStat_EMB_LOST : Fld := ⟨.embStat, 30, 1⟩
def F.embStat_CLKSTOP : Fld := ⟨.embStat, 2, 1⟩
def F.embStat_RETOK : Fld := ⟨.embStat, 1, 1⟩
def F.embWcfg_FILT : Fld := ⟨.embWcfg, 8, 8⟩
def F.embWcfg_MODE : Fld := ⟨.embWcfg, 0, 3⟩
def F.embWstat_WOKE : Fld := ⟨.embWstat, 0, 32⟩
def F.embWtimer_FIRED : Fld := ⟨.embWtimer, 31, 1⟩
def F.embWtimer_COUNT : Fld := ⟨.embWtimer, 0, 24⟩
def F.embScr_DATA : Fld := ⟨.embScr, 0, 32⟩
def F.bootStat_STAGE : Fld := ⟨.bootStat, 28, 4⟩
def F.bootStat_SEALED : Fld := ⟨.bootStat, 27, 1⟩
def F.bootStat_DVALID : Fld := ⟨.bootStat, 26, 1⟩
def F.bootStat_HOLD : Fld := ⟨.bootStat, 25, 1⟩
def F.bootStat_GO : Fld := ⟨.bootStat, 24, 1⟩
def F.bootStat_COPY : Fld := ⟨.bootStat, 23, 1⟩
def F.bootStat_FALLBACK : Fld := ⟨.bootStat, 22, 1⟩
def F.bootStat_ERR : Fld := ⟨.bootStat, 8, 8⟩
def F.bootStat_ERRSEC : Fld := ⟨.bootStat, 0, 8⟩
def F.bootSeq_SEQ : Fld := ⟨.bootSeq, 0, 32⟩
def F.bootCause_RELOADS : Fld := ⟨.bootCause, 16, 16⟩
def F.bootCause_HEARTH : Fld := ⟨.bootCause, 8, 3⟩
def F.bootCause_SOURCE : Fld := ⟨.bootCause, 4, 4⟩
def F.bootCause_KIND : Fld := ⟨.bootCause, 0, 4⟩
def F.bootStrap_BOOT_CFG : Fld := ⟨.bootStrap, 0, 8⟩
def F.bootTcrit_NS : Fld := ⟨.bootTcrit, 0, 32⟩
def F.bootTfull_NS : Fld := ⟨.bootTfull, 0, 32⟩
def F.bootCtl_RELOAD : Fld := ⟨.bootCtl, 31, 1⟩
def F.bootCtl_WARM : Fld := ⟨.bootCtl, 30, 1⟩
def F.bootCtl_HRST : Fld := ⟨.bootCtl, 29, 1⟩
def F.bootCtl_HEARTH : Fld := ⟨.bootCtl, 0, 3⟩
def F.bootHstat_BUSY : Fld := ⟨.bootHstat, 31, 1⟩
def F.bootHstat_HERR : Fld := ⟨.bootHstat, 30, 1⟩
def F.bootHstat_HEARTH : Fld := ⟨.bootHstat, 0, 3⟩
def F.bootDigest_H : Fld := ⟨.bootDigest, 0, 32⟩
def F.hstSbase_BASE : Fld := ⟨.hstSbase, 16, 16⟩
def F.hstPbasel_ADDR : Fld := ⟨.hstPbasel, 16, 16⟩
def F.hstPbaseh_ADDR : Fld := ⟨.hstPbaseh, 0, 16⟩
def F.hstCfg_EN : Fld := ⟨.hstCfg, 31, 1⟩
def F.hstCfg_DEV : Fld := ⟨.hstCfg, 30, 1⟩
def F.hstCfg_STREAM : Fld := ⟨.hstCfg, 16, 8⟩
def F.hstCfg_LOG2 : Fld := ⟨.hstCfg, 0, 5⟩
def F.hstVaddrl_ADDR : Fld := ⟨.hstVaddrl, 2, 30⟩
def F.hstVaddrh_VSTREAM : Fld := ⟨.hstVaddrh, 16, 8⟩
def F.hstVaddrh_ADDR : Fld := ⟨.hstVaddrh, 0, 16⟩
def F.hstVdata_DATA : Fld := ⟨.hstVdata, 0, 32⟩
def F.hstVctl_EN : Fld := ⟨.hstVctl, 31, 1⟩
def F.hstVctl_WIRED : Fld := ⟨.hstVctl, 30, 1⟩
def F.hstVctl_LINE : Fld := ⟨.hstVctl, 0, 3⟩
def F.hstVstat_WERR : Fld := ⟨.hstVstat, 31, 1⟩
def F.hstVstat_EVEC : Fld := ⟨.hstVstat, 16, 8⟩
def F.hstVstat_DROPS : Fld := ⟨.hstVstat, 8, 8⟩
def F.hstVstat_ERRS : Fld := ⟨.hstVstat, 0, 8⟩
def F.hstSvccfg_RLDEN : Fld := ⟨.hstSvccfg, 31, 1⟩
def F.hstHerr_NOMAP : Fld := ⟨.hstHerr, 16, 16⟩
def F.hstHerr_ERR : Fld := ⟨.hstHerr, 0, 16⟩

end Sys2Proof.Machine
end

