-- ==== Sys2Proof/Machine/SMap.lean ====
section
/-!
DEFINITION. Sparse tables as plain data: a list of (key, value) pairs in one canonical form (keys strictly rising, no
entry equal to what an unlisted key reads as).  Memory, the control registers and every array of like parts of the
block are such tables.
-/

namespace Sys2Proof.Machine

/-- A sparse table from keys to values. -/
abbrev SMap (α : Type) := List (Nat × α)

/-- The value at key `n`; an unlisted key reads as `d`. -/
def smGet {α : Type} (d : α) : SMap α → Nat → α
  | [], _ => d
  | (k, v) :: r, n => if k = n then v else smGet d r n

/-- Put (n, v) at its place among rising keys, in place of an entry with that key. -/
def smInsert {α : Type} : SMap α → Nat → α → SMap α
  | [], n, v => [(n, v)]
  | (k, w) :: r, n, v =>
    if n < k then (n, v) :: (k, w) :: r
    else if n = k then (n, v) :: r
    else (k, w) :: smInsert r n v

/-- The table without key `n`. -/
def smErase {α : Type} (m : SMap α) (n : Nat) : SMap α := m.filter fun kv => decide (kv.1 ≠ n)

/-- Write `v` at key `n`, keeping the canonical form for unlisted value `d`. -/
def smSet {α : Type} [DecidableEq α] (d : α) (m : SMap α) (n : Nat) (v : α) : SMap α :=
  if v = d then smErase m n else smInsert (smErase m n) n v

/-- Every key of `m` lies above `lo` (when given), keys rise strictly, and no entry equals `d`. -/
def smWfFrom {α : Type} [DecidableEq α] (d : α) : Option Nat → SMap α → Bool
  | _, [] => true
  | lo, (k, v) :: r =>
    (match lo with | none => true | some l => decide (l < k)) && decide (v ≠ d) && smWfFrom d (some k) r

/-- The canonical form. -/
def smWf {α : Type} [DecidableEq α] (d : α) (m : SMap α) : Bool := smWfFrom d none m

/-- Drop every entry whose key lies in [lo, hi). -/
def smDropRange {α : Type} (m : SMap α) (lo hi : Nat) : SMap α :=
  m.filter fun kv => !(decide (lo ≤ kv.1) && decide (kv.1 < hi))

/-- Keep only the entries whose key lies in [lo, hi). -/
def smKeepRange {α : Type} (m : SMap α) (lo hi : Nat) : SMap α :=
  m.filter fun kv => decide (lo ≤ kv.1) && decide (kv.1 < hi)

/-- Apply `f` to every listed value, keeping the canonical form. -/
def smMap {α : Type} [DecidableEq α] (d : α) (m : SMap α) (f : Nat → α → α) : SMap α :=
  m.filterMap fun kv => if f kv.1 kv.2 = d then none else some (kv.1, f kv.1 kv.2)

end Sys2Proof.Machine
end

