-- ==== Sys2Proof/Machine/State.lean ====
section
/-!
DEFINITION. The state of the block as plain data: every register, memory, queue, table, pin and mode the spec gives it,
and the queue of the commands that wait.  Like parts (threads, queues, ports ...) are sparse tables over their number;
a part that is not listed stands at its reset value.
-/

namespace Sys2Proof.Machine

/-! ## Threads and cores (chapters 02 to 05) -/

/-- Thread states (R122), in the order of their codes. -/
inductive ThreadState where
  | unreleased | running | sleepQueue | sleepLock | stopping | stopped | halted | faulted
  deriving DecidableEq, Repr

/-- The instructions that take one value operand or load (R74, R76). -/
inductive VOp where
  | ldA | ldX | ldY | ldBu | ldHu
  | add | addc | sub | subb | and | or | xor | cmp | tst | shl | shr | sar | rol
  | mul | mulh | div | divu | rem | remu | fadd | fsub | fmul | fdiv | fsqrt | fcmp
  | addX | addY | cmpX | cmpY
  deriving DecidableEq, Repr

/-- What a far-access entry was taken for (R43). -/
inductive FarOp where
  | value (op : VOp)
  | queueRead
  | queuePush (end_ : Bool)
  | cas
  | swap
  | waitev
  deriving DecidableEq, Repr

/-- The response of a far access, written to the registers when it is delivered (R43). -/
inductive FarResp where
  | value (w : Word)
  | item (payload tag : Word)
  | empty
  | pushed (qst : BitVec 4)
  | cas (old : Word) (z : Bool) (lst : BitVec 4)
  | swap (old : Word)
  | waitev (z : Bool) (lst : BitVec 4)
  | fault (code : Byte)
  deriving DecidableEq, Repr

/-- A far-access entry of a thread: purpose, effective address (for a queue instruction its operand field), PC of its
instruction, A, X, Y and the rounding mode as the instruction read them, its place in the order of memory operations,
whether no younger instruction issues past it (R43), and the response once the access has been performed (`none`: not
performed yet). Log entry 4 (DESIGN CHOICE). -/
structure FarEntry where
  op : FarOp
  addr : Word
  pc : Word
  a : Word
  x : Word
  y : Word
  rm : BitVec 2
  seq : Nat
  blocking : Bool
  /-- The access has left the core: a request to the SoC is outstanding, or a push is held at its port. -/
  sent : Bool
  resp : Option FarResp
  deriving DecidableEq, Repr

/-- A run-ahead buffer entry (R57, R58): word address, data, and the cycle it was filled. -/
structure RunAhead where
  addr : Nat
  data : Word
  filled : Nat
  deriving DecidableEq, Repr

/-- A branch whose delay slot has not issued yet (R46, R47). -/
structure DelaySlot where
  taken : Bool
  annul : Bool
  target : Word
  next : Word
  deriving DecidableEq, Repr

/-- Why a thread sleeps: LDW on a queue, STW or STWE for room, a slot, its quota or the egress, WAITEV on a word. -/
inductive Sleep where
  | awake
  | read (q : Qid)
  | pushDepth (q : Qid)
  | pushPool (k : Quadrant)
  | pushOver (k : Quadrant)
  | pushEgress
  | lock (addr : Nat)
  deriving DecidableEq, Repr

/-- A notice held by its holder until its queue can take it (R130). -/
structure HeldNotice where
  q : Qid
  item : BitVec 64
  /-- The order number of its place among the waiters of its queue or quadrant; 0 while it has none. -/
  wait : Nat := 0
  deriving DecidableEq, Repr

/-- A fault detected and not yet settled (R45, R561): its code, the PC that THR.PC takes (`none`: the first instruction
not completed), the PC[17:2] its notice carries, and its place in program order. -/
structure PendFault where
  code : Byte
  pc : Option Word
  npc : BitVec 16
  seq : Nat
  deriving DecidableEq, Repr

/-- Log entry 4 (DESIGN CHOICE). -/
structure Thread where
  st : ThreadState := .unreleased
  a : Word := 0
  x : Word := 0
  y : Word := 0
  f : Word := 0
  pc : Word := 0
  tp : Word := 0
  qt : Word := 0
  qst : BitVec 4 := 0
  lst : BitVec 4 := 0
  rm : BitVec 2 := 0
  timeH : Word := 0
  prio : BitVec 4 := 0
  /-- CLASS, 1 FIXED, and a change of it that waits for the frame boundary (R31, R151). -/
  cls : Bool := false
  clsNext : Option Bool := none
  hnote : Bool := false
  service : BitVec 16 := 0
  epoch : BitVec 16 := 0
  /-- ROLEBUSY with the cycle in which it clears: the purge has ended and 1,024 cycles have passed since E (R132, R133). -/
  roleBusy : Option Nat := none
  wign : Bool := false
  roleRej : Bool := false
  faultCode : Byte := 0
  faultValid : Bool := false
  notice : Option HeldNotice := none
  far : List FarEntry := []
  runAhead : List RunAhead := []
  slot : Option DelaySlot := none
  /-- The delay slot's own instruction slept and was stopped (R126): it does not issue again while STOPPING. -/
  slotSlept : Bool := false
  /-- Where the path behind the last branch's delay slot begins, for a thread that issues along it before the branch
  resolves, and how many of its instructions can reach AG by then (R53 to R56). -/
  path : Option (Word × Nat) := none
  /-- A fault detected and not yet settled (R45, R561). -/
  pendFault : Option PendFault := none
  /-- A HALT issued and not yet complete (R127): its address. -/
  halting : Option Word := none
  /-- A fence issued and not yet complete (R188): its scope, and its place in the order of memory operations. -/
  fence : Option (BitVec 2 × Nat) := none
  sleep : Sleep := .awake
  /-- When the thread fell asleep, for the wake orders of R208, R216 and R560. -/
  sleepSeq : Nat := 0
  /-- Inheritance raises held: the waiter that gave each, and its value (R140, R142). -/
  raises : List (Tid × BitVec 4) := []
  /-- Revocation records: word addresses (R147). -/
  revoked : List Nat := []
  /-- A release held because the thread is a shadow thread (R429). -/
  relPend : Bool := false
  /-- Stores of the thread that it must see acknowledged for MSYNC: the MSEQ of its last mirrored write or push (R434). -/
  mseq : Option Nat := none
  /-- Entry point and page that the billet gives (R69). -/
  imgPc : Word := 0
  imgTp : Word := 0
  /-- Cycles of the running epoch in which the thread issued, and in which it was ready without issuing (R385). -/
  issued : Nat := 0
  waited : Nat := 0
  deriving DecidableEq, Repr

/-- Type and stream tag of a request on the system master port: CM_DEV and CM_STREAM (R516, R550). -/
structure SmTag where
  dev : Bool := false
  stream : Byte := 0
  deriving DecidableEq, Repr

/-- A store-buffer entry (R181): word address, byte mask, data, storing thread, its PC[17:2], closed to merging (R168).
Log entry 4 (DESIGN CHOICE). -/
structure SbEntry where
  addr : Nat
  mask : BitVec 4
  data : Word
  t : Tid
  pc : BitVec 16
  closed : Bool
  /-- Its place in the order of memory operations. -/
  seq : Nat
  /-- For R168: the bank's owner had been told to leave before the entry entered. -/
  late : Bool := false
  /-- A store to device memory (R179), and the SoC physical address it was translated to when it entered (R550, R551). -/
  dev : Bool := false
  phys : Nat := 0
  tag : SmTag := {}
  deriving DecidableEq, Repr

/-- Prediction modes (R49), in the order of their codes. -/
inductive PredMode where
  | service | startup | test | recovery
  deriving DecidableEq, Repr

/-- An entry of the dynamic prediction table (R51). -/
structure PredEntry where
  tid : Tid
  ctr : BitVec 2
  deriving DecidableEq, Repr

structure Core where
  /-- COMMIT pending since this cycle (R35). -/
  commitAt : Option Nat := none
  /-- The pending table as it stood at the end of the cycle before the boundary at which a copy fell due, until it is
  copied; the pending table has been written since; the boundary of the last copy that fell due (R35, R36). -/
  snap : Option (List Word) := none
  wrote : Bool := false
  snapAt : Nat := 0
  /-- The active table has been loaded (R8, R61). -/
  loaded : Bool := false
  /-- Cycles of issue that no instruction's command stands for, squashed work and run-ahead loads, not yet taken off
  SLT.IDLECNT (R54, R57, R65). -/
  unseen : Nat := 0
  nospecNext : Option Bool := none
  mode : PredMode := .startup
  modeBefore : PredMode := .startup
  table : SMap (Option PredEntry) := []
  sbuf : List SbEntry := []
  inflight : List SbEntry := []
  /-- A force release in progress (R146, R159): the expected owner, and the word. -/
  release : Option (Tid × Nat) := none
  deriving DecidableEq, Repr

/-- A watch-table entry (R138): thread, word address (global view), woken by a write and not yet notified. -/
structure Watch where
  t : Tid
  addr : Nat
  woken : Bool
  /-- The inheritance chain of this waiter has not been walked yet (R140). -/
  chain : Bool
  deriving DecidableEq, Repr

/-! ## Memories (chapter 06) -/

/-- Retention states of a shared bank (R194), in the order of their codes. -/
inductive RetState where
  | active | entering | retained | waking
  deriving DecidableEq, Repr

/-- Wipe causes (R195), in the order of their codes. -/
inductive WipeCause where
  | none | tamper | lifecycle | handover
  deriving DecidableEq, Repr

/-- A handover in progress (R168): new owner, whether it wipes, the cycle W. -/
structure Handover where
  newOwner : Master
  wipe : Bool
  at_ : Nat
  deriving DecidableEq, Repr

/-- An access at a bank (R164, R166): a thread's far access or a store by its place in the order of memory operations, the
force release of a core's set, the chain unit's next remote word or its mirror copy, a thread's access to the partner table,
or a word that the boot loader or the mirror mover writes. -/
inductive BankReq where
  | far (t : Tid) (seq : Nat)
  | store (c : CoreId) (seq : Nat)
  | release (c : CoreId)
  | remote
  | copy
  | table (t : Tid)
  | word (seq : Nat) (addr : Nat) (mask : BitVec 4) (data : Word)
  deriving DecidableEq, Repr

/-- An access that waits at a bank, with its master; `old` marks one that had left the old owner when a handover began
(R168). -/
structure BankWait where
  req : BankReq
  m : Master
  old : Bool
  deriving DecidableEq, Repr

structure Bank where
  owner : Master := 0
  ho : Option Handover := none
  ret : RetState := .active
  /-- Cycle in which ENTERING began, or TB0 ns at which the wake began. -/
  retAt : Nat := 0
  /-- Cycle of the last access (R174). -/
  lastAccess : Nat := 0
  /-- The cycle in which a running wipe began, with its cause. -/
  wiping : Option Nat := none
  cause : WipeCause := .none
  /-- Accesses that wait at the bank, in the order of their arrival (R168, R175). -/
  waiting : List BankWait := []
  /-- Masters granted an access in the running cycle, the last one first (R178). -/
  grants : List Master := []
  deriving DecidableEq, Repr

/-! ## Queues (chapter 07) -/

/-- A stored item with its pool slot (R213, R214): owner, floor or shared slot, and, when it is counted in HELD of its
domain (R400), the TB0 time in ns at which it was stored. -/
structure QWord where
  item : BitVec 64
  owner : BitVec 12
  floor : Bool
  heldAt : Option Nat
  /-- The order in which words became candidates. -/
  cand : Nat
  deriving DecidableEq, Repr

/-- A packet of a packet-mode queue (R205): its pusher, the priority of its first word, its words, complete or partial.
Log entry 4 (DESIGN CHOICE). -/
structure Packet where
  sender : BitVec 22
  prio : BitVec 4
  words : List QWord
  complete : Bool
  /-- When it became a candidate, by the model's order counter. -/
  cand : Nat
  deriving DecidableEq, Repr

/-- Who reads a queue (R202, R206). -/
inductive Reader where
  | thread (t : Tid)
  | channel (ch : Chan)
  | signalEngine
  | hostMover
  | chainUnit
  deriving DecidableEq, Repr

/-- A packet open for reading (R206). -/
structure OpenPacket where
  reader : Reader
  prio : BitVec 4
  words : List QWord
  deriving DecidableEq, Repr

/-- A pusher that waits: its pool owner index and the moment it began to wait (R216, R560). -/
structure Waiter where
  owner : BitVec 12
  seq : Nat
  deriving DecidableEq, Repr

structure Queue where
  /-- Word mode: the items in the order they were written. -/
  words : List QWord := []
  /-- Packet mode: the packets, complete ones in the order they became candidates. -/
  packets : List Packet := []
  opened : Option OpenPacket := none
  depthWaiters : List Waiter := []
  /-- Wake notices on their way: the sleeping reader chosen for each (R208). -/
  notices : List Tid := []
  /-- Depth waiters chosen for a freed place and not yet served (R560). -/
  served : List Waiter := []
  /-- Doorbell STATUS.DROPS (R226). -/
  drops : Nat := 0
  deriving DecidableEq, Repr

/-- What the running cycle has done to a queue (R206, R210): the counts at the start of the cycle, whether the queue was
flushed or emptied without a level event, and whether an open packet was closed. -/
structure QueueCyc where
  depth : Nat := 0
  pkts : Nat := 0
  flushed : Bool := false
  closed : Bool := false
  deriving DecidableEq, Repr

/-- A register access that waits for the domain it has woken (R399): a write, a read by a master, or a read through the
host's view of one word or two. -/
inductive RegAcc where
  | write (w : Writer) (off : Nat) (v : Word)
  | read (m : Master) (off : Nat)
  | hostRead (off : Nat) (two : Bool)
  deriving DecidableEq, Repr

/-- The access and the domain it waits for; 22 stands for a place in the mirror egress (R435). -/
structure RegWait where
  d : Nat
  acc : RegAcc
  deriving DecidableEq, Repr

/-- A first word held at a quadrant's push port for want of an assembly entry (R207). -/
structure HeldPush where
  q : Qid
  item : BitVec 64
  owner : BitVec 12
  role : Word
  deriving DecidableEq, Repr

/-- A node of the arbitration tree of a shared port (R392): the root at the port, a hearth group, a core or pin group, and
the requesters: a thread with its stores, a pin channel, a port of a common unit. -/
inductive ArbNode where
  | root
  | group (g : BitVec 3)
  | core (c : CoreId)
  | pins (g : BitVec 3)
  | thread (t : Tid)
  | channel (ch : Chan)
  | unit (n : Nat)
  deriving DecidableEq, Repr

/-- The credit of an input at a node (R393). -/
structure ArbCredit where
  node : ArbNode
  input : ArbNode
  credit : Int
  deriving DecidableEq, Repr

/-- The tree of one port: credits that are not 0, and the last winner of each node. -/
structure Arbiter where
  credits : List ArbCredit := []
  last : List (ArbNode × ArbNode) := []
  deriving DecidableEq, Repr

structure Quad where
  /-- Free shared slots (0 until sealed, R215). -/
  free : Nat := 0
  lost : Bool := false
  waiters : List Waiter := []
  /-- Waiters for which a freed slot is claimed (R216). -/
  claims : List Waiter := []
  held : List HeldPush := []
  /-- The tree of the push port (R391). -/
  arb : Arbiter := {}
  deriving DecidableEq, Repr

structure Owner where
  use : Nat := 0
  fuse : Nat := 0
  /-- QUOTA has been written since the last reset (R8, R233). -/
  limited : Bool := false
  deriving DecidableEq, Repr

/-- A descriptor ring's mover state (R224): PHASE, and the items of the batch whose responses are outstanding. -/
structure Ring where
  phase : Bool := false
  batch : List QWord := []
  answered : Nat := 0
  /-- An entry write failed: the ring is stopped until CFG.EN is set again. -/
  stopped : Bool := false
  /-- Words written to the ring whose removal from the queue waits for a mirror record's place (R435). -/
  leaving : List QWord := []
  deriving DecidableEq, Repr

/-! ## Pin engines (chapters 08 and 09) -/

/-- Channel states (R242), in the order of their codes. -/
inductive ChState where
  | off | run | wait | stallPull | stallPush | halted | safe | latched
  deriving DecidableEq, Repr

/-- A pending timed drive of a lane (R254). -/
structure TimedDrive where
  at_ : Word
  out : Bool
  oe : Bool
  deriving DecidableEq, Repr

/-- A posted action (R330, R354). -/
structure Action where
  base : BaseId
  kind : BitVec 3
  late : BitVec 2
  keepPos : Bool
  trig : Bool
  ch : Chan
  lane : BitVec 2
  out : Bool
  oe : Bool
  prio : BitVec 4
  ikind : BitVec 4
  target : BitVec 64
  param : Word
  qn : Bool
  ln : Bool
  tag : BitVec 16
  poster : Tid
  /-- NEXT has marked the action AHEAD (R339). -/
  ahead : Bool
  deriving DecidableEq, Repr

/-- A staged action (R265, R333): the deadline cycle, the generation it was staged under, whether its deadline had
passed when it was staged, and for a pulse whose start has executed the end phase. -/
structure Staged where
  act : Action
  deadline : Nat
  gen : Byte
  passed : Bool
  ending : Bool
  /-- In a VOTE channel, the number of the pair it belongs to (R268); 0 while unpaired. -/
  pair : Nat
  /-- Of a pulse, the cycles from its start to its end as its deadline was converted (R330, R340). -/
  span : Nat := 0
  deriving DecidableEq, Repr

/-- The bit unit of a channel (R262 to R264). -/
structure BitUnit where
  setB : Bool := false
  setNext : Option Bool := none
  /-- The SHTX words held, each the bits still to send, first bit first. -/
  tx : List (List Bool) := []
  /-- The receive buffer, oldest bit first (at most 64). -/
  rx : List Bool := []
  stuffErr : Bool := false
  underrun : Bool := false
  overrun : Bool := false
  synced : Bool := false
  /-- A hard sync has set the bit start since EN was last set (R263); a read of the status leaves it. -/
  aligned : Bool := false
  resync : Byte := 0
  /-- A hard sync is armed (kind of edge), and the kind last armed. -/
  hsArm : BitVec 2 := 0
  hsKind : BitVec 2 := 0
  /-- The hard-sync edge has set the next bit start; the running bit began at a hard sync. -/
  syncNow : Bool := false
  hadSync : Bool := false
  /-- Length and level of the run of equal line bits, sending and receiving (in mode FIXED, line bits since a stuff bit). -/
  txRun : Nat := 0
  txLast : Bool := false
  rxRun : Nat := 0
  rxLast : Bool := false
  /-- STMODE changes that wait for the next bit boundary (R250, R260): lane, MODE and N. -/
  stNext : List (BitVec 2 × BitVec 2 × BitVec 4) := []
  /-- The cycle of the next bit boundary, that of the current bit start, the boundaries passed since the fraction was
  last restarted, and whether the current bit has been sampled. -/
  nextAt : Option Nat := none
  bitStart : Nat := 0
  bits : Nat := 0
  sampled : Bool := true
  deriving DecidableEq, Repr

/-- Run-time state of a supplied bus program (R283, R284, R289, R291, R297). -/
structure Prog where
  state : BitVec 4 := 0
  tec : BitVec 9 := 0
  rec_ : BitVec 9 := 0
  errs : BitVec 10 := 0
  /-- Frames lost whose LOST item has not been pushed yet (R283). -/
  lost : BitVec 16 := 0
  /-- STB or EN drives the normal level (R284). -/
  stb : Bool := false
  /-- The frame in progress: its words, the attempts made and the error of the last; bus-off recovery started by RECOVER. -/
  frame : List Word := []
  tries : Nat := 0
  lastErr : Byte := 0
  recovering : Bool := false
  /-- After a packet closed early the program waits for bus idle (R282); the cycles for which the bus has been recessive,
  while that or integration is waited for (R284). -/
  waitIdle : Bool := false
  idleFor : Nat := 0
  /-- Runs of 11 recessive bits since bus-off or RECOVER (R289). -/
  busFree : Nat := 0
  /-- SENT, by lane: the last calibration pulse, and the slow-channel bits of the messages since the last slow message. -/
  cal : SMap Nat := []
  slow : SMap (List (BitVec 2)) := []
  /-- PSI5 slots in which a frame has come (R292). -/
  slots : BitVec 4 := 0
  /-- T1S: TB0 ns of the last BEACON (R295). -/
  beaconAt : Nat := 0
  /-- PWM: the cycle at which the running period began, and its high times (R297). -/
  pwmAt : Option Nat := none
  duty : List Word := []
  sector : BitVec 3 := 0
  count : Word := 0
  quadA : Bool := false
  quadB : Bool := false
  deriving DecidableEq, Repr

/-- What the stager has sent to an executor and has not arrived (R341): the cycle of its arrival, the entry, and the pulse
end that it replaces (R266). -/
structure Arrival where
  at_ : Nat
  entry : Staged
  old : Option Staged
  deriving DecidableEq, Repr

structure Channel where
  st : ChState := .off
  d : SMap Word := []
  pc : BitVec 10 := 0
  z : Bool := false
  c : Bool := false
  qtag : Word := 0
  timed : SMap (Option TimedDrive) := []
  bu : BitUnit := {}
  staged : List Staged := []
  /-- Push actions refused and waiting (R265). -/
  pushHold : List (Qid × BitVec 64) := []
  /-- The cycle, plus one, in which the executor last performed a push or an event action (R265). -/
  emitAt : Nat := 0
  /-- The held fire of the trigger input, and the cycle in which it was held (R353). -/
  trig : Bool := false
  trigAt : Nat := 0
  notice : Option HeldNotice := none
  /-- Run-time state of its supplied bus program. -/
  prog : Prog := {}
  deriving DecidableEq, Repr

structure TsEntry where
  rising : Bool
  tb : BitVec 48
  deriving DecidableEq, Repr

/-- A change at a port, as readback and majority sampling look back on it (R257, R261): the first cycle that shows it,
and the resolved OUT and OE and the synchronised IN from then on. -/
structure PinSample where
  at_ : Nat
  out : Bool
  oe : Bool
  inp : Bool
  deriving DecidableEq, Repr

/-- Log entry 4 (DESIGN CHOICE). -/
structure PortSt where
  /-- Written OUT and OE (R255) and the synchronised IN. -/
  out : Bool := false
  oe : Bool := false
  inp : Bool := false
  /-- Rank 1 of R256 holds the port. -/
  guard : Bool := false
  /-- The cycle, plus one, whose level was last written, and the rank of its writer (R256). -/
  lastAt : Nat := 0
  lastRank : Nat := 7
  /-- The written levels before the first write of that cycle, which a higher writer of the cycle builds on (R256). -/
  wasOut : Bool := false
  wasOe : Bool := false
  ts : List TsEntry := []
  crcA : Word := 0
  crcB : Word := 0
  stuffCnt : BitVec 3 := 0
  diff : Bool := false
  /-- Length of the run of compared mismatch cycles, and whether its event has been raised (R261). -/
  rbRun : Nat := 0
  rbFired : Bool := false
  /-- Changes, newest first, as far back as readback and majority sampling reach. -/
  hist : List PinSample := []
  deriving DecidableEq, Repr

/-- A pin engine's slot-table copy (R240): the cycle of the commit that waits; then the table as it stood at the end of
the cycle before position 0, with the writes since. -/
structure Engine where
  commitAt : Option Nat := none
  snap : Option (List Word) := none
  wrote : Bool := false
  deriving DecidableEq, Repr

/-! ## Time bases, tasks, events (chapters 10 and 11) -/

/-- Time-base states (R325), in the order of their codes. -/
inductive TbState where
  | off | acquire | locked | holdover | still
  deriving DecidableEq, Repr

/-- A time base TB1 to TB15: exact anchor, rate, correction and switch offset (R310); values in the base's unit. -/
structure Base where
  st : TbState := .off
  ta : Rat := 0
  va : Rat := 0
  rate : Rat := 0
  corr : Rat := 0
  phi : Rat := 0
  gen : Byte := 0
  back : Bool := false
  sel : BitVec 2 := 0
  backCount : Nat := 0
  savedRate : Rat := 0
  /-- Verdicts of the last windows, bit 0 the last, 1 bad (R318; HIST shows eight of them). -/
  hist : BitVec 16 := 0
  /-- Cycle of the last slew update (R322). -/
  lastSlew : Nat := 0
  /-- Index of the last window evaluated (R316). -/
  lastWin : Nat := 0
  /-- Generation changes whose withdrawal has not reached the executors: their cycles and generations, oldest first
  (R340); the cycle of the change whose actions are recomputed, and the cycle, plus one, of its last step (R341). -/
  quenches : List (Nat × Byte) := []
  recompAt : Option Nat := none
  recompStep : Nat := 0
  /-- Withdrawn actions and begun pulse ends to recompute (R341). -/
  recomp : List Staged := []
  /-- The lap of the base's ring whose cycle count 0 it was last known to have reached (R349). -/
  zeroLap : Option Int := none
  /-- TIME flits: STEP is due in the next TIME flit (R422). -/
  stepDue : Bool := false
  deriving DecidableEq, Repr

/-- A reference entry's observations (R304 to R309, R316 to R323). -/
structure RefEntry where
  /-- Last and previous observation: TB0 ns and value. -/
  obs : Option (Rat × Int) := none
  prev : Option (Rat × Int) := none
  /-- First observation of the running window, for its relative rate (R312, R316). -/
  winFirst : Option (Rat × Int) := none
  /-- Running position and last raw capture (R309). -/
  pos : Int := 0
  raw : Option Nat := none
  started : Bool := false
  /-- Consecutive windows in tolerance (R319, R323). -/
  streak : Nat := 0
  /-- PORT reference: the last sample was valid. -/
  valid : Bool := false
  /-- Readmitted and not selected since (R323). -/
  readmit : Bool := false
  /-- Writes that wait for the next window end (R324). -/
  pend : List (Nat × Word) := []
  deriving DecidableEq, Repr

/-- A temper task (R344 to R348, R356). -/
structure Task where
  cfg : Word := 0
  per : BitVec 64 := 0
  t0 : BitVec 64 := 0
  dest : Word := 0
  lag : Nat := 0
  lagn : Bool := false
  running : Bool := false
  onGrid : Bool := false
  wign : Bool := false
  jobs : BitVec 16 := 0
  /-- Origin of the grid in force (R348), number and time of the next release, time of the last release. -/
  origin : Int := 0
  k : Nat := 0
  nextR : Int := 0
  lastR : Int := 0
  fin : Int := 0
  /-- The lag notice has been sent and not re-armed (R347). -/
  noted : Bool := false
  /-- A release item that waits for room (R216, R345). -/
  held : Option HeldNotice := none
  deriving DecidableEq, Repr

/-- A source pulse on its way to a consumer input (R351): the input, whether its gate allows it, TB0[47:16] and the
cycle of the pulse, and the cycle in which it reaches the input. -/
structure Fire where
  input : BitVec 12
  gateOk : Bool
  tb : Word
  at_ : Nat
  due : Nat
  deriving DecidableEq, Repr

/-! ## Signal engine (chapter 12) -/

/-- A directory cache line (R371): 4 entries of 4 words, pinned, changed since its fill, and its age for LRU. -/
structure CacheLine where
  words : List Word
  pinned : Bool
  dirty : Bool
  used : Nat
  deriving DecidableEq, Repr

/-- A fill outstanding (R373): its line, whether it is installed when it returns (R378), whether it is dropped (R375), its
number, and the line returned while its way waits for a write-back (R374). -/
structure SigFill where
  line : Nat
  install : Bool
  drop : Bool
  id : Nat := 0
  got : Option (List Word) := none
  deriving DecidableEq, Repr

/-- A packet the signal engine has read (R358): source queue and words as items, with the progress of its lookup. -/
structure SigPacket where
  /-- Its number. -/
  id : Nat
  q : Qid
  items : List (BitVec 64)
  /-- Its END word has been read. -/
  whole : Bool
  /-- Its lookup has started (R376); the directory lines read for it so far. -/
  started : Bool
  lines : SMap (List Word)
  /-- The matched frame entry: first route entry and their number; the next route entry to apply. -/
  frame : Option (Nat × Nat)
  next : Nat
  /-- Its channel and key, taken when its lookup starts (R359). -/
  key : Option (Chan × Word) := none
  /-- The line it waits for, and the number of the fill that brings it; 0 while none may be issued. -/
  waiting : Option Nat
  fill : Nat := 0
  deriving DecidableEq, Repr

/-- An output of the signal engine that waits (R377): the queue of its packet, its destination and item, and whether it
stands at a quadrant's push port or behind such an output of its queue. -/
structure SigOut where
  src : Qid
  dest : Word
  rchk : Bool
  epoch : BitVec 16
  item : BitVec 64
  atPort : Bool
  deriving DecidableEq, Repr

/-- A replacement of a pinned entry on its way (R379): the entry, its words and the cycle in which it takes effect. -/
structure PinWrite where
  entry : Nat
  words : List Word
  due : Nat
  deriving DecidableEq, Repr

/-! ## Bellows and power domains (chapter 13) -/

/-- A slot move decided by the bellows (R387, R388): core, entry, receiver, donor. -/
structure SlotMove where
  c : CoreId
  entry : Nat
  receiver : BitVec 4
  donor : Option (BitVec 4)
  deriving DecidableEq, Repr

/-- The measures at the end of an adaptation epoch (R385, R401): TISS and TWAIT of the hearth's threads, whether it was idle,
and the moves they lead to. -/
structure EpochEnd where
  tiss : List Word
  twait : List Word
  idle : Bool
  moves : List SlotMove
  deriving DecidableEq, Repr

structure Hearth where
  /-- The epoch to evaluate next (R384); the moves and the retention decision of the last one, and the cycle at which they
  apply. -/
  epoch : Nat := 0
  /-- What the epoch that ended found, until the bellows evaluates it. -/
  ended : Option EpochEnd := none
  moves : List SlotMove := []
  retain : Bool := false
  due : Option Nat := none
  deriving DecidableEq, Repr

/-- Domain states (R405), in the order of their codes. -/
inductive DomState where
  | on | draining | entering | retained | off | waking
  deriving DecidableEq, Repr

/-- Log entry 54 (DESIGN CHOICE). -/
structure Domain where
  st : DomState := .on
  /-- Cycle in which DRAINING or ENTERING began; TB0 ns at which WAKING began. -/
  since : Nat := 0
  /-- Low state the entry leads to. -/
  off : Bool := false
  /-- Stores to the domain that had left their cores when DRAINING began: accepted, and performed in it (R397). -/
  accepted : List (CoreId × Nat) := []
  pdReq : Bool := false
  pdRet : Bool := false
  pdAck : Bool := false
  /-- Cycle in which the synchronised PD_ACK last fell. -/
  ackFell : Option Nat := none
  deriving DecidableEq, Repr

/-! ## Chain and mirror (chapter 14) -/

inductive LaneState where
  | down | init | up
  deriving DecidableEq, Repr

/-- A flit that waits to be sent on: the TB0 ns from which its residence counts, and the lane and virtual channel whose
receive buffer holds it, if one does (R410, R416). -/
structure Parked where
  flit : Flit
  since : Nat
  place : Option (LaneId × BitVec 2)
  deriving DecidableEq, Repr

/-- A codeword as it left a lane: its control field and the flits of its slots, NULL flits left out (R406, R409). -/
structure TxCodeword where
  seq : BitVec 10
  ack : BitVec 10
  flits : List Flit
  deriving DecidableEq, Repr

structure Lane where
  st : LaneState := .down
  gotInit : Bool := false
  sentReady : Bool := false
  gotReady : Bool := false
  sig : Bool := false
  lock : Bool := false
  /-- Taken down by the fault window: stays DOWN until EN is written 0 and then 1 (R408). -/
  faultDown : Bool := false
  txSeq : Nat := 0
  rxNext : Nat := 0
  ack : BitVec 10 := 0x3FF
  nak : Bool := false
  /-- Sequenced codewords sent and not acknowledged, with their SEQ; those that a NAK asks for again. -/
  replay : List (Nat × List Flit) := []
  again : List (Nat × List Flit) := []
  /-- Link flits that wait for a slot (R410); a CREDIT flit with NAK, and a PROBE request, that are due. -/
  links : List Flit := []
  nakDue : Bool := false
  probeDue : Bool := false
  /-- The codeword time in which the last codeword left, and that codeword. -/
  cw : Nat := 0
  out : Option TxCodeword := none
  credits : List Nat := [0, 0, 0, 0]
  /-- Credits to return to the peer per virtual channel. -/
  owed : List Nat := [0, 0, 0, 0]
  /-- CONTROL flits that wait to be sent, in order. -/
  queue : List Flit := []
  /-- MESSAGE and TUNNEL flits that wait to be sent. -/
  msgs : List Parked := []
  /-- The peer that the received INIT flits name. -/
  peer : Node := 0
  /-- TB0 (units of 2^-16 ns) at the departure of the outstanding PROBE; TB0 ns of the last codeword and INIT. -/
  probeAt : Option (BitVec 64) := none
  lastCw : Nat := 0
  lastInit : Nat := 0
  lastProbe : Nat := 0
  deriving DecidableEq, Repr

/-- An item record on its way to another node (R413, R418). -/
structure EgressItem where
  /-- TB0 ns at which the record entered the egress (AGE, R416). -/
  at_ : Nat
  dest : Node
  q : Qid
  rchk : Bool
  rdr : Bool
  role : Word
  item : BitVec 64
  deriving DecidableEq, Repr

/-- A TX tunnel entry being filled (R424). -/
structure TunEntry where
  dest : Node
  since : Nat
  flits : List Parked
  deriving DecidableEq, Repr

structure Chain where
  egress : List EgressItem := []
  /-- Words of received RWRITE flits that wait for their bank: word index and data, and the buffer place that the last word
  of a flit frees (R168, R175, R410, R435). -/
  rwWait : List ((Nat × Word) × Option (LaneId × BitVec 2)) := []
  /-- The RWRITE flit that a core's words are being combined into, with the TB0 ns of its first word (R420). -/
  rwOpen : Option (CoreId × Flit × Nat) := none
  tun : List TunEntry := []
  txPidx : BitVec 16 := 0
  txCidx : BitVec 16 := 0
  rxPidx : BitVec 16 := 0
  rxCidx : BitVec 16 := 0
  tunSeq : SMap (BitVec 14) := []
  tunStopped : Bool := false
  lastPoll : Nat := 0
  lastTime : Nat := 0
  notice : Option HeldNotice := none
  /-- TIME flits received: last TB0 ns per source node (R422). -/
  timeSeen : SMap Nat := []
  deriving DecidableEq, Repr

/-- Mirror roles (R428), in the order of their codes. -/
inductive Role where
  | off | joining | primary | syncing | standby | alone | held
  deriving DecidableEq, Repr

structure Mirror where
  role : Role := .off
  /-- The first thread has been released: the heartbeat generator runs, joins and kicks are timed (R430, R437). -/
  begun : Bool := false
  /-- A partner's heartbeat has been heard since JOINING (R430), and HBGEN of the last one. -/
  heard : Bool := false
  lastGen : Option Nat := none
  guard : Bool := false
  armed : Bool := false
  silent : Bool := false
  hbgen : Nat := 0
  lastHbSent : Nat := 0
  /-- TB0 ns of the last increment of HBGEN (R438); heartbeat periods missed since the last heartbeat (R446). -/
  hbAt : Nat := 0
  missed : Nat := 0
  lastHbRx : Nat := 0
  lastKick : Nat := 0
  stopped : Bool := false
  joinAt : Nat := 0
  /-- PARTNER_OK test running since this TB0 ns, with whether it serves a join timeout (R430, R439). -/
  testAt : Option Nat := none
  testJoin : Bool := false
  /-- The 10 us guard before a takeover began at this TB0 ns, with whether it sets DIVERGED. -/
  guardAt : Option Nat := none
  /-- The wait leads to ALONE after a join timeout, not to a takeover (R430). -/
  guardJoin : Bool := false
  /-- The last MSEQ given, the last sent, acknowledged and applied (R434, R446). -/
  sent : BitVec 20 := 0
  gone : BitVec 20 := 0
  acked : BitVec 20 := 0
  applied : BitVec 20 := 0
  egress : List Flit := []
  /-- Flits received ahead of their MSEQ, and whether the first flit of the stream has set the place (R434). -/
  early : List (Flit × LaneId) := []
  based : Bool := false
  copying : Bool := false
  /-- What a copy still has to send (R430): banks with the next run of the first, queues, records of the queue being sent,
  and MSTATE flits as (subtype, words). -/
  copyBanks : List BankId := []
  copyRun : Nat := 0
  copyQueues : List Qid := []
  copyRecs : List (List Word) := []
  copyTail : List (Nat × List Word) := []
  copyEnd : Bool := false
  ignoreHb : Bool := false
  delta : Rat := 0
  /-- Cycle of the last periodic time-base snapshots, and the generation last sent per base (R432). -/
  lastSnap : Nat := 0
  gens : SMap Nat := []
  /-- Records of mirrored tasks at the standby (R432): words 0 to 10 of the last MSTATE per task. -/
  tasks : SMap (List Word) := []
  /-- Last time-base snapshot per base (R432): words 0 to 9. -/
  snaps : SMap (List Word) := []
  deriving DecidableEq, Repr

/-! ## Faults, boot, ember (chapters 15 to 17) -/

/-- A tracking entry of the fault counter unit (R451). -/
structure Track where
  cls : BitVec 4
  inst : BitVec 24
  n : Nat
  w : Nat
  deriving DecidableEq, Repr

structure Faults where
  track : List Track := []
  /-- Events detected and not yet taken by the unit: class and instance. -/
  events : List (BitVec 4 × BitVec 24) := []
  notice : Option HeldNotice := none
  /-- Retired lines: (memory ID, line). -/
  lines : List (Nat × Nat) := []
  /-- Lines of user memory with an uncorrectable word that no access has met yet: (memory ID, line) (R177). -/
  found : List (Nat × Nat) := []
  /-- Banks handed to NONE as lost regions, the signal engine lost, hearths whose pin group is told of their loss (R272), a
  lasting fault of the block in force. -/
  banks : List BankId := []
  sigLost : Bool := false
  /-- Pin engines whose channels the loss of their program memory has made safe, and of which none has started since. -/
  engines : List EngineId := []
  hearths : List HearthId := []
  block : Bool := false
  deriving DecidableEq, Repr

/-- Boot stages (R486), in the order of their codes. -/
inductive Stage where
  | rom | headers | critical | rest | sealing | hold | run | failed
  deriving DecidableEq, Repr

/-- A section table entry (R469). -/
structure SectEntry where
  flags : Byte
  inst : BitVec 16
  type : Byte
  offset : Nat
  length : Nat
  crc : Word
  deriving DecidableEq, Repr

/-- Log entry 54 (DESIGN CHOICE). -/
structure Boot where
  stage : Stage := .rom
  seald : Bool := false
  dvalid : Bool := false
  hold : Bool := false
  copyB : Bool := false
  fallback : Bool := false
  err : Byte := 0
  errsec : Byte := 0
  /-- The failed copy excluded until the next cold reset: false A, true B (R476). -/
  excluded : Option Bool := none
  seq : Word := 0
  total : Nat := 0
  table : List SectEntry := []
  /-- Sections loaded so far, and the bytes of the copy read so far, first byte first. -/
  next : Nat := 0
  stream : List Byte := []
  /-- The SEAL section's words as read (check 8 of R482). -/
  sealWords : List Word := []
  /-- A hearth reset runs for this hearth (R484). -/
  hearth : Option HearthId := none
  critDone : Bool := false
  /-- The critical masters have been released (R478). -/
  released : Bool := false
  /-- TB0 ns at the release of the reset; error and section of the copy that fell back (R476). -/
  since : Nat := 0
  lastErr : Byte := 0
  lastSec : Byte := 0
  deriving DecidableEq, Repr

/-- Ember content (R490 to R506) kept apart from the register table: calendar, sentinel, pending writes, filters.
Log entry 53 (DESIGN CHOICE). -/
structure Ember where
  year : Nat := 2000
  month : Nat := 1
  day : Nat := 1
  hour : Nat := 0
  min : Nat := 0
  sec : Nat := 0
  sub : Nat := 0
  valid : Bool := false
  calend : Bool := false
  /-- An accepted set waits: ticks still to pass and the values of SET0 and SET1 (R491, R496); its tick has come. -/
  setPend : Option (Nat × Word × Word) := none
  setDue : Bool := false
  /-- Register writes waiting for their tick: ticks still to pass, offset, value (R491). -/
  writes : List (Nat × Nat × Word) := []
  sentA : Word := 0x454D4252
  sentB : Word := 0xBAB2BDAD
  retok : Bool := true
  clkstop : Bool := false
  /-- The second carry is due (SUB wrapped at the last tick) and the timer second. -/
  secDue : Bool := false
  /-- Per wake port: consecutive samples of the mode's level; LIN dominant seen long enough; wake due. -/
  filt : SMap Nat := []
  wakeDue : List (BitVec 5) := []
  timerDue : Bool := false
  lastTick : Nat := 0
  deriving DecidableEq, Repr

/-! ## SoC side (chapters 18 and 19) -/

/-- An outstanding request of the system master port (R516): a read or a masked write of one 32-bit word, a descriptor,
a directory line or a vector write. -/
inductive SmReq where
  | load (t : Tid) (addr : Nat) (tag : SmTag)
  | store (t : Tid) (addr : Nat) (data : Word) (mask : BitVec 4) (tag : SmTag)
  | descriptor (r : BitVec 10) (addr : Nat) (bytes : List Word)
  | ringIndex (r : BitVec 10) (addr : Nat) (pidx : BitVec 16)
  | fill (line : Nat) (addr : Nat)
  | writeBack (line : Nat) (addr : Nat) (words : List Word)
  | vector (v : Byte) (addr : Nat) (data : Word) (stream : Byte)
  | tunnel (addr : Nat) (words : List Word)
  | tunnelIndex (addr : Nat) (idx : BitVec 16)
  deriving DecidableEq, Repr

/-- A reset that waits for the outstanding requests of the system master port (R524): a reload with its source, straps,
BOOT_HOLD and LC_STATE as sampled, or a warm reset. -/
inductive ResetDue where
  | reload (source : Nat) (straps : Byte) (hold : Bool) (lc : BitVec 3)
  | warm
  deriving DecidableEq, Repr

/-- Log entry 54 (DESIGN CHOICE). -/
structure Soc where
  due : Option ResetDue := none
  reqs : List SmReq := []
  /-- Requests that wait for a command credit (R517), oldest first. -/
  held : List SmReq := []
  /-- Vector writes raised in this cycle, in ascending vector number (R552). -/
  raised : List SmReq := []
  /-- The tree of the system master port (R391). -/
  arb : Arbiter := {}
  smCredits : Nat := 0
  htCredits : Nat := 0
  dpCredits : Nat := 0
  /-- Replies of the host target port and of the debug port that wait for a reply credit. -/
  htOwed : Nat := 0
  dpOwed : Nat := 0
  /-- Wired interrupt lines that are high: line to the cycle in which its pulse ends (R525). -/
  irq : SMap Nat := []
  tamper : Bool := false
  lc : BitVec 3 := 0
  bootGo : Bool := false
  /-- Time port word last captured, its validity, and the step latch (R527). -/
  ntTime : BitVec 64 := 0
  ntValid : Bool := false
  ntStep : Bool := false
  deriving DecidableEq, Repr

/-- The whole block. Log entries 3 (DEDUCED), 4 (DESIGN CHOICE). -/
structure State where
  /-- Block cycles since the clock started after cold reset release (R30). -/
  cycle : Nat
  /-- The 80-bit sum of TB0, and the increment this cycle adds: T0INC at the start of the cycle (R303). -/
  tbSum : BitVec 80
  incNow : Word
  /-- How often TB0 has wrapped: the model's own count, which keeps its intervals of time whole across a wrap. -/
  tbEra : Nat
  /-- Control registers by offset from 0x0500_0000: fields held as written or set (R558). -/
  regs : SMap Word
  /-- Registers in which the running cycle has set flags or counted (R10): the value at the start of the cycle, and what a
  register that began it at 0 would hold.  The model's own record. -/
  cycEv : SMap (Option (Word × Word))
  /-- Bytes of user memory by global address: core-local memories and shared banks (R162, R547). -/
  mem : List Host.Cell
  threads : SMap Thread
  cores : SMap Core
  watches : List Watch
  /-- Threads whose wake notice, and raises (owner, waiter, priority) that, wait for a hearth to be ON (R398, R399). -/
  heldWakes : List Tid
  heldRaises : List (Tid × Tid × BitVec 4)
  /-- Register accesses that wait for a domain (R399). -/
  regWaits : List RegWait
  banks : SMap Bank
  queues : SMap Queue
  quads : SMap Quad
  owners : SMap Owner
  rings : SMap Ring
  qeNotice : Option HeldNotice
  /-- The first cycle in which the queue engine's purge is free again (R135). -/
  purgeFree : Nat
  /-- Items held by units that wait for room: event push consumers by input (R352). -/
  evmHeld : SMap (Option HeldNotice)
  /-- Queues that the running cycle has changed (R210, R212). -/
  qcyc : SMap (Option QueueCyc)
  /-- Words that left their queues in the running cycle, with their quadrants: their slots are freed at its end (R214). -/
  freed : List (Quadrant × QWord)
  /-- The order counter at the start of the cycle: a word stored since is no candidate yet (R204, R212). -/
  cycSeq : Nat
  engines : SMap Engine
  /-- Pin-engine program memories: word 1024 e + i (R237). -/
  pmem : SMap Word
  channels : SMap Channel
  ports : SMap PortSt
  bases : SMap Base
  refs : SMap RefEntry
  /-- Latched high words per reading master (R99, R324, R504). -/
  latches : SMap Word
  pend : List Action
  /-- Staged entries on their way to an executor (R341), and the index, plus one, of the last period of 1,024 cycles whose
  revalidation pass has run (R336). -/
  arrivals : List Arrival
  passDone : Nat
  stagerNotice : Option HeldNotice
  tasks : SMap Task
  temperNotice : Option HeldNotice
  fires : List Fire
  /-- Sources that pulsed in the current cycle: the level of a pulse-only source (R349). -/
  pulsedNow : List (BitVec 12)
  /-- Wake inputs of the event matrix that fired in this cycle: busy until its end (R350). -/
  wokeNow : List Nat
  /-- Directory cache by line number, packets read, fills and write-backs outstanding (R371 to R377). -/
  cache : SMap (Option CacheLine)
  sigPackets : List SigPacket
  sigOut : List SigOut
  pinWrite : Option PinWrite
  fills : List SigFill
  writeBacks : List Nat
  hearths : SMap Hearth
  domains : SMap Domain
  lanes : SMap Lane
  chain : Chain
  mirror : Mirror
  faults : Faults
  boot : Boot
  ember : Ember
  soc : Soc
  /-- The answer of the last register or doorbell read. -/
  answer : BitVec 64
  /-- Threads that issued an instruction since the last clock tick. -/
  issuedNow : List Tid
  /-- The store whose effect on a control register is being performed, for the fault of its writer: its PC[17:2] and its
  place in the order of memory operations; `none` between commands. -/
  storeAt : Option (BitVec 16 × Nat)
  /-- Orders sleepers, waiters and cache uses; the model's own counter. -/
  seq : Nat
  /-- Index of the next free value (Config); the model's own counter. -/
  fresh : Nat
  /-- The commands that wait, first in, first out. -/
  pending : List Instr
  deriving DecidableEq, Repr

/-- Why a step stops with a fault: no command of the block does (every fault of the spec is an effect on the state); the
type has one constructor so that it is inhabited. Log entry 59 (DESIGN CHOICE). -/
inductive Fault where
  /-- Raised by nothing. -/
  | none
  deriving DecidableEq, Repr

/-- Why a step is refused. Log entry 59 (DESIGN CHOICE). -/
inductive Refusal where
  /-- A command that has no meaning yet (raised by its arm of `exec`); safe. -/
  | notModelled (mnemonic : String)
  deriving DecidableEq, Repr

/-- The block right after cold reset (R8, R466): nothing listed, but the registers whose Reset column is not 0 and not
derived: TB.T0INC (R303) and FLT.ACAUSE (R464). Log entry 2 (DESIGN CHOICE). -/
def State.reset : State where
  cycle := 0
  tbSum := 0
  tbEra := 0
  incNow := 0xAAAAAAAB
  regs := [(0x141000, 0xAAAAAAAB), (0x190104, 0xFFF00000)]
  cycEv := []
  mem := []
  threads := []
  cores := []
  watches := []
  heldWakes := []
  heldRaises := []
  regWaits := []
  banks := []
  queues := []
  quads := []
  owners := []
  rings := []
  qeNotice := none
  purgeFree := 0
  evmHeld := []
  qcyc := []
  freed := []
  cycSeq := 0
  engines := []
  pmem := []
  channels := []
  ports := []
  bases := []
  refs := []
  latches := []
  pend := []
  arrivals := []
  passDone := 0
  stagerNotice := none
  tasks := []
  temperNotice := none
  fires := []
  pulsedNow := []
  wokeNow := []
  cache := []
  sigPackets := []
  sigOut := []
  pinWrite := none
  fills := []
  writeBacks := []
  hearths := []
  domains := []
  lanes := []
  chain := {}
  mirror := {}
  faults := {}
  boot := {}
  ember := {}
  soc := {}
  answer := 0
  issuedNow := []
  storeAt := none
  seq := 0
  fresh := 0
  pending := []

end Sys2Proof.Machine
end

