-- ==== Sys2Proof/Machine/Arbitration.lean ====
section
/-!
DEFINITION. Population-weighted rotation (R391 to R394): the tree of a shared port and its grants. Log entry 69 (DEDUCED).
-/

namespace Sys2Proof.Machine

/-- Input order of a node. -/
def ArbNode.rank : ArbNode → Nat
  | .root => 0
  | .group g => 0x10 + g.toNat
  | .core c => 0x20 + c.toNat
  | .pins g => 0x40 + g.toNat
  | .thread t => 0x1000 + t.toNat
  | .channel ch => 0x2000 + ch.toNat
  | .unit n => 0x10000 + n

/-- The nodes from below the root to a requester (R392): central units join the root directly. -/
def ArbNode.path : ArbNode → List ArbNode
  | .thread t => [.group (t.extractLsb' 6 3), .core (t.extractLsb' 4 5), .thread t]
  | .channel ch => [.group (ch.extractLsb' 6 3), .pins (ch.extractLsb' 6 3), .channel ch]
  | .unit n => [.unit n]
  | _ => []

def Arbiter.creditOf (a : Arbiter) (n i : ArbNode) : Int :=
  match a.credits.find? fun x => x.node == n && x.input == i with
  | some x => x.credit
  | none => 0

/-- How far input i comes after the last winner of node n. -/
def Arbiter.afterLast (a : Arbiter) (n i : ArbNode) : Nat :=
  match a.last.find? fun x => x.1 == n with
  | some x => (i.rank + 2 ^ 20 - x.2.rank - 1) % 2 ^ 20
  | none => i.rank

/-- The sum of the populations of a node's inputs. -/
def population (ins : List (ArbNode × Nat)) : Nat := (ins.map fun x => x.2).sum

/-- The input of the largest credit, the first after the last winner among equals. -/
def Arbiter.winner (a : Arbiter) (n : ArbNode) (ins : List (ArbNode × Nat)) : Option ArbNode :=
  (ins.foldl (fun (b : Option (ArbNode × Int)) x =>
    let c := a.creditOf n x.1 + x.2
    match b with
    | none => some (x.1, c)
    | some y => if y.2 < c || (y.2 == c && decide (a.afterLast n x.1 < a.afterLast n y.1)) then some (x.1, c) else b)
    none).map fun y => y.1

/-- One grant opportunity at node n, won by input w (R393): inputs without a request have no credit left. -/
def Arbiter.granted (a : Arbiter) (n w : ArbNode) (ins : List (ArbNode × Nat)) : Arbiter :=
  let cs := ins.map fun x =>
    ArbCredit.mk n x.1 (a.creditOf n x.1 + x.2 - (if x.1 = w then (population ins : Int) else 0))
  { credits := (a.credits.filter fun x => x.node != n) ++ cs.filter fun x => x.credit != 0
    last := (n, w) :: a.last.filter fun x => x.1 != n }

/-- The inputs of a node with their populations, from the paths of the requesters below it. -/
def inputsOf (ps : List (List ArbNode)) : List (ArbNode × Nat) :=
  let hs := ps.filterMap List.head?
  hs.dedup.map fun h => (h, hs.count h)

/-- A grant passes from node n down to a requester; the fuel is the depth of the tree. -/
def Arbiter.descend : Nat → ArbNode → List (List ArbNode) → Arbiter → ArbNode × Arbiter
  | 0, n, _, a => (n, a)
  | k + 1, n, ps, a =>
    match a.winner n (inputsOf ps) with
    | none => (n, a)
    | some w =>
      Arbiter.descend k w ((ps.filter fun p => p.head? == some w).map List.tail) (a.granted n w (inputsOf ps))

/-- A hearth reset covers the nodes of the hearth's cores: their credits are 0 (R393). -/
def Arbiter.resetHearth (a : Arbiter) (h : HearthId) : Arbiter :=
  let mine : ArbNode → Bool := fun n => match n with | .core c => c.extractLsb' 2 3 == h | _ => false
  { credits := a.credits.filter fun x => !mine x.node, last := a.last.filter fun x => !mine x.1 }

/-- One grant among the requesters of a list; a requester counts once however many of its requests wait. -/
def Arbiter.grant (a : Arbiter) (rs : List ArbNode) : ArbNode × Arbiter := Arbiter.descend 3 .root (rs.dedup.map ArbNode.path) a

/-- The requester that a pool owner stands for: a thread, a channel, the host port for every page, or a unit. -/
def requesterOf (o : BitVec 12) : ArbNode :=
  let n := o.toNat
  if n < 0x200 then .thread (BitVec.ofNat 9 n)
  else if n < 0x400 then .channel (BitVec.ofNat 9 (n - 0x200))
  else if n < 0x800 then .unit 0x400
  else .unit n

/-- The requester behind a request of the system master port. -/
def SmReq.requester : SmReq → ArbNode
  | .load t _ _ => .thread t
  | .store t _ _ _ _ => .thread t
  | .descriptor _ _ _ => .unit 1
  | .ringIndex _ _ _ => .unit 1
  | .fill _ _ => .unit 2
  | .writeBack _ _ _ => .unit 2
  | .vector _ _ _ _ => .unit 3
  | .tunnel _ _ => .unit 4
  | .tunnelIndex _ _ => .unit 4

/-- The first element that each requester has in a list. -/
def firstOfEach {α : Type} (f : α → ArbNode) : List α → List ArbNode → List α
  | [], _ => []
  | x :: r, seen => if seen.contains (f x) then firstOfEach f r seen else x :: firstOfEach f r (f x :: seen)

/-- The element of a list of ready requests that the port grants, with the tree after the grant. -/
def Arbiter.choose {α : Type} (a : Arbiter) (f : α → ArbNode) (xs : List α) : Option α × Arbiter :=
  let g := a.grant (xs.map f)
  (xs.find? fun x => f x == g.1, g.2)

end Sys2Proof.Machine
end

