-- ==== Sys2Proof/Machine/Ops.lean ====
section
/-!
DEFINITION. The named operations over the state: the parts by number, the control registers and their fields, bytes of
memory, time, free values and requests to the SoC.  Every meaning is written over these.
-/

namespace Sys2Proof.Machine

/-- What a command answers. -/
abbrev Out := Host.Outcome State Fault Refusal

/-! ## Parts by number -/

def State.thr (s : State) (t : Tid) : Thread := smGet {} s.threads t.toNat
def State.setThr (s : State) (t : Tid) (th : Thread) : State := { s with threads := smSet {} s.threads t.toNat th }
def State.core (s : State) (c : CoreId) : Core := smGet {} s.cores c.toNat
def State.setCore (s : State) (c : CoreId) (x : Core) : State := { s with cores := smSet {} s.cores c.toNat x }
def State.bank (s : State) (b : BankId) : Bank := smGet {} s.banks b.toNat
def State.setBank (s : State) (b : BankId) (x : Bank) : State := { s with banks := smSet {} s.banks b.toNat x }
def State.queue (s : State) (q : Qid) : Queue := smGet {} s.queues q.toNat
def State.setQueue (s : State) (q : Qid) (x : Queue) : State := { s with queues := smSet {} s.queues q.toNat x }
def State.quad (s : State) (k : Quadrant) : Quad := smGet {} s.quads k.toNat
def State.setQuad (s : State) (k : Quadrant) (x : Quad) : State := { s with quads := smSet {} s.quads k.toNat x }
def State.owner (s : State) (o : BitVec 12) : Owner := smGet {} s.owners o.toNat
def State.setOwner (s : State) (o : BitVec 12) (x : Owner) : State := { s with owners := smSet {} s.owners o.toNat x }
def State.ring (s : State) (r : BitVec 10) : Ring := smGet {} s.rings r.toNat
def State.setRing (s : State) (r : BitVec 10) (x : Ring) : State := { s with rings := smSet {} s.rings r.toNat x }
def State.engine (s : State) (e : EngineId) : Engine := smGet {} s.engines e.toNat
def State.setEngine (s : State) (e : EngineId) (x : Engine) : State := { s with engines := smSet {} s.engines e.toNat x }
def State.chan (s : State) (c : Chan) : Channel := smGet {} s.channels c.toNat
def State.setChan (s : State) (c : Chan) (x : Channel) : State := { s with channels := smSet {} s.channels c.toNat x }
def State.port (s : State) (p : Port) : PortSt := smGet {} s.ports p.toNat
def State.setPort (s : State) (p : Port) (x : PortSt) : State := { s with ports := smSet {} s.ports p.toNat x }
def State.base (s : State) (n : BaseId) : Base := smGet {} s.bases n.toNat
def State.setBase (s : State) (n : BaseId) (x : Base) : State := { s with bases := smSet {} s.bases n.toNat x }
/-- Reference entry j of base n (R304), kept under 4 n + j. -/
def State.ref (s : State) (n : BaseId) (j : BitVec 2) : RefEntry := smGet {} s.refs (4 * n.toNat + j.toNat)
def State.setRef (s : State) (n : BaseId) (j : BitVec 2) (x : RefEntry) : State :=
  { s with refs := smSet {} s.refs (4 * n.toNat + j.toNat) x }
def State.task (s : State) (k : TaskId) : Task := smGet {} s.tasks k.toNat
def State.setTask (s : State) (k : TaskId) (x : Task) : State := { s with tasks := smSet {} s.tasks k.toNat x }
def State.hearth (s : State) (h : HearthId) : Hearth := smGet {} s.hearths h.toNat
def State.setHearth (s : State) (h : HearthId) (x : Hearth) : State := { s with hearths := smSet {} s.hearths h.toNat x }
def State.dom (s : State) (d : Nat) : Domain := smGet {} s.domains d
def State.setDom (s : State) (d : Nat) (x : Domain) : State := { s with domains := smSet {} s.domains d x }
def State.lane (s : State) (l : LaneId) : Lane := smGet {} s.lanes l.toNat
def State.setLane (s : State) (l : LaneId) (x : Lane) : State := { s with lanes := smSet {} s.lanes l.toNat x }

/-! ## Identifiers (R15 to R22) -/

/-- Global core of a thread (R16). -/
def coreOf (t : Tid) : CoreId := t.extractLsb' 4 5
/-- Hearth of a thread (R15). -/
def hearthOf (t : Tid) : HearthId := t.extractLsb' 6 3
def hearthOfCore (c : CoreId) : HearthId := c.extractLsb' 2 3
/-- Master of a core (R24). -/
def masterOf (c : CoreId) : Tid := c ++ (0 : BitVec 4)
/-- Hearth supervisor (R24). -/
def supervisorOf (h : HearthId) : Tid := h ++ (0 : BitVec 6)
/-- The block supervisor (R24). -/
def blockSupervisor : Tid := 0
/-- Engine and context of a channel (R17). -/
def engineOf (ch : Chan) : EngineId := ch.extractLsb' 3 6
def contextOf (ch : Chan) : BitVec 3 := ch.extractLsb' 0 3
/-- Pin group of a channel or a port (R17, R18). -/
def groupOf (x : BitVec 9) : HearthId := x.extractLsb' 6 3
/-- Quadrant of a queue (R19). -/
def quadrantOf (q : Qid) : Quadrant := q.extractLsb' 12 2
/-- The slag queue (R19). -/
def slagQueue : Qid := 0x3FFF

/-- Receiver of a thread's fault (R25): the nearest supervisor that is a different thread; none for TID 0x000. -/
def faultReceiver (t : Tid) : Option Tid :=
  if t ≠ masterOf (coreOf t) then some (masterOf (coreOf t))
  else if t ≠ supervisorOf (hearthOf t) then some (supervisorOf (hearthOf t))
  else if t ≠ blockSupervisor then some blockSupervisor
  else none

/-- The writer has the authority of the master of core c, of its hearth's supervisor or of the block supervisor (R27);
the debug port acts as the block supervisor (R541) and the boot unit writes records (R473). -/
def overCore (w : Writer) (c : CoreId) : Bool :=
  match w with
  | .thread t => t == masterOf c || t == supervisorOf (hearthOfCore c) || t == blockSupervisor
  | .debug => true
  | .boot => true

/-- The writer is the supervisor of hearth h or the block supervisor. -/
def overHearth (w : Writer) (h : HearthId) : Bool :=
  match w with
  | .thread t => t == supervisorOf h || t == blockSupervisor
  | .debug => true
  | .boot => true

/-- The writer is the block supervisor. -/
def isBlock (w : Writer) : Bool :=
  match w with
  | .thread t => t == blockSupervisor
  | .debug => true
  | .boot => true

/-! ## Control registers -/

/-- Offset of instance (i, j) of a register from 0x0500_0000. -/
def regOff (k : RegKind) (i : Nat) (j : Nat) : Nat := k.desc.base + k.desc.stride * i + k.desc.mstride * j

def State.regAt (s : State) (off : Nat) : Word := smGet 0 s.regs off
def State.setRegAt (s : State) (off : Nat) (v : Word) : State := { s with regs := smSet 0 s.regs off v }
def State.reg (s : State) (k : RegKind) (i : Nat := 0) (j : Nat := 0) : Word := s.regAt (regOff k i j)
def State.setReg (s : State) (k : RegKind) (v : Word) (i : Nat := 0) (j : Nat := 0) : State :=
  s.setRegAt (regOff k i j) v

/-- Bits [lo + len - 1 : lo] of a word. -/
def bitsOf (w : Word) (lo len : Nat) : Nat := w.toNat / 2 ^ lo % 2 ^ len

/-- Bits [lo + len - 1 : lo] of a word replaced by v. -/
def putBits (w : Word) (lo len v : Nat) : Word :=
  BitVec.ofNat 32 (2 ^ lo * (v % 2 ^ len) + (w.toNat - 2 ^ lo * bitsOf w lo len))

def Fld.get (f : Fld) (w : Word) : Nat := bitsOf w f.lo f.len
def Fld.put (f : Fld) (w : Word) (v : Nat) : Word := putBits w f.lo f.len v
def State.fld (s : State) (f : Fld) (i : Nat := 0) (j : Nat := 0) : Nat := f.get (s.reg f.kind i j)
def State.bit (s : State) (f : Fld) (i : Nat := 0) (j : Nat := 0) : Bool := s.fld f i j != 0
def State.setFld (s : State) (f : Fld) (v : Nat) (i : Nat := 0) (j : Nat := 0) : State :=
  s.setReg f.kind (f.put (s.reg f.kind i j) v) i j

/-- What the running cycle has set or counted so far in the register at an offset (R10). -/
def State.setNowAt (s : State) (off : Nat) : Word :=
  match smGet none s.cycEv off with
  | some p => p.2
  | none => 0

def State.setNow (s : State) (k : RegKind) (i : Nat := 0) (j : Nat := 0) : Word := s.setNowAt (regOff k i j)

/-- A register as it stood at the start of the cycle, but for its fields that no event sets (R10). -/
def State.atStart (s : State) (k : RegKind) (i : Nat := 0) (j : Nat := 0) : Word :=
  match smGet none s.cycEv (regOff k i j) with
  | some p => p.1
  | none => s.reg k i j

/-- The running cycle sets a flag, or counts n, in a field of the register at an offset: a clear of the same cycle leaves
that (R10).  Flags of a task, which have no offset of their own, stand at 2^24 plus its number. -/
def State.noteAt (s : State) (off : Nat) (f : Fld) (n : Nat) : State :=
  let start := match smGet none s.cycEv off with
    | some p => p.1
    | none => s.regAt off
  let now := f.put (s.setNowAt off) (min (f.get (s.setNowAt off) + n) (2 ^ f.len - 1))
  { s with cycEv := smSet none s.cycEv off (some (start, now)) }

def State.noteEvent (s : State) (f : Fld) (n : Nat) (i : Nat := 0) (j : Nat := 0) : State := s.noteAt (regOff f.kind i j) f n

/-- A flag after a write of 1 or 0 to its W1C bit: cleared, but for an event of the running cycle (R9, R10). -/
def flagAfter (was : Bool) (f : Fld) (v now : Word) : Bool := was && (f.get v == 0 || f.get now == 1)

/-- Add to a counter that saturates at its field's maximum. -/
def State.satAdd (s : State) (f : Fld) (n : Nat) (i : Nat := 0) (j : Nat := 0) : State :=
  (s.noteEvent f n i j).setFld f (min (s.fld f i j + n) (2 ^ f.len - 1)) i j

/-- An event sets a status flag. -/
def State.raise (s : State) (f : Fld) (i : Nat := 0) (j : Nat := 0) : State := (s.noteEvent f 1 i j).setFld f 1 i j

/-- Instance (i, j) of a register description at an offset. -/
def RegDesc.find (d : RegDesc) (off : Nat) : Option (Nat × Nat) :=
  if off < d.base then none
  else
    let r := off - d.base
    let i := if d.stride = 0 then 0 else r / d.stride
    let rem := if d.stride = 0 then r else r % d.stride
    if d.n ≤ i then none
    else if d.mstride = 0 then (if rem = 0 then some (i, 0) else none)
    else if rem % d.mstride = 0 && rem / d.mstride < d.m then some (i, rem / d.mstride) else none

/-- The register at an offset, with its instance numbers (R558). -/
def locate (off : Nat) : Option (RegKind × Nat × Nat) :=
  RegKind.all.findSome? fun k => (k.desc.find off).map fun ij => (k, ij.1, ij.2)

/-- The effect of a write on the stored fields of a register by their access codes (R9): RW fields take the written
bits, RWS fields only before seal, W1C bits clear where 1 is written and no event of the same cycle set them (`now`, R10),
every other field keeps its value.  Log entry 51 (DEDUCED). -/
def writeFields (d : RegDesc) (sealed_ : Bool) (old now v : Word) : Word :=
  d.fields.foldl (fun w f =>
    match f.acc with
    | .rw => putBits w f.lo f.len (bitsOf v f.lo f.len)
    | .rws => if sealed_ then w else putBits w f.lo f.len (bitsOf v f.lo f.len)
    | .w1c => putBits w f.lo f.len (bitsOf (old &&& ~~~(v &&& ~~~now)) f.lo f.len)
    | _ => w) old

/-- The bits of a register's RC fields (R9). -/
def RegDesc.rcMask (d : RegDesc) : Word :=
  d.fields.foldl (fun m f => if f.acc = .rc then putBits m f.lo f.len (2 ^ f.len - 1) else m) 0

/-- A word with its RC fields taken from another. -/
def takeRc (k : RegKind) (w from_ : Word) : Word := (w &&& ~~~k.desc.rcMask) ||| (from_ &&& k.desc.rcMask)

/-- The value a master sees: fields only (reserved and WO bits read 0, R9, R11). -/
def visible (d : RegDesc) (w : Word) : Word :=
  d.fields.foldl (fun v f => if f.acc = .wo then v else putBits v f.lo f.len (bitsOf w f.lo f.len)) 0

/-- The effect of a record write of the boot unit (R473): every field marked "image" and every RW field; after
seal a hearth reset's records leave RWS fields alone (R484). -/
def recordFields (d : RegDesc) (sealed_ : Bool) (old v : Word) : Word :=
  d.fields.foldl (fun w f =>
    if (f.image || f.acc == .rw) && !(sealed_ && f.acc == .rws) then putBits w f.lo f.len (bitsOf v f.lo f.len) else w) old

/-- A write of the stored fields of a register by their access codes, or by a record. -/
def State.store (s : State) (w : Writer) (k : RegKind) (v : Word) (i : Nat := 0) (j : Nat := 0) : State :=
  match w with
  | .boot => s.setReg k (recordFields k.desc s.boot.seald (s.reg k i j) v) i j
  | _ => s.setReg k (writeFields k.desc s.boot.seald (s.reg k i j) (s.setNow k i j) v) i j

/-- A read of a register whose fields show `view`: an RC field answers its value at the start of the cycle and is cleared;
what the cycle counts or sets stays for the next read (R9, R10). -/
def State.readOut (s : State) (k : RegKind) (i j : Nat) (view : Word) : State :=
  let now := s.setNow k i j
  { s.setReg k (takeRc k (s.reg k i j) now) i j with
    cycEv := smSet none s.cycEv (regOff k i j)
      ((smGet none s.cycEv (regOff k i j)).map fun p => (takeRc k p.1 0, p.2))
    answer := (takeRc k view (s.atStart k i j)).setWidth 64 }

/-- A billet is being read (R478, R486). -/
def State.loading (s : State) : Bool :=
  s.boot.stage == .rom || s.boot.stage == .headers || s.boot.stage == .critical || s.boot.stage == .rest

/-- A domain that is ON, or still drains (R397). -/
def State.domainUp (s : State) (d : Nat) : Bool := (s.dom d).st == .on || (s.dom d).st == .draining

/-! ## Time (R30, R303) -/

/-- TB0: bits [79:16] of the sum, in units of 2^-16 ns. -/
def State.tb0 (s : State) : BitVec 64 := s.tbSum.extractLsb' 16 64
/-- The sum of TB0 with its wraps, in units of 2^-32 ns. -/
def State.tbAbs (s : State) : Nat := 2 ^ 80 * s.tbEra + s.tbSum.toNat
/-- Whole nanoseconds of TB0, its wraps counted. Log entry 60 (DEDUCED). -/
def State.ns (s : State) : Nat := s.tbAbs / 2 ^ 32
/-- TB0 bits [47:16], the form of item timestamps. -/
def State.tb0w (s : State) : Word := s.tbSum.extractLsb' 32 32
/-- TB0 as exact nanoseconds, its wraps counted. -/
def State.tbRat (s : State) : Rat := ((s.tbAbs / 2 ^ 16 : Nat) : Rat) / 65536

/-! ## Free values -/

/-- The next round-up choice (Config.roundUp). -/
def State.roundUp (s : State) : Bool × State := (Config.roundUp s.fresh, { s with fresh := s.fresh + 1 })
/-- The next choice of a supplied program that the spec leaves to its compiled text (Config.option). -/
def State.option (s : State) : Word × State := (Config.option s.fresh, { s with fresh := s.fresh + 1 })
/-- The level of PARTNER_OK in now (Config.partnerOkIn). Log entry 30 (DESIGN CHOICE). -/
def State.partnerOk (s : State) : Bool × State := (Config.partnerOkIn s.fresh, { s with fresh := s.fresh + 1 })
/-- The guard clock has stopped (Config.guardClockLost). -/
def State.guardClockLost (s : State) : Bool × State := (Config.guardClockLost s.fresh, { s with fresh := s.fresh + 1 })
/-- The residence time of a PROBE reply (Config.residence). -/
def State.residence (s : State) : BitVec 64 × State := (Config.residence s.fresh, { s with fresh := s.fresh + 1 })

/-! ## Bytes of memory (R6, R162) -/

/-- A byte of user memory by global address; memory is cleared before it is used (R478), so an unlisted byte is 0.
Log entry 3 (DEDUCED). -/
def memByte (m : List Host.Cell) (a : Nat) : Byte := smGet 0 m a
/-- Log entry 33 (DESIGN CHOICE). -/
def memSetByte (m : List Host.Cell) (a : Nat) (v : Byte) : List Host.Cell := smSet 0 m a v
/-- The canonical form of memory. Log entry 33 (DESIGN CHOICE). -/
def Memory.wf (m : List Host.Cell) : Bool := smWf (0 : Byte) m

def memWord (m : List Host.Cell) (a : Nat) : Word :=
  memByte m (a + 3) ++ memByte m (a + 2) ++ memByte m (a + 1) ++ memByte m a

/-- Byte i of a word (R6). -/
def byteOf (w : Word) (i : Nat) : Byte := BitVec.ofNat 8 (w.toNat / 2 ^ (8 * i))

/-- Write the bytes of a word that a mask selects. -/
def memSetMasked (m : List Host.Cell) (a : Nat) (mask : BitVec 4) (v : Word) : List Host.Cell :=
  let m0 := if mask.getLsbD 0 then memSetByte m a (byteOf v 0) else m
  let m1 := if mask.getLsbD 1 then memSetByte m0 (a + 1) (byteOf v 1) else m0
  let m2 := if mask.getLsbD 2 then memSetByte m1 (a + 2) (byteOf v 2) else m1
  if mask.getLsbD 3 then memSetByte m2 (a + 3) (byteOf v 3) else m2

def memSetWord (m : List Host.Cell) (a : Nat) (v : Word) : List Host.Cell := memSetMasked m a 0xF v

/-- A word with the bytes that a mask selects taken from another. -/
def mergeMasked (old : Word) (mask : BitVec 4) (v : Word) : Word :=
  let b := fun i => if mask.getLsbD i then byteOf v i else byteOf old i
  b 3 ++ b 2 ++ b 1 ++ b 0

/-- Global address of core-local memory c and of shared bank b (R16, R547). -/
def coreMemBase (c : CoreId) : Nat := 0x01000000 + 0x40000 * c.toNat
def bankBase (b : BankId) : Nat := 0x02000000 + 0x80000 * b.toNat

/-! ## Requests to the SoC (R516 to R524) -/

/-- Beats of a request on the 32-byte command channel (R518). -/
def SmReq.beats : SmReq → Nat
  | .writeBack _ _ ws => max 1 (ws.length * 4 / 32)
  | .tunnel _ ws => max 1 ((4 * ws.length + 31) / 32)
  | _ => 1

def SmReq.isRead : SmReq → Bool
  | .load _ _ _ => true
  | .fill _ _ => true
  | _ => false

/-- At most 64 reads and 64 writes are outstanding (R521). -/
def Soc.roomFor (k : Soc) (r : SmReq) : Bool := decide ((k.reqs.filter fun x => x.isRead == r.isRead).length < 64)

/-- The first waiting request of each requester, if there is room for it. -/
def Soc.ready (k : Soc) : List SmReq := (firstOfEach SmReq.requester k.held []).filter k.roomFor

/-- Send waiting requests in the order in which the port grants them (R391) while command credits last, and none once a
reset waits (R524); the fuel is their number. -/
def sendHeld : Nat → Soc → Soc
  | 0, k => k
  | n + 1, k =>
    match k.arb.choose SmReq.requester k.ready with
    | (none, _) => k
    | (some r, a) =>
      if k.due.isNone && decide (r.beats ≤ k.smCredits) then
        sendHeld n { k with held := k.held.erase r, reqs := k.reqs ++ [r], smCredits := k.smCredits - r.beats, arb := a }
      else k

/-- A unit hands a request to the system master port: it is sent once credits allow (R517). -/
def State.smRequest (s : State) (r : SmReq) : State :=
  let k := { s.soc with held := s.soc.held ++ [r] }
  { s with soc := sendHeld k.held.length k }

/-- The answer of the host target port or of the debug port leaves when a reply credit allows (R521). -/
def State.hostReply (s : State) : State :=
  if s.soc.htCredits = 0 then { s with soc := { s.soc with htOwed := s.soc.htOwed + 1 } }
  else { s with soc := { s.soc with htCredits := s.soc.htCredits - 1 } }

/-- The answer of the debug access port, under its own reply credits. -/
def State.dpReply (s : State) : State :=
  if s.soc.dpCredits = 0 then { s with soc := { s.soc with dpOwed := s.soc.dpOwed + 1 } }
  else { s with soc := { s.soc with dpCredits := s.soc.dpCredits - 1 } }

/-- The debug access port may write in this life-cycle state (R540, R542). Log entry 46 (DEDUCED). -/
def State.debugWrites (s : State) : Bool := s.soc.lc == 1 || s.soc.lc == 2 || s.soc.lc == 6

/-- A register access by a writer: a thread's is made; the debug port's is made when the life-cycle state permits it, and
answered (R542); the boot unit writes records until the seal (R473). Log entry 46 (DEDUCED). -/
def State.access (s : State) (w : Writer) (f : State → State) : State :=
  match w with
  | .thread _ => f s
  | .debug => (if s.debugWrites then f s else s).dpReply
  | .boot => if s.boot.seald then s else f s

/-- The straps and BOOT_HOLD at the release of a reload that no command carries them for (Config.bootPins).
Log entry 32 (DESIGN CHOICE). -/
def State.bootPins (s : State) : (Byte × Bool) × State :=
  (((Config.bootPins s.fresh).setWidth 8, (Config.bootPins s.fresh).getLsbD 8), { s with fresh := s.fresh + 1 })

/-! ## Detected fault events (R451) -/

/-- A detected event waits until the fault counter unit takes it. -/
def State.detect (s : State) (cls : BitVec 4) (inst : Nat) : State :=
  { s with faults := { s.faults with events := s.faults.events ++ [(cls, BitVec.ofNat 24 inst)] } }

/-- The next value of the model's order counter. -/
def State.bump (s : State) : State := { s with seq := s.seq + 1 }

end Sys2Proof.Machine
end

