-- ==== Sys2Proof/Machine/Flags.lean ====
section
/-!
DEFINITION. Results and flags of arithmetic: the integer instructions (R107 to R111), binary32 (R112 to R116), the flag
rules (R78, R79) and the conditions of branches (R80, R81).
-/

namespace Sys2Proof.Machine

/-! ## Register F (R98) -/

def flagV : Nat := 0
def flagC : Nat := 1
def flagZ : Nat := 2
def flagN : Nat := 3
def stickyDZ : Nat := 8
def stickyIV : Nat := 9
def stickyOF : Nat := 10
def stickyNX : Nat := 16
def stickyUFF : Nat := 17
def stickyOFF : Nat := 18
def stickyDZF : Nat := 19
def stickyNV : Nat := 20

def hasFlag (f : Word) (i : Nat) : Bool := f.getLsbD i

/-- Bit i of a word set to b. -/
def putFlag (f : Word) (i : Nat) (b : Bool) : Word :=
  let m := BitVec.ofNat 32 (2 ^ i)
  if b then f ||| m else f &&& ~~~m

/-- Sticky flags are only ever set by an instruction (R78). -/
def stick (f : Word) (i : Nat) (b : Bool) : Word := if b then putFlag f i true else f

/-- N and Z of a result (R78). -/
def setNZ (f : Word) (r : Word) : Word := putFlag (putFlag f flagN (r.getLsbD 31)) flagZ (r == 0)

/-- V, with the sticky OF set by a V of 1 (R78). -/
def setV (f : Word) (v : Bool) : Word := stick (putFlag f flagV v) stickyOF v

/-! ## Integer results -/

/-- a + b + carry with N, Z, C, V (R78, R107). -/
def addFlags (f a b : Word) (cin : Bool) : Word × Word :=
  let c := cin.toNat
  let r := BitVec.ofNat 32 (a.toNat + b.toNat + c)
  let t : Int := a.toInt + b.toInt + (c : Int)
  (r, setV (putFlag (setNZ f r) flagC (decide (2 ^ 32 ≤ a.toNat + b.toNat + c))) (decide (t ≠ r.toInt)))

/-- a - b - borrow with N, Z, C = no borrow, V (R78, R107). -/
def subFlags (f a b : Word) (borrow : Bool) : Word × Word :=
  let c := borrow.toNat
  let r := BitVec.ofNat 32 (2 ^ 33 + a.toNat - b.toNat - c)
  let t : Int := a.toInt - b.toInt - (c : Int)
  (r, setV (putFlag (setNZ f r) flagC (decide (b.toNat + c ≤ a.toNat))) (decide (t ≠ r.toInt)))

/-- Left shift by the full unsigned amount, with C (R111). -/
def shlRes (a : Word) (k : Nat) : Word × Bool :=
  if k = 0 then (a, false)
  else if k ≤ 32 then (BitVec.ofNat 32 (a.toNat * 2 ^ k), a.getLsbD (32 - k))
  else (0, false)

/-- Logical right shift, with C (R111). -/
def shrRes (a : Word) (k : Nat) : Word × Bool :=
  if k = 0 then (a, false)
  else if k ≤ 32 then (BitVec.ofNat 32 (a.toNat / 2 ^ k), a.getLsbD (k - 1))
  else (0, false)

/-- Arithmetic right shift, with C (R111). -/
def sarRes (a : Word) (k : Nat) : Word × Bool :=
  if k = 0 then (a, false)
  else if k ≤ 32 then (a.sshiftRight k, a.getLsbD (k - 1))
  else (a.sshiftRight 32, false)

/-- Rotation left by the amount modulo 32, C = bit 0 of the result (R111). -/
def rolRes (a : Word) (k : Nat) : Word × Bool :=
  let r := a.rotateLeft (k % 32)
  (r, r.getLsbD 0)

/-- Number of leading zero bits, 0 to 32 (R77). -/
def clz (a : Word) : Nat :=
  (List.range 32).foldl (fun n i => if a.getLsbD i then 31 - i else n) 32

/-- Signed quotient truncated toward zero, its remainder, and overflow (R108, R109). -/
def divSigned (a b : Word) : Word × Word × Bool :=
  if b = 0 then (0xFFFFFFFF, a, false)
  else if a = 0x80000000 && b = 0xFFFFFFFF then (0x80000000, 0, true)
  else (BitVec.ofInt 32 (a.toInt.tdiv b.toInt), BitVec.ofInt 32 (a.toInt.tmod b.toInt), false)

/-- Unsigned quotient and remainder (R108, R109). -/
def divUnsigned (a b : Word) : Word × Word :=
  if b = 0 then (0xFFFFFFFF, a) else (BitVec.ofNat 32 (a.toNat / b.toNat), BitVec.ofNat 32 (a.toNat % b.toNat))

/-! ## Binary32 -/

/-- Largest r with r * r not above n, found bit by bit from bit k - 1 down. -/
def isqrtFrom : Nat → Nat → Nat → Nat
  | 0, _, r => r
  | k + 1, n, r => if (r + 2 ^ k) * (r + 2 ^ k) ≤ n then isqrtFrom k n (r + 2 ^ k) else isqrtFrom k n r

/-- Integer square root of a number below 2^256. -/
def isqrt (n : Nat) : Nat := isqrtFrom 128 n 0

/-- Number of bits of a number below 2^640. -/
def bitLen (n : Nat) : Nat := if n = 0 then 0 else n.log2 + 1

def fSign (w : Word) : Bool := w.getLsbD 31
def fExp (w : Word) : Nat := bitsOf w 23 8
def fFrac (w : Word) : Nat := bitsOf w 0 23
def fIsNan (w : Word) : Bool := fExp w == 255 && fFrac w != 0
def fIsSnan (w : Word) : Bool := fIsNan w && !w.getLsbD 22
def fIsInf (w : Word) : Bool := fExp w == 255 && fFrac w == 0
def fIsZero (w : Word) : Bool := fExp w == 0 && fFrac w == 0

/-- A finite value's significand and exponent: |w| = m * 2^e. -/
def fParts (w : Word) : Nat × Int :=
  if fExp w = 0 then (fFrac w, -149) else (fFrac w + 2 ^ 23, (fExp w : Int) - 150)

def fNan : Word := 0x7FC00000
def fSigned (sign : Bool) (mag : Nat) : Word := BitVec.ofNat 32 (mag + (if sign then 2 ^ 31 else 0))
def fInf (sign : Bool) : Word := fSigned sign 0x7F800000

/-- Set bits of F, as a mask (R78). -/
def mask1 (i : Nat) : Word := BitVec.ofNat 32 (2 ^ i)

/-- A nonnegative quantity n + (rem of 2^k)/2^k, plus a sticky part, rounded to an integer in a direction: rounding mode
code, sign, then whether it rounds up in magnitude (R97). -/
def roundsUp (rm : BitVec 2) (sign : Bool) (n rem half : Nat) (sticky : Bool) : Bool :=
  let inexact := rem != 0 || sticky
  match rm.toNat with
  | 0 => decide (half < rem) || (rem == half && half != 0 && (sticky || n % 2 == 1))
  | 1 => false
  | 2 => inexact && !sign
  | _ => inexact && sign

/-- n, the remainder and half of the quantum, when m * 2^e is cut at 2^q. -/
def cutAt (m : Nat) (e q : Int) : Nat × Nat × Nat :=
  if q ≤ e then (m * 2 ^ (e - q).toNat, 0, 0)
  else
    let k := (q - e).toNat
    (m / 2 ^ k, m % 2 ^ k, 2 ^ (k - 1))

/-- Round sign * (m * 2^e, plus a sticky part below it) to binary32, m not 0 (R112, R114): the result and the flags it
sets. -/
def fRound (rm : BitVec 2) (sign : Bool) (m : Nat) (e : Int) (sticky : Bool) : Word × Word :=
  let top : Int := e + bitLen m - 1
  let q : Int := max (top - 23) (-149)
  let c := cutAt m e q
  let inexact := c.2.1 != 0 || sticky
  let n := c.1 + (roundsUp rm sign c.1 c.2.1 c.2.2 sticky).toNat
  let n' := if n = 2 ^ 24 then 2 ^ 23 else n
  let q' := if n = 2 ^ 24 then q + 1 else q
  -- tininess after rounding: the value rounded to 24 bits with an unbounded exponent lies below 2^-126
  let u := cutAt m e (top - 23)
  let un := u.1 + (roundsUp rm sign u.1 u.2.1 u.2.2 sticky).toNat
  let tiny := decide (top < -127) || (decide (top = -127) && un != 2 ^ 24)
  if 2 ^ 23 ≤ n' ∧ 105 ≤ q' then
    let toInf := match rm.toNat with | 0 => true | 1 => false | 2 => !sign | _ => sign
    ((if toInf then fInf sign else fSigned sign 0x7F7FFFFF), mask1 stickyOFF ||| mask1 stickyNX)
  else
    let mag := if n' < 2 ^ 23 then n' else 2 ^ 23 * (q' + 150).toNat + (n' - 2 ^ 23)
    (fSigned sign mag,
      (if inexact then mask1 stickyNX else 0) ||| (if inexact && tiny then mask1 stickyUFF else 0))

/-- NV when an operand is a signalling NaN (R114). -/
def nanFlags (a b : Word) : Word := if fIsSnan a || fIsSnan b then mask1 stickyNV else 0

def fadd (rm : BitVec 2) (a b : Word) : Word × Word :=
  if fIsNan a || fIsNan b then (fNan, nanFlags a b)
  else if fIsInf a then
    if fIsInf b && fSign a != fSign b then (fNan, mask1 stickyNV) else (a, 0)
  else if fIsInf b then (b, 0)
  else
    let pa := fParts a
    let pb := fParts b
    let e := min pa.2 pb.2
    let ia : Int := (pa.1 * 2 ^ (pa.2 - e).toNat : Nat)
    let ib : Int := (pb.1 * 2 ^ (pb.2 - e).toNat : Nat)
    let sum := (if fSign a then -ia else ia) + (if fSign b then -ib else ib)
    if sum = 0 then
      if fSign a == fSign b then (fSigned (fSign a) 0, 0) else (fSigned (rm == 3) 0, 0)
    else fRound rm (decide (sum < 0)) sum.natAbs e false

def fsub (rm : BitVec 2) (a b : Word) : Word × Word :=
  if fIsNan b then (fNan, nanFlags a b) else fadd rm a (b ^^^ 0x80000000)

def fmul (rm : BitVec 2) (a b : Word) : Word × Word :=
  let sg := fSign a != fSign b
  if fIsNan a || fIsNan b then (fNan, nanFlags a b)
  else if fIsInf a || fIsInf b then
    if fIsZero a || fIsZero b then (fNan, mask1 stickyNV) else (fInf sg, 0)
  else if fIsZero a || fIsZero b then (fSigned sg 0, 0)
  else fRound rm sg ((fParts a).1 * (fParts b).1) ((fParts a).2 + (fParts b).2) false

def fdiv (rm : BitVec 2) (a b : Word) : Word × Word :=
  let sg := fSign a != fSign b
  if fIsNan a || fIsNan b then (fNan, nanFlags a b)
  else if fIsInf a then (if fIsInf b then (fNan, mask1 stickyNV) else (fInf sg, 0))
  else if fIsInf b then (fSigned sg 0, 0)
  else if fIsZero b then (if fIsZero a then (fNan, mask1 stickyNV) else (fInf sg, mask1 stickyDZF))
  else if fIsZero a then (fSigned sg 0, 0)
  else
    let n := 2 ^ 64 * (fParts a).1
    let d := (fParts b).1
    fRound rm sg (n / d) ((fParts a).2 - (fParts b).2 - 64) (n % d != 0)

def fsqrt (rm : BitVec 2) (b : Word) : Word × Word :=
  if fIsNan b then (fNan, nanFlags b b)
  else if fIsZero b then (b, 0)
  else if fSign b then (fNan, mask1 stickyNV)
  else if fIsInf b then (b, 0)
  else
    let p := fParts b
    let sh : Nat := if p.2 % 2 = 0 then 64 else 65
    let n := p.1 * 2 ^ sh
    let r := isqrt n
    fRound rm false r ((p.2 - sh) / 2) (r * r != n)

/-- A finite binary32 value as an exact integer multiple of 2^-149, for comparison. -/
def fScaled (w : Word) : Int :=
  let m : Int := ((fParts w).1 * 2 ^ ((fParts w).2 + 149).toNat : Nat)
  if fSign w then -m else m

/-- The comparison key of a value that is not a NaN: infinities lie beyond every finite value. -/
def fKey (w : Word) : Int :=
  if fIsInf w then (if fSign w then -(2 ^ 300) else 2 ^ 300) else fScaled w

/-- FCMP: exactly one of Z, N, C, V (R79), and NV for a signalling NaN. -/
def fcmpFlags (f a b : Word) : Word :=
  let un := fIsNan a || fIsNan b
  let f1 := putFlag f flagZ (!un && fKey a == fKey b)
  let f2 := putFlag f1 flagN (!un && decide (fKey a < fKey b))
  let f3 := putFlag f2 flagC (!un && decide (fKey b < fKey a))
  putFlag f3 flagV un ||| nanFlags a b

/-- Conversion to an integer between lo and hi (R115): the result and the flags. -/
def fToInt (rm : BitVec 2) (a : Word) (lo hi : Int) : Word × Word :=
  let bad := mask1 stickyIV ||| mask1 stickyNV
  if fIsNan a then (0, bad)
  else if fIsInf a then (BitVec.ofInt 32 (if fSign a then lo else hi), bad)
  else
    let p := fParts a
    let c := cutAt p.1 p.2 0
    let n := c.1 + (roundsUp rm (fSign a) c.1 c.2.1 c.2.2 false).toNat
    let v : Int := if fSign a then -(n : Int) else n
    if hi < v then (BitVec.ofInt 32 hi, bad)
    else if v < lo then (BitVec.ofInt 32 lo, bad)
    else (BitVec.ofInt 32 v, if c.2.1 = 0 then 0 else mask1 stickyNX)

/-- Conversion of an integer to binary32 (R116). -/
def fOfInt (rm : BitVec 2) (v : Int) : Word × Word :=
  if v = 0 then (0, 0) else fRound rm (decide (v < 0)) v.natAbs 0 false

/-! ## One instruction's results -/

/-- The instructions of R76 that combine a register with an operand value: A, X, Y, F as they leave them.  `a`, `x`, `y`
and the rounding mode are those the instruction read. -/
def applyOp (op : VOp) (a x y : Word) (rm : BitVec 2) (th : Thread) (v : Word) : Thread :=
  let f := th.f
  let set := fun (r : Word × Word) => { th with a := r.1, f := r.2 }
  let logic := fun (r : Word) => { th with a := r, f := setNZ f r }
  let shift := fun (r : Word × Bool) => { th with a := r.1, f := putFlag (setNZ f r.1) flagC r.2 }
  let fp := fun (r : Word × Word) => { th with a := r.1, f := f ||| r.2 }
  match op with
  | .ldA => { th with a := v }
  | .ldX => { th with x := v }
  | .ldY => { th with y := v }
  | .ldBu => { th with a := v &&& 0xFF }
  | .ldHu => { th with a := v &&& 0xFFFF }
  | .add => set (addFlags f a v false)
  | .addc => set (addFlags f a v (hasFlag f flagC))
  | .sub => set (subFlags f a v false)
  | .subb => set (subFlags f a v (!hasFlag f flagC))
  | .and => logic (a &&& v)
  | .or => logic (a ||| v)
  | .xor => logic (a ^^^ v)
  | .cmp => { th with f := (subFlags f a v false).2 }
  | .tst => { th with f := setNZ f (a &&& v) }
  | .shl => shift (shlRes a v.toNat)
  | .shr => shift (shrRes a v.toNat)
  | .sar => shift (sarRes a v.toNat)
  | .rol => shift (rolRes a v.toNat)
  | .mul =>
    let r := BitVec.ofInt 32 (a.toInt * v.toInt)
    { th with a := r, f := setV (setNZ f r) (decide (a.toInt * v.toInt ≠ r.toInt)) }
  | .mulh =>
    let r := BitVec.ofInt 32 (a.toInt * v.toInt / 2 ^ 32)
    { th with a := r, f := putFlag (setNZ f r) flagV false }
  | .div =>
    let r := divSigned a v
    { th with a := r.1, f := stick (setV (setNZ f r.1) r.2.2) stickyDZ (v == 0) }
  | .divu =>
    let r := divUnsigned a v
    { th with a := r.1, f := stick (putFlag (setNZ f r.1) flagV false) stickyDZ (v == 0) }
  | .rem =>
    let r := divSigned a v
    { th with a := r.2.1, f := stick (setV (setNZ f r.2.1) r.2.2) stickyDZ (v == 0) }
  | .remu =>
    let r := divUnsigned a v
    { th with a := r.2, f := stick (putFlag (setNZ f r.2) flagV false) stickyDZ (v == 0) }
  | .fadd => fp (fadd rm a v)
  | .fsub => fp (fsub rm a v)
  | .fmul => fp (fmul rm a v)
  | .fdiv => fp (fdiv rm a v)
  | .fsqrt => fp (fsqrt rm v)
  | .fcmp => { th with f := fcmpFlags f a v }
  | .addX => { th with x := x + v }
  | .addY => { th with y := y + v }
  | .cmpX => { th with f := (subFlags f x v false).2 }
  | .cmpY => { th with f := (subFlags f y v false).2 }

/-- Whether an instruction is a narrow load (R74). -/
def VOp.narrow : VOp → Bool
  | .ldBu => true
  | .ldHu => true
  | _ => false

/-- Bytes an instruction's operand access reads (R75, R76). -/
def VOp.size : VOp → Nat
  | .ldBu => 1
  | .ldHu => 2
  | _ => 4

/-- Scoreboard bits (R42): A, X, Y, F in bits 0 to 3. -/
def sbA : BitVec 4 := 1
def sbX : BitVec 4 := 2
def sbY : BitVec 4 := 4
def sbF : BitVec 4 := 8

/-- The registers an instruction writes (R42, R76, R117). -/
def VOp.writes : VOp → BitVec 4
  | .ldA => sbA
  | .ldX => sbX
  | .ldY => sbY
  | .ldBu => sbA
  | .ldHu => sbA
  | .cmp => sbF
  | .tst => sbF
  | .fcmp => sbF
  | .addX => sbX
  | .addY => sbY
  | .cmpX => sbF
  | .cmpY => sbF
  | _ => sbA ||| sbF

/-- The registers an instruction reads besides its address registers. -/
def VOp.reads : VOp → BitVec 4
  | .ldA => 0
  | .ldX => 0
  | .ldY => 0
  | .ldBu => 0
  | .ldHu => 0
  | .fsqrt => 0
  | .addX => sbX
  | .addY => sbY
  | .cmpX => sbX
  | .cmpY => sbY
  | .addc => sbA ||| sbF
  | .subb => sbA ||| sbF
  | _ => sbA

/-! ## Conditions -/

/-- COND of GO.cc (R80); code 0xF names no condition. -/
def condHolds (f : Word) (cond : BitVec 4) : Bool :=
  let n := hasFlag f flagN
  let z := hasFlag f flagZ
  let c := hasFlag f flagC
  let v := hasFlag f flagV
  match cond.toNat with
  | 0 => true
  | 1 => z
  | 2 => !z
  | 3 => n
  | 4 => !n
  | 5 => c
  | 6 => !c
  | 7 => v
  | 8 => !v
  | 9 => c && !z
  | 10 => !c || z
  | 11 => n == v
  | 12 => n != v
  | 13 => !z && n == v
  | 14 => z || n != v
  | _ => false

/-- REL of CGO.A and CGO.X (R81). -/
def relHolds (rel : BitVec 3) (a b : Word) : Bool :=
  match rel.toNat with
  | 0 => a == b
  | 1 => a != b
  | 2 => decide (a.toInt < b.toInt)
  | 3 => decide (b.toInt ≤ a.toInt)
  | 4 => decide (a.toNat < b.toNat)
  | 5 => decide (b.toNat ≤ a.toNat)
  | 6 => a.getLsbD (b.toNat % 32)
  | _ => !a.getLsbD (b.toNat % 32)

end Sys2Proof.Machine
end

