-- ==== Sys2Proof/Machine/Operands.lean ====
section
/-!
DEFINITION. Operand forms: addressing modes (R72 to R74), regions of the thread address space (R547), the translation of
the system window (R550) and the queue operand (R84).
-/

namespace Sys2Proof.Machine

/-- An operand as its mode selects it (R72). -/
inductive Opnd where
  | imm (v : Word)
  | mem (ea : Word)
  | sys (n : Nat)
  deriving DecidableEq, Repr

/-- The operand of modes IMM to ABS and SYS; `none` for a nonzero field that must be written 0, and for QUEUE. -/
def operandOf (th : Thread) (m : BitVec 3) (o : BitVec 23) : Option Opnd :=
  match m.toNat with
  | 0 => some (.imm (o.signExtend 32))
  | 1 => if o.toNat < 1024 then some (.mem (th.tp + BitVec.ofNat 32 (o.toNat * 4))) else none
  | 2 => some (.mem (th.x + o.signExtend 32))
  | 3 => some (.mem (th.y + o.signExtend 32))
  | 4 => if o = 0 then some (.mem (th.x + th.y)) else none
  | 5 => some (.mem (BitVec.ofNat 32 (0x01000000 + o.toNat * 4)))
  | 7 => if o.toNat < 4096 then some (.sys o.toNat) else none
  | _ => none

/-- The registers a mode's address reads. -/
def modeReads (m : BitVec 3) : BitVec 4 :=
  match m.toNat with
  | 2 => sbX
  | 3 => sbY
  | 4 => sbX ||| sbY
  | _ => 0

/-- A region of the thread address space (R547), with the place inside it. -/
inductive Region where
  | core (c : CoreId) (g : Nat)
  | bank (b : BankId) (g : Nat)
  | queuePort
  | ctrl (off : Nat)
  | chain (k : BitVec 4) (off : Nat)
  | system
  | gap
  deriving DecidableEq, Repr

/-- The region of an address for a thread of core c; the own alias is the own core-local memory (R16, R73).  Core-local
memories and shared banks carry the global address. -/
def regionOf (c : CoreId) (ea : Word) : Region :=
  let a := ea.toNat
  if a < 0x40000 then .core c (coreMemBase c + a)
  else if a < 0x01000000 then .gap
  else if a < 0x01800000 then .core (BitVec.ofNat 5 ((a - 0x01000000) / 0x40000)) a
  else if a < 0x02000000 then .gap
  else if a < 0x02800000 then .bank (BitVec.ofNat 4 ((a - 0x02000000) / 0x80000)) a
  else if a < 0x04000000 then .gap
  else if a < 0x04100000 then .queuePort
  else if a < 0x05000000 then .gap
  else if a < 0x06000000 then .ctrl (a - 0x05000000)
  else if a < 0x08000000 then .gap
  else if a < 0x10000000 then .chain (BitVec.ofNat 4 ((a - 0x08000000) / 0x800000)) (a % 0x800000)
  else .system

/-- The instruction may need a far-access entry: decided from the word and the core number (R33). -/
def mayBeFar (c : CoreId) (m : BitVec 3) (o : BitVec 23) : Bool :=
  match m.toNat with
  | 2 => true
  | 3 => true
  | 4 => true
  | 5 => match regionOf c (BitVec.ofNat 32 (0x01000000 + o.toNat * 4)) with
    | .core c' _ => c' != c
    | _ => true
  | _ => false

/-- Window k of the system window covers an address (R550). -/
def State.windowCovers (s : State) (a k : Nat) : Bool :=
  s.bit F.hstCfg_EN k && decide (65536 * (s.fld F.hstSbase_BASE k) ≤ a) &&
    decide (a < 65536 * (s.fld F.hstSbase_BASE k) + 2 ^ s.fld F.hstCfg_LOG2 k)

/-- The translation window that serves an address: the lowest enabled one that covers it (R550). -/
def State.windowOf (s : State) (ea : Word) : Option Nat :=
  (List.range 16).find? (s.windowCovers ea.toNat)

/-- SoC physical address of an address in window k (R550). -/
def State.physical (s : State) (k : Nat) (ea : Word) : Nat :=
  2 ^ 32 * (s.fld F.hstPbaseh_ADDR k) + 65536 * (s.fld F.hstPbasel_ADDR k) +
    (ea.toNat - 65536 * (s.fld F.hstSbase_BASE k))

/-- Type and stream tag of a request through window k (R550). -/
def State.windowTag (s : State) (k : Nat) : SmTag := ⟨s.bit F.hstCfg_DEV k, BitVec.ofNat 8 (s.fld F.hstCfg_STREAM k)⟩

/-- Whether an access is of device type, by its address (R179). -/
def State.isDevice (s : State) (c : CoreId) (ea : Word) : Bool :=
  match regionOf c ea with
  | .queuePort => true
  | .ctrl _ => true
  | .chain _ _ => true
  | .system => match s.windowOf ea with
    | some k => s.bit F.hstCfg_DEV k
    | none => false
  | _ => false

/-- The queue operand (R84). -/
structure QOpnd where
  ind : Bool
  kind : BitVec 4
  prio : BitVec 4
  qid : Qid
  deriving DecidableEq, Repr

def queueOperand (o : BitVec 23) : QOpnd :=
  ⟨o.getLsbD 22, o.extractLsb' 18 4, o.extractLsb' 14 4, o.extractLsb' 0 14⟩

/-- The byte mask of an access of `size` bytes at an address, within its word. -/
def byteMask (ea : Word) (size : Nat) : BitVec 4 :=
  match size with
  | 1 => BitVec.ofNat 4 (2 ^ (ea.toNat % 4))
  | 2 => BitVec.ofNat 4 (3 * 2 ^ (ea.toNat % 4))
  | _ => 0xF

/-- The store data of an access in its lanes of the word. -/
def placeData (ea : Word) (v : Word) : Word := BitVec.ofNat 32 (v.toNat * 2 ^ (8 * (ea.toNat % 4)))

/-- The bytes of an access taken from its word, right-aligned. -/
def takeData (ea : Word) (size : Nat) (w : Word) : Word :=
  BitVec.ofNat 32 (w.toNat / 2 ^ (8 * (ea.toNat % 4)) % 2 ^ (8 * size))

/-- An access of `size` bytes is aligned (R75). -/
def aligned (ea : Word) (size : Nat) : Bool := ea.toNat % size == 0

end Sys2Proof.Machine
end

