-- ==== Sys2Proof/Machine/Events.lean ====
section
/-!
DEFINITION. The event matrix and the interrupt vectors as every unit raises them: source levels and pulses (R349, R351),
the counts a queue level compares (R209, R210), the delivered level of a port (R257), vectors and wired lines (R525,
R552).
-/

namespace Sys2Proof.Machine

/-! ## Counts of a queue (R209) -/

/-- Words of the packets of a list. -/
def packetWords (ps : List Packet) : Nat := (ps.map fun p => p.words.length).sum

/-- DEPTH: every item stored, the words of partial and open packets included. -/
def Queue.depth (q : Queue) : Nat :=
  q.words.length + packetWords q.packets + (match q.opened with | none => 0 | some o => o.words.length)

/-- PKTS: complete packets not yet opened. -/
def Queue.pkts (q : Queue) : Nat := (q.packets.filter fun p => p.complete).length

/-- At least one partial packet holds an assembly entry. -/
def Queue.partial_ (q : Queue) : Bool := q.packets.any fun p => !p.complete

/-- The count that QLEVEL compares (R210). -/
def State.levelCount (s : State) (q : Qid) : Nat :=
  if s.bit F.qeQlevel_UNIT q.toNat then (s.queue q).pkts else (s.queue q).depth

/-- Queue q raises level source n at this moment (R210). -/
def State.queueAtLevel (s : State) (q : Qid) (n : Nat) : Bool :=
  s.bit F.qeQlevel_EN q.toNat && decide (0 < s.fld F.qeQlevel_LEVEL q.toNat) && s.bit F.qeQevt_SRCEN q.toNat &&
    decide (s.fld F.qeQevt_LSRC q.toNat = n) && decide (s.fld F.qeQlevel_LEVEL q.toNat ≤ s.levelCount q)

/-! ## Ports (R255, R257) -/

/-- Resolved OUT and OE of a port: the written values under PE.PAD.MODE, and OE = 0 while the pad guard or standby
holding releases it (R255, R256). -/
def State.resolved (s : State) (p : Port) : Bool × Bool :=
  let x := s.port p
  if x.guard then (x.out, false)
  else if !s.bit F.pePad_BV p.toNat then (x.out, false)
  else match s.fld F.pePad_MODE p.toNat with
    | 1 => if x.oe && !x.out then (false, true) else (x.out, false)
    | 2 => if x.oe && x.out then (true, true) else (x.out, false)
    | _ => (x.out, x.oe)

/-- The sample of a port in force in cycle c, from its changes, newest first. -/
def sampleAt (h : List PinSample) (c : Nat) (now : PinSample) : PinSample :=
  match h.find? (fun e => decide (e.at_ ≤ c)) with
  | some e => e
  | none => { now with out := false, oe := false, inp := false }

/-- The state of a port as the readback and majority assists sample it. -/
def State.sample (s : State) (p : Port) (c : Nat) : PinSample :=
  sampleAt (s.port p).hist c ⟨c, false, false, false⟩

/-- The level that reaches SAMPLE, BR, the bit unit and sample actions (R257): the synchronised level, or with majority
sampling the majority of N levels spaced S cycles apart that ends in the cycle before. -/
def State.delivered (s : State) (p : Port) : Bool :=
  let n := match s.fld F.peSamp_MAJ p.toNat with | 1 => 3 | 2 => 5 | _ => 0
  if n = 0 then (s.port p).inp
  else
    let sp := s.fld F.peSamp_SPACE p.toNat
    let ones := ((List.range n).filter fun i => (s.sample p (s.cycle - 1 - i * sp)).inp).length
    decide (n < 2 * ones)

/-- How far back the assists look, in cycles: the readback delay and the majority span. -/
def historySpan : Nat := 1100

/-- Record a change of a port from cycle c on. -/
def recordPin (h : List PinSample) (e : PinSample) : List PinSample :=
  let keep := h.takeWhile fun x => decide (e.at_ < x.at_ + historySpan)
  let older := (h.drop keep.length).take 1
  if h.head?.map (fun x => (x.out, x.oe, x.inp)) = some (e.out, e.oe, e.inp) then h
  else e :: (keep ++ older)

/-- The written OUT and OE of a port change, visible from cycle c on. -/
def State.drivePort (s : State) (p : Port) (out oe : Bool) (c : Nat) : State :=
  let s1 := s.setPort p { s.port p with out := out, oe := oe }
  let r := s1.resolved p
  s1.setPort p { s1.port p with hist := recordPin (s1.port p).hist ⟨c, r.1, r.2, (s1.port p).inp⟩ }

/-! ## Levels of the event sources (R349) -/

def State.srcLevel (s : State) (src : BitVec 12) : Bool :=
  let n := src.toNat
  if n < 0x200 then s.delivered (BitVec.ofNat 9 n)
  else if n < 0x400 then !s.delivered (BitVec.ofNat 9 (n - 0x200))
  else if n < 0x600 then
    (smKeepRange s.regs 0x80000 0xC0000).any fun kv =>
      kv.1 % 16 = 8 && s.queueAtLevel (BitVec.ofNat 14 ((kv.1 - 0x80000) / 16)) (n - 0x400)
  else if n < 0x900 then s.pulsedNow.contains src
  else if n < 0xA00 then
    s.tasks.any fun kv => kv.2.running && F.tskCfg_RELE.get kv.2.cfg == 1 && F.tskDest_ESRC.get kv.2.dest == n - 0x900
  else if n < 0xA10 then s.pulsedNow.contains src
  else if n < 0xA20 then s.bit F.tbStat_DRIFT (n - 0xA10)
  else if n < 0xA30 then s.pulsedNow.contains src
  else if n < 0xA40 then false
  else if n < 0xA44 then (s.lane (BitVec.ofNat 2 (n - 0xA40))).st == .up
  else if n < 0xA48 then (s.lane (BitVec.ofNat 2 (n - 0xA44))).st != .up
  else if n = 0xA49 then s.mirror.silent
  else if n = 0xA4B then s.bit F.mirStat_DIVERGED
  else if n = 0xA4C then s.mirror.role == .primary || s.mirror.role == .standby
  else if n = 0xA4D then s.mirror.guard
  else if n < 0xA80 then s.pulsedNow.contains src
  else if n < 0xAA0 then s.pulsedNow.contains src
  else if n < 0xAA3 then bitsOf (s.reg .fltAlm) (n - 0xAA0) 1 == 1
  else if n < 0xAC0 then false
  else if n < 0xAD6 then (s.dom (n - 0xAC0)).st != .on
  else if n < 0xAE0 then false
  else if n < 0xAF6 then (s.dom (n - 0xAE0)).st == .on
  else if n < 0xB00 then false
  else if n < 0xF00 then s.pulsedNow.contains src
  else n == 0xFFF

/-- The consumer inputs that a pulse of src reaches, with their CSEL words (R351). -/
def State.followers (s : State) (src : BitVec 12) : List (BitVec 12 × Word) :=
  (smKeepRange s.regs 0x40000 0x48000).filterMap fun kv =>
    if kv.1 % 8 = 0 && F.evmCsel_EN.get kv.2 == 1 && F.evmCsel_SRC.get kv.2 == src.toNat then
      some (BitVec.ofNat 12 ((kv.1 - 0x40000) / 8), kv.2)
    else none

/-- The gate of a CSEL word lets a fire through, given the gate source's level (R351). -/
def gateAllows (csel : Word) (level : Bool) : Bool :=
  F.evmCsel_GEN.get csel == 0 || (level != (F.evmCsel_GINV.get csel == 1))

/-- Source src pulses in this cycle (R349, R351), once however often it is raised in it: its level is 1 for gates of this
cycle, and each input that follows it gets a fire, which reaches it a cycle later, or two for a source of the lanes. -/
def State.pulse (s : State) (srcN : Nat) : State :=
  let src := BitVec.ofNat 12 srcN
  let s1 := { s with pulsedNow := if s.pulsedNow.contains src then s.pulsedNow else src :: s.pulsedNow }
  let old := s1.fires.map fun f =>
    let csel := s1.reg .evmCsel f.input.toNat
    if f.at_ = s1.cycle && F.evmCsel_GATE.get csel == srcN then { f with gateOk := gateAllows csel (s1.srcLevel src) }
    else f
  let due := s1.cycle + (if 0xA40 ≤ srcN ∧ srcN < 0xA80 then 2 else 1)
  let new := if s.pulsedNow.contains src then [] else (s1.followers src).map fun ic =>
    ⟨ic.1, gateAllows ic.2 (s1.srcLevel (BitVec.ofNat 12 (F.evmCsel_GATE.get ic.2))), s1.tb0w, s1.cycle, due⟩
  { s1 with fires := old ++ new }

/-! ## Interrupt vectors (R525, R552) -/

/-- The number of the vector that a request writes. -/
def SmReq.vectorNo : SmReq → Nat
  | .vector v _ _ _ => v.toNat
  | _ => 0

/-- A vector write among those of its cycle, in ascending vector number (R552). -/
def insertVector (r : SmReq) : List SmReq → List SmReq
  | [] => [r]
  | x :: xs => if x.vectorNo ≤ r.vectorNo then x :: insertVector r xs else r :: x :: xs

/-- The vector writes of this cycle are handed to the system master port. -/
def State.sendVectors (s : State) : State :=
  s.soc.raised.foldl State.smRequest { s with soc := { s.soc with raised := [] } }

/-- A vector is raised: dropped and counted, a pulse on its wired line, or a message-signalled write. -/
def State.vector (s : State) (v : Nat) : State :=
  if !s.bit F.hstVctl_EN v then s.satAdd F.hstVstat_DROPS 1
  else if s.bit F.hstVctl_WIRED v then
    { s with soc := { s.soc with irq := smSet 0 s.soc.irq (s.fld F.hstVctl_LINE v) (s.cycle + 64) } }
  else
    let r := SmReq.vector (BitVec.ofNat 8 v) (2 ^ 32 * (s.fld F.hstVaddrh_ADDR v) + s.fld F.hstVaddrl_ADDR v * 4)
      (s.reg .hstVdata v) (BitVec.ofNat 8 (s.fld F.hstVaddrh_VSTREAM v))
    { s with soc := { s.soc with raised := insertVector r s.soc.raised } }

end Sys2Proof.Machine
end

