-- ==== Sys2Proof/Machine/LaneOps.lean ====
section
/-!
DEFINITION. Flits as words (R411), the waiting flits of a lane with the credits of its channels (R410), routing (R415) up to
the decision, and the mirror egress with its record flits (R432 to R435).
-/

namespace Sys2Proof

/-- Word i of a flit's body. -/
def Flit.word (f : Flit) (i : Nat) : Word := f.body.getD i 0

/-- Header word H0 of a flit: VC, TYPE, HOPS and DEST (R411). -/
def Flit.h0 (f : Flit) : Word := f.vc ++ f.type ++ f.hops ++ (0 : BitVec 3) ++ f.dest

/-- Header word H1: AGE and SRC (R411). -/
def Flit.h1 (f : Flit) : Word := f.age ++ (0 : BitVec 2) ++ f.src

/-- The 16 words of a flit, its header first (R411). -/
def Flit.words (f : Flit) : List Word :=
  [f.h0, f.h1, f.h2, f.h3] ++ (List.range 12).map f.word

/-- The flit that 16 words spell (R411). -/
def Flit.ofWords (ws : List Word) : Flit :=
  let a := ws.getD 0 0
  let b := ws.getD 1 0
  ⟨a.extractLsb' 30 2, a.extractLsb' 26 4, a.extractLsb' 21 5, a.extractLsb' 0 18, b.extractLsb' 20 12, b.extractLsb' 0 18,
   ws.getD 2 0, ws.getD 3 0, (ws.drop 4).take 12⟩

end Sys2Proof

namespace Sys2Proof.Machine

/-! ## Flits (R411, R412) -/

def tMRUN : BitVec 4 := 0x1
def tMREC : BitVec 4 := 0x2
def tMQUEUE : BitVec 4 := 0x3
def tMSTATE : BitVec 4 := 0x4
def tITEMS : BitVec 4 := 0x8
def tRWRITE : BitVec 4 := 0x9
def tHEARTBEAT : BitVec 4 := 0xA
def tTIME : BitVec 4 := 0xB
def tMACK : BitVec 4 := 0xC
def tPROBE : BitVec 4 := 0xD
def tINIT : BitVec 4 := 0xE
def tCREDIT : BitVec 4 := 0xF

/-- The block's own node ID (R20). -/
def State.node (s : State) : Node := BitVec.ofNat 18 (s.fld F.blkNodeid_PACKAGE * 16 + s.fld F.blkNodeid_BLOCK)

/-- A body of twelve words: the given words, then zeros. -/
def body12 (ws : List Word) : List Word := (ws ++ List.replicate 12 0).take 12

/-- Buffer sizes, and so the credits when a lane enters UP (R410). -/
def fullCredits : List Nat := [64, 64, 16, 32]

def modNth (l : List Nat) (i : Nat) (g : Nat → Nat) : List Nat := l.modify i g

/-! ## One lane -/

/-- The lane holds a credit of a virtual channel (R410). -/
def Lane.credit (x : Lane) (vc : BitVec 2) : Bool := decide (0 < x.credits.getD vc.toNat 0)

/-- A credit is used. -/
def Lane.spend (x : Lane) (vc : BitVec 2) : Lane := { x with credits := modNth x.credits vc.toNat (fun n => n - 1) }

/-- A CONTROL flit waits for its place in a codeword. -/
def State.laneSend (s : State) (l : LaneId) (f : Flit) : State :=
  s.setLane l { s.lane l with queue := (s.lane l).queue ++ [f] }

/-- A link flit waits for its place in a codeword (R410). -/
def State.linkSend (s : State) (l : LaneId) (f : Flit) : State :=
  s.setLane l { s.lane l with links := (s.lane l).links ++ [f] }

/-- A buffered flit has left its place in a lane's receive buffer: the credit is owed to the peer (R410). -/
def State.freePlace (s : State) (p : Option (LaneId × BitVec 2)) : State :=
  match p with
  | none => s
  | some x => s.setLane x.1 { s.lane x.1 with owed := modNth (s.lane x.1).owed x.2.toNat (fun n => n + 1) }

def laneIds : List LaneId := [0, 1, 2, 3]

/-- The UP lanes of a lane mask; none while the chain unit is neither ON nor draining (R397, R400). -/
def State.upLanes (s : State) (mask : Nat) : List LaneId :=
  laneIds.filter fun l => mask.testBit l.toNat && (s.lane l).st == .up && s.domainUp 21

/-! ## Mirror egress (R434, R435) -/

/-- The lanes that carry mirror traffic: UP, in MIR.CFG.LANES, and joined to the partner (R427). -/
def State.mirrorLanes (s : State) : List LaneId :=
  (s.upLanes (s.fld F.mirCfg_LANES)).filter fun l => (s.lane l).peer.toNat == s.fld F.mirCfg_PARTNER

/-- The block applies a partner's stream: SYNCING or STANDBY (R432). -/
def State.applying (s : State) : Bool := s.mirror.role == .syncing || s.mirror.role == .standby

/-- A pairing is active: the block mirrors its changes to a partner. -/
def State.pairing (s : State) : Bool := s.mirror.role == .primary || s.mirror.copying

/-- A record of a bank or queue change has a place in the egress (R435); while no pairing is active nothing waits. -/
def State.mirrorRoom (s : State) : Bool := !s.pairing || (decide (s.mirror.egress.length < 112) && s.mirror.copyRecs.isEmpty)

/-- A time-base, action or task record has a place (R435). -/
def State.mirrorRoomState (s : State) : Bool := !s.pairing || decide (s.mirror.egress.length < 128)

/-- Enter a mirror flit with the next MSEQ (R434); nothing is sent while no pairing is active. -/
def State.mirrorEmit (s : State) (ty : BitVec 4) (h2 : Word) (wmask : BitVec 12) (body : List Word) : State :=
  if !s.pairing then s
  else
    let seq := s.mirror.sent + 1
    let f : Flit := ⟨0, ty, 0, BitVec.ofNat 18 (s.fld F.mirCfg_PARTNER), 0, s.node, h2, wmask ++ seq, body12 body⟩
    { s with mirror := { s.mirror with sent := seq, egress := s.mirror.egress ++ [f] } }

/-- The record of a performed bank write (R414, R432): MRUN for a whole word, MREC otherwise. -/
def State.mirrorWrite (s : State) (g : Nat) (mask : BitVec 4) (v : Word) : State :=
  let idx := (g - 0x02000000) / 4
  if mask = 0xF then s.mirrorEmit tMRUN (BitVec.ofNat 32 idx) 1 [v]
  else s.mirrorEmit tMREC 0 0 [BitVec.ofNat 32 (2 ^ 31 + 2 ^ 27 * mask.toNat + idx), v]

/-- The words of a queue record. -/
def queueRecord (op : Nat) (q : Qid) (owner : BitVec 12) (item : BitVec 64) : List Word :=
  [BitVec.ofNat 32 (2 ^ 31 + 2 ^ 29 * op + q.toNat), BitVec.ofNat 32 owner.toNat, item.extractLsb' 0 32,
   item.extractLsb' 32 32]

/-- The record of a queue change (R414, R432): OP 0 PUSH, 1 POP, 2 FLUSH. -/
def State.mirrorQueue (s : State) (op : Nat) (q : Qid) (owner : BitVec 12) (item : BitVec 64) : State :=
  if s.bit F.qeQcfg_MIRRORED q.toNat then
    s.mirrorEmit tMQUEUE 0 0 (queueRecord op q owner item)
  else s

/-! ## The route table (R415) -/

/-- Entry i of the route table matches a destination. -/
def State.routeMatches (s : State) (dest : Node) (i : Nat) : Bool :=
  let len := s.fld F.chnRt_LEN i
  s.bit F.chnRt_V i && dest.toNat / 2 ^ (18 - len) == s.fld F.chnRt_PREFIX i / 2 ^ (18 - len)

/-- Where a flit for another node goes. -/
inductive Route where
  | tunnel
  | lane (l : LaneId)
  | none
  deriving DecidableEq, Repr

def State.route (s : State) (dest : Node) : Route :=
  let best := (List.range 64).foldl (fun (b : Option Nat) i =>
    if s.routeMatches dest i then
      match b with
      | Option.none => some i
      | some j => if s.fld F.chnRt_LEN j < s.fld F.chnRt_LEN i then some i else some j
    else b) Option.none
  match best with
  | Option.none => .none
  | some i =>
    if s.bit F.chnRt_TUN i then .tunnel
    else
      let up := s.upLanes (s.fld F.chnRt_LANES i)
      match up[dest.toNat % up.length]? with
      | some l => .lane l
      | Option.none => .none

end Sys2Proof.Machine
end

