-- ==== Sys2Proof/Machine/QueueOps.lean ====
section
/-!
DEFINITION. The queue engine's shared operations (chapter 07): power domains as a push meets them (R398 to R400), item
slots and waiters (R213 to R217, R560), the decision of every push (R559), storing, reading (R204 to R206), the slag
queue (R220, R221) and notices (R130).
-/

namespace Sys2Proof.Machine

/-! ## Power domains (R398, R399) -/

/-- The domain whose items a queue holds (R395): the domain of its reader. -/
def State.holdDomain (s : State) (q : Qid) : Option Nat :=
  let r := s.fld F.qeQcfg_READER q.toNat
  match s.fld F.qeQcfg_RKIND q.toNat with
  | 0 => some (r / 64)
  | 1 => some (r % 32 / 4)
  | 2 => some (8 + r / 64)
  | 3 => some 20
  | _ => none

/-- The queues whose items are held for domain d. -/
def State.queuesHeldFor (s : State) (d : Nat) : List Qid :=
  s.queues.filterMap fun kv =>
    let q := BitVec.ofNat 14 kv.1
    if s.holdDomain q = some d then some q else none

/-- Words of a queue in the order they stand, stored or open. -/
def Queue.allWords (q : Queue) : List QWord :=
  (match q.opened with | none => [] | some o => o.words) ++ q.words ++ (q.packets.map fun p => p.words).flatten

/-- Items counted in PWR.DSTAT[d].HELD (R400). -/
def State.heldCount (s : State) (d : Nat) : Nat :=
  ((s.queuesHeldFor d).map fun q => ((s.queue q).allWords.filter fun w => w.heldAt.isSome).length).sum

def QWord.unheld (w : QWord) : QWord := { w with heldAt := none }

/-- Apply a change to every word of a queue. -/
def Queue.mapWords (q : Queue) (f : QWord → QWord) : Queue :=
  { q with words := q.words.map f
           packets := q.packets.map fun p => { p with words := p.words.map f }
           opened := q.opened.map fun o => { o with words := o.words.map f } }

def ThreadState.asleep (x : ThreadState) : Bool := x == .sleepQueue || x == .sleepLock

/-- A sleeping thread of a hearth that is ON wakes with its instruction still to issue (R85, R86). -/
def State.rouse (s : State) (t : Tid) : State :=
  if (s.thr t).st.asleep then s.setThr t { s.thr t with st := .running, sleep := .awake } else s

/-- A domain reaches ON (R399, R400, R402): HELD returns to 0, its source pulses, and the wake notices of a hearth's threads
are delivered. -/
def State.domainReachOn (s : State) (d : Nat) : State :=
  let s1 := (s.queuesHeldFor d).foldl (fun s q => s.setQueue q ((s.queue q).mapWords QWord.unheld)) s
  let s2 := (s1.setDom d { s1.dom d with st := .on, pdReq := false, pdRet := false }).pulse (0xAE0 + d)
  let mine := fun (t : Tid) => (hearthOf t).toNat == d
  (s2.heldWakes.filter mine).foldl (fun s t => s.rouse t) { s2 with heldWakes := s2.heldWakes.filter fun t => !mine t }

/-- A wake cause reaches domain d (R398, R399): an entry in progress aborts, a retained domain begins to wake. -/
def State.wakeDomain (s : State) (d : Nat) : State :=
  match (s.dom d).st with
  | .draining => (s.raise F.pwrDstat_ABORT d).domainReachOn d
  | .entering => (s.raise F.pwrDstat_ABORT d).domainReachOn d
  | .retained => (s.setDom d { s.dom d with st := .waking, since := s.ns, pdReq := false }).satAdd F.pwrDstat_WAKES 1 d
  | _ => s

/-- What reaches domain d is performed at once while it is ON; it wakes the domain otherwise, and is performed when that
brings the domain back (R398); else it waits and is sent again (R399). -/
def State.atDomain (s : State) (d : Nat) (f : State → State) : State :=
  if (s.dom d).st = .on then f s
  else if ((s.wakeDomain d).dom d).st = .on then f (s.wakeDomain d)
  else s.wakeDomain d

/-- A register access that reaches domain d is performed at once while the domain is ON, behind those that wait for it; else
it wakes the domain and is performed once that is ON (R399). -/
def State.regAtDomain (s : State) (d : Nat) (a : RegAcc) (f : State → State) : State :=
  let s1 := if (s.dom d).st = .on then s else s.wakeDomain d
  if (s1.dom d).st = .on && !(s1.regWaits.any fun x => x.d == d) then f s1
  else { s1 with regWaits := s1.regWaits ++ [⟨d, a⟩] }

/-- Where a register access waits for a place in the mirror egress (R435). -/
def mirrorPlace : Nat := 22

/-- A write whose change needs a mirror record takes effect once the record has a place, behind those that wait (R435). -/
def State.regAtMirror (s : State) (waits : Bool) (w : Writer) (off : Nat) (v : Word) (f : State → State) : State :=
  if waits || s.regWaits.any fun x => x.d == mirrorPlace && (match x.acc with | .write w' _ _ => w' == w | _ => false) then
    { s with regWaits := s.regWaits ++ [⟨mirrorPlace, .write w off v⟩] }
  else f s

/-- What makes thread t ready reaches its hearth: it wakes the thread, ends a drain (R398), or waits until the hearth is
ON. -/
def State.wakeThread (s : State) (t : Tid) : State :=
  let d := (hearthOf t).toNat
  if !(s.thr t).st.asleep then s
  else match (s.dom d).st with
    | .on => s.rouse t
    | .draining => (s.wakeDomain d).rouse t
    | _ => if s.heldWakes.contains t then s else { s with heldWakes := s.heldWakes ++ [t] }

/-- The domain of a queue quadrant. -/
def quadDomain (k : Quadrant) : Nat := 16 + k.toNat

/-! ## Identity of pushers (R201, R213) -/

def senderThread (t : Tid) : BitVec 22 := BitVec.ofNat 22 t.toNat
def senderChannel (ch : Chan) : BitVec 22 := BitVec.ofNat 22 (2 ^ 18 + ch.toNat)
def senderHost (page : Nat) : BitVec 22 := BitVec.ofNat 22 (2 * 2 ^ 18 + page % 1024)
def senderUnit (code : Nat) : BitVec 22 := BitVec.ofNat 22 (3 * 2 ^ 18 + code)
def senderRemote (n : Node) : BitVec 22 := BitVec.ofNat 22 (4 * 2 ^ 18 + n.toNat)

def ownerThread (t : Tid) : BitVec 12 := BitVec.ofNat 12 t.toNat
def ownerChannel (ch : Chan) : BitVec 12 := BitVec.ofNat 12 (0x200 + ch.toNat)
def ownerHost (page : Nat) : BitVec 12 := BitVec.ofNat 12 (0x400 + page % 1024)
def ownerChain : BitVec 12 := 0x800
def ownerSignal : BitVec 12 := 0x801
def ownerNotice (k : Quadrant) : BitVec 12 := BitVec.ofNat 12 (0x802 + k.toNat)
def ownerSlag : BitVec 12 := 0x806

/-- The SENDER encoding of a pool owner (R217). -/
def senderOfOwner (o : BitVec 12) : BitVec 22 :=
  let n := o.toNat
  if n < 0x200 then BitVec.ofNat 22 n
  else if n < 0x400 then BitVec.ofNat 22 (2 ^ 18 + (n - 0x200))
  else if n < 0x800 then senderHost (n - 0x400)
  else if n = 0x800 then senderUnit 2
  else if n = 0x801 then senderUnit 1
  else senderUnit 0

/-- A 64-bit item (R200). -/
def mkItem (end_ : Bool) (prio kind : BitVec 4) (sender : BitVec 22) (payload : Word) : BitVec 64 :=
  (1 : BitVec 1) ++ BitVec.ofBool end_ ++ prio ++ kind ++ sender ++ payload

def itemEnd (i : BitVec 64) : Bool := i.getLsbD 62
def itemPrio (i : BitVec 64) : BitVec 4 := i.extractLsb' 58 4
def itemKind (i : BitVec 64) : BitVec 4 := i.extractLsb' 54 4
def itemSender (i : BitVec 64) : BitVec 22 := i.extractLsb' 32 22
def itemPayload (i : BitVec 64) : Word := i.extractLsb' 0 32
def itemTag (i : BitVec 64) : Word := i.extractLsb' 32 32
def withPrio (i : BitVec 64) (p : BitVec 4) : BitVec 64 := i.extractLsb' 62 2 ++ p ++ i.extractLsb' 0 58
def withSender (i : BitVec 64) (x : BitVec 22) : BitVec 64 := i.extractLsb' 54 10 ++ x ++ i.extractLsb' 0 32

/-! ## Priorities and waiters (R131, R216, R560) -/

/-- Effective priority of a thread: the larger of its base priority and every raise (R131). -/
def Thread.effective (th : Thread) : BitVec 4 := th.raises.foldl (fun p r => if p < r.2 then r.2 else p) th.prio

/-- Effective priority of a waiter: a thread's own; 15 for a channel or a unit. -/
def State.waiterPrio (s : State) (o : BitVec 12) : BitVec 4 :=
  if o.toNat < 0x200 then (s.thr (BitVec.ofNat 9 o.toNat)).effective else 15

/-- The waiter of highest effective priority, the earliest among equals. -/
def State.bestWaiter (s : State) (ws : List Waiter) : Option Waiter :=
  ws.foldl (fun b w => match b with
    | none => some w
    | some v =>
      if s.waiterPrio v.owner < s.waiterPrio w.owner || (s.waiterPrio v.owner == s.waiterPrio w.owner && w.seq < v.seq)
      then some w else some v) none

/-- Each freed place serves one depth waiter (R560). -/
def State.serveDepth (s : State) (q : Qid) : Nat → State
  | 0 => s
  | n + 1 =>
    match s.bestWaiter (s.queue q).depthWaiters with
    | none => s
    | some w =>
      (s.setQueue q { s.queue q with depthWaiters := (s.queue q).depthWaiters.erase w
                                     served := (s.queue q).served ++ [w] }).serveDepth q n

/-- A thread that sleeps in STW or STWE for its quota is woken once its use lies below it (R217). -/
def State.wakeOver (s : State) (o : BitVec 12) : State :=
  if o.toNat < 0x200 then
    let t := BitVec.ofNat 9 o.toNat
    let isOver : Bool := match (s.thr t).sleep with | .pushOver _ => true | _ => false
    if isOver && decide ((s.owner o).use < s.fld F.qeOwnlim_QUOTA o.toNat) then
      s.wakeThread t
    else s
  else s

/-- A shared slot of quadrant k is free: it is claimed for the best waiter, or counted in FREE (R214, R216). -/
def State.giveSlot (s : State) (k : Quadrant) : State :=
  let x := s.quad k
  match s.bestWaiter x.waiters with
  | some w => s.setQuad k { x with waiters := x.waiters.erase w, claims := x.claims ++ [w] }
  | none => s.setQuad k { x with free := x.free + 1 }

/-- The slot of a word that leaves its queue is freed at the end of the cycle (R212, R214). -/
def State.freeSlot (s : State) (k : Quadrant) (w : QWord) : State := { s with freed := s.freed ++ [(k, w)] }

/-- A floor slot returns to its owner's floor; a shared slot goes to the quadrant's first waiter or to FREE (R214). -/
def State.returnSlot (s : State) (k : Quadrant) (w : QWord) : State :=
  let o := s.owner w.owner
  let s1 := s.setOwner w.owner { o with use := o.use - 1, fuse := if w.floor then o.fuse - 1 else o.fuse }
  (if w.floor then s1 else s1.giveSlot k).wakeOver w.owner

/-- The slots freed in the cycle return. -/
def State.returnSlots (s : State) : State := s.freed.foldl (fun s x => s.returnSlot x.1 x.2) { s with freed := [] }

/-! ## What a cycle does to a queue (R206, R210, R212) -/

def State.qcycOf (s : State) (q : Qid) : QueueCyc := (smGet none s.qcyc q.toNat).getD {}

/-- The counts of queue q at the start of the cycle are noted before its first change. -/
def State.touchQueue (s : State) (q : Qid) : State :=
  if (smGet none s.qcyc q.toNat).isSome then s
  else { s with qcyc := smSet none s.qcyc q.toNat (some { depth := (s.queue q).depth, pkts := (s.queue q).pkts }) }

/-- Queue q raises no level event in this cycle. -/
def State.noteFlush (s : State) (q : Qid) : State :=
  { s.touchQueue q with qcyc := smSet none (s.touchQueue q).qcyc q.toNat (some { (s.touchQueue q).qcycOf q with flushed := true }) }

/-- Queue q closes its open packet in this cycle: the next one opens in a later cycle. -/
def State.noteClose (s : State) (q : Qid) : State :=
  { s.touchQueue q with qcyc := smSet none (s.touchQueue q).qcyc q.toNat (some { (s.touchQueue q).qcycOf q with closed := true }) }

/-! ## Level events (R210) -/

/-- At the end of a cycle at whose start the counts of queue q were those of c: the level event fires on an upward
crossing. -/
def State.levelEvent (s : State) (q : Qid) (c : QueueCyc) : State :=
  let l := s.fld F.qeQlevel_LEVEL q.toNat
  let before := if s.bit F.qeQlevel_UNIT q.toNat then c.pkts else c.depth
  if s.bit F.qeQlevel_EN q.toNat && decide (0 < l) && decide (before < l) && decide (l ≤ s.levelCount q) then
    let s1 := if s.bit F.qeQevt_SRCEN q.toNat then s.pulse (0x400 + s.fld F.qeQevt_LSRC q.toNat) else s
    if s1.bit F.qeQevt_IRQEN q.toNat then s1.vector (s1.fld F.qeQevt_VEC q.toNat) else s1
  else s

/-! ## Wake notices to readers (R208) -/

/-- The threads asleep in LDW on queue q that no notice is on its way to, as (thread, effective priority, order).
Log entry 66 (DESIGN CHOICE). -/
def State.sleepers (s : State) (q : Qid) : List (Tid × BitVec 4 × Nat) :=
  s.threads.filterMap fun kv =>
    let t := BitVec.ofNat 9 kv.1
    if kv.2.sleep = .read q && !(s.queue q).notices.contains t then some (t, kv.2.effective, kv.2.sleepSeq) else none

/-- The sleeper of highest effective priority, the one that slept first among equals. -/
def bestSleeper (l : List (Tid × BitVec 4 × Nat)) : Option Tid :=
  (l.foldl (fun (b : Option (Tid × BitVec 4 × Nat)) x => match b with
    | none => some x
    | some y => if y.2.1 < x.2.1 || (y.2.1 == x.2.1 && x.2.2 < y.2.2) then some x else some y) none).map fun x => x.1

/-- A wake notice to a sleeping reader of queue q. -/
def State.notifyReader (s : State) (q : Qid) : State :=
  match bestSleeper (s.sleepers q) with
  | none => s
  | some t => s.setQueue q { s.queue q with notices := (s.queue q).notices ++ [t] }

/-- n wake notices. -/
def State.notifyReaders (s : State) (q : Qid) : Nat → State
  | 0 => s
  | n + 1 => (s.notifyReader q).notifyReaders q n

/-! ## State of a queue -/

/-- Packet mode (R205, R220). -/
def State.packetMode (s : State) (q : Qid) : Bool := q == slagQueue || s.bit F.qeQcfg_MODE q.toNat

/-- Enabled, and not in a lost quadrant (R203, R220, R456). -/
def State.queueUp (s : State) (q : Qid) : Bool :=
  (q == slagQueue || s.bit F.qeQcfg_EN q.toNat) && !(s.quad (quadrantOf q)).lost

/-- Home quadrant of an owner (R234). -/
def State.homeOf (s : State) (o : BitVec 12) : Nat :=
  if o = 0x806 then 3
  else if 0x802 ≤ o.toNat && o.toNat < 0x806 then o.toNat - 0x802
  else s.fld F.qeOwncfg_HOME o.toNat

/-- A partial packet of the quadrant holds an assembly entry (R207). -/
def State.assemblyUsed (s : State) (k : Quadrant) : Nat :=
  ((smKeepRange s.queues (4096 * k.toNat) (4096 * k.toNat + 4096)).map fun kv =>
    (kv.2.packets.filter fun p => !p.complete).length).sum

/-- An item would start a new packet that is not whole at once, and so needs an assembly entry (R207). -/
def State.needsAssembly (s : State) (q : Qid) (item : BitVec 64) : Bool :=
  s.packetMode q && !itemEnd item &&
    !((s.queue q).packets.any fun p => !p.complete && p.sender == itemSender item)

/-! ## The end of a cycle (R204, R206, R208, R210, R214) -/

/-- The wake notices of queue q for the next cycle: one for each new candidate, and one for a close that leaves a
candidate packet. -/
def State.newCandidates (s : State) (q : Qid) : Nat :=
  let x := s.queue q
  let whole := x.packets.filter fun p => p.complete
  let new := fun (c : Nat) => decide (s.cycSeq < c)
  if !s.packetMode q then (x.words.filter fun w => new w.cand).length
  else if x.opened.isSome then 0
  else (whole.filter fun p => new p.cand).length + ((s.qcycOf q).closed && whole.any fun p => !new p.cand).toNat

/-- A queue that changed in the cycle. -/
def State.queueEnd (s : State) (q : Qid) (c : QueueCyc) : State :=
  let s1 := s.notifyReaders q (s.newCandidates q)
  if c.flushed then s1 else s1.levelEvent q c

/-- The end of a cycle at the queue engine. -/
def State.endQueues (s : State) : State :=
  let s1 := s.qcyc.foldl (fun s kv => match kv.2 with
    | none => s
    | some c => s.queueEnd (BitVec.ofNat 14 kv.1) c) s
  ({ s1 with qcyc := [], cycSeq := s1.seq }).returnSlots

/-! ## Pool (R214) -/

/-- A claimed slot of owner o; the items held for a notice owner have each a place n of their own. -/
def Waiter.claimOf (w : Waiter) (o : BitVec 12) (n : Nat) : Bool :=
  w.owner == o && (decide (o.toNat < 0x802) || w.seq == n)

/-- Where a slot for one item of owner o in quadrant k would come from. -/
inductive PoolAns where
  | over | floor | shared | claim | poolFull
  deriving DecidableEq, Repr

def State.pool (s : State) (o : BitVec 12) (k : Quadrant) (n : Nat := 0) : PoolAns :=
  let x := s.owner o
  if o.toNat < 0x802 && decide (s.fld F.qeOwnlim_QUOTA o.toNat ≤ x.use) then .over
  else if s.homeOf o = k.toNat && decide (x.fuse < s.fld F.qeOwnlim_FLOOR o.toNat) then .floor
  else if (s.quad k).claims.any (fun w => w.claimOf o n) then .claim
  else if 0 < (s.quad k).free then .shared
  else .poolFull

/-- Remove the claim of owner o in quadrant k; its slot is used up (`used`) or passes to the next waiter (R216). -/
def State.dropClaim (s : State) (o : BitVec 12) (k : Quadrant) (used : Bool) (n : Nat := 0) : State :=
  match (s.quad k).claims.find? (fun w => w.claimOf o n) with
  | none => s
  | some w =>
    let s1 := s.setQuad k { s.quad k with claims := (s.quad k).claims.erase w }
    if used then s1 else s1.giveSlot k

/-- The claims of owner o pass on: it has been stopped or reset before its retry (R216). -/
def State.dropClaims (s : State) (o : BitVec 12) : State :=
  (((s.dropClaim o 0 false).dropClaim o 1 false).dropClaim o 2 false).dropClaim o 3 false

/-- Charge a slot to owner o. -/
def State.takeSlot (s : State) (o : BitVec 12) (k : Quadrant) (a : PoolAns) (n : Nat := 0) : State :=
  let x := s.owner o
  match a with
  | .floor => (s.setOwner o { x with use := x.use + 1, fuse := x.fuse + 1 }).dropClaim o k false n
  | .claim => (s.setOwner o { x with use := x.use + 1 }).dropClaim o k true n
  | .shared => (s.setOwner o { x with use := x.use + 1 }).setQuad k { s.quad k with free := (s.quad k).free - 1 }
  | _ => s

/-! ## Storing (R204, R205) -/

/-- Put a word into a packet-mode queue: it continues its pusher's partial packet or starts one; a packet moves to the
end of the order when its END word is written. -/
def storePacket (ps : List Packet) (w : QWord) : List Packet :=
  let sd := itemSender w.item
  match ps.find? (fun p => !p.complete && p.sender == sd) with
  | some p =>
    let p' := { p with words := p.words ++ [w], complete := itemEnd w.item, cand := w.cand }
    if itemEnd w.item then ps.erase p ++ [p'] else ps.map fun x => if x = p then p' else x
  | none => ps ++ [⟨sd, itemPrio w.item, [w], itemEnd w.item, w.cand⟩]

/-- Store a word: it is a candidate from the next cycle (R204, R212). -/
def State.storeWord (s : State) (q : Qid) (w : QWord) : State :=
  let s0 := (s.touchQueue q).bump
  let x := s0.queue q
  let w1 := { w with cand := s0.seq }
  if s.packetMode q then s0.setQueue q { x with packets := storePacket x.packets w1 }
  else s0.setQueue q { x with words := x.words ++ [w1] }

/-! ## The slag queue (R220, R221) -/

/-- The slot of a word of the slag queue is free for the next record, ahead of quadrant 3's waiters. -/
def State.freeSlagSlot (s : State) (w : QWord) : State :=
  let o := s.owner w.owner
  let s1 := s.setOwner w.owner { o with use := o.use - 1, fuse := if w.floor then o.fuse - 1 else o.fuse }
  if w.floor then s1 else s1.setQuad 3 { s1.quad 3 with free := (s1.quad 3).free + 1 }

/-- Drop the oldest complete record of the slag queue. -/
def State.dropSlagRecord (s : State) : Option State :=
  match (s.queue slagQueue).packets.find? (fun p => p.complete) with
  | none => none
  | some p =>
    let s0 := s.touchQueue slagQueue
    let s1 := s0.setQueue slagQueue { s0.queue slagQueue with packets := (s0.queue slagQueue).packets.erase p }
    some ((p.words.foldl (fun s w => s.freeSlagSlot w) s1).satAdd F.qeSlaglost_COUNT 1)

/-- The slag queue has depth and slots for one more record. -/
def State.slagFits (s : State) : Bool :=
  decide ((s.queue slagQueue).depth + 2 ≤ s.fld F.qeQcfg_DEPTH slagQueue.toNat) &&
    decide (2 ≤ (s.fld F.qeOwnlim_FLOOR 0x806 - (s.owner ownerSlag).fuse) + (s.quad 3).free)

/-- The oldest records are dropped until one more fits; the fuel is their number. -/
def State.makeSlagRoom (s : State) : Nat → State
  | 0 => s
  | n + 1 => if s.slagFits then s else match s.dropSlagRecord with | none => s | some s1 => s1.makeSlagRoom n

/-- Free shared slots of a quadrant go to its waiters (R216); the fuel is their number. -/
def State.claimFree (s : State) (k : Quadrant) : Nat → State
  | 0 => s
  | n + 1 =>
    let x := s.quad k
    if x.free = 0 ∨ x.waiters.isEmpty then s
    else ((s.setQuad k { x with free := x.free - 1 }).giveSlot k).claimFree k n

/-- Write one record of two words, whole. -/
def State.writeSlagRecord (s : State) (w1 w2 : BitVec 64) : State :=
  let a1 := s.pool ownerSlag 3
  let s1 := s.takeSlot ownerSlag 3 a1
  let a2 := s1.pool ownerSlag 3
  let s2 := s1.takeSlot ownerSlag 3 a2
  let s3 := (s2.touchQueue slagQueue).bump
  let p : Packet := ⟨itemSender w1, itemPrio w1,
    [⟨w1, ownerSlag, a1 == .floor, none, s3.seq⟩, ⟨w2, ownerSlag, a2 == .floor, none, s3.seq⟩], true, s3.seq⟩
  s3.setQueue slagQueue { s3.queue slagQueue with packets := (s3.queue slagQueue).packets ++ [p] }

/-- A global queue address (R21). -/
def globalAddr (n : Node) (q : Qid) : Word := n ++ q

/-- An item for queue address `dest` is discarded with a reason: one slag record (R220, R221).  When no complete record
is left to drop and depth or slots still lack, the new record is itself lost and counted, which R221 does not say.
Log entry 75 (DESIGN CHOICE). -/
def State.slag (s : State) (reason : BitVec 4) (dest : Word) (item : BitVec 64) : State :=
  let s1 := s.satAdd F.qeSlagcnt_COUNT 1 (reason.toNat - 1)
  let w1 := mkItem false (itemPrio item) reason (itemSender item) dest
  let w2 := mkItem true (itemPrio item) (itemKind item) (itemSender item) (itemPayload item)
  if (s1.quad 3).lost then s1.satAdd F.qeSlaglost_COUNT 1
  else
    let s2 := s1.makeSlagRoom (s1.queue slagQueue).packets.length
    let s3 := if s2.slagFits then s2.writeSlagRecord w1 w2
      else s2.satAdd F.qeSlaglost_COUNT 1
    s3.claimFree 3 (s3.quad 3).waiters.length

/-- Slag an item of a queue of this block. -/
def State.slagLocal (s : State) (reason : BitVec 4) (q : Qid) (item : BitVec 64) : State :=
  s.slag reason (globalAddr s.node q) item

/-- The reasons of R221. -/
def slagPoolFull : BitVec 4 := 1
def slagPoweredDown : BitVec 4 := 2
def slagStaleRole : BitVec 4 := 3
def slagQuota : BitVec 4 := 4
def slagHopLimit : BitVec 4 := 5
def slagLinkDown : BitVec 4 := 6
def slagMirrorReject : BitVec 4 := 7
def slagNoRoute : BitVec 4 := 8
def slagFlushed : BitVec 4 := 9

/-! ## Notices (R130) -/

def State.heldNotice (s : State) (h : Holder) : Option HeldNotice :=
  match h with
  | .thread t => (s.thr t).notice
  | .channel c => (s.chan c).notice
  | .queueEngine => s.qeNotice
  | .stager => s.stagerNotice
  | .temper => s.temperNotice
  | .faultUnit => s.faults.notice
  | .chainUnit => s.chain.notice

def State.setHeldNotice (s : State) (h : Holder) (n : Option HeldNotice) : State :=
  match h with
  | .thread t => s.setThr t { s.thr t with notice := n }
  | .channel c => s.setChan c { s.chan c with notice := n }
  | .queueEngine => { s with qeNotice := n }
  | .stager => { s with stagerNotice := n }
  | .temper => { s with temperNotice := n }
  | .faultUnit => { s with faults := { s.faults with notice := n } }
  | .chainUnit => { s with chain := { s.chain with notice := n } }

/-- The WAKE test of an item held for domain d (R400). -/
def State.isWakeItem (s : State) (d : Nat) (item : BitVec 64) : Bool :=
  (s.fld F.pwrWake_KINDS d).testBit (itemKind item).toNat ||
    (s.bit F.pwrWake_WPEN d && decide (s.fld F.pwrWake_WPRIO d ≤ (itemPrio item).toNat))

/-- An item stored for a domain that is not ON is counted in HELD; a WAKE item wakes the domain (R400). -/
def State.storeHeld (s : State) (q : Qid) (item : BitVec 64) (o : BitVec 12) (floor : Bool) : State :=
  match s.holdDomain q with
  | none => s.storeWord q ⟨item, o, floor, none, 0⟩
  | some d =>
    if (s.dom d).st = .on then s.storeWord q ⟨item, o, floor, none, 0⟩
    else
      let s1 := s.storeWord q ⟨item, o, floor, some s.ns, 0⟩
      if s.isWakeItem d item then s1.wakeDomain d else s1

/-- Queue q cannot be reached or changed now: its quadrant is not ON (R399), or a mirrored change waits for its record's
place (R435). -/
def State.queueWaits (s : State) (q : Qid) : Bool :=
  (s.dom (quadDomain (quadrantOf q))).st != .on || (s.bit F.qeQcfg_MIRRORED q.toNat && !s.mirrorRoom)

/-- Try to push a notice item now, n being its place among the waiters: `none` when its queue cannot be reached, is at
depth or no slot is free. -/
def State.tryNotice (s : State) (q : Qid) (item : BitVec 64) (n : Nat := 0) : Option State :=
  let k := quadrantOf q
  let o := ownerNotice k
  if s.queueWaits q || !s.queueUp q || decide (s.fld F.qeQcfg_DEPTH q.toNat < (s.queue q).depth + 1) then none
  else
    match s.pool o k n with
    | .over => none
    | .poolFull => none
    | a => some (((s.takeSlot o k a n).storeHeld q item o (a == .floor)).mirrorQueue 0 q o item)

/-- Register a waiter once. Log entry 26 (DEDUCED). -/
def addWaiter (ws : List Waiter) (o : BitVec 12) (seq : Nat) : List Waiter :=
  if ws.any (fun w => w.owner == o) then ws else ws ++ [⟨o, seq⟩]

/-- The place of an item held for a notice owner. -/
def HeldNotice.place (x : HeldNotice) : Waiter := ⟨ownerNotice (quadrantOf x.q), x.wait⟩

/-- A held item leaves the waiters of its queue and of its quadrant; a slot claimed for it stays claimed. -/
def State.leavePlace (s : State) (x : HeldNotice) : State :=
  let k := quadrantOf x.q
  let y := s.queue x.q
  let s1 := s.setQueue x.q { y with depthWaiters := y.depthWaiters.erase x.place, served := y.served.erase x.place }
  s1.setQuad k { s1.quad k with waiters := (s1.quad k).waiters.erase x.place }

/-- An item held for a notice owner waits, with effective priority 15, for depth or for a slot, each item in a place of its
own, which keeps its order (R130, R216, R560); a slot claimed for it passes on when its queue is full. -/
def State.takePlace (s : State) (x : HeldNotice) (full slot : Bool) : HeldNotice × State :=
  let k := quadrantOf x.q
  let s0 := if x.wait = 0 then s.bump else s
  let x1 := if x.wait = 0 then { x with wait := s0.seq } else x
  let s1 := s0.leavePlace x1
  (x1, if full then
      let s2 := s1.dropClaim (ownerNotice k) k false x1.wait
      s2.setQueue x.q { s2.queue x.q with depthWaiters := (s2.queue x.q).depthWaiters ++ [x1.place] }
    else if slot then s1.setQuad k { s1.quad k with waiters := (s1.quad k).waiters ++ [x1.place] }
    else s1)

/-- A notice that its queue could not take is held (R130). -/
def State.noticeWaits (s : State) (h : Holder) (x : HeldNotice) : State :=
  let full := !(s.queueUp x.q && decide ((s.queue x.q).depth + 1 ≤ s.fld F.qeQcfg_DEPTH x.q.toNat))
  let r := s.takePlace x (full && !s.queueWaits x.q) (!full && !s.queueWaits x.q)
  r.2.setHeldNotice h (some r.1)

/-- The quadrant of a queue is woken by what reaches it (R399). -/
def State.wakeQuad (s : State) (q : Qid) : State :=
  if (s.dom (quadDomain (quadrantOf q))).st = .on then s else s.wakeDomain (quadDomain (quadrantOf q))

/-- A holder sends a notice (R130): pushed, or held; dropped and counted when one is held already or when the queue's
quadrant is lost (R453, R456). Log entry 26 (DEDUCED). -/
def State.notice (s : State) (h : Holder) (q : Qid) (item : BitVec 64) : State :=
  if (s.quad (quadrantOf q)).lost then s.satAdd F.fltStat_NDROP 1
  else if (s.heldNotice h).isSome then s.satAdd F.fltStat_NDROP 1
  else match (s.wakeQuad q).tryNotice q item with
    | some s1 => s1
    | none => (s.wakeQuad q).noticeWaits h { q := q, item := item }

/-- Fault queue of a core (R156). -/
def State.faultQueue (s : State) (c : Nat) : Qid := BitVec.ofNat 14 (s.fld F.thrFq_QID c)

/-! ## The decision of a push (R559) -/

/-- Every step of R559. -/
inductive PushDec where
  | disabled | stale | powerDown | full | over | poolFull | accept (a : PoolAns)
  deriving DecidableEq, Repr

/-- The role check of R219 passes. -/
def State.roleOk (s : State) (q : Qid) (role : Word) : Bool :=
  let rd := s.fld F.qeQcfg_READER q.toNat
  decide (role.toNat / 2 ^ 25 = 0) && decide (bitsOf role 16 9 = rd) &&
    decide ((s.thr (BitVec.ofNat 9 rd)).epoch.toNat = bitsOf role 0 16)

/-- Step 3 of R559: the item would be held above the limit of its domain (R400). -/
def State.overLimit (s : State) (q : Qid) (item : BitVec 64) : Bool :=
  match s.holdDomain q with
  | none => false
  | some d => (s.dom d).st != .on && !s.isWakeItem d item && decide (s.fld F.pwrHold_LIMIT d ≤ s.heldCount d)

/-- The decision of a push; n is the place of an item held for a notice owner. -/
def State.decidePush (s : State) (q : Qid) (item : BitVec 64) (o : BitVec 12) (role : Word) (n : Nat := 0) : PushDec :=
  if !s.queueUp q then .disabled
  else if s.bit F.qeQcfg_ROLECHK q.toNat && !s.roleOk q role then .stale
  else if s.overLimit q item then .powerDown
  else if s.fld F.qeQcfg_DEPTH q.toNat < (s.queue q).depth + 1 then .full
  else match s.pool o (quadrantOf q) n with
    | .over => .over
    | .poolFull => .poolFull
    | a => .accept a

/-- A STALE notice to the pushing owner (R217). -/
def State.staleNotice (s : State) (q : Qid) (o : BitVec 12) : State :=
  if s.bit F.qeOwncfg_NOTIFY o.toNat then
    s.notice .queueEngine (BitVec.ofNat 14 (s.fld F.qeOwncfg_NQ o.toNat))
      (mkItem true 15 7 (senderUnit 0) (globalAddr s.node q))
  else s

/-- What a push to a queue of this block answers. -/
inductive PushAns where
  /-- Stored. -/
  | ok
  /-- Sent to the slag queue as STALE_ROLE or POWERED_DOWN: the pusher completes. -/
  | slagged
  /-- Refused with FULL, OVER, POOL_FULL (a disabled queue refuses with FULL and nobody waits for it). -/
  | full | over | poolFull | disabled
  /-- Held at the push port for an assembly entry (R207). -/
  | held
  /-- Not performed yet: the quadrant is not ON (R399), or a mirrored change waits for its record's place (R435). -/
  | later
  deriving DecidableEq, Repr

/-- Store an accepted item. -/
def State.acceptPush (s : State) (q : Qid) (item : BitVec 64) (o : BitVec 12) (a : PoolAns) (n : Nat := 0) : State :=
  ((s.takeSlot o (quadrantOf q) a n).storeHeld q item o (a == .floor)).mirrorQueue 0 q o item

/-- The push waits at its quadrant's port. -/
def State.holdPush (s : State) (q : Qid) (item : BitVec 64) (o : BitVec 12) (role : Word) : State :=
  let k := quadrantOf q
  s.setQuad k { s.quad k with held := (s.quad k).held ++ [⟨q, item, o, role⟩] }

/-- A push that reaches its quadrant (R559, R207, R216). -/
def State.pushItem (s : State) (q : Qid) (item : BitVec 64) (o : BitVec 12) (role : Word) (n : Nat := 0) : PushAns × State :=
  let k := quadrantOf q
  match s.decidePush q item o role n with
  | .disabled => (.disabled, s.dropClaim o k false n)
  | .stale => (.slagged, ((s.dropClaim o k false n).slagLocal slagStaleRole q item).staleNotice q o)
  | .powerDown => (.slagged, (s.dropClaim o k false n).slagLocal slagPoweredDown q item)
  | .full => (.full, s.dropClaim o k false n)
  | .over => (.over, s.dropClaim o k false n)
  | .poolFull => (.poolFull, s)
  | .accept a =>
    if s.bit F.qeQcfg_MIRRORED q.toNat && !s.mirrorRoom then (.later, s)
    else if s.needsAssembly q item && decide (256 ≤ s.assemblyUsed k) then
      (.held, s.holdPush q item o role)
    else (.ok, s.acceptPush q item o a n)

/-- A push by any pusher: the quadrant's domain is woken first when it is not ON (R399), and it stays behind a push of the
same owner that the port holds (R207, R222). -/
def State.push (s : State) (q : Qid) (item : BitVec 64) (o : BitVec 12) (role : Word) (n : Nat := 0) : PushAns × State :=
  let d := quadDomain (quadrantOf q)
  if (s.quad (quadrantOf q)).held.any fun h => h.owner == o then (.held, s.holdPush q item o role)
  else if (s.dom d).st = .on then s.pushItem q item o role n
  else
    let s1 := s.wakeDomain d
    if (s1.dom d).st = .on then s1.pushItem q item o role n else (.later, s1)

/-- A push by a pusher that does not wait: what is refused goes to the slag queue (R203, R217, R221). -/
def State.pushOrSlag (s : State) (q : Qid) (item : BitVec 64) (o : BitVec 12) (role : Word) : PushAns × State :=
  match s.push q item o role with
  | (.ok, s1) => (.ok, s1)
  | (.slagged, s1) => (.slagged, s1)
  | (.held, s1) => (.held, s1)
  | (.later, s1) => (.later, s1.holdPush q item o role)
  | (.over, s1) => (.over, s1.slagLocal slagQuota q item)
  | (a, s1) => (a, s1.slagLocal slagPoolFull q item)

/-- The item has not gone to the slag queue for want of room: it is stored, waits at the port, or its pusher is done. -/
def PushAns.taken (a : PushAns) : Bool := a == .ok || a == .slagged || a == .held || a == .later

/-! ## Reading (R204 to R206) -/

/-- The candidate of highest PRIO, the earliest among equals. -/
def bestWord (ws : List QWord) : Option QWord :=
  ws.foldl (fun b w => match b with
    | none => some w
    | some v => if itemPrio v.item < itemPrio w.item then some w else some v) none

/-- The complete packet of highest priority, the first to become a candidate among equals. -/
def bestPacket (ps : List Packet) : Option Packet :=
  ps.foldl (fun b p =>
    if !p.complete then b
    else match b with
      | none => some p
      | some v => if v.prio < p.prio then some p else some v) none

/-- On the standby a mirrored queue refuses every reader (R429). -/
def State.standbyRefuses (s : State) (q : Qid) : Bool :=
  s.bit F.qeQcfg_MIRRORED q.toNat && s.mirror.role == .standby

/-- A word leaves queue q: its slot and its place are freed. -/
def State.afterPop (s : State) (q : Qid) (w : QWord) : State :=
  ((s.freeSlot (quadrantOf q) w).serveDepth q 1).mirrorQueue 1 q w.owner 0

/-- A read among the words and packets stored up to moment `lim` of the order counter: the item delivered (its PRIO is the
packet's in packet mode) with its stored word, or nothing. -/
def State.popUpTo (s0 : State) (lim : Nat) (q : Qid) (r : Reader) : Option (BitVec 64 × QWord) × State :=
  let s := s0.touchQueue q
  let x := s.queue q
  if s.packetMode q then
    match x.opened with
    | some o =>
      if o.reader ≠ r then (none, s)
      else match o.words with
        | [] => (none, s.setQueue q { x with opened := none })
        | w :: rest =>
          let s1 := s.setQueue q { x with opened := if rest.isEmpty then none else some { o with words := rest } }
          let s2 := if rest.isEmpty then s1.noteClose q else s1
          (some (withPrio w.item o.prio, w), s2.afterPop q w)
    | none =>
      match bestPacket (x.packets.filter fun p => decide (p.cand ≤ lim)) with
      | none => (none, s)
      | some p =>
        match p.words with
        | [] => (none, s.setQueue q { x with packets := x.packets.erase p })
        | w :: rest =>
          let s1 := s.setQueue q { x with packets := x.packets.erase p
                                          opened := if rest.isEmpty then none else some ⟨r, p.prio, rest⟩ }
          let s2 := if rest.isEmpty then s1.noteClose q else s1
          (some (withPrio w.item p.prio, w), s2.afterPop q w)
  else
    match bestWord (x.words.filter fun w => decide (w.cand ≤ lim)) with
    | none => (none, s)
    | some w => (some (w.item, w), (s.setQueue q { x with words := x.words.erase w }).afterPop q w)

/-- A read of the queue as it stood at the start of the cycle (R212); a queue that has closed a packet in this cycle has no
candidate until the next (R206). -/
def State.popAny (s : State) (q : Qid) (r : Reader) : Option (BitVec 64 × QWord) × State :=
  if (s.qcycOf q).closed then (none, s) else s.popUpTo s.cycSeq q r

/-- A read by a reader that may read the queue. -/
def State.popItem (s : State) (q : Qid) (r : Reader) : Option (BitVec 64 × QWord) × State :=
  if s.standbyRefuses q then (none, s) else s.popAny q r

/-- What is left of a packet without the words stored before moment `lim`: a new packet of the words that stay. -/
def Packet.since (p : Packet) (lim : Nat) : Option Packet :=
  match p.words.filter fun w => decide (lim < w.cand) with
  | [] => none
  | w :: ws => some { p with prio := itemPrio w.item, words := w :: ws }

/-- Queue q keeps only what was stored after moment `lim`, without slag records and without a level event; the standby is
told of the flush and of what stays. -/
def State.emptyUpTo (s0 : State) (lim : Nat) (q : Qid) : State :=
  let s := s0.noteFlush q
  let x := s.queue q
  let stay := fun (w : QWord) => decide (lim < w.cand)
  let gone := x.allWords.filter fun w => !stay w
  let s1 := s.setQueue q { x with words := x.words.filter stay, packets := x.packets.filterMap fun p => p.since lim, opened := none }
  let s2 := gone.foldl (fun s w => s.freeSlot (quadrantOf q) w) s1
  let s3 := (s2.serveDepth q gone.length).mirrorQueue 2 q 0 0
  (s3.queue q).allWords.foldl (fun s w => s.mirrorQueue 0 q w.owner w.item) s3

/-- A flush (R211) comes before the push of the same cycle (R212). -/
def State.flushQueue (s : State) (q : Qid) : State := s.emptyUpTo s.cycSeq q

/-- A queue is emptied of everything. -/
def State.emptyQueue (s : State) (q : Qid) : State := s.emptyUpTo s.seq q

/-- Move every item of a queue to the slag queue with a reason (R135, R206). -/
def State.purgeQueue (s0 : State) (q : Qid) (reason : BitVec 4) : State :=
  let s := s0.noteFlush q
  let x := s.queue q
  let s1 := s.setQueue q { x with words := [], packets := [], opened := none }
  let s2 := x.allWords.foldl (fun s w => (s.freeSlot (quadrantOf q) w).slagLocal reason q w.item) s1
  (s2.serveDepth q x.allWords.length).mirrorQueue 2 q 0 0

/-- A reader is reset: the unread words of the packets it holds open go to the slag queue (R206). -/
def State.dropOpen (s : State) (r : Reader) : State :=
  s.queues.foldl (fun s kv =>
    match kv.2.opened with
    | none => s
    | some o =>
      if o.reader ≠ r then s
      else
        let q : Qid := BitVec.ofNat 14 kv.1
        let s0 := s.noteClose q
        let s1 := s0.setQueue q { s0.queue q with opened := none }
        let s2 := o.words.foldl (fun s w =>
          ((s.freeSlot (quadrantOf q) w).slagLocal slagFlushed q w.item).mirrorQueue 1 q w.owner 0) s1
        s2.serveDepth q o.words.length) s

end Sys2Proof.Machine
end

