-- ==== Sys2Proof/Machine/MemOps.lean ====
section
/-!
DEFINITION. User memory as its masters meet it (chapter 06): ownership and retention of shared banks, refusals, the store
buffer and its forwarding, performed writes and the watches they wake, and the settling of late faults (R561).
-/

namespace Sys2Proof.Machine

/-! ## Shared banks (R164 to R175) -/

def masterBoot : Master := 0x2B
def masterChain : Master := 0x28
def masterSignal : Master := 0x29
def masterHost : Master := 0x2A
def masterNone : Master := 0x3F
def masterCore (c : CoreId) : Master := c.setWidth 6

/-- How a bank treats an access (R166, R168, R170, R173, R175). -/
inductive BankAns where
  /-- Performed. -/
  | ok
  /-- A read answers 0, a write is dropped, without refusal. -/
  | zero
  /-- Refused with BANK_NOT_OWNED. -/
  | refuse
  /-- It waits. -/
  | wait
  deriving DecidableEq, Repr

def State.secure (s : State) (b : BankId) : Bool := s.bit F.memBcfg_MODE b.toNat

/-- The owner in force: the fixed owner of a SECURE bank (R171), OWNER otherwise, and for a bank lost to a fault (R454). -/
def State.ownerOf (s : State) (b : BankId) : Master :=
  if s.secure b && !s.faults.banks.contains b then BitVec.ofNat 6 (s.fld F.memBcfg_INITOWNER b.toNat)
  else (s.bank b).owner

def State.bankCheck (s : State) (b : BankId) (m : Master) : BankAns :=
  let x := s.bank b
  if s.secure b && (s.soc.tamper || x.wiping.isSome) then .zero
  else if x.ret = .retained ∨ x.ret = .waking then .wait
  else if m = masterBoot && !s.boot.seald then .ok
  else match x.ho with
    | some h => if m = h.newOwner then .wait else .refuse
    | none => if m = s.ownerOf b then .ok else .refuse

/-- An access that waits at a bank still stands: nothing has reset its thread, core or unit meanwhile. -/
def State.reqLive (s : State) (w : BankWait) : Bool :=
  match w.req with
  | .far t q => (s.thr t).far.any fun e => e.seq == q && e.resp.isNone
  | .store c q => (s.core c).inflight.any fun e => e.seq == q
  | .release c => (s.core c).release.isSome
  | .remote => !s.chain.rwWait.isEmpty
  | .copy => s.mirror.copying
  | .table _ => false
  | .word _ _ _ _ => true

/-- The accesses that arrived at a bank before r and still wait there. -/
def State.aheadOf (s : State) (b : BankId) (r : BankReq) : List BankWait :=
  ((s.bank b).waiting.takeWhile fun w => w.req != r).filter s.reqLive

/-- The access had left the old owner when the handover began, and waits at the bank since. -/
def Bank.markedOld (x : Bank) (r : BankReq) : Bool := x.waiting.any fun w => w.req == r && w.old

/-- How a bank treats the access r of master m at its arrival or at a later turn: accesses that wait are performed in the
order of arrival, and during a handover those that had left the old owner are performed (`left`, or marked in the list), the
new owner's wait and all others are refused (R168, R170, R175).  Log entry 17 (DEDUCED). -/
def State.bankAsk (s : State) (b : BankId) (m : Master) (r : BankReq) (left : Bool) : BankAns :=
  let x := s.bank b
  let ahead := s.aheadOf b r
  if s.bankCheck b m == .zero then .zero
  else if x.ret = .retained ∨ x.ret = .waking then .wait
  else if x.ho.isSome && (left || x.markedOld r) then (if ahead.any fun w => w.old then .wait else .ok)
  else match s.bankCheck b m with
    | .ok => if ahead.isEmpty then .ok else .wait
    | a => a

/-- At a block that applies a partner's stream a mirrored bank refuses every writer but the mirror mover (R432). -/
def State.mirrorRefuses (s : State) (b : BankId) : Bool :=
  s.applying && s.bit F.memBcfg_MIRRORED b.toNat && !s.secure b

/-- The answer of `bankAsk` to a write. -/
def State.bankAskWrite (s : State) (b : BankId) (m : Master) (r : BankReq) (left : Bool) : BankAns :=
  if s.mirrorRefuses b then .refuse else s.bankAsk b m r left

/-- The bank leaves retention: it begins to wake, or an entry into retention aborts (R174, R175). -/
def Bank.woken (x : Bank) (cycle ns : Nat) : Bank :=
  match x.ret with
  | .retained => { x with ret := .waking, retAt := ns, lastAccess := cycle }
  | .entering => { x with ret := .active, lastAccess := cycle }
  | _ => { x with lastAccess := cycle }

/-- An access reaches a bank: it wakes it where it is retained, which is counted (R174, R175, R194). -/
def State.touchBank (s : State) (b : BankId) : State :=
  let x := s.bank b
  let s1 := s.setBank b (x.woken s.cycle s.ns)
  if x.ret = .retained then s1.satAdd F.memRet_WAKES 1 b.toNat else s1

/-- The bank's arbiter grants the access r of master m: the grants of other masters in this cycle since m's own last one
are conflict cycles of m, but not those in which the bank waits for a handover or a wipe (R178).  Log entry 64 (DEDUCED). -/
def State.bankGrant (s : State) (b : BankId) (m : Master) (r : BankReq) : State :=
  let s1 := s.touchBank b
  let x := s1.bank b
  let counts := x.ho.isNone && x.wiping.isNone
  let n := if counts then (x.grants.takeWhile fun g => g != m).length else 0
  let s2 := s1.setBank b { x with grants := if counts then m :: x.grants else x.grants
                                  waiting := x.waiting.filter fun w => w.req != r && s.reqLive w }
  if n = 0 then s2 else s2.satAdd F.memConf_CYCLES n b.toNat m.toNat

/-- The access r of master m waits at the bank: it takes its place in the order of arrival, and wakes a retained bank. -/
def State.bankWaits (s : State) (b : BankId) (m : Master) (r : BankReq) : State :=
  let s1 := s.touchBank b
  let x := s1.bank b
  if x.waiting.any fun w => w.req == r then s1 else s1.setBank b { x with waiting := x.waiting ++ [⟨r, m, false⟩] }

/-- The access r no longer waits at the bank. -/
def State.bankLeaves (s : State) (b : BankId) (r : BankReq) : State :=
  s.setBank b { s.bank b with waiting := (s.bank b).waiting.filter fun w => w.req != r }

/-- A refusal is counted (R166, R197). -/
def State.countRefusal (s : State) (b : BankId) (m : Master) : State :=
  ((s.satAdd F.memNown_COUNT 1 b.toNat).setFld F.memNown_VALID 1 b.toNat).setFld F.memNown_LAST m.toNat b.toNat

/-- The access r of master m is refused at the bank: it has reached it like any other (R174), and is counted. -/
def State.bankRefuses (s : State) (b : BankId) (m : Master) (r : BankReq) : State := (s.bankGrant b m r).countRefusal b m

/-- Clear the bytes of a bank (R169). -/
def clearRange (m : List Host.Cell) (lo hi : Nat) : List Host.Cell := smDropRange m lo hi

def State.clearBank (s : State) (b : BankId) : State :=
  { s with mem := clearRange s.mem (bankBase b) (bankBase b + 0x80000) }

/-- The line of user memory that a global address lies in, by its memory ID (R449). -/
def memLine (g : Nat) : Nat × Nat :=
  if g < 0x02000000 then ((g - 0x01000000) / 0x40000, (g - 0x01000000) % 0x40000 / 64)
  else (0x20 + (g - 0x02000000) / 0x80000, (g - 0x02000000) % 0x80000 / 64)

/-- The line of a global address holds an uncorrectable word that no access has met yet (R177). Log entry 70 (DEDUCED). -/
def State.badWord (s : State) (g : Nat) : Bool := s.faults.found.contains (memLine g)

/-- The error of a line has faulted the access that met it. -/
def State.wordMet (s : State) (g : Nat) : State :=
  { s with faults := { s.faults with found := s.faults.found.erase (memLine g) } }

/-! ## Performed writes (R139, R183) -/

/-- Mark the watches of a written word (R139). -/
def wakeWatches (ws : List Watch) (g : Nat) : List Watch :=
  ws.map fun w => if w.addr = g then { w with woken := true } else w

/-- A write performed at its controller: the bytes change and every watch of the word is marked, whatever the value. -/
def State.performWrite (s : State) (g : Nat) (mask : BitVec 4) (v : Word) : State :=
  { s with mem := memSetMasked s.mem g mask v, watches := wakeWatches s.watches g }

/-- The shared bank of a global address. -/
def bankOf? (g : Nat) : Option BankId :=
  if 0x02000000 ≤ g ∧ g < 0x02800000 then some (BitVec.ofNat 4 ((g - 0x02000000) / 0x80000)) else none

/-- A bank's writes are mirrored (R171, R191). -/
def State.mirroredAt (s : State) (g : Nat) : Bool :=
  match bankOf? g with
  | some b => s.bit F.memBcfg_MIRRORED b.toNat && !s.secure b
  | none => false

/-- A write performed with its mirror record (R432). -/
def State.writeMirrored (s : State) (g : Nat) (mask : BitVec 4) (v : Word) : State :=
  let s1 := s.performWrite g mask v
  if s1.mirroredAt g then s1.mirrorWrite g mask v else s1

/-- The write r of a word by the boot loader or the mirror mover, which no owner refuses; a SECURE bank that is being wiped
drops it, and it waits for a bank out of retention and for what arrived before it (R166, R173, R175, R432). -/
def State.bankWord (s : State) (b : BankId) (m : Master) (r : BankReq) : State :=
  match r with
  | .word _ g mask v =>
    if s.bankCheck b m == .zero then s.bankGrant b m r
    else if (s.bank b).ret = .retained ∨ (s.bank b).ret = .waking ∨ !(s.aheadOf b r).isEmpty then s.bankWaits b m r
    else (s.bankGrant b m r).performWrite g mask v
  | _ => s

/-- A word at a global address that the boot loader or the mirror mover writes. -/
def State.writeWordAs (s : State) (m : Master) (g : Nat) (mask : BitVec 4) (v : Word) : State :=
  match bankOf? g with
  | none => s.performWrite g mask v
  | some b => s.bump.bankWord b m (.word s.bump.seq g mask v)

/-! ## Store buffer (R181, R182) -/

/-- Controller of an entry's address, for the order of R183. -/
def controllerOf (a : Nat) : Nat :=
  if a < 0x02000000 then (a - 0x01000000) / 0x40000
  else if a < 0x04000000 then 64 + (a - 0x02000000) / 0x80000
  else if a < 0x05000000 then 128 + (a - 0x04000000) / 0x40000
  else if a < 0x08000000 then 0x500 + (a - 0x05000000) / 0x10000
  else if a < 0x10000000 then 256
  else 257

/-- Bytes of a word that a list of entries holds, and the data, younger entries last. -/
def overlay (es : List SbEntry) (a : Nat) (w : Word) : Word :=
  es.foldl (fun w e => if e.addr = a then mergeMasked w e.mask e.data else w) w

def heldMask (es : List SbEntry) (a : Nat) : BitVec 4 :=
  es.foldl (fun m e => if e.addr = a then m ||| e.mask else m) 0

/-- A store that left after its bank's running handover began: not seen by what left before it (R168, R170). -/
def State.behindHandover (s : State) (e : SbEntry) : Bool :=
  e.late && (match bankOf? e.addr with | some b => (s.bank b).ho.isSome | none => false)

/-- The word at a global address as a load of core c finds it: memory, then the core's stores that have left, then those
still in the buffer (R182, R184). -/
def State.loadWord (s : State) (c : CoreId) (g : Nat) : Word :=
  let a := g / 4 * 4
  overlay (s.core c).sbuf a (overlay ((s.core c).inflight.filter fun e => !s.behindHandover e) a (memWord s.mem a))

/-- Every byte of an access is in the store buffer (R182). -/
def State.fullyBuffered (s : State) (c : CoreId) (g : Nat) (mask : BitVec 4) : Bool :=
  heldMask (s.core c).sbuf (g / 4 * 4) &&& mask == mask

/-- A store enters the buffer: it merges into an entry of the same thread and word that is open to merging, or takes a
new one; device stores never merge (R168, R181). -/
def State.enterStore (s : State) (t : Tid) (addr : Nat) (mask : BitVec 4) (v : Word) (pc : BitVec 16) (dev late : Bool)
    (phys : Nat) (tag : SmTag) : State :=
  let c := coreOf t
  let x := s.core c
  let same := fun (e : SbEntry) => e.addr == addr && e.t == t && !e.closed
  if !dev && x.sbuf.any same then
    let f := fun (e : SbEntry) =>
      if same e then { e with mask := e.mask ||| mask, data := mergeMasked e.data mask v } else e
    s.setCore c { x with sbuf := x.sbuf.map f }
  else
    s.setCore c { x with sbuf := x.sbuf ++ [⟨addr, mask, v, t, pc, false, s.seq, late, dev, phys, tag⟩] }

/-- A store of the thread invalidates the run-ahead entries of its core for that word (R58). -/
def State.dropRunAhead (s : State) (c : CoreId) (addr : Nat) : State :=
  { s with threads := smMap {} s.threads fun k th =>
      if coreOf (BitVec.ofNat 9 k) = c then { th with runAhead := th.runAhead.filter fun r => r.addr != addr } else th }

/-- The core's entries that are performed before a lock access to word a: those of the word, and those that go to the same
controller ahead of them (R136, R183). -/
def State.flushed (s : State) (c : CoreId) (a : Nat) : List SbEntry :=
  let es := ((s.core c).inflight ++ (s.core c).sbuf).filter fun e =>
    controllerOf e.addr == controllerOf a && !s.behindHandover e
  (es.reverse.dropWhile fun e => e.addr != a).reverse

/-- Every entry of a word is written out before a lock access of the core reaches it (R136). -/
def State.flushWord (s : State) (c : CoreId) (a : Nat) : State :=
  let x := s.core c
  let es := s.flushed c a
  let s1 := s.setCore c { x with inflight := x.inflight.filter (fun e => !es.contains e)
                                 sbuf := x.sbuf.filter fun e => !es.contains e }
  es.foldl (fun s e => s.writeMirrored e.addr e.mask e.data) s1

/-! ## Faults of threads (R45, R128, R129, R561) -/

/-- A fault of an instruction of thread t at its PC; the oldest in program order stands. -/
def State.threadFault (s : State) (t : Tid) (code : Byte) : State :=
  let th := s.thr t
  let f : PendFault := ⟨code, some th.pc, th.pc.extractLsb' 2 16, s.seq⟩
  match th.pendFault with
  | none => s.setThr t { th with pendFault := some f }
  | some _ => s

/-- A FAULT notice of thread t and the counted events of classes 5 and 6, and 8 for TID 0x000 (R25, R129, R448). -/
def State.faultNotice (s : State) (t : Tid) (code : Byte) (npc : BitVec 16) : State :=
  let s1 := ((s.detect 5 t.toNat).detect 6 (coreOf t).toNat)
  match faultReceiver t with
  | some r =>
    s1.notice (.thread t) (s1.faultQueue (coreOf r).toNat)
      (mkItem true 15 1 (senderThread t) (code ++ (0 : BitVec 8) ++ npc))
  | none => s1.detect 8 0

/-- A thread that has stopped or halted becomes FAULTED; THR.PC keeps its value. -/
def State.faultAtRest (s : State) (t : Tid) (code : Byte) (npc : BitVec 16) : State :=
  ((s.noteEvent F.thrFault_VALID 1 t.toNat).setThr t
    { s.thr t with st := .faulted, faultCode := code, faultValid := true }).faultNotice t code npc

/-- A fault whose report arrives late, or at a unit: settled by the thread's state (R561). -/
def State.lateFault (s : State) (t : Tid) (code : Byte) (npc : BitVec 16) (seq : Nat) : State :=
  let th := s.thr t
  match th.st with
  | .unreleased => s
  | .faulted => s.faultNotice t code npc
  | .stopped => s.faultAtRest t code npc
  | .halted => s.faultAtRest t code npc
  | _ =>
    match th.pendFault with
    | none => s.setThr t { th with pendFault := some ⟨code, none, npc, seq⟩ }
    | some f => if seq < f.seq then s.setThr t { th with pendFault := some ⟨code, none, npc, seq⟩ } else s

/-- A write outside its writer's authority is ignored and raises a fault on the writer (R27, code of R447); for a store
the fault is the store's. Log entry 58 (DEDUCED). -/
def State.authorityFault (s : State) (w : Writer) : State :=
  match w with
  | .thread t =>
    match s.storeAt with
    | some p => s.lateFault t 0x09 p.1 p.2
    | none => s.lateFault t 0x09 ((s.thr t).pc.extractLsb' 2 16) s.seq
  | _ => s

end Sys2Proof.Machine
end

