-- ==== Sys2Proof/Machine/TimeOps.lean ====
section
/-!
DEFINITION. Values of the time bases (R301, R302, R310) and what staging asks of them: passed targets, forward distance
and the deadline cycle (R333, R337).  Values are exact rationals in the base's unit; nothing is rounded here.
-/

namespace Sys2Proof.Machine

/-- Kinds of base (R301). -/
inductive BaseKind where
  | local_ | net | angle | mains
  deriving DecidableEq, Repr

def State.baseKind (s : State) (n : BaseId) : BaseKind :=
  if n = 0 then .local_
  else match s.fld F.tbCfg_KIND n.toNat with | 0 => .net | 1 => .angle | _ => .mains

def State.isNet (s : State) (n : BaseId) : Bool := s.baseKind n == .net

/-- Base n takes its value from the partner's snapshots (R433). -/
def State.slaved (s : State) (n : BaseId) : Bool := s.applying && !(smGet [] s.mirror.snaps n.toNat).isEmpty

/-- The size of the base's ring of values: W = C × 2^32 when it wraps, 2^64 otherwise (R302). -/
def State.ringOf (s : State) (n : BaseId) : Nat :=
  if n = 0 || s.fld F.tbCfg_WRAP n.toNat = 0 then 2 ^ 64 else 2 ^ 32 * (s.fld F.tbCfg_WRAP n.toNat)

def State.wraps (s : State) (n : BaseId) : Bool := n != 0 && s.fld F.tbCfg_WRAP n.toNat != 0

/-- x reduced into [0, w). -/
def ratMod (x : Rat) (w : Nat) : Rat := x - (w : Rat) * ((x / (w : Rat)).floor : Int)

def ratAbs (x : Rat) : Rat := if x < 0 then -x else x
def ratMin (x y : Rat) : Rat := if x < y then x else y
def ratMax (x y : Rat) : Rat := if x < y then y else x
def ratSign (x : Rat) : Rat := if x < 0 then -1 else if x = 0 then 0 else 1

/-- Units of value per ns that a rate of 1 advances: ns for NET, 2^-32 cycle for a rate in cycles per second. -/
def unitPerNs (net : Bool) : Rat := if net then 1 else (2 : Rat) ^ 32 / 1000000000

/-- The value per ns that a base's correction contributes (R310). -/
def Base.corrRate (net : Bool) (b : Base) : Rat := (if net then 1 else b.rate) * b.corr * unitPerNs net

/-- How far Φ moves toward 0 over d ns: by the size of the correction's contribution, until it is 0 (R310, R322). Log entry
29 (DEDUCED). -/
def phiMoved (net : Bool) (b : Base) (d : Rat) : Rat := ratMin (ratAbs b.phi) (ratAbs (b.corrRate net) * d)

/-- The part of a base's advance over d ns that its correction contributes (R310). -/
def corrPart (net : Bool) (b : Base) (d : Rat) : Rat := ratSign (b.corrRate net) * phiMoved net b d

/-- After how many ns Φ is 0, when the correction moves it. -/
def corrSpan (net : Bool) (b : Base) : Rat := if b.corrRate net = 0 then 0 else ratAbs b.phi / ratAbs (b.corrRate net)

/-- The advance of a NET base over d ns from its anchor: with the correction until Φ is 0, without it from there, and
never backward (R310). -/
def netAdvance (b : Base) (d : Rat) : Rat :=
  if d < 0 then b.rate * d + corrPart true b d
  else
    let d0 := ratMin d (corrSpan true b)
    ratMax 0 (b.rate + b.corr) * d0 + ratMax 0 b.rate * (d - d0)

/-- The advance of a base over d ns from its anchor (R310). -/
def baseAdvance (net : Bool) (b : Base) (d : Rat) : Rat :=
  if net then netAdvance b d else b.rate * d * unitPerNs net + corrPart net b d

/-- The value of a base at TB0 time t ns (R310, R314, R315). -/
def baseValueAt (net : Bool) (b : Base) (t : Rat) : Rat :=
  match b.st with
  | .locked => b.va + baseAdvance net b (t - b.ta)
  | .holdover => b.va + baseAdvance net b (t - b.ta)
  | .still => b.va
  | _ => 0

/-- Φ at TB0 time t. -/
def basePhiAt (net : Bool) (b : Base) (t : Rat) : Rat :=
  match b.st with
  | .locked => b.phi - ratSign b.phi * phiMoved net b (t - b.ta)
  | _ => b.phi

/-- c at TB0 time t: 0 once Φ is 0 (R322). -/
def baseCorrAt (net : Bool) (b : Base) (t : Rat) : Rat := if basePhiAt net b t = 0 then 0 else b.corr

/-- The value of base n now, exact; LOCAL in units of 2^-16 ns. -/
def State.baseNow (s : State) (n : BaseId) : Rat :=
  if n = 0 then (s.tb0.toNat : Rat) else baseValueAt (s.isNet n) (s.base n) s.tbRat

/-- The value in the base's 64 bits: reduced, with the fraction of a unit cut off or rounded up (free, log entry 8).
Log entry 8 (DESIGN CHOICE). -/
def State.baseWord (s : State) (n : BaseId) : BitVec 64 × State :=
  let v := ratMod (s.baseNow n) (s.ringOf n)
  let f := v.floor.toNat
  if (f : Rat) = v then (BitVec.ofNat 64 f, s)
  else
    let r := s.roundUp
    (BitVec.ofNat 64 (if r.1 then (f + 1) % s.ringOf n else f), r.2)

/-- Move the anchor of a base to now, eating Φ by what the correction contributed; a Φ that reaches 0 ends the
correction. -/
def State.reanchor (s : State) (n : BaseId) : State :=
  let b := s.base n
  let net := s.isNet n
  let phi := basePhiAt net b s.tbRat
  match b.st with
  | .locked =>
    s.setBase n { b with va := baseValueAt net b s.tbRat, ta := s.tbRat, phi := phi, corr := if phi = 0 then 0 else b.corr }
  | _ => s

/-- A target has passed (R337). -/
def State.passed (s : State) (n : BaseId) (x : Rat) : Bool :=
  decide (2 * ratMod (s.baseNow n - x) (s.ringOf n) < (s.ringOf n : Rat))

/-- Forward distance of a target (R333). -/
def State.distance (s : State) (n : BaseId) (x : Rat) : Option Rat :=
  if s.wraps n then some (ratMod (x - s.baseNow n) (s.ringOf n))
  else if 2 * ratMod (x - s.baseNow n) (2 ^ 64) < (2 ^ 64 : Rat) then some (ratMod (x - s.baseNow n) (2 ^ 64))
  else none

/-- Units of value per ns of base n, with a correction c in force (R310). -/
def State.slopeWith (s : State) (n : BaseId) (c : Rat) : Rat :=
  if n = 0 then 65536
  else
    let b := s.base n
    if s.isNet n then ratMax 0 (b.rate + c) else b.rate * (1 + c) * unitPerNs false

/-- The ns after which base n, extrapolated with its rate, and with its correction until Φ is 0, has advanced by d (R333);
none when it does not get there. -/
def State.nsAfter (s : State) (n : BaseId) (d : Rat) : Option Rat :=
  let net := s.isNet n
  let b := s.base n
  let c := if n = 0 then 0 else baseCorrAt net b s.tbRat
  let span := if n = 0 ∨ c = 0 then 0 else ratMax 0 (corrSpan net b - (s.tbRat - b.ta))
  let first := s.slopeWith n c
  let rest := s.slopeWith n 0
  if d ≤ 0 then some 0
  else if 0 < first ∧ d ≤ first * span then some (d / first)
  else if 0 < rest then some (span + (d - first * span) / rest)
  else none

/-- The first cycle in which the base, extrapolated, has moved by d from its present value (R333). -/
def State.cycleAfter (s : State) (n : BaseId) (d : Rat) : Option Nat :=
  if d ≤ 0 then some s.cycle
  else match s.nsAfter n d with
    | none => none
    | some ns =>
      let inc := (s.reg .tbT0inc).toNat
      if inc = 0 then none
      else
        let target := 65536 * (65536 * (s.tbRat + ns)).ceil.toNat
        some (s.cycle + (target - s.tbAbs + inc - 1) / inc)

/-- The deadline of a target (R333): the first cycle in which the value reaches it; a target already passed has the
present cycle. -/
def State.deadlineOf (s : State) (n : BaseId) (x : Rat) : Option Nat :=
  if s.passed n x then some s.cycle
  else match s.distance n x with
    | none => none
    | some d => s.cycleAfter n d

/-- A base on which actions are staged (R334). -/
def State.stages (s : State) (n : BaseId) : Bool :=
  n = 0 || ((s.base n).st == .locked || (s.base n).st == .holdover) && !(s.base n).back

/-- The horizon of base n in its value unit (R333). -/
def State.horizon (s : State) (n : BaseId) : Rat :=
  let h : Rat := (s.fld F.taHor_H n.toNat : Nat)
  match s.baseKind n with
  | .local_ => 65536 * h
  | .net => h
  | _ => 256 * h

/-- The deadline cycle of a target within the horizon (R333). -/
def State.withinHorizon (s : State) (n : BaseId) (x : Rat) : Option Nat :=
  if !s.stages n then none
  else match s.distance n x with
    | none => none
    | some d =>
      if d ≤ s.horizon n then
        match s.cycleAfter n d with
        | none => none
        | some c => if c < s.cycle + 2 ^ 30 then some c else none
      else none

/-- The generation of a base, 0 for TB0 (R303). -/
def State.genOf (s : State) (n : BaseId) : Byte := if n = 0 then 0 else (s.base n).gen

/-- The duration of a pulse in the base's unit (R330). -/
def State.durationOf (s : State) (a : Action) : Rat :=
  match s.baseKind a.base with
  | .local_ => 65536 * (a.param.toNat : Rat)
  | .net => (a.param.toNat : Rat)
  | _ => 256 * (a.param.toNat : Rat)

end Sys2Proof.Machine
end

