-- ==== Sys2Proof/Machine/PinOps.lean ====
section
/-!
DEFINITION. The pin side's shared operations (chapter 08): lanes and ports, the writers of a port by rank (R256), safe
states (R270), fencing (R271), channel faults and reports (R251, R273), CRC and stuffing (R259, R260) and a channel's
pushes (R252).
-/

namespace Sys2Proof.Machine

/-! ## Registers of a channel -/

def State.chReg (s : State) (k : RegKind) (ch : Chan) : Word := s.reg k (engineOf ch).toNat (contextOf ch).toNat
def State.setChReg (s : State) (k : RegKind) (v : Word) (ch : Chan) : State :=
  s.setReg k v (engineOf ch).toNat (contextOf ch).toNat
def State.chFld (s : State) (f : Fld) (ch : Chan) : Nat := s.fld f (engineOf ch).toNat (contextOf ch).toNat
def State.chBit (s : State) (f : Fld) (ch : Chan) : Bool := s.bit f (engineOf ch).toNat (contextOf ch).toNat
def State.setChFld (s : State) (f : Fld) (v : Nat) (ch : Chan) : State :=
  s.setFld f v (engineOf ch).toNat (contextOf ch).toNat
def State.chSatAdd (s : State) (f : Fld) (n : Nat) (ch : Chan) : State :=
  s.satAdd f n (engineOf ch).toNat (contextOf ch).toNat

/-- The port that PE.LANES binds to a lane (R255). -/
def State.laneOf (s : State) (ch : Chan) (lane : Nat) : Option Port :=
  let b := bitsOf (s.chReg .peLanes ch) (8 * lane) 8
  if 128 ≤ b then some (BitVec.ofNat 9 (64 * (groupOf ch).toNat + b % 64)) else none

def laneList : List Nat := [0, 1, 2, 3]

/-- The ports a channel binds. -/
def State.boundPorts (s : State) (ch : Chan) : List Port := laneList.filterMap (s.laneOf ch)

/-- The channel that binds a port, and the lane it is (R278). -/
def State.binder (s : State) (p : Port) : Option Chan :=
  if s.bit F.pePad_BV p.toNat then some (BitVec.ofNat 9 (s.fld F.pePad_BOUND p.toNat)) else none

/-- The channel of its pin group whose LANES binds a port, the lowest where, before seal, several do. Log entry 67
(DESIGN CHOICE). -/
def State.lanesBinder (s : State) (p : Port) : Option Chan :=
  ((List.range 64).map fun i => (BitVec.ofNat 9 (64 * (groupOf p).toNat + i) : Chan)).find? fun ch =>
    (s.boundPorts ch).contains p

/-- PE.PAD.BV and BOUND of a port as the LANES registers give them (R278). -/
def State.rebind (s : State) (p : Port) : State :=
  match s.lanesBinder p with
  | some ch => (s.setFld F.pePad_BV 1 p.toNat).setFld F.pePad_BOUND ch.toNat p.toNat
  | none => (s.setFld F.pePad_BV 0 p.toNat).setFld F.pePad_BOUND 0 p.toNat

/-- LANES of a channel take word v; the ports bound before or now show who binds them (R278). -/
def State.bindLanes (s : State) (ch : Chan) (v : Word) : State :=
  let s1 := s.setChReg .peLanes v ch
  (s.boundPorts ch ++ s1.boundPorts ch).foldl State.rebind s1

/-- The writer controls a channel (R243). -/
def State.controls (s : State) (w : Writer) (ch : Chan) : Bool :=
  match w with
  | .thread t =>
    t == masterOf (BitVec.ofNat 5 (s.chFld F.peCcfg_OWNCORE ch)) || t == supervisorOf (groupOf ch) || t == blockSupervisor
  | _ => true

/-- The writer may write a port's registers (R243). -/
def State.controlsPort (s : State) (w : Writer) (p : Port) : Bool :=
  match s.binder p with
  | some ch => s.controls w ch
  | none => overHearth w (groupOf p)

/-! ## Writers of a port (R256) -/

/-- The written OUT and OE of a port that a safe state gives (R270). -/
def safeLevels (code : Nat) (out oe : Bool) : Bool × Bool :=
  match code with
  | 0 => (out, false)
  | 1 => (false, true)
  | 2 => (true, true)
  | _ => (out, oe)

/-- A writer of a rank gives a port OUT and OE from cycle c on; what stood before the cycle's first writer is kept for a
higher one of the same cycle (R256). -/
def State.portWrite (s : State) (p : Port) (rank : Nat) (out oe : Bool) (c : Nat) : State :=
  let x := s.port p
  let first := x.lastAt != c + 1
  let s1 := s.drivePort p out oe c
  s1.setPort p { s1.port p with
    lastAt := c + 1, lastRank := rank, wasOut := if first then x.out else x.wasOut, wasOe := if first then x.oe else x.wasOe }

/-- A lower writer of cycle c stands at the port (R256). -/
def PortSt.lowerAt (x : PortSt) (rank c : Nat) : Bool := x.lastAt == c + 1 && decide (rank < x.lastRank)

/-- The safe state displaces a lower writer of the same cycle: discarded at a fenced port, otherwise counted when its
value differs (R256, R271). -/
def State.displaced (s : State) (p : Port) (v : Bool × Bool) : State :=
  let x := s.port p
  match s.binder p with
  | none => s
  | some ch =>
    if s.bit F.peFence_FENCED p.toNat then s.chSatAdd F.peCerr_DISC 1 ch
    else if v.1 != x.out || v.2 != x.oe then s.chSatAdd F.peCerr_COLL 1 ch
    else s

/-- Drive a port to its safe state from cycle c on (rank 2): a level that a lower writer gave in the same cycle is
discarded; under rank 1 a safe state with OE = 1 is itself discarded and counted (R256). -/
def State.safePort (s : State) (p : Port) (c : Nat) : State :=
  let x := s.port p
  let low := x.lowerAt 2 c
  let v := safeLevels (s.fld F.pePad_SAFE p.toNat) (if low then x.wasOut else x.out) (if low then x.wasOe else x.oe)
  let s1 := if low then s.displaced p v else s
  let s2 := match s1.binder p with
    | some ch => if x.guard && v.2 then s1.chSatAdd F.peCerr_COLL 1 ch else s1
    | none => s1
  s2.portWrite p 2 v.1 v.2 c

def ChState.isSafe (x : ChState) : Bool := x == .safe || x == .latched

/-- A writer of rank 3 to 6 gives lane `lane` of a channel OUT and OE from cycle c on: discarded where the port is
fenced, the channel is at its safe states or a VOTE channel does not let it drive, and against a higher writer of the
same cycle (R256, R267, R271). The bit unit is a writer in the cycles in which it writes. Under rank 1 a write with OE = 1
counts, and its level is kept for the end of the hold (R440). Log entry 67 (DESIGN CHOICE). -/
def State.writeLane (s : State) (ch : Chan) (lane rank : Nat) (out oe : Bool) (c : Nat) : State :=
  match s.laneOf ch lane with
  | none => s
  | some p =>
    let x := s.port p
    let differs := out != x.out || oe != x.oe
    if s.bit F.peFence_FENCED p.toNat then s.chSatAdd F.peCerr_DISC 1 ch
    else if (s.chan ch).st.isSafe then (if differs then s.chSatAdd F.peCerr_COLL 1 ch else s)
    else if s.chBit F.peCcfg_VOTE ch && decide (4 ≤ rank) then
      (if rank = 5 then s else s.chSatAdd F.peCerr_DISC 1 ch)
    else if c + 1 < x.lastAt then s
    else if x.lastAt = c + 1 && decide (x.lastRank < rank) then
      (if differs then s.chSatAdd F.peCerr_COLL 1 ch else s)
    else
      let s1 := s.portWrite p rank out oe c
      if (x.guard && oe) || (x.lastAt == c + 1 && (differs || x.lastRank == rank)) then s1.chSatAdd F.peCerr_COLL 1 ch
      else s1

/-! ## Waiters of a channel -/

/-- A pusher no longer waits: its requests leave every waiting list, and a slot claimed for it passes on (R216). -/
def State.dropWaiter (s : State) (o : BitVec 12) : State :=
  let gone := fun (w : Waiter) => w.owner != o
  let s1 := { s with
    queues := smMap {} s.queues fun _ q => { q with depthWaiters := q.depthWaiters.filter gone, served := q.served.filter gone },
    quads := smMap {} s.quads fun _ k => { k with waiters := k.waiters.filter gone
                                                  held := k.held.filter fun h => h.owner != o } }
  s1.dropClaims o

/-! ## Reports and faults (R251, R273) -/

/-- A channel's report to the fault queue of its owning core. -/
def State.report (s : State) (ch : Chan) (code : Byte) (reason : Byte) : State :=
  s.notice (.channel ch) (s.faultQueue (s.chFld F.peCcfg_OWNCORE ch))
    (mkItem true 15 8 (senderChannel ch) (code ++ reason ++ (0 : BitVec 6) ++ (s.chan ch).pc))

/-- A channel enters SAFE or LATCHED (R270). -/
def State.enterSafe (s : State) (ch : Chan) (st : ChState) : State :=
  let x := s.chan ch
  let s0 := { s with
    arrivals := s.arrivals.filter fun r => !(r.entry.act.ch == ch)
    bases := smMap {} s.bases fun _ b => { b with recomp := b.recomp.filter fun y => !(y.ending && y.act.ch == ch) } }
  let s1 := s0.setChan ch { x with st := st, timed := [], staged := [], trig := false,
                                   bu := { x.bu with nextAt := none, hsArm := 0 } }
  let s2 := (s1.setChFld F.peBitcfg_EN 0 ch)
  let s3 := if x.pushHold.isEmpty then s2.dropWaiter (ownerChannel ch) else s2
  (s3.boundPorts ch).foldl (fun s p => s.safePort p (s.cycle + 1)) s3

/-- A channel faults (R251). -/
def State.chFault (s : State) (ch : Chan) (code : Byte) : State :=
  let s1 := (s.enterSafe ch .safe).setChFld F.peCerr_CODE code.toNat ch
  (s1.report ch code 1).detect 7 ch.toNat

def peIllegalCode : Byte := 0x20
def peLaneCode : Byte := 0x21
def peQueueCode : Byte := 0x22
def peBitunitCode : Byte := 0x23
def pePcendCode : Byte := 0x24
def peFetchCode : Byte := 0x25

/-- A port is fenced with a cause (R271): it holds its safe state, and the channel that binds it reports. -/
def State.fencePort (s : State) (p : Port) (cause : Nat) : State :=
  let s1 := (s.setFld F.peFence_FENCED 1 p.toNat).setFld F.peFence_CAUSE cause p.toNat
  let s2 := s1.safePort p (s1.cycle + 1)
  match s2.binder p with
  | some ch => s2.report ch 0 4
  | none => s2

/-- The pin group of a channel has been told of the loss or the reset of its hearth, and no master of the hearth has been
released since (R272). -/
def State.orphaned (s : State) (ch : Chan) : Bool := s.faults.hearths.contains (groupOf ch)

/-! ## Executing instructions -/

/-- Entry i of the active slot table of an engine names a context (R238, R275). -/
def State.names (s : State) (e : EngineId) (i : Nat) (x : BitVec 3) : Bool :=
  let b := bitsOf (s.reg .peCsa e.toNat (i / 4)) (8 * (i % 4)) 8
  decide (b < 128) && decide (b % 8 = x.toNat)

/-- The weight of a channel (R238). -/
def State.weight (s : State) (ch : Chan) : Nat :=
  ((List.range 16).filter fun i => s.names (engineOf ch) i (contextOf ch)).length

/-- The pin group of a channel or port is powered: a retained one executes nothing, raises no port event and counts no edge
(R401). -/
def State.groupUp (s : State) (i : BitVec 9) : Bool := s.domainUp (8 + i.toNat / 64)

/-- The channel executes its next instruction: it runs or waits, its engine's active table names it, and its pin group is
powered (R239, R242, R401).  Log entry 5 (DESIGN CHOICE). -/
def State.chExecutes (s : State) (ch : Chan) : Bool :=
  let st := (s.chan ch).st
  (st == .run || st == .wait || st == .stallPull || st == .stallPush) && decide (0 < s.weight ch) && s.groupUp ch

/-- The next PC of a channel after an instruction that is not a taken branch (R246); `none` past 0x3FF. -/
def nextPc (wrap : Word) (pc : BitVec 10) : Option (BitVec 10) :=
  if pc.toNat = F.peWrap_WRAPT.get wrap then some (BitVec.ofNat 10 (F.peWrap_WRAPB.get wrap))
  else if pc = 0x3FF then none
  else some (pc + 1)

/-- The channel's instruction completes: the next PC, or the fault past 0x3FF, where the PC stays. Log entry 68
(DESIGN CHOICE). -/
def State.chNext (s : State) (ch : Chan) : State :=
  match nextPc (s.chReg .peWrap ch) (s.chan ch).pc with
  | some pc => s.setChan ch { s.chan ch with st := .run, pc := pc }
  | none => s.chFault ch pePcendCode

/-- The channel branches. -/
def State.chBranch (s : State) (ch : Chan) (target : BitVec 10) : State :=
  s.setChan ch { s.chan ch with st := .run, pc := target }

/-- The channel's instruction waits. -/
def State.chWait (s : State) (ch : Chan) (st : ChState) : State := s.setChan ch { s.chan ch with st := st }

def Channel.reg (x : Channel) (i : BitVec 3) : Word := smGet 0 x.d i.toNat
def Channel.setReg (x : Channel) (i : BitVec 3) (v : Word) : Channel := { x with d := smSet 0 x.d i.toNat v }

/-- A time T has been reached in cycle u (R248). -/
def reached (u : Nat) (t : Word) : Bool := decide ((BitVec.ofNat 32 u - t).toNat < 2 ^ 31)

/-! ## CRC and stuffing (R259, R260) -/

/-- One CRC register of width W fed with a bit. -/
def crcStep (w : Nat) (poly crc : Word) (bit : Bool) : Word :=
  if w = 0 then 0
  else
    let fb := crc.getLsbD (w - 1) != bit
    let sh := BitVec.ofNat 32 (crc.toNat * 2 % 2 ^ w)
    if fb then sh ^^^ BitVec.ofNat 32 (poly.toNat % 2 ^ w) else sh

/-- Width of a CRC register, 0 to 32. -/
def crcWidth (n : Nat) : Nat := min n 32

/-- A bit fed to both CRC registers of a port. -/
def State.crcFeed (s : State) (p : Port) (bit : Bool) : State :=
  let x := s.port p
  s.setPort p { x with
    crcA := crcStep (crcWidth (s.fld F.peCrccfg_WIDTHA p.toNat)) (s.reg .peCrcpa p.toNat) x.crcA bit
    crcB := crcStep (crcWidth (s.fld F.peCrccfg_WIDTHB p.toNat)) (s.reg .peCrcpb p.toNat) x.crcB bit }

/-- The initial value of a CRC register, within its width. -/
def crcInit (w : Nat) (v : Word) : Word := BitVec.ofNat 32 (v.toNat % 2 ^ crcWidth w)

/-- The stuffing mode and length of a port. -/
def State.stuffOf (s : State) (p : Port) : Nat × Nat := (s.fld F.peStuff_MODE p.toNat, s.fld F.peStuff_N p.toNat)

/-- The next line bit must be, or is, a stuff bit (R260). -/
def stuffDue (mode n run : Nat) : Bool := (mode == 1 || mode == 2) && decide (0 < n) && decide (run = n)

/-- The run after a line bit: in mode FIXED the line bits since a stuff bit, otherwise the run of equal bits. -/
def runAfter (mode run : Nat) (last bit stuffed : Bool) : Nat :=
  if mode = 2 then (if stuffed then 0 else run + 1)
  else if bit == last && decide (0 < run) then run + 1 else 1

/-! ## Reading and pushing of channels (R252) -/

/-- Source or sink k of a channel, when enabled. -/
def State.sourceOf (s : State) (ch : Chan) (k : Bool) : Option Qid :=
  if k then (if s.chBit F.peQsrc_EN1 ch then some (BitVec.ofNat 14 (s.chFld F.peQsrc_SRC1 ch)) else none)
  else (if s.chBit F.peQsrc_EN0 ch then some (BitVec.ofNat 14 (s.chFld F.peQsrc_SRC0 ch)) else none)

def State.sinkOf (s : State) (ch : Chan) (k : Bool) : Option Qid :=
  if k then (if s.chBit F.peQsnk_EN1 ch then some (BitVec.ofNat 14 (s.chFld F.peQsnk_SNK1 ch)) else none)
  else (if s.chBit F.peQsnk_EN0 ch then some (BitVec.ofNat 14 (s.chFld F.peQsnk_SNK0 ch)) else none)

/-- A pusher that waits registers where its refusal says, and nowhere else (R216, R217, R560). -/
def State.waitFor (s : State) (q : Qid) (o : BitVec 12) (a : PushAns) : State :=
  let k := quadrantOf q
  let s1 := s.bump
  let less := fun (ws : List Waiter) => ws.filter fun w => w.owner != o
  let noDepth := s1.setQueue q { s1.queue q with depthWaiters := less (s1.queue q).depthWaiters }
  let noSlot := s1.setQuad k { s1.quad k with waiters := less (s1.quad k).waiters }
  match a with
  | .full => noSlot.setQueue q { s1.queue q with depthWaiters := addWaiter (s1.queue q).depthWaiters o s1.seq }
  | .poolFull => noDepth.setQuad k { s1.quad k with waiters := addWaiter (s1.quad k).waiters o s1.seq }
  | _ => noDepth.setQuad k { s1.quad k with waiters := less (s1.quad k).waiters }

/-- The channel waits for no push any more. -/
def State.chPushDone (s : State) (ch : Chan) : State :=
  if (s.chan ch).st = .stallPush || !(s.chan ch).pushHold.isEmpty then s else s.dropWaiter (ownerChannel ch)

/-- Retry the oldest push that waits in a channel's push holder (R265); the fuel is their number. -/
def State.drainHolder (s : State) (ch : Chan) : Nat → State
  | 0 => s
  | n + 1 =>
    match (s.chan ch).pushHold with
    | [] => s
    | (q, item) :: rest =>
      let r := s.push q item (ownerChannel ch) 0
      match r.1 with
      | .ok => ((r.2.setChan ch { r.2.chan ch with pushHold := rest }).chPushDone ch).drainHolder ch n
      | .slagged => ((r.2.setChan ch { r.2.chan ch with pushHold := rest }).chPushDone ch).drainHolder ch n
      | .held => s
      | .disabled =>
        ((r.2.slagLocal slagPoolFull q item).setChan ch { (r.2.slagLocal slagPoolFull q item).chan ch with
          pushHold := rest }).drainHolder ch n
      | a => r.2.waitFor q (ownerChannel ch) a

def State.retryHolder (s : State) (ch : Chan) : State := s.drainHolder ch (s.chan ch).pushHold.length

/-- A push action of a channel: behind those that wait in its push holder, or tried at once (R265, R330). -/
def State.holderPush (s : State) (ch : Chan) (q : Qid) (item : BitVec 64) : State :=
  (s.setChan ch { s.chan ch with pushHold := (s.chan ch).pushHold ++ [(q, item)] }).retryHolder ch

end Sys2Proof.Machine
end

