-- ==== Sys2Proof/Machine/StageOps.lean ====
section
/-!
DEFINITION. Staging (R329 to R343) and the executor at the pin (R265 to R269): placing actions, their notices, executing
what is due, VOTE pairs, revalidation and the quench.
-/

namespace Sys2Proof.Machine

/-- Nothing runs: a lasting fault of the block has stopped it (R457), or a boot under BOOT_HOLD has not gone on yet (R481). -/
def State.runBarred (s : State) : Bool := s.faults.block || (s.boot.hold && s.boot.stage != .run)

/-! ## Kinds (R330) -/

def kDrive : BitVec 3 := 0
def kPulse : BitVec 3 := 1
def kSample : BitVec 3 := 2
def kPush : BitVec 3 := 3
def kEvent : BitVec 3 := 4

/-- The action drives a lane. -/
def Action.drives (a : Action) : Bool := a.kind == kDrive || a.kind == kPulse

/-- The action pushes an item or fires an event. -/
def Action.emits (a : Action) : Bool := a.kind == kSample || a.kind == kPush || a.kind == kEvent

def Action.x (a : Action) : Rat := (a.target.toNat : Rat)

/-! ## Notices (R343) -/

def State.actionNotice (s : State) (a : Action) (kind : BitVec 4) : State :=
  s.notice .stager (BitVec.ofNat 14 (s.fld F.taNq_QID (coreOf a.poster).toNat))
    (mkItem true 15 kind (senderUnit 3) (a.tag ++ a.base ++ (0 : BitVec 3) ++ a.ch))

def nQuenched : BitVec 4 := 0xB
def nLate : BitVec 4 := 0xC
def nDropped : BitVec 4 := 0xD

/-- An action runs late (R339). -/
def State.countLate (s : State) (a : Action) : State :=
  let s1 := s.satAdd F.taCnt_LATE 1
  if a.ln then s1.actionNotice a nLate else s1

/-- An action is dropped (R339). -/
def State.countDrop (s : State) (a : Action) : State :=
  let s1 := s.satAdd F.taCnt_DROP 1
  if a.ln then s1.actionNotice a nDropped else s1

/-! ## VOTE channels (R267 to R269) -/

/-- Two staged actions of different twins that agree in kind and lane and lie within the window. -/
def voteNear (window : Nat) (x y : Staged) : Bool :=
  x.act.poster != y.act.poster && x.act.kind == y.act.kind && x.act.lane == y.act.lane &&
    decide (x.deadline ≤ y.deadline + window) && decide (y.deadline ≤ x.deadline + window)

/-- They also agree in level. -/
def voteLevel (x y : Staged) : Bool := x.act.out == y.act.out && x.act.oe == y.act.oe

/-- They also agree in end policy and, for a pulse, in duration (R268). -/
def voteMatch (x y : Staged) : Bool :=
  voteLevel x y && x.act.keepPos == y.act.keepPos && (x.act.kind != kPulse || x.act.param == y.act.param)

/-- An entry that a VOTE channel executes only in a pair. Log entry 37 (DEDUCED). -/
def Staged.votes (x : Staged) : Bool := x.act.drives && !x.ending

/-- Put a newly staged action into its channel's queue; in a VOTE channel it is paired with the earliest-staged unpaired
action it matches, or, when one differs only in level, both are withdrawn with a vote mismatch event (R268, R269). -/
def State.enqueue (s : State) (x : Staged) : State :=
  let ch := x.act.ch
  let c := s.chan ch
  if s.chBit F.peCcfg_VOTE ch && x.votes then
    let w := s.chFld F.peVote_WINDOW ch
    let free := fun (y : Staged) => y.votes && y.pair == 0 && voteNear w x y
    match c.staged.find? (fun y => free y && voteMatch x y) with
    | some y =>
      let s1 := s.bump
      s1.setChan ch { c with staged := (c.staged.map fun z => if z = y then { z with pair := s1.seq } else z) ++
                                        [{ x with pair := s1.seq }] }
    | none =>
      match c.staged.find? (fun y => free y && !voteLevel x y) with
      | some y => (s.setChan ch { c with staged := c.staged.erase y }).detect 4 ch.toNat
      | none => s.setChan ch { c with staged := c.staged ++ [x] }
  else s.setChan ch { c with staged := c.staged ++ [x] }

/-! ## Placing an action (R333 to R339) -/

/-- Results of a post (R332). -/
def rStaged : Nat := 0
def rPending : Nat := 1
def rDropped : Nat := 2
def rFull : Nat := 3
def rBad : Nat := 4
def rDenied : Nat := 5

/-- The queue of a channel has room, what is on its way to it counted (R335). -/
def State.queueRoom (s : State) (ch : Chan) : Bool :=
  let coming := s.arrivals.filter fun r => r.old.isNone && r.entry.act.ch == ch
  decide ((s.chan ch).staged.length + coming.length < 64)

/-- An action goes to the pend store, which holds 8,192 (R335). -/
def State.toPend (s : State) (a : Action) : Nat × State :=
  if s.pend.length < 8192 then (rPending, { s with pend := s.pend ++ [a] }) else (rFull, s)

/-- An entry enters its channel's queue, at once or so many cycles later (R335, R341). -/
def State.enter (s : State) (x : Staged) (lag : Nat) : State :=
  if lag = 0 then s.enqueue x else { s with arrivals := s.arrivals ++ [⟨s.cycle + lag, x, none⟩] }

/-- The target of a pulse's end: the start's target plus DUR (R330). -/
def State.endTarget (s : State) (a : Action) : BitVec 64 :=
  BitVec.ofNat 64 (ratMod (a.x + s.durationOf a) (s.ringOf a.base)).floor.toNat

/-- The cycles from a pulse's start with deadline d to its end, as the base runs now. -/
def State.spanFrom (s : State) (a : Action) (d : Nat) : Nat :=
  if a.kind = kPulse then
    match s.deadlineOf a.base { a with target := s.endTarget a }.x with
    | some e => e - d
    | none => 2 ^ 30
  else 0

/-- Stage an action with a deadline; one already reached executes in the second cycle after it enters (R265). -/
def State.stageAt (s : State) (a : Action) (d : Nat) (late : Bool) (lag : Nat) : State :=
  let passed := late || decide (d ≤ s.cycle + lag)
  s.enter ⟨a, if passed then s.cycle + lag + 2 else d, s.genOf a.base, passed, false, 0, s.spanFrom a d⟩ lag

/-- An action that is not passed, or is AHEAD: staged within the horizon, stored otherwise. -/
def State.placeAhead (s : State) (a : Action) (lag : Nat) : Nat × State :=
  match s.withinHorizon a.base a.x with
  | some d => if s.queueRoom a.ch then (rStaged, s.stageAt a d false lag) else s.toPend a
  | none => s.toPend a

/-- Place an action: the passed test with its LATE handling, then the horizon (R335, R339); it reaches its queue so many
cycles later. -/
def State.place (s : State) (a : Action) (lag : Nat) : Nat × State :=
  let gone := s.passed a.base a.x
  let a1 := if gone then a else { a with ahead := false }
  if a1.ahead || !gone then s.placeAhead a1 lag
  else if a1.trig then
    (if s.stages a1.base && s.queueRoom a1.ch then
      (rStaged, s.enter ⟨a1, s.cycle + lag, s.genOf a1.base, true, false, 0, s.spanFrom a1 s.cycle⟩ lag)
    else s.toPend a1)
  else match a1.late.toNat with
    | 0 =>
      if s.stages a1.base && s.queueRoom a1.ch then (rStaged, (s.stageAt a1 s.cycle true lag).countLate a1) else s.toPend a1
    | 1 => (rDropped, s.countDrop a1)
    | _ => s.placeAhead { a1 with ahead := true } lag

/-! ## Executing (R265, R330, R353) -/

/-- The item of a SAMPLE or PUSH action (R330). -/
def actionItem (a : Action) (payload : Word) : BitVec 64 := mkItem true a.prio a.ikind (senderChannel a.ch) payload

/-- The entry of a begun pulse's end: a passed one takes RUN (R339).  A start of an older generation, which executes before
the quench reaches it, keeps its duration unless its end keeps its position (R340). Log entry 37 (DEDUCED). -/
def State.endEntry (s : State) (x : Staged) : Staged :=
  let t := s.endTarget x.act
  let a := { x.act with target := t, trig := false }
  if x.gen ≠ s.genOf a.base && !a.keepPos then ⟨a, s.cycle + x.span, x.gen, false, true, 0, 0⟩
  else match s.deadlineOf a.base a.x with
    | some d => if d ≤ s.cycle then ⟨a, s.cycle + 2, x.gen, true, true, 0, 0⟩ else ⟨a, d, x.gen, false, true, 0, 0⟩
    | none => ⟨a, s.cycle + 2 ^ 30, x.gen, false, true, 0, 0⟩

/-- A pulse end runs late: an action late (R339) and a late pulse end of its channel (R277, R341). Log entry 37
(DEDUCED). -/
def State.lateEnd (s : State) (a : Action) : State := (s.countLate a).chSatAdd F.peCerr_LATE 1 a.ch

/-- The actions of channel ch are mirrored (MIR.CHM). -/
def State.mirrorsChan (s : State) (ch : Chan) : Bool :=
  (s.fld F.mirChm_CHANNELS (ch.toNat / 32)).testBit (ch.toNat % 32)

/-- A SAMPLE, PUSH or EVENT of a mirrored channel has no effect at the standby (R432). Log entry 41 (DEDUCED). -/
def State.muted (s : State) (a : Action) : Bool := a.emits && s.applying && s.mirrorsChan a.ch

/-- The channel's executor has pushed or fired in this cycle (R265). -/
def State.emitted (s : State) (ch : Chan) : Bool := (s.chan ch).emitAt == s.cycle + 1

/-- A push or event action takes the cycle's one place (R265). -/
def State.markEmit (s : State) (a : Action) : State :=
  if a.emits then s.setChan a.ch { s.chan a.ch with emitAt := s.cycle + 1 } else s

/-- A staged action executes; it has left its queue. -/
def State.perform (s0 : State) (x : Staged) : State :=
  let a := x.act
  let ch := a.ch
  let s := s0.markEmit a
  if s.muted a then s
  else if x.ending then s.writeLane ch a.lane.toNat 3 (!a.out) a.oe s.cycle
  else if a.kind = kDrive then s.writeLane ch a.lane.toNat 3 a.out a.oe s.cycle
  else if a.kind = kPulse then
    let s1 := s.writeLane ch a.lane.toNat 3 a.out a.oe s.cycle
    let e := s1.endEntry x
    let s2 := s1.setChan ch { s1.chan ch with staged := (s1.chan ch).staged ++ [e] }
    if e.passed then s2.lateEnd a else s2
  else if a.kind = kEvent then s.pulse (0x800 + a.param.toNat % 256)
  else
    match s.sinkOf ch a.oe with
    | some q => s.holderPush ch q (actionItem a a.param)
    | none => s

/-- Take an entry out of its channel's queue. -/
def State.unstage (s : State) (x : Staged) : State :=
  s.setChan x.act.ch { s.chan x.act.ch with staged := (s.chan x.act.ch).staged.erase x }

/-- A SAMPLE takes the delivered level of its deadline cycle: what is left of it is a push (R265, R330). -/
def State.takeSample (s : State) (x : Staged) : Staged :=
  match s.laneOf x.act.ch x.act.lane.toNat with
  | some p =>
    let lv := s.delivered p
    { x with act := { x.act with kind := kPush, param := (x.act.param &&& ~~~1) ||| (if lv then 1 else 0) } }
  | none => { x with act := { x.act with kind := kPush, param := x.act.param &&& ~~~1 } }

/-- The pair of an entry is complete and both its deadlines have come (R268). -/
def State.pairDue (s : State) (x : Staged) : Bool :=
  x.pair != 0 && ((s.chan x.act.ch).staged.all fun y => y.pair != x.pair || decide (y.deadline ≤ s.cycle))

/-- An entry is due: a pair at the later of its two deadlines, any other at its own; a TRIG action never by time alone. -/
def State.isDue (s : State) (x : Staged) : Bool :=
  if x.act.trig && !x.ending then false
  else if s.chBit F.peCcfg_VOTE x.act.ch && x.votes then
    s.pairDue x
  else decide (x.deadline ≤ s.cycle)

/-- Take an entry, and the other of its pair, out of the channel's queue. -/
def State.unstagePair (s : State) (x : Staged) : State :=
  let s1 := s.unstage x
  if x.pair = 0 then s1
  else s1.setChan x.act.ch { s1.chan x.act.ch with staged := (s1.chan x.act.ch).staged.filter fun y => y.pair != x.pair }

/-- Execute the pin actions due, in staging order; of a pair the first acts and both leave. -/
def State.runPins (s : State) (ch : Chan) : List Staged → State
  | [] => s
  | x :: rest =>
    if x.votes && x.pair != 0 && !((s.chan ch).staged.contains x) then s.runPins ch rest
    else
      ((s.unstagePair x).perform x).runPins ch rest

/-- A TRIG action whose arm time has come and that a fire of the trigger executes: a voted drive in its pair alone (R268,
R353). -/
def State.trigFires (s : State) (x : Staged) : Bool :=
  x.act.trig && !x.ending && decide (x.deadline ≤ s.cycle) && decide ((s.chan x.act.ch).trigAt < s.cycle) &&
    (!(s.chBit F.peCcfg_VOTE x.act.ch && x.votes) || s.pairDue x)

/-- The executor of a channel in this cycle (R265, R353): a fire goes to the earliest-staged armed action, which waits for
the next cycle while the one push or event of this cycle is taken. -/
def State.runDue (s : State) (ch : Chan) : State :=
  let s0 := s.retryHolder ch
  let pins := (s0.chan ch).staged.filter fun x => (x.act.drives || x.ending) && s0.isDue x
  let s1 := s0.runPins ch pins
  let s2 := s1.setChan ch { s1.chan ch with
    staged := (s1.chan ch).staged.map fun x => if x.act.kind = kSample && s1.isDue x then s1.takeSample x else x }
  let s3 := match (s2.chan ch).staged.find? (fun x => x.act.emits && s2.isDue x && !s2.emitted ch) with
    | some x => (s2.unstage x).perform x
    | none => s2
  if (s3.chan ch).trig then
    match (s3.chan ch).staged.find? s3.trigFires with
    | some x =>
      if x.act.emits && s3.emitted ch then s3
      else
        let s4 := s3.unstagePair x
        let s5 := s4.setChan ch { s4.chan ch with trig := false }
        s5.perform (if x.act.kind = kSample then s5.takeSample x else x)
    | none => s3
  else s3

/-- Unpaired actions whose window has passed are withdrawn, each with a vote mismatch event (R269). -/
def State.expireVotes (s : State) (ch : Chan) : State :=
  if s.chBit F.peCcfg_VOTE ch then
    let w := s.chFld F.peVote_WINDOW ch
    let old := fun (x : Staged) => x.votes && x.pair == 0 && decide (x.deadline + w < s.cycle)
    let n := (s.chan ch).staged.filter old
    let s1 := s.setChan ch { s.chan ch with staged := (s.chan ch).staged.filter fun x => !old x }
    n.foldl (fun s _ => s.detect 4 ch.toNat) s1
  else s

/-! ## Revalidation (R336) -/

/-- Recompute one staged entry; `none`: the entry stays as it is. -/
def State.revalidate (s : State) (x : Staged) : State :=
  let n := x.act.base
  if x.gen ≠ s.genOf n || !s.stages n || (x.passed : Bool) || decide (x.deadline < s.cycle + 4) then s
  else
    let put := fun (y : Staged) (s : State) => s.setChan x.act.ch { s.chan x.act.ch with
      staged := (s.chan x.act.ch).staged.map fun z => if z = x then y else z }
    if s.passed n x.act.x && !x.act.ahead then
      if x.ending then (put { x with deadline := s.cycle + 2, passed := true } s).lateEnd x.act
      else if x.act.trig then put { x with deadline := s.cycle, passed := true } s
      else if x.act.late = 0 then (put { x with deadline := s.cycle + 2, passed := true } s).countLate x.act
      else if x.act.late = 1 then (s.unstage x).countDrop x.act
      else ((s.unstage x).placeAhead { x.act with ahead := true } 0).2
    else
      let act := if s.passed n x.act.x then x.act else { x.act with ahead := false }
      match s.distance n act.x with
      | none => s
      | some d =>
        match s.cycleAfter n d with
        | none => s
        | some c => put { x with act := act, deadline := c, span := if x.ending then 0 else s.spanFrom act c } s

def insertBy (le : Action → Action → Bool) (a : Action) : List Action → List Action
  | [] => [a]
  | b :: r => if le a b then a :: b :: r else b :: insertBy le a r

/-- Actions sorted by a key, equal keys in their given order. -/
def sortActions (le : Action → Action → Bool) : List Action → List Action
  | [] => []
  | a :: r => insertBy le a (sortActions le r)

/-- The time in ns to an action's target, for the order of a pass; passed targets come first, targets that the base does
not reach last. -/
def State.nearKey (s : State) (a : Action) : Rat :=
  if s.passed a.base a.x && !a.ahead then -1
  else match s.distance a.base a.x with
    | some d => (s.nsAfter a.base d).getD ((2 : Rat) ^ 65)
    | none => (2 : Rat) ^ 65

/-- One pend-store action in a pass: it leaves the store when it is staged or dropped. -/
def State.passPend (s : State) (a : Action) : State :=
  let s1 := { s with pend := s.pend.erase a }
  (s1.place a 0).2

/-- A revalidation pass over every staged and every stored action (R336). Log entry 37 (DEDUCED). -/
def State.pass (s : State) : State :=
  let staged := (s.channels.map fun kv => kv.2.staged).flatten
  let s1 := staged.foldl (fun s x => s.revalidate x) s
  (sortActions (fun a b => decide (s1.nearKey a ≤ s1.nearKey b)) s1.pend).foldl (fun s a => s.passPend a) s1

/-! ## The quench (R340 to R342) -/

/-- The entry is of base n and carries a generation older than gen. -/
def Staged.olderThan (x : Staged) (n : BaseId) (gen : Byte) : Bool :=
  x.act.base == n && decide (0 < (gen - x.gen).toNat) && decide ((gen - x.gen).toNat < 128)

/-- The entry was due in cycle c or earlier: its own deadline, or both of its pair; a TRIG action is due by its fire. -/
def State.dueBy (s : State) (x : Staged) (c : Nat) : Bool :=
  if x.act.trig then false
  else if s.chBit F.peCcfg_VOTE x.act.ch && x.votes then
    x.pair != 0 && ((s.chan x.act.ch).staged.all fun y => y.pair != x.pair || decide (y.deadline ≤ c))
  else decide (x.deadline ≤ c)

/-- The entry is withdrawn by the quench of the change of base n to gen in cycle g (R340). -/
def State.quenched (s : State) (n : BaseId) (g : Nat) (gen : Byte) (x : Staged) : Bool :=
  x.olderThan n gen && !x.ending && !s.dueBy x (g + 1)

/-- The end of a begun pulse that the quench recomputes. -/
def quenchEnd (n : BaseId) (gen : Byte) (x : Staged) : Bool := x.olderThan n gen && x.ending && x.act.keepPos

/-- Pairs whose partner has left are dissolved. -/
def unpair (l : List Staged) : List Staged :=
  l.map fun x => if x.pair ≠ 0 ∧ (l.filter fun y => y.pair == x.pair).length < 2 then { x with pair := 0 } else x

/-- The withdrawal of the oldest generation change of base n reaches every executor, with what is on its way there (R340,
R342). -/
def State.applyQuench (s : State) (n : BaseId) (g : Nat) (gen : Byte) : State :=
  let b := s.base n
  let all := (s.channels.map fun kv => kv.2.staged).flatten
  let coming := s.arrivals.filter fun r => r.entry.olderThan n gen
  let gone := all.filter (s.quenched n g gen) ++ ((coming.filter fun r => r.old.isNone).map fun r => r.entry)
  let ends := (all.filter (quenchEnd n gen)).filter fun x => !b.recomp.contains x
  let strip := fun (_ : Nat) (c : Channel) =>
    if c.staged.any (s.quenched n g gen) then
      { c with staged := unpair (c.staged.filter fun x => !s.quenched n g gen x), trig := false }
    else c
  let s1 := { s with channels := smMap {} s.channels strip
                     arrivals := s.arrivals.filter fun r => !r.entry.olderThan n gen }
  let s2 := (gone.filter fun x => x.act.qn).foldl (fun s x => s.actionNotice x.act nQuenched) s1
  (s2.setBase n { s2.base n with
    quenches := b.quenches.drop 1, recompAt := some g
    recomp := b.recomp ++ ends ++ gone.filter fun x => !x.act.qn }).satAdd F.taCnt_QUENCH 1

/-- The withdrawal that is due: two cycles after its generation change (R340). -/
def State.quench (s : State) (n : BaseId) : State :=
  match (s.base n).quenches with
  | (g, gen) :: _ => if g + 2 ≤ s.cycle then s.applyQuench n g gen else s
  | [] => s

/-- A pulse end recomputed under KEEP_POSITION is on its way, or is discarded when the old one has executed (R266, R341); one
whose target has passed takes RUN (R339), and one whose deadline will have passed on arrival executes two cycles after it. -/
def State.recomputeEnd (s : State) (x : Staged) : State :=
  let n := x.act.base
  if !(s.chan x.act.ch).staged.contains x then s.chSatAdd F.peCerr_LATE 1 x.act.ch
  else
    let send := fun (y : Staged) (s : State) => { s with arrivals := s.arrivals ++ [⟨s.cycle + 2, y, some x⟩] }
    let late := send { x with deadline := s.cycle + 4, gen := s.genOf n, passed := true }
    if s.passed n x.act.x then late (s.countLate x.act)
    else match s.deadlineOf n x.act.x with
      | some d => if d ≤ s.cycle + 2 then late s else send { x with deadline := d, gen := s.genOf n } s
      | none => send { x with gen := s.genOf n } s

/-- What the stager sent reaches its executor: it enters the queue, or replaces the pulse end, which is discarded and
counted when that has executed (R266, R341). -/
def State.arrive (s : State) (r : Arrival) : State :=
  let ch := r.entry.act.ch
  match r.old with
  | none => s.enqueue r.entry
  | some x =>
    if !(s.chan ch).staged.contains x then s.chSatAdd F.peCerr_LATE 1 ch
    else
      let s1 := s.setChan ch { s.chan ch with staged := (s.chan ch).staged.map fun z => if z = x then r.entry else z }
      if r.entry.passed then s1.chSatAdd F.peCerr_LATE 1 ch else s1

/-- Arrivals of this cycle. -/
def State.arriveAll (s : State) : State :=
  let here := s.arrivals.filter fun r => decide (r.at_ ≤ s.cycle)
  here.foldl State.arrive { s with arrivals := s.arrivals.filter fun r => !decide (r.at_ ≤ s.cycle) }

/-- The order within a channel: pulse ends first, then the earliest old deadline (R341). -/
def recompBefore (x y : Staged) : Bool := if x.ending = y.ending then decide (x.deadline ≤ y.deadline) else x.ending

/-- The next action of a channel to recompute. -/
def nextRecomp : List Staged → Option Staged
  | [] => none
  | x :: r =>
    match nextRecomp r with
    | none => some x
    | some y => if recompBefore x y then some x else some y

/-- The channels of actions to recompute with how many each has, most first, ties to the lowest channel (R341). -/
def recompChannels (l : List Staged) : List Chan :=
  let ids := ((List.range 512).map fun i => (BitVec.ofNat 9 i : Chan)).filter fun ch => l.any fun x => x.act.ch == ch
  let count := fun (ch : Chan) => (l.filter fun x => x.act.ch == ch).length
  let put := fun (ch : Chan) (r : List Chan) => r.takeWhile (fun d => decide (count ch < count d)) ++ ch ::
    r.dropWhile (fun d => decide (count ch < count d))
  ids.foldr put []

/-- One action is recomputed. -/
def State.recompute1 (s : State) (n : BaseId) (x : Staged) : State :=
  let s1 := s.setBase n { s.base n with recomp := (s.base n).recomp.erase x }
  if x.ending then s1.recomputeEnd x else (s1.place x.act 2).2

/-- One cycle of the recomputation after a quench: at most 32 actions, one of a channel (R341). -/
def State.recompute (s : State) (n : BaseId) : State :=
  let l := (s.base n).recomp
  let now := ((recompChannels l).take 32).filterMap fun ch => nextRecomp (l.filter fun x => x.act.ch == ch)
  let s1 := now.foldl (fun s x => s.recompute1 n x) s
  let b := s1.base n
  s1.setBase n { b with recompStep := s.cycle + 1, recompAt := if b.recomp.isEmpty then none else b.recompAt }

/-- A cycle of recomputation is due: from three cycles after the generation change, once a cycle (R341). -/
def State.recomputes (s : State) (n : BaseId) : Bool :=
  match (s.base n).recompAt with
  | some g => decide (g + 3 ≤ s.cycle) && (s.base n).recompStep != s.cycle + 1
  | none => false

/-- The generation of a base increments (R320), once in a cycle. -/
def State.newGeneration (s : State) (n : BaseId) : State :=
  let b := s.base n
  if b.quenches.any fun q => q.1 == s.cycle then s.setBase n { b with phi := 0, corr := 0 }
  else
    (s.setBase n { b with gen := b.gen + 1, phi := 0, corr := 0, quenches := b.quenches ++ [(s.cycle, b.gen + 1)] }).pulse
      (0xA00 + n.toNat)

end Sys2Proof.Machine
end

