-- ==== Sys2Proof/Machine/PinControl.lean ====
section
/-!
DEFINITION. Control of the pin engines (R237 to R244, R270 to R278): channel slot tables, channel commands, program memory,
port and bit-unit registers, fencing, and the loss of a hearth.
-/

namespace Sys2Proof.Machine

/-- Authority over the registers of engine e: the hearth supervisor of its pin group and the block supervisor (R274; for
the slot table read in the same way, log entry 21). Log entry 21 (DEDUCED). -/
def overEngine (w : Writer) (e : EngineId) : Bool := overHearth w (e.extractLsb' 3 3)

/-- Slot entry bytes of an engine with no bit set that must be written 0 (R275). -/
def peSlotsOk (v : Word) : Bool :=
  [0, 1, 2, 3].all fun i => bitsOf v (8 * i + 3) 4 == 0

/-! ## Slot tables (R240) -/

/-- A write of PE.CST word wi; the boot unit's record sets the active entry as well. -/
def State.wrCst (s : State) (w : Writer) (e : EngineId) (wi : Nat) (v : Word) : State :=
  if !overEngine w e then s.authorityFault w
  else if !peSlotsOk v then s
  else
    let s1 := s.setReg .peCst v e.toNat wi
    match w with
    | .boot => s1.setReg .peCsa v e.toNat wi
    | _ => (s1.setEngine e { s1.engine e with wrote := true }).setFld F.peEctl_DIRTY 1 e.toNat

/-- A write of PE.ECTL: COMMIT requests the copy. -/
def State.wrEctl (s : State) (w : Writer) (e : EngineId) (v : Word) : State :=
  if !overEngine w e then s.authorityFault w
  else if F.peEctl_COMMIT.get v = 0 || (s.engine e).commitAt.isSome then s
  else (s.setEngine e { s.engine e with commitAt := some s.cycle }).setFld F.peEctl_PEND 1 e.toNat

/-- The first cycle at a multiple of n that lies at least 2 cycles after cycle g. -/
def boundaryAfter (g n : Nat) : Nat := (g + 2 + n - 1) / n * n

/-- The words of the pending table. -/
def State.pendingSlots (s : State) (e : EngineId) : List Word := [0, 1, 2, 3].map fun w => s.reg .peCst e.toNat w

/-- At a position 0 a copy that waits takes the pending table as it stands (R240). -/
def State.snapSlots (s : State) (e : EngineId) : State :=
  let x := s.engine e
  match x.commitAt with
  | none => s
  | some g =>
    if s.cycle < boundaryAfter g 16 then s
    else s.setEngine e { commitAt := none, snap := some (s.pendingSlots e), wrote := false }

/-- The copy of the pending table into the active one; a write or a commit after the table was taken stays for the next
copy (R240). -/
def State.copySlots (s : State) (e : EngineId) : State :=
  let x := s.engine e
  match x.snap with
  | none => s
  | some ws =>
    let s1 := [0, 1, 2, 3].foldl (fun s w => s.setReg .peCsa (ws.getD w 0) e.toNat w) s
    ((s1.setEngine e { x with snap := none }).setFld F.peEctl_PEND x.commitAt.isSome.toNat e.toNat).setFld
      F.peEctl_DIRTY x.wrote.toNat e.toNat

/-- CST_WRITE (R240). -/
def execCstWrite (w : Writer) (e : EngineId) (wi : BitVec 2) (v : Word) (s : State) : Out := .next (s.access w fun s => s.wrCst w e wi.toNat v)

/-- ECTL_COMMIT (R240): the write of 1 to PE.ECTL.COMMIT. -/
def execEctlCommit (w : Writer) (e : EngineId) (s : State) : Out := .next (s.access w fun s => s.wrEctl w e 1)

/-- CHANNEL_TABLE_COPY (R240). -/
def execChannelTableCopy (e : EngineId) (s : State) : Out := .next (s.copySlots e)

/-! ## Channel commands (R241, R244) -/

/-- A command in a state that does not take it (R244). -/
def State.chIgnored (s : State) (ch : Chan) : State := s.raise F.peCstat_WIGN (engineOf ch).toNat (contextOf ch).toNat

def ChState.active (x : ChState) : Bool := x == .run || x == .wait || x == .stallPull || x == .stallPush

/-- A pin engine taken out of service is in use again once one of its channels starts. -/
def State.engineBack (s : State) (ch : Chan) : State :=
  { s with faults := { s.faults with engines := s.faults.engines.filter fun e => e != engineOf ch } }

/-- A supplied program as it starts: OFFLINE, or in the state that its options name (R284). Log entry 20 (DESIGN CHOICE). -/
def Prog.initial (ch : Chan) : Prog :=
  let n := (Config.builtWith ch.toNat 28).extractLsb' 0 4
  if n.toNat ≤ 6 then { state := n } else {}

/-- START: registers, flags, QTAG and the bit unit's buffers cleared, PC at ENTRY, the trigger and any program state
cleared; ports keep their levels (R241, R244, R284, R353).  No channel starts while nothing may run (R457, R481). -/
def State.chStart (s : State) (ch : Chan) : State :=
  let x := s.chan ch
  if (x.st == .off || x.st == .halted || x.st == .safe) && !s.runBarred then
    (s.engineBack ch).setChan ch { x with st := .run, d := [], z := false, c := false, qtag := 0, trig := false, prog := Prog.initial ch
                                          pc := BitVec.ofNat 10 (s.chFld F.peCcfg_ENTRY ch), bu := { x.bu with tx := [], rx := [] } }
  else s.chIgnored ch

/-- STOP: the program stops, its waiting instruction is abandoned and the bit unit disabled; timed drives and staged
actions stand (R244). -/
def State.chStop (s : State) (ch : Chan) : State :=
  let x := s.chan ch
  if x.st.active then
    let s1 := (s.setChan ch { x with st := .off, bu := { x.bu with nextAt := none, hsArm := 0 } }).setChFld F.peBitcfg_EN 0 ch
    if x.pushHold.isEmpty then s1.dropWaiter (ownerChannel ch) else s1
  else s.chIgnored ch

/-- SAFE (R244, R270). -/
def State.chSafe (s : State) (ch : Chan) : State :=
  if (s.chan ch).st = .latched then s.chIgnored ch else s.enterSafe ch .safe

/-- UNLATCH (R244). -/
def State.chUnlatch (s : State) (ch : Chan) : State :=
  if (s.chan ch).st = .latched then s.setChan ch { s.chan ch with st := .safe } else s.chIgnored ch

/-- A write of PE.CCTL: one command of a controller; UNLATCH of the block supervisor alone (R243, R244). -/
def State.wrCctl (s : State) (w : Writer) (ch : Chan) (v : Word) : State :=
  if !s.controls w ch then s.authorityFault w
  else match bitsOf v 0 4 with
    | 1 => s.chStart ch
    | 2 => s.chStop ch
    | 4 => s.chSafe ch
    | 8 => if isBlock w then s.chUnlatch ch else s.authorityFault w
    | _ => s

/-- START (R244). -/
def execStart (w : Writer) (ch : Chan) (s : State) : Out := .next (s.access w fun s => s.wrCctl w ch 1)

/-- STOP (R244). -/
def execStop (w : Writer) (ch : Chan) (s : State) : Out := .next (s.access w fun s => s.wrCctl w ch 2)

/-- SAFE (R244). -/
def execSafe (w : Writer) (ch : Chan) (s : State) : Out := .next (s.access w fun s => s.wrCctl w ch 4)

/-- UNLATCH (R244). -/
def execUnlatch (w : Writer) (ch : Chan) (s : State) : Out := .next (s.access w fun s => s.wrCctl w ch 8)

/-! ## Program memory (R274) and counters -/

/-- A write of PE.PMDATA stores the word at PMADDR and increments PMADDR. -/
def State.wrPmdata (s : State) (w : Writer) (e : EngineId) (v : Word) : State :=
  if !overEngine w e then s.authorityFault w
  else
    let a := s.fld F.pePmaddr_ADDR e.toNat
    let s1 := { s with pmem := smSet 0 s.pmem (1024 * e.toNat + a) v }
    s1.setFld F.pePmaddr_ADDR ((a + 1) % 1024) e.toNat

/-- The program word that PE.PMDATA reads. -/
def State.pmWord (s : State) (e : EngineId) : Word := smGet 0 s.pmem (1024 * e.toNat + s.fld F.pePmaddr_ADDR e.toNat)

/-- PMDATA_WRITE (R274). -/
def execPmdataWrite (w : Writer) (e : EngineId) (v : Word) (s : State) : Out := .next (s.access w fun s => s.wrPmdata w e v)

/-- Read of a register that holds only stored fields: the answer, and its RC fields cleared (R9, R10). -/
def State.readStored (s : State) (k : RegKind) (i j : Nat) : State := s.readOut k i j (visible k.desc (s.reg k i j))

/-- ESTAT_READ (R275). -/
def execEstatRead (e : EngineId) (s : State) : Out := .next (s.readStored .peEstat e.toNat 0)

/-- CERR_READ (R277). -/
def execCerrRead (ch : Chan) (s : State) : Out := .next (s.readStored .peCerr (engineOf ch).toNat (contextOf ch).toNat)

/-! ## Registers of channels and ports (R276 to R278) -/

/-- EN of the bit unit set to a value (R262): the first bit starts 2 cycles later, or at the edge of an armed hard
sync. -/
def State.bitEnable (s : State) (ch : Chan) (en : Bool) : State :=
  let x := s.chan ch
  let was := s.chBit F.peBitcfg_EN ch
  let s1 := s.setChFld F.peBitcfg_EN en.toNat ch
  if en && !was then
    s1.setChan ch { x with bu := { x.bu with
      nextAt := if x.bu.hsArm = 0 then some (s.cycle + 2) else none
      bits := 0, sampled := true, hadSync := false, syncNow := false, aligned := false
      txRun := 0, rxRun := 0 } }
  else if !en then s1.setChan ch { x with bu := { x.bu with nextAt := none } }
  else s1

/-- A write of a bit-unit register is accepted as a whole (R277). -/
def State.bitRegOk (s : State) (k : RegKind) (ch : Chan) (v : Word) : Bool :=
  match k with
  | .peBitcfg => F.peBitcfg_SYNC.get v != 3
  | .peBitpa => decide (16 ≤ F.peBitpa_PERIOD.get v) && decide (s.chFld F.peBitsa_SP ch < F.peBitpa_PERIOD.get v)
  | .peBitpb => decide (16 ≤ F.peBitpb_PERIOD.get v) && decide (s.chFld F.peBitsb_SP ch < F.peBitpb_PERIOD.get v)
  | .peBitsa => decide (F.peBitsa_SP.get v < s.chFld F.peBitpa_PERIOD ch)
  | .peBitsb => decide (F.peBitsb_SP.get v < s.chFld F.peBitpb_PERIOD ch)
  | _ => true

/-- A write of BITCFG, BITP or BITS (R277). -/
def State.wrBit (s : State) (w : Writer) (k : RegKind) (ch : Chan) (v : Word) : State :=
  let en := F.peBitcfg_EN.get v == 1
  if (s.chan ch).st.active then
    let s1 := if k = .peBitcfg && s.bitRegOk k ch v then s.bitEnable ch en else s
    s1.chIgnored ch
  else if !s.bitRegOk k ch v then s
  else
    let v1 := if k = .peBitcfg then F.peBitcfg_EN.put v (s.chFld F.peBitcfg_EN ch) else v
    let s1 := s.store w k v1 (engineOf ch).toNat (contextOf ch).toNat
    if k = .peBitcfg then s1.bitEnable ch en else s1

/-- LANES with bit 6 of every byte 0 (R276). -/
def lanesOk (v : Word) : Bool := [0, 1, 2, 3].all fun i => bitsOf v (8 * i + 6) 1 == 0

/-- A write of a context register of a channel (R276, R277). -/
def State.wrChannel (s : State) (w : Writer) (k : RegKind) (ch : Chan) (v : Word) : State :=
  let e := (engineOf ch).toNat
  let x := (contextOf ch).toNat
  if !s.controls w ch then s.authorityFault w
  else match k with
    | .peCctl => s.wrCctl w ch v
    | .peBitcfg => s.wrBit w k ch v
    | .peBitpa => s.wrBit w k ch v
    | .peBitsa => s.wrBit w k ch v
    | .peBitpb => s.wrBit w k ch v
    | .peBitsb => s.wrBit w k ch v
    | .peLanes =>
      if !lanesOk v then s
      else s.bindLanes ch ((s.store w k v e x).reg k e x)
    | _ => s.store w k v e x

/-- A write of a port register is accepted as a whole (R278). -/
def portRegOk (k : RegKind) (v : Word) : Bool :=
  match k with
  | .pePad => F.pePad_MODE.get v != 3
  | .peSamp => F.peSamp_MAJ.get v != 3 && F.peSamp_SPACE.get v != 0
  | .peRbk => F.peRbk_MODE.get v != 3 && F.peRbk_FILT.get v != 0
  | .peStuff => F.peStuff_MODE.get v != 3 && decide (2 ≤ F.peStuff_N.get v)
  | .peCrccfg => decide (F.peCrccfg_WIDTHA.get v ≤ 32) && decide (F.peCrccfg_WIDTHB.get v ≤ 32)
  | .peFence => !(F.peFence_CLEAR.get v == 1 && F.peFence_SET.get v == 1)
  | _ => true

/-- A write of PE.FENCE: the hearth supervisor of the pin group or the block supervisor fences or unfences the port
(R271). -/
def State.wrFence (s : State) (w : Writer) (p : Port) (v : Word) : State :=
  if !overHearth w (groupOf p) then s.authorityFault w
  else if !portRegOk .peFence v then s
  else if F.peFence_SET.get v = 1 then s.fencePort p 2
  else if F.peFence_CLEAR.get v = 1 then s.setFld F.peFence_FENCED 0 p.toNat
  else s

/-- CRC registers whose width has become 0 are held at 0 (R259). -/
def State.crcHold (s : State) (p : Port) : State :=
  let x := s.port p
  s.setPort p { x with
    crcA := if s.fld F.peCrccfg_WIDTHA p.toNat = 0 then 0 else x.crcA
    crcB := if s.fld F.peCrccfg_WIDTHB p.toNat = 0 then 0 else x.crcB }

/-- A change of PAD changes what the port presents from the next cycle on (R255). -/
def State.refreshPort (s : State) (p : Port) : State :=
  let x := s.port p
  s.drivePort p x.out x.oe (s.cycle + 1)

/-- A write of a port register (R243, R278). -/
def State.wrPort (s : State) (w : Writer) (k : RegKind) (p : Port) (v : Word) : State :=
  if k = .peFence then s.wrFence w p v
  else if !s.controlsPort w p then s.authorityFault w
  else if !portRegOk k v then s
  else
    let s1 := s.store w k v p.toNat
    match k with
    | .pePad => s1.refreshPort p
    | .peCrccfg => s1.crcHold p
    | _ => s1

/-- PORT_FENCE_SET (R271). -/
def execPortFenceSet (w : Writer) (p : Port) (s : State) : Out := .next (s.access w fun s => s.wrFence w p 0x20000000)

/-- PORT_FENCE_CLEAR (R271). -/
def execPortFenceClear (w : Writer) (p : Port) (s : State) : Out := .next (s.access w fun s => s.wrFence w p 0x40000000)

/-! ## Loss of the hearth (R272) -/

/-- SAFE_WHEN_DRY (R272): an orphaned channel with ORPHAN = 0 enters SAFE once its action queue is empty, and reports. -/
def execSafeWhenDry (ch : Chan) (s : State) : Out :=
  .next (if s.orphaned ch && !s.chBit F.peCcfg_ORPHAN ch && (s.chan ch).staged.isEmpty && !(s.chan ch).st.isSafe then
      (s.enterSafe ch .safe).report ch 0 3
    else s)

end Sys2Proof.Machine
end

