-- ==== Sys2Proof/Machine/PinProgram.lean ====
section
/-!
DEFINITION. The pin-engine instruction set, version 0x02 (R245 to R254): each instruction as the channel executes it at one of
its positions.
-/

namespace Sys2Proof.Machine

/-! ## Executing one instruction -/

/-- The channel executes an instruction when it is able to (R242). -/
def State.pin (s : State) (ch : Chan) (f : State → State) : State := if s.chExecutes ch then f s else s

/-- The instruction writes DD and completes. -/
def State.pinSet (s : State) (ch : Chan) (dd : BitVec 3) (v : Word) : State :=
  (s.setChan ch ((s.chan ch).setReg dd v)).chNext ch

/-- The instruction writes DD and flag Z. -/
def State.pinSetZ (s : State) (ch : Chan) (dd : BitVec 3) (v : Word) (z : Bool) : State :=
  (s.setChan ch { (s.chan ch).setReg dd v with z := z }).chNext ch

/-- The instruction writes DD and flags Z and C. -/
def State.pinSetZC (s : State) (ch : Chan) (dd : BitVec 3) (v : Word) (z c : Bool) : State :=
  (s.setChan ch { (s.chan ch).setReg dd v with z := z, c := c }).chNext ch

def State.pinReg (s : State) (ch : Chan) (i : BitVec 3) : Word := (s.chan ch).reg i

/-- Operand b: the immediate, sign-extended or zero-extended, or DS; `none` for a nonzero unused field (R248, R251). -/
def State.pinB (s : State) (ch : Chan) (ds : BitVec 3) (useImm : Bool) (imm : BitVec 16) (signed : Bool) : Option Word :=
  if useImm then (if ds = 0 then some (if signed then imm.signExtend 32 else imm.setWidth 32) else none)
  else if imm = 0 then some (s.pinReg ch ds)
  else none

/-- A binary instruction: DD := f DD b with flags. -/
def State.pinAlu (s : State) (ch : Chan) (dd ds : BitVec 3) (useImm : Bool) (imm : BitVec 16) (signed : Bool)
    (f : State → Word → Word → State) : State :=
  match s.pinB ch ds useImm imm signed with
  | none => s.chFault ch peIllegalCode
  | some b => f s (s.pinReg ch dd) b

/-- An instruction that names a lane: PE_LANE when PE.LANES does not bind it. -/
def State.pinLane (s : State) (ch : Chan) (lane : BitVec 2) (f : State → Port → State) : State :=
  match s.laneOf ch lane.toNat with
  | none => s.chFault ch peLaneCode
  | some p => f s p

/-! ## Moves and arithmetic -/

/-- MOVI: DD := zext(IMM). -/
def execMovi (ch : Chan) (dd : BitVec 3) (imm : BitVec 16) (s : State) : Out :=
  .next (s.pin ch fun s => s.pinSet ch dd (imm.setWidth 32))

/-- MOVH: DD[31:16] := IMM, DD[15:0] kept. -/
def execMovh (ch : Chan) (dd : BitVec 3) (imm : BitVec 16) (s : State) : Out :=
  .next (s.pin ch fun s => s.pinSet ch dd (imm ++ (s.pinReg ch dd).extractLsb' 0 16))

/-- MOV: DD := DS. -/
def execMov (ch : Chan) (dd ds : BitVec 3) (s : State) : Out :=
  .next (s.pin ch fun s => s.pinSet ch dd (s.pinReg ch ds))

/-- ADD: DD := DD + b, Z, C the carry out. -/
def execPeAdd (ch : Chan) (dd ds : BitVec 3) (useImm : Bool) (imm : BitVec 16) (s : State) : Out :=
  .next (s.pin ch fun s => s.pinAlu ch dd ds useImm imm true fun s a b =>
    s.pinSetZC ch dd (a + b) (a + b == 0) (decide (2 ^ 32 ≤ a.toNat + b.toNat)))

/-- SUB: DD := DD - b, Z, C when there is no borrow. -/
def execPeSub (ch : Chan) (dd ds : BitVec 3) (useImm : Bool) (imm : BitVec 16) (s : State) : Out :=
  .next (s.pin ch fun s => s.pinAlu ch dd ds useImm imm true fun s a b =>
    s.pinSetZC ch dd (a - b) (a - b == 0) (decide (b.toNat ≤ a.toNat)))

/-- AND: DD := DD and b, Z; C unchanged. -/
def execPeAnd (ch : Chan) (dd ds : BitVec 3) (useImm : Bool) (imm : BitVec 16) (s : State) : Out :=
  .next (s.pin ch fun s => s.pinAlu ch dd ds useImm imm false fun s a b => s.pinSetZ ch dd (a &&& b) (a &&& b == 0))

/-- OR: DD := DD or b, Z; C unchanged. -/
def execPeOr (ch : Chan) (dd ds : BitVec 3) (useImm : Bool) (imm : BitVec 16) (s : State) : Out :=
  .next (s.pin ch fun s => s.pinAlu ch dd ds useImm imm false fun s a b => s.pinSetZ ch dd (a ||| b) (a ||| b == 0))

/-- XOR: DD := DD xor b, Z; C unchanged. -/
def execPeXor (ch : Chan) (dd ds : BitVec 3) (useImm : Bool) (imm : BitVec 16) (s : State) : Out :=
  .next (s.pin ch fun s => s.pinAlu ch dd ds useImm imm false fun s a b => s.pinSetZ ch dd (a ^^^ b) (a ^^^ b == 0))

/-- SHL by the full value of b, with the results and C of R111. -/
def execPeShl (ch : Chan) (dd ds : BitVec 3) (useImm : Bool) (imm : BitVec 16) (s : State) : Out :=
  .next (s.pin ch fun s => s.pinAlu ch dd ds useImm imm false fun s a b =>
    s.pinSetZC ch dd (shlRes a b.toNat).1 ((shlRes a b.toNat).1 == 0) (shlRes a b.toNat).2)

/-- SHR by the full value of b, with the results and C of R111. -/
def execPeShr (ch : Chan) (dd ds : BitVec 3) (useImm : Bool) (imm : BitVec 16) (s : State) : Out :=
  .next (s.pin ch fun s => s.pinAlu ch dd ds useImm imm false fun s a b =>
    s.pinSetZC ch dd (shrRes a b.toNat).1 ((shrRes a b.toNat).1 == 0) (shrRes a b.toNat).2)

/-- CMP: flags of DD - b. -/
def execPeCmp (ch : Chan) (dd ds : BitVec 3) (useImm : Bool) (imm : BitVec 16) (s : State) : Out :=
  .next (s.pin ch fun s => s.pinAlu ch dd ds useImm imm true fun s a b =>
    s.pinSetZC ch dd a (a - b == 0) (decide (b.toNat ≤ a.toNat)))

/-! ## Branches (R249) -/

/-- BR: condition F; a lane condition names the lane by DD[1:0], every other wants DD = 0. -/
def State.brRun (s : State) (ch : Chan) (f : BitVec 4) (dd : BitVec 3) (target : BitVec 10) : State :=
  let x := s.chan ch
  let go := fun (s : State) (b : Bool) => if b then s.chBranch ch target else s.chNext ch
  let plain := fun (b : Bool) => if dd = 0 then go s b else s.chFault ch peIllegalCode
  let lane := fun (g : State → Port → State) =>
    if dd.getLsbD 2 then s.chFault ch peIllegalCode else s.pinLane ch (dd.setWidth 2) g
  match f.toNat with
  | 0 => plain true
  | 1 => plain x.z
  | 2 => plain (!x.z)
  | 3 => plain x.c
  | 4 => plain (!x.c)
  | 5 => lane fun s p => go s (s.delivered p)
  | 6 => lane fun s p => go s (!s.delivered p)
  | 7 => lane fun s p => go (s.setPort p { s.port p with diff := false }) (s.port p).diff
  | 8 => plain (x.bu.stuffErr || x.bu.underrun || x.bu.overrun)
  | 9 => plain x.bu.tx.isEmpty
  | _ => s.chFault ch peIllegalCode

/-- BR (R249). -/
def execBr (ch : Chan) (f : BitVec 4) (dd : BitVec 3) (target : BitVec 10) (s : State) : Out :=
  .next (s.pin ch fun s => s.brRun ch f dd target)

/-- DJNZ: DD := DD - 1; branch when it is not 0. -/
def execDjnz (ch : Chan) (dd : BitVec 3) (target : BitVec 10) (s : State) : Out :=
  .next (s.pin ch fun s =>
    let v := s.pinReg ch dd - 1
    let s1 := s.setChan ch ((s.chan ch).setReg dd v)
    if v ≠ 0 then s1.chBranch ch target else s1.chNext ch)

/-! ## Driving and sampling (R254, R257) -/

/-- OUT and OE of a DRIVE; `none` for a nonzero unused field. -/
def State.driveLevels (s : State) (ch : Chan) (dd ds : BitVec 3) (f : BitVec 4) (imm : BitVec 2) : Option (Bool × Bool) :=
  if !f.getLsbD 3 && dd != 0 then none
  else if f.getLsbD 2 then (if imm = 0 then some ((s.pinReg ch ds).getLsbD 0, true) else none)
  else if ds = 0 then some (imm.getLsbD 0, imm.getLsbD 1)
  else none

/-- A timed drive is pended for its lane, or applied in the next cycle and counted late (R254). -/
def State.pendDrive (s : State) (ch : Chan) (lane : Nat) (t : Word) (out oe : Bool) : State :=
  if reached s.cycle t then
    ((s.writeLane ch lane 4 out oe (s.cycle + 1)).chSatAdd F.peCerr_LATE 1 ch).chNext ch
  else
    (s.setChan ch { s.chan ch with timed := smSet none (s.chan ch).timed lane (some ⟨t, out, oe⟩) }).chNext ch

/-- An untimed drive cancels the lane's pending one and changes the port in the next cycle. -/
def State.driveNow (s : State) (ch : Chan) (lane : Nat) (out oe : Bool) : State :=
  let s1 := s.setChan ch { s.chan ch with timed := smSet none (s.chan ch).timed lane none }
  (s1.writeLane ch lane 6 out oe (s.cycle + 1)).chNext ch

/-- DRIVE. -/
def State.driveRun (s : State) (ch : Chan) (dd ds : BitVec 3) (f : BitVec 4) (imm : BitVec 2) : State :=
  let lane := (f.setWidth 2 : BitVec 2)
  match s.driveLevels ch dd ds f imm with
  | none => s.chFault ch peIllegalCode
  | some v =>
    s.pinLane ch lane fun s _ =>
      if s.chBit F.peCcfg_VOTE ch then (s.chSatAdd F.peCerr_DISC 1 ch).chNext ch
      else if f.getLsbD 3 then
        (if (smGet none (s.chan ch).timed lane.toNat).isSome then s.chWait ch .wait
         else s.pendDrive ch lane.toNat (s.pinReg ch dd) v.1 v.2)
      else s.driveNow ch lane.toNat v.1 v.2

/-- DRIVE (R254). -/
def execDrive (ch : Chan) (dd ds : BitVec 3) (f : BitVec 4) (imm : BitVec 2) (s : State) : Out :=
  .next (s.pin ch fun s => s.driveRun ch dd ds f imm)

/-- TIMED_DRIVE_DUE (R254): the lane's pending drive applies in its cycle and frees. -/
def execTimedDriveDue (ch : Chan) (lane : BitVec 2) (s : State) : Out :=
  .next (match smGet none (s.chan ch).timed lane.toNat with
    | none => s
    | some td =>
      if s.groupUp ch && reached s.cycle td.at_ then
        let s1 := s.setChan ch { s.chan ch with timed := smSet none (s.chan ch).timed lane.toNat none }
        s1.writeLane ch lane.toNat 4 td.out td.oe s.cycle
      else s)

/-- SAMPLE: DD := DD × 2 + delivered level, Z when the level is 0. -/
def execSample (ch : Chan) (dd : BitVec 3) (lane : BitVec 2) (s : State) : Out :=
  .next (s.pin ch fun s => s.pinLane ch lane fun s p =>
    let l := s.delivered p
    s.pinSetZ ch dd (s.pinReg ch dd * 2 + (if l then 1 else 0)) (!l))

/-- WAITE: ends when the lane's timestamp queue holds an entry, or, timed, when DS is reached. -/
def State.waiteRun (s : State) (ch : Chan) (lane : BitVec 2) (timed : Bool) (ds : BitVec 3) : State :=
  if !timed && ds != 0 then s.chFault ch peIllegalCode
  else s.pinLane ch lane fun s p =>
    if !(s.port p).ts.isEmpty then (s.setChan ch { s.chan ch with z := false }).chNext ch
    else if timed && reached (2 ^ 32 - 1 + s.cycle) (s.pinReg ch ds) then
      (s.setChan ch { s.chan ch with z := true }).chNext ch
    else s.chWait ch .wait

/-- WAITE. -/
def execWaite (ch : Chan) (lane : BitVec 2) (timed : Bool) (ds : BitVec 3) (s : State) : Out :=
  .next (s.pin ch fun s => s.waiteRun ch lane timed ds)

/-- WAITT: ends when time DD is reached. -/
def execWaitt (ch : Chan) (dd : BitVec 3) (s : State) : Out :=
  .next (s.pin ch fun s =>
    if reached (2 ^ 32 - 1 + s.cycle) (s.pinReg ch dd) then s.chNext ch else s.chWait ch .wait)

/-- TSTAMP: the head of the lane's timestamp queue. -/
def State.tstampRun (s : State) (ch : Chan) (dd : BitVec 3) (lane : BitVec 2) (lowWord pop : Bool) : State :=
  s.pinLane ch lane fun s p =>
    match (s.port p).ts with
    | [] => s.pinSetZ ch dd 0 true
    | e :: rest =>
      let s1 := if pop then s.setPort p { s.port p with ts := rest } else s
      s1.pinSetZC ch dd (if lowWord then e.tb.extractLsb' 0 32 else e.tb.extractLsb' 16 32) false e.rising

/-- TSTAMP. -/
def execTstamp (ch : Chan) (dd : BitVec 3) (lane : BitVec 2) (lowWord pop : Bool) (s : State) : Out :=
  .next (s.pin ch fun s => s.tstampRun ch dd lane lowWord pop)

/-- RDC: DD := C mod 2^32 of this cycle. -/
def execRdc (ch : Chan) (dd : BitVec 3) (s : State) : Out :=
  .next (s.pin ch fun s => s.pinSet ch dd (BitVec.ofNat 32 s.cycle))

/-! ## Queues (R252) -/

/-- A read of source k: the item, or nothing; a quadrant that is not ON is woken first (R399). -/
def State.chPull (s : State) (ch : Chan) (q : Qid) : Option (BitVec 64) × State :=
  let d := quadDomain (quadrantOf q)
  let s0 := if (s.dom d).st = .on then s else s.wakeDomain d
  if (s0.dom d).st = .on then
    let r := s0.popItem q (.channel ch)
    (r.1.map fun x => x.1, r.2)
  else (none, s0)

/-- PULL and TPULL: DD := payload, QTAG := tag word. -/
def State.pullRun (s : State) (ch : Chan) (dd : BitVec 3) (src try_ : Bool) : State :=
  match s.sourceOf ch src with
  | none => s.chFault ch peQueueCode
  | some q =>
    match s.chPull ch q with
    | (some i, s1) =>
      let x := { (s1.chan ch).setReg dd (itemPayload i) with qtag := itemTag i }
      (s1.setChan ch (if try_ then { x with z := false } else x)).chNext ch
    | (none, s1) =>
      if try_ then (s1.setChan ch { s1.chan ch with z := true }).chNext ch else s1.chWait ch .stallPull

/-- PULL. -/
def execPull (ch : Chan) (dd : BitVec 3) (src : Bool) (s : State) : Out :=
  .next (s.pin ch fun s => s.pullRun ch dd src false)

/-- TPULL. -/
def execTpull (ch : Chan) (dd : BitVec 3) (src : Bool) (s : State) : Out :=
  .next (s.pin ch fun s => s.pullRun ch dd src true)

/-- PUSH: a push by the channel's pool owner; refused, the channel stalls and waits (R216, R217, R252, R560); a disabled
queue sends the item to the slag queue (R203). -/
def State.pushRun (s : State) (ch : Chan) (dd : BitVec 3) (snk fin : Bool) (prio kind : BitVec 4) : State :=
  match s.sinkOf ch snk with
  | none => s.chFault ch peQueueCode
  | some q =>
    let o := ownerChannel ch
    let item := mkItem fin prio kind (senderChannel ch) (s.pinReg ch dd)
    if (s.quad (quadrantOf q)).held.any fun h => h.owner == o then s.chWait ch .stallPush
    else match s.push q item o 0 with
      | (.ok, s1) => (s1.chNext ch).chPushDone ch
      | (.slagged, s1) => (s1.chNext ch).chPushDone ch
      | (.disabled, s1) => ((s1.slagLocal slagPoolFull q item).chNext ch).chPushDone ch
      | (a, s1) => (s1.waitFor q o a).chWait ch .stallPush

/-- PUSH. -/
def execPush (ch : Chan) (dd : BitVec 3) (snk fin : Bool) (prio kind : BitVec 4) (s : State) : Out :=
  .next (s.pin ch fun s => s.pushRun ch dd snk fin prio kind)

/-- TAG: DD := QTAG. -/
def execTag (ch : Chan) (dd : BitVec 3) (s : State) : Out :=
  .next (s.pin ch fun s => s.pinSet ch dd (s.chan ch).qtag)

/-! ## Bit unit (R262 to R264) -/

/-- The n low bits of a word in sending order. -/
def sendBits (w : Word) (n : Nat) (lsbf : Bool) : List Bool :=
  let up := (List.range n).map fun i => w.getLsbD i
  if lsbf then up else up.reverse

/-- Received bits as a right-aligned word: the first bit most significant unless LSBF. -/
def gatherBits (l : List Bool) (lsbf : Bool) : Word :=
  let m := if lsbf then l.reverse else l
  m.foldl (fun w b => w * 2 + (if b then 1 else 0)) 0

/-- SHTX: queue n bits of DS; waits while both transmit words are held. -/
def State.shtxRun (s : State) (ch : Chan) (ds : BitVec 3) (n : BitVec 6) : State :=
  if n = 0 || decide (32 < n.toNat) then s.chFault ch peIllegalCode
  else if !s.chBit F.peBitcfg_TXEN ch then s.chFault ch peBitunitCode
  else
    let x := s.chan ch
    if 2 ≤ x.bu.tx.length then s.chWait ch .wait
    else
      let bits := sendBits (s.pinReg ch ds) n.toNat (s.chBit F.peBitcfg_LSBF ch)
      (s.setChan ch { x with bu := { x.bu with tx := x.bu.tx ++ [bits] } }).chNext ch

/-- SHTX. -/
def execShtx (ch : Chan) (ds : BitVec 3) (n : BitVec 6) (s : State) : Out := .next (s.pin ch fun s => s.shtxRun ch ds n)

/-- SHRX: DD := the next n received bits; waits until they are held. -/
def State.shrxRun (s : State) (ch : Chan) (dd : BitVec 3) (n : BitVec 6) : State :=
  if n = 0 || decide (32 < n.toNat) then s.chFault ch peIllegalCode
  else if !s.chBit F.peBitcfg_RXEN ch then s.chFault ch peBitunitCode
  else
    let x := s.chan ch
    if x.bu.rx.length < n.toNat then s.chWait ch .wait
    else
      let v := gatherBits (x.bu.rx.take n.toNat) (s.chBit F.peBitcfg_LSBF ch)
      (s.setChan ch { x with bu := { x.bu with rx := x.bu.rx.drop n.toNat } }).pinSet ch dd v

/-- SHRX. -/
def execShrx (ch : Chan) (dd : BitVec 3) (n : BitVec 6) (s : State) : Out := .next (s.pin ch fun s => s.shrxRun ch dd n)

/-! ## Assist functions (R250) -/

/-- CRCI: both CRC registers take their INIT values, the stuff count 0. -/
def execCrci (ch : Chan) (lane : BitVec 2) (s : State) : Out :=
  .next (s.pin ch fun s => s.pinLane ch lane fun s p =>
    (s.setPort p { s.port p with
      crcA := crcInit (s.fld F.peCrccfg_WIDTHA p.toNat) (s.reg .peCrcia p.toNat)
      crcB := crcInit (s.fld F.peCrccfg_WIDTHB p.toNat) (s.reg .peCrcib p.toNat)
      stuffCnt := 0 }).chNext ch)

/-- RDCA: DD := CRC A. -/
def execRdca (ch : Chan) (dd : BitVec 3) (lane : BitVec 2) (s : State) : Out :=
  .next (s.pin ch fun s => s.pinLane ch lane fun s p => s.pinSet ch dd (s.port p).crcA)

/-- RDCB: DD := CRC B. -/
def execRdcb (ch : Chan) (dd : BitVec 3) (lane : BitVec 2) (s : State) : Out :=
  .next (s.pin ch fun s => s.pinLane ch lane fun s p => s.pinSet ch dd (s.port p).crcB)

/-- STMODE: STUFF.MODE and STUFF.N from the next bit boundary. -/
def execStmode (ch : Chan) (lane mode : BitVec 2) (n : BitVec 4) (s : State) : Out :=
  .next (s.pin ch fun s => s.pinLane ch lane fun s _ =>
    let x := s.chan ch
    (s.setChan ch { x with bu := { x.bu with stNext := x.bu.stNext ++ [(lane, mode, n)] } }).chNext ch)

/-- STCNT: DD := dynamic stuff bits since CRCI, modulo 8. -/
def execStcnt (ch : Chan) (dd : BitVec 3) (lane : BitVec 2) (s : State) : Out :=
  .next (s.pin ch fun s => s.pinLane ch lane fun s p => s.pinSet ch dd ((s.port p).stuffCnt.setWidth 32))

/-- BSET: the active timing set from the next bit boundary. -/
def execBset (ch : Chan) (setB : Bool) (s : State) : Out :=
  .next (s.pin ch fun s =>
    let x := s.chan ch
    (s.setChan ch { x with bu := { x.bu with setNext := some setB } }).chNext ch)

/-- BEN: BITCFG.EN := IMM[0]. -/
def execBen (ch : Chan) (en : Bool) (s : State) : Out :=
  .next (s.pin ch fun s => (s.bitEnable ch en).chNext ch)

/-- HSYNC: arm hard sync on the next edge of a kind on the receive lane. -/
def execHsync (ch : Chan) (kind : BitVec 2) (s : State) : Out :=
  .next (s.pin ch fun s =>
    let x := s.chan ch
    (s.setChan ch { x with bu := { x.bu with hsArm := kind, hsKind := kind } }).chNext ch)

/-- The bit unit's status word (R264). -/
def BitUnit.status (b : BitUnit) : Word :=
  (0 : BitVec 16) ++ b.resync ++ (0 : BitVec 4) ++ BitVec.ofBool b.synced ++ BitVec.ofBool b.overrun ++
    BitVec.ofBool b.underrun ++ BitVec.ofBool b.stuffErr

/-- BSTAT: DD := the status word, which then clears. -/
def execBstat (ch : Chan) (dd : BitVec 3) (s : State) : Out :=
  .next (s.pin ch fun s =>
    let x := s.chan ch
    (s.setChan ch { x with bu := { x.bu with stuffErr := false, underrun := false, overrun := false, synced := false
                                             resync := 0 } }).pinSet ch dd x.bu.status)

/-- TSCLR: empty the port's timestamp queue. -/
def execTsclr (ch : Chan) (lane : BitVec 2) (s : State) : Out :=
  .next (s.pin ch fun s => s.pinLane ch lane fun s p => (s.setPort p { s.port p with ts := [] }).chNext ch)

/-! ## Events, wrap and the end -/

/-- EVT: pulse the channel's event-matrix source. -/
def execEvt (ch : Chan) (s : State) : Out := .next (s.pin ch fun s => (s.pulse (0x600 + ch.toNat)).chNext ch)

/-- WRAP: WRAPB := DS[9:0], WRAPT := IMM[9:0], in force for its own next PC (R246). -/
def execWrap (ch : Chan) (ds : BitVec 3) (top : BitVec 10) (s : State) : Out :=
  .next (s.pin ch fun s =>
    ((s.setChFld F.peWrap_WRAPB (bitsOf (s.pinReg ch ds) 0 10) ch).setChFld F.peWrap_WRAPT top.toNat ch).chNext ch)

/-- HALT: the channel becomes HALTED; ports keep their levels; a report when CCFG.HNOTE (R248, R273). The PC stays at
HALT. Log entry 68 (DESIGN CHOICE). -/
def execPeHalt (ch : Chan) (s : State) : Out :=
  .next (s.pin ch fun s =>
    let s1 := s.setChan ch { s.chan ch with st := .halted }
    if s1.chBit F.peCcfg_HNOTE ch then s1.report ch 0 2 else s1)

/-- PE_ILLEGAL: the channel fetches an illegal word and faults (R251); a legal word is none. Log entry 19 (DEDUCED). -/
def execPeIllegal (ch : Chan) (w : Word) (s : State) : Out :=
  .next (if pinWordOk w then s else s.pin ch fun s => s.chFault ch peIllegalCode)

end Sys2Proof.Machine
end

