-- ==== Sys2Proof/Machine/PinEvents.lean ====
section
/-!
DEFINITION. What happens at the pins (R257 to R269): edges with their timestamps and synchronisation, readback, staged
actions due, vote windows, and the bit unit at its boundaries and sample points.
-/

namespace Sys2Proof.Machine

/-! ## Edges (R258, R263) -/

/-- A change of the kind that EDGES selects is stamped with TB0 of the cycle in which it reached the port, two cycles
before the synchroniser shows it. Log entry 36 (DEDUCED). -/
def State.stampEdge (s : State) (p : Port) (rising : Bool) : State :=
  let e := s.fld F.peTscfg_EDGES p.toNat
  if e = 3 || (e = 1 && !rising) || (e = 2 && rising) then
    let x := s.port p
    if 4 ≤ x.ts.length then s.raise F.peTscfg_OVF p.toNat
    else
      let back := s.tbSum - (s.reg .tbT0inc).setWidth 80 - (s.reg .tbT0inc).setWidth 80
      s.setPort p { x with ts := x.ts ++ [⟨rising, back.extractLsb' 16 48⟩] }
  else s

/-- An edge is of kind k: 1 falling, 2 rising, 3 either. -/
def edgeIs (k : BitVec 2) (rising : Bool) : Bool := k == 3 || (k == 1 && !rising) || (k == 2 && rising)

/-- PERIOD and FRAC of the active set as 1/256 cycles, and its sample point. -/
def State.bitTiming (s : State) (ch : Chan) : Nat × Nat :=
  if (s.chan ch).bu.setB then
    (256 * (s.chFld F.peBitpb_PERIOD ch) + s.chFld F.peBitpb_FRAC ch, s.chFld F.peBitsb_SP ch)
  else (256 * (s.chFld F.peBitpa_PERIOD ch) + s.chFld F.peBitpa_FRAC ch, s.chFld F.peBitsa_SP ch)

/-- SJW of the active set in cycles: floor(PERIOD * SJWF / 256), PERIOD with its fraction (R262). -/
def State.bitSjw (s : State) (ch : Chan) : Nat :=
  (s.bitTiming ch).1 *
    (if (s.chan ch).bu.setB then s.chFld F.peBitsb_SJWF ch else s.chFld F.peBitsa_SJWF ch) / 65536

/-- The phase error of an edge at cycle c against the running bit, from minus to plus half of PERIOD, limited to SJW;
PERIOD in 1/256 cycles, and a bit of `len` cycles (R263). -/
def phaseShift (period sjw start len c : Nat) : Int :=
  let d : Int := (c : Int) - start
  let e := if (period : Int) < 512 * d then d - len else d
  max (-(sjw : Int)) (min sjw e)

/-- Synchronisation of a running bit unit by an edge on its receive lane (R263). -/
def State.syncEdge (s : State) (ch : Chan) (rising : Bool) : State :=
  let x := s.chan ch
  let b := x.bu
  let mode := s.chFld F.peBitcfg_SYNC ch
  if !s.chBit F.peBitcfg_EN ch || mode = 0 then s
  else if b.hsArm ≠ 0 && edgeIs b.hsArm rising then
    s.setChan ch { x with bu := { b with
      hsArm := 0, synced := true, aligned := true, syncNow := true, nextAt := some (s.cycle - 2), bits := 0, sampled := true } }
  else if mode = 2 && b.aligned && !b.syncNow && !b.hadSync && b.hsArm = 0 && edgeIs b.hsKind rising then
    match b.nextAt with
    | none => s
    | some n =>
      let e := phaseShift (s.bitTiming ch).1 (s.bitSjw ch) b.bitStart (n - b.bitStart) (s.cycle - 2)
      s.setChan ch { x with bu := { b with
        bitStart := ((b.bitStart : Int) + e).toNat, nextAt := some ((n : Int) + e).toNat, resync := b.resync + 1 } }
  else s

/-- A synchronised change of a port's input; a retained pin group takes note of the level alone (R401). -/
def State.edge (s : State) (p : Port) (level : Bool) : State :=
  let x := s.port p
  if x.inp = level then s
  else
    let r := s.resolved p
    let s1 := s.setPort p { x with inp := level, hist := recordPin x.hist ⟨s.cycle, r.1, r.2, level⟩ }
    if !s1.groupUp p then s1
    else
      let s2 := (s1.stampEdge p level).pulse (if level then p.toNat else 0x200 + p.toNat)
      match s2.binder p with
      | none => s2
      | some ch => if s2.laneOf ch (s2.chFld F.peBitcfg_RXL ch) = some p then s2.syncEdge ch level else s2

/-- PORT_EDGE (R258): the synchronised input of a port changes. -/
def execPortEdge (p : Port) (level : Bool) (s : State) : Out := .next (s.edge p level)

/-! ## Readback (R261) -/

/-- The input that readback compares: the port's own, or that of lane XL of its channel; none where that is unbound. -/
def State.readbackInput (s : State) (p : Port) : Option Bool :=
  if s.bit F.peRbk_XEN p.toNat then
    match s.binder p with
    | none => none
    | some ch => (s.laneOf ch (s.fld F.peRbk_XL p.toNat)).map fun q => (s.port q).inp
  else some (s.port p).inp

/-- The comparison of one cycle: a mismatch lengthens the run, a non-mismatch ends it and re-arms the event, a skipped
cycle changes nothing; in mode ACTIVE an inactive output with an active input sets DIFF.  A run that stands when RBK.MODE is
written OFF is kept, and MISM with it, until a later comparison ends it: log entry 75 (DESIGN CHOICE). -/
def State.readbackPort (s : State) (p : Port) : State :=
  let x := s.port p
  let m := s.fld F.peRbk_MODE p.toNat
  let dly := s.fld F.peRbk_DLY p.toNat
  if m = 0 || decide (s.cycle < dly) || !s.groupUp p then s
  else
    let then_ := s.sample p (s.cycle - dly)
    match s.readbackInput p with
    | none => s
    | some i =>
      if !then_.oe then s
      else
        let act := s.bit F.peRbk_ACTLVL p.toNat
        let differs := then_.out != i
        let diffCycle := m = 2 && then_.out != act && i == act
        if differs && !(decide diffCycle) then s.setPort p { x with rbRun := x.rbRun + 1 }
        else s.setPort p { x with rbRun := 0, rbFired := false, diff := x.diff || decide diffCycle }

/-- Readback of every port that has it on, for one cycle. -/
def State.readbackAll (s : State) : State :=
  (smKeepRange s.regs 0x120000 0x128000).foldl (fun s kv =>
    if kv.1 % 64 = 8 then s.readbackPort (BitVec.ofNat 9 ((kv.1 - 0x120000) / 64)) else s) s

/-- READBACK_MISMATCH (R261): a run of FILT mismatch cycles raises one event at the fault site. -/
def execReadbackMismatch (p : Port) (s : State) : Out :=
  .next (
    let x := s.port p
    let filt := s.fld F.peRbk_FILT p.toNat
    if s.groupUp p && s.fld F.peRbk_MODE p.toNat ≠ 0 && decide (0 < filt) && decide (filt ≤ x.rbRun) && !x.rbFired then
      (s.setPort p { x with rbFired := true }).detect 3 p.toNat
    else s)

/-! ## Staged actions and votes -/

/-- STAGED_ACTION_DUE (R265): the channel's executor performs what is due in this cycle. -/
def execStagedActionDue (ch : Chan) (s : State) : Out := .next (if s.groupUp ch then s.runDue ch else s)

/-- VOTE_WINDOW_EXPIRY (R269). -/
def execVoteWindowExpiry (ch : Chan) (s : State) : Out := .next (if s.groupUp ch then s.expireVotes ch else s)

/-! ## The bit unit (R259, R260, R262, R264) -/

/-- Mode changes and the timing set that waited for the boundary take effect; an equal-bit run restarts (R250, R260). -/
def State.boundaryChanges (s : State) (ch : Chan) : State :=
  let x := s.chan ch
  let set := fun (s : State) (c : BitVec 2 × BitVec 2 × BitVec 4) =>
    match s.laneOf ch c.1.toNat with
    | none => s
    | some p =>
      if c.2.1 = 3 || decide (c.2.2.toNat < 2) then s
      else (s.setFld F.peStuff_MODE c.2.1.toNat p.toNat).setFld F.peStuff_N c.2.2.toNat p.toNat
  let s1 := x.bu.stNext.foldl set s
  let hits := fun (l : Nat) => x.bu.stNext.any fun c => c.1.toNat == l
  let b := { x.bu with stNext := []
                       txRun := if hits (s.chFld F.peBitcfg_TXL ch) then 0 else x.bu.txRun
                       rxRun := if hits (s.chFld F.peBitcfg_RXL ch) then 0 else x.bu.rxRun }
  match x.bu.setNext with
  | none => s1.setChan ch { s1.chan ch with bu := b }
  | some v => s1.setChan ch { s1.chan ch with bu := { b with setB := v, setNext := none, bits := 0 } }

/-- The next data bit to send, with what remains. -/
def nextTxBit : List (List Bool) → Option (Bool × List (List Bool))
  | [] => none
  | [] :: r => nextTxBit r
  | (b :: w) :: r => some (b, if w.isEmpty then r else w :: r)

/-- A line bit leaves on the transmit lane: the port's level, its CRC and the run of bits. -/
def State.sendLine (s : State) (ch : Chan) (p : Port) (bit stuffed : Bool) : State :=
  let lane := s.chFld F.peBitcfg_TXL ch
  let mode := (s.stuffOf p).1
  let x := s.chan ch
  let s1 := s.setChan ch { x with bu := { x.bu with txRun := runAfter mode x.bu.txRun x.bu.txLast bit stuffed, txLast := bit } }
  let s2 := s1.writeLane ch lane 5 bit (s1.port p).oe s1.cycle
  let s3 := if stuffed && !s2.bit F.peStuff_CRCPOS p.toNat then s2 else s2.crcFeed p bit
  if stuffed && mode = 1 then s3.setPort p { s3.port p with stuffCnt := (s3.port p).stuffCnt + 1 } else s3

/-- The bit sent at a boundary: a stuff bit when one is due, otherwise the next queued data bit; with none, UNDERRUN. -/
def State.sendBoundary (s : State) (ch : Chan) : State :=
  if !s.chBit F.peBitcfg_TXEN ch then s
  else match s.laneOf ch (s.chFld F.peBitcfg_TXL ch) with
    | none => s
    | some p =>
      let b := (s.chan ch).bu
      let st := s.stuffOf p
      if stuffDue st.1 st.2 b.txRun then s.sendLine ch p (!b.txLast) true
      else match nextTxBit b.tx with
        | some (bit, rest) =>
          (s.setChan ch { s.chan ch with bu := { b with tx := rest } }).sendLine ch p bit false
        | none => s.setChan ch { s.chan ch with bu := { b with underrun := true } }

/-- A bit boundary: the running bit ends, the next begins, and its end is fixed so that n bits last floor(n × PERIOD). -/
def State.boundary (s : State) (ch : Chan) : State :=
  match (s.chan ch).bu.nextAt with
  | none => s
  | some n =>
    if s.cycle < n then s
    else
      let s1 := s.boundaryChanges ch
      let x := s1.chan ch
      let per := (s1.bitTiming ch).1
      let k := x.bu.bits + 1
      let len := k * per / 256 - (k - 1) * per / 256
      let s2 := s1.setChan ch { x with bu := { x.bu with
        bitStart := n, bits := k, nextAt := some (n + len), sampled := false, hadSync := x.bu.syncNow, syncNow := false } }
      s2.sendBoundary ch

/-- BIT_BOUNDARY (R264). -/
def execBitBoundary (ch : Chan) (s : State) : Out :=
  .next (if s.groupUp ch && s.chBit F.peBitcfg_EN ch then s.boundary ch else s)

/-- A data bit enters the receive buffer of 64, or is dropped with OVERRUN. -/
def receiveBit (b : BitUnit) (bit : Bool) : BitUnit :=
  if 64 ≤ b.rx.length then { b with overrun := true } else { b with rx := b.rx ++ [bit] }

/-- A level on the receive lane at its sample point: destuffing, CRC and the receive buffer.  A wrong stuff bit sets
STUFFERR and is dropped as a stuff bit, and in RUN mode counted as one: log entry 75 (DESIGN CHOICE). -/
def State.receiveLevel (s : State) (ch : Chan) (p : Port) (bit : Bool) : State :=
  let x := s.chan ch
  let b := x.bu
  let st := s.stuffOf p
  let stuffed := stuffDue st.1 st.2 b.rxRun
  let wrong := stuffed && bit == b.rxLast
  let b1 := { b with sampled := true, rxRun := runAfter st.1 b.rxRun b.rxLast bit stuffed, rxLast := bit
                     stuffErr := b.stuffErr || wrong }
  let s1 := s.setChan ch { x with bu := if stuffed then b1 else receiveBit b1 bit }
  let s2 := if stuffed && !s1.bit F.peStuff_CRCPOS p.toNat then s1 else s1.crcFeed p bit
  if stuffed && st.1 = 1 then s2.setPort p { s2.port p with stuffCnt := (s2.port p).stuffCnt + 1 } else s2

/-- The receive lane at its sample point. -/
def State.receive (s : State) (ch : Chan) (p : Port) : State := s.receiveLevel ch p (s.delivered p)

/-- BIT_SAMPLE_POINT (R264). -/
def execBitSamplePoint (ch : Chan) (s : State) : Out :=
  .next (
    let b := (s.chan ch).bu
    if s.groupUp ch && s.chBit F.peBitcfg_EN ch && b.nextAt.isSome && !b.sampled &&
        decide (b.bitStart + (s.bitTiming ch).2 ≤ s.cycle) then
      match s.chBit F.peBitcfg_RXEN ch, s.laneOf ch (s.chFld F.peBitcfg_RXL ch) with
      | true, some p => s.receive ch p
      | _, _ => s.setChan ch { s.chan ch with bu := { b with sampled := true } }
    else s)

end Sys2Proof.Machine
end

