-- ==== Sys2Proof/Machine/CoreControl.lean ====
section
/-!
DEFINITION. Core machinery that masters command (R30 to R37, R49 to R53, R59 to R66): slot tables and their copy,
prediction modes, built-in test, and the issue counters.
-/

namespace Sys2Proof.Machine

/-! ## Slot tables (R35, R59, R60) -/

/-- A slot entry byte with nothing set that must be written 0 (R60). -/
def slotByteOk (b : Nat) : Bool := bitsOf (BitVec.ofNat 32 b) 4 3 == 0 && (b < 128 || b % 16 == 0)

def slotWordOk (v : Word) : Bool := [0, 1, 2, 3].all fun i => slotByteOk (bitsOf v (8 * i) 8)

/-- The power domain of a core (R399): its hearth's. -/
def coreDomain (c : CoreId) : Nat := (hearthOfCore c).toNat

/-- A write of SLT.TAB word wi; the boot unit's record writes the active entry as well and leaves DIRTY. -/
def State.wrSltTab (s : State) (w : Writer) (c : CoreId) (wi : Nat) (v : Word) : State :=
  if !overCore w c then s.authorityFault w
  else if !slotWordOk v then s
  else
    let s1 := s.setReg .sltTab v c.toNat wi
    match w with
    | .boot => (s1.setReg .sltAct v c.toNat wi).setCore c { s1.core c with loaded := true }
    | _ => (s1.setCore c { s1.core c with wrote := true }).setFld F.sltCtl_DIRTY 1 c.toNat

/-- A write of SLT.CTL: COMMIT requests the copy (R35); NOSPEC applies, and reads as written, from the next frame boundary
(R62). Log entry 62 (DESIGN CHOICE). -/
def State.wrSltCtl (s : State) (w : Writer) (c : CoreId) (v : Word) : State :=
  if !overCore w c then s.authorityFault w
  else match w with
    | .boot => s.setFld F.sltCtl_NOSPEC (F.sltCtl_NOSPEC.get v) c.toNat
    | _ =>
      let x := s.core c
      let x1 := { x with nospecNext := some (F.sltCtl_NOSPEC.get v == 1) }
      if F.sltCtl_COMMIT.get v = 0 || x.commitAt.isSome then s.setCore c x1
      else (s.setCore c { x1 with commitAt := some s.cycle }).setFld F.sltCtl_PEND 1 c.toNat

/-- The words of a core's pending table. -/
def State.pendingTable (s : State) (c : CoreId) : List Word := (List.range 8).map fun w => s.reg .sltTab c.toNat w

/-- At its frame boundary a commit's copy falls due: it takes the pending table as it stands at the end of the cycle
before (R35). -/
def State.snapTable (s : State) (c : CoreId) : State :=
  let x := s.core c
  match x.commitAt with
  | none => s
  | some g =>
    if s.cycle < boundaryAfter g 32 then s
    else s.setCore c { x with commitAt := none, snap := some (s.pendingTable c), wrote := false, snapAt := s.cycle }

/-- The copy that fell due is made; DIRTY stays for a later write and PEND for a later commit. -/
def State.copyTable (s : State) (c : CoreId) : State :=
  let x := s.core c
  match x.snap with
  | none => s
  | some ws =>
    let s1 := (List.range 8).foldl (fun s w => s.setReg .sltAct (ws.getD w 0) c.toNat w) s
    ((s1.setCore c { x with snap := none, loaded := true }).setFld F.sltCtl_PEND x.commitAt.isSome.toNat c.toNat).setFld
      F.sltCtl_DIRTY x.wrote.toNat c.toNat

/-- Entry n of a core's active table, as its byte. -/
def State.slotEntry (s : State) (c : CoreId) (n : Nat) : Nat := bitsOf (s.reg .sltAct c.toNat (n / 4)) (8 * (n % 4)) 8

/-- Entry n names thread i. -/
def State.slotNames (s : State) (c : CoreId) (i n : Nat) : Bool := s.slotEntry c n == i

/-- Thread i of core c is speculation-capable (R53); no entry of a table that has not been loaded names a thread (R8, R64).
Log entry 73 (DEDUCED). -/
def State.specCapable (s : State) (c : CoreId) (i : Nat) : Bool :=
  (s.core c).loaded && !s.bit F.sltCtl_NOSPEC c.toNat &&
    (List.range 32).any fun n => s.slotNames c i n && s.slotNames c i ((n + 1) % 32)

/-- SLT_TAB_WRITE (R35). -/
def execSltTabWrite (w : Writer) (c : CoreId) (wi : BitVec 3) (v : Word) (s : State) : Out :=
  .next (s.access w fun s =>
    s.regAtDomain (coreDomain c) (.write w (regOff .sltTab c.toNat wi.toNat) v) fun s => s.wrSltTab w c wi.toNat v)

/-- SLT_COMMIT (R35): COMMIT written with NOSPEC as it stands. -/
def execSltCommit (w : Writer) (c : CoreId) (s : State) : Out :=
  let keep := match (s.core c).nospecNext with
    | some b => b
    | none => s.bit F.sltCtl_NOSPEC c.toNat
  let v := F.sltCtl_NOSPEC.put 1 keep.toNat
  .next (s.access w fun s => s.regAtDomain (coreDomain c) (.write w (regOff .sltCtl c.toNat 0) v) fun s => s.wrSltCtl w c v)

/-- SLOT_TABLE_COPY (R35). -/
def execSlotTableCopy (c : CoreId) (s : State) : Out := .next (s.copyTable c)

/-! ## Prediction modes (R49) -/

/-- Enter a mode that invalidates the dynamic table. -/
def State.enterMode (s : State) (c : CoreId) (m : PredMode) : State :=
  s.setCore c { s.core c with mode := m, table := [] }

/-- A write of SLT.PRED (R63): OFF, and LEAVE in RECOVERY, which a record does not write (R49, R473). -/
def State.wrSltPred (s : State) (w : Writer) (c : CoreId) (v : Word) : State :=
  if !overCore w c then s.authorityFault w
  else
    let s1 := s.setFld F.sltPred_OFF (F.sltPred_OFF.get v) c.toNat
    if F.sltPred_LEAVE.get v = 1 && (s1.core c).mode == .recovery && w != .boot then s1.setCore c { s1.core c with mode := .service }
    else s1

/-- PRED_LEAVE (R49): LEAVE written with OFF as it stands. -/
def execPredLeave (w : Writer) (c : CoreId) (s : State) : Out :=
  let v := F.sltPred_LEAVE.put (s.reg .sltPred c.toNat) 1
  .next (s.access w fun s => s.regAtDomain (coreDomain c) (.write w (regOff .sltPred c.toNat 0) v) fun s => s.wrSltPred w c v)

/-- BUILT_IN_TEST (R49): TEST while it runs, and the mode held before when it ends; entering STARTUP or RECOVERY again
invalidates the table as well.  A test that began in STARTUP and ends after the seal ends in SERVICE (`endStartup`).
Log entry 62 (DESIGN CHOICE). -/
def State.builtIn (s : State) (c : CoreId) (start : Bool) : State :=
  let x := s.core c
  if start then
    if x.mode = .test then s else s.setCore c { x with mode := .test, modeBefore := x.mode, table := [] }
  else if x.mode = .test then
    s.setCore c { x with mode := x.modeBefore, table := if x.modeBefore = .service then x.table else [] }
  else s

def execBuiltInTest (c : CoreId) (start : Bool) (s : State) : Out := .next (s.builtIn c start)

/-! ## Counters (R65, R66) -/

/-- IDLECNT_READ (R65). -/
def execIdlecntRead (c : CoreId) (s : State) : Out := .next (s.readStored .sltIdlecnt c.toNat 0)

/-- SQCNT_READ (R66). -/
def execSqcntRead (c : CoreId) (s : State) : Out := .next (s.readStored .sltSqcnt c.toNat 0)

end Sys2Proof.Machine
end

