-- ==== Sys2Proof/Machine/ThreadOps.lean ====
section
/-!
DEFINITION. Shared operations of threads (R45 to R47, R122 to R128, R137 to R144): retiring an instruction, sleeping and
waking, stopping, lock words and inheritance.
-/

namespace Sys2Proof.Machine

/-! ## Progress (R46, R47) -/

/-- The instruction at PC is done: PC moves on, out of a delay slot to the branch's outcome. -/
def Thread.retire (th : Thread) : Thread :=
  match th.slot with
  | some d => { th with pc := if d.taken then d.target else d.next, slot := none, slotSlept := false }
  | none => { th with pc := th.pc + 4 }

/-- UNRELEASED, STOPPED, HALTED or FAULTED: a state in which the master may set the thread up (R124). -/
def ThreadState.settled (x : ThreadState) : Bool :=
  x == .unreleased || x == .stopped || x == .halted || x == .faulted

/-- Released and not yet ended: RUNNING, asleep or STOPPING. -/
def ThreadState.live (x : ThreadState) : Bool := !x.settled

/-! ## Sleeping and waking -/

/-- Thread t falls asleep with PC at its instruction; while it is STOPPING the sleep is cancelled at once, and the
instruction executes again on release (R126). -/
def State.putToSleep (s : State) (t : Tid) (st : ThreadState) (why : Sleep) : State :=
  let s1 := s.bump
  let th := s1.thr t
  if th.st == .stopping then s1.setThr t { th with slotSlept := th.slot.isSome }
  else s1.setThr t { th with st := st, sleep := why, sleepSeq := s1.seq }

/-- Everything a sleeper registered is withdrawn: its watch, its place among the waiters and wake notices on their way. -/
def State.dropSleep (s : State) (t : Tid) : State :=
  let f := fun (_ : Nat) (q : Queue) => { q with notices := q.notices.filter fun n => n != t }
  let s1 := { s with watches := s.watches.filter (fun w => w.t != t), heldWakes := s.heldWakes.filter fun u => u != t, queues := smMap {} s.queues f }
  s1.dropWaiter (ownerThread t)

/-- Thread t sleeps in STW or STWE for the reason its push was refused with (R86, R216, R217, R560). -/
def State.pushSleep (s : State) (t : Tid) (q : Qid) (a : PushAns) : State :=
  let s1 := if (s.thr t).st == .stopping then s else s.waitFor q (ownerThread t) a
  match a with
  | .full => s1.putToSleep t .sleepQueue (.pushDepth q)
  | .poolFull => s1.putToSleep t .sleepQueue (.pushPool (quadrantOf q))
  | _ => s1.putToSleep t .sleepQueue (.pushOver (quadrantOf q))

/-- The queue status code of a push's answer (R87). -/
def PushAns.code : PushAns → BitVec 4
  | .full => 2
  | .disabled => 2
  | .poolFull => 3
  | .over => 4
  | _ => 0

/-- MSYNC of thread t must see its last mirrored write or push acknowledged (R190, R434). -/
def State.coverMirror (s : State) (t : Tid) : State :=
  if s.pairing then s.setThr t { s.thr t with mseq := some s.mirror.sent.toNat } else s

/-- The same after an accepted push to queue q. -/
def State.coverPush (s : State) (t : Tid) (q : Qid) (a : PushAns) : State :=
  if a == .ok && s.bit F.qeQcfg_MIRRORED q.toNat then s.coverMirror t else s

/-- A push that was held at its port is answered: the far access completes, or an STW sleeps. -/
def State.pushAnswered (s : State) (t : Tid) (q : Qid) (a : PushAns) : State :=
  let th := s.thr t
  let mine := fun (e : FarEntry) => (match e.op with | .queuePush _ => true | _ => false) && e.resp.isNone
  match th.far.find? mine with
  | none => s
  | some e =>
    if e.blocking && (a == .full || a == .poolFull || a == .over) then
      (s.setThr t { th with far := th.far.erase e }).pushSleep t q a
    else
      let f := fun (x : FarEntry) => if x = e then { x with resp := some (.pushed a.code) } else x
      (s.setThr t { th with far := th.far.map f }).coverPush t q a

/-! ## Release and stop (R125, R126, R147, R429) -/

/-- The thread's release is held: a shadow thread in a role other than PRIMARY and ALONE (R429). -/
def State.shadowHeld (s : State) (t : Tid) : Bool :=
  (s.fld F.mirShd_THREADS (coreOf t).toNat).testBit (t.toNat % 16) && s.mirror.role != .primary && s.mirror.role != .alone

/-- Core c is retired (R390). -/
def State.coreRetired (s : State) (c : CoreId) : Bool :=
  (s.fld F.belHstat_RETIRED (hearthOfCore c).toNat).testBit (c.toNat % 4)

/-- Pin group h is orphaned no longer: a master of its hearth is released again (R272). Log entry 75 (DESIGN CHOICE). -/
def State.masterBack (s : State) (t : Tid) : State :=
  if t = masterOf (coreOf t) then { s with faults := { s.faults with hearths := s.faults.hearths.filter fun y => y != hearthOf t } }
  else s

/-- The thread becomes RUNNING at THR.PC with no revocation records (R125, R147). -/
def State.startThread (s0 : State) (t : Tid) : State :=
  let s := s0.masterBack t
  s.setThr t { s.thr t with st := .running, sleep := .awake, revoked := [], relPend := false, runAhead := []
                            pendFault := none, halting := none, far := [], slotSlept := false, fence := none }

/-- The first release of a thread: the pair's generator starts, and a block of a pair is JOINING (R430, R437).
Log entry 41 (DEDUCED). -/
def State.beginPair (s : State) : State :=
  let m := s.mirror
  if m.begun then s
  else
    let m1 := { m with begun := true, lastHbSent := s.ns, lastKick := s.ns, joinAt := s.ns, heard := false }
    { s with mirror := if s.bit F.mirCfg_EN && m.role == .off then { m1 with role := .joining } else m1 }

/-- RELEASE (R125): threads of a retired core stay stopped (R390), and so does every one while nothing may run.
Log entry 24 (DEDUCED). -/
def State.release (s : State) (t : Tid) : State :=
  if !(s.thr t).st.settled || s.coreRetired (coreOf t) || s.runBarred then s
  else
    let s1 := s.beginPair
    if s1.shadowHeld t then s1.setThr t { s1.thr t with relPend := true } else s1.startThread t

/-- STOP (R126). Log entry 19 (DEDUCED). -/
def State.stopThread (s : State) (t : Tid) : State :=
  let x := (s.thr t).st
  if x == .running then
    let s1 := s.dropClaims (ownerThread t)
    s1.setThr t { s1.thr t with st := .stopping, runAhead := [] }
  else if x.asleep then
    let s1 := s.dropSleep t
    s1.setThr t { s1.thr t with st := .stopping, sleep := .awake, slotSlept := (s1.thr t).slot.isSome }
  else s

/-- A write of THR.CTL (R125, R126): both bits at once and a thread's STOP of itself are ignored. -/
def State.wrThrCtl (s : State) (w : Writer) (t : Tid) (v : Word) : State :=
  if !overCore w (coreOf t) then s.authorityFault w
  else match bitsOf v 0 2 with
    | 1 => s.release t
    | 2 => if w = .thread t then s else s.stopThread t
    | _ => s

/-! ## Readiness (R33) -/

/-- The power domain of the core lets its threads issue (R397, R398). -/
def State.coreUp (s : State) (c : CoreId) : Bool := s.domainUp (coreDomain c)

/-- The thread's next instruction may issue, its own registers apart (R33, R43, R126). Log entry 5 (DESIGN CHOICE). -/
def State.ready (s : State) (t : Tid) : Bool :=
  let th := s.thr t
  (th.st == .running || (th.st == .stopping && th.slot.isSome && !th.slotSlept)) && s.coreUp (coreOf t) &&
    th.pendFault.isNone && th.halting.isNone && th.fence.isNone && !th.far.any (fun e => e.blocking)

/-- Thread t is ready in this cycle, whatever it issues next (R33). Log entry 23 (DESIGN CHOICE). -/
def State.readyNow (s : State) (t : Tid) : Bool := s.ready t && Config.pipelineReady s.cycle t.toNat

/-! ## Roles (R135) -/

/-- The queues whose QCFG is not 0, in the order of their numbers. -/
def State.queuesSet (s : State) : List Qid :=
  (smKeepRange s.regs (regOff .qeQcfg 0 0) (regOff .qeQcfg 16384 0)).filterMap fun kv =>
    (RegKind.qeQcfg.desc.find kv.1).map fun ij => BitVec.ofNat 14 ij.1

/-- The role-checked queues that thread t reads, in the order of their numbers. -/
def State.roleQueues (s : State) (t : Tid) : List Qid :=
  s.queuesSet.filter fun q =>
    s.bit F.qeQcfg_ROLECHK q.toNat && s.fld F.qeQcfg_RKIND q.toNat == 0 && s.fld F.qeQcfg_READER q.toNat == t.toNat

/-- The cycle from which the purge of thread t's queues in cycle e is over: one queue at a time, 8 cycles and one per item
each, after the purges begun before. -/
def State.purgeEnds (s : State) (t : Tid) (e : Nat) : Nat :=
  (s.roleQueues t).foldl (fun n q => n + 8 + (s.queue q).depth) (max e s.purgeFree)

/-- The purge of a reassignment of thread t in cycle e, which holds ROLEBUSY until it is over and 1,024 cycles have passed
(R133, R135). -/
def State.purgeRole (s : State) (t : Tid) (e : Nat) : State :=
  let n := s.purgeEnds t e
  let s1 := (s.roleQueues t).foldl (fun s q => s.purgeQueue q slagFlushed) { s with purgeFree := n }
  s1.setThr t { s1.thr t with roleBusy := some (max n (e + 1024)) }

/-! ## Lock words (R137) and inheritance (R140 to R144) -/

def wordOwned (w : Word) : Bool := w.getLsbD 22
def wordOwner (w : Word) : Tid := w.extractLsb' 23 9

/-- The watch of a thread asleep in WAITEV whose word has not been written since. -/
def State.watchOf (s : State) (t : Tid) : Option Watch := s.watches.find? fun w => w.t == t && !w.woken

/-- The owner a watched word names, if it names one. -/
def State.ownerAt (s : State) (addr : Nat) : Option Tid :=
  let w := memWord s.mem addr
  if wordOwned w then some (wordOwner w) else none

/-- The threads that the chain of a waiter passes, at most n of them. Log entry 25 (DEDUCED). -/
def State.links (s : State) (addr : Nat) : Nat → List Tid
  | 0 => []
  | n + 1 =>
    match s.ownerAt addr with
    | none => []
    | some o => o :: (match s.watchOf o with | none => [] | some w => s.links w.addr n)

/-- Thread o holds a raise by a waiter of effective priority p. -/
def State.holdRaise (s : State) (o waiter : Tid) (p : BitVec 4) : State :=
  s.setThr o { s.thr o with raises := ((s.thr o).raises.filter fun r => r.1 != waiter) ++ [(waiter, p)] }

/-- Thread o takes a raise from a waiter of effective priority p above its own (R140); the notice wakes the hearth of o and
waits until that is ON (R399). -/
def State.raiseBy (s : State) (o waiter : Tid) (p : BitVec 4) : State :=
  if (s.thr o).effective < p then
    let s1 := s.wakeDomain (coreDomain (coreOf o))
    if (s1.dom (coreDomain (coreOf o))).st = .on then s1.holdRaise o waiter p
    else { s1 with heldRaises := (s1.heldRaises.filter fun r => !(r.1 == o && r.2.1 == waiter)) ++ [(o, waiter, p)] }
  else s

/-- The chain of a waiter still reaches thread t. -/
def State.reaches (s : State) (waiter t : Tid) : Bool :=
  match s.watchOf waiter with
  | none => false
  | some w => (s.links w.addr 4).contains t

/-- Raise notices whose hearth is ON by now are delivered, where the waiter's chain still reaches the thread. -/
def State.deliverRaises (s : State) : State :=
  s.heldRaises.foldl (fun s r =>
    if (s.dom (coreDomain (coreOf r.1))).st ≠ .on then { s with heldRaises := s.heldRaises ++ [r] }
    else if s.reaches r.2.1 r.1 then s.holdRaise r.1 r.2.1 r.2.2 else s) { s with heldRaises := [] }

/-- A notice of the tongs to the block supervisor about a waiter (R129). -/
def State.tongsNotice (s : State) (waiter : Tid) (kind : BitVec 4) (addr : Nat) : State :=
  s.notice (.thread waiter) (s.faultQueue 0) (mkItem true 15 kind (senderThread waiter) (BitVec.ofNat 32 addr))

/-- Walk the chain of a waiter of effective priority p from the word `addr`; n links are still allowed (R140, R141, R144);
a chain whose fifth link is the waiter is a DEADLOCK alone. Log entries 25 (DEDUCED), 74 (DESIGN CHOICE).  A notice that
is dropped at once counts in LCK.CNT as sent, which R161 does not say: log entry 75 (DESIGN CHOICE). -/
def State.walk (s : State) (waiter : Tid) (p : BitVec 4) (start addr : Nat) : Nat → State
  | 0 =>
    match s.ownerAt addr with
    | none => s
    | some o =>
      if o = waiter then (s.tongsNotice waiter 4 addr).satAdd F.lckCnt_DEADLK 1
      else (s.tongsNotice waiter 3 start).satAdd F.lckCnt_DEPTH 1
  | n + 1 =>
    match s.ownerAt addr with
    | none => s
    | some o =>
      if o = waiter then (s.tongsNotice waiter 4 addr).satAdd F.lckCnt_DEADLK 1
      else
        let s1 := s.raiseBy o waiter p
        if (s1.thr o).st.settled then
          s1.notice (.thread o) (s1.faultQueue (coreOf o).toNat)
            (mkItem true 15 5 (senderThread o) (BitVec.ofNat 32 addr))
        else match s1.watchOf o with
          | none => s1
          | some w => s1.walk waiter p start w.addr n

/-- Every raise whose waiter still reaches its thread stands (R142). -/
def State.recomputeRaises (s : State) : State :=
  let f := fun (k : Nat) (th : Thread) => { th with raises := th.raises.filter fun r => s.reaches r.1 (BitVec.ofNat 9 k) }
  { s with threads := smMap {} s.threads f }

end Sys2Proof.Machine
end

