-- ==== Sys2Proof/Machine/ThreadControl.lean ====
section
/-!
DEFINITION. The life cycle of threads, their setup registers, roles, notices and the tongs as commands (R122 to R161,
R561).
-/

namespace Sys2Proof.Machine

/-! ## Life cycle -/

/-- THREAD_RELEASE (R125). -/
def execThreadRelease (w : Writer) (t : Tid) (s : State) : Out := .next (s.access w fun s =>
  s.regAtDomain (coreDomain (coreOf t)) (.write w (regOff .thrCtl t.toNat 0) 1) fun s => s.wrThrCtl w t 1)

/-- THREAD_STOP (R126). -/
def execThreadStop (w : Writer) (t : Tid) (s : State) : Out := .next (s.access w fun s =>
  s.regAtDomain (coreDomain (coreOf t)) (.write w (regOff .thrCtl t.toNat 0) 2) fun s => s.wrThrCtl w t 2)

/-- Every older instruction of a STOPPING thread is done and no delay slot is owed. -/
def Thread.stopped (th : Thread) : Bool :=
  th.st == .stopping && th.far.isEmpty && th.pendFault.isNone && th.halting.isNone && (th.slot.isNone || th.slotSlept)

/-- THREAD_STOPPED (R126). -/
def execThreadStopped (t : Tid) (s : State) : Out :=
  .next (if (s.thr t).stopped then s.setThr t { s.thr t with st := .stopped } else s)

/-- HALT_COMPLETE (R127, R129). -/
def State.haltDone (s : State) (t : Tid) : State :=
  let th := s.thr t
  match th.halting with
  | none => s
  | some a =>
    if !th.far.isEmpty || th.pendFault.isSome || th.st.settled then s
    else
      let s1 := s.setThr t { th with st := .halted, pc := a + 4, halting := none, slot := none }
      match th.hnote, faultReceiver t with
      | true, some r =>
        s1.notice (.thread t) (s1.faultQueue (coreOf r).toNat)
          (mkItem true 15 2 (senderThread t) ((a.extractLsb' 2 16).setWidth 32))
      | _, _ => s1

def execHaltComplete (t : Tid) (s : State) : Out := .next (s.haltDone t)

/-- THREAD_FAULT (R45, R128, R129, R561): once the older far accesses have completed. -/
def State.faultDone (s : State) (t : Tid) : State :=
  let th := s.thr t
  match th.pendFault with
  | none => s
  | some f =>
    if th.far.any (fun e => decide (e.seq < f.seq)) then s
    else
      let rest := match th.far with
        | e :: _ => e.pc
        | [] => th.pc
      let s1 := (s.noteEvent F.thrFault_VALID 1 t.toNat).dropSleep t
      (s1.setThr t { s1.thr t with st := .faulted, pc := f.pc.getD rest, faultCode := f.code, faultValid := true
                                   pendFault := none, halting := none, far := [], slot := none, slotSlept := false
                                   fence := none
                                   sleep := .awake, runAhead := [] }).faultNotice t f.code f.npc

def execThreadFault (t : Tid) (s : State) : Out := .next (s.faultDone t)

/-! ## Held notices (R130, R456) -/

/-- A holder tries its held notice again. -/
def State.noticeRetry (s : State) (h : Holder) : State :=
  match s.heldNotice h with
  | none => s
  | some n =>
    if (s.quad (quadrantOf n.q)).lost then (s.setHeldNotice h none).satAdd F.fltStat_NDROP 1
    else match (s.wakeQuad n.q).tryNotice n.q n.item n.wait with
      | none => (s.wakeQuad n.q).noticeWaits h n
      | some s1 => (s1.leavePlace n).setHeldNotice h none

/-- NOTICE_HELD_PUSH (R130). -/
def execNoticeHeldPush (h : Holder) (s : State) : Out := .next (s.noticeRetry h)

/-! ## Setup registers (R124, R148 to R152) -/

/-- A SERVICE write (R132, R133, R135): the purge moves what the role-checked inbound queues hold. -/
def State.reassign (s : State) (t : Tid) (service : BitVec 16) : State :=
  let th := s.thr t
  if th.roleBusy.isSome then (s.noteEvent F.thrStat_ROLEREJ 1 t.toNat).setThr t { th with roleRej := true }
  else
    (s.setThr t { th with service := service, epoch := th.epoch + 1 }).purgeRole t (s.cycle + 1)

/-- A write of a thread's setup registers. -/
def State.wrThr (s : State) (w : Writer) (t : Tid) (r : ThrReg) (v : Word) : State :=
  let th := s.thr t
  if !overCore w (coreOf t) then s.authorityFault w
  else if !th.st.settled then (s.noteEvent F.thrStat_WIGN 1 t.toNat).setThr t { th with wign := true }
  else match r with
    | .pc => s.setThr t { th with pc := v &&& 0xFFFFFFFC, slot := none, slotSlept := false, path := none
                                  imgPc := if w = .boot then v &&& 0xFFFFFFFC else th.imgPc }
    | .a => s.setThr t { th with a := v }
    | .x => s.setThr t { th with x := v }
    | .y => s.setThr t { th with y := v }
    | .tp => s.setThr t { th with tp := v &&& 0x3F000, imgTp := if w = .boot then v &&& 0x3F000 else th.imgTp }
    | .role =>
      match w with
      | .boot => s.setThr t { th with service := v.extractLsb' 16 16 }
      | _ => s.reassign t (v.extractLsb' 16 16)

/-- A write of THR.CFG (R124): PRIO and HNOTE at once, CLASS from the next frame boundary. -/
def State.wrThrCfg (s : State) (w : Writer) (t : Tid) (v : Word) : State :=
  let th := s.thr t
  if !overCore w (coreOf t) then s.authorityFault w
  else
    let th1 := { th with hnote := v.getLsbD 9, prio := v.extractLsb' 0 4 }
    match w with
    | .boot => s.setThr t { th1 with cls := v.getLsbD 8 }
    | _ => s.setThr t { th1 with clsNext := some (v.getLsbD 8) }

/-- The register that a name of the setup registers stands for. -/
def setupKind : ThrReg → RegKind
  | .pc => .thrPc
  | .a => .thrA
  | .x => .thrX
  | .y => .thrY
  | .tp => .thrTp
  | .role => .thrRole

/-- THR_STATE_WRITE (R124). -/
def execThrStateWrite (w : Writer) (t : Tid) (r : ThrReg) (v : Word) (s : State) : Out := .next (s.access w fun s =>
  s.regAtDomain (coreDomain (coreOf t)) (.write w (regOff (setupKind r) t.toNat 0) v) fun s => s.wrThr w t r v)

/-- THR_CFG_WRITE (R124). -/
def execThrCfgWrite (w : Writer) (t : Tid) (v : Word) (s : State) : Out := .next (s.access w fun s =>
  s.regAtDomain (coreDomain (coreOf t)) (.write w (regOff .thrCfg t.toNat 0) v) fun s => s.wrThrCfg w t v)

/-- ROLE_REASSIGN (R132). -/
def execRoleReassign (w : Writer) (t : Tid) (v : Word) (s : State) : Out := .next (s.access w fun s =>
  s.regAtDomain (coreDomain (coreOf t)) (.write w (regOff .thrRole t.toNat 0) v) fun s => s.wrThr w t .role v)

/-- ROLEBUSY_CLEAR (R133). -/
def execRolebusyClear (t : Tid) (s : State) : Out :=
  match (s.thr t).roleBusy with
  | none => .next s
  | some e => .next (if s.cycle < e then s else s.setThr t { s.thr t with roleBusy := none })

/-! ## Tongs (R138 to R147) -/

/-- The woken watch whose notice leaves next: highest effective priority, then the oldest registration. -/
def State.nextWoken (s : State) : Option Watch :=
  s.watches.foldl (fun b w =>
    if !w.woken then b
    else match b with
      | none => some w
      | some v => if (s.thr v.t).effective < (s.thr w.t).effective then some w else some v) none

/-- WATCH_WAKE (R139): the woken WAITEV completes with Z = 1 and SR.LST = OK. -/
def execWatchWake (s : State) : Out :=
  match s.nextWoken with
  | none => .next s
  | some w =>
    .next (s.atDomain (coreDomain (coreOf w.t)) fun s =>
      let s1 := { s with watches := s.watches.erase w }
      let th := s1.thr w.t
      if th.st = .sleepLock then
        s1.setThr w.t { th with st := .running, sleep := .awake, lst := 0, f := putFlag th.f flagZ true }.retire
      else s1)

/-- INHERITANCE_CHAIN (R140, R141, R144): the chain of the WAITEV of thread t. -/
def execInheritanceChain (t : Tid) (s : State) : Out :=
  match s.watches.find? (fun w => w.t == t && w.chain) with
  | none => .next s
  | some w =>
    let f := fun (x : Watch) => if x = w then { x with chain := false } else x
    let s1 := { s with watches := s.watches.map f }
    .next (if w.woken then s1 else s1.walk t (s1.thr t).effective w.addr w.addr 4)

/-- PRIORITY_RECOMPUTE (R142). -/
def execPriorityRecompute (s : State) : Out := .next s.recomputeRaises

/-- Whether a writer may use core c's force-release set (R145): its own core's. Log entry 24 (DEDUCED). -/
def ownSet (w : Writer) (c : CoreId) : Bool :=
  match w with
  | .thread t => coreOf t == c && t == masterOf c
  | .debug => c == 0
  | .boot => false

/-- A word address a force release may name: core-local memory or a shared bank (R157). -/
def lockAddrOk (a : Nat) : Bool :=
  (0x01000000 ≤ a && a < 0x01800000) || (0x02000000 ≤ a && a < 0x02800000)

/-- A force release of core c's set ends with a result (R159). -/
def State.releaseEnds (s : State) (c : CoreId) (r : Nat) : State :=
  let s1 := (s.setFld F.lckFstat_RESULT r c.toNat).setFld F.lckFstat_BUSY 0 c.toNat
  s1.setCore c { s1.core c with release := none }

/-- The indivisible access of a force release at the word's controller (R146, R147). -/
def State.releaseWord (s : State) (c : CoreId) (owner : Tid) (a : Nat) : State :=
  if s.ownerAt a ≠ some owner then s.releaseEnds c 1
  else if 4 ≤ (s.thr owner).revoked.length then s.releaseEnds c 4
  else
    let s1 := s.writeMirrored a 0xF 0
    (s1.setThr owner { s1.thr owner with revoked := (s1.thr owner).revoked ++ [a] }).releaseEnds c 0

/-- The force release in progress of core c's set reaches its word, or waits for its bank, its hearth or the place of its
mirror record (R166, R173, R175, R399, R435).  A refused access, and one at a SECURE bank that is being wiped, finds no owner.
Log entry 25 (DEDUCED). -/
def State.tryRelease (s : State) (c : CoreId) : State :=
  match (s.core c).release with
  | none => s
  | some (owner, a) =>
    let m := masterCore c
    match bankOf? a with
    | none => s.atDomain (coreDomain (BitVec.ofNat 5 ((a - 0x01000000) / 0x40000))) fun s => s.releaseWord c owner a
    | some b =>
      match s.bankAskWrite b m (.release c) false with
      | .ok =>
        if s.mirroredAt a && !s.mirrorRoom then s.bankWaits b m (.release c)
        else (s.bankGrant b m (.release c)).releaseWord c owner a
      | .zero => (s.bankGrant b m (.release c)).releaseEnds c 1
      | .refuse => (s.bankRefuses b m (.release c)).releaseEnds c 1
      | .wait => s.bankWaits b m (.release c)

/-- A force release by a writer with a set of its own (R146, R159). -/
def State.forceRelease (s : State) (w : Writer) (c : CoreId) (owner : Tid) : State :=
  let a := s.fld F.lckFaddr_ADDR c.toNat * 4
  if !lockAddrOk a then s.releaseEnds c 3
  else if !overCore w (coreOf owner) then s.releaseEnds c 2
  else
    let s1 := s.setFld F.lckFstat_BUSY 1 c.toNat
    (s1.setCore c { s1.core c with release := some (owner, a) }).tryRelease c

/-- A write of LCK.FCMD (R145, R158). -/
def State.wrFcmd (s : State) (w : Writer) (c : CoreId) (v : Word) : State :=
  if !ownSet w c then s.authorityFault w
  else if F.lckFcmd_GO.get v = 0 || (s.core c).release.isSome then s
  else s.forceRelease w c (BitVec.ofNat 9 (F.lckFcmd_OWNER.get v))

/-- A write of LCK.FADDR (R145, R157). -/
def State.wrFaddr (s : State) (w : Writer) (c : CoreId) (v : Word) : State :=
  if !ownSet w c then s.authorityFault w else s.store w .lckFaddr v c.toNat

/-- FORCE_RELEASE (R146). -/
def execForceRelease (w : Writer) (c : CoreId) (owner : Tid) (s : State) : Out :=
  let v := F.lckFcmd_GO.put (owner.setWidth 32) 1
  .next (s.access w fun s => s.regAtDomain (coreDomain c) (.write w (regOff .lckFcmd c.toNat 0) v) fun s => s.wrFcmd w c v)

/-- LCK.WATCH as it reads: HIGH is never below the entries in use (R160). -/
def State.watchView (s : State) : Word :=
  F.lckWatch_HIGH.put (BitVec.ofNat 32 s.watches.length) (max (s.fld F.lckWatch_HIGH) s.watches.length)

/-- WATCH_READ (R160). -/
def execWatchRead (s : State) : Out :=
  .next { s.setFld F.lckWatch_HIGH s.watches.length with answer := s.watchView.setWidth 64 }

/-- LCK_CNT_READ (R161). -/
def execLckCntRead (s : State) : Out := .next (s.readStored .lckCnt 0 0)

end Sys2Proof.Machine
end

