-- ==== Sys2Proof/Machine/BankOps.lean ====
section
/-!
DEFINITION. Shared banks as commands (R164 to R178, R191 to R199, R540): configuration, handover, wipes, retention and
the counters of chapter 06.
-/

namespace Sys2Proof.Machine

def allBanks : List BankId := (List.range 16).map fun i => BitVec.ofNat 4 i

/-- An owner code that no write may give (R164). -/
def badOwner (m : Nat) : Bool := 0x2B ≤ m && m ≤ 0x3E

/-- Authority over bank b's handover and retention (R167). -/
def State.overBank (s : State) (w : Writer) (b : BankId) : Bool :=
  let o := s.ownerOf b
  if o.toNat < 32 then overCore w (BitVec.ofNat 5 o.toNat) else isBlock w

/-- A write of MEM.BCFG (R191): INITOWNER is the owner in force when loading ends. -/
def State.wrBcfg (s : State) (w : Writer) (b : BankId) (v : Word) : State :=
  if badOwner (F.memBcfg_INITOWNER.get v) then s.raise F.memOwner_HOERR b.toNat
  else
    let s1 := s.store w .memBcfg v b.toNat
    if s.loading || w = .boot then s1.setBank b { s1.bank b with owner := BitVec.ofNat 6 (F.memBcfg_INITOWNER.get v) }
    else s1

/-! ## Handover (R166 to R170) -/

/-- An entry of a core's buffer lies in bank b. -/
def inBank (b : BankId) (e : SbEntry) : Bool := bankOf? e.addr == some b

/-- A store by its core's buffer, which `oldEntries` counts there. -/
def BankReq.isStore : BankReq → Bool
  | .store _ _ => true
  | _ => false

/-- Accesses of the old owner that left it before the handover and have not been performed: its store-buffer entries for
the bank, and what waits at the bank. -/
def State.oldEntries (s : State) (b : BankId) : Nat :=
  let o := s.ownerOf b
  let stores :=
    if o.toNat < 32 then
      let x := s.core (BitVec.ofNat 5 o.toNat)
      ((x.sbuf ++ x.inflight).filter fun e => inBank b e && !e.late).length
    else 0
  stores + ((s.bank b).waiting.filter fun w => w.old && !w.req.isStore && s.reqLive w).length

/-- A handover accepted in cycle W: the old owner's accesses that wait at the bank are marked, its entries for the bank
are closed to merging, and a wipe wakes a retained bank. -/
def State.beginHandover (s : State) (b : BankId) (wipe : Bool) (new : Master) : State :=
  let o := s.ownerOf b
  let x := s.bank b
  let mark := fun (w : BankWait) => if w.m = o then { w with old := true } else w
  let x1 := { x with ho := some ⟨new, wipe, s.cycle⟩, waiting := x.waiting.map mark }
  let s2 := s.setBank b (if wipe then x1.woken s.cycle s.ns else x1)
  if o.toNat < 32 then
    let c := BitVec.ofNat 5 o.toNat
    let f := fun (e : SbEntry) => if inBank b e then { e with closed := true } else e
    s2.setCore c { s2.core c with sbuf := (s2.core c).sbuf.map f }
  else s2

/-- A write of MEM.HANDOVER with GO = 1; a lost bank goes on to NONE from every owner it is handed to (R454). -/
def State.handover (s : State) (w : Writer) (b : BankId) (wipe : Bool) (new : Master) : State :=
  if !s.overBank w b then s.authorityFault w
  else if (s.bank b).ho.isSome || badOwner new.toNat || s.secure b then s.raise F.memOwner_HOERR b.toNat
  else if new = (s.bank b).owner && !wipe then s
  else s.beginHandover b wipe new

/-- HANDOVER (R168). -/
def execHandover (w : Writer) (b : BankId) (wipe : Bool) (new : Master) (s : State) : Out := .next (s.access w fun s => s.handover w b wipe new)

/-- What entered a store buffer during a handover of bank b counts, once that is over, as any other store does. -/
def State.lateOver (s : State) (b : BankId) : State :=
  let f := fun (e : SbEntry) => if inBank b e then { e with late := false } else e
  { s with cores := smMap {} s.cores fun _ x => { x with sbuf := x.sbuf.map f, inflight := x.inflight.map f } }

/-- A handover ends: OWNER takes the new code, and a bank lost meanwhile is handed on to NONE (R454). -/
def State.ownerTakes (s : State) (b : BankId) (new : Master) : State :=
  let waiting := (s.bank b).waiting.map fun w => { w with old := false }
  let s1 := (s.lateOver b).setBank b { s.bank b with owner := new, ho := none, wiping := none, waiting := waiting }
  if s.faults.banks.contains b && new != masterNone then s1.beginHandover b false masterNone else s1

/-- The handover's count has reached 0: OWNER changes, or the wipe starts (R168 steps 4 and 5). -/
def State.handoverDone (s : State) (b : BankId) : State :=
  let x := s.bank b
  match x.ho with
  | none => s
  | some h =>
    if 0 < s.oldEntries b || x.wiping.isSome || s.cycle ≤ h.at_ then s
    else if h.wipe then s.setBank b { x with wiping := some s.cycle, cause := .handover }
    else s.ownerTakes b h.newOwner

/-! ## Wipes (R169, R172, R173) -/

/-- A wipe starts, or restarts from line 0; a retained bank is woken first (R172), and one that is entering retention
stays ACTIVE and is wiped at once, as for an access (R174).  CAUSE shows the cause from the start, not only from the wipe's
end (R173, R195).  Log entries 65, 75 (DESIGN CHOICE). -/
def State.startWipe (s : State) (b : BankId) (why : WipeCause) : State :=
  s.setBank b { (s.bank b).woken s.cycle s.ns with wiping := some s.cycle, cause := why }

/-- Every SECURE bank is wiped. -/
def State.wipeSecure (s : State) (why : WipeCause) : State :=
  allBanks.foldl (fun s b => if s.secure b then s.startWipe b why else s) s

/-- The wipe's last line has been written, 8,192 cycles after it began. -/
def State.wipeDone (s : State) (b : BankId) : State :=
  let x := s.bank b
  match x.wiping with
  | none => s
  | some c0 =>
    if x.ret = .retained ∨ x.ret = .waking ∨ s.cycle < c0 + 8192 then s
    else
      let s1 := (s.clearBank b).raise F.memWipe_DONE b.toNat
      match x.ho with
      | some h =>
        if h.wipe then s1.ownerTakes b h.newOwner
        else (s1.setBank b { x with wiping := none }).detect 11 b.toNat
      | none => (s1.setBank b { x with wiping := none }).detect 11 b.toNat

/-- TAMPER (R172): a rising edge recognised. -/
def execTamper (s : State) : Out :=
  .next (if s.soc.tamper then s else ({ s with soc := { s.soc with tamper := true } }).wipeSecure .tamper)

/-- TAMPER_DEASSERT (R173). -/
def execTamperDeassert (s : State) : Out := .next { s with soc := { s.soc with tamper := false } }

/-- LIFECYCLE_CHANGE (R540). -/
def execLifecycleChange (lc : BitVec 3) (s : State) : Out :=
  .next (if s.soc.lc = lc then s else ({ s with soc := { s.soc with lc := lc } }).wipeSecure .lifecycle)

/-! ## Retention (R174, R175, R194) -/

/-- Some core has a store on its way to bank b. -/
def State.bankBusy (s : State) (b : BankId) : Bool :=
  (s.bank b).ho.isSome || (s.bank b).wiping.isSome || (s.bank b).waiting.any s.reqLive ||
    s.cores.any fun kv => kv.2.inflight.any (inBank b)

/-- BANK_RETENTION_ENTRY (R174). -/
def execBankRetentionEntry (b : BankId) (s : State) : Out :=
  let x := s.bank b
  .next (if s.bit F.memRet_REQ b.toNat && x.ret == .active && decide (x.lastAccess + 256 ≤ s.cycle) && !s.bankBusy b then
      s.setBank b { x with ret := .entering, retAt := s.cycle }
    else s)

/-- BANK_RETAINED (R174). -/
def execBankRetained (b : BankId) (s : State) : Out :=
  let x := s.bank b
  .next (if x.ret == .entering && decide (x.retAt + 64 ≤ s.cycle) then s.setBank b { x with ret := .retained } else s)

/-- BANK_WAKE (R175): an access finds the bank retained, or aborts its entry (R174). -/
def execBankWake (b : BankId) (s : State) : Out :=
  .next (match (s.bank b).ret with
    | .retained => s.touchBank b
    | .entering => s.touchBank b
    | _ => s)

/-- A write of MEM.RET: REQ, and a retained bank written 0 begins to wake; while ENTERING the entry goes on to RETAINED.
Log entry 65 (DESIGN CHOICE). -/
def State.wrRet (s : State) (w : Writer) (b : BankId) (v : Word) : State :=
  if !s.overBank w b then s.authorityFault w
  else
    let s1 := s.setFld F.memRet_REQ (F.memRet_REQ.get v) b.toNat
    if F.memRet_REQ.get v = 0 && (s1.bank b).ret == .retained then
      s1.setBank b { s1.bank b with ret := .waking, retAt := s.ns }
    else s1

/-- MEM_RET_WRITE (R194). -/
def execMemRetWrite (w : Writer) (b : BankId) (v : Word) (s : State) : Out := .next (s.access w fun s => s.wrRet w b v)

/-! ## Views and counters (R193 to R199) -/

def RetState.code : RetState → Nat
  | .active => 0
  | .entering => 1
  | .retained => 2
  | .waking => 3

def WipeCause.code : WipeCause → Nat
  | .none => 0
  | .tamper => 1
  | .lifecycle => 2
  | .handover => 3

/-- MEM.RET as it reads. -/
def State.retView (s : State) (b : BankId) : Word := F.memRet_STATE.put (s.reg .memRet b.toNat) (s.bank b).ret.code

/-- MEM.OWNER as it reads. -/
def State.ownerView (s : State) (b : BankId) : Word :=
  let x := s.bank b
  let v := F.memOwner_OWNER.put (s.reg .memOwner b.toNat) (s.ownerOf b).toNat
  match x.ho with
  | some h => F.memOwner_PENDING.put (F.memOwner_BUSY.put v 1) h.newOwner.toNat
  | none => F.memOwner_PENDING.put v 0x3F

/-- MEM.WIPE as it reads. -/
def State.wipeView (s : State) (b : BankId) : Word :=
  let x := s.bank b
  let v := F.memWipe_CAUSE.put (s.reg .memWipe b.toNat) x.cause.code
  let running := x.wiping.isSome && x.ret != .retained && x.ret != .waking
  F.memWipe_ACTIVE.put v (running || (s.secure b && s.soc.tamper)).toNat

/-- MEM_RET_READ (R194). -/
def execMemRetRead (b : BankId) (s : State) : Out :=
  .next (s.readOut .memRet b.toNat 0 (s.retView b))

/-- MEM_ECC_READ (R196, R199). -/
def execMemEccRead (coreLocal : Bool) (i : CoreId) (s : State) : Out :=
  .next (if coreLocal then s.readStored .memClecc i.toNat 0 else s.readStored .memEcc (i.toNat % 16) 0)

/-- VALID of MEM.NOWN after a read: cleared with COUNT, but for a refusal of the running cycle (R10, R197). -/
def State.validKept (s : State) (b : BankId) : State :=
  s.setFld F.memNown_VALID (decide (0 < s.fld F.memNown_COUNT b.toNat)).toNat b.toNat

/-- MEM_NOWN_READ (R197). -/
def execMemNownRead (b : BankId) (s : State) : Out := .next ((s.readStored .memNown b.toNat 0).validKept b)

/-- MEM_CONF_READ (R198). -/
def execMemConfRead (b : BankId) (m : Master) (s : State) : Out :=
  .next (if m.toNat < 44 then s.readStored .memConf b.toNat m.toNat else { s with answer := 0 })

end Sys2Proof.Machine
end

