-- ==== Sys2Proof/Machine/QueueControl.lean ====
section
/-!
DEFINITION. The queue engine as commands (R202 to R236, R560): configuration, quotas, flush, waiters and wake notices,
held packet words, doorbells and the host mover.
-/

namespace Sys2Proof.Machine

/-! ## Authority and configuration (R211, R218, R225) -/

/-- Write authority over queue q's RW fields and its flush (R211). -/
def State.overQueue (s : State) (w : Writer) (q : Qid) : Bool :=
  let r := s.fld F.qeQcfg_READER q.toNat
  match s.fld F.qeQcfg_RKIND q.toNat with
  | 0 => overCore w (coreOf (BitVec.ofNat 9 r))
  | 1 => overCore w (BitVec.ofNat 5 r)
  | _ => isBlock w

/-- A QCFG value that may be written: RKIND assigned, ROLECHK only with a thread reader, READER 0 for the other kinds. -/
def qcfgOk (v : Word) : Bool :=
  let k := F.qeQcfg_RKIND.get v
  decide (k < 6) && (F.qeQcfg_ROLECHK.get v == 0 || k == 0) && (decide (k < 3) || F.qeQcfg_READER.get v == 0)

/-- A queue that has become disabled holds no items, and every waiter for its room is served (R203, R560).
Log entry 66 (DESIGN CHOICE). -/
def State.disableQueue (s : State) (q : Qid) : State :=
  let s1 := s.emptyQueue q
  s1.serveDepth q (s1.queue q).depthWaiters.length

/-- A write of QE.QCFG (R225). -/
def State.wrQcfg (s : State) (w : Writer) (q : Qid) (v : Word) : State :=
  if !s.overQueue w q then s.authorityFault w
  else if !qcfgOk v then s
  else
    let s1 := s.store w .qeQcfg v q.toNat
    if s.queueUp q && !s1.queueUp q then s1.disableQueue q else s1

/-- QE.QCFG as it reads: EN and MODE of the slag queue read 1 (R220). -/
def State.qcfgView (s : State) (q : Qid) : Word :=
  let v := s.reg .qeQcfg q.toNat
  if q = slagQueue then F.qeQcfg_EN.put (F.qeQcfg_MODE.put v 1) 1 else v

/-- QCFG_WRITE (R225). -/
def execQcfgWrite (w : Writer) (q : Qid) (v : Word) (s : State) : Out := .next (s.access w fun s => s.wrQcfg w q v)

/-- A write of QLEVEL or QEVT of queue q (R227, R228). -/
def State.wrQueueReg (s : State) (w : Writer) (k : RegKind) (q : Qid) (v : Word) : State :=
  if !s.overQueue w q then s.authorityFault w else s.store w k v q.toNat

/-! ## Quotas (R217, R218) -/

/-- Owner o holds its quota or more; quotas of notice and slag owners are ignored. -/
def State.isOver (s : State) (o : BitVec 12) : Bool :=
  decide (o.toNat < 0x802) && decide (s.fld F.qeOwnlim_QUOTA o.toNat ≤ (s.owner o).use)

/-- OVER as software sees it: 0 until the billet is loaded or QUOTA written (R8, R233). Log entry 73 (DEDUCED). -/
def State.overShown (s : State) (o : BitVec 12) : Bool := ((s.owner o).limited || !s.loading) && s.isOver o

def overOwner (w : Writer) (o : BitVec 12) : Bool :=
  if o.toNat < 0x200 then overCore w (coreOf (BitVec.ofNat 9 o.toNat)) else isBlock w

/-- An OVER notice about owner o (R217). -/
def State.overNotice (s : State) (o : BitVec 12) : State :=
  let c := if o.toNat < 0x200 then (coreOf (BitVec.ofNat 9 o.toNat)).toNat else 0
  s.notice .queueEngine (s.faultQueue c)
    (mkItem true 15 6 (senderOfOwner o) (BitVec.ofNat 32 (s.fld F.qeOwnlim_QUOTA o.toNat)))

/-- A waiting thread whose owner has become OVER leaves the quadrant's waiters and sleeps under OVER. -/
def State.sleepOver (s : State) (o : BitVec 12) : State :=
  if o.toNat < 0x200 then
    let t := BitVec.ofNat 9 o.toNat
    match (s.thr t).sleep with
    | .pushPool k => (s.dropWaiter o).setThr t { (s.dropWaiter o).thr t with sleep := .pushOver k }
    | _ => s
  else s

/-- A write of QE.OWNLIM: QUOTA, and FLOOR before seal. -/
def State.wrOwnlim (s : State) (w : Writer) (o : BitVec 12) (v : Word) : State :=
  if !overOwner w o then s.authorityFault w
  else
    let was := s.isOver o
    let s1 := (s.store w .qeOwnlim v o.toNat).setOwner o { s.owner o with limited := true }
    if w = .boot then s1
    else if s1.isOver o && !was then (s1.sleepOver o).overNotice o
    else s1.wakeOver o

/-- QUOTA_WRITE (R217). -/
def execQuotaWrite (w : Writer) (o : BitVec 12) (v : Word) (s : State) : Out := .next (s.access w fun s => s.wrOwnlim w o v)

/-- QE.OWNCFG as it reads: HOME of the notice and slag owners is fixed (R234). -/
def State.owncfgView (s : State) (o : BitVec 12) : Word := F.qeOwncfg_HOME.put (s.reg .qeOwncfg o.toNat) (s.homeOf o)

/-! ## Flush (R211) -/

/-- A write of QE.FLUSH. -/
def State.wrFlush (s : State) (w : Writer) (v : Word) : State :=
  let q := BitVec.ofNat 14 (F.qeFlush_QID.get v)
  if F.qeFlush_GO.get v = 0 then s
  else if !s.overQueue w q then s.authorityFault w
  else s.flushQueue q

/-- A flush of a mirrored queue waits for its record's place (R435). -/
def State.flushWaits (s : State) (w : Writer) (v : Word) : Bool :=
  let q := BitVec.ofNat 14 (F.qeFlush_QID.get v)
  F.qeFlush_GO.get v == 1 && s.overQueue w q && s.bit F.qeQcfg_MIRRORED q.toNat && !s.mirrorRoom

/-- QUEUE_FLUSH (R211). -/
def execQueueFlush (w : Writer) (q : Qid) (s : State) : Out :=
  let v := F.qeFlush_GO.put (q.setWidth 32) 1
  .next (s.access w fun s => s.regAtMirror (s.flushWaits w v) w (regOff .qeFlush 0 0) v fun s => s.wrFlush w v)

/-! ## Wake notices and waiters (R208, R216, R560) -/

/-- The oldest wake notice of queue q reaches its reader, once the reader's hearth is ON (R398, R399). -/
def State.deliverWake (s : State) (q : Qid) : State :=
  match (s.queue q).notices with
  | [] => s
  | t :: rest =>
    let d := coreDomain (coreOf t)
    let s1 := if (s.dom d).st = .draining then s.wakeDomain d else s
    if (s1.dom d).st = .on then
      let s2 := s1.setQueue q { s1.queue q with notices := rest }
      if (s2.thr t).sleep = .read q then s2.wakeThread t else s2
    else s1

/-- WAKE_NOTICE (R208). -/
def execWakeNotice (q : Qid) (s : State) : Out := .next (s.deliverWake q)

/-! ## Requests of units (R130, R216, R345, R352) -/

/-- A unit's item charged to the notice owner of its queue's quadrant: whether it is settled (stored, or in the slag queue
because the queue is disabled: nothing is left), or the item as it waits on. Log entry 14 (DEDUCED). -/
def State.unitPush (s : State) (x : HeldNotice) : Option HeldNotice × State :=
  match s.push x.q x.item (ownerNotice (quadrantOf x.q)) 0 x.wait with
  | (.ok, s1) => (none, s1.leavePlace x)
  | (.slagged, s1) => (none, s1.leavePlace x)
  | (.disabled, s1) => (none, (s1.leavePlace x).slagLocal slagPoolFull x.q x.item)
  | (a, s1) =>
    let r := s1.takePlace x (a == .full) (a == .poolFull)
    (some r.1, r.2)

/-- Every holder that holds a notice. -/
def State.noticeHolders (s : State) : List Holder :=
  [.queueEngine, .stager, .temper, .faultUnit, .chainUnit] ++
    (s.threads.filterMap fun kv => if kv.2.notice.isSome then some (.thread (BitVec.ofNat 9 kv.1)) else none) ++
    s.channels.filterMap fun kv => if kv.2.notice.isSome then some (.channel (BitVec.ofNat 9 kv.1)) else none

/-- The held notices for quadrant k are tried again. -/
def State.retryNotices (s : State) (k : Quadrant) : State :=
  s.noticeHolders.foldl (fun s h =>
    match s.heldNotice h with
    | some n => if quadrantOf n.q = k then s.noticeRetry h else s
    | none => s) s

/-- The items that event consumers hold for quadrant k are tried again. -/
def State.retryConsumers (s : State) (k : Quadrant) : State :=
  s.evmHeld.foldl (fun s kv =>
    match kv.2 with
    | some x =>
      if quadrantOf x.q = k then
        let r := s.unitPush x
        { r.2 with evmHeld := smSet none r.2.evmHeld kv.1 r.1 }
      else s
    | none => s) s

/-- The release items held for quadrant k are tried again. -/
def State.retryReleases (s : State) (k : Quadrant) : State :=
  s.tasks.foldl (fun s kv =>
    match kv.2.held with
    | some x =>
      if quadrantOf x.q = k then
        let r := s.unitPush x
        let t := BitVec.ofNat 12 kv.1
        r.2.setTask t { r.2.task t with held := r.1 }
      else s
    | none => s) s

/-- The items held for notice owners. -/
def State.heldItems (s : State) : List HeldNotice :=
  s.noticeHolders.filterMap s.heldNotice ++ s.evmHeld.filterMap (fun kv => kv.2) ++ s.tasks.filterMap fun kv => kv.2.held

/-- Claims of the notice owner of quadrant k for items that wait no more, their holder having been reset, pass on (R216);
the fuel is their number. -/
def State.passClaims (s : State) (k : Quadrant) : Nat → State
  | 0 => s
  | n + 1 =>
    match (s.quad k).claims.find? (fun w => w.owner == ownerNotice k && !s.heldItems.any fun x => x.place == w) with
    | none => s
    | some w => (s.dropClaim (ownerNotice k) k false w.seq).passClaims k n

/-- Everything charged to the notice owner of quadrant k is tried again. Log entry 26 (DEDUCED). -/
def State.retryUnits (s : State) (k : Quadrant) : State :=
  let s1 := ((s.retryNotices k).retryConsumers k).retryReleases k
  s1.passClaims k ((s1.quad k).claims.length + (s1.quad k).waiters.length)

/-- A waiter's push may be tried again: a thread wakes in its STW, a channel goes back to its PUSH, and its push holder
is tried. -/
def State.retryOwner (s : State) (o : BitVec 12) : State :=
  let n := o.toNat
  if n < 0x200 then s.wakeThread (BitVec.ofNat 9 n)
  else if n < 0x400 then
    let ch := BitVec.ofNat 9 (n - 0x200)
    let s1 := if (s.chan ch).st = .stallPush then s.setChan ch { s.chan ch with st := .run } else s
    s1.retryHolder ch
  else if 0x802 ≤ n ∧ n < 0x806 then s.retryUnits (BitVec.ofNat 2 (n - 0x802))
  else s

/-- DEPTH_WAITER_SERVE (R560): the first waiter chosen for a freed place. -/
def execDepthWaiterServe (q : Qid) (s : State) : Out :=
  match (s.queue q).served with
  | [] => .next s
  | w :: rest => .next ((s.setQueue q { s.queue q with served := rest }).retryOwner w.owner)

/-- The claim's owner waits for its retry: a thread still asleep, a stalled channel or a push holder. -/
def State.claimWaits (s : State) (w : Waiter) : Bool :=
  let n := w.owner.toNat
  if n < 0x200 then (s.thr (BitVec.ofNat 9 n)).st.asleep
  else if n < 0x400 then
    let x := s.chan (BitVec.ofNat 9 (n - 0x200))
    x.st == .stallPush || !x.pushHold.isEmpty
  else true

/-- SLOT_CLAIM_RETRY (R216): the claim stands until the retried push uses it or passes it on. -/
def execSlotClaimRetry (k : Quadrant) (s : State) : Out :=
  match (s.quad k).claims.find? s.claimWaits with
  | none => .next s
  | some w => .next (s.retryOwner w.owner)

/-! ## Words held for an assembly entry (R207) -/

/-- A host push that did not reach its queue counts in DROPS (R226). Log entry 28 (DEDUCED). -/
def State.countDoorbell (s : State) (q : Qid) : State :=
  s.setQueue q { s.queue q with drops := min 255 ((s.queue q).drops + 1) }

/-- A held push has been decided: its pusher is answered; one that does not wait loses the item to the slag queue. -/
def State.heldAnswered (s : State) (h : HeldPush) (a : PushAns) : State :=
  let n := h.owner.toNat
  if n < 0x200 then s.pushAnswered (BitVec.ofNat 9 n) h.q a
  else if n < 0x400 then
    let ch := BitVec.ofNat 9 (n - 0x200)
    if (s.chan ch).st = .stallPush then
      let s1 := s.setChan ch { s.chan ch with st := .run }
      match a with
      | .ok => (s1.chNext ch).chPushDone ch
      | .slagged => (s1.chNext ch).chPushDone ch
      | .disabled => ((s1.slagLocal slagPoolFull h.q h.item).chNext ch).chPushDone ch
      | _ => (s.waitFor h.q h.owner a)
    else s
  else
    let count := fun (s : State) => if h.owner = ownerSignal then s.satAdd F.sigCnt_COUNT 1 10 else s
    let s1 := match a with
      | .ok => s
      | .slagged => s
      | .over => count (s.slagLocal (if h.owner = ownerChain then slagPoolFull else slagQuota) h.q h.item)
      | _ => count (s.slagLocal slagPoolFull h.q h.item)
    if a ≠ .ok && decide (n < 0x800) then s1.countDoorbell h.q else s1

/-- A held word can enter now: an assembly entry can take it, and its mirror record has a place. -/
def State.canEnter (s : State) (k : Quadrant) (h : HeldPush) : Bool :=
  (!s.needsAssembly h.q h.item || decide (s.assemblyUsed k < 256)) &&
    (!s.bit F.qeQcfg_MIRRORED h.q.toNat || s.mirrorRoom)

/-- The oldest held word of each requester that can enter now. -/
def State.readyHeld (s : State) (k : Quadrant) : List HeldPush :=
  (firstOfEach (fun h => requesterOf h.owner) (s.quad k).held []).filter (s.canEnter k)

/-- The held word that the push port of quadrant k grants is pushed (R391). Log entry 26 (DEDUCED). -/
def State.heldRelease (s : State) (k : Quadrant) : State :=
  if !s.domainUp (quadDomain k) then s
  else
    match (s.quad k).arb.choose (fun h => requesterOf h.owner) (s.readyHeld k) with
    | (none, _) => s
    | (some h, a) =>
      let r := (s.setQuad k { s.quad k with held := (s.quad k).held.erase h, arb := a }).pushItem h.q h.item h.owner h.role
      match r.1 with
      | .later => s
      | .held => s
      | a => r.2.heldAnswered h a

/-- Push actions whose first word waits for an assembly entry of quadrant k are tried again (R265). -/
def State.retryHolders (s : State) (k : Quadrant) : State :=
  s.channels.foldl (fun s kv =>
    match kv.2.pushHold with
    | [] => s
    | x :: _ => if quadrantOf x.1 = k then s.retryHolder (BitVec.ofNat 9 kv.1) else s) s

/-- ASSEMBLY_HOLD_RELEASE (R207): the first held word that an assembly entry can take now. -/
def execAssemblyHoldRelease (k : Quadrant) (s : State) : Out := .next ((s.heldRelease k).retryHolders k)

/-! ## Doorbells (R222, R226, R227) -/

/-- Page of a queue's doorbell. -/
def doorbellPage (q : Qid) : Nat := q.toNat / 16

/-- A doorbell push: refused and counted, or pushed by the host group's owner. Log entry 28 (DEDUCED). -/
def State.doorbell (s : State) (q : Qid) (full end_ : Bool) (data : BitVec 64) : State :=
  if !full || !s.bit F.qeQcfg_HOSTPUSH q.toNat then s.countDoorbell q
  else
    let o := ownerHost (doorbellPage q)
    let item := mkItem end_ (itemPrio data) (itemKind data) (senderHost (doorbellPage q)) (itemPayload data)
    match s.pushOrSlag q item o 0 with
    | (.ok, s1) => s1
    | (.held, s1) => s1
    | (.later, s1) => s1
    | (_, s1) => s1.countDoorbell q

/-- DOORBELL_PUSH (R222). -/
def execDoorbellPush (q : Qid) (full : Bool) (data : BitVec 64) (s : State) : Out :=
  .next (s.doorbell q full false data).hostReply

/-- DOORBELL_PUSHE (R222). -/
def execDoorbellPushe (q : Qid) (full : Bool) (data : BitVec 64) (s : State) : Out :=
  .next (s.doorbell q full true data).hostReply

/-- The ring with EN = 1 bound to a host-ring queue (R223), the lowest of several.  Log entry 66 (DESIGN CHOICE). -/
def State.ringOfQueue (s : State) (q : Qid) : Option Nat :=
  (List.range 1024).find? fun r => s.bit F.ringCfg_EN r && s.fld F.ringCfg_QID r == q.toNat

/-- Entries in use and capacity of a ring. -/
def State.ringUsed (s : State) (r : Nat) : Nat :=
  (s.fld F.ringIdx_PIDX r + 65536 - s.fld F.ringIdx_CIDX r) % 65536
def State.ringSize (s : State) (r : Nat) : Nat := 2 ^ s.fld F.ringCfg_LOG2SIZE r

/-- DOORBELL_CIDX (R227): copied to the bound ring; room lets a full ring resume. -/
def execDoorbellCidx (q : Qid) (v : Word) (s : State) : Out :=
  .next (if v.toNat / 65536 ≠ 0 then s
    else match s.ringOfQueue q with
      | none => s
      | some r =>
        let s1 := s.setFld F.ringIdx_CIDX v.toNat r
        if s1.ringUsed r < s1.ringSize r then s1.setFld F.ringStat_FULL 0 r else s1).hostReply

/-- The doorbell STATUS word. -/
def State.doorbellStatus (s : State) (q : Qid) : Word :=
  BitVec.ofNat 32 (2 ^ 24 * (s.queue q).drops + 2 ^ 16 * (s.ringOfQueue q).isSome.toNat +
    2 ^ 15 * (s.fld F.qeQcfg_HOSTPUSH q.toNat) + (s.queue q).depth % 2 ^ 15)

/-- DOORBELL_STATUS_READ (R226): the host's read clears DROPS. -/
def execDoorbellStatusRead (q : Qid) (s : State) : Out :=
  .next ({ s.setQueue q { s.queue q with drops := 0 } with answer := (s.doorbellStatus q).setWidth 64 }).hostReply

/-! ## Host mover (R223, R224) -/

/-- The stored words that the next n reads of a queue deliver, with the items delivered, without reading them. -/
def State.peekItems (s : State) (q : Qid) : Nat → List (BitVec 64 × QWord)
  | 0 => []
  | n + 1 =>
    match s.popItem q .hostMover with
    | (none, _) => []
    | (some x, s1) => x :: ({ s1 with qcyc := [] }).peekItems q n

/-- A word that the mover has written leaves its queue: its slot and its place are freed. -/
def State.removeWord (s : State) (q : Qid) (w : QWord) : State :=
  let x := s.queue q
  let close := fun (rest : List QWord) (p : BitVec 4) (x : Queue) =>
    { x with opened := if rest.isEmpty then none else some ⟨.hostMover, p, rest⟩ }
  let shut := fun (rest : List QWord) => if rest.isEmpty then s.noteClose q else s.touchQueue q
  if s.packetMode q then
    match x.opened with
    | some o =>
      match o.words with
      | v :: rest => if v = w then ((shut rest).setQueue q (close rest o.prio x)).afterPop q w else s
      | [] => s
    | none =>
      match x.packets.find? (fun p => p.complete && p.words.head? == some w) with
      | some p => ((shut p.words.tail).setQueue q (close p.words.tail p.prio { x with packets := x.packets.erase p })).afterPop q w
      | none => s
  else if x.words.contains w then ((s.touchQueue q).setQueue q { x with words := x.words.erase w }).afterPop q w
  else s

/-- A word that the mover has written leaves its queue, once its mirror record has a place (R435). -/
def State.leaveQueue (s : State) (r : BitVec 10) (w : QWord) : State :=
  let q := BitVec.ofNat 14 (s.fld F.ringCfg_QID r.toNat)
  if !(s.ring r).leaving.isEmpty || (s.bit F.qeQcfg_MIRRORED q.toNat && !s.mirrorRoom) then
    s.setRing r { s.ring r with leaving := (s.ring r).leaving ++ [w] }
  else s.removeWord q w

/-- Written words that waited for the mirror egress leave their queues. -/
def State.moverLeaves (s : State) : State :=
  s.rings.foldl (fun s kv =>
    let r := BitVec.ofNat 10 kv.1
    kv.2.leaving.foldl (fun s w => s.leaveQueue r w) (s.setRing r { s.ring r with leaving := [] })) s

/-- SoC address of ring r's entry i, and of its producer index. -/
def State.ringBase (s : State) (r : Nat) : Nat := 2 ^ 32 * (s.fld F.ringBaseh_ADDR r) + 64 * (s.fld F.ringBasel_ADDR r)

/-- Entry j of a batch as a request: payload, tag word, PHASE with the source queue, and the time it was taken. -/
def State.descriptorOf (s : State) (r : BitVec 10) (q : Qid) (j : Nat) (item : BitVec 64) : SmReq :=
  let n := r.toNat
  let p := s.fld F.ringIdx_PIDX n + j
  let size := s.ringSize n
  let wraps := (s.fld F.ringIdx_PIDX n % size + j) / size
  let phase := (s.ring r).phase != (wraps % 2 == 1)
  .descriptor r (s.ringBase n + p % size * 16)
    [itemPayload item, itemTag item, BitVec.ofBool phase ++ (0 : BitVec 17) ++ q, s.tb0w]

/-- HOST_MOVER_BATCH (R224): an idle mover takes up to 16 items of its queue, as far as the ring has room.
Log entry 27 (DEDUCED). -/
def State.moverBatch (s : State) (r : BitVec 10) : State :=
  let n := r.toNat
  let x := s.ring r
  let q := BitVec.ofNat 14 (s.fld F.ringCfg_QID n)
  if !s.bit F.ringCfg_EN n || x.stopped || !x.batch.isEmpty || !x.leaving.isEmpty || s.fld F.qeQcfg_RKIND q.toNat ≠ 4 then s
  else
    let room := s.ringSize n - s.ringUsed n
    if room = 0 then s.setFld F.ringStat_FULL 1 n
    else
      let items := s.peekItems q (min 16 room)
      if items.isEmpty then s
      else
        let reqs := (List.range items.length).zip items |>.map fun ji => s.descriptorOf r q ji.1 ji.2.1
        let s1 := s.setRing r { x with batch := items.map (fun i => i.2), answered := 0 }
        reqs.foldl (fun s q => s.smRequest q) s1

def execHostMoverBatch (r : BitVec 10) (s : State) : Out :=
  let q := BitVec.ofNat 14 (s.fld F.ringCfg_QID r.toNat)
  .next (s.atDomain (quadDomain (quadrantOf q)) fun s => s.moverBatch r)

/-- The request of ring r whose response comes next: commands of one tag are answered in order (R520). -/
def State.ringReq (s : State) (r : BitVec 10) : Option SmReq :=
  s.soc.reqs.find? fun q => match q with
    | .descriptor r' _ _ => r' == r
    | .ringIndex r' _ _ => r' == r
    | _ => false

/-- Every entry of the batch has its response: the producer index is written and the vector follows (steps 3 and 4).
Log entry 27 (DEDUCED). -/
def State.batchDone (s : State) (r : BitVec 10) : State :=
  let n := r.toNat
  let x := s.ring r
  let count := x.batch.length
  let old := s.fld F.ringIdx_PIDX n
  let flips := (old % s.ringSize n + count) / s.ringSize n
  let new := (old + count) % 65536
  let s1 := (s.setFld F.ringIdx_PIDX new n).setRing r
    { x with batch := [], answered := 0, phase := x.phase != (flips % 2 == 1) }
  let s2 := s1.smRequest (.ringIndex r (s1.ringBase n + s1.ringSize n * 16) (BitVec.ofNat 16 new))
  s2.vector (s2.fld F.ringCfg_VEC n)

/-- HOST_MOVER_RESPONSE (R224); entries answered without error leave the queue although a failed one of their batch keeps
PIDX where it was. Log entries 27 (DEDUCED), 74 (DESIGN CHOICE). -/
def State.moverResponse (s : State) (r : BitVec 10) (ok : Bool) : State :=
  match s.ringReq r with
  | none => s
  | some q =>
    let s0 := { s with soc := { s.soc with reqs := s.soc.reqs.erase q } }
    match q with
    | .descriptor _ _ _ =>
      let x := s0.ring r
      match x.batch[x.answered]? with
      | none => s0
      | some w =>
        let s1 := if ok then s0.leaveQueue r w
          else s0.raise F.ringStat_WERR r.toNat
        let x1 := { s1.ring r with answered := x.answered + 1, stopped := x.stopped || !ok }
        let s2 := s1.setRing r x1
        if x1.answered < x1.batch.length then s2
        else if x1.stopped then s2.setRing r { x1 with batch := [], answered := 0 }
        else s2.batchDone r
    | _ => s0

def execHostMoverResponse (r : BitVec 10) (ok : Bool) (s : State) : Out := .next (s.moverResponse r ok)

/-- A write of QE.RING[r].CFG (R236): a LOG2SIZE outside 4 to 15 ignores it whole, LOG2SIZE stands while EN = 1, and EN
from 0 to 1 sets PIDX to CIDX and PHASE to 1. Log entry 27 (DEDUCED). -/
def State.wrRingCfg (s : State) (w : Writer) (r : BitVec 10) (v : Word) : State :=
  let n := r.toNat
  let l := F.ringCfg_LOG2SIZE.get v
  if !isBlock w then s.authorityFault w
  else if l < 4 then s
  else
    let was := s.bit F.ringCfg_EN n
    let v1 := if was then F.ringCfg_LOG2SIZE.put v (s.fld F.ringCfg_LOG2SIZE n) else v
    let s1 := s.store w .ringCfg v1 n
    if F.ringCfg_EN.get v = 0 then s1
    else
      let s2 := s1.setRing r { s1.ring r with stopped := false }
      if was then s2
      else ((s2.setFld F.ringIdx_PIDX (s2.fld F.ringIdx_CIDX n) n).setFld F.ringStat_FULL 0 n).setRing r
        { s2.ring r with phase := true }

/-- A write of a ring's base: ignored while EN = 1. -/
def State.wrRingBase (s : State) (w : Writer) (k : RegKind) (r : Nat) (v : Word) : State :=
  if !isBlock w then s.authorityFault w else if s.bit F.ringCfg_EN r then s else s.store w k v r

/-- RING_ENABLE (R236). -/
def execRingEnable (w : Writer) (r : BitVec 10) (v : Word) (s : State) : Out := .next (s.access w fun s => s.wrRingCfg w r v)

/-! ## Counters and views (R226, R230 to R235) -/

/-- SLAGLOST_READ (R230). -/
def execSlaglostRead (s : State) : Out := .next (s.readStored .qeSlaglost 0 0)

/-- SLAGCNT_READ (R230): reasons 1 to 9 have a counter. -/
def execSlagcntRead (r : BitVec 4) (s : State) : Out :=
  .next (if 1 ≤ r.toNat ∧ r.toNat ≤ 9 then s.readStored .qeSlagcnt (r.toNat - 1) 0 else { s with answer := 0 })

/-- QE.QSTAT as it reads. -/
def State.qstatView (s : State) (q : Qid) : Word :=
  let x := s.queue q
  BitVec.ofNat 32 (2 ^ 31 * x.opened.isSome.toNat + 2 ^ 16 * (if s.packetMode q then x.pkts % 2 ^ 15 else 0) +
    2 ^ 15 * x.partial_.toNat + x.depth % 2 ^ 15)

/-- QE.QUAD as it reads. -/
def State.quadView (s : State) (k : Quadrant) : Word :=
  let x := s.quad k
  BitVec.ofNat 32 (2 ^ 31 * (!x.waiters.isEmpty || !x.claims.isEmpty).toNat + x.free % 2 ^ 17)

/-- A push of owner o waits for a slot. -/
def State.ownerWaits (s : State) (o : BitVec 12) : Bool :=
  s.quads.any fun kv => kv.2.waiters.any (fun w => w.owner == o) || kv.2.claims.any (fun w => w.owner == o)

/-- QE.OWNSTAT as it reads. -/
def State.ownstatView (s : State) (o : BitVec 12) : Word :=
  BitVec.ofNat 32 (2 ^ 31 * (s.overShown o).toNat + 2 ^ 30 * (s.ownerWaits o).toNat + (s.owner o).use % 2 ^ 19)

/-- QE.OWNFUSE as it reads. -/
def State.ownfuseView (s : State) (o : BitVec 12) : Word := BitVec.ofNat 32 ((s.owner o).fuse % 2 ^ 14)

end Sys2Proof.Machine
end

