-- ==== Sys2Proof/Machine/TimeControl.lean ====
section
/-!
DEFINITION. Time bases as commands (R301 to R328, R527): references and their observations, the monitor with holdover and
switching, the slewing correction, and the registers of the time-base unit.
-/

namespace Sys2Proof.Machine

/-! ## Showing exact quantities -/

/-- x cut to an integer, or rounded up (free, log entry 8), as a word of w bits. Log entry 8 (DESIGN CHOICE). -/
def State.showRat (s : State) (x : Rat) (w : Nat) : BitVec w × State :=
  if (x.floor : Rat) = x then (BitVec.ofInt w x.floor, s)
  else
    let r := s.roundUp
    (BitVec.ofInt w (if r.1 then x.floor + 1 else x.floor), r.2)

/-- x reduced into the half-open ring (-w/2, w/2]: a signed difference of two values of a base. -/
def ratSigned (x : Rat) (w : Nat) : Rat :=
  let r := ratMod x w
  if (w : Rat) < 2 * r then r - w else r

/-- Units of value per ns of a rate of 1. -/
def State.unitOf (s : State) (n : BaseId) : Rat := unitPerNs (s.isNet n)

/-! ## References (R304, R316) -/

def refIds : List (BitVec 2) := [0, 1, 2, 3]
def baseIds : List BaseId := (List.range 15).map fun i => BitVec.ofNat 4 (i + 1)

def State.refFld (s : State) (f : Fld) (n : BaseId) (j : BitVec 2) : Nat := s.fld f n.toNat j.toNat
def State.refBit (s : State) (f : Fld) (n : BaseId) (j : BitVec 2) : Bool := s.bit f n.toNat j.toNat
def State.setRefFld (s : State) (f : Fld) (v : Nat) (n : BaseId) (j : BitVec 2) : State := s.setFld f v n.toNat j.toNat

/-- Base n is in use (R301). -/
def State.baseOn (s : State) (n : BaseId) : Bool := n != 0 && s.bit F.tbCfg_EN n.toNat && (s.base n).st != .off

/-- TIME flits of a node are current: the last arrived within four periods (R422). -/
def State.timeCurrent (s : State) (node : Nat) : Bool :=
  let t := smGet 0 s.chain.timeSeen node
  t != 0 && decide (s.ns + 1 ≤ t + 1000 * (4 * s.fld F.chnTcfg_PERIOD))

/-- Reference j of base n is valid (R316). -/
def State.refValid (s : State) (n : BaseId) (j : BitVec 2) : Bool :=
  s.refBit F.tbRefcfg_V n j &&
    match s.refFld F.tbRefcfg_SRC n j with
    | 0 => (s.ref n j).valid
    | 1 => s.timeCurrent (s.refFld F.tbRefarg_ARG n j)
    | _ => match (s.ref n j).obs with
      | some o => decide (s.tbRat ≤ o.1 + 1000 * (s.fld F.tbObsto_TIMEOUT n.toNat : Nat))
      | none => false

/-- OFFSET of an entry, signed. -/
def State.refOffset (s : State) (n : BaseId) (j : BitVec 2) : Int := (s.reg .tbRefoff n.toNat j.toNat).toInt

/-- An observation or packet is discarded and counted. -/
def State.refError (s : State) (n : BaseId) (j : BitVec 2) : State := s.satAdd F.tbRefstat_ERR 1 n.toNat j.toNat

/-- The rate of two observations: ns per ns for NET, cycles per second otherwise. -/
def State.rateOf (s : State) (n : BaseId) (a b : Rat × Int) : Rat :=
  if b.1 ≤ a.1 then 0 else ((b.2 - a.2 : Int) : Rat) / ((b.1 - a.1) * s.unitOf n)

/-! ## Following a reference (R311 to R315, R320) -/

/-- The lap of its ring in which a value lies. -/
def State.lapOf (s : State) (n : BaseId) (v : Rat) : Int := (v / (s.ringOf n : Rat)).floor

/-- A discontinuity: the generation increments and the anchor is set directly from the observation (R320). -/
def State.discontinuity (s : State) (n : BaseId) (t : Rat) (y : Int) (rate : Rat) : State :=
  let s1 := s.newGeneration n
  s1.setBase n { s1.base n with ta := t, va := y, rate := rate, phi := 0, corr := 0, zeroLap := some (s.lapOf n y) }

/-- PTOL is exceeded by a rate (R311). -/
def State.beyondPtol (s : State) (n : BaseId) (r : Rat) : Bool :=
  let p := s.fld F.tbPred_PTOL n.toNat
  let b := s.base n
  decide (p ≠ 0) && decide (ratAbs b.rate * (p : Nat) / 256 < ratAbs (r - b.rate))

/-- The rate filter (R311, R312). -/
def State.filtered (s : State) (n : BaseId) (r : Rat) : Rat :=
  let b := s.base n
  b.rate + (r - b.rate) / (2 ^ s.fld F.tbPred_K n.toNat : Nat)

/-- An observation of the selected NET reference (R311): 1/16 of the error, never below the value of the cycle before. -/
def State.followNet (s : State) (n : BaseId) (t : Rat) (y : Int) : State :=
  let b := s.base n
  let v := baseValueAt true b t
  let phi := basePhiAt true b t
  let e := (y : Rat) - phi - v
  let b1 := { b with ta := t, va := v + e / 16, phi := phi, corr := if phi = 0 then 0 else b.corr }
  let prev := baseValueAt true b (s.tbRat - ((s.incNow.toNat : Nat) : Rat) / 4294967296)
  let now := baseValueAt true b1 s.tbRat
  s.setBase n (if now < prev then { b1 with va := b1.va + (prev - now) } else b1)

/-- An observation of the selected ANGLE or MAINS reference (R311, R313); one that steps against the direction is followed
like any other until the reversal is confirmed. -/
def State.followTurn (s : State) (n : BaseId) (t : Rat) (y : Int) (prev : Option (Rat × Int)) : State :=
  let b := s.base n
  let phi := basePhiAt false b t
  let b1 := { b with ta := t, va := (y : Rat) - phi, phi := phi, corr := if phi = 0 then 0 else b.corr }
  match prev with
  | none => s.setBase n b1
  | some p =>
    let r := s.rateOf n p (t, y)
    let against := decide (y ≠ p.2) && (decide (y < p.2) != b.back)
    let turns := s.baseKind n == .angle && against
    let count := if turns then b.backCount + 1 else 0
    if turns && decide (s.fld F.tbPred_DIRCONF n.toNat ≤ count) then
      let s1 := s.setBase n { b with back := !b.back, backCount := 0 }
      s1.discontinuity n t y (if b.back then ratAbs r else - ratAbs r)
    else
      let s1 := s.setBase n { b with backCount := count }
      if s1.beyondPtol n r then s1.discontinuity n t y r
      else s1.setBase n { b1 with backCount := count, rate := s1.filtered n r }

/-- The lowest-ranked valid reference that has what R314 asks for; a lower rank that is valid and has it not yet waits. -/
def State.acquired (s : State) (n : BaseId) : Option (BitVec 2) :=
  match refIds.find? (s.refValid n) with
  | none => none
  | some j =>
    let x := s.ref n j
    match x.obs, x.prev with
    | some _, none => if s.isNet n then some j else none
    | some o, some p =>
      if s.isNet n then some j
      else if o.2 = p.2 then none
      else if s.baseKind n == .mains && decide (o.2 < p.2) then none
      else some j
    | none, _ => none

/-- A base takes reference j: V_a := y, and its rate (R314, R315). -/
def State.lockOn (s : State) (n : BaseId) (j : BitVec 2) : State :=
  let x := s.ref n j
  match x.obs with
  | none => s
  | some o =>
    let r := match x.prev with
      | some p => s.rateOf n p o
      | none => 1
    let rate := if s.isNet n then 1 else r
    s.setBase n { s.base n with st := .locked, ta := o.1, va := o.2, rate := rate, savedRate := rate, phi := 0, corr := 0
                                sel := j, back := decide (rate < 0), backCount := 0, hist := 0
                                zeroLap := some (s.lapOf n o.2) }

/-- Record an observation of reference j. -/
def State.record (s : State) (n : BaseId) (j : BitVec 2) (t : Rat) (y : Int) : State :=
  let x := s.ref n j
  s.setRef n j { x with prev := x.obs, obs := some (t, y), winFirst := x.winFirst.orElse fun _ => some (t, y) }

/-- An observation of reference j at TB0 time t (ns) with value y, with its step flag (R306, R311).
Log entry 29 (DEDUCED). -/
def State.observe (s : State) (n : BaseId) (j : BitVec 2) (t : Rat) (y : Int) (step : Bool) : State :=
  let b := s.base n
  let prev := (s.ref n j).obs
  let backward := s.baseKind n == .mains && (match prev with | some p => decide (y < p.2) | none => false)
  if backward && b.st != .off then s.refError n j
  else if s.slaved n && b.st != .off then s.record n j t y
  else match b.st with
  | .off => s
  | .acquire =>
    let s1 := s.record n j t y
    match s1.acquired n with
    | some k => s1.lockOn n k
    | none => s1
  | .holdover => s.record n j t y
  | .still =>
    let s1 := s.record n j t y
    if j ≠ b.sel then s1
    else match prev with
      | none => s1
      | some p =>
        if y = p.2 then s1
        else
          let s2 := s1.discontinuity n t y (s1.rateOf n p (t, y))
          s2.setBase n { s2.base n with st := .locked, back := decide (y < p.2), backCount := 0 }
  | .locked =>
    if j ≠ b.sel then s.record n j t y
    else if s.isNet n then
      if step then
        let s1 := (s.record n j t y).discontinuity n t y b.rate
        s1.setBase n { s1.base n with stepDue := true }
      else
        let e := (y : Rat) - basePhiAt true b t - baseValueAt true b t
        if ((s.fld F.tbPred_ETOL n.toNat : Nat) : Rat) < ratAbs e then s.refError n j
        else (s.record n j t y).followNet n t y
    else (s.record n j t y).followTurn n t y prev

/-! ## The time port (R305, R527) -/

/-- TIME_PORT_WORD (R527): the word is captured; NT_STEP sets the step latch. -/
def execTimePortWord (time : BitVec 64) (valid step : Bool) (s : State) : Out :=
  .next { s with soc := { s.soc with ntTime := time, ntValid := valid, ntStep := s.soc.ntStep || step } }

/-- The PORT entry j of base n takes a sample. -/
def State.portSample (s : State) (n : BaseId) (j : BitVec 2) (step : Bool) : State :=
  if s.baseOn n && s.refBit F.tbRefcfg_V n j && s.refFld F.tbRefcfg_SRC n j == 0 then
    let s1 := s.setRef n j { s.ref n j with valid := s.soc.ntValid }
    if s.soc.ntValid then s1.observe n j s.tbRat ((s.soc.ntTime.toNat : Int) + s.refOffset n j) step else s1
  else s

/-- Apply a change for every reference entry of every base. -/
def State.eachRef (s : State) (f : State → BaseId → BitVec 2 → State) : State :=
  baseIds.foldl (fun s n => refIds.foldl (fun s j => f s n j) s) s

/-- The sample of a cycle with C mod 16 = 0. -/
def State.timeSample (s : State) : State :=
  if s.cycle % 16 ≠ 0 then s
  else
    let step := s.soc.ntStep
    let s1 := { s with soc := { s.soc with ntStep := false } }
    let s2 := s1.setReg .tbPortl (s.soc.ntTime.extractLsb' 0 32) |>.setReg .tbPorth (s.soc.ntTime.extractLsb' 32 32)
    let s3 := s2.setFld F.tbPort_NT_VALID s.soc.ntValid.toNat
    let s4 := if step then s3.satAdd F.tbPort_STEPS 1 else s3
    s4.eachRef fun s n j => s.portSample n j step

/-- TIME_PORT_SAMPLE (R305). -/
def execTimePortSample (s : State) : Out := .next s.timeSample

/-! ## Captures (R307 to R309) -/

/-- Read the words of the candidate packet of a queue for a unit, up to its END; fuel is the queue's depth. -/
def State.readPacket (s : State) (q : Qid) (r : Reader) : Nat → List (BitVec 64) → List (BitVec 64) × State
  | 0, acc => (acc, s)
  | n + 1, acc =>
    match s.popItem q r with
    | (none, s1) => (acc, s1)
    | (some x, s1) => if itemEnd x.1 then (acc ++ [x.1], s1) else s1.readPacket q r n (acc ++ [x.1])

/-- The latest value of TB0, not after now, whose bits [47:16] equal a word, in ns (R308). Log entry 29 (DEDUCED). -/
def State.edgeTime (s : State) (w : Word) : Rat :=
  let ns := s.ns - (s.ns + 2 ^ 32 - w.toNat) % 2 ^ 32
  let top := 2 ^ 32 * (ns + 1)
  let sum := s.tbAbs
  let inc := s.incNow.toNat
  let back := if sum < top then 0 else if inc = 0 then 0 else (sum - top) / inc + 1
  let v := sum - back * inc
  let v1 := if v < 2 ^ 32 * ns ∨ top ≤ v then 2 ^ 32 * ns else v
  ((v1 / 65536 : Nat) : Rat) / 65536

/-- Sector of a Hall state (R309). -/
def hallSector (h : Nat) : Option Nat :=
  match h with
  | 1 => some 0
  | 3 => some 1
  | 2 => some 2
  | 6 => some 3
  | 4 => some 4
  | 5 => some 5
  | _ => none

/-- A 32-bit difference read as signed. -/
def signedDiff (a b : Nat) : Int := (BitVec.ofNat 32 a - BitVec.ofNat 32 b).toInt

/-- A capture of an entry turned into its running position, or discarded (`none`); `some none` is ignored without count.
The count starts with the base alone, not with a change of the entry or of its capture channel: log entry 75 (DESIGN
CHOICE). -/
def capturePos (x : RefEntry) (capt lane : Nat) (v : Word) : Option (Option RefEntry) :=
  match capt with
  | 0 =>
    match hallSector (bitsOf v 0 3), decide (v.toNat < 8) with
    | some k, true =>
      match x.raw with
      | none => some (some { x with raw := some k, pos := 0 })
      | some p =>
        if (k + 6 - p) % 6 = 1 then some (some { x with raw := some k, pos := x.pos + 1 })
        else if (k + 6 - p) % 6 = 5 then some (some { x with raw := some k, pos := x.pos - 1 })
        else none
    | _, _ => none
  | 3 =>
    if 4 ≤ v.toNat then none
    else if v.toNat ≠ lane then some none
    else match x.raw with
      | none => some (some { x with raw := some 0, pos := 0 })
      | some _ => some (some { x with pos := x.pos + 2 ^ 32 })
  | _ =>
    match x.raw with
    | none => some (some { x with raw := some v.toNat, pos := 0 })
    | some p => some (some { x with raw := some v.toNat, pos := x.pos + signedDiff v.toNat p })

/-- The position p of R309. -/
def State.positionOf (s : State) (n : BaseId) (j : BitVec 2) : Int :=
  let x := s.ref n j
  let sc : Int := s.refFld F.tbRefcfg_SCALE n j
  match s.refFld F.tbRefcfg_CAPT n j with
  | 0 => 2 ^ 32 * x.pos / (6 * sc)
  | 1 => 2 ^ 32 * x.pos / sc
  | _ => x.pos

/-- A packet read from a capture queue reaches the time-base unit. -/
def State.capture (s : State) (n : BaseId) (j : BitVec 2) (items : List (BitVec 64)) : State :=
  match items with
  | [w1, w2] =>
    if itemKind w1 ≠ 0 ∨ (itemKind w2).toNat ≠ s.refFld F.tbRefcfg_CAPT n j + 1 then s.refError n j
    else
      match capturePos (s.ref n j) (s.refFld F.tbRefcfg_CAPT n j) (s.refFld F.tbRefcfg_LANE n j) (itemPayload w2) with
      | none => s.refError n j
      | some none => s
      | some (some x) =>
        let s1 := s.setRef n j x
        s1.observe n j (s1.edgeTime (itemPayload w1)) (s1.positionOf n j + s1.refOffset n j) false
  | _ => s.refError n j

/-- CAPTURE_PACKET (R307, R308): the signal engine hands on the candidate packet of the entry's capture queue. -/
def execCapturePacket (n : BaseId) (j : BitVec 2) (s : State) : Out :=
  let q := BitVec.ofNat 14 (s.refFld F.tbRefarg_ARG n j)
  .next (if !s.baseOn n || !s.refBit F.tbRefcfg_V n j || s.refFld F.tbRefcfg_SRC n j != 2 || s.faults.sigLost ||
      (s.dom 20).st != .on || s.fld F.qeQcfg_RKIND q.toNat != 3 then s
    else s.atDomain (quadDomain (quadrantOf q)) fun s =>
      let r := s.readPacket q .signalEngine (s.queue q).depth []
      if r.1.isEmpty then s else r.2.capture n j r.1)

/-! ## Holdover, STILL and switching (R315, R318, R319, R321) -/

/-- The saved rate takes over with c = 0; the value does not step (R319). -/
def State.enterHoldover (s : State) (n : BaseId) : State :=
  let s1 := s.reanchor n
  let s2 := refIds.foldl (fun s j =>
    if s.refBit F.tbRefstat_EXCL n j then s else s.setRef n j { s.ref n j with streak := 0 }) s1
  s2.setBase n { s2.base n with st := .holdover, rate := (s2.base n).savedRate, corr := 0, hist := 0 }

/-- The value stops, R := 0, and the generation increments (R315). -/
def State.enterStill (s : State) (n : BaseId) : State :=
  let b := s.base n
  let v := baseValueAt (s.isNet n) b s.tbRat
  let s1 := s.newGeneration n
  let s2 := refIds.foldl (fun s j => s.setRef n j { s.ref n j with obs := none, prev := none, winFirst := none }) s1
  s2.setBase n { s2.base n with st := .still, va := v, ta := s.tbRat, rate := 0, phi := 0, corr := 0, hist := 0 }

/-- No reference of the base is valid. -/
def State.noneValid (s : State) (n : BaseId) : Bool := !refIds.any (s.refValid n)

/-- The base leaves its selected reference. -/
def State.leaveReference (s : State) (n : BaseId) : State :=
  if !s.isNet n && s.noneValid n then s.enterStill n else s.enterHoldover n

/-- REFERENCE_LOST (R318). -/
def execReferenceLost (n : BaseId) (s : State) : Out :=
  .next (if s.baseOn n && (s.base n).st == .locked && !s.slaved n && !s.refValid n (s.base n).sel then
      (s.raise F.tbStat_REFLOST n.toNat).leaveReference n
    else s)

/-- STILL_TIMEOUT (R315): a base that was LOCKED has lost its selected reference with the others (R318). -/
def execStillTimeout (n : BaseId) (s : State) : Out :=
  let st := (s.base n).st
  .next (if s.baseOn n && !s.isNet n && (st == .locked || st == .holdover) && !s.slaved n && s.noneValid n then
      (if st == .locked then s.raise F.tbStat_REFLOST n.toNat else s).enterStill n
    else s)

/-- The rate of reference j over the running window. -/
def State.windowRate (s : State) (n : BaseId) (j : BitVec 2) : Option Rat :=
  match (s.ref n j).winFirst, (s.ref n j).obs with
  | some a, some b => if a.1 < b.1 then some (s.rateOf n a b) else none
  | _, _ => none

/-- A switch to reference j (R321): Φ takes the difference, V does not step. -/
def State.switchTo (s : State) (n : BaseId) (j : BitVec 2) (rate : Option Rat) : State :=
  let s1 := s.reanchor n
  match (s1.ref n j).obs with
  | none => s1
  | some o =>
    let r := match rate with
      | some r => r
      | none => (s1.base n).rate
    let y := (o.2 : Rat) + r * (s1.tbRat - o.1) * s1.unitOf n
    let b := s1.base n
    let v := baseValueAt (s1.isNet n) b s1.tbRat
    let phi := if b.quenches.any (fun q => q.1 == s1.cycle) then 0 else ratSigned (y - v) (s1.ringOf n)
    let s2 := s1.setBase n { b with st := .locked, sel := j, va := v, ta := s1.tbRat, phi := phi, corr := 0 }
    s2.setRef n j { s2.ref n j with readmit := false }

/-! ## The monitor (R312, R316 to R319, R323) -/

/-- Rate a exceeds TOL ppm of rate b. -/
def offTol (tol : Nat) (a b : Rat) : Bool := decide (ratAbs b * (tol : Nat) < 1000000 * (ratAbs (a - b)))

/-- The comparisons of reference k: with the other valid references that are not excluded, and for NET with TB0. -/
def State.comparisons (s : State) (n : BaseId) (k : BitVec 2) (rk : Rat) : List Bool :=
  let tol := s.fld F.tbMon_TOL n.toNat
  let others := refIds.filterMap fun j =>
    if j ≠ k && s.refValid n j && !s.refBit F.tbRefstat_EXCL n j then (s.windowRate n j).map fun r => offTol tol r rk
    else none
  others ++ (if s.isNet n then [decide ((tol : Nat) < 1000000 * (ratAbs (rk - 1)))] else [])

/-- |r| lies outside RANGE (R317), for ANGLE and MAINS. -/
def State.outOfRange (s : State) (n : BaseId) (r : Rat) : Bool :=
  let lo : Rat := (s.fld F.tbRange_RMIN n.toNat : Nat) / 64
  let hi := s.fld F.tbRange_RMAX n.toNat
  !s.isNet n && (decide (ratAbs r < lo) || (hi != 0 && decide ((hi : Nat) / 64 < ratAbs r)))

/-- The window is bad for reference k (R317). -/
def State.windowBad (s : State) (n : BaseId) (k : BitVec 2) : Bool :=
  match s.windowRate n k with
  | none => false
  | some r =>
    let c := s.comparisons n k r
    decide (c.length < 2 * (c.filter fun b => b).length) || s.outOfRange n r

/-- INTOL, OFFS and the streak of every valid reference. -/
def State.judgeRef (s : State) (n : BaseId) (j : BitVec 2) : State :=
  let ok := s.refValid n j && (s.windowRate n j).isSome && !s.windowBad n j
  let s1 := (s.setRefFld F.tbRefstat_INTOL ok.toNat n j).setRef n j
    { s.ref n j with streak := if ok then (s.ref n j).streak + 1 else 0 }
  if !s.refValid n j || s.refBit F.tbRefstat_EXCL n j then s1
  else match s.windowRate n j, s.windowRate n (s.base n).sel with
    | some r, some rs =>
      if rs = 0 then s1
      else
        let x := ratMax (-32767) (ratMin 32767 (1000000 * ((r - rs) / rs)))
        let o := s1.showRat x 16
        o.2.setRefFld F.tbRefstat_OFFS o.1.toNat n j
    | _, _ => s1

/-- The rate of a NET base once a window (R312). -/
def State.netRate (s : State) (n : BaseId) : State :=
  if !s.isNet n then s
  else match s.windowRate n (s.base n).sel, (s.ref n (s.base n).sel).obs with
    | some r, some o =>
      let s1 := s.reanchor n
      if s1.beyondPtol n r then s1.discontinuity n o.1 o.2 r
      else s1.setBase n { s1.base n with rate := s1.filtered n r }
    | _, _ => s

/-- N of the last M verdicts are bad (R318). -/
def State.drifted (s : State) (n : BaseId) : Bool :=
  let m := s.fld F.tbMon_M n.toNat
  let bad := ((List.range m).filter fun i => (s.base n).hist.getLsbD i).length
  decide (s.fld F.tbMon_N n.toNat ≤ bad)

/-- The verdict on the selected reference (R317, R318). Log entry 29 (DEDUCED). -/
def State.verdict (s : State) (n : BaseId) : State :=
  let bad := s.windowBad n (s.base n).sel
  let s1 := s.netRate n
  let b := s1.base n
  let h := b.hist * 2 ||| (if bad then 1 else 0)
  let s2 := s1.setBase n { b with hist := h, savedRate := if bad then b.savedRate else b.rate }
  if bad && s2.drifted n then
    (((s2.raise F.tbStat_DRIFT n.toNat).raise F.tbRefstat_EXCL n.toNat b.sel.toNat).pulse (0xA10 + n.toNat)).leaveReference n
  else s2

/-- The lowest-ranked valid reference, not excluded, that meets a test. -/
def State.bestRef (s : State) (n : BaseId) (f : BitVec 2 → Bool) : Option (BitVec 2) :=
  refIds.find? fun j => s.refValid n j && !s.refBit F.tbRefstat_EXCL n j && f j

/-- Automatic readmission after M windows in tolerance (R323). -/
def State.readmitRef (s : State) (n : BaseId) (j : BitVec 2) : State :=
  if s.refBit F.tbRefstat_EXCL n j && decide (s.fld F.tbMon_M n.toNat ≤ (s.ref n j).streak) then
    (s.setRefFld F.tbRefstat_EXCL 0 n j).setRef n j { s.ref n j with readmit := true }
  else s

/-- The switches of a window's end: out of holdover (R319), or back to a readmitted reference of lower rank (R323). -/
def State.windowSwitch (s : State) (n : BaseId) (held : Bool) : State :=
  let b := s.base n
  if held then
    match s.bestRef n (fun j => j != b.sel && decide (s.fld F.tbPred_HOLDMIN n.toNat ≤ (s.ref n j).streak)) with
    | some j => s.switchTo n j (s.windowRate n j)
    | none => s
  else if b.st == .locked && s.bit F.tbCfg_REVERT n.toNat then
    match s.bestRef n (fun j => decide (j < b.sel) && (s.ref n j).readmit) with
    | some j => s.switchTo n j (s.windowRate n j)
    | none => s
  else s

/-- Writes that wait for the window end take effect (R324). -/
def State.applyRefWrites (s : State) (n : BaseId) (j : BitVec 2) : State :=
  let f := fun (s : State) (kv : Nat × Word) =>
    match kv.1 with
    | 0 => s.setReg .tbRefcfg kv.2 n.toNat j.toNat
    | 1 => s.setReg .tbRefarg kv.2 n.toNat j.toNat
    | _ => s.setReg .tbRefoff kv.2 n.toNat j.toNat
  let s1 := (s.ref n j).pend.foldl f s
  s1.setRef n j { s1.ref n j with pend := [] }

/-- Index of the window that runs now (R316). -/
def State.windowNow (s : State) (n : BaseId) : Nat := s.ns / 2 ^ s.fld F.tbMon_WLOG n.toNat

/-- The end of the oldest window not yet evaluated. Log entry 29 (DEDUCED). -/
def State.windowEnd (s : State) (n : BaseId) : State :=
  let b := s.base n
  if !s.baseOn n || decide (s.windowNow n ≤ b.lastWin) then s
  else
    let s0 := s.setBase n { b with lastWin := b.lastWin + 1 }
    let s1 :=
      if b.st == .locked || b.st == .holdover then
        let j1 := refIds.foldl (fun s j => s.judgeRef n j) s0
        let j2 := if b.st == .locked && !s.slaved n then j1.verdict n else j1
        let j3 := refIds.foldl (fun s j => s.readmitRef n j) j2
        (if s.slaved n then j3 else j3.windowSwitch n (b.st == .holdover)).satAdd F.tbWin_WINDOWS 1 n.toNat
      else s0
    refIds.foldl (fun s j =>
      (s.setRef n j { s.ref n j with winFirst := (s.ref n j).obs }).applyRefWrites n j) s1

/-- ESTIMATION_WINDOW_END (R316). -/
def execEstimationWindowEnd (n : BaseId) (s : State) : Out := .next (s.windowEnd n)

/-! ## Slewing (R322) -/

/-- The square root of a non-negative rational, cut to 2^-64 or rounded up by that much (free, log entry 8).
Log entry 8 (DESIGN CHOICE). -/
def State.ratSqrt (s : State) (x : Rat) : Rat × State :=
  let n := (2 ^ 128 * x).floor.toNat
  let r := s.roundUp
  (((isqrt n + (if r.1 then 1 else 0) : Nat) : Rat) / 2 ^ 64, r.2)

/-- The target correction c*. -/
def State.targetCorr (s : State) (n : BaseId) : Rat × State :=
  let b := s.base n
  let cmax : Rat := (s.fld F.tbServo_CMAX n.toNat : Nat) / 1000000
  let slew : Rat := (s.fld F.tbServo_SLEW n.toNat : Nat) / 1000000
  if b.rate = 0 then (ratSign b.phi * cmax, s)
  else
    let secs := ratAbs b.phi / ratAbs b.rate / (1000000000 * (s.unitOf n))
    let q := s.ratSqrt (2 * slew * secs)
    (ratSign b.phi * ratMin cmax q.1, q.2)

/-- The correction moves toward its target, at most SLEW over 1,024 cycles. -/
def State.slew (s : State) (n : BaseId) : State :=
  let b0 := s.base n
  if !s.baseOn n || s.slaved n || decide (s.cycle < b0.lastSlew + 1024) then s
  else
    let s1 := (s.setBase n { b0 with lastSlew := s.cycle }).reanchor n
    let b := s1.base n
    if b.st != .locked || decide (b.phi = 0) then s1
    else
      let q := s1.targetCorr n
      let slew : Rat := (s.fld F.tbServo_SLEW n.toNat : Nat) / 1000000
      let d := 1024 * slew * (s.incNow.toNat : Nat) / (4294967296 * 1000000000)
      let c := ratMax (b.corr - d) (ratMin (b.corr + d) q.1)
      q.2.setBase n { b with corr := c }

/-- SLEW_UPDATE (R322). -/
def execSlewUpdate (n : BaseId) (s : State) : Out := .next (s.slew n)

/-! ## Registers (R303, R324 to R328) -/

/-- A write of REFSTAT: 1 to EXCL readmits the reference (R323). -/
def State.wrRefstat (s : State) (w : Writer) (n : BaseId) (j : BitVec 2) (v : Word) : State :=
  if !isBlock w then s.authorityFault w
  else if n = 0 || !s.refBit F.tbRefstat_EXCL n j || flagAfter true F.tbRefstat_EXCL v (s.setNow .tbRefstat n.toNat j.toNat) then s
  else (s.setRefFld F.tbRefstat_EXCL 0 n j).setRef n j { s.ref n j with readmit := true }

/-- REF_READMIT (R323). -/
def execRefReadmit (w : Writer) (n : BaseId) (j : BitVec 2) (s : State) : Out :=
  .next (s.access w fun s => s.wrRefstat w n j (F.tbRefstat_EXCL.put 0 1))

/-- A write of TB.T0INC (R303): sealed with the billet. -/
def State.wrT0inc (s : State) (w : Writer) (v : Word) : State :=
  if !isBlock w then s.authorityFault w else s.store w .tbT0inc v

/-- T0INC_WRITE (R303). -/
def execT0incWrite (w : Writer) (v : Word) (s : State) : Out := .next (s.access w fun s => s.wrT0inc w v)

/-- A REFCFG value that may be written to base n (R304, R327). -/
def State.refcfgOk (s : State) (n : BaseId) (v : Word) : Bool :=
  let src := F.tbRefcfg_SRC.get v
  let capt := F.tbRefcfg_CAPT.get v
  let lane := F.tbRefcfg_LANE.get v
  let scale := F.tbRefcfg_SCALE.get v
  let scaled := src == 2 && decide (capt < 2)
  src != 3 && (src == 2 || capt == 0) && ((src == 2 && capt == 3) || lane == 0) &&
    (scaled || scale == 0) &&
    (F.tbRefcfg_V.get v == 0 || ((s.isNet n == decide (src < 2)) && (!scaled || decide (0 < scale))))

/-- A write of REFCFG, REFARG or REFOFF: ignored for the selected reference, at the next window end otherwise. -/
def State.wrRef (s : State) (w : Writer) (k : RegKind) (n : BaseId) (j : BitVec 2) (v : Word) : State :=
  let b := s.base n
  if !isBlock w then s.authorityFault w
  else if n = 0 || (k == .tbRefcfg && !s.refcfgOk n v) then s
  else if w = .boot || b.st == .off then s.store w k v n.toNat j.toNat
  else if b.st != .acquire && j == b.sel then s
  else
    let i := match k with | .tbRefcfg => 0 | .tbRefarg => 1 | _ => 2
    let x := s.ref n j
    s.setRef n j { x with pend := (x.pend.filter fun p => p.1 != i) ++ [(i, visible k.desc v)] }

/-- The KIND that a write of TB.CFG leaves: the written one while it can be written, the sealed one after (R301, R302). -/
def State.kindAfter (s : State) (w : Writer) (n : BaseId) (v : Word) : Nat :=
  if w = .boot ∨ !s.boot.seald then F.tbCfg_KIND.get v else s.fld F.tbCfg_KIND n.toNat

/-- A settings value that may be written, to a base of the given KIND (R302, R325, R326). -/
def tbValueOk (k : RegKind) (kind : Nat) (v : Word) : Bool :=
  match k with
  | .tbCfg => F.tbCfg_KIND.get v != 3 && (kind != 0 || F.tbCfg_WRAP.get v == 0)
  | .tbMon =>
    decide (16 ≤ F.tbMon_WLOG.get v) && decide (F.tbMon_WLOG.get v ≤ 34) && decide (0 < F.tbMon_M.get v) &&
      decide (0 < F.tbMon_N.get v) && decide (F.tbMon_N.get v ≤ F.tbMon_M.get v)
  | .tbPred => decide (0 < F.tbPred_HOLDMIN.get v) && decide (0 < F.tbPred_DIRCONF.get v)
  | .tbObsto => decide (0 < F.tbObsto_TIMEOUT.get v)
  | _ => true

/-- A write of a settings register of base n. -/
def State.wrTb (s : State) (w : Writer) (k : RegKind) (n : BaseId) (v : Word) : State :=
  if !isBlock w then s.authorityFault w
  else if n = 0 || !tbValueOk k (s.kindAfter w n v) v then s
  else
    let s1 := s.store w k v n.toNat
    if k == .tbMon then s1.setBase n { s1.base n with lastWin := s1.windowNow n } else s1

/-- State codes (R325). -/
def TbState.code : TbState → Nat
  | .off => 0
  | .acquire => 1
  | .locked => 2
  | .holdover => 3
  | .still => 4

/-- TB.STAT as it reads. -/
def State.tbStatView (s : State) (n : BaseId) : Word :=
  if n = 0 then F.tbStat_STATE.put 0 2
  else
    let b := s.base n
    let v := F.tbStat_STATE.put (F.tbStat_SEL.put (s.reg .tbStat n.toNat) b.sel.toNat) b.st.code
    let v1 := F.tbStat_DIR.put (F.tbStat_GEN.put v b.gen.toNat) b.back.toNat
    F.tbStat_SLEWING.put v1 (decide (basePhiAt (s.isNet n) b s.tbRat ≠ 0)).toNat

/-- What a read latch holds after a reset (R8): 2000-01-01 for EMB.CAL1 (R491), 0 for the others. -/
def latchReset (kind : Nat) (n : BaseId) : Word := if kind = 8 && n == 0 then 0x07D00101 else 0

/-- Key of a latch: master, kind of pair and base. -/
def latchKey (mst : Master) (kind : Nat) (n : BaseId) : Nat := 256 * mst.toNat + kind * 16 + n.toNat

/-- Read of the low register of a pair: the low word, and the high word latched for the master (R324). -/
def State.readPair (s : State) (mst : Master) (kind : Nat) (n : BaseId) (v : BitVec 64) : State :=
  { s with answer := (v.extractLsb' 0 32).setWidth 64
           latches := smSet 0 s.latches (latchKey mst kind n) (v.extractLsb' 32 32) }

/-- The latched high word. -/
def State.latched (s : State) (mst : Master) (kind : Nat) (n : BaseId) : Word :=
  smGet (latchReset kind n) s.latches (latchKey mst kind n)

/-- TB_VALL_READ (R324). -/
def State.readVall (s : State) (mst : Master) (n : BaseId) : State :=
  let r := s.baseWord n
  r.2.readPair mst 0 n r.1

def execTbVallRead (mst : Master) (n : BaseId) (s : State) : Out := .next (s.readVall mst n)

/-- R as its registers show it: rho in 2^-40 for NET, 32.32 cycles per second otherwise. -/
def State.readRatel (s : State) (mst : Master) (n : BaseId) : State :=
  let b := s.base n
  let x := if n = 0 ∨ b.st = .off ∨ b.st = .acquire then 0 else if s.isNet n then 2 ^ 40 * (b.rate - 1) else 2 ^ 32 * b.rate
  let r := s.showRat x 64
  r.2.readPair mst 1 n r.1

/-- Φ as its registers show it. -/
def State.readPhil (s : State) (mst : Master) (n : BaseId) : State :=
  let r := s.showRat (basePhiAt (s.isNet n) (s.base n) s.tbRat) 64
  r.2.readPair mst 2 n r.1

/-- c as its register shows it, in units of 2^-32. -/
def State.readCorr (s : State) (n : BaseId) : State :=
  let r := s.showRat (2 ^ 32 * baseCorrAt (s.isNet n) (s.base n) s.tbRat) 32
  { r.2 with answer := r.1.setWidth 64 }

/-- TB_PORTL_READ (R324, R328). -/
def State.readPortl (s : State) (mst : Master) : State := s.readPair mst 3 0 (s.reg .tbPorth ++ s.reg .tbPortl)

def execTbPortlRead (mst : Master) (s : State) : Out := .next (s.readPortl mst)

/-- TB_PORT_READ (R328). -/
def execTbPortRead (s : State) : Out := .next (s.readStored .tbPort 0 0)

/-- REFSTAT as it reads: VALID from the reference's state. -/
def State.refstatView (s : State) (n : BaseId) (j : BitVec 2) : Word :=
  if n = 0 then 0
  else F.tbRefstat_VALID.put (s.reg .tbRefstat n.toNat j.toNat) (s.baseOn n && s.refValid n j).toNat

/-- REFSTAT_READ (R327). -/
def execRefstatRead (n : BaseId) (j : BitVec 2) (s : State) : Out :=
  .next (s.readOut .tbRefstat n.toNat j.toNat (visible RegKind.tbRefstat.desc (s.refstatView n j)))

/-- TB.WIN as it reads. -/
def State.tbWinView (s : State) (n : BaseId) : Word :=
  if n = 0 then 0 else F.tbWin_HIST.put (s.reg .tbWin n.toNat) ((s.base n).hist.toNat % 256)

/-- TB_WIN_READ (R326). -/
def execTbWinRead (n : BaseId) (s : State) : Out :=
  .next (s.readOut .tbWin n.toNat 0 (visible RegKind.tbWin.desc (s.tbWinView n)))

/-- A forward ANGLE or MAINS base stands at cycle count 0 of a lap whose cycle count 0 it had not reached (R349). -/
def State.passesZero (s : State) (n : BaseId) : Bool :=
  let b := s.base n
  s.baseOn n && !s.isNet n && (b.st == .locked || b.st == .holdover) && !b.back &&
    decide ((ratMod (s.baseNow n) (s.ringOf n)).floor < 2 ^ 32) && b.zeroLap != some (s.lapOf n (s.baseNow n))

/-- BASE_PASSES_CYCLE_COUNT_ZERO (R349): one pulse for each pass. -/
def execBasePassesCycleCountZero (n : BaseId) (s : State) : Out :=
  .next (if s.passesZero n then
      (s.setBase n { s.base n with zeroLap := some (s.lapOf n (s.baseNow n)) }).pulse (0xA20 + n.toNat)
    else s)

end Sys2Proof.Machine
end

