-- ==== Sys2Proof/Machine/TaskOps.lean ====
section
/-!
DEFINITION. Posting, temper tasks and the event matrix as commands (R329 to R357).
-/

namespace Sys2Proof.Machine

/-! ## Posting (R329 to R332) -/

/-- The action that a posting port holds (R354). -/
def State.postedAction (s : State) (t : Tid) : Action :=
  let i := t.toNat
  let p0 := s.reg .taP0 i
  let p4 := s.reg .taP4 i
  { base := p0.extractLsb' 28 4, kind := p0.extractLsb' 25 3, late := p0.extractLsb' 23 2, keepPos := p0.getLsbD 22
    trig := p0.getLsbD 21, ch := p0.extractLsb' 12 9, lane := p0.extractLsb' 10 2, out := p0.getLsbD 9
    oe := p0.getLsbD 8, prio := p0.extractLsb' 4 4, ikind := p0.extractLsb' 0 4
    target := s.reg .taP2 i ++ s.reg .taP1 i, param := s.reg .taP3 i, qn := p4.getLsbD 31, ln := p4.getLsbD 30
    tag := p4.extractLsb' 0 16, poster := t, ahead := false }

/-- A field that the action's kind does not use is not 0 (R330, R354). -/
def Action.strayField (a : Action) : Bool :=
  match a.kind.toNat with
  | 0 => a.keepPos || a.prio != 0 || a.ikind != 0 || a.param != 0
  | 1 => a.prio != 0 || a.ikind != 0
  | 2 => a.keepPos || a.out
  | 3 => a.keepPos || a.out || a.lane != 0
  | _ => a.keepPos || a.out || a.oe || a.lane != 0 || a.prio != 0 || a.ikind != 0 || decide (256 ≤ a.param.toNat)

/-- A base that is disabled (R301). -/
def State.baseDisabled (s : State) (n : BaseId) : Bool := n != 0 && (s.base n).st == .off

/-- The post is BAD (R332). -/
def State.badPost (s : State) (t : Tid) (a : Action) : Bool :=
  decide (5 ≤ a.kind.toNat) || a.late == 3 || (a.late == 2 && !s.wraps a.base) || s.baseDisabled a.base ||
    decide (s.wraps a.base ∧ s.ringOf a.base ≤ a.target.toNat) || (a.kind == kPulse && a.param == 0) ||
    (decide (a.kind.toNat < 3) && (s.laneOf a.ch a.lane.toNat).isNone) ||
    ((a.kind == kSample || a.kind == kPush) && (s.sinkOf a.ch a.oe).isNone) || a.strayField ||
    bitsOf (s.reg .taP4 t.toNat) 16 14 != 0

/-- The poster is permitted for the channel (R331). -/
def State.mayPost (s : State) (t : Tid) (ch : Chan) : Bool :=
  if s.chBit F.peCcfg_VOTE ch then
    t.toNat == s.chFld F.peVote_TWINA ch || t.toNat == s.chFld F.peVote_TWINB ch
  else
    (coreOf t).toNat == s.chFld F.peCcfg_OWNCORE ch || s.controls (.thread t) ch

/-- The posting of an action: its result code and the state it leaves (R332, R335). -/
def State.post (s : State) (t : Tid) : Nat × State :=
  let a := s.postedAction t
  if !s.mayPost t a.ch then
    (rDenied, if s.chBit F.peCcfg_VOTE a.ch then s.chSatAdd F.peCerr_DISC 1 a.ch else s)
  else if s.badPost t a then (rBad, s)
  else s.place a 0

/-- The posting registers of thread t as words P0 to P4. -/
def State.postedWords (s : State) (t : Tid) : List Word :=
  let i := t.toNat
  [s.reg .taP0 i, s.reg .taP1 i, s.reg .taP2 i, s.reg .taP3 i, s.reg .taP4 i]

/-- A write of P4 waits: the channel is mirrored and the mirror egress has no place for its record (R435). -/
def State.p4Waits (s : State) (t : Tid) (v : Word) : Bool :=
  s.mirrorsChan ((s.setReg .taP4 v t.toNat).postedAction t).ch && !s.mirrorRoomState

/-- A write of TA.P4 by its thread submits the post; PSTAT takes the result.  The record of a post to a mirrored channel is
sent when it is answered STAGED or PENDING (R432). -/
def State.wrP4 (s : State) (t : Tid) (v : Word) : State :=
  let s0 := s.setReg .taP4 v t.toNat
  let mirrored := s.mirrorsChan (s0.postedAction t).ch
  let r := s0.post t
  let s1 := r.2.setFld F.taPstat_RESULT r.1 t.toNat
  if mirrored && decide (r.1 ≤ rPending) then s1.mirrorEmit tMSTATE 2 0 (s1.postedWords t) else s1

/-- POST (R329). -/
def execPost (t : Tid) (p4 : Word) (s : State) : Out :=
  .next (s.regAtMirror (s.p4Waits t p4) (.thread t) (regOff .taP4 t.toNat 0) p4 fun s => s.wrP4 t p4)

/-- REVALIDATION_PASS (R336): the pass that began with the last cycle of C mod 1,024 = 0, once. -/
def execRevalidationPass (s : State) : Out :=
  .next (if s.passDone = s.cycle / 1024 + 1 then s else { s.pass with passDone := s.cycle / 1024 + 1 })

/-- QUENCH (R340). -/
def execQuench (n : BaseId) (s : State) : Out := .next (s.quench n)

/-- QUENCH_RECOMPUTE (R341). -/
def execQuenchRecompute (n : BaseId) (s : State) : Out := .next (if s.recomputes n then s.recompute n else s)

/-- TA_CNT_READ (R355). -/
def execTaCntRead (s : State) : Out := .next (s.readStored .taCnt 0 0)

/-- TA.USE as it reads. -/
def State.taUseView (s : State) : Word :=
  BitVec.ofNat 32 (65536 * (s.channels.map fun kv => kv.2.staged.length).sum + s.pend.length)

/-! ## Temper tasks (R344 to R348) -/

def Task.base (x : Task) : BaseId := BitVec.ofNat 4 (F.tskCfg_BASE.get x.cfg)
def Task.enabled (x : Task) : Bool := F.tskCfg_EN.get x.cfg == 1
def Task.shorten (x : Task) : Nat := F.tskCfg_S.get x.cfg
def Task.limit (x : Task) : Nat := F.tskCfg_M.get x.cfg
def Task.ownCore (x : Task) : CoreId := BitVec.ofNat 5 (F.tskCfg_OWNCORE.get x.cfg)

/-- x reduced modulo the ring of base n. -/
def State.ringMod (s : State) (n : BaseId) (x : Int) : Int := x % (s.ringOf n : Int)

/-- Grid point k (R344). -/
def State.gridPoint (s : State) (x : Task) (k : Nat) : Int := s.ringMod x.base (x.origin + k * (x.per.toNat : Int))

/-- The least k whose grid point has not passed (R344). -/
def State.firstAhead (s : State) (x : Task) : Nat :=
  let n := x.base
  if s.passed n (x.origin : Int) then
    let d := ratMod (s.baseNow n - (x.origin : Int)) (s.ringOf n)
    (d / (x.per.toNat : Int)).floor.toNat + 1
  else 0

/-- a is later than b on base n (R346): under R302, or within half the ring. -/
def State.later (s : State) (n : BaseId) (a b : Int) : Bool :=
  let d := s.ringMod n (a - b)
  decide (0 < d) && decide (2 * d < (s.ringOf n : Int))

def State.latest (s : State) (n : BaseId) (a b : Int) : Int := if s.later n b a then b else a

/-- The period of a task may be enabled (R344). -/
def State.periodOk (s : State) (x : Task) : Bool :=
  let p := x.per.toNat
  if s.wraps x.base then decide (0 < p) && decide (4 * p ≤ s.ringOf x.base) else decide (0 < p) && decide (p < 2 ^ 62)

/-- The grid starts at T0 (R344, R348). -/
def State.startGrid (s : State) (x : Task) : Task :=
  let x1 := { x with origin := s.ringMod x.base (x.t0.toNat : Int) }
  let k0 := s.firstAhead x1
  let r := s.gridPoint x1 k0
  { x1 with k := k0, nextR := r, lastR := s.ringMod x.base (r - (x.per.toNat : Int)), lag := 0, noted := false }

/-- The next release after a job that finished at f (R346). -/
def State.nextRelease (s : State) (x : Task) (f : Int) : Task :=
  let n := x.base
  let short := x.lastR + (x.per.toNat * (64 - x.shorten) / 64 : Nat)
  { x with fin := f, nextR := s.latest n (s.latest n (s.gridPoint x x.k) f) (s.ringMod n short) }

/-- Task k is mirrored (MIR.TSKM). -/
def State.mirrorsTask (s : State) (k : TaskId) : Bool := (s.fld F.mirTskm_TASKS (k.toNat / 32)).testBit (k.toNat % 32)

/-- The words of a task's record (R432): the running job and its release, or the next one. -/
def taskRecord (k : TaskId) (x : Task) : List Word :=
  let job := if x.running then x.k - 1 else x.k
  let r := BitVec.ofInt 64 (if x.running then x.lastR else x.nextR)
  [k.setWidth 32, BitVec.ofNat 32 job, r.extractLsb' 0 32, r.extractLsb' 32 32, BitVec.ofNat 32 x.running.toNat, x.cfg,
   x.per.extractLsb' 0 32, x.per.extractLsb' 32 32, x.t0.extractLsb' 0 32, x.t0.extractLsb' 32 32, BitVec.ofNat 32 x.lag]

/-- Send the record of a mirrored task. -/
def State.mirrorTask (s : State) (k : TaskId) : State :=
  if s.mirrorsTask k then s.mirrorEmit tMSTATE 3 0 (taskRecord k (s.task k)) else s

/-- A change of task k may take effect now (R435). -/
def State.taskRoom (s : State) (k : TaskId) : Bool := !s.mirrorsTask k || s.mirrorRoomState

/-- A LAG notice (R347), in the form of R343. Log entry 34 (DEDUCED). -/
def State.lagNotice (s : State) (k : TaskId) (lag : Nat) : State :=
  s.notice .temper (s.faultQueue 0)
    (mkItem true 15 9 (senderUnit 3) (BitVec.ofNat 32 (4096 * k.toNat + min lag 255)))

/-- The item of a release (R345). -/
def releaseItem (x : Task) (k : TaskId) (job lag : Nat) : BitVec 64 :=
  mkItem true (BitVec.ofNat 4 (F.tskDest_PRIO.get x.dest)) (BitVec.ofNat 4 (F.tskDest_KIND.get x.dest)) (senderUnit 4)
    (BitVec.ofNat 32 (2 ^ 24 * (min lag 255) + 4096 * k.toNat + job % 4096))

/-- A flag of TSK.STAT is set (R10). -/
def State.noteTask (s : State) (k : TaskId) (f : Fld) : State := s.noteAt (2 ^ 24 + k.toNat) f 1

/-- A write that an enabled task ignores (R348, R356). -/
def State.taskIgnored (s : State) (k : TaskId) : State := (s.noteTask k F.tskStat_WIGN).setTask k { s.task k with wign := true }

/-- The release of the job that is due. -/
def State.release1 (s : State) (k : TaskId) (x : Task) (lag : Nat) (grid : Bool) : State :=
  let x1 := { x with lastR := x.nextR, k := x.k + 1, jobs := x.jobs + 1, lag := lag, onGrid := grid
                     noted := if grid then false else x.noted }
  let tooLate := decide (x.limit < lag) && !x1.noted
  let x2 := if tooLate then { x1 with noted := true, lagn := true } else x1
  let relq := F.tskCfg_RELQ.get x.cfg == 1
  let x3 := if relq then { x2 with running := true } else s.nextRelease x2 x2.lastR
  let s1 := s.setTask k x3
  let s2 := if tooLate then (s1.noteTask k F.tskStat_LAGN).lagNotice k lag else s1
  let s3 := if F.tskCfg_RELE.get x.cfg = 1 then s2.pulse (0x900 + F.tskDest_ESRC.get x.dest) else s2
  if relq then
    let q := BitVec.ofNat 14 (F.tskDest_QID.get x.dest)
    let item := releaseItem x k x.k lag
    let r := s3.unitPush { q := q, item := item }
    r.2.setTask k { r.2.task k with held := r.1 }
  else s3

/-- The release of a task whose release time has passed (R345, R347). Log entry 34 (DEDUCED). -/
def State.releaseTask (s : State) (k : TaskId) : State :=
  let x := s.task k
  let n := x.base
  if (s.applying && s.mirrorsTask k) || !s.taskRoom k then s
  else if !x.enabled || x.running || x.held.isSome || x.per.toNat = 0 || !s.stages n || s.baseDisabled n || !s.passed n (x.nextR : Int) then s
  else
    let off := s.ringMod n (x.nextR - s.gridPoint x x.k)
    let lag := (off / (x.per.toNat : Int)).toNat
    if s.wraps n && decide (s.ringOf n / (2 * x.per.toNat) ≤ lag + 1) then
      (((s.noteTask k F.tskStat_LAGN).setTask k { x with cfg := F.tskCfg_EN.put x.cfg 0, lagn := true }).lagNotice k 255).mirrorTask k
    else (s.release1 k x lag (decide (off = 0))).mirrorTask k

/-- TASK_RELEASE (R345). -/
def execTaskRelease (k : TaskId) (s : State) : Out := .next (s.releaseTask k)

/-- A write of TSK.DONE (R345): the job finishes at the base's value of this cycle. Log entry 34 (DEDUCED). -/
def State.wrDone (s : State) (v : Word) : State :=
  let k := BitVec.ofNat 12 (F.tskDone_TASK.get v)
  let x := s.task k
  if 4096 ≤ v.toNat || !x.running then s
  else
    let f := s.baseWord x.base
    (f.2.setTask k (f.2.nextRelease { x with running := false } (f.1.toNat : Int))).mirrorTask k

/-- A write of TSK.DONE that ends a mirrored task's job waits for its record's place (R435). -/
def State.doneWaits (s : State) (v : Word) : Bool :=
  let k := BitVec.ofNat 12 (F.tskDone_TASK.get v)
  decide (v.toNat < 4096) && (s.task k).running && !s.taskRoom k

/-- TASK_DONE (R345). -/
def execTaskDone (w : Writer) (k : TaskId) (s : State) : Out :=
  let v := k.setWidth 32
  .next (s.regAtMirror (s.doneWaits v) w (regOff .tskDone 0 0) v fun s => s.wrDone v)

/-- The writer may use core c's task window at all: a thread of the core (R356); the debug port acts as thread 0. -/
def ownWindow (w : Writer) (c : CoreId) : Bool :=
  match w with
  | .thread t => coreOf t == c
  | .debug => c == 0
  | .boot => true

/-- The task that core c's window selects. -/
def State.selected (s : State) (c : CoreId) : TaskId := BitVec.ofNat 12 (s.fld F.tskSel_TASK c.toNat)

/-- The writer may act on the selected task. -/
def State.overTask (s : State) (w : Writer) (c : CoreId) : Bool :=
  ownWindow w c && overCore w (s.task (s.selected c)).ownCore

/-- A write of TSK.CFG for a task (R344, R348, R356). -/
def State.wrTaskCfg (s : State) (w : Writer) (k : TaskId) (v : Word) : State :=
  let x := s.task k
  if 32 < F.tskCfg_S.get v || F.tskCfg_M.get v = 0 then s
  else
    let own := if w = .boot ∨ !s.boot.seald then F.tskCfg_OWNCORE.get v else F.tskCfg_OWNCORE.get x.cfg
    let moved := x.enabled && F.tskCfg_BASE.get v != F.tskCfg_BASE.get x.cfg
    let base := if x.enabled then F.tskCfg_BASE.get x.cfg else F.tskCfg_BASE.get v
    let cfg := F.tskCfg_BASE.put (F.tskCfg_OWNCORE.put (v &&& 0xFFFFFFC0) own) base
    let x1 := { x with cfg := cfg, wign := x.wign || moved }
    if !x.enabled && x1.enabled then
      if s.periodOk x1 then s.setTask k { s.startGrid x1 with jobs := 0, onGrid := false }
      else s.taskIgnored k
    else (if moved then s.noteTask k F.tskStat_WIGN else s).setTask k x1

/-- A write of a register of core c's task window, by a writer that may act on the selected task. -/
def State.wrTaskReg (s : State) (w : Writer) (r : RegKind) (c : CoreId) (v : Word) : State :=
  let k := s.selected c
  let x := s.task k
  match r with
    | .tskCfg => s.wrTaskCfg w k v
    | .tskPerl =>
      if x.enabled then s.taskIgnored k
      else s.setTask k { x with per := x.per.extractLsb' 32 32 ++ v }
    | .tskPerh =>
      if x.enabled then s.taskIgnored k
      else s.setTask k { x with per := v ++ x.per.extractLsb' 0 32 }
    | .tskT0l => s.setTask k { x with t0 := x.t0.extractLsb' 32 32 ++ v }
    | .tskT0h => s.setTask k { x with t0 := v ++ x.t0.extractLsb' 0 32 }
    | .tskDest => s.setTask k { x with dest := visible RegKind.tskDest.desc v }
    | .tskStat =>
      let now := s.setNowAt (2 ^ 24 + k.toNat)
      s.setTask k { x with lagn := flagAfter x.lagn F.tskStat_LAGN v now, wign := flagAfter x.wign F.tskStat_WIGN v now }
    | .tskCmd =>
      if F.tskCmd_REBASE.get v = 1 && decide (0 < x.per.toNat) then s.setTask k { s.startGrid x with lagn := false } else s
    | _ => s

/-- A write of a register of core c's task window. -/
def State.wrTask (s : State) (w : Writer) (r : RegKind) (c : CoreId) (v : Word) : State :=
  if r == .tskSel then
    if ownWindow w c then s.store w .tskSel v c.toNat else s.authorityFault w
  else if !s.overTask w c then s.authorityFault w
  else if r == .tskStat then s.wrTaskReg w r c v
  else (s.wrTaskReg w r c v).mirrorTask (s.selected c)

/-- A write of a mirrored task's register through core c's window waits for its record's place (R435). -/
def State.taskWaits (s : State) (w : Writer) (r : RegKind) (c : CoreId) : Bool :=
  r != .tskSel && r != .tskStat && s.overTask w c && !s.taskRoom (s.selected c)

/-- A write of a register of core c's task window, once its record has a place. -/
def State.taskWrite (s : State) (w : Writer) (r : RegKind) (c : CoreId) (v : Word) : State :=
  s.regAtMirror (s.taskWaits w r c) w (regOff r c.toNat 0) v fun s => s.wrTask w r c v

/-- TASK_ENABLE (R344): a write of TSK.CFG. -/
def execTaskEnable (w : Writer) (c : CoreId) (v : Word) (s : State) : Out := .next (s.access w fun s => s.taskWrite w .tskCfg c v)

/-- TASK_REBASE (R348). -/
def execTaskRebase (w : Writer) (c : CoreId) (s : State) : Out :=
  .next (s.access w fun s => s.taskWrite w .tskCmd c (F.tskCmd_REBASE.put 0 1))

/-- TSK.STAT as it reads. -/
def State.taskStatView (s : State) (k : TaskId) : Word :=
  let x := s.task k
  BitVec.ofNat 32 (2 ^ 24 * (min x.lag 255) + 2 ^ 23 * x.lagn.toNat + 2 ^ 22 * x.running.toNat + 2 ^ 21 * x.onGrid.toNat +
    2 ^ 20 * x.wign.toNat + x.jobs.toNat)

/-- A register of core c's task window as it reads. -/
def State.taskView (s : State) (r : RegKind) (c : CoreId) : Word :=
  let k := s.selected c
  let x := s.task k
  match r with
  | .tskSel => s.reg .tskSel c.toNat
  | .tskCfg => x.cfg
  | .tskPerl => x.per.extractLsb' 0 32
  | .tskPerh => x.per.extractLsb' 32 32
  | .tskT0l => x.t0.extractLsb' 0 32
  | .tskT0h => x.t0.extractLsb' 32 32
  | .tskDest => x.dest
  | .tskStat => s.taskStatView k
  | _ => 0

/-! ## Event matrix (R350 to R353, R357) -/

/-- A fire finds its input busy (R351). -/
def State.overrun (s : State) (i : Nat) : State :=
  (s.raise ⟨.evmOvr, i % 32, 1⟩ (i / 32)).satAdd F.evmOvrcnt_COUNT 1

/-- The item of a push consumer (R352). -/
def State.consumerItem (s : State) (i : Nat) (tb : Word) : BitVec 64 :=
  mkItem true (BitVec.ofNat 4 (s.fld F.evmCdest_PRIO i)) (BitVec.ofNat 4 (s.fld F.evmCdest_KIND i)) (senderUnit 5) tb

/-- An input fires (R350). -/
def State.fire (s : State) (i : Nat) (tb : Word) : State :=
  if i < 0x200 then
    let ch := BitVec.ofNat 9 i
    if (s.chan ch).trig then s.overrun i else s.setChan ch { s.chan ch with trig := true, trigAt := s.cycle }
  else if i < 0xFE0 then
    if (smGet none s.evmHeld i).isSome then s.overrun i
    else
      let q := BitVec.ofNat 14 (s.fld F.evmCdest_QID i)
      let item := s.consumerItem i tb
      let r := s.unitPush { q := q, item := item }
      { r.2 with evmHeld := smSet none r.2.evmHeld i r.1 }
  else if i < 0xFF5 then
    if s.wokeNow.contains i then s.overrun i else { s with wokeNow := i :: s.wokeNow }.wakeDomain (i - 0xFE0)
  else s

/-- EVENT_FIRE (R351): the oldest pulse on its way to input i arrives, not before its cycle. -/
def execEventFire (i : BitVec 12) (s : State) : Out :=
  match s.fires.find? (fun f => f.input == i && decide (f.due ≤ s.cycle)) with
  | none => .next s
  | some f =>
    let s1 := { s with fires := s.fires.erase f }
    .next (if f.gateOk then s1.fire i.toNat f.tb else s1)

/-- A write of EVM.SWSET by any thread (R357). -/
def State.wrSwset (s : State) (v : Word) : State :=
  if F.evmSwset_GO.get v = 0 || bitsOf v 10 21 ≠ 0 then s else s.pulse (0xB00 + F.evmSwset_SRC.get v)

/-- SOFTWARE_EVENT_PULSE (R357). -/
def execSoftwareEventPulse (_w : Writer) (src : BitVec 10) (s : State) : Out :=
  .next (s.wrSwset (F.evmSwset_GO.put (src.setWidth 32) 1))

/-- OVRCNT_READ (R357). -/
def execOvrcntRead (s : State) : Out := .next (s.readStored .evmOvrcnt 0 0)

end Sys2Proof.Machine
end

