-- ==== Sys2Proof/Machine/BusOps.lean ====
section
/-!
DEFINITION. What the supplied bus programs share (R280 to R284): the options of an instance, lanes driven bit by bit,
status and control items, packets, and waiting for bus idle.
-/

namespace Sys2Proof.Machine

/-! ## Options of an instance (R280) -/

/-- Option number i of channel ch's instance. -/
def builtWith (ch : Chan) (i : Nat) : Word := Config.builtWith ch.toNat i

/-- The program that the channel's instance runs (R279). -/
def programOf (ch : Chan) : Config.BusProgram := Config.program ch.toNat

def isCan (g : Config.BusProgram) : Bool := g == .canfd || g == .canxl

/-- PRIO of status items, PRIO of data items, and KIND of a packet's words before the last. -/
def optStatusPrio (ch : Chan) : BitVec 4 := (builtWith ch 0).extractLsb' 0 4
def optDataPrio (ch : Chan) : BitVec 4 := (builtWith ch 1).extractLsb' 0 4
def optFirstKind (ch : Chan) : BitVec 4 := (builtWith ch 4).extractLsb' 0 4
/-- CAN: retransmissions, 0 to 15, or 16 and more for unlimited; bus-off recovery automatic. -/
def optRetries (ch : Chan) : Nat := bitsOf (builtWith ch 2) 0 5
def optAutoRecovery (ch : Chan) : Bool := (builtWith ch 3).getLsbD 0
/-- Flags: the sleep level of STB or EN; LIN commander; CAN FAST mode; PSI5 asynchronous, CRC in place of parity; UART
RTS/CTS, two stop bits; XL data phase without error signalling; PWM centre-aligned, complementary pairs on lanes 0 and 1 and
on lanes 2 and 3; SPI clock idle level and phase, least significant bit first. -/
def optFlag (ch : Chan) (i : Nat) : Bool := (builtWith ch 5).getLsbD i
def fSleepLevel : Nat := 0
def fCommander : Nat := 1
def fFast : Nat := 2
def fAsync : Nat := 6
def fPsi5Crc : Nat := 7
def fHandshake : Nat := 8
def fTwoStops : Nat := 9
def fXlSilent : Nat := 10
def fCentre : Nat := 11
def fPair (k : Nat) : Nat := 12 + k
def fClockIdle : Nat := 14
def fClockPhase : Nat := 15
def fLsbFirst : Nat := 16
/-- TDCV, 0 to 1,023 cycles (R287), and the short and long phases of a FAST symbol (R285, R286). -/
def optTdcv (ch : Chan) : Nat := bitsOf (builtWith ch 6) 0 10
def optShort (ch : Chan) : Nat := (builtWith ch 7).toNat
def optLong (ch : Chan) : Nat := (builtWith ch 8).toNat
/-- The nominal bit of a serial program in 1/256 cycles; LIN: which identifiers have an enhanced checksum, the bits of a
break and of its delimiter, the cycles of a wake pulse of 250 us to 5 ms (R290). -/
def optBit (ch : Chan) : Nat := (builtWith ch 9).toNat
def optEnhancedId (ch : Chan) (id : Nat) : Bool := (builtWith ch (10 + id / 32)).getLsbD (id % 32)
def optBreak (ch : Chan) : Nat := min 20 (max 13 (builtWith ch 12).toNat)
def optDelimiter (ch : Chan) : Nat := min 4 (max 1 (builtWith ch 14).toNat)
def optWake (ch : Chan) : Nat := min 7500000 (max 375000 (builtWith ch 13).toNat)
/-- The width of the data: PSI5 bits, SPI word bits, UART bits. -/
def optWidth (ch : Chan) : Nat := (builtWith ch 15).toNat
/-- PSI5: the window of slot k in cycles after the sync pulse. -/
def optSlotFrom (ch : Chan) (k : BitVec 2) : Nat := (builtWith ch (16 + k.toNat)).toNat
def optSlotTo (ch : Chan) (k : BitVec 2) : Nat := (builtWith ch (20 + k.toNat)).toNat
/-- T1S: the node ID, the channel that measures this one's clock, the queue of its grid, and the frame service thread. -/
def optNode (ch : Chan) : Nat := bitsOf (builtWith ch 24) 0 5
/-- T1S: the node count, 1 to 32, and TO_TIMER, 1 to 255 bit times (R295). -/
def optNodes (ch : Chan) : Nat := min 32 (max 1 (bitsOf (builtWith ch 24) 8 6))
def optToTimer (ch : Chan) : Nat := min 255 (max 1 (bitsOf (builtWith ch 24) 16 8))
def optClockChan (ch : Chan) : Chan := (builtWith ch 25).extractLsb' 0 9
def optGridQueue (ch : Chan) : Qid := (builtWith ch 26).extractLsb' 0 14
def optService (ch : Chan) : Tid := (builtWith ch 27).extractLsb' 0 9
/-- UART: the parity, 0 none, 1 even, 2 odd; SPI: cycles from the chip select to the first bit, and after the last. -/
def optParity (ch : Chan) : Nat := bitsOf (builtWith ch 29) 0 2
def optSetUp (ch : Chan) : Nat := (builtWith ch 30).toNat
def optHold (ch : Chan) : Nat := (builtWith ch 31).toNat
/-- PWM: the period, 512 to 2^30 cycles, and the dead time, 0 to 65,535 cycles (R297). -/
def optPeriod (ch : Chan) : Nat := min (2 ^ 30) (max 512 (builtWith ch 33).toNat)
def optDeadTime (ch : Chan) : Nat := bitsOf (builtWith ch 34) 0 16
/-- SENT, for the sensor of a lane (R291): the nominal tick in cycles, the data nibbles, and flags: successive calibration,
legacy CRC, enhanced slow channel, a pause pulse, a constant frame length, whose ticks follow. -/
def optSensor (ch : Chan) (lane : BitVec 2) (i : Nat) : Word := builtWith ch (40 + 8 * lane.toNat + i)
def optTick (ch : Chan) (lane : BitVec 2) : Nat := (optSensor ch lane 0).toNat
def optNibbles (ch : Chan) (lane : BitVec 2) : Nat := min 6 (max 1 (optSensor ch lane 1).toNat)
def optSuccessive (ch : Chan) (lane : BitVec 2) : Bool := (optSensor ch lane 2).getLsbD 0
def optLegacyCrc (ch : Chan) (lane : BitVec 2) : Bool := (optSensor ch lane 2).getLsbD 1
def optEnhanced (ch : Chan) (lane : BitVec 2) : Bool := (optSensor ch lane 2).getLsbD 2
def optPause (ch : Chan) (lane : BitVec 2) : Bool := (optSensor ch lane 2).getLsbD 3

/-- Bits of a UART character on the line: start, data, parity and stop bits (R296). -/
def charBits (ch : Chan) : Nat :=
  1 + min 9 (max 5 (optWidth ch)) + (if optParity ch = 0 then 0 else 1) + 1 + (optFlag ch fTwoStops).toNat

/-! ## Shared operations of the programs (R281 to R284) -/

/-- The program of the channel runs. -/
def State.programRuns (s : State) (ch : Chan) : Bool := s.chExecutes ch

def State.prog (s : State) (ch : Chan) : Prog := (s.chan ch).prog
def State.setProg (s : State) (ch : Chan) (p : Prog) : State := s.setChan ch { s.chan ch with prog := p }

/-- TB0 bits [47:16] as they were some cycles ago, at the increment in force. Log entry 36 (DEDUCED). -/
def State.tbAgo (s : State) (back : Nat) : Word :=
  (s.tbSum - BitVec.ofNat 80 (back * (s.reg .tbT0inc).toNat)).extractLsb' 32 32

/-- The lane takes the inactive level that PE.PAD.SAFE of its port holds (R280, R282). -/
def State.restLane (s : State) (ch : Chan) (lane : Nat) : State :=
  match s.laneOf ch lane with
  | none => s
  | some p =>
    let v := safeLevels (s.fld F.pePad_SAFE p.toNat) (s.port p).out (s.port p).oe
    s.writeLane ch lane 4 v.1 v.2 s.cycle

/-- Lanes a program drives stand at rest before it pulls or pushes (R282). -/
def State.rest (s : State) (ch : Chan) (lanes : List Nat) : State := lanes.foldl (fun s l => s.restLane ch l) s

/-- A lane is driven to a level from a cycle on, as a timed drive of the program has done. -/
def State.wire (s : State) (ch : Chan) (lane : Nat) (level : Bool) (c : Nat) : State := s.writeLane ch lane 4 level true c

/-- A lane is driven bit by bit from a cycle on, a bit lasting `per` 1/256 cycles. -/
def State.wireBits (s : State) (ch : Chan) (lane : Nat) (bits : List Bool) (start per : Nat) : State :=
  bits.zipIdx.foldl (fun s x => s.wire ch lane x.1 (start + x.2 * per / 256)) s

/-- Bits that have just been sent on a lane, which is at rest again. -/
def State.sendBits (s : State) (ch : Chan) (lane : Nat) (bits : List Bool) (per : Nat) : State :=
  (s.wireBits ch lane bits (s.cycle - bits.length * per / 256) per).rest ch [lane]

/-- Bits on a data lane with their clock, low in the first half of a bit and high in the second; none is a start or a
repeated start: the data lane falls while the clock is high. -/
def State.clockedBits (s : State) (ch : Chan) (clock data : Nat) (bits : List (Option Bool)) (per : Nat) : State :=
  let start := s.cycle - bits.length * per / 256
  (bits.zipIdx.foldl (fun s x =>
    let at_ := fun (q : Nat) => start + (4 * x.2 + q) * per / 1024
    let s1 := ((s.wire ch clock false (at_ 0)).wire ch data (x.1.getD true) (at_ 1)).wire ch clock true (at_ 2)
    if x.1.isNone then s1.wire ch data false (at_ 3) else s1) s).rest ch [clock, data]

/-- Line bits pass the bit unit of a program that takes each one as it comes. -/
def State.throughUnit (s : State) (ch : Chan) (bits : List Bool) : State :=
  match s.chBit F.peBitcfg_RXEN ch && s.chBit F.peBitcfg_EN ch, s.laneOf ch (s.chFld F.peBitcfg_RXL ch) with
  | true, some p => bits.foldl (fun s b =>
      let s1 := s.receiveLevel ch p b
      s1.setChan ch { s1.chan ch with bu := { (s1.chan ch).bu with rx := [] } }) s
  | _, _ => s

/-- A lane is driven active from the next cycle on; the timed drive that returns it after some cycles is placed (R282). -/
def State.activePulse (s : State) (ch : Chan) (lane : Nat) (level : Bool) (len : Nat) : State :=
  let s1 := s.wire ch lane level (s.cycle + 1)
  s1.setChan ch { s1.chan ch with
    timed := smSet none (s1.chan ch).timed lane (some ⟨BitVec.ofNat 32 (s.cycle + 1 + len), !level, true⟩) }

/-- A word to sink k; a sink not enabled is the channel's fault (R251, R252). -/
def State.sinkPush (s : State) (ch : Chan) (k : Bool) (end_ : Bool) (prio kind : BitVec 4) (v : Word) : State :=
  match s.sinkOf ch k with
  | none => s.chFault ch peQueueCode
  | some q => s.holderPush ch q (mkItem end_ prio kind (senderChannel ch) v)

/-- A status item (R281, R283). -/
def State.status (s : State) (ch : Chan) (kind : BitVec 4) (v : Word) : State :=
  s.sinkPush ch true true (optStatusPrio ch) kind v

/-- A data word for sink 0. -/
def State.dataWord (s : State) (ch : Chan) (end_ : Bool) (kind : BitVec 4) (v : Word) : State :=
  s.sinkPush ch false end_ (optDataPrio ch) kind v

/-- A packet for sink 0, its last word with the given KIND. -/
def State.dataPacket (s : State) (ch : Chan) (kind : BitVec 4) : List Word → State
  | [] => s
  | [w] => s.dataWord ch true kind w
  | w :: r => (s.dataWord ch false (optFirstKind ch) w).dataPacket ch kind r

def errForm : Nat := 0x03
def errCrc : Nat := 0x04
def errAck : Byte := 0x05
def errNoResponse : Nat := 0x07
def errSync : Nat := 0x08
def errRange : Nat := 0x09
def errOverrun : Nat := 0x0A
def errPex : Nat := 0x0C
def errCollision : Byte := 0x0D
def errBeacon : Nat := 0x0E
def errUnderrun : Nat := 0x0F
def errLate : Nat := 0x10
def errFormat : Nat := 0x11

/-- RX_ERROR with its lane. -/
def State.rxError (s : State) (ch : Chan) (lane code : Nat) : State :=
  s.status ch 3 (BitVec.ofNat 32 (256 * lane + code % 256))

/-- The words of STATE and COUNTERS (R283, R289). -/
def Prog.stateWord (p : Prog) (top : Nat) : Word :=
  BitVec.ofNat 32 (2 ^ 22 * top + 2 ^ 13 * p.rec_.toNat + p.tec.toNat * 2 ^ 4 + p.state.toNat)

/-- A change of state is reported with a STATE item (R284). -/
def State.enterState (s : State) (ch : Chan) (n : BitVec 4) : State :=
  let p := s.prog ch
  if p.state = n then s
  else
    let p1 := { p with state := n, idleFor := 0, busFree := 0 }
    (s.setProg ch p1).status ch 4 (p1.stateWord 0)

/-- The candidate packet of source k, read whole. -/
def State.takePacket (s : State) (ch : Chan) (k : Bool) : List Word × State :=
  match s.sourceOf ch k with
  | none => ([], s)
  | some q =>
    let r := s.readPacket q (.channel ch) (s.queue q).depth []
    (r.1.map itemPayload, r.2)

/-- The KIND of the item that source 1 would deliver next. -/
def State.nextControl (s : State) (ch : Chan) : Option (BitVec 4 × State) :=
  match s.sourceOf ch true with
  | none => none
  | some q =>
    match s.popItem q (.channel ch) with
    | (none, _) => none
    | (some x, s1) => some (itemKind x.1, s1)

/-- The program accepts a command (R284): WAKE is LIN's and CAN's, RECOVER is CAN's, ABORT_TX is for what sends frames.
Log entry 20 (DESIGN CHOICE). -/
def accepts (g : Config.BusProgram) (k : Nat) : Bool :=
  match k with
  | 1 => true
  | 2 => true
  | 3 => true
  | 4 => true
  | 5 => isCan g || g == .lin
  | 6 => true
  | 7 => isCan g || g == .lin || g == .t1s || g == .mdio || g == .spi || g == .tws || g == .uart
  | 8 => isCan g
  | _ => false

/-- A command applies at a frame boundary: with no frame in progress; for CAN and T1S between the attempts of one, except
OFFLINE, which lets the frame finish; ABORT_TX is about the frame itself. -/
def Prog.atBoundary (g : Config.BusProgram) (p : Prog) (k : Nat) : Bool :=
  p.frame.isEmpty || k = 7 || ((isCan g || g == .t1s) && k != 2)

/-- The program takes a control item of KIND k from source 1 and applies it at a frame boundary (R284); one that names no
command it accepts is discarded and reported. -/
def State.control (s : State) (ch : Chan) (k : Nat) (f : State → State) : State :=
  if !s.programRuns ch then s
  else match s.nextControl ch with
    | none => s
    | some x =>
      if !(s.prog ch).atBoundary (programOf ch) x.1.toNat then s else
      if !accepts (programOf ch) x.1.toNat then x.2.rxError ch 0 errFormat
      else if x.1.toNat = k then f x.2
      else s

/-- Taking part in the bus: ONLINE, PASSIVE or, for receiving, LISTEN. -/
def Prog.sends (p : Prog) : Bool := p.state == 1 || p.state == 2
def Prog.receives (p : Prog) : Bool := (p.sends || p.state == 4) && !p.waitIdle

/-- TX_FAIL with the attempts made and the error of the last. -/
def State.txFail (s : State) (ch : Chan) (tries err : Nat) : State :=
  (s.setProg ch { s.prog ch with frame := [], tries := 0, lastErr := 0 }).status ch 2
    (BitVec.ofNat 32 (256 * (tries % 256) + err % 256))

/-- Frames or messages were lost: LOST reports them once the channel's pushes no longer wait (R283). -/
def State.reportLost (s : State) (ch : Chan) (n : Nat) : State :=
  let p := s.prog ch
  let total := min (p.lost.toNat + n) 65535
  if total = 0 then s
  else if (s.chan ch).pushHold.isEmpty then
    (s.setProg ch { p with lost := 0 }).status ch 5 (BitVec.ofNat 32 total)
  else s.setProg ch { p with lost := BitVec.ofNat 16 total }

/-- The program waits for bus idle before it receives again: the lines of a commander are idle at once (R282). -/
def State.awaitIdle (s : State) (ch : Chan) : State :=
  s.setProg ch { s.prog ch with waitIdle := isCan (programOf ch) || programOf ch == .uart, idleFor := 0 }

/-- A packet that a refused push lets overrun is closed early with KIND 1, or not begun, and reported; the program waits
for bus idle (R282). -/
def State.closeEarly (s : State) (ch : Chan) (ws : List Word) : State := ((s.dataPacket ch 1 ws).reportLost ch 1).awaitIdle ch

/-- The program receives: its effect happens, or nothing does. -/
def State.received (s : State) (ch : Chan) (f : State → State) : Out :=
  .next (if s.programRuns ch && (s.prog ch).receives then f s else s)

end Sys2Proof.Machine
end

