-- ==== Sys2Proof/Machine/CanProgram.lean ====
section
/-!
DEFINITION. The CAN programs (R285 to R289): frames and their packets, what a frame does to the lines and the bit unit,
error counting, integration and recovery from bus-off.
-/

namespace Sys2Proof.Machine

/-! ## Frames and packets (R285, R288) -/

/-- Data bytes of a CC or FD DLC. -/
def dlcBytes (fd : Bool) (dlc : Nat) : Nat :=
  if dlc ≤ 8 then dlc
  else if !fd then 8
  else match dlc with
    | 9 => 12
    | 10 => 16
    | 11 => 20
    | 12 => 24
    | 13 => 32
    | 14 => 48
    | _ => 64

/-- Data bytes of a frame with a header and a control word (R288); none for a format that is refused. -/
def canBytes (fmt : Nat) (ctl : Word) : Option Nat :=
  let dlc := bitsOf ctl 28 4
  if fmt ≤ 1 then some (if ctl.getLsbD 27 then 0 else dlcBytes false dlc)
  else if fmt ≤ 3 then some (dlcBytes true dlc)
  else if fmt = 4 then some (bitsOf ctl 21 11 + 1)
  else none

/-- Words of the packet that a header and control word ask for (R288). -/
def canWords (hdr ctl : Word) : Option Nat :=
  (canBytes (bitsOf hdr 29 3) ctl).map fun n => (if bitsOf hdr 29 3 = 4 then 4 else 3) + (n + 3) / 4

/-- A frame packet fits its header (R281). -/
def canFrameOk (ws : List Word) : Bool :=
  match ws with
  | h :: _ :: c :: _ => canWords h c == some ws.length
  | _ => false

/-- The program sends the format: XL frames are CANXL's alone (R285). -/
def canSupports (g : Config.BusProgram) (ws : List Word) : Bool := g == .canxl || bitsOf (ws.getD 0 0) 29 3 != 4

/-- Bytes as little-endian words; unused bytes of the last word are 0. -/
def wordsOf : List Byte → List Word
  | a :: b :: c :: d :: r => (d ++ c ++ b ++ a) :: wordsOf r
  | [] => []
  | [a] => [(0 : Byte) ++ (0 : Byte) ++ (0 : Byte) ++ a]
  | [a, b] => [(0 : Byte) ++ (0 : Byte) ++ b ++ a]
  | [a, b, c] => [(0 : Byte) ++ c ++ b ++ a]

/-- The CONTROL word of a received frame, its unused bits 0 (R288). -/
def canControlWord (f : CanFrame) : Word := if f.fmt = 4 then f.control &&& 0xFFFFFFF8 else f.control &&& 0xFE000000

/-- The words of a received frame's packet (R288): as many data bytes as its length says, unused bytes 0. -/
def canFrameWords (f : CanFrame) (time : Word) : List Word :=
  let n := (canBytes f.fmt.toNat (canControlWord f)).getD 0
  [f.fmt ++ f.id, time, canControlWord f] ++ (if f.fmt = 4 then [f.af] else []) ++
    wordsOf ((f.data ++ List.replicate n 0).take n)

/-- The phases of a CAN frame that set the stuffing assist (R286). -/
inductive CanPhase where
  | arbitration | fdCrc | xlData
  deriving DecidableEq, Repr

/-- Mode and N of a phase: 1 RUN, 2 FIXED. -/
def CanPhase.stuff : CanPhase → Nat × Nat
  | .arbitration => (1, 5)
  | .fdCrc => (2, 4)
  | .xlData => (2, 10)

/-- The phases that a frame passes through, each with the stuffing of its bits; the FD data field has the arbitration phase's. -/
def canPhases (fmt : Nat) : List CanPhase :=
  if fmt ≤ 1 then [.arbitration] else if fmt ≤ 3 then [.arbitration, .fdCrc, .arbitration] else [.arbitration, .xlData, .arbitration]

/-- The stuffing assist of the ports of TXD and RXD in a phase (R286). -/
def State.canStuff (s : State) (ch : Chan) (x : CanPhase) : State :=
  [s.chFld F.peBitcfg_TXL ch, s.chFld F.peBitcfg_RXL ch].foldl (fun s l =>
    match s.laneOf ch l with
    | none => s
    | some p => (s.setFld F.peStuff_MODE x.stuff.1 p.toNat).setFld F.peStuff_N x.stuff.2 p.toNat) s

/-- A frame has a data phase at the data bit rate: FD with BRS, and XL. -/
def canDataPhase (hdr ctl : Word) : Bool :=
  let fmt := bitsOf hdr 29 3
  ((fmt == 2 || fmt == 3) && ctl.getLsbD 26) || fmt == 4

/-! ## Bits of a frame (R286, R287) -/

/-- The CRC registers of the RXD port start from their initial values, and the count of stuff bits from 0: the CRC that is
sent is that of the echo (R287). -/
def State.startCrc (s : State) (ch : Chan) : State :=
  match s.laneOf ch (s.chFld F.peBitcfg_RXL ch) with
  | none => s
  | some p => s.setPort p { s.port p with
      crcA := crcInit (s.fld F.peCrccfg_WIDTHA p.toNat) (s.reg .peCrcia p.toNat)
      crcB := crcInit (s.fld F.peCrccfg_WIDTHB p.toNat) (s.reg .peCrcib p.toNat), stuffCnt := 0 }

/-- The CRC of the echo of the width that a frame needs, from the register set to it. -/
def State.echoCrc (s : State) (ch : Chan) (width : Nat) : Nat :=
  match s.laneOf ch (s.chFld F.peBitcfg_RXL ch) with
  | none => 0
  | some p => if s.fld F.peCrccfg_WIDTHA p.toNat = width then (s.port p).crcA.toNat else (s.port p).crcB.toNat

/-- The bits of a number, most significant first. -/
def bitsDown (v n : Nat) : List Bool := (List.range n).map fun i => v.testBit (n - 1 - i)

/-- The length and level of the run of equal bits at the end of line bits, and the stuff bits among them, after five equal
bits each. -/
def lineRun : List Bool → Nat × Bool × Nat → Nat × Bool × Nat
  | [], r => r
  | b :: bs, (run, last, n) =>
    lineRun bs (if b == last && decide (0 < run) then run + 1 else 1, b, if run = 5 then n + 1 else n)

/-- Bits with a stuff bit after five equal ones. -/
def runStuffed : Nat → Bool → List Bool → List Bool
  | _, _, [] => []
  | run, last, b :: bs =>
    if run = 5 then (!last) :: b :: runStuffed (if b == !last then 2 else 1) b bs
    else b :: runStuffed (if b == last && decide (0 < run) then run + 1 else 1) b bs

/-- Bits with a fixed stuff bit, the opposite of the bit before it, ahead of the first and after every four. -/
def fixedStuffed : Nat → Bool → List Bool → List Bool
  | _, _, [] => []
  | 0, last, b :: bs => (!last) :: b :: fixedStuffed 3 b bs
  | n + 1, _, b :: bs => b :: fixedStuffed n b bs

/-- Bytes as bits, most significant first. -/
def byteBits (bytes : List Byte) : List Bool := bytes.flatMap fun b => bitsDown b.toNat 8

/-- The data bytes of a frame packet. -/
def canDataBytes (ws : List Word) : List Byte :=
  let fmt := bitsOf (ws.getD 0 0) 29 3
  ((ws.drop (if fmt = 4 then 4 else 3)).flatMap fun w => [byteOf w 0, byteOf w 1, byteOf w 2, byteOf w 3]).take
    ((canBytes fmt (ws.getD 2 0)).getD 0)

/-- The bits of an FD frame from its res bit to the end of the data field, before stuffing. Log entry 35 (PRESUMED). -/
def fdDataBits (passive : Bool) (ws : List Word) : List Bool :=
  let c := ws.getD 2 0
  [false, c.getLsbD 26, c.getLsbD 25 || passive] ++ bitsDown (bitsOf c 28 4) 4 ++ byteBits (canDataBytes ws)

/-- The CRC field of an FD frame: the stuff count with its parity, and the CRC of the echo, with fixed stuff bits. Log entry
35 (PRESUMED). -/
def State.fdCrcBits (s : State) (ch : Chan) (ws : List Word) (last : Bool) (stuffed : Nat) : List Bool :=
  let n := stuffed % 8
  let gray := bitsDown (n ^^^ (n / 2)) 3
  let width := if (canDataBytes ws).length ≤ 16 then 17 else 21
  fixedStuffed 0 last (gray ++ [gray.foldl (fun a b => a != b) false] ++ bitsDown (s.echoCrc ch width) width)

/-- The TXD edges of data-phase bit i from its echo-aligned boundary at cycle b: TDCV cycles ahead of it, and in FAST mode
as a symbol of two edges, the second after the short or the long phase (R285 to R287). Log entry 72 (DEDUCED). -/
def State.dataBit (s : State) (ch : Chan) (bit : Bool) (b : Nat) : State :=
  let c := b - optTdcv ch
  let lane := s.chFld F.peBitcfg_TXL ch
  if optFlag ch fFast then (s.wire ch lane false c).wire ch lane true (c + (if bit then optShort ch else optLong ch))
  else s.wire ch lane bit c

/-- The data bit time in 1/256 cycles. -/
def State.dataPer (s : State) (ch : Chan) : Nat := 256 * s.chFld F.peBitpb_PERIOD ch + s.chFld F.peBitpb_FRAC ch

/-- The bit unit's bit start is at cycle c in timing set B, or in set A for the bits after the data phase (R287). -/
def State.alignUnit (s : State) (ch : Chan) (c : Nat) (setB : Bool) : State :=
  let x := s.chan ch
  let len := if setB then s.dataPer ch / 256 else s.chFld F.peBitpa_PERIOD ch
  if s.chBit F.peBitcfg_EN ch then
    s.setChan ch { x with bu := { x.bu with
      bitStart := c, nextAt := some (c + len), setB := setB, setNext := none, bits := 1, aligned := true, synced := true } }
  else s

/-- A stretch of the data phase from bit number i on, which began at cycle `start`: the edges of the bits sent go out TDCV
cycles ahead, and the bit unit samples each echoed bit from its echo-aligned start (R287). -/
def State.dataStretch (s : State) (ch : Chan) (start i : Nat) (sent echoed : List Bool) : State :=
  let at_ := fun (k : Nat) => start + (i + k) * s.dataPer ch / 256
  let s1 := (sent.take echoed.length).zipIdx.foldl (fun s x => s.dataBit ch x.1 (at_ x.2)) s
  echoed.zipIdx.foldl (fun s x => (s.alignUnit ch (at_ x.2) true).throughUnit ch [x.1]) s1

/-- The data phase of a frame: its data field and, for FD, its CRC field; a frame of another format is sent as its echo shows
it. Log entry 72 (DEDUCED). -/
def State.dataPhase (s : State) (ch : Chan) (ws : List Word) (e : CanEcho) : State :=
  let start := s.cycle - e.back
  let fd := bitsOf (ws.getD 0 0) 29 3 != 4
  let r := lineRun e.early (0, false, 0)
  let d := if fd then runStuffed r.1 r.2.1 (fdDataBits ((s.prog ch).state == 2) ws) else e.bits
  let s1 := s.dataStretch ch start 0 d e.bits
  let q := lineRun e.bits r
  let s2 := if fd then (s1.canStuff ch .fdCrc).dataStretch ch start e.bits.length (s1.fdCrcBits ch ws q.2.1 q.2.2) e.crc else s1
  s2.alignUnit ch (start + (e.bits.length + e.crc.length) * s.dataPer ch / 256) false

/-- Line bits in phases: each sets the stuffing assist, and its bits pass the bit unit (R286). -/
def State.canPass (s : State) (ch : Chan) : List CanPhase → List (List Bool) → State
  | [], _ => s
  | x :: xs, line => ((s.canStuff ch x).throughUnit ch (line.headD [])).canPass ch xs line.tail

/-- A frame as it was on the wire: its phases, its data phase, the CRC of the echo, and TXD recessive again (R282, R286,
R287). -/
def State.canWire (s : State) (ch : Chan) (ws : List Word) (e : CanEcho) : State :=
  let fmt := bitsOf (ws.getD 0 0) 29 3
  let s0 := s.startCrc ch
  let s1 := if canDataPhase (ws.getD 0 0) (ws.getD 2 0) then
      let a := s0.canPass ch [.arbitration] [e.early]
      ((if fmt = 4 then a.canStuff ch .xlData else a).dataPhase ch ws e).canPass ch [.arbitration] [e.tail]
    else s0.canPass ch (canPhases fmt) [e.early ++ e.bits, e.crc, e.tail]
  s1.rest ch [0]

/-! ## Errors and their counts (R289) -/

/-- The error state that the counters give, per ISO 11898-1 (R289). Log entry 35 (PRESUMED). -/
def Prog.errState (p : Prog) : BitVec 4 :=
  if 255 < p.tec.toNat then 3 else if 127 < p.tec.toNat ∨ 127 < p.rec_.toNat then 2 else 1

/-- The counters have changed: the error state follows while the program takes part in the bus. -/
def State.errUpdate (s : State) (ch : Chan) (p : Prog) : State :=
  let s1 := s.setProg ch p
  if p.sends then s1.enterState ch p.errState else s1

/-- A count of at most 511. -/
def cap9 (n : Nat) : BitVec 9 := BitVec.ofNat 9 (min n 511)

/-- A count of errors of at most 1,023. -/
def cap10 (n : Nat) : BitVec 10 := BitVec.ofNat 10 (min n 1023)

/-- The acknowledgement of a valid frame, an own one too: a dominant bit on TXD, which ends as the frame ends; none in LISTEN
(R289). -/
def State.acknowledge (s : State) (ch : Chan) : State :=
  if (s.prog ch).sends then
    (s.wire ch (s.chFld F.peBitcfg_TXL ch) false (s.cycle - s.chFld F.peBitpa_PERIOD ch)).rest ch [0]
  else s

/-- The error flag, which has just ended: six dominant bits while error-active, recessive ones while error-passive, none in
LISTEN (R284, R289). Log entry 35 (PRESUMED). -/
def State.errorFlag (s : State) (ch : Chan) : State :=
  let p := s.prog ch
  let s1 := if p.state = 1 then s.wire ch (s.chFld F.peBitcfg_TXL ch) false (s.cycle - 6 * s.chFld F.peBitpa_PERIOD ch) else s
  if p.sends then s1.rest ch [0] else s

/-- Error signalling is off in the data phase of the program's XL frames (R285). -/
def xlSilent (ch : Chan) (fmt : Nat) : Bool := fmt == 4 && (optFlag ch fXlSilent || optFlag ch fFast)

/-- A frame was sent, its start `back` cycles ago: it is acknowledged, TEC falls, TX_DONE is reported. Log entry 35
(PRESUMED). -/
def State.canSent (s0 : State) (ch : Chan) (back : Nat) : State :=
  let s := s0.acknowledge ch
  let p := s.prog ch
  (s.errUpdate ch { p with frame := [], tries := 0, lastErr := 0, tec := p.tec - (if p.tec = 0 then 0 else 1) }).status ch 1
    (s.tbAgo back)

/-- One attempt has failed: the error is flagged, reported and counted, and TEC rises, but not for a missing acknowledgement
while error-passive. Log entry 35 (PRESUMED). -/
def State.canAttempt (s : State) (ch : Chan) (err : Byte) : State :=
  let s0 := if xlSilent ch (bitsOf ((s.prog ch).frame.headD 0) 29 3) then s else s.errorFlag ch
  let s1 := s0.rxError ch 1 err.toNat
  let p := s1.prog ch
  let rise := if p.state = 2 ∧ err = errAck then 0 else 8
  s1.errUpdate ch { p with tries := p.tries + 1, lastErr := err, tec := cap9 (p.tec.toNat + rise), errs := cap10 (p.errs.toNat + 1) }

/-- Attempts have failed: the frame is given up when the retransmissions of its option are used up, or off the bus, where the
spec names no end for it: log entry 75 (DESIGN CHOICE). -/
def State.canFailed (s : State) (ch : Chan) (errs : List Byte) : State :=
  let s1 := errs.foldl (fun s e => s.canAttempt ch e) s
  let p := s1.prog ch
  if p.state = 3 ∨ (optRetries ch < 16 ∧ optRetries ch < p.tries) then s1.txFail ch p.tries p.lastErr.toNat else s1

/-- CAN_TX_FRAME (R288): the frame in progress, or the next packet of source 0. -/
def State.canTx (s : State) (ch : Chan) (r : BusResult) (e : CanEcho) : State :=
  if !s.programRuns ch || !(s.prog ch).sends then s
  else
    let x : List Word × State := if (s.prog ch).frame.isEmpty then s.takePacket ch false else ((s.prog ch).frame, s)
    if x.1.isEmpty then x.2
    else if !canFrameOk x.1 || !canSupports (programOf ch) x.1 then x.2.rxError ch 0 errFormat
    else
      let s1 := (x.2.setProg ch { x.2.prog ch with frame := x.1 }).canWire ch x.1 e
      match r with
      | .done back => s1.canSent ch back
      | .failed errs => s1.canFailed ch errs

def execCanTxFrame (ch : Chan) (x : CanSent) (s : State) : Out := .next (s.canTx ch x.result x.echo)

/-- The program integrates again: after 11 recessive bits it takes part, or receives, as before. -/
def State.reintegrate (s : State) (ch : Chan) : State :=
  if (s.prog ch).sends then s.enterState ch 6 else s.setProg ch { s.prog ch with waitIdle := true, idleFor := 0 }

/-- An error was detected while receiving a frame: it is flagged, reported and counted, and REC rises, by 8 when the first
bit after the error flag is dominant; a protocol exception is reported and counts for neither, and the program integrates
again, as it does from an XL frame without error signalling (R285, R289). Log entry 35 (PRESUMED). -/
def State.canRxError (s : State) (ch : Chan) (fmt : Nat) (err : Byte) (dominant : Bool) : State :=
  if err.toNat = errPex then (s.rxError ch 1 errPex).reintegrate ch
  else if xlSilent ch fmt then
    let s1 := s.rxError ch 1 err.toNat
    (s1.setProg ch { s1.prog ch with errs := cap10 ((s1.prog ch).errs.toNat + 1) }).reintegrate ch
  else
    let s1 := (s.errorFlag ch).rxError ch 1 err.toNat
    let p := s1.prog ch
    s1.errUpdate ch { p with rec_ := cap9 (p.rec_.toNat + (if dominant then 8 else 1)), errs := cap10 (p.errs.toNat + 1) }

/-- A valid frame: acknowledged, delivered whole, and REC falls. Log entry 35 (PRESUMED). -/
def State.canValid (s : State) (ch : Chan) (f : CanFrame) : State :=
  let s1 := ((s.acknowledge ch).reportLost ch 0).dataPacket ch 0 (canFrameWords f (s.tbAgo f.back))
  let p := s1.prog ch
  s1.errUpdate ch { p with rec_ := if p.rec_ = 0 then 0 else if 127 < p.rec_.toNat then 127 else p.rec_ - 1 }

/-- CAN_RX_FRAME (R282, R285, R288, R289): an XL frame is a protocol exception to CANFD. Every frame leaves the stuffing
assist as the arbitration phase has it. -/
def State.canRx (s : State) (ch : Chan) (f : CanFrame) (e : FrameEnd) : State :=
  if !s.programRuns ch || !(s.prog ch).receives then s
  else
    let n := f.fmt.toNat
    let s1 := (s.startCrc ch).canPass ch (canPhases n) f.line
    if n = 4 && programOf ch != .canxl then s1.canRxError ch n (BitVec.ofNat 8 errPex) false
    else match e with
      | .complete => if 4 < n then s1.canRxError ch n (BitVec.ofNat 8 errForm) false else s1.canValid ch f
      | .cut k => s1.closeEarly ch ((canFrameWords f (s.tbAgo f.back)).take k)
      | .error err d => s1.canRxError ch n err d

def execCanRxFrame (ch : Chan) (f : CanFrame) (e : FrameEnd) (s : State) : Out := .next (s.canRx ch f e)

/-- Bus-off ends in time: automatically, or since RECOVER (R289). -/
def Prog.recovers (ch : Chan) (p : Prog) : Bool := p.state == 3 && (p.recovering || optAutoRecovery ch)

/-- BUS_OFF_RECOVERY (R289): after 128 times 11 recessive bits. -/
def execBusOffRecovery (ch : Chan) (s : State) : Out :=
  let p := s.prog ch
  .next (if s.programRuns ch && p.recovers ch && decide (128 ≤ p.busFree) then
      (s.setProg ch { p with tec := 0, rec_ := 0, recovering := false }).enterState ch 1
    else s)

/-- How long a bus is idle for its program, in 1/256 cycles: 11 recessive bits, or a character's time. -/
def State.idleTime (s : State) (ch : Chan) : Nat :=
  if programOf ch = .uart then charBits ch * optBit ch
  else 11 * (256 * s.chFld F.peBitpa_PERIOD ch + s.chFld F.peBitpa_FRAC ch)

/-- One cycle of a channel whose program waits for an idle bus: to integrate (R284), to receive again (R282), or to recover
from bus-off (R289). -/
def State.integrate (s : State) (ch : Chan) : State :=
  let p := s.prog ch
  if !(p.state == 6 || p.waitIdle || p.recovers ch) then s
  else
    let high := match s.laneOf ch (s.chFld F.peBitcfg_RXL ch) with
      | some q => s.delivered q
      | none => true
    let n := if high then p.idleFor + 1 else 0
    if s.idleTime ch ≤ 256 * n then
      let p1 := { p with waitIdle := false, idleFor := 0, busFree := p.busFree + (p.recovers ch).toNat }
      if p.state = 6 then (s.setProg ch p1).enterState ch p1.errState else s.setProg ch p1
    else s.setProg ch { p with idleFor := n }

end Sys2Proof.Machine
end

