-- ==== Sys2Proof/Machine/BusPrograms.lean ====
section
/-!
DEFINITION. The supplied bus and sensor programs as commands (R279 to R300).  A program's effect at its channel's queues,
ports and bit unit and on its run-time state is given here; what the wire shows of the other nodes is the environment's,
and a command carries it.
-/

namespace Sys2Proof.Machine

/-! ## LIN frames (R290) -/

/-- The checksum of a response: the inverted sum with its carries, over the protected identifier too when enhanced. Log
entry 71 (PRESUMED). -/
def linChecksum (first : Nat) (data : List Byte) : Byte :=
  ~~~BitVec.ofNat 8 (data.foldl (fun a b => let t := a + b.toNat; if 256 ≤ t then t - 255 else t) first)

/-- The protected identifier: two parity bits over the identifier. Log entry 71 (PRESUMED). -/
def linPid (id : BitVec 6) : Byte :=
  let b := fun i => id.getLsbD i
  let p0 := b 0 ^^ b 1 ^^ b 2 ^^ b 4
  let p1 := !(b 1 ^^ b 3 ^^ b 4 ^^ b 5)
  BitVec.ofBool p1 ++ BitVec.ofBool p0 ++ id

/-- A LIN packet: identifier and response length in word 1, and no data or all of the response. -/
def linFrameOk (ws : List Word) : Bool :=
  match ws with
  | [] => false
  | h :: d =>
    let n := bitsOf h 8 4
    decide (1 ≤ n) && decide (n ≤ 8) && (d.isEmpty || d.length == (n + 3) / 4)

/-- A byte on the line: start bit, data least significant first, stop bit. -/
def linByte (b : Byte) : List Bool := false :: (List.range 8).map (fun i => b.getLsbD i) ++ [true]

/-- Break, delimiter, sync byte and protected identifier of a header. -/
def linHeaderBits (ch : Chan) (id : Nat) : List Bool :=
  List.replicate (optBreak ch) false ++ List.replicate (optDelimiter ch) true ++ linByte 0x55 ++ linByte (linPid (BitVec.ofNat 6 id))

/-- The checksum of identifier id's response (R290). -/
def linCheck (ch : Chan) (id : Nat) (data : List Byte) : Byte :=
  linChecksum (if optEnhancedId ch id then (linPid (BitVec.ofNat 6 id)).toNat else 0) data

/-- The response that a packet holds. -/
def linData (ws : List Word) : List Byte :=
  ((ws.drop 1).flatMap fun w => [byteOf w 0, byteOf w 1, byteOf w 2, byteOf w 3]).take (bitsOf (ws.getD 0 0) 8 4)

/-- A response on the line: its bytes and the checksum. -/
def linResponseBits (ch : Chan) (id : Nat) (data : List Byte) : List Bool := (data ++ [linCheck ch id data]).flatMap linByte

/-- Bits go out on lane 0, and TX_DONE reports their start, or TX_FAIL the error that the line showed (R283). -/
def State.linSend (s : State) (ch : Chan) (bits : List Bool) (err : Byte) : State :=
  let s1 := s.sendBits ch 0 bits (optBit ch)
  if err = 0 then (s1.setProg ch { s1.prog ch with frame := [] }).status ch 1 (s.tbAgo (bits.length * optBit ch / 256))
  else s1.txFail ch 1 err.toNat

/-- The go-to-sleep frame of ISO 17987: identifier 0x3C, data 00 and seven times FF, classic checksum. Log entry 71
(PRESUMED). -/
def State.linSleepFrame (s : State) (ch : Chan) : State :=
  let data : List Byte := 0 :: List.replicate 7 0xFF
  s.linSend ch (linHeaderBits ch 0x3C ++ (data ++ [linChecksum 0 data]).flatMap linByte) 0

/-! ## Control items (R284) -/

/-- Where ONLINE leads: a program that takes part stays as it is, a bus-off one stays or is again off the bus until it has
recovered, and CAN integrates first. -/
def onlineState (g : Config.BusProgram) (p : Prog) : BitVec 4 :=
  if !isCan g then 1
  else if p.sends || p.state == 3 || p.state == 6 then p.state
  else if 255 < p.tec.toNat then 3
  else if p.state = 4 then p.errState
  else 6

/-- ONLINE. -/
def execOnline (ch : Chan) (s : State) : Out :=
  .next (s.control ch 1 fun s => s.enterState ch (onlineState (programOf ch) (s.prog ch)))

/-- OFFLINE: its lines at rest. -/
def execOffline (ch : Chan) (s : State) : Out :=
  .next (s.control ch 2 fun s => (s.rest ch [0, 1, 2, 3]).enterState ch 0)

/-- LISTEN. -/
def execListen (ch : Chan) (s : State) : Out := .next (s.control ch 3 fun s => s.enterState ch 4)

/-- STB or EN, lane 2 of CAN and LIN, at its normal or its sleep level. -/
def State.driveStandby (s : State) (ch : Chan) (normal : Bool) : State :=
  let s1 := s.setProg ch { s.prog ch with stb := normal }
  if isCan (programOf ch) || programOf ch == .lin then
    s1.writeLane ch 2 6 (optFlag ch fSleepLevel != normal) true (s1.cycle + 1)
  else s1

/-- SLEEP: a LIN commander sends the go-to-sleep frame; STB or EN at its sleep level. -/
def execSleep (ch : Chan) (s : State) : Out :=
  .next (s.control ch 4 fun s =>
    let s1 := if programOf ch = .lin && optFlag ch fCommander then s.linSleepFrame ch else s
    (s1.driveStandby ch false).enterState ch 5)

/-- WAKE: LIN sends its wake pulse, CAN drives STB to its normal level. -/
def execWake (ch : Chan) (s : State) : Out :=
  .next (s.control ch 5 fun s =>
    (if programOf ch = .lin then s.activePulse ch 0 false (optWake ch) else s).driveStandby ch true)

/-- READ_COUNTERS: one COUNTERS item, which restarts the error count (R289). -/
def execReadCounters (ch : Chan) (s : State) : Out :=
  .next (s.control ch 6 fun s =>
    let p := s.prog ch
    (s.setProg ch { p with errs := 0 }).status ch 6 (p.stateWord p.errs.toNat))

/-- ABORT_TX: the frame in progress is given up. -/
def execAbortTx (ch : Chan) (s : State) : Out :=
  .next (s.control ch 7 fun s =>
    let p := s.prog ch
    if p.frame.isEmpty then s else s.txFail ch p.tries p.lastErr.toNat)

/-- RECOVER: manual bus-off recovery begins. -/
def execRecover (ch : Chan) (s : State) : Out :=
  .next (s.control ch 8 fun s =>
    if (s.prog ch).state = 3 then s.setProg ch { s.prog ch with recovering := true, idleFor := 0, busFree := 0 } else s)

/-! ## LIN (R290) -/

/-- The response of identifier id is valid: its length and its checksum. -/
def linValid (ch : Chan) (id n : Nat) (r : LinResponse) : Bool :=
  decide (r.data.length = n) && r.check == linCheck ch id r.data

/-- A received response goes to sink 0 in the layout of a packet, KIND 0 when valid and 1 otherwise. -/
def State.linDeliver (s : State) (ch : Chan) (id n : Nat) (r : LinResponse) : State :=
  let ok := linValid ch id n r
  let s1 := (s.reportLost ch 0).dataPacket ch (if ok then 0 else 1)
    (BitVec.ofNat 32 (256 * n + id) :: wordsOf (r.data.take 8))
  if ok then s1 else s1.rxError ch 1 errCrc

/-- LIN_FRAME_START: the commander sends break and header, with the response it publishes itself; that of a responder goes
to sink 0, and an error of the line is reported. -/
def State.linStart (s : State) (ch : Chan) (resp : Option LinResponse) (err : Byte) : State :=
  if !s.programRuns ch || !(s.prog ch).sends || !optFlag ch fCommander then s
  else
    let x := (s.rest ch [0]).takePacket ch false
    match x.1 with
    | [] => x.2
    | h :: d =>
      let id := bitsOf h 0 6
      if !linFrameOk x.1 then x.2.rxError ch 0 errFormat
      else if !d.isEmpty then x.2.linSend ch (linHeaderBits ch id ++ linResponseBits ch id (linData x.1)) err
      else
        let s1 := x.2.sendBits ch 0 (linHeaderBits ch id) (optBit ch)
        let s2 := if err = 0 then s1 else s1.rxError ch 1 err.toNat
        match resp with
        | some r => s2.linDeliver ch id (bitsOf h 8 4) r
        | none => if err = 0 then s2.setProg ch { s2.prog ch with frame := x.1 } else s2

def execLinFrameStart (x : LinStart) (s : State) : Out := .next (s.linStart x.ch x.resp x.err)

/-- A measured bit lies within 14 % of the nominal one (R290). -/
def linRateOk (nominal measured : Nat) : Bool :=
  decide (86 * nominal ≤ 100 * measured) && decide (100 * measured ≤ 114 * nominal)

/-- The response for the identifier that has come in time is sent; otherwise nothing is, and RESP_LATE is reported. -/
def State.linRespond (s : State) (ch : Chan) (pid : Byte) (inTime : Bool) (err : Byte) : State :=
  let x := s.takePacket ch false
  match x.1 with
  | [] => s.rxError ch 1 errLate
  | h :: d =>
    if bitsOf h 0 6 = pid.toNat % 64 && inTime && (s.prog ch).sends then
      (if linFrameOk x.1 && !d.isEmpty then x.2.linSend ch (linResponseBits ch (pid.toNat % 64) (linData x.1)) err
       else x.2.rxError ch 0 errFormat)
    else s.rxError ch 1 errLate

/-- LIN_HEADER_RX at a responder: a break of 11 or more dominant bits, a rate that it takes, and a protected identifier whose
parity holds make a valid header: HEADER, its response, and the response of another node that it receives. Another rate is
reported as SYNC, a wrong parity as FORM. Log entry 61 (DESIGN CHOICE). -/
def State.linHeader (s : State) (ch : Chan) (pid : Byte) (x : LinHeard) : State :=
  if !s.programRuns ch || !(s.prog ch).receives || optFlag ch fCommander || decide (x.brk < 11) then s
  else if !linRateOk (optBit ch) x.bitTime then s.rxError ch 1 errSync
  else if pid ≠ linPid (pid.extractLsb' 0 6) then s.rxError ch 1 errForm
  else
    let s1 := ((s.rest ch [0]).status ch 7 (pid.setWidth 32)).linRespond ch pid x.inTime x.err
    match x.resp with
    | some r => s1.linDeliver ch (pid.toNat % 64) r.data.length r
    | none => s1

def execLinHeaderRx (ch : Chan) (pid : Byte) (x : LinHeard) (s : State) : Out := .next (s.linHeader ch pid x)

/-- LIN_RESPONSE_TIMEOUT. -/
def execLinResponseTimeout (ch : Chan) (s : State) : Out :=
  .next (if s.programRuns ch && (s.prog ch).receives then
      (s.setProg ch { s.prog ch with frame := [] }).rxError ch 1 errNoResponse
    else s)

/-! ## SENT (R291) -/

/-- The nibble of a pulse, in ticks less 12, from a message whose calibration pulse is cal: 12 to 27 ticks. -/
def sentNibble (cal pulse : Nat) : Option (BitVec 4) :=
  let ticks := (2 * 56 * pulse + cal) / (2 * cal)
  if 0 < cal ∧ 12 ≤ ticks ∧ ticks ≤ 27 then some (BitVec.ofNat 4 (ticks - 12)) else none

/-- One doubling in the field of the CRC x^4 + x^3 + x^2 + 1. -/
def crc4Double (x : BitVec 4) : BitVec 4 := if x.getLsbD 3 then (x <<< 1) ^^^ 0xD else x <<< 1

def crc4Step (c n : BitVec 4) : BitVec 4 := crc4Double (crc4Double (crc4Double (crc4Double c))) ^^^ n

/-- The 4-bit CRC of SAE J2716: seed 5, with the recommended method's closing zero nibble or without. Log entry 71
(PRESUMED). -/
def sentCrc (legacy : Bool) (ns : List (BitVec 4)) : BitVec 4 :=
  let c := ns.foldl crc4Step 5
  if legacy then c else crc4Step c 0

/-- What a message's pulses give: the nibbles of the pulses after its calibration pulse `cal`, or the error that discards it. -/
def sentDecode (ch : Chan) (lane : BitVec 2) (prev cal : Nat) (pulses : List Nat) : Except Nat (BitVec 4 × List (BitVec 4)) :=
  let nominal := 56 * optTick ch lane
  if 4 * cal < 3 * nominal ∨ 5 * nominal < 4 * cal then .error errSync
  else if optSuccessive ch lane && decide (0 < prev) && decide (prev < 64 * (if prev ≤ cal then cal - prev else prev - cal)) then
    .error errSync
  else
    let k := optNibbles ch lane
    match (pulses.take (k + 2)).mapM (sentNibble cal) with
    | none => .error errRange
    | some ns =>
      let data := (ns.drop 1).take k
      if ns.length ≠ k + 2 ∨ pulses.length ≠ k + 2 + (optPause ch lane).toNat then .error errSync
      else if ns.getLast? ≠ some (sentCrc (optLegacyCrc ch lane) data) then .error errCrc
      else .ok (ns.headD 0, data)

/-- Data nibbles, the first in bits [23:20]. -/
def sentData (ns : List (BitVec 4)) : BitVec 24 :=
  ((ns ++ List.replicate 6 0).take 6).foldl (fun (v : BitVec 24) (n : BitVec 4) => (v <<< 4) ||| n.setWidth 24) 0

/-- The program takes the timestamps that the queue of a lane holds (R258). -/
def State.takeStamps (s : State) (ch : Chan) (lane : Nat) : State :=
  match s.laneOf ch lane with
  | none => s
  | some p => s.setPort p { s.port p with ts := [] }

/-- SENT_MESSAGE: one message on a lane, read from its timestamps: its calibration pulse, whose falling edge was `back` cycles
ago, and the pulses after it, a pause pulse the last where the sensor has one. A lane whose timestamp queue overflowed, or a
message with an error, is reported and discarded. -/
def State.sentMessage (s0 : State) (ch : Chan) (lane : BitVec 2) (back cal : Nat) (pulses : List Nat) : State :=
  let l := lane.toNat
  let s := s0.takeStamps ch l
  let p := s.prog ch
  let overflow := match s.laneOf ch l with
    | some q => s.bit F.peTscfg_OVF q.toNat
    | none => false
  let seen := { p with cal := smSet 0 p.cal l cal }
  let drop := fun (e : Nat) => (s.setProg ch { seen with slow := smSet [] p.slow l [] }).rxError ch l e
  if overflow then drop errOverrun
  else match sentDecode ch lane (smGet 0 p.cal l) cal pulses with
    | .error e => drop e
    | .ok (st, data) =>
      let bits := (smGet [] p.slow l ++ [st.extractLsb' 2 2])
      (s.setProg ch { seen with slow := smSet [] p.slow l (bits.drop (bits.length - 18)) }).dataPacket ch 1
        [s.tbAgo back, (0 : BitVec 2) ++ lane ++ st ++ sentData data]

def execSentMessage (ch : Chan) (lane : BitVec 2) (back cal : Nat) (pulses : List Nat) (s : State) : Out :=
  s.received ch fun s => s.sentMessage ch lane back cal pulses

/-- The number that bits spell, the first most significant. -/
def spell (bits : List Bool) : Nat := bits.foldl (fun n b => 2 * n + b.toNat) 0

/-- One bit through the CRC x^6 + x^4 + x^3 + 1. -/
def crc6Step (c : BitVec 6) (b : Bool) : BitVec 6 :=
  let sh := (c <<< 1) ||| BitVec.ofNat 6 b.toNat
  if c.getLsbD 5 then sh ^^^ 0x19 else sh

/-- The 6-bit CRC of an enhanced serial message: seed 0x15, six closing zeros. Log entry 71 (PRESUMED). -/
def slowCrc6 (bits : List Bool) : Nat := ((bits ++ List.replicate 6 false).foldl crc6Step 0x15).toNat

/-- A slow message: identifier, data, and whether its CRC holds. -/
structure SlowMessage where
  id : Byte
  data : BitVec 16
  good : Bool
  deriving DecidableEq, Repr

/-- The short serial message of 16 fast messages: its first has bit 3 set, its others clear. Log entry 71 (PRESUMED). -/
def shortMessage (ch : Chan) (lane : BitVec 2) (bits : List (BitVec 2)) : Option SlowMessage :=
  let l := bits.drop (bits.length - 16)
  let b3 := l.map fun b => b.getLsbD 1
  let n := spell (l.map fun b => b.getLsbD 0)
  if l.length = 16 && b3 == true :: List.replicate 15 false then
    let nib := fun i => BitVec.ofNat 4 (n / 16 ^ i % 16)
    some ⟨(nib 3).setWidth 8, BitVec.ofNat 16 (n / 16 % 256), nib 0 == sentCrc (optLegacyCrc ch lane) [nib 3, nib 2, nib 1]⟩
  else none

/-- The enhanced serial message of 18 fast messages, in its two formats. Log entry 71 (PRESUMED). -/
def enhancedMessage (bits : List (BitVec 2)) : Option SlowMessage :=
  let b3 := bits.map fun b => b.getLsbD 1
  let b2 := bits.map fun b => b.getLsbD 0
  let at3 := fun i n => spell ((b3.drop i).take n)
  if bits.length = 18 && at3 0 7 == 0x7E && at3 12 1 == 0 && at3 17 1 == 0 then
    let wide := at3 7 1 == 1
    let low := spell (b2.drop 6)
    let covered := ((List.zip b2 b3).drop 6).flatMap fun p => [p.1, p.2]
    some ⟨BitVec.ofNat 8 (if wide then at3 8 4 else 16 * at3 8 4 + at3 13 4),
      BitVec.ofNat 16 (if wide then 4096 * at3 13 4 + low else low), spell (b2.take 6) == slowCrc6 covered⟩
  else none

/-- SENT_SLOW_MESSAGE: the slow message that the lane's fast messages complete, named by its identifier and data; where
they complete none, or another one, nothing happens. Log entry 56 (DESIGN CHOICE). -/
def State.slowMessage (s : State) (ch : Chan) (lane : BitVec 2) (id : Byte) (data : BitVec 16) : State :=
  let p := s.prog ch
  let bits := smGet [] p.slow lane.toNat
  match (if optEnhanced ch lane then enhancedMessage bits else shortMessage ch lane bits) with
  | none => s
  | some m =>
    let s1 := s.setProg ch { p with slow := smSet [] p.slow lane.toNat [] }
    if m.id ≠ id ∨ m.data ≠ data then s
    else if m.good then s1.dataPacket ch 2 [(0 : BitVec 2) ++ lane ++ m.id ++ (0 : BitVec 4) ++ m.data]
    else s1.rxError ch lane.toNat errCrc

def execSentSlowMessage (ch : Chan) (lane : BitVec 2) (id : Byte) (data : BitVec 16) (s : State) : Out :=
  s.received ch fun s => s.slowMessage ch lane id data

/-! ## PSI5 (R292) -/

/-- One bit through the CRC x^3 + x + 1. -/
def crc3Step (c : BitVec 3) (b : Bool) : BitVec 3 := if c.getLsbD 2 != b then (c <<< 1) ^^^ 0x3 else c <<< 1

/-- The check of a frame's data bits, least significant first: even parity, or the 3-bit CRC with seed 0b111. Log entry 71
(PRESUMED). -/
def psi5Check (ch : Chan) (data check : List Bool) : Bool :=
  if optFlag ch fPsi5Crc then spell check == (data.foldl crc3Step 0x7).toNat
  else check == [data.foldl (fun a b => a != b) false]

/-- PSI5_FRAME: a frame that started so many cycles after the sync pulse; its bits as received, none for a Manchester
violation. -/
def State.psi5Frame (s : State) (ch : Chan) (slot : BitVec 2) (start : Nat) (bits : List (Option Bool)) : State :=
  let free := optFlag ch fAsync
  let p := s.prog ch
  if !free && !(decide (optSlotFrom ch slot ≤ start) && decide (start ≤ optSlotTo ch slot)) then s.rxError ch 0 errSync
  else
    let s1 := s.setProg ch { p with slots := p.slots ||| ((1 : BitVec 4) <<< slot.toNat) }
    match bits.mapM id with
    | none => s1.rxError ch 0 errRange
    | some bs =>
      let n := optWidth ch
      if bs.length ≤ n then s1.rxError ch 0 errRange
      else if !psi5Check ch (bs.take n) (bs.drop n) then s1.rxError ch 0 errCrc
      else s1.dataPacket ch (if free then 0 else slot.setWidth 4) [BitVec.ofNat 32 (spell (bs.take n).reverse)]

def execPsi5Frame (ch : Chan) (slot : BitVec 2) (x : Psi5Bits) (s : State) : Out :=
  s.received ch fun s => s.psi5Frame ch slot x.start x.bits

/-- PSI5_SLOT_END: a slot that ends without a frame is reported. -/
def execPsi5SlotEnd (ch : Chan) (slot : BitVec 2) (s : State) : Out :=
  s.received ch fun s =>
    let p := s.prog ch
    if p.slots.getLsbD slot.toNat then s.setProg ch { p with slots := p.slots &&& ~~~((1 : BitVec 4) <<< slot.toNat) }
    else s.rxError ch 0 errNoResponse

/-! ## 10BASE-T1S (R293 to R295) -/

/-- A packet of source 0 is being read (R206). -/
def State.midPacket (s : State) (ch : Chan) : Bool :=
  match s.sourceOf ch false with
  | some q => (s.queue q).opened.isSome
  | none => false

/-- One bit of a reflected CRC. -/
def crcBit (poly c : Word) : Word := if c.getLsbD 0 then (c >>> 1) ^^^ poly else c >>> 1

def crcByte (poly c : Word) (b : Byte) : Word :=
  crcBit poly (crcBit poly (crcBit poly (crcBit poly (crcBit poly (crcBit poly (crcBit poly (crcBit poly
    (c ^^^ b.setWidth 32))))))))

/-- A reflected CRC-32 with initial value and final inversion of all ones. -/
def crc32 (poly : Word) (bytes : List Byte) : Word := ~~~(bytes.foldl (crcByte poly) 0xFFFFFFFF)

/-- The FCS polynomial of IEEE 802.3, reflected. Log entry 71 (PRESUMED). -/
def fcsPoly : Word := 0xEDB88320

/-- The FCS of a frame's bytes, in the order in which they are sent. -/
def fcsOf (bytes : List Byte) : List Byte :=
  let c := crc32 fcsPoly bytes
  [byteOf c 0, byteOf c 1, byteOf c 2, byteOf c 3]

/-- A frame of 64 to 1,522 bytes whose last four are the FCS of the rest. -/
def fcsOk (bytes : List Byte) : Bool :=
  let n := bytes.length
  decide (64 ≤ n) && decide (n ≤ 1522) && (bytes.drop (n - 4) == fcsOf (bytes.take (n - 4)))

/-- Bytes as nibbles, the low one first. -/
def nibblesOf (bytes : List Byte) : List (BitVec 4) := bytes.flatMap fun b => [b.extractLsb' 0 4, b.extractLsb' 4 4]

/-- Nibbles as bytes; a last odd nibble is dropped. -/
def bytesOfNibbles : List (BitVec 4) → List Byte
  | a :: b :: r => (b ++ a) :: bytesOfNibbles r
  | _ => []

/-- Preamble and SFD as nibbles. Log entry 71 (PRESUMED). -/
def t1sPreamble : List (BitVec 4) := List.replicate 15 0x5 ++ [0xD]

/-- The bytes after the SFD of received nibbles (R295). -/
def afterSfd : List (BitVec 4) → List Byte
  | [] => []
  | n :: r => if n = 0xD then bytesOfNibbles r else if n = 0x5 then afterSfd r else []

/-- Push the words of a packet to a queue by the channel's owner. -/
def State.packetTo (s : State) (ch : Chan) (q : Qid) : List Word → State
  | [] => s
  | w :: r =>
    (s.holderPush ch q (mkItem r.isEmpty (optDataPrio ch) (optFirstKind ch) (senderChannel ch) w)).packetTo ch q r

/-- TC or RC, which measures its clock on lane 0 from edge timestamps, passes the edge cycle and the measured period of each
16 nibbles to the data channel, which takes them from its grid's queue (R294). -/
def State.passGrid (s : State) (ch : Chan) (grid : List MiiGrid) : State :=
  (if grid.isEmpty then s else s.takeStamps (optClockChan ch) 0) |> grid.foldl (fun s g =>
    let s1 := s.packetTo (optClockChan ch) (optGridQueue ch)
      [BitVec.ofNat 32 (s.cycle - g.back), BitVec.ofNat 32 g.period]
    (s1.readPacket (optGridQueue ch) (.channel ch) 2 []).2)

/-- The cycle of nibble i on a grid: the edge of its stretch, the nibbles since, and half a period (R294). -/
def nibbleCycle (now : Nat) (grid : List MiiGrid) (i : Nat) : Nat :=
  match grid[i / 16]? with
  | some g => now - g.back + i % 16 * g.period + g.period / 2
  | none => now

/-- TD drives a nibble on its four lanes. -/
def State.driveNibble (s : State) (ch : Chan) (n : BitVec 4) (c : Nat) : State :=
  laneList.foldl (fun s l => s.wire ch l (n.getLsbD l) c) s

/-- TD drives the nibbles of a frame, each at its cycle. -/
def State.driveNibbles (s : State) (ch : Chan) (ns : List (BitVec 4)) (grid : List MiiGrid) : State :=
  (List.zip ns (List.range ns.length)).foldl (fun s x => s.driveNibble ch x.1 (nibbleCycle s.cycle grid x.2)) s

/-- A frame packet of the service thread: length, TB0 word and the bytes, 60 to 1,518 before the FCS. Log entry 61 (DESIGN
CHOICE). -/
def t1sFrameOk (ws : List Word) : Bool :=
  match ws with
  | h :: _ :: d =>
    let n := h.toNat
    decide (60 ≤ n) && decide (n ≤ 1518) && d.length == (n + 3) / 4
  | _ => false

/-- The bytes of a frame packet. -/
def t1sBytes (ws : List Word) : List Byte :=
  ((ws.drop 2).flatMap fun w => [byteOf w 0, byteOf w 1, byteOf w 2, byteOf w 3]).take (ws.getD 0 0).toNat

/-- Attempts of a frame have failed: a collision is retried up to 15 attempts, any other failure is not (R295). -/
def State.t1sFailed (s : State) (ch : Chan) (errs : List Byte) : State :=
  let p := s.prog ch
  let tries := p.tries + errs.length
  let last := errs.getLastD p.lastErr
  let s1 := s.setProg ch { p with tries := tries, lastErr := last }
  if errs.all (fun e => e == errCollision) && decide (tries < 15) then s1 else s1.txFail ch tries last.toNat

/-- The five nibbles of a BEACON on TD, with TX_ER and without TX_EN, as node 0 sends it before its own transmit opportunity.
Log entry 71 (PRESUMED). -/
def State.t1sBeacon (s : State) (ch : Chan) : State :=
  if optNode ch ≠ 0 then s
  else
    let c := s.cycle - 5 * 600
    let s1 := (s.wire (optClockChan ch) 1 false c).wire (optClockChan ch) 2 true c
    ((List.range 5).foldl (fun s i => s.driveNibble ch 0x2 (c + 600 * i)) s1).rest (optClockChan ch) [1, 2]

/-- The frame on the wire: preamble, SFD, bytes and FCS on the clock's grid; a grid that ends before the frame is a lost
clock. -/
def State.t1sSend (s : State) (ch : Chan) (ws : List Word) (r : BusResult) (grid : List MiiGrid) : State :=
  match r with
  | .failed errs => s.t1sFailed ch errs
  | .done back =>
    let bytes := t1sBytes ws
    let ns := t1sPreamble ++ nibblesOf (bytes ++ fcsOf bytes)
    let tc := optClockChan ch
    let s0 := (s.passGrid ch grid).wire tc 1 true (nibbleCycle s.cycle grid 0)
    let s1 := ((s0.driveNibbles ch (ns.take (16 * grid.length)) grid).rest ch [0, 1, 2, 3]).rest tc [1]
    if 16 * grid.length < ns.length then (s1.rxError ch 0 errSync).txFail ch (s1.prog ch).tries errSync
    else (s1.setProg ch { s1.prog ch with frame := [], tries := 0, lastErr := 0 }).status ch 1 (s1.tbAgo back)

/-- T1S_TX_FRAME: the frame in progress, or the next packet of source 0, at a transmit opportunity of the node, which has one
when its ID is below the node count; node 0 sends BEACON first; a packet that ends in mid-frame is an underrun (R283,
R295). -/
def State.t1sTx (s0 : State) (ch : Chan) (r : BusResult) (grid : List MiiGrid) : State :=
  if !s0.programRuns ch || !(s0.prog ch).sends || decide (optNodes ch ≤ optNode ch) then s0
  else
    let s := s0.t1sBeacon ch
    let x : List Word × State := if (s.prog ch).frame.isEmpty then s.takePacket ch false else ((s.prog ch).frame, s)
    if x.1.isEmpty then x.2
    else if (s.prog ch).frame.isEmpty && x.2.midPacket ch then x.2.txFail ch 1 errUnderrun
    else if !t1sFrameOk x.1 then x.2.rxError ch 0 errFormat
    else (x.2.setProg ch { x.2.prog ch with frame := x.1 }).t1sSend ch x.1 r grid

def execT1sTxFrame (ch : Chan) (x : T1sSent) (s : State) : Out := .next (s.t1sTx ch x.result x.grid)

/-- RD puts the bytes that it has sampled on its sink 0 as little-endian words, and the service thread takes them from there
(R281, R295). Log entry 61 (DESIGN CHOICE). -/
def State.throughSink (s : State) (ch : Chan) (bytes : List Byte) : State :=
  let s1 := s.dataPacket ch 0 (wordsOf bytes)
  match s1.sinkOf ch false with
  | none => s1
  | some q => (s1.readPacket q (.thread (optService ch)) (s1.queue q).depth []).2

/-- The frame service thread delivers the words of a packet, or none of them when its pool or the queue lacks room. -/
def State.serviceDeliver (s : State) (t : Tid) (q : Qid) : List Word → Option State
  | [] => some s
  | w :: r =>
    let x := s.push q (mkItem r.isEmpty 0 0 (senderThread t) w) (ownerThread t) (s.thr t).y
    let s1 := if x.1 = .later then x.2.holdPush q (mkItem r.isEmpty 0 0 (senderThread t) w) (ownerThread t) (s.thr t).y else x.2
    if x.1.taken then s1.serviceDeliver t q r else none

/-- T1S_RX_FRAME: a BEACON restarts the count of TO_TIMER periods; of a frame RD samples the nibbles on RC's grid, and it is
delivered to the service thread's destination queue with a good FCS, the FCS among its bytes, and reported and dropped
otherwise. Log entry 75 (DESIGN CHOICE). -/
def State.t1sRx (s : State) (ch : Chan) (dest : Qid) (back : Nat) (x : T1sHeard) : State :=
  let s0 := if x.beacon then s.setProg ch { s.prog ch with beaconAt := s.ns } else s
  let s1 := s0.passGrid ch x.grid
  let bytes := afterSfd x.nibbles
  if x.nibbles.isEmpty then s0
  else if x.err then s1.rxError ch 0 errForm
  else if 16 * x.grid.length < x.nibbles.length then s1.rxError ch 0 errSync
  else if !fcsOk bytes then (s1.throughSink ch bytes).rxError ch 0 errCrc
  else
    let time := s1.tbAgo back
    match (s1.throughSink ch bytes).serviceDeliver (optService ch) dest (BitVec.ofNat 32 bytes.length :: time :: wordsOf bytes) with
    | some s2 => s2
    | none => s1.reportLost ch 1

def execT1sRxFrame (ch : Chan) (dest : Qid) (back : Nat) (x : T1sHeard) (s : State) : Out :=
  s.received ch fun s => s.t1sRx ch dest back x

/-- T1S_BEACON_MISSING: a node other than 0 reports it after 4 TO_TIMER periods of 100 ns bit times without one, and again
after the next four (R295). Log entry 75 (DESIGN CHOICE). -/
def execT1sBeaconMissing (ch : Chan) (s : State) : Out :=
  s.received ch fun s =>
    let p := s.prog ch
    if optNode ch = 0 || decide (s.ns < p.beaconAt + 400 * optToTimer ch) then s
    else (s.setProg ch { p with beaconAt := s.ns }).rxError ch 0 errBeacon

/-! ## Serial ports (R295, R296) -/

/-- The packet of a program whose layout the manual does not give has the words its header asks for (R281). -/
def packetFits (ch : Chan) (ws : List Word) : Bool := ws.length == Config.packetWords ch.toNat (ws.headD 0)

/-- A commander's transfer: the packet of source 0 is taken, a malformed one discarded and reported; the lines are at rest
around it (R281, R282). -/
def State.transfer (s : State) (ch : Chan) (lanes : List Nat) (f : State → List Word → State) : State :=
  if !s.programRuns ch || !(s.prog ch).sends then s
  else
    let x := (s.rest ch lanes).takePacket ch false
    if x.1.isEmpty then x.2
    else if !packetFits ch x.1 then x.2.rxError ch 0 errFormat
    else f x.2 x.1

/-- What a transfer reads goes to sink 0; which transfers read is in the packet's layout, which the spec does not give
(free, log entry 20). -/
def State.readBack (s : State) (ch : Chan) (ws : List Word) : State :=
  let o := s.option
  if o.1.getLsbD 0 then o.2.dataPacket ch 0 ws else o.2

/-- MDIO_TRANSFER: MDC on lane 0, MDIO on lane 1. -/
def execMdioTransfer (ch : Chan) (rdata : BitVec 16) (s : State) : Out :=
  .next (s.transfer ch [0, 1] fun s ws =>
    (s.clockedBits ch 0 1 (Config.busBits ch.toNat ws) (optBit ch)).readBack ch [rdata.setWidth 32])

/-- The low bits of a word, as many as an SPI word has (4 to 32). -/
def spiWord (ch : Chan) (w : Word) : Word := BitVec.ofNat 32 (w.toNat % 2 ^ min 32 (max 4 (optWidth ch)))

/-- The bits of an SPI word in the order in which they go over the line. -/
def spiBits (ch : Chan) (w : Word) : List Bool :=
  let bits := bitsDown w.toNat (min 32 (max 4 (optWidth ch)))
  if optFlag ch fLsbFirst then bits.reverse else bits

/-- An SPI transfer on the lines, ending now: the chip select, opposite to its level at rest, with its set-up and hold times;
SCLK from its idle level, two edges a bit, placed by timed drives; SDO on lane 1, and the bit unit samples what SDI on lane 2
brings, in the mode of the options (R296). Log entry 61 (DESIGN CHOICE). -/
def State.spiWire (s : State) (ch : Chan) (ws rdata : List Word) : State :=
  let per := optBit ch
  let idle := optFlag ch fClockIdle
  let out := ws.flatMap (spiBits ch)
  let len := out.length * per / 256
  let start := s.cycle - optHold ch - len
  let cs := match s.laneOf ch 3 with
    | some p => s.fld F.pePad_SAFE p.toNat != 2
    | none => false
  let q := if optFlag ch fClockPhase then 0 else per / 512
  let s1 := s.wire ch 3 cs (start - optSetUp ch)
  let s2 := s1.wireBits ch 1 out start per
  let s3 := out.zipIdx.foldl (fun s x =>
    let c := start + x.2 * per / 256 + q
    (s.wire ch 0 (!idle) c).wire ch 0 idle (c + per / 512)) s2
  (s3.throughUnit ch (rdata.flatMap (spiBits ch))).rest ch [0, 1, 3]

/-- SPI_TRANSFER: every word sent brings one back, while the chip select holds; one that an overrun cuts short is closed
early (R282). -/
def execSpiTransfer (ch : Chan) (rdata : List Word) (s : State) : Out :=
  .next (s.transfer ch [0, 1, 3] fun s ws =>
    let got := (rdata.take ws.length).map (spiWord ch)
    let s1 := s.spiWire ch ws rdata
    if rdata.length < ws.length then s1.closeEarly ch got else (s1.reportLost ch 0).dataPacket ch 0 got)

/-- TWS_TRANSFER: SCL on lane 0, SDA on lane 1; the bytes read, if it reads; a failed one is reported with its error (a lost
arbitration, a missing acknowledgement, a clock stretched past its timeout). -/
def execTwsTransfer (ch : Chan) (r : BusResult) (rdata : List Byte) (s : State) : Out :=
  .next (s.transfer ch [0, 1] fun s ws =>
    let s1 := s.clockedBits ch 0 1 (Config.busBits ch.toNat ws) (optBit ch)
    match r with
    | .done _ => s1.readBack ch (wordsOf rdata)
    | .failed errs => s1.txFail ch errs.length (errs.getLastD 0).toNat)

/-- The next word of source 0. -/
def State.takeWord (s : State) (ch : Chan) : Option Word × State :=
  match s.sourceOf ch false with
  | none => (none, s)
  | some q =>
    let r := s.popItem q (.channel ch)
    (r.1.map fun x => itemPayload x.1, r.2)

/-- The line bits of a character: start bit, data bits, least significant first, parity and stop bits. -/
def uartBits (ch : Chan) (w : Word) : List Bool :=
  let data := (List.range (min 9 (max 5 (optWidth ch)))).map fun i => w.getLsbD i
  let even := data.foldl (fun a b => a != b) false
  let parity := match optParity ch with
    | 0 => []
    | 1 => [even]
    | _ => [!even]
  (false :: data) ++ parity ++ List.replicate (1 + (optFlag ch fTwoStops).toNat) true

/-- A character on lane 0 by timed drives, ending now (R296). -/
def State.uartSend (s : State) (ch : Chan) (w : Word) : State := s.sendBits ch 0 (uartBits ch w) (optBit ch)

/-- UART_TX: one character is taken and sent, unless CTS holds it back; a packet that ends in mid-frame is an underrun
(R283, R296). -/
def State.uartTx (s : State) (ch : Chan) : State :=
  let hold := optFlag ch fHandshake && (match s.laneOf ch 3 with | some p => s.delivered p | none => false)
  if !s.programRuns ch || !(s.prog ch).sends || hold then s
  else
    let x := s.takeWord ch
    match x.1 with
    | some w => x.2.uartSend ch w
    | none => if s.midPacket ch then s.rxError ch 0 errUnderrun else s

def execUartTx (ch : Chan) (s : State) : Out := .next (s.uartTx ch)

/-- UART_RX: the bit unit, hard-synchronised on the start bit, takes a character of as many bits as the option says, or shows
its error; after an overrun, a lost character, the program waits for an idle line (R282). RTS is taken back while pushes
wait. -/
def State.uartRx (s0 : State) (ch : Chan) (char : BitVec 9) (err : Byte) : State :=
  let s := s0.throughUnit ch (uartBits ch (char.setWidth 32))
  let s1 := if err = 0 then (s.reportLost ch 0).dataPacket ch 0
      [BitVec.ofNat 32 (char.toNat % 2 ^ min 9 (max 5 (optWidth ch)))]
    else s.rxError ch 1 err.toNat
  let s2 := if err.toNat = errOverrun then (s1.reportLost ch 1).awaitIdle ch else s1
  if optFlag ch fHandshake then s2.writeLane ch 2 6 (!(s2.chan ch).pushHold.isEmpty) true (s2.cycle + 1) else s2

def execUartRx (ch : Chan) (char : BitVec 9) (err : Byte) (s : State) : Out := s.received ch fun s => s.uartRx ch char err

/-! ## PWM (R297) -/

/-- Lanes k and k + 1, for k 0 or 2, are a complementary pair. -/
def pwmPair (ch : Chan) (lane : Nat) : Bool := optFlag ch (fPair (lane / 2))

/-- How many high times a packet of source 0 gives: one for each pair and each lane that is in none. Log entry 61 (DESIGN
CHOICE). -/
def pwmUnits (ch : Chan) : Nat := (if pwmPair ch 0 then 1 else 2) + (if pwmPair ch 2 then 1 else 2)

/-- The high time of a lane's unit. -/
def pwmHigh (ch : Chan) (duty : List Word) (lane : Nat) : Nat :=
  let first := if pwmPair ch 0 then 1 else 2
  let i := if lane < 2 then (if pwmPair ch 0 then 0 else lane) else first + (if pwmPair ch 2 then 0 else lane - 2)
  (duty.getD i 0).toNat

/-- The level of a lane so many cycles into a period: its high time starts with the period, or stands in its middle. Of a
pair the first lane rises a dead time late, and the second is low from the start of the high time to a dead time after its
end, as in the worked example of chapter 08. -/
def pwmLevel (ch : Chan) (duty : List Word) (lane phase : Nat) : Bool :=
  let high := min (optPeriod ch) (pwmHigh ch duty lane)
  let from_ := if optFlag ch fCentre then (optPeriod ch - high) / 2 else 0
  let dead := if pwmPair ch lane then optDeadTime ch else 0
  if pwmPair ch lane && lane % 2 = 1 then decide (phase < from_) || decide (from_ + high + dead ≤ phase)
  else decide (from_ + dead ≤ phase) && decide (phase < from_ + high)

/-- The next period begins: a new packet of source 0 gives its high times; one of another length is discarded and
reported. -/
def State.pwmPull (s : State) (ch : Chan) : State :=
  let x := s.takePacket ch false
  if x.1.isEmpty then x.2
  else if x.1.length = pwmUnits ch then x.2.setProg ch { x.2.prog ch with duty := x.1 }
  else x.2.rxError ch 0 errFormat

/-- One cycle of a PWM program: it starts a period when the last has ended, and its outputs follow. -/
def State.pwmCycle (s : State) (ch : Chan) : State :=
  if programOf ch ≠ .pwm || !s.programRuns ch then s
  else if !(s.prog ch).sends then s.setProg ch { s.prog ch with pwmAt := none }
  else
    let ends := (s.prog ch).pwmAt.all fun t => decide (t + optPeriod ch ≤ s.cycle)
    let s1 := if ends then s.pwmPull ch else s
    let p := s1.prog ch
    if p.duty.isEmpty then s1
    else
      let start := if ends then (p.pwmAt.map fun t => t + optPeriod ch).getD s1.cycle else p.pwmAt.getD 0
      laneList.foldl (fun s l =>
        let level := pwmLevel ch p.duty l (s.cycle - start)
        match s.laneOf ch l with
        | none => s
        | some q => if (s.port q).out = level && (s.port q).oe then s else s.wire ch l level s.cycle)
        (s1.setProg ch { p with pwmAt := some start })

/-! ## The clock of the programs -/

/-- One cycle of every channel's program: what waits for an idle bus, and PWM. Log entry 61 (DESIGN CHOICE). -/
def State.integrateAll (s : State) : State :=
  (s.channels.map fun kv => kv.1).foldl (fun s i => (s.integrate (BitVec.ofNat 9 i)).pwmCycle (BitVec.ofNat 9 i)) s

/-! ## Captures (R297, R308) -/

/-- A capture packet: TB0 bits [47:16] at the edge, two cycles before the program sees it, then the capture with its TYPE
as KIND. -/
def State.capturePush (s : State) (ch : Chan) (type : BitVec 4) (v : Word) : State :=
  (s.dataWord ch false 0 (s.tbAgo 2)).dataWord ch true type v

/-- HALL_SECTOR_CHANGE: reported when the sector is another one. -/
def State.hall (s : State) (ch : Chan) (h : BitVec 3) : State :=
  let p := s.prog ch
  if h = 0 ∨ h = 7 then s.rxError ch 0 errRange
  else if p.sector = h then s
  else (s.setProg ch { p with sector := h }).capturePush ch 1 (h.setWidth 32)

def execHallSectorChange (ch : Chan) (hall : BitVec 3) (s : State) : Out := s.received ch fun s => s.hall ch hall

/-- ZERO_CROSSING. -/
def execZeroCrossing (ch : Chan) (lane : BitVec 2) (s : State) : Out :=
  s.received ch fun s => s.capturePush ch 4 (lane.setWidth 32)

/-- The place of a quadrature state in its forward order, A leading B. -/
def quadPhase (a b : Bool) : Nat :=
  match a, b with
  | false, false => 0
  | true, false => 1
  | true, true => 2
  | false, true => 3

/-- QUADCAP_TRANSITION: a step of the count, its reset by Z, and RANGE when A and B change together. -/
def State.quadStep (s : State) (ch : Chan) (a b z : Bool) : State :=
  let p := s.prog ch
  let d := (quadPhase a b + 4 - quadPhase p.quadA p.quadB) % 4
  let n := if z then 0 else if d = 1 then p.count + 1 else if d = 3 then p.count - 1 else p.count
  let s1 := s.setProg ch { p with quadA := a, quadB := b, count := n }
  let s2 := if d = 2 then s1.rxError ch 0 errRange else s1
  if n = p.count then s2 else s2.capturePush ch 2 n

def execQuadcapTransition (ch : Chan) (a b z : Bool) (s : State) : Out := s.received ch fun s => s.quadStep ch a b z

/-! ## Partner table (R298 to R300) -/

/-- Home slot of a key. -/
def partnerHome (key addr : Word) : Nat :=
  (bitsOf addr 0 12 + bitsOf addr 12 12 + bitsOf addr 24 5 + 8 * bitsOf key 23 9) % 4096

/-- Address of entry i. -/
def partnerEntry (base : Word) (i : Nat) : Nat := base.toNat + i % 4096 * 32

/-- The entries that a lookup reads, in order (R300). -/
def partnerProbes (base key addr : Word) : List Nat :=
  (List.range 8).map fun i => partnerEntry base (partnerHome key addr + i)

/-- The entry at an address, as core c's loads see it, is in use for the channel, the type and the partner address of a key. -/
def State.partnerMatches (s : State) (c : CoreId) (key addr : Word) (a : Nat) : Bool :=
  s.loadWord c (a + 4) == ((key &&& 0xFFF00000) ||| 0x00080000) && s.loadWord c (a + 8) == addr

/-- The search of R300, with the core's own buffered stores (R182, R184). -/
def State.findPartner (s : State) (c : CoreId) (base key addr : Word) : Option Nat :=
  (partnerProbes base key addr).find? (s.partnerMatches c key addr)

/-- The first entry with V = 0 within the probes. -/
def State.freePartner (s : State) (c : CoreId) (base key addr : Word) : Option Nat :=
  (partnerProbes base key addr).find? fun a => !(s.loadWord c (a + 4)).getLsbD 19

/-- Where a transport service thread's page holds the table's base: word 0 (R298). -/
def State.partnerPage (s : State) (t : Tid) : Nat := coreMemBase (coreOf t) + (s.thr t).tp.toNat % 0x40000

/-- The partner table's base (R298). -/
def State.partnerBase (s : State) (t : Tid) : Word := s.loadWord (coreOf t) (s.partnerPage t)

/-- The words of a new entry, under the lock of its word 0 (R299, R300): STATE and COUNT start at 0. -/
def State.writePartner (s : State) (t : Tid) (a : Nat) (key addr reply dest deadline : Word) : State :=
  let put := fun (s : State) (x : Nat × Word) => s.writeMirrored (a + x.1) 0xF x.2
  [(0, t ++ (1 : BitVec 1) ++ (0 : BitVec 22)), (4, (key &&& 0xFFF00000) ||| 0x00080000), (8, addr), (12, reply), (16, 0),
    (20, dest), (24, deadline), (28, 0), (0, 0)].foldl put s

/-- Stores of core c to an entry are still on their way. -/
def State.entryBuffered (s : State) (c : CoreId) (a : Nat) : Bool :=
  ((s.core c).sbuf ++ (s.core c).inflight).any fun e => e.addr / 32 == a / 32

/-- The session of a table whose bank lets thread t's core in: one that the table holds is found, otherwise the first free
entry is taken, and the thread owns word 0 while it writes it; with none free the request is refused, and LOST reports it on
sink 1 of the key's channel. An entry locked by another thread, or with stores of the core on their way, or a bank that
takes no write now, leaves the table as it is: the command comes again. Log entries 61 and 75 (DESIGN CHOICE). -/
def State.tableSession (s : State) (t : Tid) (b : BankId) (base key addr reply dest deadline : Word) : State :=
  let c := coreOf t
  let read := s.bankGrant b (masterCore c) (.table t)
  let bad := (partnerProbes base key addr).find? fun a => s.badWord a
  match bad, s.findPartner c base key addr, s.freePartner c base key addr with
  | some a, _, _ => (read.wordMet a).threadFault t 0x08
  | none, some _, _ => read
  | none, none, none => read.reportLost (key.extractLsb' 23 9) 1
  | none, none, some a =>
    let lock := s.loadWord c a
    if (wordOwned lock && wordOwner lock != t) || s.entryBuffered c a then read
    else if s.mirrorRefuses b then (s.bankRefuses b (masterCore c) (.table t)).threadFault t 0x07
    else if s.mirroredAt a && !s.mirrorRoom then read
    else read.writePartner t a key addr reply dest deadline

/-- PARTNER_SESSION_OPEN (R300): accesses of thread t to the bank of the table, which refuses, holds back or answers them as
any other (R166, R168, R173 to R177). -/
def State.openSession (s : State) (t : Tid) (key addr reply dest deadline : Word) : State :=
  let base := s.partnerBase t
  let m := masterCore (coreOf t)
  if (s.thr t).st != .running then s
  else if s.badWord (s.partnerPage t) then (s.wordMet (s.partnerPage t)).threadFault t 0x08
  else match bankOf? base.toNat with
  | none => s
  | some b =>
    if base.toNat % 0x20000 ≠ 0 then s
    else match s.bankAsk b m (.table t) false with
      | .ok => s.tableSession t b base key addr reply dest deadline
      | .zero => s.bankGrant b m (.table t)
      | .refuse => (s.bankRefuses b m (.table t)).threadFault t 0x07
      | .wait => s.touchBank b

def execPartnerSessionOpen (t : Tid) (key addr reply dest deadline : Word) (s : State) : Out :=
  .next (s.openSession t key addr reply dest deadline)

end Sys2Proof.Machine
end

