-- ==== Sys2Proof/Machine/ChainOps.lean ====
section
/-!
DEFINITION. The chain unit's shared operations (chapter 14): ages and records of flits, delivery, routing, the message
egress, the tunnel egress, the feed of a mirror copy, and lanes entering and leaving UP.
-/

namespace Sys2Proof

/-! ## Records and ages (R413, R416) -/

/-- A time in units of 0.25 us, rounded up. -/
def ageUnits (ns : Nat) : Nat := (ns + 249) / 250

def Flit.aged (f : Flit) (ns : Nat) : Flit := { f with age := BitVec.ofNat 12 (min 4095 (f.age.toNat + ageUnits ns)) }

/-- A MESSAGE or TUNNEL flit that is not sent further. -/
def Flit.expired (f : Flit) : Bool := decide (4000 ≤ f.age.toNat)

/-- The item records of an ITEMS flit that hold an item. -/
def Flit.records (f : Flit) : List (List Word) :=
  [0, 1, 2].filterMap fun i =>
    let r := (f.body.drop (4 * i)).take 4
    if (r.getD 0 0).getLsbD 31 then some r else none

/-- The words of an RWRITE or MRUN flit: word index and data. -/
def Flit.runWords (f : Flit) : List (Nat × Word) :=
  (List.range 12).filterMap fun i =>
    if f.h3.getLsbD (20 + i) then some (Machine.bitsOf f.h2 0 21 + i, f.word i) else none

end Sys2Proof

namespace Sys2Proof.Machine

def recordQid (r : List Word) : Qid := (r.getD 0 0).extractLsb' 0 14
def recordItem (r : List Word) : BitVec 64 := r.getD 3 0 ++ r.getD 2 0

/-- The items of a flit that goes no further. -/
def State.slagFlit (s : State) (reason : BitVec 4) (f : Flit) : State :=
  if f.type = tITEMS then
    f.records.foldl (fun s r => s.slag reason (globalAddr f.dest (recordQid r)) (recordItem r)) s
  else s

def State.stopAge (s : State) (f : Flit) : State := (s.slagFlit slagHopLimit f).satAdd F.chnCnt_AGE 1
def State.stopHops (s : State) (f : Flit) : State := (s.slagFlit slagHopLimit f).satAdd F.chnCnt_HOP 1
def State.noRoute (s : State) (f : Flit) : State := (s.slagFlit slagLinkDown f).satAdd F.chnCnt_NOROUTE 1

/-! ## Delivery (R419, R420) -/

/-- An arriving item is pushed by pool owner 0x800; what is refused goes to the slag queue as POOL_FULL. -/
def State.deliverItem (s : State) (src : Node) (r : List Word) : State :=
  let w0 := r.getD 0 0
  let q := recordQid r
  let role := if w0.getLsbD 30 then r.getD 1 0 else 0
  let role1 := if w0.getLsbD 30 && w0.getLsbD 29 then
      putBits role 16 9 (s.fld F.qeQcfg_READER q.toNat)
    else role
  let item := withSender (recordItem r) (senderRemote src)
  match s.push q item ownerChain role1 with
  | (.ok, s1) => s1
  | (.slagged, s1) => s1
  | (.held, s1) => s1
  | (.later, s1) => s1.holdPush q item ownerChain role1
  | (_, s1) => s1.slagLocal slagPoolFull q item

/-- Perform the waiting remote words in order, as master 0x28, up to one whose bank makes it wait. -/
def remoteWritesN : Nat → State → State
  | 0, s => s
  | n + 1, s =>
    match s.chain.rwWait with
    | [] => s
    | ((i, v), p) :: rest =>
      let g := 0x02000000 + i * 4
      let pop := ({ s with chain := { s.chain with rwWait := rest } }).freePlace p
      match bankOf? g with
      | none => remoteWritesN n pop
      | some b =>
        match s.bankAskWrite b masterChain .remote false with
        | .ok =>
          if s.mirroredAt g && !s.mirrorRoom then s.bankWaits b masterChain .remote
          else remoteWritesN n ((pop.bankGrant b masterChain .remote).writeMirrored g 0xF v)
        | .zero => remoteWritesN n (pop.bankGrant b masterChain .remote)
        | .refuse => remoteWritesN n (pop.bankRefuses b masterChain .remote)
        | .wait => s.bankWaits b masterChain .remote

/-- Log entry 39 (DEDUCED). -/
def State.remoteWrites (s : State) : State := remoteWritesN s.chain.rwWait.length s

/-- A MESSAGE or TUNNEL flit for this node: its items are pushed, or its words wait for their banks; its place in a receive
buffer frees with the last of them (R410). -/
def State.deliver (s : State) (m : Parked) : State :=
  let f := m.flit
  let ws := f.runWords
  if f.type = tITEMS then (f.records.foldl (fun s r => s.deliverItem f.src r) s).freePlace m.place
  else if ws.isEmpty then s.freePlace m.place
  else
    let put := ws.zipIdx.map fun x => (x.1, if x.2 + 1 = ws.length then m.place else none)
    ({ s with chain := { s.chain with rwWait := s.chain.rwWait ++ put } }).remoteWrites

/-! ## Sending messages (R415, R416, R423, R424) -/

/-- Flits that the tunnel egress holds. -/
def State.tunnelUse (s : State) : Nat := (s.chain.tun.map fun e => e.flits.length).sum

/-- An entry closes with 23 flits, or 2 us after its first (R424). -/
def TunEntry.closes (e : TunEntry) (now : Nat) : Bool := decide (23 ≤ e.flits.length) || decide (e.since + 2000 ≤ now)

/-- A flit routed to the tunnel joins the open entry of its destination, or starts one; a full egress loses it (R424). -/
def State.toTunnel (s : State) (m : Parked) : State :=
  if 64 ≤ s.tunnelUse then (s.slagFlit slagLinkDown m.flit).freePlace m.place
  else
    let m1 := { m with flit := { m.flit with vc := 1 } }
    match s.chain.tun.find? (fun e => e.dest == m.flit.dest && !e.closes s.ns) with
    | some e =>
      let put := fun (x : TunEntry) => if x = e then { e with flits := e.flits ++ [m1] } else x
      { s with chain := { s.chain with tun := s.chain.tun.map put } }
    | none => { s with chain := { s.chain with tun := s.chain.tun ++ [⟨m.flit.dest, s.ns, [m1]⟩] } }

/-- A MESSAGE or TUNNEL flit leaves for its destination. -/
def State.dispatch (s : State) (m : Parked) : State :=
  if m.flit.dest = s.node then s.deliver m
  else match s.route m.flit.dest with
    | .none => (s.noRoute m.flit).freePlace m.place
    | .tunnel => s.toTunnel m
    | .lane l => s.setLane l { s.lane l with msgs := (s.lane l).msgs ++ [m] }

/-- An arriving flit of the MESSAGE or TUNNEL channel (R415, R416); d is the arrival lane's delay in ns, `place` its place in
a receive buffer. -/
def State.forward (s : State) (f : Flit) (d : Nat) (place : Option (LaneId × BitVec 2)) : State :=
  if f.dest = s.node then s.deliver ⟨f, s.ns, place⟩
  else if f.hops = 16 then (s.stopHops f).freePlace place
  else
    let g := { f.aged d with hops := f.hops + 1 }
    if g.expired then (s.stopAge g).freePlace place else s.dispatch ⟨g, s.ns, place⟩

/-! ## The message egress (R418) -/

/-- The four words of an item record. -/
def EgressItem.words (e : EgressItem) : List Word :=
  [(1 : BitVec 1) ++ BitVec.ofBool e.rchk ++ BitVec.ofBool e.rdr ++ (0 : BitVec 15) ++ e.q, e.role,
   itemPayload e.item, itemTag e.item]

/-- The ITEMS flit of up to three records for one destination. -/
def State.itemsFlit (s : State) (d : Node) (es : List EgressItem) : Flit :=
  ⟨1, tITEMS, 0, d, 0, s.node, 0, 0, body12 (es.map EgressItem.words).flatten⟩

/-- The next codeword of a lane takes one more MESSAGE flit: a slot and a credit are left (R406, R410). -/
def Lane.takesMore (x : Lane) : Bool :=
  let n := (x.msgs.filter fun m => m.flit.vc == 1).length
  decide (n < 10) && decide (n < x.credits.getD 1 0)

/-- Flits leave the egress in order (R418): those for a lane when its next codeword departs and takes them, others at
once. -/
def drainEgressN (departs : Bool) : Nat → State → State
  | 0, s => s
  | n + 1, s =>
    match s.chain.egress with
    | [] => s
    | e :: _ =>
      let es := (s.chain.egress.takeWhile fun x => x.dest == e.dest).take 3
      let f := s.itemsFlit e.dest es
      let go : Bool := match s.route e.dest with
        | .lane l => departs && (s.lane l).takesMore
        | _ => true
      let left := { s with chain := { s.chain with egress := s.chain.egress.drop es.length } }
      let g := f.aged (s.ns - e.at_)
      if g.expired then drainEgressN departs n (left.stopAge g)
      else if go then drainEgressN departs n (left.dispatch ⟨f, e.at_, none⟩)
      else s

/-- Threads asleep for room in the egress issue again (R86). -/
def State.wakeEgress (s : State) : State :=
  if 512 ≤ s.chain.egress.length then s
  else s.threads.foldl (fun s kv => if kv.2.sleep = .pushEgress then s.wakeThread (BitVec.ofNat 9 kv.1) else s) s

/-- Log entry 38 (DEDUCED). -/
def State.drainEgress (s : State) : State := (drainEgressN false s.chain.egress.length s).wakeEgress

/-- A push to a queue of another node: whether the egress takes it; while the chain unit is not ON it goes the way of a flit
without an UP lane (R400). -/
def State.egressPush (s : State) (d : Node) (q : Qid) (rchk rdr : Bool) (role : Word) (item : BitVec 64) : Bool × State :=
  let e := EgressItem.mk s.ns d q rchk rdr role item
  if (s.dom 21).st ≠ .on then (true, s.noRoute (s.itemsFlit d [e]))
  else if 512 ≤ s.chain.egress.length then (false, s)
  else
    let s1 := { s with chain := { s.chain with egress := s.chain.egress ++ [e] } }
    let s2 := s1.setFld F.chnEgr_HIGH (max (s1.fld F.chnEgr_HIGH) s1.chain.egress.length)
    (true, s2.drainEgress)

/-! ## Remote stores (R420) -/

/-- The RWRITE flit being combined leaves. -/
def State.closeRun (s : State) : State :=
  match s.chain.rwOpen with
  | none => s
  | some (_, f, t) => ({ s with chain := { s.chain with rwOpen := none } }).dispatch ⟨f, t, none⟩

/-- A store of core c to anything but a chain window ends the run of its words. -/
def State.endRun (s : State) (c : CoreId) : State :=
  if s.chain.rwOpen.any fun r => r.1 == c then s.closeRun else s

/-- The RWRITE flit of n words from index i on. -/
def rwriteFlit (d src : Node) (i : Nat) (ws : List Word) : Flit :=
  ⟨1, tRWRITE, 0, d, 0, src, BitVec.ofNat 32 i, BitVec.ofNat 32 (2 ^ 20 * (2 ^ ws.length - 1)), body12 ws⟩

/-- The flit being combined, with the next word of core c, when that follows its last word back to back, up to 12 words. -/
def State.joinRun (s : State) (c : CoreId) (d : Node) (i : Nat) (v : Word) : Option (CoreId × Flit × Nat) :=
  match s.chain.rwOpen with
  | none => none
  | some (c0, f, t) =>
    let ws := f.runWords
    if c0 = c && f.dest == d && decide (ws.length < 12) && decide (bitsOf f.h2 0 21 + ws.length = i) then
      some (c, rwriteFlit d s.node (bitsOf f.h2 0 21) (ws.map (fun w => w.2) ++ [v]), t)
    else none

/-- A word that core c's store buffer sends to a chain window (R420). Log entry 39 (DEDUCED). -/
def State.chainStore (s : State) (c : CoreId) (d : Node) (i : Nat) (v : Word) : State :=
  let s1 := match s.joinRun c d i v with
    | some r => { s with chain := { s.chain with rwOpen := some r } }
    | none =>
      let s' := s.closeRun
      { s' with chain := { s'.chain with rwOpen := some (c, rwriteFlit d s'.node i [v], s'.ns) } }
  if s1.chain.rwOpen.any (fun r => decide (12 ≤ r.2.1.runWords.length)) || (s1.dom 21).st != .on then s1.closeRun else s1

/-! ## Feeding a mirror copy (R430, R432) -/

/-- R as a snapshot carries it, in the units of TB.RATE. -/
def State.shownRate (s : State) (n : BaseId) : Rat :=
  if s.isNet n then 2 ^ 40 * ((s.base n).rate - 1) else 2 ^ 32 * (s.base n).rate

/-- The two words of a 64-bit quantity, low word first. -/
def pairWords (v : BitVec 64) : List Word := [v.extractLsb' 0 32, v.extractLsb' 32 32]

/-- The snapshot of base n (R432): word 0 holds the base in [31:28], its state in [10:8] and its generation in [7:0].
Log entry 40 (DEDUCED). -/
def State.snapshot (s : State) (n : BaseId) : List Word × State :=
  let b := s.base n
  let w0 := BitVec.ofNat 32 (2 ^ 28 * n.toNat + 2 ^ 8 * b.st.code + b.gen.toNat)
  let t := s.showRat (65536 * b.ta) 64
  let v := t.2.showRat (ratMod b.va (s.ringOf n)) 64
  let r := v.2.showRat (s.shownRate n) 64
  let p := r.2.showRat b.phi 64
  let c := p.2.showRat (2 ^ 32 * b.corr) 32
  (w0 :: (pairWords t.1 ++ pairWords v.1 ++ pairWords r.1 ++ pairWords p.1 ++ [c.1]), c.2)

/-- Base n is mirrored (MIR.TIM.TBM). -/
def State.mirrorsBase (s : State) (n : BaseId) : Bool := n != 0 && (s.fld F.mirTim_TBM).testBit (n.toNat - 1)

/-- The words P0 to P4 of an action. -/
def actionWords (a : Action) : List Word :=
  let b := fun (x : Bool) => x.toNat
  [BitVec.ofNat 32 (2 ^ 28 * a.base.toNat + 2 ^ 25 * a.kind.toNat + 2 ^ 23 * a.late.toNat + 2 ^ 22 * (b a.keepPos) +
     2 ^ 21 * (b a.trig) + 2 ^ 12 * a.ch.toNat + 2 ^ 10 * a.lane.toNat + 2 ^ 9 * (b a.out) + 2 ^ 8 * (b a.oe) +
     a.prio.toNat * 2 ^ 4 + a.ikind.toNat), a.target.extractLsb' 0 32, a.target.extractLsb' 32 32, a.param,
   BitVec.ofNat 32 (2 ^ 31 * (b a.qn) + 2 ^ 30 * (b a.ln) + a.tag.toNat)]

/-- The MSTATE records that end a copy: mirrored bases, staged and pending actions, tasks. Log entry 40 (DEDUCED). -/
def State.copyStates (s : State) : List (Nat × List Word) × State :=
  let bs := (baseIds.filter s.mirrorsBase).foldl (fun (a : List (Nat × List Word) × State) n =>
    let r := a.2.snapshot n
    (a.1 ++ [(1, r.1)], r.2)) ([], s)
  let staged := (s.channels.map fun kv => (kv.2.staged.filter fun x => !x.ending).map fun x => x.act).flatten ++ s.pend
  let acts := (staged.filter fun a => s.mirrorsChan a.ch).map fun a => (2, actionWords a)
  let tasks := (s.tasks.filter fun kv => s.mirrorsTask (BitVec.ofNat 12 kv.1)).map fun kv =>
    (3, taskRecord (BitVec.ofNat 12 kv.1) kv.2)
  (bs.1 ++ acts ++ tasks, bs.2)

/-- Runs of 12 words that a bank holds. -/
def bankRuns : Nat := 10923

/-- The records that set a queue of the partner up as it stands. -/
def Queue.copyRecords (x : Queue) (q : Qid) : List (List Word) :=
  queueRecord 2 q 0 0 :: x.allWords.map fun w => queueRecord 0 q w.owner w.item

/-- One flit of the copy enters the egress; its reads of a retained bank wake it and wait (R175). -/
def State.feedOne (s : State) : State :=
  let m := s.mirror
  match m.copyRecs, m.copyBanks, m.copyQueues with
  | r :: rs, _, _ =>
    ({ s with mirror := { m with copyRecs := rs.drop 2 } }).mirrorEmit tMQUEUE 0 0 (r :: rs.take 2).flatten
  | [], b :: bs, _ =>
    if (s.bank b).ret = .retained ∨ (s.bank b).ret = .waking then s.bankWaits b masterChain .copy else
    let n := min 12 (131072 - 12 * m.copyRun)
    let i := 131072 * b.toNat + 12 * m.copyRun
    let ws := (List.range n).map fun k => memWord s.mem (0x02000000 + 4 * (i + k))
    let m1 := if m.copyRun + 1 < bankRuns then { m with copyRun := m.copyRun + 1 } else { m with copyBanks := bs, copyRun := 0 }
    (({ s with mirror := m1 }).bankGrant b masterChain .copy).mirrorEmit tMRUN (BitVec.ofNat 32 i) (BitVec.ofNat 12 (2 ^ n - 1)) ws
  | [], [], q :: qs => { s with mirror := { m with copyQueues := qs, copyRecs := (s.queue q).copyRecords q } }
  | [], [], [] =>
    if m.copyEnd then
      match m.copyTail with
      | [] => s
      | t :: ts => ({ s with mirror := { m with copyTail := ts } }).mirrorEmit tMSTATE (BitVec.ofNat 32 t.1) 0 t.2
    else
      let r := s.copyStates
      { r.2 with mirror := { r.2.mirror with copyTail := r.1, copyEnd := true } }

/-- Feed the copy while the egress has places. -/
def feedN : Nat → State → State
  | 0, s => s
  | n + 1, s => if s.mirror.copying && decide (s.mirror.egress.length < 112) then feedN n s.feedOne else s

/-- Log entry 40 (DEDUCED). -/
def State.feedCopy (s : State) : State := if s.mirror.copying then feedN 128 s else s

/-- Nothing of the copy is left to send. -/
def Mirror.copied (m : Mirror) : Bool :=
  m.copyEnd && m.copyRecs.isEmpty && m.copyBanks.isEmpty && m.copyQueues.isEmpty && m.copyTail.isEmpty

/-! ## Everything that waits -/

/-- After lanes change: the message egress, the mirror copy and waiting remote words. -/
def State.drainAll (s : State) : State := s.drainEgress.feedCopy.remoteWrites

/-! ## Lanes entering and leaving UP (R408, R417, R442) -/

/-- A lane that may is in INIT (R408). -/
def State.tryInit (s : State) (l : LaneId) : State :=
  let x := s.lane l
  if x.st == .down && s.bit F.chnLctl_EN l.toNat && s.bit F.blkNodeid_LOADED && x.sig && !x.faultDown &&
      (s.dom 21).st == DomState.on then
    s.setLane l { x with st := .init, gotInit := false, sentReady := false, gotReady := false, lastInit := s.ns }
  else s

/-- Both sides have sent and received READY. -/
def State.tryUp (s : State) (l : LaneId) : State :=
  let x := s.lane l
  if x.st == .init && x.sentReady && x.gotReady then
    let s1 := s.setLane l { x with st := .up, credits := fullCredits, owed := [0, 0, 0, 0], txSeq := 0, rxNext := 0
                                   ack := 0x3FF, nak := false, replay := [], again := [], probeAt := none, lastCw := s.ns, lastProbe := s.ns }
    ((s1.setFld F.chnLstat_PEER x.peer.toNat l.toNat).pulse (0xA40 + l.toNat)).drainAll
  else s

/-- The items of unacknowledged codewords are lost (R417). -/
def State.loseItems (s : State) (f : Flit) : State :=
  if f.type = tITEMS then (s.slagFlit slagLinkDown f).satAdd F.chnCnt_LOST f.records.length else s

/-- What lane l's receive buffer held is no longer charged to it: its peer starts from full credits. -/
def State.forgetPlaces (s : State) (l : LaneId) : State :=
  let keep := fun (p : Option (LaneId × BitVec 2)) => if p.any fun x => x.1 == l then none else p
  let park := fun (m : Parked) => { m with place := keep m.place }
  { s with lanes := smMap {} s.lanes fun _ x => { x with msgs := x.msgs.map park }
           chain := { s.chain with tun := s.chain.tun.map fun e => { e with flits := e.flits.map park }
                                   rwWait := s.chain.rwWait.map fun w => (w.1, keep w.2) } }

/-- A lane leaves UP with a cause of LSTAT, or leaves INIT. Log entry 38 (DEDUCED). -/
def State.laneDown (s : State) (l : LaneId) (cause : Nat) : State :=
  let x := s.lane l
  let idle := { x with st := LaneState.down, replay := [], again := [], links := [], queue := [], msgs := [], probeAt := none
                       nak := false, nakDue := false, probeDue := false, owed := [0, 0, 0, 0], out := none }
  match x.st with
  | .down => s
  | .init => s.setLane l idle
  | .up =>
    let sent := (x.replay.map fun p => p.2).flatten
    let mir := sent.filter fun f => f.vc == 0
    let back := if s.pairing then mir ++ s.mirror.egress else s.mirror.egress
    let s1 := { (s.setLane l idle).forgetPlaces l with mirror := { s.mirror with egress := back } }
    let s2 := ((s1.setFld F.chnLstat_CAUSE cause l.toNat).setFld F.chnLstat_PEER 0 l.toNat).pulse (0xA44 + l.toNat)
    let s3 := sent.foldl (fun s f => s.loseItems f) s2
    x.msgs.foldl (fun s m => s.dispatch m) s3

/-! ## Codewords (R406, R409, R410) -/

/-- The CREDIT flit of a lane: what it owes its peer, with NAK and the expected SEQ (R412). -/
def State.creditFlit (s : State) (l : LaneId) : Flit :=
  let x := s.lane l
  let c := fun (i : Nat) => min 255 (x.owed.getD i 0)
  ⟨0, tCREDIT, 0, 0, 0, s.node, BitVec.ofNat 32 (2 ^ 24 * (c 0) + 2 ^ 16 * (c 1) + 2 ^ 8 * (c 2) + c 3),
    BitVec.ofNat 32 (2 ^ 31 * x.nakDue.toNat + x.rxNext), body12 []⟩

/-- A CREDIT flit is due in UP. -/
def Lane.creditDue (x : Lane) : Bool := x.st == .up && (x.nakDue || x.owed.any fun n => decide (0 < n))

/-- The link flits of the next codeword, at most `room`: CREDIT, a PROBE request with TB0 of its departure, then the others. -/
def State.takeLinks (s : State) (l : LaneId) (room : Nat) : List Flit × State :=
  let x := s.lane l
  let a := if x.creditDue && decide (0 < room) then
      ([s.creditFlit l], s.setLane l { x with nakDue := false, owed := x.owed.map fun n => n - min 255 n })
    else ([], s)
  let y := a.2.lane l
  let b := if y.probeDue && decide (a.1.length < room) then
      (a.1 ++ [⟨0, tPROBE, 0, 0, 0, s.node, 0, 0, body12 (pairWords s.tb0)⟩],
       a.2.setLane l { y with probeDue := false, probeAt := some s.tb0 })
    else a
  let z := b.2.lane l
  let n := room - b.1.length
  (b.1 ++ z.links.take n, b.2.setLane l { z with links := z.links.drop n })

/-- A CONTROL flit as it departs: a HEARTBEAT carries TB0, a TIME flit the base's value, of that cycle (R412, R422). -/
def State.departing (s : State) (f : Flit) : Flit × State :=
  if f.type = tHEARTBEAT then ({ f with body := body12 (pairWords s.tb0) }, s)
  else if f.type = tTIME then
    let v := s.baseWord (BitVec.ofNat 4 (s.fld F.chnTcfg_TB))
    ({ f with h2 := v.1.extractLsb' 0 32, h3 := v.1.extractLsb' 32 32 }, v.2)
  else (f, s)

/-- The next flit that lane l sends under its credits: CONTROL, then MIRROR in MSEQ order, then MESSAGE and TUNNEL (R410,
R427). Log entry 38 (DEDUCED). -/
def State.nextFlit (s : State) (l : LaneId) : Option Flit × State :=
  let x := s.lane l
  let mirrors := x.credit 0 && s.mirrorLanes.contains l
  match x.queue.filter (fun _ => x.credit 2), s.mirror.egress.filter fun _ => mirrors with
  | f :: _, _ =>
    let r := (s.setLane l ({ x with queue := x.queue.drop 1 }.spend 2)).departing f
    (some r.1, r.2)
  | [], f :: _ =>
    (some f, { s.setLane l (x.spend 0) with mirror := { s.mirror with egress := s.mirror.egress.drop 1, gone := f.h3.extractLsb' 0 20 } })
  | [], [] =>
    match x.msgs.find? fun m => x.credit m.flit.vc with
    | none => (none, s)
    | some m =>
      (some (m.flit.aged (s.ns - m.since)),
       (s.setLane l ({ x with msgs := x.msgs.erase m }.spend m.flit.vc)).freePlace m.place)

/-- At most n flits that lane l sends. -/
def State.takeFlits (s : State) (l : LaneId) : Nat → List Flit × State
  | 0 => ([], s)
  | n + 1 =>
    match s.nextFlit l with
    | (none, s1) => ([], s1)
    | (some f, s1) =>
      let r := s1.takeFlits l n
      (f :: r.1, r.2)

/-- Waiting messages that have become too old go no further (R416). -/
def State.dropAged (s : State) (l : LaneId) : State :=
  let old := fun (m : Parked) => (m.flit.aged (s.ns - m.since)).expired
  let gone := (s.lane l).msgs.filter old
  gone.foldl (fun s m => (s.stopAge (m.flit.aged (s.ns - m.since))).freePlace m.place)
    (s.setLane l { s.lane l with msgs := (s.lane l).msgs.filter fun m => !old m })

/-- An INIT flit with READY has left. -/
def readySent (fs : List Flit) : Bool := fs.any fun f => f.type == tINIT && f.h2.getLsbD 31

/-- A codeword leaves lane l in codeword time k: one that a NAK asks for again, or up to 10 flits with the next SEQ, kept
for replay, or link flits alone with SEQ 0x3FF (R409). Log entry 38 (DEDUCED). -/
def State.laneCodeword (s : State) (l : LaneId) (k : Nat) : State :=
  let s0 := s.dropAged l
  let x := s0.lane l
  let held := (x.again.map fun c => c.2).headD []
  let r := s0.takeLinks l (10 - held.length)
  let y := r.2.lane l
  let room := if y.st == .up && y.again.isEmpty && decide (y.replay.length < 64) then 10 - r.1.length else 0
  let n := r.2.takeFlits l room
  let z := n.2.lane l
  let z1 := { z with cw := k, sentReady := z.sentReady || readySent r.1 }
  let z2 := match z.again with
    | c :: rest => { z1 with again := rest, out := some ⟨BitVec.ofNat 10 c.1, z.ack, r.1 ++ c.2⟩ }
    | [] =>
      if n.1.isEmpty then { z1 with out := some ⟨0x3FF, z.ack, r.1⟩ }
      else { z1 with replay := z.replay ++ [(z.txSeq, n.1)], txSeq := (z.txSeq + 1) % 1023
                     out := some ⟨BitVec.ofNat 10 z.txSeq, z.ack, r.1 ++ n.1⟩ }
  (n.2.setLane l z2).tryUp l

/-- The codeword time that runs: one lasts 340/7 ns (R406). -/
def State.codewordTime (s : State) : Nat := 7 * s.ns / 340

/-- The lanes whose next codeword leaves in this cycle. -/
def State.lanesDue (s : State) : List LaneId :=
  laneIds.filter fun l => (s.lane l).st != .down && (s.lane l).cw != s.codewordTime

/-- One cycle of the lanes' transmitters. Log entry 38 (DEDUCED). -/
def State.chainTick (s : State) : State :=
  let ls := s.lanesDue
  if !s.domainUp 21 || ls.isEmpty then s
  else
    let s1 := s.closeRun
    let s2 := drainEgressN true s1.chain.egress.length s1
    (ls.foldl (fun s l => s.laneCodeword l s.codewordTime) s2).wakeEgress.feedCopy

/-! ## Notices of the chain unit (R441) -/

def State.pairNotice (s : State) (code : Nat) : State :=
  s.notice .chainUnit (s.faultQueue 0) (mkItem true 15 0xE (senderUnit 2) (BitVec.ofNat 32 code))

/-- DIVERGED is set, with its event (R439, R442). -/
def State.setDiverged (s : State) : State :=
  if s.bit F.mirStat_DIVERGED then s.raise F.mirStat_DIVERGED else (s.raise F.mirStat_DIVERGED).pulse 0xA4B

end Sys2Proof.Machine
end

