-- ==== Sys2Proof/Machine/ChainControl.lean ====
section
/-!
DEFINITION. Lanes, probes, time messages and the tunnel as commands (R406 to R426, R443 to R445, R533).
-/

namespace Sys2Proof.Machine

/-! ## Lanes (R408, R533) -/

/-- A write of CHN.LCTL. -/
def State.wrLctl (s : State) (w : Writer) (l : LaneId) (v : Word) : State :=
  if !isBlock w then s.authorityFault w
  else
    let s1 := s.store w .chnLctl v l.toNat
    if s1.bit F.chnLctl_EN l.toNat then s1.tryInit l
    else
      let s2 := s1.laneDown l 1
      s2.setLane l { s2.lane l with faultDown := false }

/-- LANE_ENABLE_WRITE (R408). -/
def execLaneEnableWrite (w : Writer) (l : LaneId) (v : Word) (s : State) : Out := .next (s.access w fun s => s.wrLctl w l v)

/-- LANE_INIT (R408): the PHY reports signal. -/
def execLaneInit (l : LaneId) (s : State) : Out := .next ((s.setLane l { s.lane l with sig := true }).tryInit l)

/-- The INIT flit of a lane (R412). -/
def State.initFlit (s : State) (ready : Bool) : Flit :=
  ⟨0, tINIT, 0, 0, 0, s.node, BitVec.ofNat 32 (2 ^ 31 * ready.toNat + s.node.toNat), 0, body12 []⟩

/-- INIT_FLIT_TIMER (R408). -/
def execInitFlitTimer (l : LaneId) (s : State) : Out :=
  let x := s.lane l
  .next (if x.st == .init && decide (x.lastInit + 1000 ≤ s.ns) then
      let s1 := s.linkSend l (s.initFlit x.gotInit)
      s1.setLane l { s1.lane l with lastInit := s.ns }
    else s)

/-- An INIT flit arrives. -/
def State.initRx (s : State) (l : LaneId) (f : Flit) : State :=
  let x := s.lane l
  if x.st == .init then
    (s.setLane l { x with gotInit := true, gotReady := x.gotReady || f.h2.getLsbD 31, peer := f.h2.extractLsb' 0 18 }).tryUp l
  else s

/-- LANE_SIGNAL_LOSS (R408). -/
def execLaneSignalLoss (l : LaneId) (s : State) : Out :=
  let s1 := s.laneDown l 2
  .next (s1.setLane l { s1.lane l with sig := false, lock := false })

/-- CODEWORD_TIMEOUT (R408, R533): the alignment search restarts. -/
def execCodewordTimeout (l : LaneId) (s : State) : Out :=
  .next (if s.ns < (s.lane l).lastCw + 10000 then s
    else
      let s1 := if (s.lane l).st = .up then s.laneDown l 3 else s
      (s1.setLane l { s1.lane l with lock := false }).tryInit l)

/-- CODEWORD_ALIGNMENT_LOCK (R533). -/
def execCodewordAlignmentLock (l : LaneId) (s : State) : Out :=
  .next (s.setLane l { s.lane l with lock := true, lastCw := s.ns })

/-- The lane is taken down by the fault window (R408, R452). -/
def State.laneFault (s : State) (l : LaneId) : State :=
  let s1 := s.laneDown l 4
  s1.setLane l { s1.lane l with faultDown := true }

/-! ## Credits, acknowledgement and replay (R409, R410) -/

/-- Codewords up to and with the acknowledged one are freed. -/
def ackReplay (r : List (Nat × List Flit)) (a : Nat) : List (Nat × List Flit) :=
  if r.any (fun p => p.1 == a) then (r.dropWhile fun p => p.1 != a).drop 1 else r

/-- The codewords to send again from an expected SEQ on; none when nothing with it is kept (R409). -/
def replayFrom (r : List (Nat × List Flit)) (seq : Nat) : List (Nat × List Flit) := r.dropWhile fun p => p.1 != seq

/-- A CREDIT flit arrives; with NAK the transmitter replays from the expected SEQ (R409, R410). -/
def State.creditRx (s : State) (l : LaneId) (f : Flit) : State :=
  let x := s.lane l
  let back := [bitsOf f.h2 24 8, bitsOf f.h2 16 8, bitsOf f.h2 8 8, bitsOf f.h2 0 8]
  let cs := (x.credits.zip (back.zip fullCredits)).map fun c => min (c.1 + c.2.1) c.2.2
  if f.h3.getLsbD 31 then
    (s.setLane l { x with credits := cs, again := replayFrom x.replay (bitsOf f.h3 0 10) }).satAdd F.chnLcnt_REPLAY 1 l.toNat
  else s.setLane l { x with credits := cs }

/-! ## Probes (R421) -/

/-- PROBE_TIMER (R421): every 1 ms of TB0 a request is due. -/
def execProbeTimer (l : LaneId) (s : State) : Out :=
  let x := s.lane l
  .next (if x.st == .up && decide (x.lastProbe + 1000000 ≤ s.ns) then
      s.setLane l { x with lastProbe := s.ns, probeDue := true }
    else s)

/-- A PROBE arrives: a request is answered; the reply to the outstanding request sets the delay.
Log entry 31 (DESIGN CHOICE). -/
def State.probeRx (s : State) (l : LaneId) (f : Flit) : State :=
  let sent := f.word 1 ++ f.word 0
  if f.h2 = 0 then
    let r := s.residence
    r.2.linkSend l ⟨0, tPROBE, 0, 0, 0, s.node, 1, 0, body12 (pairWords sent ++ pairWords r.1)⟩
  else if (s.lane l).probeAt = some sent then
    let trip : Rat := ((s.tb0 - sent - (f.word 3 ++ f.word 2)).toNat : Nat)
    let d := s.showRat (trip / 2 / 65536) 16
    (d.2.setFld F.chnLdly_DELAY d.1.toNat l.toNat).setLane l { s.lane l with probeAt := none }
  else s

/-! ## Time messages (R422) -/

/-- The TIME flit for a lane's peer; its value is filled in as it departs. -/
def State.timeFlit (s : State) (peer : Node) (v : BitVec 64) (step : Bool) (gen : Byte) : Flit :=
  ⟨2, tTIME, 0, peer, 0, s.node, v.extractLsb' 0 32, v.extractLsb' 32 32,
   body12 [BitVec.ofNat 32 (2 ^ 31 * step.toNat + gen.toNat)]⟩

/-- TIME_FLIT_TIMER (R422). -/
def execTimeFlitTimer (s : State) : Out :=
  let n := BitVec.ofNat 4 (s.fld F.chnTcfg_TB)
  let b := s.base n
  .next (if s.bit F.chnTcfg_EN && s.isNet n && (b.st == .locked || b.st == .holdover) &&
      decide (s.chain.lastTime + 1000 * (s.fld F.chnTcfg_PERIOD) ≤ s.ns) then
      let s1 := if (s.upLanes 15).isEmpty then s else s.setBase n { b with stepDue := false }
      let s2 := (s1.upLanes 15).foldl (fun s l => s.laneSend l (s.timeFlit (s.lane l).peer 0 b.stepDue b.gen)) s1
      { s2 with chain := { s2.chain with lastTime := s2.ns } }
    else s)

/-- A TIME flit arrives on a lane of delay d: an observation for every CHAIN reference to its node. -/
def State.timeRx (s : State) (f : Flit) (d : Nat) : State :=
  let s1 := { s with chain := { s.chain with timeSeen := smSet 0 s.chain.timeSeen f.src.toNat (s.ns + 1) } }
  let v : Int := ((f.h3 ++ f.h2).toNat : Int) + d
  s1.eachRef fun s n j =>
    if s.baseOn n && s.refBit F.tbRefcfg_V n j && s.refFld F.tbRefcfg_SRC n j == 1 &&
        s.refFld F.tbRefarg_ARG n j == f.src.toNat then
      s.observe n j s.tbRat (v + s.refOffset n j) ((f.word 0).getLsbD 31)
    else s

/-! ## The tunnel (R423 to R426, R445) -/

def State.txBase (s : State) : Nat := 2 ^ 32 * (s.fld F.chnTxbh_ADDR) + 64 * (s.fld F.chnTxbl_ADDR)
def State.rxBase (s : State) : Nat := 2 ^ 32 * (s.fld F.chnRxbh_ADDR) + 64 * (s.fld F.chnRxbl_ADDR)
def State.txSize (s : State) : Nat := 2 ^ s.fld F.chnTuncfg_TXLOG
def State.rxSize (s : State) : Nat := 2 ^ s.fld F.chnTuncfg_RXLOG

def SmReq.isTunnel : SmReq → Bool
  | .tunnel _ _ => true
  | .tunnelIndex _ _ => true
  | _ => false

def SmReq.isTunnelEntry : SmReq → Bool
  | .tunnel _ _ => true
  | _ => false

/-- Tunnel entries handed to the master port and not answered. -/
def State.tunnelOut (s : State) : Nat := ((s.soc.reqs ++ s.soc.held).filter SmReq.isTunnelEntry).length

/-- Entries of the TX ring in use, those not answered included. -/
def State.txUsed (s : State) : Nat := (s.chain.txPidx - s.chain.txCidx).toNat + s.tunnelOut

/-- The tunnel is in use; the chain unit takes and sends no flit before its node ID is loaded (R20). -/
def State.tunnelRuns (s : State) : Bool := s.bit F.chnTuncfg_EN && s.bit F.blkNodeid_LOADED && !s.chain.tunStopped

/-- TUNNEL_POLL (R423): the host-written indices, read every 1 us. Log entry 43 (DEDUCED). -/
def execTunnelPoll (txCidx rxPidx : BitVec 16) (s : State) : Out :=
  .next (if s.tunnelRuns && decide (s.chain.lastPoll + 1000 ≤ s.ns) then
      { s with chain := { s.chain with lastPoll := s.ns, txCidx := txCidx, rxPidx := rxPidx } }
    else s)

/-- The tunnel header of n flits for a destination with a sequence number. -/
def State.tunnelHeader (s : State) (d : Node) (n : Nat) (seq : BitVec 14) : BitVec 64 :=
  (d ++ seq) ++ ((1 : BitVec 4) ++ BitVec.ofNat 5 n ++ (0 : BitVec 5) ++ s.node)

/-- The words of a tunnel entry: its header, then the flits (R411, R424). -/
def tunnelWords (header : BitVec 64) (fs : List Flit) : List Word :=
  pairWords header ++ (fs.map Flit.words).flatten

/-- TUNNEL_ENTRY_CLOSE (R424): the first entry that closes is written to the ring, when the ring has room. -/
def State.closeEntry (s : State) : State :=
  match s.chain.tun.find? (fun e => e.closes s.ns) with
  | none => s
  | some e =>
    if !s.tunnelRuns || decide (s.txSize ≤ s.txUsed) then s
    else
      let s1 := { s with chain := { s.chain with tun := s.chain.tun.erase e } }
      let aged := e.flits.map fun m => m.flit.aged (s.ns - m.since)
      let s2 := (aged.filter Flit.expired).foldl (fun s f => s.stopAge f) (e.flits.foldl (fun s m => s.freePlace m.place) s1)
      let fs := aged.filter fun f => !f.expired
      if fs.isEmpty then s2
      else
        let seq := smGet 0 s2.chain.tunSeq e.dest.toNat
        let at_ := s2.txBase + 1536 * ((s2.chain.txPidx.toNat + s2.tunnelOut) % s2.txSize)
        let s3 := { s2 with chain := { s2.chain with tunSeq := smSet 0 s2.chain.tunSeq e.dest.toNat (seq + 1) } }
        s3.smRequest (.tunnel at_ (tunnelWords (s3.tunnelHeader e.dest fs.length seq) fs))

def execTunnelEntryClose (s : State) : Out := .next s.closeEntry

/-- TUNNEL_RING_WRITE_RESPONSE (R423, R445). -/
def State.tunnelResponse (s : State) (ok : Bool) : State :=
  match s.soc.reqs.find? SmReq.isTunnel with
  | none => s
  | some r =>
    let s0 := { s with soc := { s.soc with reqs := s.soc.reqs.erase r } }
    if !ok then { s0.raise F.chnTunstat_WERR with chain := { s0.chain with tunStopped := true } }
    else if r.isTunnelEntry then
      let p := s0.chain.txPidx + 1
      let s1 := ({ s0 with chain := { s0.chain with txPidx := p } }).satAdd F.chnTunstat_ENTRIES 1
      (s1.smRequest (.tunnelIndex (s1.txBase + 1536 * s1.txSize) p)).vector (s1.fld F.chnTuncfg_VEC)
    else s0

def execTunnelRingWriteResponse (ok : Bool) (s : State) : Out := .next (s.tunnelResponse ok)

/-- An RX entry is acceptable (R426). -/
def tunnelEntryOk (header : BitVec 64) (flits : List Flit) : Bool :=
  let n := bitsOf (header.extractLsb' 0 32) 23 5
  header.extractLsb' 28 4 == 1 && decide (1 ≤ n) && decide (n ≤ 23) && decide (flits.length = n) &&
    flits.all fun f => f.vc == 1

/-- TUNNEL_RX_ENTRY (R423, R426): the next RX entry is read, and its place returned. -/
def State.tunnelRx (s : State) (header : BitVec 64) (flits : List Flit) : State :=
  if !s.tunnelRuns || s.chain.rxCidx == s.chain.rxPidx then s
  else
    let c := s.chain.rxCidx + 1
    let s1 := ({ s with chain := { s.chain with rxCidx := c } }).smRequest (.tunnelIndex (s.rxBase + 1536 * s.rxSize) c)
    if tunnelEntryOk header flits then
      let enter := fun (s : State) (f : Flit) =>
        if f.type = tITEMS || f.type = tRWRITE then s.forward { f with vc := 3 } 0 none else s
      flits.foldl enter s1
    else s1.satAdd F.chnTunstat_BAD 1

def execTunnelRxEntry (header : BitVec 64) (flits : List Flit) (s : State) : Out := .next (s.tunnelRx header flits)

/-! ## Registers (R443 to R445) -/

def LaneState.code : LaneState → Nat
  | .down => 0
  | .init => 1
  | .up => 2

/-- CHN.LSTAT as it reads. -/
def State.lstatView (s : State) (l : LaneId) : Word := F.chnLstat_STATE.put (s.reg .chnLstat l.toNat) (s.lane l).st.code

/-- CHN.EGR as it reads. -/
def State.egrView (s : State) : Word :=
  F.chnEgr_HIGH.put (F.chnEgr_USE.put (s.reg .chnEgr) s.chain.egress.length)
    (max (s.fld F.chnEgr_HIGH) s.chain.egress.length)

/-- CHN.TUNSTAT as it reads. -/
def State.tunstatView (s : State) : Word := F.chnTunstat_TXFULL.put (s.reg .chnTunstat) (decide (s.txSize ≤ s.txUsed)).toNat

/-- LCNT_READ (R443). -/
def execLcntRead (l : LaneId) (s : State) : Out := .next (s.readStored .chnLcnt l.toNat 0)

/-- EGR_READ (R444). -/
def execEgrRead (s : State) : Out :=
  .next { s.setFld F.chnEgr_HIGH s.chain.egress.length with answer := s.egrView.setWidth 64 }

/-- CHN_CNT_READ (R444). -/
def execChnCntRead (s : State) : Out := .next (s.readStored .chnCnt 0 0)

/-- TUNSTAT_READ (R445). -/
def execTunstatRead (s : State) : Out := .next (s.readOut .chnTunstat 0 0 s.tunstatView)

/-- A write of a tunnel base or of TUNCFG (R445): bases and LOG fields stand while EN = 1. -/
def State.wrTunnel (s : State) (w : Writer) (k : RegKind) (v : Word) : State :=
  let on := s.bit F.chnTuncfg_EN
  if !isBlock w then s.authorityFault w
  else if k == .chnTuncfg then
    let lg := fun (n : Nat) => decide (4 ≤ n) && decide (n ≤ 12)
    if !lg (F.chnTuncfg_TXLOG.get v) || !lg (F.chnTuncfg_RXLOG.get v) then s
    else
      let v1 := if on then
          F.chnTuncfg_TXLOG.put (F.chnTuncfg_RXLOG.put v (s.fld F.chnTuncfg_RXLOG)) (s.fld F.chnTuncfg_TXLOG)
        else v
      let s1 := s.store w k v1
      { s1 with chain := { s1.chain with tunStopped := s1.chain.tunStopped && F.chnTuncfg_EN.get v == 0 } }
  else if on then s
  else s.store w k v

/-- A write of CHN.RT or CHN.TCFG (R444). -/
def State.wrRoute (s : State) (w : Writer) (k : RegKind) (i : Nat) (v : Word) : State :=
  if !isBlock w then s.authorityFault w
  else if k == .chnRt && (decide (18 < F.chnRt_LEN.get v) || (F.chnRt_TUN.get v == 1 && F.chnRt_LANES.get v != 0)) then s
  else if k == .chnTcfg && F.chnTcfg_PERIOD.get v == 0 then s
  else s.store w k v i

end Sys2Proof.Machine
end

