-- ==== Sys2Proof/Machine/MirrorControl.lean ====
section
/-!
DEFINITION. The mirror pair (R427 to R442, R446): roles and standby holding, heartbeats, the copy, mirror flits at the
standby, silence and takeover; and the flits and codewords a lane receives (R409 to R412).
-/

namespace Sys2Proof.Machine

/-! ## Standby holding and roles (R428, R436, R438) -/

/-- Codes of the roles. -/
def Role.code : Role → Nat
  | .off => 0
  | .joining => 1
  | .primary => 2
  | .syncing => 3
  | .standby => 4
  | .alone => 5
  | .held => 6

/-- PRIMARY and ALONE drive the shared ports and run the shadow threads. -/
def Role.drives (r : Role) : Bool := r == .primary || r == .alone

/-- Port p is shared (MIR.SHP) and held: by the role, or by the tripped guard. -/
def State.portHeld (s : State) (p : Port) : Bool :=
  s.bit F.mirCfg_EN && (s.fld F.mirShp_PORTS (p.toNat / 32)).testBit (p.toNat % 32) &&
    (s.mirror.guard || !s.mirror.role.drives)

/-- Put port p under rank 1 of R256 or release it, as the pair's state asks; a write of a lower rank for the cycle in which
the hold begins is counted in COLL. -/
def State.holdPort (s : State) (p : Port) : State :=
  let x := s.port p
  if x.guard == s.portHeld p then s
  else
    let s1 := match s.binder p with
      | some ch => if s.portHeld p && x.oe && x.lastAt == s.cycle + 2 then s.chSatAdd F.peCerr_COLL 1 ch else s
      | none => s
    (s1.setPort p { s1.port p with guard := s.portHeld p }).drivePort p x.out x.oe (s.cycle + 1)

/-- Every port follows standby holding and the pad guard. -/
def State.refreshHold (s : State) : State :=
  let shared := (List.range 512).filter fun p =>
    (s.port (BitVec.ofNat 9 p)).guard || (s.fld F.mirShp_PORTS (p / 32)).testBit (p % 32)
  shared.foldl (fun s p => s.holdPort (BitVec.ofNat 9 p)) s

/-- Shadow threads whose release is pending become RUNNING (R429, R440). -/
def State.releaseShadows (s : State) : State :=
  s.threads.foldl (fun s kv => if kv.2.relPend && !s.runBarred then s.startThread (BitVec.ofNat 9 kv.1) else s) s

/-- Mirrored queues serve their readers again: threads asleep on one that holds items issue again (R440). -/
def State.serveMirrored (s : State) : State :=
  s.threads.foldl (fun s kv => match kv.2.sleep with
    | .read q => if s.bit F.qeQcfg_MIRRORED q.toNat && decide (0 < (s.queue q).depth) then s.wakeThread (BitVec.ofNat 9 kv.1) else s
    | _ => s) s

/-- The role changes. -/
def State.setRole (s : State) (r : Role) : State :=
  if s.mirror.role = r then s
  else
    let s1 := ({ s with mirror := { s.mirror with role := r } }).refreshHold
    let s2 := if r.drives then s1.releaseShadows.serveMirrored else s1
    if r = .primary ∨ r = .standby then s2.pulse 0xA4C else s2

/-- The pairing ends: what the egress and a copy still held has no receiver. -/
def State.endPairing (s : State) : State :=
  { s with mirror := { s.mirror with egress := [], copying := false, copyBanks := [], copyRun := 0, copyQueues := [],
                                     copyRecs := [], copyTail := [], copyEnd := false } }

/-- The block becomes ALONE, without partner. -/
def State.becomeAlone (s : State) : State := s.endPairing.setRole .alone

/-- The block becomes HELD; a takeover that was on its way ends. -/
def State.becomeHeld (s : State) : State :=
  let s1 := s.endPairing.setRole .held
  { s1 with mirror := { s1.mirror with guardAt := none, testAt := none } }

/-- Every shadow thread is stopped (R126, R439). -/
def State.stopShadows (s : State) : State :=
  s.threads.foldl (fun s kv =>
    let t := BitVec.ofNat 9 kv.1
    if (s.fld F.mirShd_THREADS (coreOf t).toNat).testBit (t.toNat % 16) then s.stopThread t else s) s

/-- Divergence: the flag and its notice. -/
def State.diverge (s : State) : State := s.setDiverged.pairNotice 4

/-! ## Heartbeats (R430, R431, R433, R437) -/

/-- The HEARTBEAT flit (R412). -/
def State.heartbeatFlit (s : State) : Flit :=
  ⟨2, tHEARTBEAT, 0, BitVec.ofNat 18 (s.fld F.mirCfg_PARTNER), 0, s.node, BitVec.ofNat 32 s.mirror.hbgen,
   BitVec.ofNat 32 (2 ^ 29 * s.mirror.role.code + 2 ^ 28 * (s.fld F.mirCfg_RANK)), body12 (pairWords s.tb0)⟩

/-- HEARTBEAT_TIMER (R437, R485): HBGEN increments every 8 us and arms the guard. -/
def State.heartbeat (s : State) : State :=
  let m := s.mirror
  if !m.begun || m.stopped || decide (s.ns < m.lastHbSent + 8000) then s
  else
    let s1 := { s with mirror := { m with hbgen := (m.hbgen + 1) % 2 ^ 32, lastHbSent := m.lastHbSent + 8000, hbAt := s.ns, armed := true } }
    if s1.bit F.mirCfg_EN then s1.mirrorLanes.foldl (fun s l => s.laneSend l s.heartbeatFlit) s1 else s1

def execHeartbeatTimer (s : State) : Out := .next s.heartbeat

/-- A copy to the partner begins (R430). -/
def State.startCopy (s : State) : State :=
  let banks := (List.range 16).filter fun b => s.bit F.memBcfg_MIRRORED b && !s.secure (BitVec.ofNat 4 b)
  let queues := (smKeepRange s.regs 0x80000 0xC0000).filterMap fun kv =>
    if kv.1 % 16 = 0 && F.qeQcfg_MIRRORED.get kv.2 == 1 then some (BitVec.ofNat 14 ((kv.1 - 0x80000) / 16)) else none
  ({ s with mirror := { s.mirror with copying := true, copyBanks := banks.map fun b => BitVec.ofNat 4 b, copyRun := 0
                                      copyQueues := queues, copyRecs := [], copyTail := [], copyEnd := false } }).feedCopy

/-- The block begins to take the partner's stream. -/
def State.startSync (s : State) : State :=
  ({ s with mirror := { s.mirror with early := [], based := false, snaps := [], tasks := [] } }).setRole .syncing

/-- Heartbeats missed between two that arrived, by their HBGEN; none when the partner's count has started again. -/
def missedBeats (last : Option Nat) (g : Nat) : Nat :=
  match last with
  | none => 0
  | some p =>
    let d := (g + 2 ^ 32 - p) % 2 ^ 32
    if d < 2 ^ 31 then d - 1 else 0

/-- HBGEN advances: the generator runs, and has incremented it within the time the pad guard allows (R437, R438). -/
def State.hbAdvances (s : State) : Bool := s.mirror.begun && !s.mirror.stopped && decide (s.ns < s.mirror.hbAt + 10000)

/-- Heartbeat periods that pass without a heartbeat count as missed while the partner's silence lasts (R446). Log entry 41
(DEDUCED). -/
def State.countMissed (s : State) : State :=
  let m := s.mirror
  let n := (s.ns - m.lastHbRx) / 8000 - 1
  if m.role == .off || m.lastGen.isNone || n ≤ m.missed then s
  else ({ s with mirror := { m with missed := n } }).satAdd F.mirCnt_HBMISS (n - m.missed)

/-- A rank conflict (R431). -/
def State.rankConflict (s : State) : State :=
  let s1 := s.setDiverged.pairNotice 7
  match s1.mirror.role with
  | .joining => s1.becomeHeld
  | .syncing => s1.becomeHeld
  | .standby => s1.becomeHeld
  | .primary => { s1.becomeAlone with mirror := { s1.becomeAlone.mirror with ignoreHb := true } }
  | .alone => { s1.becomeAlone with mirror := { s1.becomeAlone.mirror with ignoreHb := true } }
  | _ => s1

/-- The transition that a heartbeat with the partner's role code drives (R430). -/
def State.joinBy (s : State) (role : Nat) : State :=
  match s.mirror.role with
  | .joining =>
    if role = 2 ∨ role = 5 then s.startSync
    else if role = 1 then (if s.fld F.mirCfg_RANK = 0 then s.setRole .primary else s.startSync)
    else s
  | .primary => if role = 3 && !s.mirror.copying then s.startCopy else s
  | .alone => if role = 3 && !s.mirror.copying then s.startCopy else s
  | _ => s

/-- A TB0 time of the partner in this block's time, near now (R302, R433). -/
def State.fromPartner (s : State) (t : Rat) : Rat := s.tbRat + ratSigned (t + s.mirror.delta - s.tbRat) (2 ^ 48)

/-- The anchors of the slaved bases follow a new offset between the two TB0 (R433). -/
def State.shiftSlaves (s : State) (d : Rat) : State :=
  s.mirror.snaps.foldl (fun s kv =>
    let n := BitVec.ofNat 4 kv.1
    s.setBase n { s.base n with ta := (s.base n).ta + ratSigned d (2 ^ 48) }) s

/-- A HEARTBEAT arrives on lane l. Log entry 41 (DEDUCED). -/
def State.heartbeatRx (s : State) (l : LaneId) (f : Flit) : State :=
  let m := s.mirror
  let role := bitsOf f.h3 29 3
  if !s.bit F.mirCfg_EN || f.src.toNat != s.fld F.mirCfg_PARTNER || !s.mirrorLanes.contains l || m.role == .off || m.ignoreHb ||
      (s.bit F.mirStat_DIVERGED && role != 1) then s
  else
    let g := f.h2.toNat
    let s1 := s.satAdd F.mirCnt_HBMISS (missedBeats m.lastGen g - m.missed)
    let sent : Rat := ((f.word 1 ++ f.word 0).toNat : Nat) / 65536
    let delta := s.tbRat - (s.fld F.chnLdly_DELAY l.toNat : Nat) - sent
    let s2 := { s1 with mirror := { s1.mirror with lastHbRx := s1.ns, silent := false, heard := true, lastGen := some g, missed := 0
                                                   testAt := none, guardAt := if m.role == Role.held then m.guardAt else none
                                                   delta := if s1.applying then delta else s1.mirror.delta } }
    let s3 := (if s1.applying then s2.shiftSlaves (delta - m.delta) else s2).pulse 0xA48
    if bitsOf f.h3 28 1 = s3.fld F.mirCfg_RANK then s3.rankConflict else s3.joinBy role

/-- JOIN_TIMEOUT (R430): no heartbeat within JOINTO ms; the PARTNER_OK test runs. -/
def execJoinTimeout (s : State) : Out :=
  let m := s.mirror
  .next (if m.role == .joining && !m.heard && m.testAt.isNone && m.guardAt.isNone &&
      decide (m.joinAt + 1000000 * (s.fld F.mirTim_JOINTO) ≤ s.ns) then
      { s with mirror := { m with testAt := some s.ns, testJoin := true } }
    else s)

/-- MIRROR_COPY_COMPLETE (R430, R441): the sender becomes PRIMARY, the receiver, which has a stream without a gap, STANDBY.
Log entry 40 (DEDUCED). -/
def State.copyComplete (s : State) : State :=
  let m := s.mirror
  if m.role == .syncing then (if m.based && m.early.isEmpty then (s.setRole .standby).pairNotice 1 else s)
  else if m.copying && m.copied && m.egress.isEmpty && m.acked == m.sent then
    ((s.endPairing).setRole .primary).pairNotice 1
  else s

def execMirrorCopyComplete (s : State) : Out := .next s.copyComplete

/-! ## Mirror flits at the standby (R432 to R434) -/

/-- A mirrored push that cannot be accepted (R432). -/
def State.mirrorReject (s : State) (q : Qid) (item : BitVec 64) : State :=
  let s1 := s.slagLocal slagMirrorReject q item
  if s1.bit F.mirStat_MREJ then s1.raise F.mirStat_MREJ else (s1.raise F.mirStat_MREJ).pairNotice 6

/-- A mirrored push under its owner index, decided in the order of R559 without the role check of its sender, whose word no
record carries. Log entry 43 (DEDUCED). -/
def State.mirrorPush (s : State) (q : Qid) (o : BitVec 12) (item : BitVec 64) : State :=
  if !s.queueUp q then s.mirrorReject q item
  else if s.overLimit q item then s.slagLocal slagPoweredDown q item
  else if s.fld F.qeQcfg_DEPTH q.toNat < (s.queue q).depth + 1 then s.mirrorReject q item
  else match s.pool o (quadrantOf q) with
    | .over => s.mirrorReject q item
    | .poolFull => s.mirrorReject q item
    | a => s.acceptPush q item o a

/-- The reader that a mirrored read stands for. -/
def State.configuredReader (s : State) (q : Qid) : Reader :=
  let r := s.fld F.qeQcfg_READER q.toNat
  match s.fld F.qeQcfg_RKIND q.toNat with
  | 0 => .thread (BitVec.ofNat 9 r)
  | 1 => .thread (masterOf (BitVec.ofNat 5 r))
  | 2 => .channel (BitVec.ofNat 9 r)
  | 3 => .signalEngine
  | 4 => .hostMover
  | _ => .chainUnit

/-- A queue record of MQUEUE. Log entry 43 (DEDUCED). -/
def State.applyQueueRecord (s : State) (r : List Word) : State :=
  let w := r.getD 0 0
  let q : Qid := w.extractLsb' 0 14
  if !w.getLsbD 31 then s
  else match bitsOf w 29 2 with
    | 0 => s.mirrorPush q ((r.getD 1 0).extractLsb' 0 12) (r.getD 3 0 ++ r.getD 2 0)
    | 1 => (s.popUpTo s.seq q (s.configuredReader q)).2
    | 2 => s.emptyQueue q
    | _ => s

/-- Groups of n words of a body. -/
def bodyGroups (f : Flit) (n k : Nat) : List (List Word) := (List.range k).map fun i => (f.body.drop (n * i)).take n

/-- A write record of MREC, or a word of MRUN, reaches its bank whatever the owner. -/
def State.mirrorStore (s : State) (i : Nat) (mask : BitVec 4) (v : Word) : State :=
  s.writeWordAs masterChain (0x02000000 + i * 4) mask v

def State.applyWriteRecord (s : State) (r : List Word) : State :=
  let w := r.getD 0 0
  if w.getLsbD 31 then s.mirrorStore (bitsOf w 0 21) (w.extractLsb' 27 4) (r.getD 1 0) else s

/-- State of a base by its code. -/
def tbStateOf (c : Nat) : TbState :=
  match c with
  | 1 => .acquire
  | 2 => .locked
  | 3 => .holdover
  | 4 => .still
  | _ => .off

/-- A signed 64-bit quantity in two words, low word first. -/
def pairInt (lo hi : Word) : Rat := ((hi ++ lo).toInt : Int)

/-- Base n follows its last snapshot (R433). Log entry 40 (DEDUCED). -/
def State.applySnapshot (s : State) (n : BaseId) (ws : List Word) : State :=
  let w := fun (i : Nat) => ws.getD i 0
  let gen := (w 0).extractLsb' 0 8
  let s1 := { s with mirror := { s.mirror with snaps := smSet [] s.mirror.snaps n.toNat ws } }
  if n = 0 || !s1.bit F.tbCfg_EN n.toNat then s1
  else
    let s2 := if (s1.base n).gen = gen then s1
      else
        let s' := s1.newGeneration n
        s'.setBase n { s'.base n with gen := gen }
    let r := pairInt (w 5) (w 6)
    let rate := if s2.isNet n then 1 + r / 2 ^ 40 else r / 2 ^ 32
    s2.setBase n { s2.base n with st := tbStateOf (bitsOf (w 0) 8 3), ta := s2.fromPartner (((w 2 ++ w 1).toNat : Nat) / 65536)
                                  va := ((w 4 ++ w 3).toNat : Nat), rate := rate, phi := pairInt (w 7) (w 8)
                                  corr := ((w 9).toInt : Int) / 2 ^ 32, back := decide (rate < 0) }

/-- The action of words P0 to P4, posted by no thread of this block. -/
def actionOfWords (ws : List Word) : Action :=
  let p0 := ws.getD 0 0
  let p4 := ws.getD 4 0
  { base := p0.extractLsb' 28 4, kind := p0.extractLsb' 25 3, late := p0.extractLsb' 23 2, keepPos := p0.getLsbD 22
    trig := p0.getLsbD 21, ch := p0.extractLsb' 12 9, lane := p0.extractLsb' 10 2, out := p0.getLsbD 9
    oe := p0.getLsbD 8, prio := p0.extractLsb' 4 4, ikind := p0.extractLsb' 0 4
    target := ws.getD 2 0 ++ ws.getD 1 0, param := ws.getD 3 0, qn := p4.getLsbD 31, ln := p4.getLsbD 30
    tag := p4.extractLsb' 0 16, poster := 0, ahead := false }

/-- An MSTATE record (R432). -/
def State.applyState (s : State) (sub : Nat) (ws : List Word) : State :=
  match sub with
  | 1 => s.applySnapshot (BitVec.ofNat 4 (bitsOf (ws.getD 0 0) 28 4)) ws
  | 2 => (s.place (actionOfWords ws) 0).2
  | 3 => { s with mirror := { s.mirror with tasks := smSet [] s.mirror.tasks (bitsOf (ws.getD 0 0) 0 12) ws } }
  | _ => s

/-- One mirror flit is applied. -/
def State.applyMirror (s : State) (f : Flit) : State :=
  if f.type = tMRUN then f.runWords.foldl (fun s w => s.mirrorStore w.1 0xF w.2) s
  else if f.type = tMREC then (bodyGroups f 2 6).foldl (fun s r => s.applyWriteRecord r) s
  else if f.type = tMQUEUE then (bodyGroups f 4 3).foldl (fun s r => s.applyQueueRecord r) s
  else s.applyState (bitsOf f.h2 0 4) f.body

def mseqOf (f : Flit) : BitVec 20 := f.h3.extractLsb' 0 20

/-- Apply the flits at hand in MSEQ order. Log entry 40 (DEDUCED). -/
def applyEarlyN : Nat → State → State
  | 0, s => s
  | n + 1, s =>
    match s.mirror.early.find? (fun f => mseqOf f.1 == s.mirror.applied + 1) with
    | none => s
    | some f =>
      let s1 := { s with mirror := { s.mirror with early := s.mirror.early.erase f, applied := mseqOf f.1 } }
      applyEarlyN n ((s1.applyMirror f.1).freePlace (some (f.2, 0)))

/-- The MACK flit (R412, R434). -/
def State.mackFlit (s : State) : Flit :=
  ⟨2, tMACK, 0, BitVec.ofNat 18 (s.fld F.mirCfg_PARTNER), 0, s.node, s.mirror.applied.setWidth 32, 0, body12 []⟩

/-- A MIRROR flit arrives on lane l (R432, R434). Log entry 40 (DEDUCED). -/
def State.mirrorRx (s : State) (l : LaneId) (f : Flit) : State :=
  if !s.applying || f.src.toNat != s.fld F.mirCfg_PARTNER || !s.mirrorLanes.contains l then
    let s1 := (s.satAdd F.mirCnt_REJ 1).freePlace (some (l, 0))
    if f.type = tMQUEUE then
      (bodyGroups f 4 3).foldl (fun s r =>
        let w := r.getD 0 0
        if w.getLsbD 31 && bitsOf w 29 2 ≠ 3 then
          s.slagLocal slagMirrorReject (w.extractLsb' 0 14) (r.getD 3 0 ++ r.getD 2 0)
        else s) s1
    else s1
  else
    let m := s.mirror
    let m1 := if m.based then m else { m with based := true, applied := mseqOf f - 1 }
    let ahead := mseqOf f - m1.applied
    if ahead = 0 || decide (2 ^ 19 ≤ ahead.toNat) || m1.early.any (fun g => mseqOf g.1 == mseqOf f) then
      ({ s with mirror := m1 }).freePlace (some (l, 0))
    else
      let s1 := { s with mirror := { m1 with early := m1.early ++ [(f, l)] } }
      let s2 := applyEarlyN s1.mirror.early.length s1
      if s2.mirror.applied = m1.applied then s2 else s2.laneSend l s2.mackFlit

/-- A MACK arrives on lane l: the acknowledged MSEQ advances (R427, R434). -/
def State.mackRx (s : State) (l : LaneId) (f : Flit) : State :=
  if f.src.toNat != s.fld F.mirCfg_PARTNER || !s.mirrorLanes.contains l then s
  else
    let a : BitVec 20 := f.h2.extractLsb' 0 20
    if (a - s.mirror.acked).toNat < 2 ^ 19 then { s with mirror := { s.mirror with acked := a } } else s

/-- MIRROR_TB_SNAPSHOT (R432): every 1,024 cycles all mirrored bases, and a base whose generation changed. -/
def State.sendSnapshots (s : State) : State :=
  if !s.pairing then s
  else
    let due := decide (s.mirror.lastSnap + 1024 ≤ s.cycle)
    let send := fun (s : State) (n : BaseId) =>
      let g := (s.base n).gen.toNat + 1
      if s.mirrorsBase n && (due || smGet 0 s.mirror.gens n.toNat != g) && s.mirrorRoomState then
        let r := s.snapshot n
        let s1 := r.2.mirrorEmit tMSTATE 1 0 r.1
        { s1 with mirror := { s1.mirror with gens := smSet 0 s1.mirror.gens n.toNat g } }
      else s
    let s1 := baseIds.foldl send s
    if due then { s1 with mirror := { s1.mirror with lastSnap := s1.cycle } } else s1

def execMirrorTbSnapshot (s : State) : Out := .next s.sendSnapshots

/-! ## The pad guard, silence and takeover (R437 to R440) -/

/-- A write of MIR.CMD (R446). -/
def State.wrMirCmd (s : State) (w : Writer) (v : Word) : State :=
  if !isBlock w then s.authorityFault w
  else
    let m := s.mirror
    let m1 := if F.mirCmd_KICK.get v = 1 then { m with lastKick := s.ns } else m
    let m2 := if F.mirCmd_FORCE.get v = 1 && m.role == .held && m1.guardAt.isNone then
        { m1 with guardAt := some s.ns, guardJoin := false }
      else m1
    { s with mirror := m2 }

/-- MIR_KICK (R437). -/
def execMirKick (w : Writer) (s : State) : Out := .next (s.access w fun s => s.wrMirCmd w (F.mirCmd_KICK.put 0 1))

/-- MIR_FORCE (R439). -/
def execMirForce (w : Writer) (s : State) : Out := .next (s.access w fun s => s.wrMirCmd w (F.mirCmd_FORCE.put 0 1))

/-- KICK_TIMEOUT (R437): the generator stops for good. -/
def execKickTimeout (s : State) : Out :=
  let m := s.mirror
  .next (if s.bit F.mirCfg_KICKEN && m.begun && decide (m.lastKick + 1000 * (s.fld F.mirTim_KICKP) ≤ s.ns) then
      { s with mirror := { m with stopped := true } }
    else s)

/-- An armed guard trips and releases the shared ports, when HBGEN has not changed for 10 us or the guard's clock is lost
(R438). Log entry 30 (DESIGN CHOICE). -/
def State.guardTrips (s : State) : State :=
  if !s.mirror.armed || s.mirror.guard then s
  else
    let r := s.guardClockLost
    if r.1 || decide (s.mirror.hbAt + 10000 ≤ s.ns) then
      (({ r.2 with mirror := { r.2.mirror with guard := true } }).refreshHold).pulse 0xA4D
    else r.2

/-- PAD_GUARD_TRIP (R438). -/
def execPadGuardTrip (s : State) : Out := .next s.guardTrips

/-- PARTNER_SILENCE (R439). -/
def execPartnerSilence (s : State) : Out :=
  let m := s.mirror
  let watching := m.role == .primary || m.role == .standby || m.role == .syncing || (m.role == .alone && m.copying)
  .next (if watching && !m.silent && decide (m.lastHbRx + 32000 ≤ s.ns) then
      ((({ s with mirror := { m with silent := true, testAt := some s.ns, testJoin := false } }).pulse 0xA49).pairNotice 2)
    else s)

/-- The 10 us guard before a takeover begins. -/
def State.startGuard (s : State) (join : Bool) : State :=
  { s with mirror := { s.mirror with guardAt := some s.ns, guardJoin := join } }

/-- The action on a silent partner, alive or down (R430, R439); an ALONE block ends its copy. Log entry 30 (DESIGN CHOICE). -/
def State.testVerdict (s : State) (alive : Bool) : State :=
  let rank := s.fld F.mirCfg_RANK
  if s.mirror.testJoin then (if alive then s.becomeHeld.diverge else s.startGuard true)
  else match s.mirror.role with
    | .primary =>
      if !alive then s.becomeAlone
      else if rank = 0 then s.becomeAlone.diverge
      else s.becomeHeld.diverge.stopShadows
    | .standby =>
      if !alive then s.startGuard false
      else if rank = 0 then s.diverge.startGuard false
      else s.becomeHeld.diverge
    | .syncing =>
      if alive then s.becomeHeld.diverge else (s.becomeHeld.raise F.mirStat_INCOMPLETE).pairNotice 5
    | .alone => s.becomeAlone
    | _ => s

/-- PARTNER_OK_TEST_END (R439). -/
def execPartnerOkTestEnd (s : State) : Out :=
  match s.mirror.testAt with
  | none => .next s
  | some t =>
    if s.ns < t + 2000 then .next s
    else
      let p := s.partnerOk
      .next (({ p.2 with mirror := { p.2.mirror with testAt := none } }).testVerdict p.1)

/-- Slaved bases continue from their last snapshot in HOLDOVER (R440). Log entry 41 (DEDUCED). -/
def State.resumeBase (s : State) (n : BaseId) : State :=
  if (smGet [] s.mirror.snaps n.toNat).isEmpty then s
  else
    let s1 := s.reanchor n
    let b1 := s1.base n
    (s1.setBase n { b1 with st := .holdover, savedRate := b1.rate, corr := 0, hist := 0 }).windowSwitch n true

/-- A mirrored task resumes from its record (R440): a job recorded RUNNING is released again. -/
def State.resumeTask (s : State) (k : TaskId) (ws : List Word) : State :=
  let w := fun (i : Nat) => ws.getD i 0
  let x := s.task k
  let x1 := { x with cfg := w 5, per := w 7 ++ w 6, t0 := w 9 ++ w 8, k := (w 1).toNat, nextR := ((w 3 ++ w 2).toNat : Nat)
                     lag := (w 10).toNat, running := false }
  let x2 := { x1 with origin := s.ringMod x1.base (x1.t0.toNat : Int)
                      lastR := s.ringMod x1.base (x1.nextR - (x1.per.toNat : Int)) }
  let s1 := s.setTask k x2
  if w 4 = 1 then s1.releaseTask k else s1

/-- TAKEOVER (R440): the guard has ended. Log entry 41 (DEDUCED). -/
def State.takeOver (s : State) : State :=
  match s.mirror.guardAt with
  | none => s
  | some t =>
    if s.ns < t + 10000 then s
    else
      let join := s.mirror.guardJoin
      let s := { s with mirror := { s.mirror with guardAt := none } }
      if s.mirror.role ≠ (if join then .joining else .standby) && (join || s.mirror.role != .held) then s
      else
      let snaps := s.mirror.snaps
      let tasks := s.mirror.tasks
      let s1 := ({ s with mirror := { s.mirror with guardAt := none } }).becomeAlone
      if join then s1
      else
        let s2 := snaps.foldl (fun s kv => s.resumeBase (BitVec.ofNat 4 kv.1)) s1
        let s3 := tasks.foldl (fun s kv => s.resumeTask (BitVec.ofNat 12 kv.1) kv.2) s2
        let s4 := { s3 with mirror := { s3.mirror with snaps := [], tasks := [], early := [] } }
        ((s4.satAdd F.mirCnt_TAKE 1).pulse 0xA4A).pairNotice 3

def execTakeover (s : State) : Out := .next s.takeOver

/-- MIR_CNT_READ (R446). -/
def execMirCntRead (s : State) : Out := .next (s.readStored .mirCnt 0 0)

/-- MIR.STAT as it reads; PARTNER_OK is the pin's level. -/
def State.mirStatView (s : State) : Word × State :=
  let p := s.partnerOk
  let m := s.mirror
  let v := F.mirStat_HBGEN.put (F.mirStat_ROLE.put (s.reg .mirStat) m.role.code) (m.hbgen % 65536)
  (F.mirStat_PARTNER_OK.put (F.mirStat_SILENT.put (F.mirStat_GUARD.put v m.guard.toNat) m.silent.toNat) p.1.toNat, p.2)

/-- A write of a sealed or configuration register of the pair (R446). -/
def State.wrMirror (s : State) (w : Writer) (k : RegKind) (i : Nat) (v : Word) : State :=
  if !isBlock w then s.authorityFault w
  else if k == .mirTim && (F.mirTim_JOINTO.get v == 0 || decide (F.mirTim_KICKP.get v < 16)) then s
  else (s.store w k v i).refreshHold

/-! ## Flits and codewords a lane receives (R409 to R412) -/

/-- The flit's TYPE travels on its virtual channel (R412). -/
def typeOk (f : Flit) : Bool :=
  let t := f.type.toNat
  if t = 0 ∨ 13 ≤ t then f.vc == 0
  else if t < 5 then f.vc == 0
  else if t = 8 ∨ t = 9 then f.vc == 1 || f.vc == 3
  else if 10 ≤ t then f.vc == 2
  else false

/-- NULL, INIT, PROBE and CREDIT take no buffer place (R410). -/
def isLinkFlit (f : Flit) : Bool := f.type == 0 || f.type == tPROBE || f.type == tINIT || f.type == tCREDIT

/-- What an acceptable flit does at its receiver. -/
def State.takeFlit (s : State) (l : LaneId) (f : Flit) : State :=
  let d := s.fld F.chnLdly_DELAY l.toNat
  match f.type.toNat with
  | 0 => s
  | 8 => s.forward f d (some (l, f.vc))
  | 9 => s.forward f d (some (l, f.vc))
  | 10 => s.heartbeatRx l f
  | 11 => s.timeRx f d
  | 12 => s.mackRx l f
  | 13 => s.probeRx l f
  | 14 => s.initRx l f
  | 15 => s.creditRx l f
  | _ => s.mirrorRx l f

/-- A flit reaches its receiver: a TYPE unlisted or on the wrong channel is discarded and counted. -/
def State.rxFlit (s : State) (l : LaneId) (f : Flit) : State :=
  if !typeOk f then s.satAdd F.chnLcnt_UNCORR 1 l.toNat
  else if isLinkFlit f then s.takeFlit l f
  else if f.vc = 2 then (s.takeFlit l f).freePlace (some (l, 2)) else s.takeFlit l f

/-- A flit of one of the given TYPEs arrives on lane l: INIT flits in INIT, every other one in UP. -/
def State.flitRx (s : State) (l : LaneId) (types : List (BitVec 4)) (f : Flit) : State :=
  let ready := if f.type = tINIT then (s.lane l).st == .init else (s.lane l).st == .up
  if ready && types.contains f.type then
    (s.setLane l { s.lane l with lastCw := s.ns }).rxFlit l f
  else s

/-- INIT_FLIT_RX (R408). -/
def execInitFlitRx (l : LaneId) (f : Flit) (s : State) : Out := .next (s.flitRx l [tINIT] f)
/-- CREDIT_RX (R409). -/
def execCreditRx (l : LaneId) (f : Flit) (s : State) : Out := .next (s.flitRx l [tCREDIT] f)
/-- ITEMS_FLIT_RX (R419). -/
def execItemsFlitRx (l : LaneId) (f : Flit) (s : State) : Out := .next (s.flitRx l [tITEMS] f)
/-- RWRITE_RX (R420). -/
def execRwriteRx (l : LaneId) (f : Flit) (s : State) : Out := .next (s.flitRx l [tRWRITE] f)
/-- PROBE_RX (R421). -/
def execProbeRx (l : LaneId) (f : Flit) (s : State) : Out := .next (s.flitRx l [tPROBE] f)
/-- TIME_FLIT_RX (R422). -/
def execTimeFlitRx (l : LaneId) (f : Flit) (s : State) : Out := .next (s.flitRx l [tTIME] f)
/-- HEARTBEAT_RX (R430). -/
def execHeartbeatRx (l : LaneId) (f : Flit) (s : State) : Out := .next (s.flitRx l [tHEARTBEAT] f)
/-- MIRROR_FLIT_RX (R432). -/
def execMirrorFlitRx (l : LaneId) (f : Flit) (s : State) : Out := .next (s.flitRx l [tMRUN, tMREC, tMQUEUE, tMSTATE] f)
/-- MACK_RX (R434). -/
def execMackRx (l : LaneId) (f : Flit) (s : State) : Out := .next (s.flitRx l [tMACK] f)

/-- A codeword on a locked lane (R409). Log entry 38 (DEDUCED). -/
def State.codewordRx (s : State) (l : LaneId) (cw : Codeword) : State :=
  let x := s.lane l
  if !x.lock then s
  else match cw with
    | .uncorrectable =>
      let s1 := (s.satAdd F.chnLcnt_UNCORR 1 l.toNat).detect 2 l.toNat
      if x.st = .up then s1.setLane l { s1.lane l with nak := true, nakDue := true } else s1
    | .decoded corrected seq ack flits =>
      let s1 := if corrected then s.satAdd F.chnLcnt_CORR 1 l.toNat else s
      let kept := ackReplay x.replay ack.toNat
      let s2 := s1.setLane l { s1.lane l with lastCw := s1.ns, replay := kept, again := x.again.filter fun c => kept.contains c }
      let rx := fun (s : State) (f : Flit) =>
        if !typeOk f then s.satAdd F.chnLcnt_UNCORR 1 l.toNat
        else if (f.type = tINIT) = ((s.lane l).st = .init) ∧ (s.lane l).st ≠ .down then s.rxFlit l f
        else s
      if seq = 0x3FF then flits.foldl (fun s f => if isLinkFlit f || !typeOk f then rx s f else s) s2
      else if x.st = .up && seq.toNat == x.rxNext then
        let s3 := s2.setLane l { s2.lane l with rxNext := (x.rxNext + 1) % 1023, ack := seq, nak := false }
        flits.foldl rx s3
      else s2

/-- CODEWORD_RX (R409). -/
def execCodewordRx (l : LaneId) (cw : Codeword) (s : State) : Out := .next (s.codewordRx l cw)

end Sys2Proof.Machine
end

