-- ==== Sys2Proof/Machine/SignalEngine.lean ====
section
/-!
DEFINITION. The signal engine (chapter 12): reading packets, the directory and its cache, lookups, extraction and packing,
fills and write-backs, and its registers.
-/

namespace Sys2Proof.Machine

/-! ## The directory cache (R360, R371 to R374) -/

/-- SoC address of a directory line. -/
def State.lineAddr (s : State) (l : Nat) : Nat := 2 ^ 32 * (s.fld F.sigBaseh_ADDR) + 64 * (s.fld F.sigBasel_ADDR) + 64 * l

def State.cached (s : State) (l : Nat) : Option CacheLine := smGet none s.cache l
def State.setCached (s : State) (l : Nat) (x : Option CacheLine) : State := { s with cache := smSet none s.cache l x }

/-- A count of SIG.CNT. -/
def State.sigCount (s : State) (k : Nat) : State := s.satAdd F.sigCnt_COUNT 1 k

/-- Word w of entry e (0 to 3) of a line. -/
def lineWord (ws : List Word) (e w : Nat) : Word := ws.getD (4 * e + w) 0

/-- Word 3 of a directory entry (HITS or LAST) changes in the cached copy of its line, if there is one. -/
def State.setWord3 (s : State) (i : Nat) (v : Word) : State :=
  let l := i / 4
  match s.cached l with
  | none => s
  | some x => s.setCached l (some { x with words := x.words.set (4 * (i % 4) + 3) v
                                           dirty := x.dirty || lineWord x.words (i % 4) 3 != v })

/-- Word 3 as the engine finds it: in the cached copy, or in the copy read for the packet. -/
def State.word3 (s : State) (copy : List Word) (i : Nat) : Word :=
  match s.cached (i / 4) with
  | some x => lineWord x.words (i % 4) 3
  | none => lineWord copy (i % 4) 3

/-- Lines of a set in the cache. -/
def State.setLines (s : State) (l : Nat) : List (Nat × CacheLine) :=
  s.cache.filterMap fun kv => if kv.1 % 2048 = l % 2048 then kv.2.map fun x => (kv.1, x) else none

/-- The least recently used non-pinned line of a set. -/
def oldestLine (ls : List (Nat × CacheLine)) : Option (Nat × CacheLine) :=
  ls.foldl (fun b x =>
    if x.2.pinned then b
    else match b with
      | none => some x
      | some y => if x.2.used < y.2.used then some x else some y) none

/-- The four words that a write-back writes: word 3 of each entry. -/
def backWords (ws : List Word) : List Word := [lineWord ws 0 3, lineWord ws 1 3, lineWord ws 2 3, lineWord ws 3 3]

/-- Write a replaced dirty line back (R374). -/
def State.writeBack (s : State) (l : Nat) (x : CacheLine) : State :=
  if x.dirty then
    ({ s with writeBacks := s.writeBacks ++ [l] }).smRequest (.writeBack l (s.lineAddr l) (backWords x.words))
  else s

/-- Install a returned line in a non-pinned way of its set (R373), or not where there is none or the line has been pinned
meanwhile; `none` while the way waits for one of the 8 write-backs (R374). -/
def State.installLine (s : State) (l : Nat) (ws : List Word) : Option State :=
  let s1 := s.bump
  let new : CacheLine := ⟨ws, false, false, s1.seq⟩
  let set := s1.setLines l
  if (s.cached l).any fun x => x.pinned then some s
  else if set.length < 8 then some (s1.setCached l (some new))
  else match oldestLine set with
    | none => some s1
    | some (k, x) =>
      if x.dirty && decide (8 ≤ s1.writeBacks.length) then none
      else some (((s1.writeBack k x).setCached k none).setCached l (some new))

/-! ## Reading packets (R358) -/

/-- The queue is the capture queue of a reference entry (R307). -/
def State.captureEntry (s : State) (q : Qid) : Option (BaseId × BitVec 2) :=
  baseIds.findSome? fun n => refIds.findSome? fun j =>
    if s.refBit F.tbRefcfg_V n j && s.refFld F.tbRefcfg_SRC n j == 2 && s.refFld F.tbRefarg_ARG n j % 16384 == q.toNat then some (n, j)
    else none

/-- What a queue offers the engine: whether it is a capture queue, the priority and the age of its candidate. -/
def State.offer (s : State) (q : Qid) : Option (Bool × BitVec 4 × Nat) :=
  let x := s.queue q
  let cap := (s.captureEntry q).isSome
  if s.fld F.qeQcfg_RKIND q.toNat ≠ 3 || s.standbyRefuses q || (s.qcycOf q).closed then none
  else if s.packetMode q then
    match x.opened with
    | some o => if o.reader = .signalEngine then some (cap, o.prio, 0) else none
    | none => (bestPacket (x.packets.filter fun p => decide (p.cand ≤ s.cycSeq))).map fun p => (cap, p.prio, p.cand)
  else (bestWord (x.words.filter fun w => decide (w.cand ≤ s.cycSeq))).map fun w => (cap, itemPrio w.item, w.cand)

/-- Offer a is taken before offer b: captures first, then priority, then age. -/
def offerBefore (a b : Bool × BitVec 4 × Nat) : Bool :=
  if a.1 != b.1 then a.1
  else if a.2.1 ≠ b.2.1 then decide (b.2.1 < a.2.1)
  else decide (a.2.2 < b.2.2)

/-- The packet whose words are being read. -/
def State.partRead (s : State) : Option SigPacket := s.sigPackets.find? fun p => !p.whole

/-- The queue whose candidate is read next: that of a packet read in part, as packets are read one at a time. -/
def State.nextOffer (s : State) : Option Qid :=
  match s.partRead with
  | some p => if (s.offer p.q).isSome then some p.q else none
  | none => (s.queues.foldl (fun (best : Option (Qid × Bool × BitVec 4 × Nat)) kv =>
    let q := BitVec.ofNat 14 kv.1
    match s.offer q, best with
    | none, b => b
    | some o, none => some (q, o)
    | some o, some b => if offerBefore o b.2 then some (q, o) else some b) none).map fun x => x.1

/-- Read at most n words of a queue's candidate packet as they were stored, up to its END. -/
def State.sigRead (s : State) (q : Qid) : Nat → List (BitVec 64) → List (BitVec 64) × State
  | 0, acc => (acc, s)
  | n + 1, acc =>
    match s.popItem q .signalEngine with
    | (none, s1) => (acc, s1)
    | (some x, s1) => if itemEnd x.1 then (acc ++ [x.2.item], s1) else s1.sigRead q n (acc ++ [x.2.item])

/-- Words in the packet store. -/
def State.storeUse (s : State) : Nat := (s.sigPackets.map fun p => p.items.length).sum

/-- The signal engine works: its domain is ON and it is not lost (R395, R455). -/
def State.sigWorks (s : State) : Bool := (s.dom 20).st == DomState.on && !s.faults.sigLost

def State.replacePacket (s : State) (p : SigPacket) : State :=
  { s with sigPackets := s.sigPackets.map fun x => if x.id = p.id then p else x }

def State.dropPacket (s : State) (p : SigPacket) : State := { s with sigPackets := s.sigPackets.filter fun x => x.id != p.id }

/-- Words read from queue q enter the packet store: they go on with its packet read in part, or begin one. -/
def State.storePart (s : State) (q : Qid) (items : List (BitVec 64)) : State :=
  let whole : Bool := match items.getLast? with
    | some w => itemEnd w
    | none => false
  match s.partRead with
  | some p => s.replacePacket { p with items := p.items ++ items, whole := whole }
  | none =>
    let s1 := s.bump
    { s1 with sigPackets := s1.sigPackets ++
        [{ id := s1.seq, q := q, items := items, whole := whole, started := false, lines := [], frame := none, next := 0
           waiting := none }] }

/-- The candidate of queue q is read: a capture goes to its time base, another packet to the store of 16,384 words, as far
as it has room. -/
def State.readCandidate (s : State) (q : Qid) : State :=
  match s.captureEntry q with
  | some (n, j) =>
    let r := s.sigRead q (s.queue q).depth []
    if r.1.isEmpty || !r.2.baseOn n then r.2 else r.2.capture n j r.1
  | none =>
    let r := s.sigRead q (min (s.queue q).depth (16384 - s.storeUse)) []
    if r.1.isEmpty then r.2 else r.2.storePart q r.1

/-- SIG_PACKET_READ (R358): reading pauses while the store is full. -/
def execSigPacketRead (s : State) : Out :=
  match s.nextOffer with
  | none => .next s
  | some q => .next (if s.sigWorks then s.atDomain (quadDomain (quadrantOf q)) fun s => s.readCandidate q else s)

/-! ## Keys and frames (R359, R361, R362) -/

/-- The home line of a key. -/
def homeLine (blog : Nat) (ch : Chan) (key : Word) : Nat :=
  let x := key ^^^ BitVec.ofNat 32 (2 ^ 23 * ch.toNat)
  let h := x * 0x9E3779B1
  if blog = 0 then 0 else h.toNat / 2 ^ (32 - blog)

/-- The channel of a packet, by its first word's SENDER of class 1. -/
def packetChannel (items : List (BitVec 64)) : Option Chan :=
  match items with
  | [] => none
  | w :: _ => if (itemSender w).toNat / 2 ^ 18 = 1 then some (BitVec.ofNat 9 (itemSender w).toNat) else none

/-- The packet's channel and key when the engine accepts it (R359). -/
def State.packetKey (s : State) (items : List (BitVec 64)) : Option (Chan × Word) :=
  match packetChannel items, items.getLast? with
  | some ch, some e =>
    let idw := s.fld F.sigChc_IDW ch.toNat
    if (s.fld F.sigChc_OKKIND ch.toNat).testBit (itemKind e).toNat then
      (items[idw]?).map fun w => (ch, itemPayload w &&& s.reg .sigChm ch.toNat)
    else none
  | _, _ => none

/-- A valid frame entry for the channel and key. -/
def frameMatch (ws : List Word) (ch : Chan) (key : Word) (e : Nat) : Bool :=
  let w0 := lineWord ws e 0
  w0.getLsbD 31 && bitsOf w0 29 2 == 1 && bitsOf w0 20 9 == ch.toNat && lineWord ws e 1 == key

/-- What a probe of the hash lines finds. -/
inductive Probe where
  | found (i : Nat) (copy : List Word)
  | unknown
  | need (l : Nat)
  deriving DecidableEq, Repr

/-- A line as a packet's lookup knows it. -/
def State.lineFor (s : State) (p : SigPacket) (l : Nat) : Option (List Word) :=
  let ws := smGet [] p.lines l
  if ws.isEmpty then (s.cached l).map fun x => x.words else some ws

/-- Examine up to n lines from the i-th after home; with the lines examined. -/
def State.probe (s : State) (p : SigPacket) (ch : Chan) (key : Word) (home size : Nat) : Nat → Nat → List Nat → Probe × List Nat
  | 0, _, seen => (.unknown, seen)
  | n + 1, i, seen =>
    let l := (home + i) % size
    match s.lineFor p l with
    | none => (.need l, seen)
    | some ws =>
      match [0, 1, 2, 3].find? (frameMatch ws ch key) with
      | some e => (.found (4 * l + e) ws, seen ++ [l])
      | none =>
        if [0, 1, 2, 3].any (fun e => !(lineWord ws e 0).getLsbD 31) then (.unknown, seen ++ [l])
        else s.probe p ch key home size n (i + 1) (seen ++ [l])

/-- A packet's lookup reads a line: a line found in the cache is a hit, counted once for the packet.
Log entry 43 (DEDUCED). -/
def State.noteLine (s : State) (p : SigPacket) (l : Nat) : SigPacket × State :=
  if !(smGet [] p.lines l).isEmpty then (p, s)
  else match s.cached l with
    | none => (p, s)
    | some x =>
      let s1 := (s.sigCount 1).bump
      ({ p with lines := smSet [] p.lines l x.words }, s1.setCached l (some { x with used := s1.seq }))

def State.noteLines (s : State) (p : SigPacket) (ls : List Nat) : SigPacket × State :=
  ls.foldl (fun a l => a.2.noteLine a.1 l) (p, s)

/-! ## Extraction and packing (R363, R365 to R367) -/

/-- A route entry (R363). -/
structure RouteEntry where
  index : Nat
  w0 : Word
  dest : Word
  w2 : Word
  copy : List Word

def RouteEntry.valid (r : RouteEntry) : Bool :=
  r.w0.getLsbD 31 && bitsOf r.w0 29 2 == 2 && decide (bitsOf r.w0 27 2 < 2)
def RouteEntry.isFrame (r : RouteEntry) : Bool := bitsOf r.w0 27 2 == 1
def RouteEntry.cont (r : RouteEntry) : Bool := r.w0.getLsbD 26
def RouteEntry.uoc (r : RouteEntry) : Bool := r.w0.getLsbD 25
def RouteEntry.len (r : RouteEntry) : Nat := bitsOf r.w0 19 5 + 1
def RouteEntry.prio (r : RouteEntry) : BitVec 4 := r.w2.extractLsb' 22 4

/-- The bit positions of value bits 0, 1, ... of a field of length n from start bit p, little- or big-endian. -/
def fieldBits (p n : Nat) (big : Bool) : List Nat :=
  if !big then (List.range n).map fun i => p + i
  else
    let rec go : Nat → Nat → List Nat
      | 0, _ => []
      | k + 1, b => b :: go k (if b % 8 = 0 then b + 15 else b - 1)
    (go n p).reverse

/-- Bit k of a packet (R365). -/
def packetBit (items : List (BitVec 64)) (k : Nat) : Bool := (itemPayload (items.getD (k / 32) 0)).getLsbD (k % 32)

/-- The source bits of a field entry. -/
def RouteEntry.source (r : RouteEntry) : List Nat := fieldBits (bitsOf r.w0 4 15) r.len (r.w0.getLsbD 24)
/-- Its bits in the pack. -/
def RouteEntry.place (r : RouteEntry) : List Nat := fieldBits (bitsOf r.w2 27 5) r.len (r.w2.getLsbD 26)

/-- A FIELD entry is invalid when its destination bits leave the pack, a FRAME entry when CONT = 1 (R364). -/
def RouteEntry.bad (r : RouteEntry) (last : Bool) : Bool :=
  !r.valid || (r.cont && (r.isFrame || last)) || (!r.isFrame && r.place.any fun b => decide (32 ≤ b))

/-- The field's source lies within the packet. -/
def RouteEntry.fits (r : RouteEntry) (items : List (BitVec 64)) : Bool := r.source.all fun b => decide (b < 32 * items.length)

/-- The field's value. -/
def RouteEntry.value (r : RouteEntry) (items : List (BitVec 64)) : Word :=
  BitVec.ofNat 32 ((r.source.zipIdx.map fun bi => (packetBit items bi.1).toNat * 2 ^ bi.2).sum)

/-- The pack with a field written into it. -/
def RouteEntry.packInto (r : RouteEntry) (pack v : Word) : Word :=
  r.place.zipIdx.foldl (fun w bi => putBits w bi.1 1 (v.getLsbD bi.2).toNat) pack

/-- What the entries of a group have given so far: the pack, an entry of UOC = 0 or a changed field, and whether the group
may be pushed. -/
structure Gather where
  pack : Word
  always : Bool
  changed : Bool
  ok : Bool

/-- One FIELD entry of a group. -/
def State.gather (s : State) (items : List (BitVec 64)) (g : Gather) (r : RouteEntry) (last : Bool) : Gather × State :=
  if r.bad last then ({ g with ok := false }, s.sigCount 7)
  else if !r.fits items then ({ g with ok := false }, s.sigCount 5)
  else
    let v := r.value items
    let differs := s.word3 r.copy r.index != v
    ({ g with pack := r.packInto g.pack v, always := g.always || !r.uoc, changed := g.changed || differs },
     s.setWord3 r.index v)

/-! ## Outputs (R368 to R370) -/

/-- Hand one item of the engine to a global queue address: whether it stands at its quadrant's push port. -/
def State.sigSend (s : State) (dest : Word) (rchk : Bool) (epoch : BitVec 16) (item : BitVec 64) : Bool × State :=
  let q : Qid := dest.extractLsb' 0 14
  let node : Node := dest.extractLsb' 14 18
  if node = s.node then
    let role : Word := if rchk then BitVec.ofNat 32 (2 ^ 16 * (s.fld F.qeQcfg_READER q.toNat) + epoch.toNat) else 0
    let r := s.pushOrSlag q item ownerSignal role
    (r.1 == .held || r.1 == .later, if r.1.taken then r.2 else r.2.sigCount 10)
  else
    let role : Word := if rchk then epoch.setWidth 32 else 0
    let r := s.egressPush node q rchk rchk role item
    (false, if r.1 then r.2 else r.2.slag slagPoolFull dest item)

/-- Push one item for a packet of queue src: behind every earlier output of that queue (R377). -/
def State.sigPush (s : State) (src : Qid) (dest : Word) (rchk : Bool) (epoch : BitVec 16) (item : BitVec 64) : State :=
  let o : SigOut := ⟨src, dest, rchk, epoch, item, false⟩
  if s.sigOut.any fun x => x.src == src then { s with sigOut := s.sigOut ++ [o] }
  else
    let r := s.sigSend dest rchk epoch item
    if r.1 then { r.2 with sigOut := r.2.sigOut ++ [{ o with atPort := true }] } else r.2

/-- An output stands at its quadrant's push port still. -/
def State.stillHeld (s : State) (o : SigOut) : Bool :=
  let q : Qid := o.dest.extractLsb' 0 14
  o.atPort && (s.quad (quadrantOf q)).held.any fun h => h.q == q && h.owner == ownerSignal && h.item == o.item

/-- The outputs that wait, in their order: one whose push port has taken it lets the next of its queue go. -/
def sigDrain : List SigOut → State → State
  | [], s => s
  | o :: rest, s =>
    sigDrain rest (if s.stillHeld o then { s with sigOut := s.sigOut ++ [o] }
      else if o.atPort then s
      else s.sigPush o.src o.dest o.rchk o.epoch o.item)

def State.drainSignal (s : State) : State :=
  if s.domainUp 20 then sigDrain s.sigOut { s with sigOut := [] } else s

/-- The words of a packet forwarded with a first-word PRIO. -/
def forwardWords (items : List (BitVec 64)) (ch : Chan) (prio : BitVec 4) : List (BitVec 64) :=
  match items with
  | [] => []
  | w :: rest => withPrio (withSender w (senderChannel ch)) prio :: rest.map fun x => withSender x (senderChannel ch)

def State.forwardPacket (s : State) (p : SigPacket) (ch : Chan) (dest : Word) (prio : BitVec 4) (rchk : Bool)
    (epoch : BitVec 16) : State :=
  (forwardWords p.items ch prio).foldl (fun s w => s.sigPush p.q dest rchk epoch w) s

/-- A complete group. -/
def State.applyGroup (s : State) (p : SigPacket) (ch : Chan) (rs : List RouteEntry) (lastGroup : Bool) : State :=
  match rs with
  | [] => s
  | r :: _ =>
    if r.valid && r.isFrame then
      if r.bad lastGroup then s.sigCount 7
      else s.forwardPacket p ch r.dest r.prio (r.w2.getLsbD 21) (r.w2.extractLsb' 0 16)
    else
      let n := rs.length
      let g := rs.zipIdx.foldl (fun (a : Gather × State) ri =>
        a.2.gather p.items a.1 ri.1 (lastGroup && decide (ri.2 + 1 = n))) (⟨0, false, false, true⟩, s)
      if !g.1.ok then g.2
      else if g.1.always || g.1.changed then
        g.2.sigPush p.q r.dest (r.w2.getLsbD 21) (r.w2.extractLsb' 0 16)
          (mkItem true r.prio (r.w0.extractLsb' 0 4) (senderUnit 1) g.1.pack)
      else g.2.sigCount 6

/-! ## The lookup (R361, R375, R377) -/

/-- The whole packet goes to the slag queue with NO_ROUTE_YET. -/
def State.noRouteYet (s : State) (p : SigPacket) : State :=
  (p.items.foldl (fun s w => s.slagLocal slagNoRoute p.q w) s).sigCount 4

/-- Fills outstanding: asked for and not yet returned. -/
def State.outstanding (s : State) : Nat := (s.fills.filter fun f => f.got.isNone).length

/-- The number of the fill that brings a line: one on its way that is still to be installed (R378), or a new one when it
may be issued (R373, R374); 0 while none may. -/
def State.askFill (s : State) (l : Nat) : Nat × State :=
  match s.fills.find? (fun f => f.line == l && !f.drop && f.install) with
  | some f => (f.id, s)
  | none =>
    if 32 ≤ s.outstanding || s.writeBacks.contains l then (0, s)
    else
      let s1 := s.bump
      let f : SigFill := { line := l, install := true, drop := false, id := s1.seq }
      let s2 : State := { s1 with fills := s1.fills ++ [f] }
      (s1.seq, (s2.sigCount 2).smRequest (.fill l (s.lineAddr l)))

/-- The lookup of packet p needs a line that is not present. -/
def State.needLine (s : State) (p : SigPacket) (l : Nat) : State :=
  if s.bit F.sigCfg_DIRON then
    let r := s.askFill l
    r.2.replacePacket { p with waiting := some l, fill := r.1 }
  else (s.dropPacket p).noRouteYet p

/-- Route entry i as the packet's lookup knows it. -/
def State.routeEntry (s : State) (p : SigPacket) (i : Nat) : Option RouteEntry :=
  (s.lineFor p (i / 4)).map fun ws =>
    RouteEntry.mk i (lineWord ws (i % 4) 0) (lineWord ws (i % 4) 1) (lineWord ws (i % 4) 2) ws

/-- The entries of the group that starts at entry i, of n left: complete, or the line still needed; with the lines read. -/
def State.groupFrom (s : State) (p : SigPacket) : Nat → Nat → List RouteEntry → (List RouteEntry × Option Nat)
  | 0, _, acc => (acc, none)
  | n + 1, i, acc =>
    match s.routeEntry p i with
    | none => (acc, some (i / 4))
    | some r =>
      if r.valid && r.isFrame && !acc.isEmpty then (acc, none)
      else if r.valid && !r.isFrame && r.cont then s.groupFrom p n (i + 1) (acc ++ [r])
      else (acc ++ [r], none)

/-- Apply the groups of a matched frame from the packet's next entry. -/
def State.applyRoutes (s : State) (p : SigPacket) (ch : Chan) (first count : Nat) : Nat → State
  | 0 => s.dropPacket p
  | n + 1 =>
    if count ≤ p.next then s.dropPacket p
    else
      let g := s.groupFrom p (count - p.next) (first + p.next) []
      let noted := s.noteLines p (g.1.map fun r => r.index / 4).dedup
      match g.2 with
      | some l => noted.2.needLine noted.1 l
      | none =>
        let next := p.next + max 1 g.1.length
        (noted.2.applyGroup noted.1 ch g.1 (decide (count ≤ next))).applyRoutes { noted.1 with next := next } ch first count n

/-- An unknown frame (R370). -/
def State.unknownFrame (s : State) (p : SigPacket) (ch : Chan) : State :=
  let s1 := (s.dropPacket p).sigCount 3
  if s1.bit F.sigChc_DEFEN ch.toNat then
    match p.items with
    | [] => s1
    | w :: _ => s1.forwardPacket p ch (s1.reg .sigChd ch.toNat) (itemPrio w) false 0
  else s1

/-- A frame matched: its entry is checked and its HITS count (R362, R364). -/
def State.frameFound (s : State) (p : SigPacket) (ch : Chan) (i : Nat) (copy : List Word) : State :=
  let w2 := lineWord copy (i % 4) 2
  let count := bitsOf w2 23 7
  let first := bitsOf w2 0 23
  let h := s.word3 copy i
  let s1 := s.setWord3 i (if h = 0xFFFFFFFF then h else h + 1)
  if count = 0 ∨ 64 < count ∨ s.fld F.sigSize_ENTRIES < first + count then (s1.dropPacket p).sigCount 7
  else s1.applyRoutes { p with frame := some (first, count), waiting := none } ch first count (count + 1)

/-- Take the lookup of a packet as far as the lines at hand allow; its key is taken when it starts (R359).  A lost engine
looks up nothing (R454). -/
def State.lookup (s : State) (p : SigPacket) : State :=
  if !s.sigWorks then s
  else match (if p.started then p.key else s.packetKey p.items) with
  | none => (s.dropPacket p).sigCount 8
  | some (ch, key) =>
    let s1 := if p.started then s else s.sigCount 0
    let p1 := { p with started := true, key := some (ch, key), waiting := none, fill := 0 }
    match p.frame with
    | some (first, count) => s1.applyRoutes p1 ch first count (count + 1)
    | none =>
      let blog := s.fld F.sigCfg_BLOG
      let r := s1.probe p1 ch key (homeLine blog ch key) (2 ^ blog) (s.fld F.sigCfg_PROBES + 1) 0 []
      let noted := s1.noteLines p1 r.2
      match r.1 with
      | .found i copy => noted.2.frameFound noted.1 ch i copy
      | .unknown => noted.2.unknownFrame noted.1 ch
      | .need l => noted.2.needLine noted.1 l

/-- DIRECTORY_LOOKUP (R361): the first packet read from queue q, once its END word is there, unless it waits for a line. -/
def execDirectoryLookup (q : Qid) (s : State) : Out :=
  match s.sigPackets.find? (fun p => p.q == q) with
  | none => .next s
  | some p => .next (if p.whole && p.waiting.isNone then s.lookup p else s)

/-! ## Fills and write-backs (R373, R374) -/

/-- The packets that wait for fill n go on with their lookups. -/
def State.resumeLookups (s : State) (n : Nat) : State :=
  (s.sigPackets.filter fun p => p.waiting.isSome && p.fill == n).foldl (fun s p => s.lookup p) s

/-- The packets that wait for lines whose fill has not been issued ask again. -/
def State.reissueFills (s : State) : State :=
  s.sigPackets.foldl (fun s p => match p.waiting with
    | some l =>
      if p.fill = 0 then
        let r := s.askFill l
        r.2.replacePacket { p with fill := r.1 }
      else s
    | none => s) s

/-- Returned lines that waited for a write-back are installed once they can be, and the lookups that wait for them go on. -/
def State.retryInstalls (s : State) : State :=
  s.fills.foldl (fun s f => match f.got with
    | none => s
    | some ws => match s.installLine f.line ws with
      | none => s
      | some s1 => ({ s1 with fills := s1.fills.erase f }).resumeLookups f.id) s

/-- A returned line is installed, or stays with its fill while its way waits. -/
def State.keepLine (s : State) (f : SigFill) (ws : List Word) : State :=
  if !f.install then s
  else match s.installLine f.line ws with
    | some s1 => s1
    | none => { s with fills := s.fills ++ [{ f with got := some ws }] }

/-- A fill returns. Log entry 43 (DEDUCED). -/
def State.fillReturn (s : State) (l : Nat) (ok : Bool) (ws : List Word) : State :=
  match s.fills.find? (fun f => f.line == l && f.got.isNone) with
  | none => s
  | some f =>
    let s1 := { s with fills := s.fills.erase f
                       soc := { s.soc with reqs := s.soc.reqs.erase (.fill l (s.lineAddr l)) } }
    if f.drop then s1.reissueFills
    else if ok then
      let take := fun (p : SigPacket) => if p.waiting.isSome && p.fill == f.id then { p with lines := smSet [] p.lines l ws } else p
      let s2 := { s1 with sigPackets := s1.sigPackets.map take }
      ((s2.keepLine f ws).resumeLookups f.id).reissueFills
    else
      let waits := fun (p : SigPacket) => p.waiting.isSome && p.fill == f.id
      let gone := s1.sigPackets.filter waits
      let s2 := { (s1.raise F.sigStat_FERR).sigCount 9 with sigPackets := s1.sigPackets.filter fun p => !waits p }
      (gone.foldl (fun s p => s.noRouteYet p) s2).reissueFills

/-- DIRECTORY_FILL_RETURN (R373). -/
def execDirectoryFillReturn (line : BitVec 21) (ok : Bool) (words : List Word) (s : State) : Out :=
  .next (s.fillReturn line.toNat ok (words ++ List.replicate 16 0 |>.take 16))

/-- DIRECTORY_WRITE_BACK_RESPONSE (R374). -/
def execDirectoryWriteBackResponse (line : BitVec 21) (_ok : Bool) (s : State) : Out :=
  let l := line.toNat
  let mine := fun (r : SmReq) => match r with | .writeBack k _ _ => k == l | _ => false
  .next (if s.writeBacks.contains l then
      ({ s with writeBacks := s.writeBacks.erase l, soc := { s.soc with reqs := s.soc.reqs.eraseP mine } }).retryInstalls.reissueFills
    else s)

/-! ## Changing the directory (R375, R378, R379) -/

/-- A write of SIG.INV. -/
def State.wrSigInv (s : State) (w : Writer) (v : Word) : State :=
  if !isBlock w then s.authorityFault w
  else if F.sigInv_GO.get v = 0 || bitsOf v 21 10 ≠ 0 then s
  else
    let l := F.sigInv_LINE.get v
    let mark := fun (f : SigFill) => if f.line = l then { f with install := false } else f
    let gone := fun (f : SigFill) => f.got.isSome && f.line == l
    let again := (s.fills.filter gone).map fun f => f.id
    let ask := fun (p : SigPacket) => if p.waiting.isSome && again.contains p.fill then { p with fill := 0 } else p
    let s1 := { s with fills := (s.fills.filter fun f => !gone f).map mark, sigPackets := s.sigPackets.map ask }
    match s1.cached l with
    | some x => if x.pinned then s1 else (s1.setCached l none).reissueFills
    | none => s1.reissueFills

/-- DIRECTORY_INVALIDATE (R378). -/
def execDirectoryInvalidate (w : Writer) (line : BitVec 21) (s : State) : Out :=
  .next (s.access w fun s =>
    s.regAtDomain 20 (.write w (regOff .sigInv 0 0) (F.sigInv_GO.put (line.setWidth 32) 1)) fun s =>
      s.wrSigInv w (F.sigInv_GO.put (line.setWidth 32) 1))

/-- A write of SIG.PWCMD: the replacement takes effect within 16 cycles; a GO while one is pending is ignored (R379). -/
def State.wrPwcmd (s : State) (w : Writer) (v : Word) : State :=
  if !isBlock w then s.authorityFault w
  else if F.sigPwcmd_GO.get v = 0 || bitsOf v 23 8 ≠ 0 then s
  else
    let e := F.sigPwcmd_ENTRY.get v
    if (s.cached (e / 4)).any (fun x => x.pinned) && s.pinWrite.isNone then
      let w : PinWrite := ⟨e, (List.range 4).map fun k => s.reg .sigPw k, s.cycle + 1 + (Config.replaceDelay s.fresh).toNat⟩
      { s with pinWrite := some w, fresh := s.fresh + 1 }
    else s.raise F.sigStat_PWERR

/-- The pending replacement of a pinned entry takes effect (R379). -/
def State.replacePinned (s : State) : State :=
  match s.pinWrite with
  | none => s
  | some w =>
    if s.cycle < w.due then s
    else
      let s1 := { s with pinWrite := none }
      match s1.cached (w.entry / 4) with
      | none => s1
      | some x =>
        let ws := w.words.zipIdx.foldl (fun ws k => ws.set (4 * (w.entry % 4) + k.2) k.1) x.words
        s1.setCached (w.entry / 4) (some { x with words := ws })

/-- PINNED_ENTRY_REPLACE (R379). -/
def execPinnedEntryReplace (w : Writer) (entry : BitVec 23) (s : State) : Out :=
  .next (s.access w fun s =>
    s.regAtDomain 20 (.write w (regOff .sigPwcmd 0 0) (F.sigPwcmd_GO.put (entry.setWidth 32) 1)) fun s =>
      s.wrPwcmd w (F.sigPwcmd_GO.put (entry.setWidth 32) 1))

/-- DIRON goes from 1 to 0. -/
def State.directoryOff (s : State) : State :=
  let gone := s.sigPackets.filter fun p => p.waiting.isSome
  let keep := s.cache.filter fun kv => match kv.2 with | some x => x.pinned | none => false
  let drop := fun (f : SigFill) => { f with drop := true }
  let s1 := { s with cache := keep, fills := (s.fills.filter fun f => f.got.isNone).map drop, sigPackets := s.sigPackets.filter fun p => p.waiting.isNone }
  gone.foldl (fun s p => s.noRouteYet p) s1

/-- A write of SIG.CFG (R380): ignored as a whole with BLOG above 21. -/
def State.wrSigCfg (s : State) (w : Writer) (v : Word) : State :=
  if !isBlock w then s.authorityFault w
  else if 21 < F.sigCfg_BLOG.get v then s
  else
    let was := s.bit F.sigCfg_DIRON
    let s1 := s.store w .sigCfg v
    if was && !s1.bit F.sigCfg_DIRON then s1.directoryOff else s1

/-- DIRON_WRITE (R375). -/
def execDironWrite (w : Writer) (v : Word) (s : State) : Out := .next (s.access w fun s =>
  s.regAtDomain 20 (.write w (regOff .sigCfg 0 0) v) fun s => s.wrSigCfg w v)

/-- A write of SIG.SIZE (R380). -/
def State.wrSigSize (s : State) (w : Writer) (v : Word) : State :=
  let n := F.sigSize_ENTRIES.get v
  if !isBlock w then s.authorityFault w
  else if n < 4 * 2 ^ s.fld F.sigCfg_BLOG ∨ n % 4 ≠ 0 then s
  else s.store w .sigSize v

/-- Pinned lines in the cache. -/
def State.pinnedLines (s : State) : Nat :=
  (s.cache.filter fun kv => match kv.2 with | some x => x.pinned | none => false).length

/-- SIG.STAT as it reads. -/
def State.sigStatView (s : State) : Word :=
  F.sigStat_PINNED.put (F.sigStat_OUTST.put (s.reg .sigStat) s.outstanding) s.pinnedLines

/-- SIG_CNT_READ (R382): counters 0 to 10. -/
def execSigCntRead (k : BitVec 4) (s : State) : Out :=
  .next (if k.toNat ≤ 10 then
      s.regAtDomain 20 (.read masterHost (regOff .sigCnt k.toNat 0)) fun s => s.readStored .sigCnt k.toNat 0
    else { s with answer := 0 })

end Sys2Proof.Machine
end

