-- ==== Sys2Proof/Machine/PowerControl.lean ====
section
/-!
DEFINITION. The bellows and the power domains as commands (chapter 13, R543, R544): epochs and slot moves, retirement,
drain-then-gate, wake, and the handshake with the SoC power manager.
-/

namespace Sys2Proof.Machine

/-! ## Measurements (R384, R385) -/

def coreIds (h : HearthId) : List CoreId := (List.range 4).map fun i => BitVec.ofNat 5 (4 * h.toNat + i)
def threadsOf (c : CoreId) : List Tid := (List.range 16).map fun i => BitVec.ofNat 9 (16 * c.toNat + i)

/-- Active entries of core c that name thread i. -/
def State.entries (s : State) (c : CoreId) (i : Nat) : Nat := ((List.range 32).filter fun n => s.slotNames c i n).length

/-- LAG(t): the largest lag of the enabled tasks that release into a queue of thread t. -/
def State.lagOf (s : State) (t : Tid) : Nat :=
  s.tasks.foldl (fun m kv =>
    let q := F.tskDest_QID.get kv.2.dest
    if kv.2.enabled && F.tskCfg_RELQ.get kv.2.cfg == 1 && s.fld F.qeQcfg_RKIND q == 0 &&
        s.fld F.qeQcfg_READER q == t.toNat then max m (min kv.2.lag 255) else m) 0

/-- TISS and TWAIT of a thread as the end of an epoch gives them. Log entry 23 (DESIGN CHOICE). -/
def State.measure (s : State) (t : Tid) : State :=
  let th := s.thr t
  let e := s.entries (coreOf t) (t.toNat % 16)
  let i := BitVec.ofNat 32 (2 ^ 17 * e + min th.issued (2 ^ 17 - 1))
  let w := BitVec.ofNat 32 (2 ^ 24 * (s.lagOf t) + min th.waited (2 ^ 17 - 1))
  (s.setReg .belTiss i t.toNat).setReg .belTwait w t.toNat

/-! ## Slot moves (R386 to R389) -/

/-- What the bellows knows of a thread in an epoch. -/
structure Meas where
  i : Nat
  e : Nat
  issue : Nat
  wait : Nat
  lag : Nat
  prio : BitVec 4
  flex : Bool
  min_ : Nat
  max_ : Nat
  free : Bool
  deriving DecidableEq, Repr

/-- Thread t lends its slots (R143): it waits in WAITEV and its chain leads to a ready thread of its core. -/
def State.lends (s : State) (t : Tid) : Bool :=
  (s.thr t).st == .sleepLock &&
    match s.watchOf t with
    | none => false
    | some w => (s.links w.addr 4).any fun o => coreOf o == coreOf t && s.readyNow o

def State.meas (s : State) (t : Tid) : Meas :=
  let n := t.toNat
  let th := s.thr t
  { i := n % 16, e := s.fld F.belTiss_ENTRIES n, issue := s.fld F.belTiss_ISSUE n, wait := s.fld F.belTwait_WAIT n
    lag := s.fld F.belTwait_LAG n, prio := th.effective, flex := !th.cls, min_ := s.fld F.belTbnd_MINSLOTS n
    max_ := s.fld F.belTbnd_MAXSLOTS n, free := th.raises.isEmpty && !s.lends t }

def Meas.receives (m : Meas) (high : Nat) : Bool :=
  m.flex && decide (m.e < m.max_) && (decide (1 ≤ m.lag) || decide (high * (2048 * m.e) < 256 * m.wait))

def Meas.gives (m : Meas) (low : Nat) : Bool :=
  m.flex && decide (m.min_ < m.e) && m.lag == 0 && decide (256 * m.issue < low * (2048 * m.e)) && m.free

/-- Receiver a is served before b. -/
def Meas.before (a b : Meas) : Bool :=
  if a.lag ≠ b.lag then decide (b.lag < a.lag)
  else if a.prio ≠ b.prio then decide (b.prio < a.prio)
  else if a.wait ≠ b.wait then decide (b.wait < a.wait)
  else decide (a.i < b.i)

def insertMeas (m : Meas) : List Meas → List Meas
  | [] => [m]
  | x :: r => if m.before x then m :: x :: r else x :: insertMeas m r

def sortMeas : List Meas → List Meas
  | [] => []
  | m :: r => insertMeas m (sortMeas r)

/-- The donor of least ISSUE / OWNED, the lowest thread number among equals. -/
def bestDonor (ms : List Meas) : Option Meas :=
  ms.foldl (fun b m => match b with
    | none => some m
    | some d => if m.issue * d.e < d.issue * m.e then some m else some d) none

/-- Least circular distance of position p from the positions of a list. -/
def slotDistance (mine : List Nat) (p : Nat) : Nat :=
  mine.foldl (fun d x => min d (min ((p + 32 - x) % 32) ((x + 32 - p) % 32))) 32

/-- The candidate position farthest from the receiver's entries, the lowest among equals (R388). -/
def farthest (mine cands : List Nat) : Option Nat :=
  cands.foldl (fun b p => match b with
    | none => some p
    | some x => if slotDistance mine x < slotDistance mine p then some p else some x) none

/-- The positions of a table that hold a byte. -/
def positions (tab : List Nat) (f : Nat → Bool) : List Nat := (List.range 32).filter fun n => f (tab.getD n 0x80)

/-- Serve receivers in order while moves remain: the moves made, with the table and donors used up. -/
def serveReceivers (c : CoreId) (low : Nat) (all : List Meas) (rs : List Nat) :
    List Meas → Nat → List Nat → List Nat → List SlotMove → List SlotMove
  | [], _, _, _, acc => acc
  | _ :: _, 0, _, _, acc => acc
  | m :: rest, n + 1, tab, gave, acc =>
    let mine := positions tab fun b => b == m.i
    match farthest mine (positions tab fun b => decide (128 ≤ b)) with
    | some p =>
      serveReceivers c low all rs rest n (tab.set p m.i) gave (acc ++ [⟨c, p, BitVec.ofNat 4 m.i, none⟩])
    | none =>
      match bestDonor (all.filter fun d => d.gives low && !rs.contains d.i && !gave.contains d.i) with
      | none => serveReceivers c low all rs rest (n + 1) tab gave acc
      | some d =>
        match farthest mine (positions tab fun b => b == d.i) with
        | none => serveReceivers c low all rs rest (n + 1) tab gave acc
        | some p =>
          serveReceivers c low all rs rest n (tab.set p m.i) (d.i :: gave)
            (acc ++ [⟨c, p, BitVec.ofNat 4 m.i, some (BitVec.ofNat 4 d.i)⟩])

/-- The moves of a core for an epoch (R387); none for a retired core (R390). -/
def State.movesOf (s : State) (h : HearthId) (c : CoreId) : List SlotMove :=
  if s.coreRetired c then []
  else
    let all := (threadsOf c).map s.meas
    let rs := sortMeas (all.filter fun m => m.receives (s.fld F.belHcfg_HIGH h.toNat))
    let tab := (List.range 32).map fun n => s.slotEntry c n
    serveReceivers c (s.fld F.belHcfg_LOW h.toNat) all (rs.map fun m => m.i) rs (s.fld F.belHcfg_MAXMOVE h.toNat) tab [] []

/-! ## Epochs (R384, R401) -/

/-- The hearth is idle in the epoch that ends. -/
def State.hearthIdle (s : State) (h : HearthId) : Bool :=
  (coreIds h).all fun c =>
    !s.bit F.sltCtl_DIRTY c.toNat && !s.bit F.sltCtl_PEND c.toNat &&
      (threadsOf c).all fun t => (s.thr t).issued == 0 && (s.thr t).st != .running

/-- The threads of a hearth. -/
def hearthThreads (h : HearthId) : List Tid := ((coreIds h).map threadsOf).flatten

/-- What an epoch of hearth h that ends now finds. -/
def State.epochResult (s : State) (h : HearthId) : EpochEnd :=
  let s1 := (hearthThreads h).foldl (fun s t => s.measure t) s
  { tiss := (hearthThreads h).map fun t => s1.reg .belTiss t.toNat
    twait := (hearthThreads h).map fun t => s1.reg .belTwait t.toNat
    idle := s.hearthIdle h
    moves := ((coreIds h).map fun c => s1.movesOf h c).flatten }

/-- ISSUE and WAIT of a thread start again. -/
def Thread.recount (th : Thread) : Thread := { th with issued := 0, waited := 0 }

/-- The measures of hearth h are taken at the end of an epoch, and counting starts again (R385). -/
def State.takeEpoch (s : State) (h : HearthId) : State :=
  let r := s.epochResult h
  (hearthThreads h).foldl (fun s t => s.setThr t (s.thr t).recount) (s.setHearth h { s.hearth h with ended := some r })

/-- TISS and TWAIT show the measures of the epoch. -/
def State.showMeasures (s : State) (h : HearthId) (r : EpochEnd) : State :=
  (hearthThreads h).zipIdx.foldl (fun s x =>
    (s.setReg .belTiss (r.tiss.getD x.2 0) x.1.toNat).setReg .belTwait (r.twait.getD x.2 0) x.1.toNat) s

/-- The end of the next epoch of hearth h is evaluated. Log entry 23 (DESIGN CHOICE). -/
def State.epochEnd (s : State) (h : HearthId) : State :=
  let x := s.hearth h
  if s.cycle < 65536 * (x.epoch + 1) then s
  else
    let s1 := if x.ended.isSome then s else s.takeEpoch h
    match (s1.hearth h).ended with
    | none => s1
    | some r =>
      let n := if r.idle then min 15 (s.fld F.belHstat_IDLEEP h.toNat + 1) else 0
      let retain := s.bit F.belHcfg_AUTORET h.toNat && decide (s.fld F.belHcfg_RETEP h.toNat ≤ n) && r.idle
      ((s1.setFld F.belHstat_IDLEEP n h.toNat).showMeasures h r).setHearth h
        { epoch := x.epoch + 1, moves := r.moves, retain := retain, due := some (65536 * (x.epoch + 1) + 512) }

/-- BELLOWS_EPOCH_END (R384). -/
def execBellowsEpochEnd (h : HearthId) (s : State) : Out := .next (s.epochEnd h)

/-- Change one entry of a core's active and pending table. -/
def State.setSlot (s : State) (c : CoreId) (n b : Nat) : State :=
  let put := fun (w : Word) => putBits w (8 * (n % 4)) 8 b
  ((s.setCore c { s.core c with loaded := true }).setReg .sltAct (put (s.reg .sltAct c.toNat (n / 4))) c.toNat (n / 4)).setReg .sltTab
    (put (s.reg .sltTab c.toNat (n / 4))) c.toNat (n / 4)

/-- A thread of core c is FIXED by now. -/
def State.nowFixed (s : State) (c : CoreId) (i : BitVec 4) : Bool :=
  let th := s.thr (c ++ i)
  th.clsNext.getD th.cls

/-- A move still changes a movable entry, names a FLEX thread and keeps both entry counts within their bounds by now (R386,
R389); a move that does not is discarded alone. Log entry 42 (DEDUCED). -/
def State.moveStands (s : State) (c : CoreId) (m : SlotMove) : Bool :=
  let b := s.slotEntry c m.entry
  let r := (c ++ m.receiver).toNat
  let inRange := decide (s.entries c m.receiver.toNat + 1 ≤ s.fld F.belTbnd_MAXSLOTS r)
  let spared := decide (128 ≤ b) ||
    (!s.nowFixed c (BitVec.ofNat 4 b) && decide (s.fld F.belTbnd_MINSLOTS (c ++ BitVec.ofNat 4 b).toNat + 1 ≤ s.entries c b))
  !s.nowFixed c m.receiver && !(m.donor.any fun d => s.nowFixed c d) && b != m.receiver.toNat && inRange && spared

/-- Apply the moves of a core at the boundary `at_`, or discard them, as also when a commit fell due at the same boundary
(R36, R389). -/
def State.applyMoves (s : State) (h : HearthId) (c : CoreId) (ms : List SlotMove) (at_ : Nat) : State :=
  let bit := 24 + c.toNat % 4
  let skip := fun (s : State) (b : Nat) => s.setReg .belHstat (putBits (s.reg .belHstat h.toNat) bit 1 b) h.toNat
  if s.bit F.sltCtl_DIRTY c.toNat || s.bit F.sltCtl_PEND c.toNat || (0 < at_ && (s.core c).snapAt == at_) then skip s 1
  else if s.coreRetired c then skip s 0
  else
    ms.foldl (fun s m =>
      if s.moveStands c m then (s.setSlot c m.entry m.receiver.toNat).satAdd F.belHstat_MOVES 1 h.toNat else s) (skip s 0)

/-- A thread of hearth h is RUNNING. -/
def State.hearthRuns (s : State) (h : HearthId) : Bool :=
  (coreIds h).any fun c => (threadsOf c).any fun t => (s.thr t).st == .running

/-- Stores on their way to core-local memories of hearth d: (core, place in the order). -/
def State.storesTo (s : State) (d : Nat) : List (CoreId × Nat) :=
  ((List.range 32).map fun i =>
    let c : CoreId := BitVec.ofNat 5 i
    ((s.core c).inflight.filter fun e => match regionOf c (BitVec.ofNat 32 e.addr) with
      | .core c' _ => coreDomain c' == d
      | _ => false).map fun e => (c, e.seq)).flatten

/-- A domain that is ON begins drain-then-gate (R397).  Stores that have left their cores by then count as accepted.
Log entry 42 (DEDUCED). -/
def State.startDrain (s : State) (d : Nat) (off : Bool) : State :=
  if (s.dom d).st = .on then
    s.setDom d { s.dom d with st := .draining, since := s.cycle, off := off, accepted := s.storesTo d }
  else s

/-- The application cycle of hearth h. Log entry 42 (DEDUCED). -/
def State.bellowsApply (s : State) (h : HearthId) : State :=
  let x := s.hearth h
  match x.due with
  | none => s
  | some c0 =>
    if s.cycle < c0 then s
    else
      let s1 := (coreIds h).foldl (fun s c => s.applyMoves h c (x.moves.filter fun m => m.c == c) c0) s
      let s2 := s1.setHearth h { x with moves := [], retain := false, due := none }
      if x.retain then s2.startDrain h.toNat false else s2

/-- BELLOWS_APPLY (R389). -/
def execBellowsApply (h : HearthId) (s : State) : Out := .next (s.bellowsApply h)

/-- HSTAT_READ (R403). -/
def execHstatRead (h : HearthId) (s : State) : Out := .next (s.readStored .belHstat h.toNat 0)

/-- A core is retired (R390). -/
def State.retireCore (s : State) (c : CoreId) : State :=
  let h := (hearthOfCore c).toNat
  let s1 := (threadsOf c).foldl (fun s t => s.stopThread t) s
  s1.setReg .belHstat (putBits (s1.reg .belHstat h) (28 + c.toNat % 4) 1 1) h

/-! ## Requests (R396) -/

/-- A channel of pin group g keeps its domain from leaving ON. -/
def Channel.busy (x : Channel) : Bool :=
  x.st == .run || x.st == .wait || x.st == .stallPull || x.st == .stallPush || !x.staged.isEmpty ||
    x.timed.any fun kv => kv.2.isSome

/-- The request for a low state is refused. -/
def State.refusesLow (s : State) (d : Nat) : Bool :=
  if d < 8 then s.hearthRuns (BitVec.ofNat 3 d)
  else if d < 16 then s.channels.any fun kv => kv.1 / 64 == d - 8 && kv.2.busy
  else if d = 21 then s.pairing || s.mirror.role == .syncing || s.mirror.role == .standby
  else false

/-- A request for ON. -/
def State.requestOn (s : State) (d : Nat) : State :=
  if (s.dom d).st = .off then s.setDom d { s.dom d with st := .waking, since := s.ns, pdReq := false } else s.wakeDomain d

/-- A request for RETAINED or OFF. Log entry 42 (DEDUCED). -/
def State.requestLow (s : State) (d : Nat) (off : Bool) : State :=
  if off != (d == 21) then s.raise F.pwrDstat_DENIED d
  else if (s.dom d).st ≠ .on then s
  else if s.refusesLow d then s.raise F.pwrDstat_DENIED d
  else s.startDrain d off

/-- A write of PWR.DREQ. -/
def State.wrDreq (s : State) (w : Writer) (d : Nat) (v : Word) : State :=
  if !isBlock w then s.authorityFault w
  else if F.pwrDreq_GO.get v = 0 || bitsOf v 2 29 ≠ 0 || decide (22 ≤ d) then s
  else match F.pwrDreq_TARGET.get v with
    | 0 => s.requestOn d
    | 1 => s.requestLow d false
    | 2 => s.requestLow d true
    | _ => s

/-- POWER_REQUEST_ON (R396). -/
def execPowerRequestOn (w : Writer) (d : BitVec 5) (s : State) : Out := .next (s.access w fun s => s.wrDreq w d.toNat 0x80000000)
/-- POWER_REQUEST_RETAINED (R396). -/
def execPowerRequestRetained (w : Writer) (d : BitVec 5) (s : State) : Out := .next (s.access w fun s => s.wrDreq w d.toNat 0x80000001)
/-- POWER_REQUEST_OFF (R396). -/
def execPowerRequestOff (w : Writer) (d : BitVec 5) (s : State) : Out := .next (s.access w fun s => s.wrDreq w d.toNat 0x80000002)

/-! ## Drain-then-gate (R397) -/

/-- A lane has nothing left to send. -/
def Lane.empty (l : Lane) : Bool := l.queue.isEmpty && l.msgs.isEmpty && l.links.isEmpty && l.again.isEmpty

/-- The domain holds nothing that it has accepted: stores of a hearth, pushes at the ports of a quadrant, fills and
write-backs of the signal engine, items and flits of the chain unit (R397). Log entry 42 (DEDUCED). -/
def State.drained (s : State) (d : Nat) : Bool :=
  if d < 8 then !(s.dom d).accepted.any fun x => (s.storesTo d).contains x
  else if d < 16 then true
  else if d < 20 then (s.quad (BitVec.ofNat 2 (d - 16))).held.isEmpty
  else if d = 20 then s.outstanding == 0 && s.writeBacks.isEmpty && s.pinWrite.isNone
  else s.chain.egress.isEmpty && s.chain.rwWait.isEmpty && s.chain.rwOpen.isNone && s.chain.notice.isNone && s.mirror.egress.isEmpty &&
    laneIds.all fun l => (s.lane l).empty

/-- DRAIN_COMPLETE (R397): with nothing left, ENTERING begins. -/
def execDrainComplete (d : BitVec 5) (s : State) : Out :=
  let x := s.dom d.toNat
  .next (if x.st = .draining && s.drained d.toNat then s.setDom d.toNat { x with st := .entering, since := s.cycle } else s)

/-- The chain unit loses what it held, its lanes' state and the CHN registers (R395). Log entry 42 (DEDUCED). -/
def State.chainOff (s : State) : State :=
  let s1 := laneIds.foldl (fun s l =>
    let s' := s.laneDown l 2
    s'.setLane l { sig := (s'.lane l).sig }) s
  let s2 := match s1.chain.notice with
    | none => s1
    | some x => s1.leavePlace x
  { s2 with chain := {}, regs := smDropRange s2.regs 0x180000 0x181000 }

/-- DOMAIN_LOW_STATE (R397, R544). -/
def State.lowState (s : State) (d : Nat) : State :=
  let x := s.dom d
  if x.st ≠ .entering || decide (s.cycle < x.since + 64) then s
  else
    let s1 := s.setDom d { x with st := if x.off then .off else .retained, pdReq := true, pdRet := !x.off }
    (if x.off then s1.chainOff else s1).pulse (0xAC0 + d)

def execDomainLowState (d : BitVec 5) (s : State) : Out := .next (s.lowState d.toNat)

/-! ## Wake (R398, R399, R544) -/

/-- The causes that wake domain d (R399). -/
def wakesBy (d : Nat) (c : WakeCause) : Bool :=
  match c with
  | .item => d < 16 || d == 20
  | .notice => d < 8
  | .access => d < 8 || (16 ≤ d && d < 21)
  | .registerWrite => d < 8 || d == 20
  | .eventInput => d < 21

/-- DOMAIN_WAKE (R399). -/
def execDomainWake (d : BitVec 5) (cause : WakeCause) (s : State) : Out :=
  .next (if wakesBy d.toNat cause then s.wakeDomain d.toNat else s)

/-- Wake notices on their way to a hearth's threads are delivered. -/
def State.deliverHeldWakes (s : State) (h : Nat) : State :=
  s.queues.foldl (fun s kv =>
    kv.2.notices.foldl (fun s t => if (hearthOf t).toNat = h then s.deliverWake (BitVec.ofNat 14 kv.1) else s) s) s

/-- Pushes held at a quadrant's port are performed. -/
def State.releaseAllHeld (s : State) (k : Quadrant) : Nat → State
  | 0 => s
  | n + 1 => (s.heldRelease k).releaseAllHeld k n

/-- DOMAIN_ON (R399, R544). -/
def State.domainOn (s : State) (d : Nat) : State :=
  let x := s.dom d
  let acked : Bool := match x.ackFell with
    | some c => decide (c + 64 ≤ s.cycle)
    | none => true
  if x.st ≠ .waking || x.pdAck || !acked || decide (s.ns < x.since + 12000) then s
  else
    let s1 := s.domainReachOn d
    if d < 8 then s1.deliverHeldWakes d
    else if 16 ≤ d ∧ d < 20 then
      let k := BitVec.ofNat 2 (d - 16)
      (s1.releaseAllHeld k (s1.quad k).held.length).retryUnits k
    else if d = 21 then laneIds.foldl (fun s l => s.tryInit l) s1
    else s1

def execDomainOn (d : BitVec 5) (s : State) : Out := .next (s.domainOn d.toNat)

/-- PD_ACK_RISE (R544). -/
def execPdAckRise (d : BitVec 5) (s : State) : Out := .next (s.setDom d.toNat { s.dom d.toNat with pdAck := true })

/-- PD_ACK_FALL (R544). -/
def execPdAckFall (d : BitVec 5) (s : State) : Out :=
  let x := s.dom d.toNat
  .next (s.setDom d.toNat { x with pdAck := false, ackFell := if x.pdAck then some s.cycle else x.ackFell })

/-! ## Held items (R400) -/

/-- A word counted in HELD has waited more than the limit. -/
def QWord.tooOld (w : QWord) (limit now : Nat) : Bool :=
  match w.heldAt with
  | some t => decide (t + limit < now)
  | none => false

/-- The old words of a queue go to the slag queue, without a level event. -/
def State.ageQueue (s0 : State) (limit : Nat) (q : Qid) : State :=
  let s := s0.noteFlush q
  let x := s.queue q
  let old := fun (w : QWord) => w.tooOld limit s.ns
  let gone := x.allWords.filter old
  if gone.isEmpty then s0
  else
    let keep := fun (ws : List QWord) => ws.filter fun w => !old w
    let ps := (x.packets.map fun p => { p with words := keep p.words }).filter fun p => !p.words.isEmpty
    let op := match x.opened with
      | none => none
      | some o => if (keep o.words).isEmpty then none else some { o with words := keep o.words }
    let s1 := s.setQueue q { x with words := keep x.words, packets := ps, opened := op }
    let s2 := gone.foldl (fun s w => (s.freeSlot (quadrantOf q) w).slagLocal slagPoweredDown q w.item) s1
    let s3 := (s2.serveDepth q gone.length).mirrorQueue 2 q 0 0
    (s3.queue q).allWords.foldl (fun s w => s.mirrorQueue 0 q w.owner w.item) s3

/-- HELD_ITEM_AGE_CHECK (R400). -/
def State.ageCheck (s : State) : State :=
  if s.cycle % 1024 ≠ 0 then s
  else
    (List.range 16).foldl (fun s d =>
      let age := s.fld F.pwrHold_AGE d
      if (s.dom d).st = .on || age = 0 then s
      else (s.queuesHeldFor d).foldl (fun s q => s.ageQueue (1000 * age) q) s) s

def execHeldItemAgeCheck (s : State) : Out := .next s.ageCheck

/-! ## Registers (R403 to R405) -/

def DomState.code : DomState → Nat
  | .on => 0
  | .draining => 1
  | .entering => 2
  | .retained => 3
  | .off => 4
  | .waking => 5

/-- PWR.DSTAT as it reads. -/
def State.dstatView (s : State) (d : Nat) : Word :=
  F.pwrDstat_HELD.put (F.pwrDstat_STATE.put (s.reg .pwrDstat d) (s.dom d).st.code) (s.heldCount d)

/-- DSTAT_READ (R405). -/
def execDstatRead (d : BitVec 5) (s : State) : Out :=
  .next (s.readOut .pwrDstat d.toNat 0 (s.dstatView d.toNat))

/-- A write of BEL.HCFG (R403). -/
def State.wrHcfg (s : State) (w : Writer) (h : HearthId) (v : Word) : State :=
  if !overHearth w h then s.authorityFault w
  else if F.belHcfg_RETEP.get v = 0 || decide (8 < F.belHcfg_MAXMOVE.get v) then s
  else s.store w .belHcfg v h.toNat

/-- A write of PWR.HOLD or PWR.WAKE: ignored for domains 16 to 21. -/
def State.wrPwr (s : State) (w : Writer) (k : RegKind) (d : Nat) (v : Word) : State :=
  if !isBlock w then s.authorityFault w else if 16 ≤ d then s else s.store w k v d

end Sys2Proof.Machine
end

