-- ==== Sys2Proof/Machine/FaultControl.lean ====
section
/-!
DEFINITION. The fault counter unit (chapter 15): counting in windows, the class actions, regions out of service, alarms,
notices and the FLT registers.
-/

namespace Sys2Proof.Machine

/-! ## Classes and sites (R448, R449) -/

/-- The actions a class permits. -/
def permitted (cls : Nat) : List Nat :=
  match cls with
  | 0 => [0, 1]
  | 1 => [0, 7, 8]
  | 2 => [0, 2]
  | 3 => [0, 3]
  | 4 => [0, 4]
  | 5 => [5]
  | 6 => [0, 6]
  | 8 => [0, 8]
  | 9 => [8]
  | _ => [0]

/-- Memory ID and line of an instance of classes 0 and 1. -/
def memIdOf (inst : BitVec 24) : Nat := bitsOf (inst.setWidth 32) 14 7
def lineOf (inst : BitVec 24) : Nat := bitsOf (inst.setWidth 32) 0 14

/-- Spare lines in use in a memory (R176). -/
def State.spares (s : State) (m : Nat) : Nat := (s.faults.lines.filter fun x => x.1 == m).length

/-- The error counters of a memory that has them (R196, R199, R275). -/
def State.countEcc (s : State) (m : Nat) (corrected : Bool) : State :=
  if m < 0x20 then s.satAdd (if corrected then F.memClecc_CORR else F.memClecc_UNCORR) 1 m
  else if m < 0x30 then s.satAdd (if corrected then F.memEcc_CORR else F.memEcc_UNCORR) 1 (m - 0x20)
  else if 0x40 ≤ m then s.satAdd (if corrected then F.peEstat_CORR else F.peEstat_UNCORR) 1 (m - 0x40)
  else s

/-! ## Alarms and notices (R453, R461) -/

/-- The alarm level of a code (1 MINOR, 2 MAJOR, 3 FATAL) is asserted with its cause class. -/
def State.alarm (s : State) (level cls : Nat) : State :=
  if level = 0 then s
  else
    let was := bitsOf (s.reg .fltAlm) (level - 1) 1
    let s1 := s.raise ⟨.fltAlm, level - 1, 1⟩
    let s2 := s1.setReg .fltAcause (putBits (s1.reg .fltAcause) (16 + 4 * level) 4 cls)
    if was = 0 then s2.pulse (0xAA0 + (level - 1)) else s2

/-- The FAULT_ACTION notice of an action. -/
def State.faultActionNotice (s : State) (cls : BitVec 4) (act : BitVec 4) (inst : BitVec 24) : State :=
  s.notice .faultUnit (s.faultQueue 0) (mkItem true 15 0xA (senderUnit 7) (cls ++ act ++ inst))

/-! ## Regions (R176, R390, R454 to R457) -/

/-- Spare lines of a memory (R162, R163). -/
def spareLines (m : Nat) : Nat := if m = 0x35 then 16 else if 0x40 ≤ m then 4 else 64

/-- A line is replaced by a spare; the last spare taken is told to the fault counters (R163, R176). Log entry 44 (DEDUCED). -/
def State.retireLine (s : State) (m line : Nat) : State :=
  if spareLines m ≤ s.spares m then s
  else
    let s1 := { s with faults := { s.faults with lines := s.faults.lines ++ [(m, line)] } }
    let n := s1.spares m
    let s2 :=
      if m < 0x20 then s1.setFld F.memClecc_SPARES n m
      else if m < 0x30 then s1.setFld F.memEcc_SPARES n (m - 0x20)
      else s1
    if n < spareLines m then s2
    else
      let s3 :=
        if m < 0x20 then s2.setFld F.memClecc_SPFULL 1 m
        else if m < 0x30 then s2.setFld F.memEcc_SPFULL 1 (m - 0x20)
        else s2
      s3.detect 10 m

/-- Pin group h is told of the loss of its hearth (R272). -/
def State.loseHearth (s : State) (h : HearthId) : State :=
  let s1 := (coreIds h).foldl (fun s c => s.retireCore c) s
  if s1.faults.hearths.contains h then s1 else { s1 with faults := { s1.faults with hearths := s1.faults.hearths ++ [h] } }

/-- A channel that is not at its safe states enters SAFE. -/
def State.makeSafe (s : State) (ch : Chan) : State := if (s.chan ch).st.isSafe then s else s.enterSafe ch .safe

/-- A lasting fault of the block (R457). Log entry 44 (DEDUCED). -/
def State.loseBlock (s : State) (cls : Nat) : State :=
  let s1 := s.threads.foldl (fun s kv => s.stopThread (BitVec.ofNat 9 kv.1)) s
  let s2 := (List.range 512).foldl (fun s c => s.makeSafe (BitVec.ofNat 9 c)) s1
  let s3 := { s2 with mirror := { s2.mirror with stopped := true }, faults := { s2.faults with block := true } }
  s3.alarm 3 cls

/-- The fault counters retire core c; with it goes its hearth, and with core 0 the block (R455). -/
def State.loseCore (s : State) (c : CoreId) (cls : Nat) : State :=
  let h := hearthOfCore c
  let s1 := s.retireCore c
  let s2 := if c.toNat % 4 = 0 || (coreIds h).all s1.coreRetired then s1.loseHearth h else s1
  if c = 0 then s2.loseBlock cls else s2

/-- The fault unit hands a bank to NONE; a handover that runs completes first (R454). -/
def State.loseBank (s : State) (b : BankId) : State :=
  let s1 := { s with faults := { s.faults with banks := s.faults.banks ++ [b] } }
  if (s.bank b).ho.isSome then s1
  else ({ s1 with banks := (s1.setBank b { s1.bank b with owner := s.ownerOf b }).banks }).beginHandover b false masterNone

/-- Every word of a lost quadrant's queues is out of service: its owner is no longer charged (R456). -/
def State.dropWords (s : State) (ws : List QWord) : State :=
  ws.foldl (fun s w =>
    let o := s.owner w.owner
    (s.setOwner w.owner { o with use := o.use - 1, fuse := if w.floor then o.fuse - 1 else o.fuse }).wakeOver w.owner) s

/-- A thread asleep on a queue or for a slot of quadrant k. -/
def Sleep.inQuad (x : Sleep) (k : Quadrant) : Bool :=
  match x with
  | .read q => quadrantOf q == k
  | .pushDepth q => quadrantOf q == k
  | .pushPool j => j == k
  | .pushOver j => j == k
  | _ => false

/-- The holders of notices. -/
def State.holders (s : State) : List Holder :=
  [.queueEngine, .stager, .temper, .faultUnit, .chainUnit] ++
    s.threads.map (fun kv => Holder.thread (BitVec.ofNat 9 kv.1)) ++
    s.channels.map (fun kv => Holder.channel (BitVec.ofNat 9 kv.1))

/-- Notices held for queues of a lost quadrant are dropped and counted. -/
def State.dropNotices (s : State) (k : Quadrant) : State :=
  s.holders.foldl (fun s h => match s.heldNotice h with
    | some n => if quadrantOf n.q = k then (s.setHeldNotice h none).satAdd F.fltStat_NDROP 1 else s
    | none => s) s

/-- Quadrant k is lost (R456). Log entry 44 (DEDUCED). -/
def State.loseQuad (s : State) (k : Quadrant) : State :=
  let lo := 4096 * k.toNat
  let qs := smKeepRange s.queues lo (lo + 4096)
  let words := (qs.map fun kv => kv.2.allWords).flatten
  let x := s.quad k
  let waiting := (x.waiters ++ x.claims).map (fun w => w.owner) ++
    (qs.map fun kv => (kv.2.depthWaiters ++ kv.2.served).map fun w => w.owner).flatten
  let keep := fun (n : Nat) (q : Queue) => if lo ≤ n ∧ n < lo + 4096 then { drops := q.drops } else q
  let s1 := { s with queues := smMap {} s.queues keep }
  let mine := fun (q : Nat) => decide (lo ≤ q) && decide (q < lo + 4096)
  let s2 := { s1.setQuad k { lost := true, held := x.held } with
    freed := s1.freed.filter fun y => y.1 != k
    qcyc := smMap none s1.qcyc fun q c => if mine q then none else c }
  let freed := (s.freed.filter fun y => y.1 == k).map fun y => y.2
  let slag := if k = 3 then ((s.queue slagQueue).packets.filter fun p => p.complete).length +
    (s.queue slagQueue).opened.isSome.toNat else 0
  let s3 := ((s2.satAdd F.qeSlaglost_COUNT slag).dropWords (words ++ freed)).dropNotices k
  let s4 := s3.threads.foldl (fun s kv =>
    if kv.2.sleep.inQuad k then s.wakeThread (BitVec.ofNat 9 kv.1) else s) s3
  let s5 := waiting.foldl (fun s o => s.retryOwner o) s4
  s5.releaseAllHeld k x.held.length

/-- The eight channels of a pin engine whose program memory failed. -/
def State.loseEngine (s : State) (e : EngineId) : State :=
  (List.range 8).foldl (fun s i =>
    let ch : Chan := e ++ BitVec.ofNat 3 i
    (s.makeSafe ch).setChFld F.peCerr_CODE peFetchCode.toNat ch)
    { s with faults := { s.faults with engines := s.faults.engines.filter (fun x => x != e) ++ [e] } }

/-- The region of a memory site is out of service (R454). Log entry 44 (DEDUCED). -/
def State.loseRegion (s : State) (m cls : Nat) : State :=
  if m < 0x20 then s.loseCore (BitVec.ofNat 5 m) cls
  else if m < 0x30 then s.loseBank (BitVec.ofNat 4 m)
  else if m < 0x34 then s.loseQuad (BitVec.ofNat 2 m)
  else if m < 0x36 then { s with faults := { s.faults with sigLost := true } }
  else if 0x40 ≤ m then s.loseEngine (BitVec.ofNat 6 m)
  else s

/-! ## Actions (R452) -/

/-- The region of a memory site is out of service already. -/
def State.regionOut (s : State) (m : Nat) : Bool :=
  if m < 0x20 then s.coreRetired (BitVec.ofNat 5 m)
  else if m < 0x30 then s.faults.banks.contains (BitVec.ofNat 4 m)
  else if m < 0x34 then (s.quad (BitVec.ofNat 2 m)).lost
  else if m < 0x36 then s.faults.sigLost
  else if 0x40 ≤ m then s.faults.engines.contains (BitVec.ofNat 6 m)
  else false

/-- The class action has already taken the instance out of service (R451). -/
def State.outOfService (s : State) (act : Nat) (inst : BitVec 24) : Bool :=
  match act with
  | 1 => s.faults.lines.contains (memIdOf inst, lineOf inst)
  | 2 => (s.lane (inst.setWidth 2)).st == .down
  | 3 => s.bit F.peFence_FENCED (inst.toNat % 512)
  | 4 => (s.chan (inst.setWidth 9)).st == .latched
  | 6 => s.coreRetired (inst.setWidth 5)
  | 7 => s.regionOut (memIdOf inst)
  | 8 => s.faults.block
  | _ => false

/-- The effect of an action on its instance. -/
def State.actEffect (s : State) (cls act : Nat) (inst : BitVec 24) : State :=
  match act with
  | 1 => s.retireLine (memIdOf inst) (lineOf inst)
  | 2 => s.laneFault (inst.setWidth 2)
  | 3 => s.fencePort (inst.setWidth 9) 1
  | 4 =>
    let ch : Chan := inst.setWidth 9
    (s.enterSafe ch .latched).report ch 0 5
  | 6 => s.loseCore (inst.setWidth 5) cls
  | 7 => s.loseRegion (memIdOf inst) cls
  | 8 => s.loseBlock cls
  | _ => s

/-- The class action: counted, its source pulses, its alarm is raised, its effect and its notice. -/
def State.act (s : State) (cls : BitVec 4) (inst : BitVec 24) : State :=
  let c := cls.toNat
  let a := s.fld F.fltScfg_ACTION c
  let s1 := ((s.satAdd F.fltScnt_ACTIONS 1 c).pulse (0xA90 + c)).alarm (s.fld F.fltScfg_ALM c) c
  let s2 := s1.actEffect c a inst
  if a = 0 || a = 5 then s2 else s2.faultActionNotice cls (BitVec.ofNat 4 a) inst

/-! ## Counting (R451) -/

/-- Tracking entries whose window has not expired, at TB0 time t. -/
def State.tracked (s : State) (t : Nat) : List Track :=
  s.faults.track.filter fun e => decide (t < e.w + 1000 * (s.fld F.fltScfg_WINDOW e.cls.toNat))

/-- An event that is counted in its window: the entry's new value, and an action when it reaches the threshold. -/
def State.track (s : State) (cls : BitVec 4) (inst : BitVec 24) : State :=
  let t := s.ns
  let live := s.tracked t
  let mine := fun (e : Track) => e.cls == cls && e.inst == inst
  let set := fun (l : List Track) => { s with faults := { s.faults with track := l } }
  match live.find? mine with
  | some e =>
    if s.fld F.fltScfg_THRESH cls.toNat ≤ e.n + 1 then (set (live.erase e)).act cls inst
    else set (live.map fun x => if mine x then { x with n := x.n + 1 } else x)
  | none =>
    if live.length < 256 then set (live ++ [⟨cls, inst, 1, t⟩])
    else ((set live).satAdd F.fltStat_TOVF 1).act cls inst

/-- An event of a class and instance at the fault counter unit. -/
def State.countEvent (s : State) (cls : BitVec 4) (inst : BitVec 24) : State :=
  let c := cls.toNat
  let s1 := (s.satAdd F.fltScnt_EVENTS 1 c).setReg .fltSlast (BitVec.ofNat 32 (2 ^ 31 + inst.toNat)) c
  let s2 := (s1.pulse (0xA80 + c)).alarm (s.fld F.fltScfg_ALM c) c
  if s2.outOfService (s.fld F.fltScfg_ACTION c) inst then s2
  else match s.fld F.fltScfg_THRESH c with
    | 0 => s2
    | 1 => s2.act cls inst
    | _ => s2.track cls inst

/-- An uncorrectable word of pin-engine memory faults the channel that fetches it: the one that the slot table names in this
cycle, when it runs and its PC lies in the line (R237, R238, R251). Log entry 70 (DEDUCED). -/
def State.fetchFault (s : State) (e : EngineId) (line : Nat) : State :=
  match (List.range 8).find? fun x => s.names e (s.cycle % 16) (BitVec.ofNat 3 x) with
  | none => s
  | some x =>
    let ch : Chan := e ++ BitVec.ofNat 3 x
    if (s.chan ch).st == .run && (s.chan ch).pc.toNat / 16 == line then s.chFault ch peFetchCode else s

/-- What an uncorrectable word does to its access: one of user memory faults the thread's access that finds it (R177), a pin
engine's the fetching channel. Log entry 70 (DEDUCED). -/
def State.errorFound (s : State) (m line : Nat) : State :=
  if m < 0x30 then { s with faults := { s.faults with found := s.faults.found ++ [(m, line)] } }
  else if 0x40 ≤ m then s.fetchFault (BitVec.ofNat 6 m) line
  else s

/-- A detected event reaches the unit: an event of the block's own units, or a check's. -/
def State.faultEvent (s : State) (cls : BitVec 4) (inst : BitVec 24) : State :=
  if 12 ≤ cls.toNat then s
  else
    let s1 := { s with faults := { s.faults with events := s.faults.events.erase (cls, inst) } }
    let s2 := if cls = 0 then s1.countEcc (memIdOf inst) true
      else if cls = 1 then (s1.countEcc (memIdOf inst) false).errorFound (memIdOf inst) (lineOf inst) else s1
    s2.countEvent cls inst

/-- FAULT_EVENT (R451). -/
def execFaultEvent (cls : BitVec 4) (inst : BitVec 24) (s : State) : Out := .next (s.faultEvent cls inst)

/-! ## Registers (R463, R464) -/

/-- A write of FLT.SCFG[s]. -/
def State.wrScfg (s : State) (w : Writer) (c : Nat) (v : Word) : State :=
  if !isBlock w then s.authorityFault w
  else if !(permitted c).contains (F.fltScfg_ACTION.get v) then s
  else if F.fltScfg_WINDOW.get v = 0 && decide (1 < F.fltScfg_THRESH.get v) then s
  else s.store w .fltScfg v c

/-- A write of FLT.INJ: GO enters an event. -/
def State.wrInj (s : State) (w : Writer) (v : Word) : State :=
  if !isBlock w then s.authorityFault w
  else if F.fltInj_GO.get v = 0 || bitsOf v 28 3 ≠ 0 || decide (11 < F.fltInj_CLASS.get v) then s
  else s.countEvent (BitVec.ofNat 4 (F.fltInj_CLASS.get v)) (BitVec.ofNat 24 (F.fltInj_INSTANCE.get v))

/-- FAULT_INJECT (R464). -/
def execFaultInject (w : Writer) (cls : BitVec 4) (inst : BitVec 24) (s : State) : Out :=
  .next (s.access w fun s => s.wrInj w (BitVec.ofNat 32 (2 ^ 31 + 2 ^ 24 * cls.toNat + inst.toNat)))

/-- SCNT_READ (R463). -/
def execScntRead (cls : BitVec 4) (s : State) : Out :=
  .next (if cls.toNat < 12 then s.readStored .fltScnt cls.toNat 0 else { s with answer := 0 })

/-- FLT.STAT as it reads. -/
def State.fltStatView (s : State) : Word := F.fltStat_TRACK.put (s.reg .fltStat) (s.tracked s.ns).length

/-- FLT_STAT_READ (R464). -/
def execFltStatRead (s : State) : Out :=
  .next (s.readOut .fltStat 0 0 s.fltStatView)

end Sys2Proof.Machine
end

