-- ==== Sys2Proof/Machine/EmberControl.lean ====
section
/-!
DEFINITION. The ember domain (chapter 17): the calendar and its setting, wake ports, the wake timer, the sentinel, and the
EMB registers, which change at ember ticks.
-/

namespace Sys2Proof.Machine

/-! ## The calendar (R492 to R495) -/

def leapYear (y : Nat) : Bool := y % 4 == 0 && (y % 100 != 0 || y % 400 == 0)

/-- The last day of a month (R493). -/
def lastDay (y m : Nat) : Nat :=
  if m = 2 then (if leapYear y then 29 else 28)
  else if m = 4 ∨ m = 6 ∨ m = 9 ∨ m = 11 then 30 else 31

/-- Leap years among 2000 to y - 1. -/
def leapsBefore (y : Nat) : Nat := (y - 1) / 4 + (y - 1) / 400 - (484 + (y - 1) / 100)

/-- Days from 2000-01-01 to a date. -/
def dayNumber (y m d : Nat) : Nat :=
  365 * (y - 2000) + leapsBefore y + ((List.range (m - 1)).map fun i => lastDay y (i + 1)).sum + (d - 1)

/-- ISO day of the week (R495). -/
def dayOfWeek (n : Nat) : Nat := 1 + (5 + n) % 7

/-- The date after a day ends. -/
def Ember.nextDay (e : Ember) : Ember :=
  if e.day < lastDay e.year e.month then { e with day := e.day + 1 }
  else if e.month < 12 then { e with month := e.month + 1, day := 1 }
  else { e with year := e.year + 1, month := 1, day := 1 }

/-- The second advances with its carries (R492). -/
def Ember.nextSecond (e : Ember) : Ember :=
  if e.sec < 59 then { e with sec := e.sec + 1 }
  else if e.min < 59 then { e with min := e.min + 1, sec := 0 }
  else if e.hour < 23 then { e with hour := e.hour + 1, min := 0, sec := 0 }
  else { e with hour := 0, min := 0, sec := 0 }.nextDay

/-- 2999-12-31 23:59:59 (R494). -/
def Ember.atEnd (e : Ember) : Bool :=
  e.year == 2999 && e.month == 12 && e.day == 31 && e.hour == 23 && e.min == 59 && e.sec == 59

/-- The wake timer counts a second (R500). -/
def State.timerSecond (s : State) : State :=
  let n := s.fld F.embWtimer_COUNT
  if n = 0 then s
  else { s.setFld F.embWtimer_COUNT (n - 1) with ember := { s.ember with timerDue := s.ember.timerDue || n == 1 } }

/-- The SUB wrap that is due takes effect; a set at the same tick discards it (R497). -/
def State.calSecond (s : State) : State :=
  let e := s.ember
  if !e.secDue || e.setDue then s
  else if e.atEnd then { s with ember := { e with sub := 0, secDue := false, calend := true } }
  else ({ s with ember := { e.nextSecond with sub := 0, secDue := false } }).timerSecond

/-- CALENDAR_SECOND (R492). -/
def execCalendarSecond (s : State) : Out := .next s.calSecond

/-! ## Setting the calendar (R496, R497) -/

/-- The first failure of a set, 0 for none. -/
def setFailure (v0 v1 : Word) : Nat :=
  let y := F.embSet1_YEAR.get v1
  let m := F.embSet1_MONTH.get v1
  let d := F.embSet1_DAY.get v1
  if y < 2000 ∨ 2999 < y then 1
  else if m = 0 ∨ 12 < m then 2
  else if d = 0 ∨ lastDay y m < d then 3
  else if 23 < F.embSet0_HOUR.get v0 then 4
  else if 59 < F.embSet0_MIN.get v0 then 5
  else if 59 < F.embSet0_SEC.get v0 then 6
  else 0

/-- A register of the ember domain with the writes on their way to it (R491). Log entry 45 (DEDUCED). -/
def State.embLatest (s : State) (k : RegKind) : Word :=
  s.ember.writes.foldl (fun v w => if w.2.1 = k.desc.base then w.2.2 else v) (s.reg k)

/-- A rejected set. -/
def State.rejectSet (s : State) (code : Nat) : State := (s.setFld F.embCalerr_ERR 1).setFld F.embCalerr_REASON code

/-- GO: the set is checked and rejected, or waits for its tick. -/
def State.calSet (s : State) : State :=
  let v0 := s.embLatest .embSet0
  let v1 := s.embLatest .embSet1
  let f := setFailure v0 v1
  if f ≠ 0 then s.rejectSet f
  else if s.ember.setPend.isSome then s.rejectSet 7
  else { s.setFld F.embCalerr_PEND 1 with ember := { s.ember with setPend := some (2, v0, v1) } }

/-- The set that is due applies. -/
def State.calApply (s : State) : State :=
  let e := s.ember
  match e.setPend with
  | some (0, v0, v1) =>
    let s1 := (s.setFld F.embCalerr_PEND 0).setFld F.embCalerr_REASON 0
    { s1 with ember := { e with
        year := F.embSet1_YEAR.get v1, month := F.embSet1_MONTH.get v1, day := F.embSet1_DAY.get v1
        hour := F.embSet0_HOUR.get v0, min := F.embSet0_MIN.get v0, sec := F.embSet0_SEC.get v0
        sub := 0, valid := true, calend := false, setPend := none, setDue := false, secDue := false } }
  | _ => s

/-- CALENDAR_SET_APPLY (R497). -/
def execCalendarSetApply (s : State) : Out := .next s.calApply

/-! ## Register writes (R491, R505, R506) -/

/-- A write of an EMB register is accepted as a whole (R11, R499, R505). -/
def embWriteOk (k : RegKind) (v : Word) : Bool :=
  match k with
  | .embSet0 => F.embSet0_DOW.get v == 0
  | .embSet1 => F.embSet1_VALID.get v == 0 && F.embSet1_CALEND.get v == 0
  | .embWcfg => decide (F.embWcfg_MODE.get v < 5)
  | _ => true

/-- A write of an EMB register: it takes effect at the second tick from now. -/
def State.wrEmb (s : State) (w : Writer) (k : RegKind) (i : Nat) (v : Word) : State :=
  if !isBlock w then s.authorityFault w
  else if k = .embCalcmd then (if v = 0x80000000 then s.calSet else s)
  else if !embWriteOk k v then s
  else
    let v1 := if w = .boot then recordFields k.desc s.boot.seald 0 v else v
    { s with ember := { s.ember with writes := s.ember.writes ++ [(2, regOff k i 0, v1)] } }

/-- CALENDAR_SET (R496). -/
def execCalendarSet (w : Writer) (s : State) : Out := .next (s.access w fun s => s.wrEmb w .embCalcmd 0 0x80000000)

/-- A write reaches its tick; a mode change restarts its port's count (R499). -/
def State.embApply (s : State) (off : Nat) (v : Word) : State :=
  match locate off with
  | none => s
  | some (k, i, j) =>
    let was := s.fld F.embWcfg_MODE i
    let s1 := s.setReg k (writeFields k.desc true (s.reg k i j) (s.setNow k i j) v) i j
    if k = .embWcfg && F.embWcfg_MODE.get v != was then
      { s1 with ember := { s1.ember with filt := smSet 0 s1.ember.filt i 0 } }
    else s1

/-- Pending writes one tick nearer; those due apply in order. -/
def State.embWrites (s : State) : State :=
  let ws := s.ember.writes.map fun w => (w.1 - 1, w.2)
  let due := ws.filter fun w => w.1 == 0
  let s1 := { s with ember := { s.ember with writes := ws.filter fun w => w.1 != 0 } }
  due.foldl (fun s w => s.embApply w.2.1 w.2.2) s1

/-! ## Wake ports and timer (R499, R500) -/

/-- One sample of wake port p: the consecutive samples counted, and whether a wake is recognised. -/
def wakeSample (mode filt count : Nat) (high : Bool) : Nat × Bool :=
  let n := if filt = 0 then 1 else filt
  match mode with
  | 1 => if high then (0, false) else (min 256 (count + 1), count + 1 == n)
  | 3 => if high then (0, false) else (min 256 (count + 1), count + 1 == n)
  | 2 => if high then (min 256 (count + 1), count + 1 == n) else (0, false)
  | 4 => if high then (0, decide (max 4 n ≤ count)) else (min 256 (count + 1), false)
  | _ => (0, false)

/-- Port p is sampled at an ember tick. -/
def State.wakePort (s : State) (p : Nat) (high : Bool) : State :=
  let r := wakeSample (s.fld F.embWcfg_MODE p) (s.fld F.embWcfg_FILT p) (smGet 0 s.ember.filt p) high
  let e := { s.ember with filt := smSet 0 s.ember.filt p r.1 }
  { s with ember := if r.2 then { e with wakeDue := e.wakeDue ++ [BitVec.ofNat 5 p] } else e }

/-- A wake that its port completed is recognised. -/
def State.wakeSeen (s : State) (p : BitVec 5) : State :=
  if s.ember.wakeDue.contains p then
    let s1 := s.setReg .embWstat (putBits (s.reg .embWstat) p.toNat 1 1)
    { s1 with ember := { s1.ember with wakeDue := s1.ember.wakeDue.erase p } }
  else s

/-- WAKE_RECOGNISED (R499). -/
def execWakeRecognised (p : BitVec 5) (s : State) : Out := .next (s.wakeSeen p)

/-- The timer has reached 0 (R500). -/
def State.timerFired (s : State) : State :=
  if s.ember.timerDue then { s.setFld F.embWtimer_FIRED 1 with ember := { s.ember with timerDue := false } } else s

/-- WAKE_TIMER_FIRED (R500). -/
def execWakeTimerFired (s : State) : Out := .next s.timerFired

/-- EMB_WAKE, the wake request to the power manager (R500). -/
def State.embWake (s : State) : Bool := s.reg .embWstat != 0 || s.bit F.embWtimer_FIRED

/-! ## The ember tick (R492) -/

/-- What an earlier tick left due takes effect. Log entry 45 (DEDUCED). -/
def State.embSettle (s : State) : State :=
  let s1 := s.calApply.calSecond
  (s1.ember.wakeDue.foldl (fun s p => s.wakeSeen p) s1).timerFired

/-- SUB counts a tick; its wrap is due until CALENDAR_SECOND. -/
def Ember.count (e : Ember) : Ember :=
  if !e.valid || e.calend then e
  else if e.sub < 32767 then { e with sub := e.sub + 1 } else { e with secDue := true }

/-- An accepted set one tick nearer. -/
def Ember.setTick (e : Ember) : Ember :=
  match e.setPend with
  | some (n + 1, v0, v1) => { e with setPend := some (n, v0, v1), setDue := n == 0 }
  | _ => e

/-- EMBER_TICK (R492): the levels of ports 0 to 31 after their synchronisers. -/
def State.emberTick (s : State) (pins : BitVec 32) : State :=
  let s1 := s.embSettle
  let s2 := { s1 with ember := { s1.ember.count.setTick with clkstop := false, lastTick := s1.ns } }
  (List.range 32).foldl (fun s p => s.wakePort p (pins.getLsbD p)) s2.embWrites

def execEmberTick (pins : BitVec 32) (s : State) : Out := .next (s.emberTick pins)

/-- EMBER_CLOCK_STOP (R503): no tick for 1 ms. -/
def execEmberClockStop (s : State) : Out :=
  .next (if s.ember.lastTick + 1000000 ≤ s.ns then { s with ember := { s.ember with clkstop := true } } else s)

/-! ## The sentinel (R501, R502) -/

def Ember.sentinelGood (e : Ember) : Bool := e.sentA == 0x454D4252 && e.sentB == 0xBAB2BDAD

/-- All ember content is lost. Log entry 45 (DEDUCED). -/
def State.emberLoss (s : State) : State :=
  let e := s.ember
  let s1 := { s with regs := smDropRange s.regs 0x1A0000 0x1B0000
                     ember := { retok := e.retok, lastTick := e.lastTick } }
  (s1.setFld F.embStat_CAL_LOST 1).setFld F.embStat_EMB_LOST 1

def State.sentinelCheck (s : State) : State := if s.ember.sentinelGood then s else s.emberLoss

/-- RETOK_FALL (R502). -/
def execRetokFall (s : State) : Out :=
  .next { s with ember := { s.ember with retok := false, sentA := 0, sentB := 0 } }

/-- RETOK_RISE (R501). -/
def execRetokRise (s : State) : Out := .next ({ s with ember := { s.ember with retok := true } }).sentinelCheck

/-! ## Views (R504, R505) -/

def State.cal0View (s : State) : Word :=
  let e := s.ember
  F.embCal0_DOW.put (F.embCal0_HOUR.put (F.embCal0_MIN.put (F.embCal0_SEC.put 0 e.sec) e.min) e.hour)
    (dayOfWeek (dayNumber e.year e.month e.day))

def State.cal1View (s : State) : Word :=
  let e := s.ember
  F.embCal1_VALID.put (F.embCal1_CALEND.put (F.embCal1_YEAR.put (F.embCal1_MONTH.put (F.embCal1_DAY.put 0 e.day) e.month)
    e.year) e.calend.toNat) e.valid.toNat

def State.cal2View (s : State) : Word := F.embCal2_SUB.put 0 s.ember.sub

def State.embStatView (s : State) : Word :=
  F.embStat_RETOK.put (F.embStat_CLKSTOP.put (s.reg .embStat) s.ember.clkstop.toNat) s.ember.retok.toNat

/-- CAL0_READ (R497): CAL1 and CAL2 are latched for the reading master. -/
def State.readCal0 (s : State) (mst : Master) : State :=
  { s with answer := s.cal0View.setWidth 64
           latches := smSet 0 (smSet (latchReset 8 0) s.latches (latchKey mst 8 0) s.cal1View) (latchKey mst 8 1) s.cal2View }

def execCal0Read (mst : Master) (s : State) : Out := .next (s.readCal0 mst)

end Sys2Proof.Machine
end

