-- ==== Sys2Proof/Machine/BootOps.lean ====
section
/-!
DEFINITION. Resets (R465, R466, R484, R485, R508, R524): what each kind leaves, the requests of BOOT.CTL, the releases of
masters, and a boot that fails.
-/

namespace Sys2Proof.Machine

/-! ## Failure and alarms (R483) -/

/-- A boot that fails: FATAL is asserted; no fault class is its cause. -/
def State.bootFail (s : State) (err sec : Byte) : State :=
  let was := s.bit F.fltAlm_FATAL
  let s1 := { s.setFld F.fltAlm_FATAL 1 with boot := { s.boot with stage := .failed, err := err, errsec := sec } }
  if was then s1 else s1.pulse 0xAA2

def errNoCopy : Byte := 1
def errSectionCrc : Byte := 2
def errSectionFormat : Byte := 3
def errFlash : Byte := 4
def errSeal : Byte := 5
def errLifecycle : Byte := 6
def errCoreCrc : Byte := 7

/-- The LC_STATE value counts as END (R540). Log entry 46 (DEDUCED). -/
def lcEnd (lc : BitVec 3) : Bool := !(lc == 1 || lc == 2 || lc == 4 || lc == 6)

/-! ## Pool counts (R215) -/

/-- The floors of the owners whose home is quadrant k. -/
def State.floors (s : State) (k : Nat) : Nat :=
  ((smKeepRange s.regs 0xC8000 0xD0070).map fun kv =>
    let o := (kv.1 - 0xC8000) / 16
    if kv.1 % 16 = 0 && s.homeOf (BitVec.ofNat 12 o) == k then F.qeOwnlim_FLOOR.get kv.2 else 0).sum

/-- FREE(k) of every quadrant in service starts at 65,536 less its floors.  Waiters registered before the seal wait on until
a shared slot is freed (R215, R216): log entry 75 (DESIGN CHOICE). -/
def State.fillPools (s : State) : State :=
  (List.range 4).foldl (fun s i =>
    let k := BitVec.ofNat 2 i
    let x := s.quad k
    if x.lost then s else s.setQuad k { x with free := 65536 - s.floors i }) s

/-! ## Threads and cores (R69, R134, R466) -/

/-- The registers of a thread after a reset that keeps the billet's values, in the next epoch.  Raises held by the thread end
with it although a waiter of another hearth may still wait for it (R142, R466): log entry 75 (DESIGN CHOICE). -/
def Thread.reset (th : Thread) (t : Tid) : Thread :=
  { prio := th.prio, cls := th.cls, clsNext := th.clsNext, hnote := th.hnote, service := th.service
    epoch := th.epoch + 1, wign := th.wign, roleRej := th.roleRej
    faultCode := th.faultCode, faultValid := th.faultValid, notice := th.notice
    pc := if t = masterOf (coreOf t) then th.imgPc else 0, tp := th.imgTp, imgPc := th.imgPc, imgTp := th.imgTp
    issued := th.issued, waited := th.waited }

/-- Reset one thread, with the purge of its role. Log entry 24 (DEDUCED). -/
def State.resetThread (s : State) (t : Tid) : State :=
  let s1 := (s.dropSleep t).dropOpen (.thread t)
  (s1.setThr t ((s1.thr t).reset t)).purgeRole t (s1.cycle + 1)

/-- Reset the machinery of a core and set its prediction mode.  Stores that have left the pipeline go on (R561), but those to a
core-local memory that a hearth reset clears.  DIRTY, PEND and a pending commit with its snapshot stand as they were (R35,
R466): log entry 75 (DESIGN CHOICE).  Log entry 24 (DEDUCED). -/
def State.resetCore (s : State) (c : CoreId) (m : PredMode) : State :=
  let x := s.core c
  let goesOn := fun (e : SbEntry) => m != .recovery || !(decide (coreMemBase c ≤ e.addr) && decide (e.addr < coreMemBase c + 0x40000))
  s.setCore c { sbuf := x.sbuf.filter goesOn, inflight := x.inflight.filter goesOn
                commitAt := x.commitAt, snap := x.snap, wrote := x.wrote, snapAt := x.snapAt, loaded := x.loaded, release := x.release,
                nospecNext := x.nospecNext, mode := m, modeBefore := m }

def allCores : List CoreId := (List.range 32).map fun i => BitVec.ofNat 5 i

/-! ## Cold reset and reload (R466, R508) -/

/-- A port whose input level is known and nothing else. -/
def freshPort (inp : Bool) (c : Nat) : PortSt :=
  if inp then { inp := true, hist := [⟨c, false, false, true⟩] } else {}

/-- What lies outside the block survives its reset: input levels, ember content, signal and acknowledgement inputs, and
the commands that wait. Log entry 47 (DEDUCED). -/
def State.blank (s : State) (c : Nat) : State :=
  { State.reset with
    regs := [(0x141000, 0xAAAAAAAB), (0x190104, 0xFFF00000)] ++ smKeepRange s.regs 0x1A0000 0x1B0000
    ports := smMap {} s.ports fun _ p => freshPort p.inp c
    lanes := smMap {} s.lanes fun _ l => { sig := l.sig }
    domains := smMap {} s.domains fun _ d => { pdAck := d.pdAck }
    ember := { s.ember with lastTick := 0 }
    soc := { tamper := s.soc.tamper, lc := s.soc.lc }
    answer := s.answer, seq := s.seq, fresh := s.fresh, pending := s.pending }

/-- The release of a reset that re-reads the billet: straps, BOOT_HOLD and LC_STATE are sampled (R467, R477, R481). -/
def State.startRom (s : State) (straps : Byte) (hold : Bool) (lc : BitVec 3) : State :=
  let s1 := s.setFld F.bootStrap_BOOT_CFG straps.toNat
  let s2 := { s1 with boot := { s1.boot with hold := hold, since := s1.ns }, soc := { s1.soc with lc := lc } }
  if lcEnd lc then s2.bootFail errLifecycle 0 else s2

/-- COLD_RESET (R508): RST_N has been low and is released. -/
def execColdReset (straps : Byte) (hold : Bool) (lc : BitVec 3) (s : State) : Out :=
  .next ((s.blank 0).sentinelCheck.startRom straps hold lc)

/-- A block that drives its shared ports holds them and drops PARTNER_OK out as such a reset begins (R485): its role is
OFF from then on. -/
def State.pairDown (s : State) : State := ({ s with mirror := {} }).refreshHold

/-- Threads after a reload: the epochs go on. -/
def State.nextEpochs (s : State) : SMap Thread :=
  (List.range 512).map fun n =>
    (n, { epoch := (s.thr (BitVec.ofNat 9 n)).epoch + 1, roleBusy := some (s.cycle + 1025) })

/-- A reload applies: as a cold reset, but TB0, T0INC, epochs, the count of reloads, HERR and the excluded copy stay.
Log entry 47 (DEDUCED). -/
def State.doReload (s : State) (source : Nat) (straps : Byte) (hold : Bool) (lc : BitVec 3) : State :=
  let b := s.blank s.cycle
  let s1 := { b with
    cycle := s.cycle, tbSum := s.tbSum, tbEra := s.tbEra, incNow := s.incNow, threads := s.nextEpochs
    hearths := (List.range 8).foldl (fun hs h => smSet {} hs h { epoch := s.cycle / 65536 }) [], ember := s.ember
    soc := { s.soc with reqs := [], held := [], raised := [], arb := {}, due := none, bootGo := false }
    boot := { excluded := s.boot.excluded, fallback := s.boot.fallback, lastErr := s.boot.lastErr
              lastSec := s.boot.lastSec } }
  let s2 := (s1.setReg .tbT0inc (s.reg .tbT0inc)).setFld F.bootHstat_HERR (s.fld F.bootHstat_HERR)
  let s3 := s2.setFld F.bootCause_RELOADS (min 65535 (s.fld F.bootCause_RELOADS + 1))
  let s4 := (s3.setFld F.bootCause_SOURCE source).setFld F.bootCause_KIND 1
  (s4.setFld F.bootCause_HEARTH (s.fld F.bootCause_HEARTH)).startRom straps hold lc

/-! ## Releases (R478, R481) -/

/-- Thread 0 of every core whose CORE section has REL, critical or not as told, is released. -/
def State.releaseRel (s : State) (crit rest : Bool) : State :=
  s.boot.table.foldl (fun s e =>
    let c := BitVec.ofNat 5 e.inst.toNat
    if e.type = 3 && e.flags.getLsbD 1 && (if e.flags.getLsbD 0 then crit else rest) then
      (s.wakeDomain (coreDomain c)).release (masterOf c)
    else s) s

/-- The first cycle in HOLD with DVALID and BOOT_GO (R481). -/
def State.tryGo (s : State) : State :=
  if s.boot.stage == .hold && s.boot.dvalid && s.soc.bootGo then
    { s with boot := { s.boot with stage := .run } }.releaseRel true true
  else s

/-! ## Warm reset (R466, R478) -/

/-- Every queue and pool count is emptied. Log entry 49 (DEDUCED). -/
def State.emptyQueues (s : State) : State :=
  let s1 := { s with queues := [], owners := [], quads := smMap {} s.quads fun _ k => { lost := k.lost }
                     qcyc := [], freed := []
                     rings := smMap {} s.rings fun _ r => { phase := r.phase, stopped := r.stopped } }
  s1.fillPools

/-- Non-pinned directory lines are discarded and DIRON is 0. -/
def State.dropDirectory (s : State) : State :=
  { s.setFld F.sigCfg_DIRON 0 with
    cache := s.cache.filter fun kv => match kv.2 with | some x => x.pinned | none => false
    sigPackets := [], sigOut := [], fills := [], writeBacks := [], pinWrite := none }

/-- Threads and cores of a warm reset. -/
def State.warmThreads (s : State) : State :=
  let s1 := (List.range 512).foldl (fun s n =>
    s.setThr (BitVec.ofNat 9 n) { (s.thr (BitVec.ofNat 9 n)).reset (BitVec.ofNat 9 n) with roleBusy := some (s.cycle + 1025) })
    { s with watches := [] }
  allCores.foldl (fun s c => s.resetCore c .service) s1

/-- Channels, staged and pending actions and tasks of a warm reset. -/
def State.warmPins (s : State) : State :=
  let s1 := (List.range 512).foldl (fun s c => s.makeSafe (BitVec.ofNat 9 c)) { s with pend := [] }
  let off := fun (_ : Nat) (x : Task) => { x with cfg := F.tskCfg_EN.put x.cfg 0, running := false, held := none }
  { s1 with tasks := smMap {} s1.tasks off }

/-- A warm reset applies, and releases every REL master. Log entry 49 (DEDUCED). -/
def State.doWarm (s : State) : State :=
  let s1 := { s with soc := { s.soc with reqs := [], held := [], raised := [], arb := {}, due := none } }
  let s2 := s1.warmThreads.emptyQueues.warmPins.dropDirectory.pairDown
  let s3 := (s2.setFld F.bootCause_SOURCE 1).setFld F.bootCause_KIND 2
  if s3.boot.stage == .hold then s3 else s3.releaseRel true true

/-! ## Hearth reset (R484) -/

/-- The threads that own words which others wait for in WAITEV get ORPHAN notices (R144, R466). -/
def State.orphanNotices (s : State) (h : HearthId) : State :=
  s.watches.foldl (fun s w =>
    match s.ownerAt w.addr with
    | none => s
    | some o =>
      if hearthOf o = h && !w.woken then
        s.notice (.thread o) (s.faultQueue (coreOf o).toNat) (mkItem true 15 5 (senderThread o) (BitVec.ofNat 32 w.addr))
      else s) s

/-- What a hearth reset leaves at the shared ports and in the fault unit: the credits of the hearth's nodes are 0, and its
cleared core-local memories hold no uncorrectable word. -/
def State.clearHearth (s : State) (h : HearthId) : State :=
  { s with soc := { s.soc with arb := s.soc.arb.resetHearth h }
           quads := smMap {} s.quads fun _ k => { k with arb := k.arb.resetHearth h }
           faults := { s.faults with found := s.faults.found.filter fun x => x.1 / 4 != h.toNat } }

/-- A hearth reset begins. Log entry 48 (DEDUCED). -/
def State.startHearth (s : State) (h : HearthId) (source : Nat) : State :=
  let s0 := s.wakeDomain h.toNat
  let s1 := if s0.faults.hearths.contains h then s0
    else { s0 with faults := { s0.faults with hearths := s0.faults.hearths ++ [h] } }
  let s2 := (coreIds h).foldl (fun s c => (threadsOf c).foldl (fun s t => s.resetThread t) (s.resetCore c .recovery)) s1
  let sd := if s2.bit F.sigCfg_DIRON then (s2.setFld F.sigCfg_DIRON 0).directoryOff else s2
  let lo := 0x01000000 + 0x100000 * h.toNat
  let s3 := { sd.clearHearth h with mem := clearRange sd.mem lo (lo + 0x100000) }
  let s4 := s3.setReg .belHstat (putBits (s3.reg .belHstat h.toNat) 28 4 0) h.toNat
  let s5 := (s4.setFld F.bootHstat_BUSY 1).setFld F.bootHstat_HEARTH h.toNat
  let s6 := ((s5.setFld F.bootCause_HEARTH h.toNat).setFld F.bootCause_SOURCE source).setFld F.bootCause_KIND 3
  { s6 with boot := { s6.boot with hearth := some h } }.orphanNotices h

/-! ## Requests (R465, R487, R524) -/

/-- A request that is ignored sets HERR. -/
def State.resetIgnored (s : State) : State := s.raise F.bootHstat_HERR

/-- A reset that needs no response of the system master port any more applies. Log entry 47 (DEDUCED). -/
def State.settleReset (s : State) : State :=
  if !s.soc.reqs.isEmpty then s
  else match s.soc.due with
    | none => s
    | some (.reload src straps hold lc) => s.doReload src straps hold lc
    | some .warm => s.doWarm

/-- A reset waits for the outstanding responses (R524); a mirrored block holds its shared ports at once (R485).
Log entry 47 (DEDUCED). -/
def State.resetDue (s : State) (d : ResetDue) : State :=
  ({ s.pairDown with soc := { s.soc with due := some d } }).settleReset

/-- A reload is running: requested, or loading after one. -/
def State.reloading (s : State) : Bool :=
  (match s.soc.due with | some (.reload _ _ _ _) => true | _ => false) ||
    (s.fld F.bootCause_KIND == 1 && s.boot.stage != .hold && s.boot.stage != .run && s.boot.stage != .failed)

/-- A request for a reload, with its source code (R486) and the pins as sampled at its release. -/
def State.requestReload (s : State) (source : Nat) (straps : Byte) (hold : Bool) (lc : BitVec 3) : State :=
  if s.reloading then s.resetIgnored else s.resetDue (.reload source straps hold lc)

/-- A reset that keeps the seal is accepted. -/
def State.resetsOpen (s : State) : Bool := s.boot.seald && !s.bit F.fltAlm_FATAL

def State.requestWarm (s : State) : State := if s.resetsOpen then s.resetDue .warm else s.resetIgnored

def State.requestHearth (s : State) (h : HearthId) (source : Nat) : State :=
  if s.resetsOpen && h != 0 && s.boot.hearth.isNone then s.startHearth h source else s.resetIgnored

/-- The source code of a writer of BOOT.CTL (R486, R541). -/
def ctlSource (w : Writer) : Nat := match w with | .debug => 3 | _ => 1

/-- A write of BOOT.CTL. -/
def State.wrBootCtl (s : State) (w : Writer) (v : Word) : State :=
  if !isBlock w then s.authorityFault w
  else if bitsOf v 3 26 ≠ 0 then s
  else match bitsOf v 29 3 with
    | 4 =>
      let p := s.bootPins
      p.2.requestReload (ctlSource w) p.1.1 p.1.2 p.2.soc.lc
    | 2 => s.requestWarm
    | 1 => s.requestHearth (BitVec.ofNat 3 (F.bootCtl_HEARTH.get v)) (ctlSource w)
    | _ => s

/-- The debug access port may write BOOT.CTL.RELOAD in this life-cycle state (R542). -/
def State.debugReloads (s : State) : Bool := !lcEnd s.soc.lc

/-- The service page accepts reloads (R555). -/
def State.serviceOpen (s : State) : Bool := s.bit F.hstSvccfg_RLDEN

/-- RELOAD (R465): by BOOT.CTL, the debug access port or the service page; a fallback comes from a section's failure.
Log entry 47 (DEDUCED). -/
def execReload (src : ReloadSource) (straps : Byte) (hold : Bool) (lc : BitVec 3) (s : State) : Out :=
  match src with
  | .bootCtl (.thread t) =>
    .next (if t = blockSupervisor then s.requestReload 1 straps hold lc else s.authorityFault (.thread t))
  | .bootCtl .boot => .next s
  | .bootCtl .debug => .next (if s.debugReloads then s.requestReload 3 straps hold lc else s).dpReply
  | .debugPort => .next (if s.debugReloads then s.requestReload 3 straps hold lc else s).dpReply
  | .service => .next (if s.serviceOpen then s.requestReload 2 straps hold lc else s)
  | .fallback => .next s

/-- WARM_RESET (R465). -/
def execWarmReset (w : Writer) (s : State) : Out := .next (s.access w fun s => s.wrBootCtl w 0x40000000)

/-- HEARTH_RESET (R484). -/
def execHearthReset (w : Writer) (h : HearthId) (s : State) : Out :=
  .next (s.access w fun s => s.wrBootCtl w (0x20000000 + h.setWidth 32))

/-- SERVICE_RELOAD_REQUEST (R555): a write of the service page's REQ word. -/
def execServiceReloadRequest (full32 : Bool) (v : Word) (straps : Byte) (hold : Bool) (lc : BitVec 3) (s : State) : Out :=
  .next (if full32 && bitsOf v 16 16 == 0xA5C3 && bitsOf v 0 16 == 1 && s.serviceOpen then
      s.hostReply.requestReload 2 straps hold lc
    else (s.satAdd F.hstHerr_ERR 1).hostReply)

end Sys2Proof.Machine
end

