-- ==== Sys2Proof/Machine/RegAccess.lean ====
section
/-!
DEFINITION. Register accesses by address (R548, R549, R558): what a write of any register does, what a read of any register
answers, the translation windows, and the accesses of the host port (R553, R554) and of the fabric ports (R517, R552).
-/

namespace Sys2Proof.Machine

/-! ## Writes, unit by unit -/

/-- A write of a register whose writer must be the block supervisor and whose fields simply take it. -/
def State.wrBlock (s : State) (w : Writer) (k : RegKind) (i j : Nat) (v : Word) : State :=
  if !isBlock w then s.authorityFault w else s.store w k v i j

/-- Write-one-to-clear flags without a stated writer. -/
def State.wrFlags (s : State) (w : Writer) (k : RegKind) (i j : Nat) (v : Word) : State := s.store w k v i j

/-- A write of THR.STAT or THR.FAULT: the flags of R154 and R155, which a record leaves alone (R473). -/
def State.wrThrFlags (s : State) (w : Writer) (k : RegKind) (t : Tid) (v : Word) : State :=
  let th := s.thr t
  let now := s.setNow k t.toNat
  if !overCore w (coreOf t) then s.authorityFault w
  else match w with
    | .boot => s
    | _ =>
      if k == .thrFault then s.setThr t { th with faultValid := flagAfter th.faultValid F.thrFault_VALID v now }
      else s.setThr t { th with wign := flagAfter th.wign F.thrStat_WIGN v now
                                roleRej := flagAfter th.roleRej F.thrStat_ROLEREJ v now }

/-- The SLT and THR units. -/
def State.wrCoreUnit (s : State) (w : Writer) (k : RegKind) (i j : Nat) (v : Word) : State :=
  let c := BitVec.ofNat 5 i
  let t := BitVec.ofNat 9 i
  match k with
  | .sltTab => s.wrSltTab w c j v
  | .sltAct => match w with
    | .boot => (s.store w .sltAct v i j).setCore (BitVec.ofNat 5 i) { s.core (BitVec.ofNat 5 i) with loaded := true }
    | _ => if overCore w c then s else s.authorityFault w
  | .sltCtl => s.wrSltCtl w c v
  | .sltPred => s.wrSltPred w c v
  | .sltStat => if overCore w c then s else s.authorityFault w
  | .sltIdlecnt => if overCore w c then s else s.authorityFault w
  | .sltSqcnt => if overCore w c then s else s.authorityFault w
  | .thrPc => s.wrThr w t .pc v
  | .thrA => s.wrThr w t .a v
  | .thrX => s.wrThr w t .x v
  | .thrY => s.wrThr w t .y v
  | .thrTp => s.wrThr w t .tp v
  | .thrRole => s.wrThr w t .role v
  | .thrCfg => s.wrThrCfg w t v
  | .thrCtl => s.wrThrCtl w t v
  | .thrStat => s.wrThrFlags w .thrStat t v
  | .thrFault => s.wrThrFlags w .thrFault t v
  | .thrFq => s.wrBlock w .thrFq i 0 v
  | _ => s

/-- The BLK, LCK and MEM units. -/
def State.wrMemUnit (s : State) (w : Writer) (k : RegKind) (i j : Nat) (v : Word) : State :=
  let c := BitVec.ofNat 5 i
  let b := BitVec.ofNat 4 i
  match k with
  | .blkNodeid => s.wrBlock w k i j v
  | .lckFaddr => s.wrFaddr w c v
  | .lckFcmd => s.wrFcmd w c v
  | .lckFstat => if ownSet w c then s else s.authorityFault w
  | .memBcfg => s.wrBcfg w b v
  | .memHandover =>
    if F.memHandover_GO.get v = 0 then s
    else s.handover w b (F.memHandover_WIPE.get v == 1) (BitVec.ofNat 6 (F.memHandover_NEWOWNER.get v))
  | .memRet => s.wrRet w b v
  | .memOwner => match w with
    | .boot =>
      if badOwner (F.memOwner_OWNER.get v) then s.raise F.memOwner_HOERR b.toNat
      else s.setBank b { s.bank b with owner := BitVec.ofNat 6 (F.memOwner_OWNER.get v) }
    | _ => s.wrFlags w k i j v
  | .memWipe => s.wrFlags w k i j v
  | _ => s

/-- The QE unit. -/
def State.wrQueueUnit (s : State) (w : Writer) (k : RegKind) (i j : Nat) (v : Word) : State :=
  let q := BitVec.ofNat 14 i
  let o := BitVec.ofNat 12 i
  match k with
  | .qeQcfg => s.wrQcfg w q v
  | .qeQlevel => s.wrQueueReg w k q v
  | .qeQevt => s.wrQueueReg w k q v
  | .qeFlush => s.wrFlush w v
  | .qeOwnlim => s.wrOwnlim w o v
  | .qeOwncfg => s.wrBlock w k i j v
  | .ringBasel => s.wrRingBase w k i v
  | .ringBaseh => s.wrRingBase w k i v
  | .ringCfg => s.wrRingCfg w (BitVec.ofNat 10 i) v
  | .ringStat => s.wrFlags w k i j v
  | _ => s

/-- The PE unit. -/
def State.wrPinUnit (s : State) (w : Writer) (k : RegKind) (i j : Nat) (v : Word) : State :=
  let e := BitVec.ofNat 6 i
  let ch : Chan := BitVec.ofNat 9 (8 * i + j)
  let p := BitVec.ofNat 9 i
  match k with
  | .peCst => s.wrCst w e j v
  | .peCsa => match w with
    | .boot => s.store w .peCsa v i j
    | _ => s
  | .peEctl => s.wrEctl w e v
  | .pePmaddr => if overEngine w e then s.store w k v i j else s.authorityFault w
  | .pePmdata => s.wrPmdata w e v
  | .peEstat => s
  | .pePad => s.wrPort w k p v
  | .peSamp => s.wrPort w k p v
  | .peRbk => s.wrPort w k p v
  | .peStuff => s.wrPort w k p v
  | .peCrcpa => s.wrPort w k p v
  | .peCrcpb => s.wrPort w k p v
  | .peCrcia => s.wrPort w k p v
  | .peCrcib => s.wrPort w k p v
  | .peCrccfg => s.wrPort w k p v
  | .peTscfg => s.wrPort w k p v
  | .peFence => s.wrPort w k p v
  | .pePstat => s
  | _ => s.wrChannel w k ch v

/-- Whether a writer may use posting port t: thread t alone; the debug port acts as thread 0. Log entry 24 (DEDUCED). -/
def ownPort (w : Writer) (t : Tid) : Bool :=
  match w with
  | .thread u => u == t
  | .debug => t == 0
  | .boot => true

/-- The TB, TSK and EVM units. -/
def State.wrTimeUnit (s : State) (w : Writer) (k : RegKind) (i j : Nat) (v : Word) : State :=
  let n := BitVec.ofNat 4 i
  let t := BitVec.ofNat 9 i
  let post := fun (s : State) => if ownPort w t then s.store w k v i j else s.authorityFault w
  match k with
  | .tbCfg => s.wrTb w k n v
  | .tbMon => s.wrTb w k n v
  | .tbServo => s.wrTb w k n v
  | .tbPred => s.wrTb w k n v
  | .tbRange => s.wrTb w k n v
  | .tbObsto => s.wrTb w k n v
  | .tbStat => if i = 0 then s else s.wrFlags w k i j v
  | .tbRefcfg => s.wrRef w k n (BitVec.ofNat 2 j) v
  | .tbRefarg => s.wrRef w k n (BitVec.ofNat 2 j) v
  | .tbRefoff => s.wrRef w k n (BitVec.ofNat 2 j) v
  | .tbRefstat => s.wrRefstat w n (BitVec.ofNat 2 j) v
  | .tbT0inc => s.wrT0inc w v
  | .tskDone => s.wrDone v
  | .taHor => s.wrBlock w k i j v
  | .taNq => s.wrBlock w k i j v
  | .taP0 => post s
  | .taP1 => post s
  | .taP2 => post s
  | .taP3 => post s
  | .taP4 => if ownPort w t then s.wrP4 t v else s.authorityFault w
  | .evmCsel => s.wrBlock w k i j v
  | .evmCdest => if !isBlock w then s.authorityFault w else if i < 0x200 ∨ 0xFDF < i then s else s.store w k v i j
  | .evmOvr => s.wrBlock w k i j v
  | .evmSwset => s.wrSwset v
  | .tskSel => s.wrTask w k (BitVec.ofNat 5 i) v
  | .tskCfg => s.wrTask w k (BitVec.ofNat 5 i) v
  | .tskPerl => s.wrTask w k (BitVec.ofNat 5 i) v
  | .tskPerh => s.wrTask w k (BitVec.ofNat 5 i) v
  | .tskT0l => s.wrTask w k (BitVec.ofNat 5 i) v
  | .tskT0h => s.wrTask w k (BitVec.ofNat 5 i) v
  | .tskDest => s.wrTask w k (BitVec.ofNat 5 i) v
  | .tskStat => s.wrTask w k (BitVec.ofNat 5 i) v
  | .tskCmd => s.wrTask w k (BitVec.ofNat 5 i) v
  | _ => s

/-- The SIG unit. -/
def State.wrSignalUnit (s : State) (w : Writer) (k : RegKind) (i j : Nat) (v : Word) : State :=
  match k with
  | .sigCfg => s.wrSigCfg w v
  | .sigBasel => s.wrBlock w k i j v
  | .sigBaseh => s.wrBlock w k i j v
  | .sigSize => s.wrSigSize w v
  | .sigStat => s.wrFlags w k i j v
  | .sigInv => s.wrSigInv w v
  | .sigPw => s.wrBlock w k i j v
  | .sigPwcmd => s.wrPwcmd w v
  | .sigChm => s.wrBlock w k i j v
  | .sigChc => s.wrBlock w k i j v
  | .sigChd => s.wrBlock w k i j v
  | _ => s

/-- The BEL, PWR, CHN and MIR units. -/
def State.wrLinkUnit (s : State) (w : Writer) (k : RegKind) (i j : Nat) (v : Word) : State :=
  match k with
  | .belHcfg => s.wrHcfg w (BitVec.ofNat 3 i) v
  | .belTbnd => s.wrBlock w k i j v
  | .pwrDreq => s.wrDreq w i v
  | .pwrDstat => s.wrFlags w k i j v
  | .pwrHold => s.wrPwr w k i v
  | .pwrWake => s.wrPwr w k i v
  | .chnLctl => s.wrLctl w (BitVec.ofNat 2 i) v
  | .chnRt => s.wrRoute w k i v
  | .chnTcfg => s.wrRoute w k i v
  | .chnRwin => s.wrBlock w k i j v
  | .chnTxbl => s.wrTunnel w k v
  | .chnTxbh => s.wrTunnel w k v
  | .chnRxbl => s.wrTunnel w k v
  | .chnRxbh => s.wrTunnel w k v
  | .chnTuncfg => s.wrTunnel w k v
  | .chnTunstat => s.wrFlags w k i j v
  | .mirCfg => s.wrMirror w k i v
  | .mirTim => s.wrMirror w k i v
  | .mirShd => s.wrMirror w k i v
  | .mirShp => s.wrMirror w k i v
  | .mirChm => s.wrMirror w k i v
  | .mirTskm => s.wrMirror w k i v
  | .mirStat => s.wrFlags w k i j v
  | .mirCmd => s.wrMirCmd w v
  | _ => s

/-- A CFG value with EN = 1 may stand in window k (R551). -/
def State.windowOk (s : State) (k : Nat) (v : Word) : Bool :=
  let l := F.hstCfg_LOG2.get v
  let b := 65536 * (s.fld F.hstSbase_BASE k)
  let p := 2 ^ 32 * (s.fld F.hstPbaseh_ADDR k) + 65536 * (s.fld F.hstPbasel_ADDR k)
  decide (16 ≤ l) && b % 2 ^ l == 0 && p % 2 ^ l == 0 && decide (0x10000000 ≤ b) && decide (b + 2 ^ l ≤ 2 ^ 32)

/-- A write of a register of translation window i (R551): while EN = 1 only EN changes. -/
def State.wrWindow (s : State) (w : Writer) (k : RegKind) (i : Nat) (v : Word) : State :=
  if !isBlock w then s.authorityFault w
  else if k == .hstCfg then
    if F.hstCfg_EN.get v == 1 && !s.windowOk i v then s
    else if s.bit F.hstCfg_EN i then s.setFld F.hstCfg_EN (F.hstCfg_EN.get v) i
    else s.store w k v i
  else if s.bit F.hstCfg_EN i then s
  else s.store w k v i

/-- The FLT, EMB, BOOT and HST units. -/
def State.wrHostUnit (s : State) (w : Writer) (k : RegKind) (i j : Nat) (v : Word) : State :=
  match k with
  | .fltScfg => s.wrScfg w i v
  | .fltAlm => s.wrBlock w k i j v
  | .fltInj => s.wrInj w v
  | .embCal0 => s.wrEmb w k i v
  | .embCal1 => s.wrEmb w k i v
  | .embCal2 => s.wrEmb w k i v
  | .embSet0 => s.wrEmb w k i v
  | .embSet1 => s.wrEmb w k i v
  | .embCalcmd => s.wrEmb w k i v
  | .embCalerr => s.wrEmb w k i v
  | .embTaioff => s.wrEmb w k i v
  | .embStat => s.wrEmb w k i v
  | .embWcfg => s.wrEmb w k i v
  | .embWstat => s.wrEmb w k i v
  | .embWtimer => s.wrEmb w k i v
  | .embScr => s.wrEmb w k i v
  | .bootCtl => s.wrBootCtl w v
  | .bootHstat => s.wrBlock w k i j v
  | .hstSbase => s.wrWindow w k i v
  | .hstPbasel => s.wrWindow w k i v
  | .hstPbaseh => s.wrWindow w k i v
  | .hstCfg => s.wrWindow w k i v
  | .hstVaddrl => s.wrBlock w k i j v
  | .hstVaddrh => s.wrBlock w k i j v
  | .hstVdata => s.wrBlock w k i j v
  | .hstVctl => s.wrBlock w k i j v
  | .hstVstat => s.wrBlock w k i j v
  | .hstSvccfg => s.wrBlock w k i j v
  | .hstHerr => s.wrBlock w k i j v
  | _ => s

/-- A record of the boot unit sets something in this register (R473). -/
def takesRecord (k : RegKind) : Bool := k.desc.fields.any fun f => f.image || f.acc == .rw

/-- A write of instance (i, j) of a register, by the unit that its offset lies in (R558). Log entry 51 (DEDUCED). -/
def State.wrKind (s : State) (w : Writer) (k : RegKind) (i j : Nat) (v : Word) : State :=
  let u := k.desc.base / 0x10000
  if w == .boot && !takesRecord k then s
  else if u = 1 then s.wrCoreUnit w k i j v
  else if u < 4 then s.wrMemUnit w k i j v
  else if u < 8 then s.wrTimeUnit w k i j v
  else if u < 0x10 then s.wrQueueUnit w k i j v
  else if u < 0x14 then s.wrPinUnit w k i j v
  else if u < 0x16 then s.wrTimeUnit w k i j v
  else if u = 0x16 then s.wrSignalUnit w k i j v
  else if u < 0x19 then s.wrLinkUnit w k i j v
  else s.wrHostUnit w k i j v

/-- The power domain that a register access wakes and waits for (R399): the hearth of an SLT, THR or LCK register that is
written, the signal engine for SIG. -/
def accessDomain (write : Bool) (off : Nat) : Option Nat :=
  match locate off with
  | none => none
  | some (k, i, _) =>
    let u := k.desc.base / 0x10000
    let o := k.desc.base % 0x10000
    if u = 0x16 then some 20
    else if !write then none
    else if u = 1 then
      some (if o < 0x1000 || 0x9000 ≤ o then coreDomain (BitVec.ofNat 5 i) else coreDomain (coreOf (BitVec.ofNat 9 i)))
    else if k == .lckFaddr || k == .lckFcmd then some (coreDomain (BitVec.ofNat 5 i))
    else none

/-- A write of a register that needs a place in the mirror egress for its record finds none (R435). -/
def State.recordWaits (s : State) (w : Writer) (k : RegKind) (i : Nat) (v : Word) : Bool :=
  if k == .qeFlush then s.flushWaits w v
  else if k == .taP4 then ownPort w (BitVec.ofNat 9 i) && s.p4Waits (BitVec.ofNat 9 i) v
  else if k == .tskDone then s.doneWaits v
  else if [.tskCfg, .tskPerl, .tskPerh, .tskT0l, .tskT0h, .tskDest, .tskCmd].contains k then
    s.taskWaits w k (BitVec.ofNat 5 i)
  else false

/-- A write of the register at an offset; offsets not listed ignore writes (R548). A write to a domain that is not ON wakes it
and waits (R399), and one whose mirror record has no place waits for it (R435). Log entry 51 (DEDUCED). -/
def State.regWrite (s : State) (w : Writer) (off : Nat) (v : Word) : State :=
  match locate off with
  | none => s
  | some (k, i, j) =>
    match accessDomain true off with
    | none => s.regAtMirror (s.recordWaits w k i v) w off v fun s => s.wrKind w k i j v
    | some d => s.regAtDomain d (.write w off v) fun s => s.wrKind w k i j v

/-! ## What registers read, unit by unit -/

def PredMode.code : PredMode → Nat
  | .service => 0
  | .startup => 1
  | .test => 2
  | .recovery => 3

def ThreadState.code : ThreadState → Nat
  | .unreleased => 0
  | .running => 1
  | .sleepQueue => 2
  | .sleepLock => 3
  | .stopping => 4
  | .stopped => 5
  | .halted => 6
  | .faulted => 7

def ChState.code : ChState → Nat
  | .off => 0
  | .run => 1
  | .wait => 2
  | .stallPull => 3
  | .stallPush => 4
  | .halted => 5
  | .safe => 6
  | .latched => 7

def Stage.code : Stage → Nat
  | .rom => 0
  | .headers => 1
  | .critical => 2
  | .rest => 3
  | .sealing => 4
  | .hold => 5
  | .run => 6
  | .failed => 7

/-- Feature register n (R100 to R103). -/
def featWord (n : Nat) : Word :=
  match n with
  | 0 => 0x0201F820
  | 1 => 0x40840410
  | 2 => 0x40008002
  | 3 => 0x0000047F
  | _ => 0

/-- A word from single bits, bit 0 first. -/
def bitsWord (n : Nat) (f : Nat → Bool) : Nat :=
  (List.range n).foldl (fun a i => if f i then a + 2 ^ i else a) 0

/-- SLT.STAT (R64). -/
def State.sltStatView (s : State) (c : CoreId) : Word :=
  BitVec.ofNat 32 (2 ^ 16 * (bitsWord 16 (fun i => s.specCapable c i)) + s.cycle % 32)

/-- THR.STAT (R154). -/
def Thread.statView (th : Thread) : Word :=
  BitVec.ofNat 32 (2 ^ 16 * th.effective.toNat + 2 ^ 12 * (!th.raises.isEmpty).toNat + 2 ^ 11 * th.notice.isSome.toNat +
    2 ^ 10 * th.roleRej.toNat + 2 ^ 9 * th.roleBusy.isSome.toNat + 2 ^ 8 * th.wign.toNat + th.st.code)

/-- THR.CFG (R151); CLASS reads the old class until a change applies. Log entry 74 (DESIGN CHOICE). -/
def Thread.cfgView (th : Thread) : Word :=
  BitVec.ofNat 32 (2 ^ 9 * th.hnote.toNat + 2 ^ 8 * th.cls.toNat + th.prio.toNat)

/-- THR.FAULT (R155). -/
def Thread.faultView (th : Thread) : Word := BitVec.ofNat 32 (2 ^ 24 * th.faultCode.toNat + th.faultValid.toNat)

/-- PE.CSTAT (R276). -/
def State.cstatView (s : State) (ch : Chan) : Word :=
  let x := s.chan ch
  let pend := bitsWord 4 fun l => (smGet none x.timed l).isSome
  let v := F.peCstat_PENDING.put (F.peCstat_STATE.put (s.reg .peCstat (engineOf ch).toNat (contextOf ch).toNat) x.st.code) pend
  F.peCstat_PC.put v x.pc.toNat

/-- PE.PSTAT (R278): MISM while a run of mismatch cycles goes on. -/
def State.pstatView (s : State) (p : Port) : Word :=
  let x := s.port p
  let r := s.resolved p
  BitVec.ofNat 32 (x.guard.toNat * 32 + x.diff.toNat * 16 + (decide (0 < x.rbRun)).toNat * 8 + r.2.toNat * 4 +
    r.1.toNat * 2 + x.inp.toNat)

/-- BOOT.STAT (R486): the ROM fetches headers from 4 us after its release on (R530). Log entry 50 (DEDUCED). -/
def State.bootStatView (s : State) : Word :=
  let b := s.boot
  let st := if b.stage == .rom && decide (b.since + 4000 ≤ s.ns) then 1 else b.stage.code
  BitVec.ofNat 32 (2 ^ 28 * st + 2 ^ 27 * b.seald.toNat + 2 ^ 26 * b.dvalid.toNat + 2 ^ 25 * b.hold.toNat +
    2 ^ 24 * s.soc.bootGo.toNat + 2 ^ 23 * b.copyB.toNat + 2 ^ 22 * b.fallback.toNat + 2 ^ 8 * b.err.toNat + b.errsec.toNat)

/-- Registers of the BLK, SLT, THR, LCK and MEM units. -/
def State.viewLow (s : State) (k : RegKind) (i j : Nat) : Word :=
  let c := BitVec.ofNat 5 i
  let b := BitVec.ofNat 4 i
  let th := s.thr (BitVec.ofNat 9 i)
  match k with
  | .blkVersion => 0x00020100
  | .blkFeat0 => featWord 0
  | .blkFeat1 => featWord 1
  | .blkFeat2 => featWord 2
  | .blkFeat3 => featWord 3
  | .sltPred => F.sltPred_MODE.put (s.reg .sltPred i) (s.core c).mode.code
  | .sltStat => s.sltStatView c
  | .thrPc => th.pc
  | .thrA => th.a
  | .thrX => th.x
  | .thrY => th.y
  | .thrTp => th.tp
  | .thrCfg => th.cfgView
  | .thrRole => th.service ++ th.epoch
  | .thrStat => th.statView
  | .thrFault => th.faultView
  | .lckWatch => s.watchView
  | .memOwner => s.ownerView b
  | .memRet => s.retView b
  | .memWipe => s.wipeView b
  | _ => s.reg k i j

/-- Registers of the QE and PE units. -/
def State.viewMid (s : State) (k : RegKind) (i j : Nat) : Word :=
  let q := BitVec.ofNat 14 i
  let o := BitVec.ofNat 12 i
  let ch : Chan := BitVec.ofNat 9 (8 * i + j)
  match k with
  | .qeQcfg => s.qcfgView q
  | .qeQstat => s.qstatView q
  | .qeQuad => s.quadView (BitVec.ofNat 2 i)
  | .qeOwnstat => s.ownstatView o
  | .qeOwncfg => s.owncfgView o
  | .qeOwnfuse => s.ownfuseView o
  | .pePmdata => s.pmWord (BitVec.ofNat 6 i)
  | .peCstat => s.cstatView ch
  | .peBitcfg => F.peBitcfg_SET.put (s.reg k i j) (s.chan ch).bu.setB.toNat
  | .peTscfg => F.peTscfg_COUNT.put (s.reg k i j) (s.port (BitVec.ofNat 9 i)).ts.length
  | .pePstat => s.pstatView (BitVec.ofNat 9 i)
  | _ => s.reg k i j

/-- Registers of the units from TB on that need no latch and no free value; base 0 shows only STAT (R302). -/
def State.viewHigh (s : State) (k : RegKind) (i j : Nat) : Word :=
  let n := BitVec.ofNat 4 i
  let c := BitVec.ofNat 5 i
  match k with
  | .tbStat => s.tbStatView n
  | .tbRefstat => s.refstatView n (BitVec.ofNat 2 j)
  | .tbWin => s.tbWinView n
  | .tskSel => s.taskView k c
  | .tskCfg => s.taskView k c
  | .tskPerl => s.taskView k c
  | .tskPerh => s.taskView k c
  | .tskT0l => s.taskView k c
  | .tskT0h => s.taskView k c
  | .tskDest => s.taskView k c
  | .tskStat => s.taskView k c
  | .taUse => s.taUseView
  | .sigStat => s.sigStatView
  | .pwrDstat => s.dstatView i
  | .chnLstat => s.lstatView (BitVec.ofNat 2 i)
  | .chnEgr => s.egrView
  | .chnTunstat => s.tunstatView
  | .mirSent => s.mirror.gone.setWidth 32
  | .mirAcked => s.mirror.acked.setWidth 32
  | .fltStat => s.fltStatView
  | .embStat => s.embStatView
  | .bootStat => s.bootStatView
  | .bootSeq => s.boot.seq
  | _ => s.reg k i j

/-- The stored or derived value of a register, fields only (R9, R11). -/
def State.regView (s : State) (k : RegKind) (i j : Nat) : Word :=
  let v := if k.desc.base < 0x40000 then s.viewLow k i j
    else if k.desc.base < 0x140000 then s.viewMid k i j
    else s.viewHigh k i j
  visible k.desc v

/-- A read that answers a word. -/
def State.answered (s : State) (v : Word) : State := { s with answer := v.setWidth 64 }

/-- A read of a register by a master without the clearing of RC fields (R549, R554): latching pairs latch for it. -/
def State.regPeek (s : State) (mst : Master) (k : RegKind) (i j : Nat) : State :=
  let n := BitVec.ofNat 4 i
  match k with
  | .tbVall => s.readVall mst n
  | .tbValh => s.answered (s.latched mst 0 n)
  | .tbRatel => s.readRatel mst n
  | .tbRateh => s.answered (s.latched mst 1 n)
  | .tbPhil => s.readPhil mst n
  | .tbPhih => s.answered (s.latched mst 2 n)
  | .tbCorr => s.readCorr n
  | .tbPortl => s.readPortl mst
  | .tbPorth => s.answered (s.latched mst 3 0)
  | .embCal0 => s.readCal0 mst
  | .embCal1 => s.answered (s.latched mst 8 0)
  | .embCal2 => s.answered (s.latched mst 8 1)
  | .mirStat => s.mirStatView.2.answered s.mirStatView.1
  | _ => s.answered (s.regView k i j)

/-- The read of a register whose answer has been made: its RC fields answer the start of the cycle and are cleared (R9, R10);
LCK.WATCH.HIGH and CHN.EGR.HIGH start again from the entries in use, and VALID of MEM.NOWN goes with COUNT (R160, R197, R444). -/
def State.readClears (s : State) (k : RegKind) (i j : Nat) : State :=
  if k == .lckWatch then s.setFld F.lckWatch_HIGH s.watches.length
  else if k == .chnEgr then s.setFld F.chnEgr_HIGH s.chain.egress.length
  else
    let s1 := s.readOut k i j (s.answer.extractLsb' 0 32)
    if k == .memNown then s1.validKept (BitVec.ofNat 4 i) else s1

/-- A read of the register at an offset by a master; offsets not listed read 0 (R548). -/
def State.regRead (s : State) (mst : Master) (off : Nat) : State :=
  match locate off with
  | none => s.answered 0
  | some (k, i, j) => (s.regPeek mst k i j).readClears k i j

/-! ## REGISTER_WRITE and the translation windows (R549, R551) -/

/-- The debug port writes BOOT.CTL.RELOAD, which more life-cycle states permit than other writes (R542). -/
def State.debugReloadWrite (s : State) (w : Writer) (off : BitVec 24) (v : Word) : Bool :=
  w == .debug && off.toNat == regOff .bootCtl 0 0 && v == 0x80000000 && s.debugReloads

/-- REGISTER_WRITE (R549). -/
def execRegisterWrite (w : Writer) (off : BitVec 24) (v : Word) (s : State) : Out :=
  .next (if s.debugReloadWrite w off v then (s.wrBootCtl w v).dpReply
    else s.access w fun s => s.regWrite w off.toNat v)

/-- SWIN_CFG_WRITE (R551). -/
def execSwinCfgWrite (w : Writer) (k : BitVec 4) (v : Word) (s : State) : Out :=
  .next (s.access w fun s => s.wrWindow w .hstCfg k.toNat v)

/-! ## The host port (R553, R554) and the HST counters (R557) -/

/-- A register as the host's view reads it. -/
def State.hostPeek (s : State) (off : Nat) : State :=
  match locate off with
  | none => s.answered 0
  | some (k, i, j) => s.regPeek masterHost k i j

/-- Two registers at once, the lower address in bits [31:0]. -/
def State.hostPeek2 (s : State) (off : Nat) : State :=
  let a := s.hostPeek off
  let b := a.hostPeek (off + 4)
  { b with answer := b.answer.extractLsb' 0 32 ++ a.answer.extractLsb' 0 32 }

/-- A read through the host's view is made and answered. -/
def State.hostRead (s : State) (o : Nat) (two : Bool) : State := (if two then s.hostPeek2 o else s.hostPeek o).hostReply

/-- HOST_VIEW_READ (R553, R554): of 4 bytes, or of 8; a misaligned one is answered ERR (R518). Log entry 52 (DEDUCED). -/
def execHostViewRead (off : BitVec 24) (two : Bool) (s : State) : Out :=
  let o := off.toNat
  .next (if 0x400000 ≤ o then s
    else if o % (if two then 8 else 4) ≠ 0 then (s.satAdd F.hstHerr_ERR 1).hostReply
    else match accessDomain false o with
      | none => s.hostRead o two
      | some d => s.regAtDomain d (.hostRead o two) fun s => s.hostRead o two)

/-- The register accesses that wait for their domains are tried again, in their order (R399). -/
def State.drainRegs (s : State) : State :=
  s.regWaits.foldl (fun s x => match x.acc with
    | .write w off v => s.regWrite w off v
    | .read m off => s.regAtDomain x.d x.acc fun s => s.regRead m off
    | .hostRead off two => s.regAtDomain x.d x.acc fun s => s.hostRead off two) { s with regWaits := [] }

/-- HOST_VIEW_WRITE (R553). -/
def execHostViewWrite (_off : BitVec 24) (s : State) : Out := .next (s.satAdd F.hstHerr_ERR 1).hostReply

/-- HOST_UNMAPPED_ACCESS (R553). -/
def execHostUnmappedAccess (off : BitVec 24) (s : State) : Out :=
  .next (if off.toNat < 0x801000 then s else (s.satAdd F.hstHerr_NOMAP 1).hostReply)

/-- VSTAT_READ (R557). -/
def execVstatRead (s : State) : Out := .next (s.readStored .hstVstat 0 0)

/-- HERR_READ (R557). -/
def execHerrRead (s : State) : Out := .next (s.readStored .hstHerr 0 0)

/-- SERVICE_STAT_READ (R555). -/
def execServiceStatRead (s : State) : Out :=
  let v := BitVec.ofNat 32 (2 ^ 28 * (bitsOf s.bootStatView 28 4) + 2 ^ 27 * s.boot.seald.toNat +
    2 ^ 26 * (s.fld F.hstSvccfg_RLDEN) + s.fld F.bootCause_RELOADS)
  .next (s.answered v).hostReply

/-! ## Vectors and fabric ports (R517, R525, R552) -/

/-- The response to a vector write; a failed one is recorded. -/
def State.vectorAnswered (s : State) (v : Byte) (ok : Bool) : State :=
  let mine := fun (r : SmReq) => match r with | .vector u _ _ _ => u == v | _ => false
  if !s.soc.reqs.any mine then s
  else
    let s1 := { s with soc := { s.soc with reqs := s.soc.reqs.eraseP mine } }
    if ok then s1
    else ((s1.raise F.hstVstat_WERR).setFld F.hstVstat_EVEC v.toNat).satAdd F.hstVstat_ERRS 1

/-- VECTOR_WRITE_RESPONSE (R552). -/
def execVectorWriteResponse (v : Byte) (ok : Bool) (s : State) : Out := .next (s.vectorAnswered v ok)

/-- A credit returns: a waiting command or reply takes it, else it is kept. -/
def State.creditReturned (s : State) (p : FabricPort) : State :=
  let k := s.soc
  match p with
  | .smCommand => { s with soc := sendHeld k.held.length { k with smCredits := k.smCredits + 1 } }
  | .htReply =>
    { s with soc := if 0 < k.htOwed then { k with htOwed := k.htOwed - 1 } else { k with htCredits := k.htCredits + 1 } }
  | .dpReply =>
    { s with soc := if 0 < k.dpOwed then { k with dpOwed := k.dpOwed - 1 } else { k with dpCredits := k.dpCredits + 1 } }

/-- FABRIC_CREDIT_RETURN (R517). -/
def execFabricCreditReturn (p : FabricPort) (s : State) : Out := .next (s.creditReturned p)

/-- IRQ_PULSE_END (R525): the line falls once its last pulse has lasted. -/
def execIrqPulseEnd (k : BitVec 3) (s : State) : Out :=
  .next (if smGet 0 s.soc.irq k.toNat ≤ s.cycle then { s with soc := { s.soc with irq := smSet 0 s.soc.irq k.toNat 0 } }
    else s)

/-- TIME0L (R99): the low word of TB0, with the high word latched for the thread. -/
def State.readTime0l (s : State) (t : Tid) : State :=
  (s.setThr t { s.thr t with timeH := s.tb0.extractLsb' 32 32 }).answered (s.tb0.extractLsb' 0 32)

/-- TIME0L_READ (R99). -/
def execTime0lRead (t : Tid) (s : State) : Out := .next (s.readTime0l t)

end Sys2Proof.Machine
end

