-- ==== Sys2Proof/Machine/BootImage.lean ====
section
/-!
DEFINITION. The billet image (R467 to R480): headers and section tables, CRC-32C and SHA-256, sections and their records
with the targets of each section type.
-/

namespace Sys2Proof.Machine

/-! ## Bytes, words and CRC-32C (R6, R470) -/

/-- Word at byte offset 4 i. -/
def wordAt (bs : List Byte) (i : Nat) : Word := (wordsOf ((bs.drop (4 * i)).take 4)).headD 0

/-- CRC-32C of RFC 3720, its polynomial reflected (R470). -/
def crc32c (bs : List Byte) : Word := crc32 0x82F63B78 bs

/-! ## SHA-256 of FIPS 180-4 (R480) -/

def shaKs : List Word :=
  [0x428A2F98, 0x71374491, 0xB5C0FBCF, 0xE9B5DBA5, 0x3956C25B, 0x59F111F1, 0x923F82A4, 0xAB1C5ED5,
   0xD807AA98, 0x12835B01, 0x243185BE, 0x550C7DC3, 0x72BE5D74, 0x80DEB1FE, 0x9BDC06A7, 0xC19BF174] ++
  [0xE49B69C1, 0xEFBE4786, 0x0FC19DC6, 0x240CA1CC, 0x2DE92C6F, 0x4A7484AA, 0x5CB0A9DC, 0x76F988DA,
   0x983E5152, 0xA831C66D, 0xB00327C8, 0xBF597FC7, 0xC6E00BF3, 0xD5A79147, 0x06CA6351, 0x14292967] ++
  [0x27B70A85, 0x2E1B2138, 0x4D2C6DFC, 0x53380D13, 0x650A7354, 0x766A0ABB, 0x81C2C92E, 0x92722C85,
   0xA2BFE8A1, 0xA81A664B, 0xC24B8B70, 0xC76C51A3, 0xD192E819, 0xD6990624, 0xF40E3585, 0x106AA070] ++
  [0x19A4C116, 0x1E376C08, 0x2748774C, 0x34B0BCB5, 0x391C0CB3, 0x4ED8AA4A, 0x5B9CCA4F, 0x682E6FF3,
   0x748F82EE, 0x78A5636F, 0x84C87814, 0x8CC70208, 0x90BEFFFA, 0xA4506CEB, 0xBEF9A3F7, 0xC67178F2]

def shaInit : List Word :=
  [0x6A09E667, 0xBB67AE85, 0x3C6EF372, 0xA54FF53A, 0x510E527F, 0x9B05688C, 0x1F83D9AB, 0x5BE0CD19]

/-- Message schedule, newest word first, n words still to come. -/
def shaExtend : Nat → List Word → List Word
  | 0, w => w
  | n + 1, w =>
    let g := fun i => w.getD i 0
    let s0 := (g 14).rotateRight 7 ^^^ (g 14).rotateRight 18 ^^^ (g 14) >>> 3
    let s1 := (g 1).rotateRight 17 ^^^ (g 1).rotateRight 19 ^^^ (g 1) >>> 10
    shaExtend n ((g 15 + s0 + g 6 + s1) :: w)

def shaRound (x : List Word) (kw : Word × Word) : List Word :=
  match x with
  | [a, b, c, d, e, f, g, h] =>
    let s1 := e.rotateRight 6 ^^^ e.rotateRight 11 ^^^ e.rotateRight 25
    let t1 := h + s1 + ((e &&& f) ^^^ (~~~e &&& g)) + kw.1 + kw.2
    let s0 := a.rotateRight 2 ^^^ a.rotateRight 13 ^^^ a.rotateRight 22
    let t2 := s0 + ((a &&& b) ^^^ (a &&& c) ^^^ (b &&& c))
    [t1 + t2, a, b, c, d + t1, e, f, g]
  | _ => x

/-- Big-endian words of a block. -/
def wordsBig : List Byte → List Word
  | a :: b :: c :: d :: r => (a ++ b ++ c ++ d) :: wordsBig r
  | _ => []

def shaBlock (h : List Word) (blk : List Byte) : List Word :=
  let w := (shaExtend 48 (wordsBig blk).reverse).reverse
  List.zipWith (· + ·) h ((shaKs.zip w).foldl shaRound h)

/-- Fold n blocks of 64 bytes. -/
def shaBlocks : Nat → List Word → List Byte → List Word
  | 0, h, _ => h
  | n + 1, h, bs => shaBlocks n (shaBlock h (bs.take 64)) (bs.drop 64)

/-- The message followed by its padding. -/
def shaPad (bs : List Byte) : List Byte :=
  let n := bs.length
  bs ++ [0x80] ++ List.replicate ((119 - n % 64) % 64) 0 ++
    (List.range 8).map fun i => BitVec.ofNat 8 (8 * n / 2 ^ (8 * (7 - i)))

/-- The eight words of the digest. -/
def sha256 (bs : List Byte) : List Word :=
  let p := shaPad bs
  shaBlocks (p.length / 64) shaInit p

/-! ## Headers and section tables (R468 to R470, R474) -/

/-- Section types (R471). -/
def tyBlock : Byte := 0x01
def tyHearth : Byte := 0x02
def tyCore : Byte := 0x03
def tyPin : Byte := 0x04
def tyQueues : Byte := 0x05
def tyTimebase : Byte := 0x06
def tyTasks : Byte := 0x07
def tyEvents : Byte := 0x08
def tyPinned : Byte := 0x09
def tyMirror : Byte := 0x0A
def tyFault : Byte := 0x0B
def tyQuota : Byte := 0x0C
def tySeal : Byte := 0x0D

def SectEntry.crit (e : SectEntry) : Bool := e.flags.getLsbD 0
def SectEntry.rel (e : SectEntry) : Bool := e.flags.getLsbD 1

/-- Entry i of the table in a copy's header bytes (R469). -/
def tableEntry (bs : List Byte) (i : Nat) : SectEntry :=
  let w := wordAt bs (16 + 4 * i)
  { flags := w.extractLsb' 24 8, inst := w.extractLsb' 8 16, type := w.extractLsb' 0 8
    offset := (wordAt bs (17 + 4 * i)).toNat, length := (wordAt bs (18 + 4 * i)).toNat, crc := wordAt bs (19 + 4 * i) }

/-- Each section lies at or beyond the end of what stands before it (R469, R470). -/
def sectionsInOrder : Nat → List SectEntry → Bool
  | _, [] => true
  | lo, e :: r =>
    decide (lo ≤ e.offset) && e.offset % 64 == 0 && e.length % 4 == 0 && decide (4 ≤ e.length) &&
      sectionsInOrder (e.offset + e.length) r

/-- Every critical section precedes every non-critical one. -/
def criticalFirst : List SectEntry → Bool
  | [] => true
  | e :: r => (e.crit || r.all fun x => !x.crit) && criticalFirst r

/-- No pair of type and instance twice. -/
def pairsOnce : List SectEntry → Bool
  | [] => true
  | e :: r => (r.all fun x => !(x.type == e.type && x.inst == e.inst)) && pairsOnce r

/-- The layout rules of R470. Log entry 50 (DEDUCED). -/
def layoutOk (total : Nat) (tab : List SectEntry) : Bool :=
  sectionsInOrder (64 + 16 * tab.length) tab && criticalFirst tab && pairsOnce tab &&
    (tab.all fun e => bitsOf (e.flags.setWidth 32) 2 6 == 0) &&
    decide (((tab.filter SectEntry.crit).map fun e => e.length).sum ≤ 2097152) &&
    (match tab.head?, tab.getLast? with
      | some a, some z =>
        a.type == tyBlock && a.crit && z.type == tySeal && !z.crit && decide (z.offset + z.length ≤ total)
      | _, _ => false) &&
    tab.any fun e => e.type == tyCore && e.inst == 0 && e.crit && e.rel

/-- A valid copy (R474): its sequence number, length and table. Log entry 50 (DEDUCED). -/
def parseCopy (bs : List Byte) : Option (Word × Nat × List SectEntry) :=
  let n := (wordAt bs 4).toNat
  let total := (wordAt bs 3).toNat
  let rel := wordAt bs 1
  if bs.length < 64 ∨ n < 2 ∨ 256 < n ∨ bs.length ≠ 64 + 16 * n then none
  else
    let tab := (List.range n).map (tableEntry bs)
    if wordAt bs 0 == 0x59505842 && wordAt bs 15 == crc32c (bs.take 60) && wordAt bs 14 == crc32c (bs.drop 64) &&
        bitsOf rel 16 16 == 2 && decide (bitsOf rel 8 8 ≤ 1) && decide (64 ≤ total) && decide (total ≤ 16777216) &&
        layoutOk total tab then some (wordAt bs 2, total, tab)
    else none

/-- Sequence number a is newer than b (R475). -/
def newerSeq (a b : Word) : Bool := decide (1 ≤ (a - b).toNat) && decide ((a - b).toNat < 2 ^ 31)

/-! ## Targets of a section (R471) -/

def inSpan (off lo len : Nat) : Bool := decide (lo ≤ off) && decide (off < lo + len)

/-- Instances of a type. -/
def instances (ty : Byte) : Nat :=
  if ty = tyHearth then 8 else if ty = tyCore then 32 else if ty = tyPin then 64 else 1

/-- A register offset is a target of a section of type ty and instance n. Log entry 50 (DEDUCED). -/
def registerTarget (ty : Byte) (n off : Nat) : Bool :=
  if ty = tyBlock then
    decide (off < 0x10000) || inSpan off 0x180000 0x1000 || inSpan off 0x160000 0x10000 || inSpan off 0x178000 0x8000 ||
      inSpan off 0x19000 0x80 || inSpan off 0x154000 0xC0 || inSpan off 0x1C0000 0x10000 || off == 0x141000
  else if ty = tyHearth then
    inSpan off (0x170000 + 0x100 * n) 0x100 || inSpan off (0x171000 + 0x100 * n) 0x100 ||
      inSpan off (0x172000 + 0x200 * n) 0x200 || inSpan off (0x30000 + 0x200 * n) 0x200
  else if ty = tyCore then
    inSpan off (0x10000 + 0x80 * n) 0x80 || inSpan off (0x11000 + 0x400 * n) 0x400 || off == 0x19000 + 4 * n
  else if ty = tyPin then inSpan off (0x100000 + 0x800 * n) 0x800 || inSpan off (0x120000 + 0x1000 * (n / 8)) 0x1000
  else if ty = tyQueues then
    inSpan off 0x80000 0x80000 && !(inSpan off 0xC8000 0x18000 && (off % 16 == 0 || off % 16 == 8))
  else if ty = tyTimebase then inSpan off 0x140000 0x10000 && off != 0x141000
  else if ty = tyTasks then inSpan off 0x150000 0x800
  else if ty = tyEvents then inSpan off 0x40000 0x40000
  else if ty = tyMirror then inSpan off 0x181000 0xF000
  else if ty = tyFault then inSpan off 0x190000 0x10000
  else if ty = tyQuota then inSpan off 0xC8000 0x18000 && (off % 16 == 0 || off % 16 == 8)
  else false

/-- Words of the memory that LOAD records of a section fill; 0 where it has none. -/
def loadWords (ty : Byte) : Nat :=
  if ty = tyHearth then 262144 else if ty = tyCore then 65536 else if ty = tyPin then 1024 else 0

/-! ## Records (R472, R473) -/

/-- A record write of the boot unit. -/
def State.recordWrite (s : State) (off : Nat) (v : Word) : State := s.regWrite .boot off v

/-- Consecutive record writes. -/
def State.recordRun (s : State) (off : Nat) : List Word → State
  | [] => s
  | v :: r => (s.recordWrite off v).recordRun (off + 4) r

/-- A word of the memory that a LOAD record fills. -/
def State.loadWordAt (s : State) (ty : Byte) (n i : Nat) (v : Word) : State :=
  if ty = tyPin then { s with pmem := smSet 0 s.pmem (1024 * n + i) v }
  else if ty = tyCore then s.writeWordAs masterBoot (0x01000000 + 0x40000 * n + 4 * i) 0xF v
  else s.writeWordAs masterBoot (0x02000000 + 0x100000 * n + 4 * i) 0xF v

def State.loadRun (s : State) (ty : Byte) (n i : Nat) : List Word → State
  | [] => s
  | v :: r => (s.loadWordAt ty n i v).loadRun ty n (i + 1) r

/-- A pinned directory line takes a way of its set, in a full one that of the least recently used other line (R371, R372). -/
def State.pinLine (s : State) (line : Nat) (ws : List Word) : State :=
  let set := s.setLines line
  let s1 := if set.length < 8 || (s.cached line).isSome then s
    else match oldestLine set with
      | none => s
      | some (k, x) => (s.writeBack k x).setCached k none
  s1.setCached line (some ⟨ws, true, false, s1.seq⟩)

/-- All words from off on are targets. -/
def runTarget (ty : Byte) (n off len : Nat) : Bool :=
  off % 4 == 0 && (List.range len).all fun i => registerTarget ty n (off + 4 * i)

/-- The words of a record after its word 0, and the effect of the record; `none` for a corrupt one.
Log entry 50 (DEDUCED). -/
def State.billetRecord (s : State) (ty : Byte) (n : Nat) (w0 : Word) (rest : List Word) : Option (Nat × State) :=
  let off := bitsOf w0 0 24
  let len := (rest.headD 0).toNat
  let body := rest.drop 1
  match bitsOf w0 24 8 with
  | 0x01 => if rest.length < 1 ∨ !runTarget ty n off 1 then none else some (1, s.recordWrite off (rest.headD 0))
  | 0x02 =>
    if rest.length < 1 ∨ len = 0 ∨ 65536 ≤ len ∨ body.length < len ∨ !runTarget ty n off len then none
    else some (1 + len, s.recordRun off (body.take len))
  | 0x03 =>
    if rest.length < 2 ∨ 65536 ≤ len ∨ !runTarget ty n off len then none
    else some (2, s.recordRun off (List.replicate len (body.headD 0)))
  | 0x10 =>
    if rest.length < 1 ∨ 65536 ≤ len ∨ body.length < len ∨ loadWords ty < off + len ∨ loadWords ty = 0 then none
    else some (1 + len, s.loadRun ty n off (body.take len))
  | 0x20 =>
    if ty ≠ tyPinned ∨ rest.length < 16 then none
    else some (16, s.pinLine (bitsOf w0 0 21) (rest.take 16))
  | _ => none

/-- The records of a section, in order until the first corrupt one; the fuel is the number of words. -/
def State.records (ty : Byte) (n : Nat) : Nat → List Word → State → State × Bool
  | _, [], s => (s, true)
  | 0, _ :: _, s => (s, false)
  | k + 1, w0 :: rest, s =>
    match s.billetRecord ty n w0 rest with
    | none => (s, false)
    | some (m, s1) => State.records ty n k (rest.drop m) s1

/-- Load a section's bytes: the state its records leave, and whether it is free of format errors. -/
def State.loadSection (s : State) (e : SectEntry) (bytes : List Byte) : State × Bool :=
  let ws := wordsOf bytes
  if e.type = tySeal then (s, true)
  else if instances e.type ≤ e.inst.toNat ∨ e.type = 0 ∨ 0x0D < e.type.toNat then (s, false)
  else State.records e.type e.inst.toNat ws.length ws s

end Sys2Proof.Machine
end

