-- ==== Sys2Proof/Machine/BootControl.lean ====
section
/-!
DEFINITION. Start-up as commands (R474 to R484): headers and sections as they arrive, fallback, releases, the seal checks,
BOOT_GO and the end of a hearth reset.
-/

namespace Sys2Proof.Machine

/-! ## Copy selection (R474 to R476) -/

def State.selectCopy (s : State) (b : Bool) (c : Word × Nat × List SectEntry) (bytes : List Byte) : State :=
  { s with boot := { s.boot with stage := .critical, copyB := b, seq := c.1, total := c.2.1, table := c.2.2
                                 next := 0, stream := bytes } }

/-- Headers and tables of both copies have been read. -/
def State.headersRead (s : State) (a b : List Byte) : State :=
  let off := 2 ^ (21 + bitsOf (s.reg .bootStrap) 0 3)
  let ca := (parseCopy a).filter fun c => decide (c.2.1 ≤ off) && s.boot.excluded != some false
  let cb := (parseCopy b).filter fun _ => s.boot.excluded != some true
  if s.boot.stage != .rom then s
  else match ca, cb with
    | none, none =>
      if s.fld F.bootCause_SOURCE = 4 then s.bootFail s.boot.lastErr s.boot.lastSec else s.bootFail errNoCopy 0
    | some x, none => s.selectCopy false x a
    | none, some y => s.selectCopy true y b
    | some x, some y => if newerSeq y.1 x.1 then s.selectCopy true y b else s.selectCopy false x a

/-- BILLET_HEADERS_READ (R474, R475). -/
def execBilletHeadersRead (copyA copyB : List Byte) (s : State) : Out := .next (s.headersRead copyA copyB)

/-- A section makes its copy invalid (R476): a fallback to the other copy, or the end of the boot.
Log entry 32 (DESIGN CHOICE). -/
def State.sectionFails (s : State) (err : Byte) : State :=
  let sec := BitVec.ofNat 8 s.boot.next
  if s.boot.excluded.isSome then s.bootFail err sec
  else
    let p := s.bootPins
    let s1 := p.2
    let b := { s1.boot with excluded := some s1.boot.copyB, fallback := true, lastErr := err, lastSec := sec }
    { s1 with boot := b }.resetDue (.reload 4 p.1.1 p.1.2 s1.soc.lc)

/-! ## Sections (R473, R478) -/

/-- What the end of a good section brings: NODEID.LOADED, the seal marker, the end of the critical part and of the load. -/
def State.sectionDone (s : State) (e : SectEntry) (bytes : List Byte) : State :=
  let s1 := if e.type = tyBlock then s.setFld F.blkNodeid_LOADED 1 else s
  let n := s.boot.next + 1
  let more := s.boot.table.drop n
  let b := { s1.boot with
    next := n
    sealWords := if e.type = tySeal then wordsOf bytes else s1.boot.sealWords
    critDone := s1.boot.critDone || !(more.any SectEntry.crit)
    stage := if more.isEmpty then .sealing else if more.any SectEntry.crit then .critical else .rest }
  let s2 := { s1 with boot := b }
  if e.type = tyBlock then laneIds.foldl (fun s l => s.tryInit l) s2 else s2

/-- The bytes up to the end of the next section have arrived. Log entry 50 (DEDUCED). -/
def State.sectionArrives (s : State) (gap bytes : List Byte) : State :=
  match s.boot.table[s.boot.next]? with
  | none => s
  | some e =>
    if !(s.boot.stage == .critical || s.boot.stage == .rest) || s.soc.due.isSome then s
    else if s.boot.stream.length + gap.length ≠ e.offset ∨ bytes.length ≠ e.length then s
    else
      let s0 := { s with boot := { s.boot with stream := s.boot.stream ++ gap ++ bytes } }
      let r := s0.loadSection e bytes
      if crc32c bytes ≠ e.crc then r.1.sectionFails errSectionCrc
      else if !r.2 then r.1.sectionFails errSectionFormat
      else r.1.sectionDone e bytes

/-- SECTION_LOADED (R478). -/
def execSectionLoaded (gap bytes : List Byte) (s : State) : Out := .next (s.sectionArrives gap bytes)

/-- Bytes of the selected copy are still to be read: those of its headers and sections, and those after the last section up
to TOTAL - 1 (R478, R480). -/
def State.readsFlash (s : State) : Bool :=
  s.loading || ((s.boot.stage == .sealing || s.boot.stage == .hold || s.boot.stage == .run) && !s.boot.dvalid &&
    decide (s.boot.stream.length < s.boot.total))

/-- FLASH_TIMEOUT (R467, R483): a read fails; a hearth reset's read ends that reset without releases.
Log entry 48 (DEDUCED). -/
def execFlashTimeout (s : State) : Out :=
  .next (if s.readsFlash && s.soc.due.isNone then s.bootFail errFlash 0
    else if s.boot.hearth.isSome then
      let s1 := (s.setFld F.bootHstat_BUSY 0).resetIgnored
      { s1 with boot := { s1.boot with hearth := none, err := errFlash, errsec := 0 } }
    else s)

/-! ## Releases (R478, R481) -/

/-- CRITICAL_RELEASE (R478 step 3). -/
def execCriticalRelease (s : State) : Out :=
  .next (if s.boot.critDone && !s.boot.hold && !s.boot.released && (s.boot.stage == .rest || s.boot.stage == .sealing) then
      let s1 := ({ s with boot := { s.boot with released := true } }).setReg .bootTcrit s.tb0w
      s1.releaseRel true false
    else s)

/-- The digest registers. -/
def State.putDigest (s : State) (ws : List Word) : State :=
  (List.range 8).foldl (fun s i => s.setReg .bootDigest (ws.getD i 0) i) s

/-- DIGEST_VALID (R480): every byte to TOTAL - 1 has been read; `tail` is what follows the last section. -/
def execDigestValid (tail : List Byte) (s : State) : Out :=
  let b := s.boot
  .next (if b.table.isEmpty || b.next != b.table.length || b.dvalid || b.stage == .failed ||
      b.stream.length + tail.length != b.total then s
    else
      let s1 := s.putDigest (sha256 (b.stream ++ tail))
      { s1 with boot := { s1.boot with dvalid := true, stream := [] } }.tryGo)

/-- BOOT_GO (R481): the synchronised level is 1. -/
def execBootGo (s : State) : Out := .next ({ s with soc := { s.soc with bootGo := true } }).tryGo

/-! ## Seal checks (R482) -/

/-- Channels with the ports they bind (R255). -/
def State.bindings (s : State) : List (Nat × Nat) :=
  ((smKeepRange s.regs 0x100000 0x120000).map fun kv =>
    let r := kv.1 - 0x100000
    if 0x100 ≤ r % 0x800 && r % 0x40 == 0x10 then
      [0, 1, 2, 3].filterMap fun l =>
        if bitsOf kv.2 (8 * l + 7) 1 = 1 then
          some (r / 0x800 * 8 + (r % 0x800 - 0x100) / 0x40, 64 * (r / 0x4000) + bitsOf kv.2 (8 * l) 6)
        else none
    else []).flatten

/-- Check 1: no port is bound by two channels. -/
def State.portsOnce (s : State) : Bool :=
  let b := s.bindings
  b.all fun x => b.all fun y => x.2 != y.2 || x.1 == y.1

/-- Check 2 (R215). -/
def State.floorsFit (s : State) : Bool := (List.range 4).all fun k => decide (s.floors k ≤ 65536)

/-- An enabled source of channel ch reads a queue of that channel. -/
def State.sourceOk (s : State) (ch : Nat) (on : Bool) (q : Nat) : Bool :=
  !on || (s.fld F.qeQcfg_RKIND q == 2 && s.fld F.qeQcfg_READER q == ch)

def allChans : List Nat := List.range 512

/-- Check 3 (R252). -/
def State.sourcesFit (s : State) : Bool :=
  allChans.all fun c =>
    let v := s.reg .peQsrc (c / 8) (c % 8)
    s.sourceOk c (F.peQsrc_EN0.get v == 1) (F.peQsrc_SRC0.get v) && s.sourceOk c (F.peQsrc_EN1.get v == 1) (F.peQsrc_SRC1.get v)

/-- Check 4 (R267). -/
def State.twinsFit (s : State) : Bool :=
  allChans.all fun c =>
    !s.bit F.peCcfg_VOTE (c / 8) (c % 8) ||
      s.fld F.peVote_TWINA (c / 8) (c % 8) / 64 != s.fld F.peVote_TWINB (c / 8) (c % 8) / 64

/-- The queues that enabled capture references name (R304). -/
def State.captureQueues (s : State) : List Nat :=
  ((List.range 64).filterMap fun i =>
    let v := s.reg .tbRefcfg (i / 4) (i % 4)
    if 4 ≤ i && F.tbRefcfg_V.get v == 1 && F.tbRefcfg_SRC.get v == 2 then some (bitsOf (s.reg .tbRefarg (i / 4) (i % 4)) 0 14)
    else none)

/-- Check 5 (R307). -/
def State.capturesFit (s : State) : Bool :=
  let qs := s.captureQueues
  qs.all fun q =>
    s.packetMode (BitVec.ofNat 14 q) && s.fld F.qeQcfg_RKIND q == 3 && (qs.filter fun x => x == q).length == 1

/-- Check 6 (R372). -/
def State.pinsFit (s : State) : Bool :=
  decide (s.pinnedLines ≤ 16384) && s.cache.all fun kv =>
    decide ((s.cache.filter fun x => x.1 % 2048 == kv.1 % 2048 && (match x.2 with | some l => l.pinned | none => false)).length ≤ 8)

/-- Entries of core c that name thread i. -/
def State.entriesOf (s : State) (c : CoreId) (i : Nat) : Nat := ((List.range 32).filter fun n => s.slotEntry c n == i).length

/-- Check 7 for core c (R386). -/
def State.boundsFit (s : State) (c : CoreId) : Bool :=
  let need := fun (i : Nat) =>
    if (s.thr (c ++ BitVec.ofNat 4 i)).cls then s.entriesOf c i else s.fld F.belTbnd_MINSLOTS (16 * c.toNat + i)
  (List.range 16).all (fun i =>
    decide (s.fld F.belTbnd_MINSLOTS (16 * c.toNat + i) ≤ s.fld F.belTbnd_MAXSLOTS (16 * c.toNat + i))) &&
    decide (((List.range 16).map need).sum ≤ 32)

/-- The number of the first seal check that fails. -/
def State.sealCheck (s : State) : Option Nat :=
  if !s.portsOnce then some 1
  else if !s.floorsFit then some 2
  else if !s.sourcesFit then some 3
  else if !s.twinsFit then some 4
  else if !s.capturesFit then some 5
  else if !s.pinsFit then some 6
  else if !(allCores.all fun c => s.boundsFit c) then some 7
  else if s.boot.sealWords ≠ [0x4C414553, BitVec.ofNat 32 (s.boot.table.length - 1)] then some 8
  else none

/-- A failed check: every thread is stopped and every channel made safe when masters had been released. -/
def State.sealFails (s : State) (n : Nat) : State :=
  let s1 := s.bootFail errSeal (BitVec.ofNat 8 n)
  if !s.boot.released then s1
  else
    let s2 := (List.range 512).foldl (fun s t => s.stopThread (BitVec.ofNat 9 t)) s1
    allChans.foldl (fun s c => s.makeSafe (BitVec.ofNat 9 c)) s2

/-- Enabled time bases start to acquire (R466). -/
def State.startBases (s : State) : State :=
  baseIds.foldl (fun s n =>
    if n != 0 && s.bit F.tbCfg_EN n.toNat then s.setBase n { s.base n with st := .acquire, lastWin := s.windowNow n } else s) s

/-- Cores in STARTUP enter SERVICE, and so does a core whose built-in test began in STARTUP when it ends (R49).
Log entry 62 (DESIGN CHOICE). -/
def State.endStartup (s : State) : State :=
  allCores.foldl (fun s c =>
    let x := s.core c
    if x.mode == .startup then s.setCore c { x with mode := .service }
    else if x.mode == .test && x.modeBefore == .startup then s.setCore c { x with modeBefore := .service }
    else s) s

/-- The block seals. -/
def State.sealed_ (s : State) : State :=
  let s1 := ({ s with boot := { s.boot with seald := true } }).setReg .bootTfull s.tb0w
  let s2 := s1.fillPools.endStartup.startBases
  if s2.boot.hold then ({ s2 with boot := { s2.boot with stage := .hold } }).tryGo
  else ({ s2 with boot := { s2.boot with stage := .run } }).releaseRel false true

/-- SEAL (R482): once the critical masters have been released, or under hold. -/
def execSeal (s : State) : Out :=
  .next (if s.boot.stage == .sealing && (s.boot.hold || s.boot.released) && s.soc.due.isNone then
      match s.sealCheck with
      | some n => s.sealFails n
      | none => s.sealed_
    else s)

/-! ## Hearth reset (R484) -/

/-- The CORE sections of hearth h with their index in the table. -/
def State.coreSections (s : State) (h : HearthId) : List (Nat × SectEntry) :=
  ((List.range s.boot.table.length).zip s.boot.table).filter fun x => x.2.type == tyCore && x.2.inst.toNat / 4 == h.toNat

/-- The index of the first section that fails, with the state its records and those before it leave. -/
def State.reloadCores (s : State) : List ((Nat × SectEntry) × List Byte) → State × Option Nat
  | [] => (s, none)
  | ((i, e), bs) :: r =>
    let x := s.loadSection e bs
    if crc32c bs ≠ e.crc ∨ !x.2 then (x.1, some i) else x.1.reloadCores r

/-- The hearth's masters are released and the reset is over. -/
def State.hearthBack (s : State) (h : HearthId) : State :=
  let s1 := (s.coreSections h).foldl (fun s x =>
    if x.2.rel then s.release (masterOf (BitVec.ofNat 5 x.2.inst.toNat)) else s) s
  { s1.setFld F.bootHstat_BUSY 0 with boot := { s1.boot with hearth := none } }

/-- The sections of the hearth have been read again. Log entry 48 (DEDUCED). -/
def State.hearthRead (s : State) (h : HearthId) (sections : List (List Byte)) : State :=
  let es := s.coreSections h
  if (s.dom h.toNat).st ≠ .on ∨ es.map (fun x => x.2.length) ≠ sections.map List.length then s
  else
    let r := s.reloadCores (es.zip sections)
    match r.2 with
    | none => r.1.hearthBack h
    | some i =>
      let s1 := (r.1.setFld F.bootHstat_BUSY 0).resetIgnored
      { s1 with boot := { s1.boot with hearth := none, err := errCoreCrc, errsec := BitVec.ofNat 8 i } }

/-- HEARTH_RESET_COMPLETE (R484). -/
def execHearthResetComplete (sections : List (List Byte)) (s : State) : Out :=
  .next (match s.boot.hearth with
    | none => s
    | some h => s.hearthRead h sections)

end Sys2Proof.Machine
end

