-- ==== Sys2Proof/Machine/Issue.lean ====
section
/-!
DEFINITION. How a thread issues an instruction (R33, R39, R42, R43, R46, R47), where its accesses go and which faults they
raise at address formation (R75, R88, R105, R547, R548), how a far access is sent, performed and delivered (R43, R182 to
R187), and the run-ahead buffer (R57, R58).
-/

namespace Sys2Proof.Machine

/-! ## Readiness -/

/-- The registers that a far access writes when it completes (R42). -/
def FarOp.writes : FarOp → BitVec 4
  | .value op => op.writes
  | .queueRead => sbA ||| sbF
  | .queuePush _ => sbF
  | .cas => sbA ||| sbF
  | .swap => sbA
  | .waitev => sbF

/-- Scoreboard bits that are set: those of far accesses not yet delivered. -/
def Thread.pendingRegs (th : Thread) : BitVec 4 := th.far.foldl (fun m e => m ||| e.op.writes) 0

/-- PC is at a delay slot that is discarded (R47). Log entry 19 (DEDUCED). -/
def Thread.discards (th : Thread) : Bool :=
  match th.slot with
  | some d => d.annul && !d.taken
  | none => false

def State.retire (s : State) (t : Tid) : State := s.setThr t (s.thr t).retire

/-- Thread t has a slot: the instruction takes its place in program order. -/
def State.issuing (s : State) (t : Tid) : State := { s with seq := s.seq + 1, issuedNow := t :: s.issuedNow }

/-- Thread t issues the instruction at its PC: `legal` says that its word is well formed (R105), `regs` the registers it
reads and writes, `far` that it may need a far-access entry, `stall` that its access must wait in the pipeline.  Nothing
happens while the thread is not ready. Log entries 5 (DESIGN CHOICE), 7 (DESIGN CHOICE), 9 (DESIGN CHOICE), 19 (DEDUCED). -/
def State.issue (s : State) (t : Tid) (legal : Bool) (regs : BitVec 4) (far stall : Bool) (f : State → State) : State :=
  let th := s.thr t
  if !s.ready t then s
  else if th.discards then (s.issuing t).retire t
  else if 0x40000 ≤ th.pc.toNat then s.bump.threadFault t 0x03
  else if !legal then (s.issuing t).threadFault t 0x01
  else if th.pendingRegs &&& regs != 0 || (far && decide (4 ≤ th.far.length)) || stall then s
  else f (s.issuing t)

/-! ## Instructions issued before a branch resolves (R48, R54 to R56) -/

/-- Up to `limit` instructions of thread t were squashed: they count in SLT.SQCNT, and took as many cycles of issue (R65,
R66). Log entry 6 (DESIGN CHOICE). -/
def State.squashes (s : State) (t : Tid) (limit : Nat) : State :=
  let c := coreOf t
  let n := Config.squashed s.fresh % (limit + 1)
  let s1 := { s with fresh := s.fresh + 1 }.satAdd F.sltSqcnt_SQUASH n c.toNat
  s1.setCore c { s1.core c with unseen := (s1.core c).unseen + n }

/-- The most instructions that a cancellation of the instruction at PC can squash, itself included.  It is cancelled only if
it reaches AG in or before the branch's EX cycle, so if it issued within three cycles of the branch: the delay slot of a taken
annulling branch, and the first instructions of the predicted path in a thread that issues along it; younger ones have issued
in the three cycles up to its AG (R48, R53 to R55). -/
def Thread.reissueLimit (th : Thread) : Nat :=
  match th.slot, th.path with
  | some d, p => if d.annul && d.taken then (if p.isSome then 4 else 1) else 0
  | none, some p => if p.1.toNat ≤ th.pc.toNat && th.pc.toNat < p.1.toNat + 4 * p.2 then 4 else 0
  | none, none => 0

/-- A load that first tries to make its access may have issued before its branch resolved: it lies among the five
instructions at the head of the predicted path (R53, R54). -/
def Thread.onPath (th : Thread) (e : FarEntry) : Bool :=
  !th.far.contains e &&
    match th.path with
    | some p => decide (p.1.toNat ≤ e.pc.toNat) && decide (e.pc.toNat < p.1.toNat + 20)
    | none => false

/-- An instruction that may not access speculatively has reached its access: if it had issued before its branch resolved it
was cancelled with the younger ones, counted, and issued again (R55, R56). Log entry 6 (DESIGN CHOICE). -/
def State.reissued (s : State) (t : Tid) : State :=
  let n := (s.thr t).reissueLimit
  if n = 0 then s else s.squashes t n

/-- A speculative instruction with this address is cancelled: its address lies outside core-local memory and the shared
banks, or it reads a retained bank, or a HANDOVER bank that the core does not own (R55, R56, R175). -/
def State.cancelsEarly (s : State) (c : CoreId) (ea : Word) (load : Bool) : Bool :=
  match regionOf c ea with
  | .core _ _ => false
  | .bank b _ => load && ((s.bank b).ret == .retained || (!s.secure b && s.bankCheck b (masterCore c) == .refuse))
  | _ => true

/-! ## Address checks -/

/-- The fault of a load of `size` bytes at an address, if any. Log entry 13 (DEDUCED). -/
def State.loadFault (s : State) (c : CoreId) (ea : Word) (size : Nat) : Option Byte :=
  if !aligned ea size then some 0x02
  else match regionOf c ea with
    | .gap => some 0x04
    | .chain _ _ => some 0x04
    | .ctrl _ => if size < 4 then some 0x04 else none
    | .system => if (s.windowOf ea).isNone then some 0x04 else none
    | _ => none

/-- The fault of a store (R420, R548). Log entry 13 (DEDUCED). -/
def State.storeFault (s : State) (c : CoreId) (ea : Word) (size : Nat) : Option Byte :=
  if !aligned ea size then some 0x02
  else match regionOf c ea with
    | .gap => some 0x04
    | .chain k _ => if size < 4 || !s.bit F.chnRwin_V k.toNat then some 0x04 else none
    | .ctrl _ => if size < 4 then some 0x04 else none
    | .system => if (s.windowOf ea).isNone then some 0x04 else none
    | _ => none

/-- The fault of CAS, SWAP or WAITEV (R88). -/
def lockFault (c : CoreId) (ea : Word) : Option Byte :=
  if !aligned ea 4 then some 0x02
  else match regionOf c ea with
    | .gap => some 0x04
    | .core _ _ => none
    | .bank _ _ => none
    | _ => some 0x06

/-- The word address that the store buffer and the run-ahead buffer know an access by: global for user memory. -/
def wordKey (c : CoreId) (ea : Word) : Nat :=
  match regionOf c ea with
  | .core _ g => g / 4 * 4
  | .bank _ g => g / 4 * 4
  | _ => ea.toNat / 4 * 4

/-- The access is to the thread's own core-local memory. -/
def isOwn (c : CoreId) (ea : Word) : Bool :=
  match regionOf c ea with
  | .core c' _ => c' == c
  | _ => false

/-- An address of user memory: core-local memory or a shared bank. -/
def onBlock (a : Nat) : Bool := decide (a < 0x04000000)

/-! ## Order of accesses (R184 to R186) -/

/-- An entry of the thread is of device type (R179, R185). -/
def State.farDevice (s : State) (t : Tid) (e : FarEntry) : Bool :=
  match e.op with
  | .queueRead => true
  | .queuePush _ => true
  | .value _ => s.isDevice (coreOf t) e.addr
  | _ => false

/-- A far access counts as performed before it has been delivered: a push once it is answered (R185). -/
def FarEntry.performed (e : FarEntry) : Bool :=
  match e.op with
  | .queuePush _ => e.resp.isSome
  | _ => false

def FarEntry.isLock (e : FarEntry) : Bool :=
  match e.op with
  | .cas => true
  | .swap => true
  | .waitev => true
  | _ => false

/-- A queue read that has obtained, or may still obtain, an item (R186). -/
def FarEntry.mayHoldItem (e : FarEntry) : Bool :=
  match e.op, e.resp with
  | .queueRead, some .empty => false
  | .queueRead, _ => true
  | _, _ => false

/-- The thread's far accesses older than a place in program order. -/
def Thread.olderFar (th : Thread) (seq : Nat) : List FarEntry := th.far.filter fun e => decide (e.seq < seq)

/-- Entries of the store buffer of thread t, older than a place in program order, not yet performed. -/
def State.olderStores (s : State) (t : Tid) (seq : Nat) : List SbEntry :=
  ((s.core (coreOf t)).sbuf ++ (s.core (coreOf t)).inflight).filter fun e => e.t == t && decide (e.seq < seq)

/-- A device access of the thread older than `seq` has not been performed (R185). -/
def State.deviceBefore (s : State) (t : Tid) (seq : Nat) : Bool :=
  ((s.thr t).olderFar seq).any (fun e => s.farDevice t e && !e.performed) || (s.olderStores t seq).any fun e => e.dev

/-- An access of the thread to a word, not yet sent, by which a younger one of the same word waits (R184).
Log entry 11 (DEDUCED). -/
def Thread.unsentAt (th : Thread) (c : CoreId) (key seq : Nat) (lockOnly : Bool) : Bool :=
  (th.olderFar seq).any fun e => e.resp.isNone && !e.sent && (e.isLock || !lockOnly) &&
    (match e.op with | .queueRead => false | .queuePush _ => false | _ => true) && wordKey c e.addr == key

/-- Some bytes of an access are in the store buffer, not all (R182). Log entry 11 (DEDUCED). -/
def State.partlyBuffered (s : State) (c : CoreId) (key : Nat) (mask : BitVec 4) : Bool :=
  let h := heldMask (s.core c).sbuf key &&& mask
  h != 0 && h != mask

/-- A load from normal memory, at its place in program order, waits. Log entries 9 (DESIGN CHOICE), 11 (DEDUCED). -/
def State.loadWaits (s : State) (t : Tid) (ea : Word) (size seq : Nat) : Bool :=
  let c := coreOf t
  let key := wordKey c ea
  ((s.thr t).olderFar seq).any (fun e => e.mayHoldItem) || (s.thr t).unsentAt c key seq true ||
    s.partlyBuffered c key (byteMask ea size)

/-! ## Run-ahead (R57, R58) -/

/-- Thread t's run-ahead entries are invalidated. -/
def State.endRunAhead (s : State) (t : Tid) : State := s.setThr t { s.thr t with runAhead := [] }

/-- A run-ahead entry is valid for 256 cycles. -/
def State.runAheadHit (s : State) (t : Tid) (key : Nat) : Option Word :=
  ((s.thr t).runAhead.find? fun r => r.addr == key && decide (s.cycle < r.filled + 256)).map fun r => r.data

/-- The value of a load that makes no access: run-ahead or wholly buffered data of normal memory (R58, R182).
Log entry 12 (DEDUCED). -/
def State.heldValue (s : State) (t : Tid) (ea : Word) (size : Nat) : Option Word :=
  let c := coreOf t
  let key := wordKey c ea
  if s.isDevice c ea then none
  else match s.runAheadHit t key with
    | some w => some (takeData ea size w)
    | none =>
      if heldMask (s.core c).sbuf key &&& byteMask ea size == byteMask ea size then
        some (takeData ea size (overlay (s.core c).sbuf key 0))
      else none

/-! ## Performing a far access -/

/-- What an attempt to perform a far access comes to. -/
inductive Tried where
  /-- It waits, not sent. -/
  | wait
  /-- It has left the core and waits at its bank. -/
  | arrived
  /-- Performed. -/
  | done (r : FarResp)
  /-- It has left the core, and its answer comes from outside. -/
  | sent
  /-- The thread has gone to sleep in it. -/
  | slept
  deriving DecidableEq, Repr

/-- An access that reaches a power domain: it is performed when the domain is ON or returns to it, and waits while the
domain wakes (R398, R399). -/
def State.whenOn (s : State) (d : Nat) (f : State → Tried × State) : Tried × State :=
  if (s.dom d).st == .on then f s
  else if ((s.wakeDomain d).dom d).st == .on then f (s.wakeDomain d)
  else (.wait, s.wakeDomain d)

/-- A control register as a thread of core c reads it (R549). -/
def State.readControl (s : State) (c : CoreId) (off : Nat) : Word × State :=
  let s1 := s.regRead (masterCore c) off
  (s1.answer.extractLsb' 0 32, { s1 with answer := s.answer })

/-- The bank makes no grant to another master in this cycle, and nothing waits there (R56). -/
def State.bankFree (s : State) (b : BankId) (m : Master) : Bool :=
  (s.bank b).grants.all (fun g => g == m) && !(s.bank b).waiting.any s.reqLive

/-- A load of a shared bank that may be made.  One that issued before its branch resolved takes only a cycle that no other
master asks for and counts in no conflict (R56); else it makes its access once the branch has resolved. Whether it did is slot
timing, a free value.  Log entry 6 (DESIGN CHOICE). -/
def State.bankLoad (s : State) (t : Tid) (e : FarEntry) (b : BankId) (w : Word) : Tried × State :=
  let m := masterCore (coreOf t)
  if (s.thr t).onPath e then
    let s1 := { s with fresh := s.fresh + 1 }
    if Config.earlyLoad s.fresh then (if s.bankFree b m then (.done (.value w), s1.touchBank b) else (.wait, s1))
    else (.done (.value w), s1.bankGrant b m (.far t e.seq))
  else (.done (.value w), s.bankGrant b m (.far t e.seq))

/-- A load reaches its memory or unit. -/
def State.tryLoad (s : State) (t : Tid) (e : FarEntry) (size : Nat) : Tried × State :=
  let c := coreOf t
  let ea := e.addr
  match s.heldValue t ea size with
  | some w => (.done (.value w), s)
  | none =>
    match regionOf c ea with
    | .core c' g => s.whenOn (coreDomain c') fun s =>
        if s.badWord g then (.done (.fault 0x08), s.wordMet g) else (.done (.value (takeData ea size (s.loadWord c g))), s)
    | .bank b g =>
      let r := BankReq.far t e.seq
      match s.bankAsk b (masterCore c) r false with
      | .ok =>
        if s.badWord g then (.done (.fault 0x08), (s.bankGrant b (masterCore c) r).wordMet g)
        else s.bankLoad t e b (takeData ea size (s.loadWord c g))
      | .zero => (.done (.value 0), s.bankGrant b (masterCore c) r)
      | .refuse => (.done (.fault 0x07), s.bankRefuses b (masterCore c) r)
      | .wait => (.arrived, s.bankWaits b (masterCore c) r)
    | .ctrl off =>
      let rd := fun (s : State) => (Tried.done (.value (s.readControl c off).1), (s.readControl c off).2)
      match accessDomain false off with
      | some d => s.whenOn d rd
      | none => rd s
    | .system =>
      match s.windowOf ea with
      | some k => (.sent, s.smRequest (.load t (s.physical k ea / 4 * 4) (s.windowTag k)))
      | none => (.done (.fault 0x04), s)
    | _ => (.done (.value 0), s)

/-- A write that a lock instruction makes. Log entry 15 (DEDUCED). -/
def State.writeLock (s : State) (t : Tid) (g : Nat) (v : Word) : State :=
  let s1 := (s.writeMirrored g 0xF v).dropRunAhead (coreOf t) g
  if s1.mirroredAt g then s1.coverMirror t else s1

/-- A WAITEV whose word equals A (R88, R138): it takes a watch entry and sleeps, or finds none. -/
def State.takeWatch (s : State) (t : Tid) (g : Nat) (old : Word) : Tried × State :=
  if (s.thr t).st == .stopping then (.slept, s.putToSleep t .sleepLock (.lock g))
  else if s.watches.length < 4096 then
    let s1 := { s with watches := s.watches ++ [Watch.mk t g false (wordOwned old)] }
    let s2 := s1.setFld F.lckWatch_HIGH (max (s1.fld F.lckWatch_HIGH) s1.watches.length)
    (.slept, s2.putToSleep t .sleepLock (.lock g))
  else (.done (.waitev false 1), s.satAdd F.lckCnt_WFULL 1)

/-- CAS, SWAP or WAITEV at the controller of its word, one indivisible access (R88, R136, R147); `live` is false at a
SECURE bank that answers 0 and drops writes (R173). Log entry 15 (DEDUCED). -/
def State.lockWord (s : State) (t : Tid) (e : FarEntry) (g : Nat) (live : Bool) : Tried × State :=
  if live && s.badWord g then (.done (.fault 0x08), s.wordMet g) else
  let s1 := if live then s.flushWord (coreOf t) g else s
  let old := if live then memWord s1.mem g else 0
  let put := fun (v : Word) => if live then s1.writeLock t g v else s1
  match e.op with
  | .cas =>
    if (s1.thr t).revoked.contains g then
      (.done (.cas old false 2), s1.setThr t { s1.thr t with revoked := (s1.thr t).revoked.erase g })
    else if old = e.a then (.done (.cas old true 0), put e.x)
    else (.done (.cas old false 0), s1)
  | .swap => (.done (.swap old), put e.a)
  | _ => if old = e.a then s1.takeWatch t g old else (.done (.waitev false 3), s1)

/-- The core's buffer holds entries of a word. -/
def State.wordBuffered (s : State) (c : CoreId) (g : Nat) : Bool :=
  ((s.core c).sbuf ++ (s.core c).inflight).any fun x => x.addr == g && !s.behindHandover x

/-- A lock access reaches its memory; at a mirrored bank it waits for its record's place (R435). Log entry 15 (DEDUCED). -/
def State.tryLock (s : State) (t : Tid) (e : FarEntry) : Tried × State :=
  let c := coreOf t
  match regionOf c e.addr with
  | .core c' g => s.whenOn (coreDomain c') fun s => s.lockWord t e g true
  | .bank b g =>
    let m := masterCore c
    let r := BankReq.far t e.seq
    match if e.op == .waitev then s.bankAsk b m r false else s.bankAskWrite b m r false with
    | .ok =>
      if s.pairing && s.mirroredAt g && s.wordBuffered c g then (.wait, s.touchBank b)
      else if s.pairing && s.mirroredAt g && !s.mirrorRoom then (.arrived, s.bankWaits b m r)
      else (s.bankGrant b m r).lockWord t e g true
    | .zero => (s.bankGrant b m r).lockWord t e g false
    | .refuse => (.done (.fault 0x07), s.bankRefuses b m r)
    | .wait => (.arrived, s.bankWaits b m r)
  | _ => (.done (.fault 0x06), s)

/-- The queue a queue instruction names: node and queue (R21, R84). -/
def State.queueNamed (s : State) (o : QOpnd) (x : Word) : Node × Qid :=
  if o.ind then (x.extractLsb' 14 18, x.extractLsb' 0 14) else (s.node, o.qid)

/-- Thread t may read queue q (R202, R203). -/
def State.mayRead (s : State) (t : Tid) (q : Qid) : Bool :=
  let r := s.fld F.qeQcfg_READER q.toNat
  s.queueUp q &&
    match s.fld F.qeQcfg_RKIND q.toNat with
    | 0 => r == t.toNat
    | 1 => r % 32 == (coreOf t).toNat
    | _ => false

/-- A queue read reaches its quadrant (R85, R208). -/
def State.tryRead (s : State) (t : Tid) (e : FarEntry) : Tried × State :=
  let nq := s.queueNamed (queueOperand (e.addr.setWidth 23)) e.x
  if nq.1 ≠ s.node then (.done (.fault 0x05), s)
  else s.whenOn (quadDomain (quadrantOf nq.2)) fun s =>
    if !s.mayRead t nq.2 then (.done (.fault 0x05), s)
    else if s.bit F.qeQcfg_MIRRORED nq.2.toNat && !s.mirrorRoom then (.wait, s)
    else match s.popItem nq.2 (.thread t) with
      | (some i, s1) => (.done (.item (itemPayload i.1) (itemTag i.1)), s1)
      | (none, s1) =>
        if e.blocking then (.slept, s1.putToSleep t .sleepQueue (.read nq.2)) else (.done .empty, s1)

/-- A push reaches its quadrant, or the egress (R86, R87, R418). Log entry 14 (DEDUCED). -/
def State.tryPush (s : State) (t : Tid) (e : FarEntry) (end_ : Bool) : Tried × State :=
  let o := queueOperand (e.addr.setWidth 23)
  let nq := s.queueNamed o e.x
  let item := mkItem end_ o.prio o.kind (senderThread t) e.a
  if nq.1 ≠ s.node then
    match s.egressPush nq.1 nq.2 true false e.y item with
    | (true, s1) => (.done (.pushed 0), s1)
    | (false, s1) =>
      if e.blocking then (.slept, s1.putToSleep t .sleepQueue .pushEgress) else (.done (.pushed 5), s1)
  else match s.push nq.2 item (ownerThread t) e.y with
    | (.later, s1) => (.wait, s1)
    | (.held, s1) => (.sent, s1)
    | (a, s1) =>
      if e.blocking && (a == .full || a == .poolFull || a == .over) then (.slept, s1.pushSleep t nq.2 a)
      else (.done (.pushed a.code), (if e.blocking then s1.dropWaiter (ownerThread t) else s1).coverPush t nq.2 a)

/-- A far access may be sent now (R182, R184 to R186). -/
def State.maySend (s : State) (t : Tid) (e : FarEntry) : Bool :=
  match e.op with
  | .queueRead => ((s.thr t).olderFar e.seq).isEmpty && !s.deviceBefore t e.seq
  | .queuePush _ =>
    ((s.thr t).olderFar e.seq).isEmpty && !s.deviceBefore t e.seq && !(s.olderStores t e.seq).any fun x => onBlock x.addr
  | .value op =>
    if s.isDevice (coreOf t) e.addr then !s.deviceBefore t e.seq else !s.loadWaits t e.addr op.size e.seq
  | _ => !((s.thr t).olderFar e.seq).any (fun x => x.mayHoldItem) &&
      !(s.thr t).unsentAt (coreOf t) (wordKey (coreOf t) e.addr) e.seq false

/-- The access has left the core and waits at its bank. -/
def State.waitsAtBank (s : State) (t : Tid) (e : FarEntry) : Bool :=
  match regionOf (coreOf t) e.addr with
  | .bank b _ => (s.bank b).waiting.any fun w => w.req == .far t e.seq
  | _ => false

/-- Try to perform a far access of thread t. Log entry 10 (DEDUCED). -/
def State.tryFar (s : State) (t : Tid) (e : FarEntry) : Tried × State :=
  if !s.waitsAtBank t e && !s.maySend t e then (.wait, s)
  else match e.op with
    | .value op => s.tryLoad t e op.size
    | .queueRead => s.tryRead t e
    | .queuePush end_ => s.tryPush t e end_
    | _ => s.tryLock t e

/-! ## Issue and delivery of far accesses -/

/-- The entry that an instruction at PC takes. -/
def State.newEntry (s : State) (t : Tid) (op : FarOp) (addr : Word) (blocking : Bool) : FarEntry :=
  let th := s.thr t
  ⟨op, addr, th.pc, th.a, th.x, th.y, th.rm, s.seq, blocking, false, none⟩

def State.addFar (s : State) (t : Tid) (e : FarEntry) : State := s.setThr t { s.thr t with far := (s.thr t).far ++ [e] }

/-- The same, and the thread goes on behind it. -/
def State.passFar (s : State) (t : Tid) (e : FarEntry) : State :=
  s.setThr t { s.thr t with far := (s.thr t).far ++ [e] }.retire

/-- A far access that younger instructions may issue past: the instruction is done for PC. Log entry 10 (DEDUCED). -/
def State.startFar (s : State) (t : Tid) (e : FarEntry) : State :=
  match s.tryFar t e with
  | (.done r, s1) => s1.passFar t { e with resp := some r }
  | (.sent, s1) => s1.passFar t { e with sent := true }
  | (_, s1) => s1.passFar t e

/-- LDW, STW, STWE or WAITEV: PC stays until it completes; while it cannot be sent it is still to issue. -/
def State.startBlocking (s : State) (t : Tid) (e : FarEntry) : State :=
  match s.tryFar t e with
  | (.done r, s1) => s1.addFar t { e with resp := some r }
  | (.sent, s1) => s1.addFar t { e with sent := true }
  | (.arrived, s1) => s1.addFar t e
  | (_, s1) => s1

/-- A response written to the registers (R76, R85 to R88). -/
def FarResp.write (r : FarResp) (e : FarEntry) (th : Thread) : Thread :=
  match r with
  | .value w => match e.op with
    | .value op => applyOp op e.a e.x e.y e.rm th w
    | _ => th
  | .item p tag => { th with a := p, qt := tag, f := putFlag th.f flagC true, qst := 0 }
  | .empty => { th with a := 0, qt := 0, f := putFlag th.f flagC false, qst := 1 }
  | .pushed q => { th with f := putFlag th.f flagC (q == 0), qst := q }
  | .cas old z l => { th with a := old, f := putFlag th.f flagZ z, lst := l }
  | .swap old => { th with a := old, lst := 0 }
  | .waitev z l => { th with f := putFlag th.f flagZ z, lst := l }
  | .fault _ => th

/-- A fault that an older instruction than the pending one raises takes its place (R561). -/
def Thread.olderFault (th : Thread) (f : PendFault) : Thread :=
  match th.pendFault with
  | none => { th with pendFault := some f }
  | some g => if f.seq < g.seq then { th with pendFault := some f } else th

/-- A response reaches the core (R43, R45). Log entry 10 (DEDUCED). -/
def State.deliverFar (s : State) (t : Tid) (e : FarEntry) (r : FarResp) : State :=
  let th := { s.thr t with far := (s.thr t).far.erase e }
  match r with
  | .fault code => s.setThr t (th.olderFault ⟨code, some e.pc, e.pc.extractLsb' 2 16, e.seq⟩)
  | _ =>
    let th1 := r.write e th
    s.setThr t (if e.blocking then th1.retire else th1)

/-- The outstanding request of a thread's load (the low 16 bits of its address pass translation unchanged, R551). -/
def loadRequest (t : Tid) (ea : Word) (r : SmReq) : Bool :=
  match r with
  | .load u a _ => u == t && a % 65536 == ea.toNat / 4 * 4 % 65536
  | _ => false

def State.dropRequest (s : State) (p : SmReq → Bool) : State :=
  { s with soc := { s.soc with reqs := s.soc.reqs.eraseP p } }

/-- A response whose access no longer stands (its thread was reset or faulted) is ignored (R524). -/
def State.orphanResponse (s : State) (t : Tid) : State :=
  let live := fun (a : Nat) => (s.thr t).far.any fun e => e.sent && e.resp.isNone && loadRequest t e.addr (.load t a {})
  s.dropRequest fun r => match r with
    | .load u a _ => u == t && !live a
    | _ => false

/-- The 64-byte line of SoC memory that a load reads. -/
def State.loadLine (s : State) (e : FarEntry) : Nat :=
  match s.windowOf e.addr with
  | some k => s.physical k e.addr / 64
  | none => e.addr.toNat / 64

/-- Accesses of a thread to SoC memory complete in issue order when both are of device type or lie in one 64-byte line
(R187). -/
def State.smBefore (s : State) (t : Tid) (e : FarEntry) : Bool :=
  ((s.thr t).olderFar e.seq).any (fun x => x.sent && x.resp.isNone &&
    ((s.farDevice t x && s.farDevice t e) || s.loadLine x == s.loadLine e)) ||
  (s.core (coreOf t)).inflight.any fun p => p.t == t && decide (p.seq < e.seq) && decide (0x10000000 ≤ p.addr) &&
    ((p.dev && s.farDevice t e) || p.phys / 64 == s.loadLine e)

/-- The entry is younger than a fault not yet settled, and is discarded (R45). -/
def Thread.discardsEntry (th : Thread) (e : FarEntry) : Bool :=
  match th.pendFault with
  | some f => decide (f.seq < e.seq)
  | none => false

/-- An answer of user memory with an uncorrectable error (R177); a CAS or SWAP that has been performed has had its data.
Log entry 16 (DEDUCED). -/
def uncorrectable (t : Tid) (e : FarEntry) (r : FarResp) (stat : BitVec 2) : FarResp :=
  match e.op with
  | .queueRead => r
  | .queuePush _ => r
  | .cas => r
  | .swap => r
  | _ =>
    match r with
    | .fault _ => r
    | _ => if stat ≠ 0 && onBlock (wordKey (coreOf t) e.addr) then .fault 0x08 else r

/-- The response of the SoC to a load reaches the core. Log entry 16 (DEDUCED). -/
def State.smLoaded (s : State) (t : Tid) (e : FarEntry) (op : VOp) (stat : BitVec 2) (data : Word) : State :=
  if !s.soc.reqs.any (loadRequest t e.addr) || s.smBefore t e then s
  else (s.dropRequest (loadRequest t e.addr)).deliverFar t e
    (if stat = 0 then .value (takeData e.addr op.size data) else .fault 0x04)

/-- An entry not sent so far is tried again. -/
def State.retryFar (s : State) (t : Tid) (e : FarEntry) : State :=
  match s.tryFar t e with
  | (.done r, s1) => s1.deliverFar t e r
  | (.sent, s1) =>
    let f := fun (x : FarEntry) => if x = e then { x with sent := true } else x
    s1.setThr t { s1.thr t with far := (s1.thr t).far.map f }
  | (.slept, s1) => s1.setThr t { s1.thr t with far := (s1.thr t).far.erase e }
  | (_, s1) => s1

/-- Entry `idx` of thread t completes, or is sent now (R43). Log entries 10 (DEDUCED), 16 (DEDUCED). -/
def State.farComplete (s : State) (t : Tid) (idx : Nat) (stat : BitVec 2) (data : Word) : State :=
  let th := s.thr t
  match th.far[idx]? with
  | none => s.orphanResponse t
  | some e =>
    if th.discardsEntry e then
      (s.dropRequest (loadRequest t e.addr)).setThr t { th with far := th.far.erase e }
    else match e.resp with
      | some r => s.deliverFar t e (uncorrectable t e r stat)
      | none =>
        if !e.sent then s.retryFar t e
        else match e.op with
          | .value op => s.smLoaded t e op stat data
          | _ => s

/-- FAR_ACCESS_COMPLETION (R43). -/
def execFarAccessCompletion (t : Tid) (idx : Nat) (stat : BitVec 2) (data : Word) (s : State) : Out :=
  .next (s.farComplete t idx stat data)

/-! ## Run-ahead as commands -/

/-- A far load of normal memory of the thread is outstanding (R57). Log entry 22 (DEDUCED). -/
def State.stalledOnLoad (s : State) (t : Tid) : Bool :=
  (s.thr t).far.any fun e => match e.op with
    | .value _ => !s.isDevice (coreOf t) e.addr
    | _ => false

/-- No device access of the thread stands before a run-ahead load (R58). Log entry 22 (DEDUCED). -/
def State.noDeviceOut (s : State) (t : Tid) : Bool := !(s.thr t).far.any fun e => s.farDevice t e

/-- The data a run-ahead load of a word finds; `none` where it makes no access (R56, R175, R399). -/
def State.runAheadData (s : State) (t : Tid) (ea : Word) : Option (Word × State) :=
  let c := coreOf t
  match regionOf c ea with
  | .core c' g => if (s.dom (coreDomain c')).st == .on && !s.badWord g then some (s.loadWord c g, s) else none
  | .bank b g =>
    if (s.bank b).ret == .active && s.bankCheck b (masterCore c) == .ok && s.bankFree b (masterCore c) && !s.badWord g then
      some (s.loadWord c g, s.touchBank b)
    else none
  | _ => none

/-- A run-ahead load fills a free entry (R57). Log entry 22 (DEDUCED). -/
def State.runAheadFill (s : State) (t : Tid) (m : BitVec 3) (o : BitVec 23) : State :=
  let th := s.thr t
  let can := th.st == .running && s.ready t && s.specCapable (coreOf t) (t.toNat % 16) && s.stalledOnLoad t && s.noDeviceOut t &&
    th.pendingRegs &&& modeReads m == 0 && decide (th.runAhead.length < 2)
  match operandOf th m o with
  | some (.mem ea) =>
    if !can || th.runAhead.any (fun r => r.addr == wordKey (coreOf t) ea) then s
    else match s.runAheadData t ea with
      | some r =>
        let s1 := r.2.setThr t { r.2.thr t with runAhead := (r.2.thr t).runAhead ++ [⟨wordKey (coreOf t) ea, r.1, s.cycle⟩] }
        s1.setCore (coreOf t) { s1.core (coreOf t) with unseen := (s1.core (coreOf t)).unseen + 1 }
      | none => s
  | _ => s

/-- RUN_AHEAD_LOAD (R57). -/
def execRunAheadLoad (t : Tid) (m : BitVec 3) (o : BitVec 23) (s : State) : Out := .next (s.runAheadFill t m o)

/-- RUN_AHEAD_ENTRY_EXPIRY (R58): 256 cycles after the entry was filled. -/
def execRunAheadEntryExpiry (t : Tid) (idx : Nat) (s : State) : Out :=
  match (s.thr t).runAhead[idx]? with
  | none => .next s
  | some r =>
    .next (if s.cycle < r.filled + 256 then s else s.setThr t { s.thr t with runAhead := (s.thr t).runAhead.erase r })

end Sys2Proof.Machine
end

