-- ==== Sys2Proof/Machine/LoadStore.lean ====
section
/-!
DEFINITION. Loads, stores, address instructions (R72 to R76, R91 to R99, R181 to R184) and the integer and binary32
arithmetic (R76, R107 to R117) as commands.
-/

namespace Sys2Proof.Machine

/-! ## System registers (R91 to R99) -/

/-- A number that names a system register. -/
def sysKnown (n : Nat) : Bool := decide (n < 4) || (decide (8 ≤ n) && decide (n ≤ 0x11))

/-- SR as it reads (R97). -/
def State.srView (s : State) (t : Tid) : Word :=
  let th := s.thr t
  BitVec.ofNat 32 (2 ^ 16 * (s.overShown (ownerThread t)).toNat + 2 ^ 8 * th.lst.toNat + th.qst.toNat * 2 ^ 4 + th.rm.toNat)

/-- System register n as thread t reads it; reading TIME0L latches the high word (R99). -/
def State.sysRead (s : State) (t : Tid) (n : Nat) : Word × State :=
  let th := s.thr t
  match n with
  | 0 => (featWord 0, s)
  | 1 => (featWord 1, s)
  | 2 => (featWord 2, s)
  | 3 => (featWord 3, s)
  | 0x08 => (t.setWidth 32, s)
  | 0x09 => ((t ++ th.epoch).setWidth 32, s)
  | 0x0A => (BitVec.ofNat 32 (2 ^ 8 * th.effective.toNat + th.prio.toNat), s)
  | 0x0B => (((s.reg .sltPred (coreOf t).toNat).toNat.testBit (16 + t.toNat % 16)).toNat |> BitVec.ofNat 32, s)
  | 0x0C => (th.tp, s)
  | 0x0D => (th.qt, s)
  | 0x0E => (s.srView t, s)
  | 0x0F => (th.f, s)
  | 0x10 => (s.tb0.extractLsb' 0 32, s.setThr t { th with timeH := s.tb0.extractLsb' 32 32 })
  | 0x11 => (th.timeH, s)
  | _ => (0, s)

/-- The bits of F that FLAGS names (R98). -/
def flagBits : Word := 0x001F070F

/-- A write of system register n: PRED, the rounding mode of SR, and FLAGS; all other fields are RO. -/
def State.sysWrite (s : State) (t : Tid) (n : Nat) (v : Word) : State :=
  match n with
  | 0x0B =>
    let bit := 2 ^ (t.toNat % 16)
    let off := s.fld F.sltPred_OFF (coreOf t).toNat
    s.setFld F.sltPred_OFF (if v.getLsbD 0 then off ||| bit else off - (off &&& bit)) (coreOf t).toNat
  | 0x0E => s.setThr t { s.thr t with rm := v.extractLsb' 0 2 }
  | 0x0F => s.setThr t { s.thr t with f := v &&& flagBits }
  | _ => s

/-! ## Instructions with a value operand, and loads -/

/-- The operand is of a form that the instruction accepts (R72, R74, R91). -/
def valueLegal (op : VOp) (th : Thread) (m : BitVec 3) (o : BitVec 23) : Bool :=
  match operandOf th m o with
  | none => false
  | some (.imm _) => !op.narrow
  | some (.mem _) => true
  | some (.sys n) => op == .ldA && sysKnown n

/-- The instruction completes with operand value v. -/
def State.finishValue (s : State) (t : Tid) (op : VOp) (v : Word) : State :=
  let th := s.thr t
  s.setThr t (applyOp op th.a th.x th.y th.rm th v).retire

/-- A memory operand: a fault, a value of the own core-local memory or without an access, or a far access. -/
def State.loadOperand (s : State) (t : Tid) (op : VOp) (ea : Word) : State :=
  let c := coreOf t
  match s.loadFault c ea op.size with
  | some code => s.threadFault t code
  | none =>
    if isOwn c ea then
      match s.heldValue t ea op.size with
      | some w => s.finishValue t op w
      | none =>
        if s.badWord (wordKey c ea) then (s.wordMet (wordKey c ea)).threadFault t 0x08
        else s.finishValue t op (takeData ea op.size (s.loadWord c (wordKey c ea)))
    else
      let s1 := if s.isDevice c ea then s.endRunAhead t else s
      match s1.heldValue t ea op.size, s1.loadWaits t ea op.size s1.seq with
      | some w, false => s1.finishValue t op w
      | _, _ => s1.startFar t (s1.newEntry t (.value op) ea false)

/-- What the instruction does once it issues. -/
def State.runValue (s : State) (t : Tid) (op : VOp) (m : BitVec 3) (o : BitVec 23) : State :=
  match operandOf (s.thr t) m o with
  | some (.imm v) => s.finishValue t op v
  | some (.sys n) => (s.sysRead t n).2.finishValue t op (s.sysRead t n).1
  | some (.mem ea) => (if s.cancelsEarly (coreOf t) ea true then s.reissued t else s).loadOperand t op ea
  | none => s

/-- A core-local load waits in the pipeline for the order of R182, R184 and R186. Log entry 9 (DESIGN CHOICE). -/
def State.valueStalls (s : State) (t : Tid) (op : VOp) (m : BitVec 3) (o : BitVec 23) : Bool :=
  match operandOf (s.thr t) m o with
  | some (.mem ea) => isOwn (coreOf t) ea && s.loadWaits t ea op.size (s.seq + 1)
  | _ => false

/-- The registers an instruction with a value operand reads and writes. -/
def valueRegs (op : VOp) (m : BitVec 3) (o : BitVec 23) : BitVec 4 :=
  op.reads ||| op.writes ||| modeReads m ||| (if m = 7 && o = 0x0F then sbF else 0)

/-- An instruction with a value operand, or a load (R76). -/
def State.valueInstr (s : State) (t : Tid) (op : VOp) (m : BitVec 3) (o : BitVec 23) : State :=
  s.issue t (valueLegal op (s.thr t) m o) (valueRegs op m o) (mayBeFar (coreOf t) m o) (s.valueStalls t op m o)
    fun s => s.runValue t op m o

def execLdA (t : Tid) (m : BitVec 3) (o : BitVec 23) (s : State) : Out := .next (s.valueInstr t .ldA m o)
def execLdX (t : Tid) (m : BitVec 3) (o : BitVec 23) (s : State) : Out := .next (s.valueInstr t .ldX m o)
def execLdY (t : Tid) (m : BitVec 3) (o : BitVec 23) (s : State) : Out := .next (s.valueInstr t .ldY m o)
def execLdBu (t : Tid) (m : BitVec 3) (o : BitVec 23) (s : State) : Out := .next (s.valueInstr t .ldBu m o)
def execLdHu (t : Tid) (m : BitVec 3) (o : BitVec 23) (s : State) : Out := .next (s.valueInstr t .ldHu m o)

/-! ## Arithmetic -/

def execAdd (t : Tid) (m : BitVec 3) (o : BitVec 23) (s : State) : Out := .next (s.valueInstr t .add m o)
def execAddc (t : Tid) (m : BitVec 3) (o : BitVec 23) (s : State) : Out := .next (s.valueInstr t .addc m o)
def execSub (t : Tid) (m : BitVec 3) (o : BitVec 23) (s : State) : Out := .next (s.valueInstr t .sub m o)
def execSubb (t : Tid) (m : BitVec 3) (o : BitVec 23) (s : State) : Out := .next (s.valueInstr t .subb m o)
def execAnd (t : Tid) (m : BitVec 3) (o : BitVec 23) (s : State) : Out := .next (s.valueInstr t .and m o)
def execOr (t : Tid) (m : BitVec 3) (o : BitVec 23) (s : State) : Out := .next (s.valueInstr t .or m o)
def execXor (t : Tid) (m : BitVec 3) (o : BitVec 23) (s : State) : Out := .next (s.valueInstr t .xor m o)
def execCmp (t : Tid) (m : BitVec 3) (o : BitVec 23) (s : State) : Out := .next (s.valueInstr t .cmp m o)
def execTst (t : Tid) (m : BitVec 3) (o : BitVec 23) (s : State) : Out := .next (s.valueInstr t .tst m o)
def execShl (t : Tid) (m : BitVec 3) (o : BitVec 23) (s : State) : Out := .next (s.valueInstr t .shl m o)
def execShr (t : Tid) (m : BitVec 3) (o : BitVec 23) (s : State) : Out := .next (s.valueInstr t .shr m o)
def execSar (t : Tid) (m : BitVec 3) (o : BitVec 23) (s : State) : Out := .next (s.valueInstr t .sar m o)
def execRol (t : Tid) (m : BitVec 3) (o : BitVec 23) (s : State) : Out := .next (s.valueInstr t .rol m o)
def execMul (t : Tid) (m : BitVec 3) (o : BitVec 23) (s : State) : Out := .next (s.valueInstr t .mul m o)
def execMulh (t : Tid) (m : BitVec 3) (o : BitVec 23) (s : State) : Out := .next (s.valueInstr t .mulh m o)
def execDiv (t : Tid) (m : BitVec 3) (o : BitVec 23) (s : State) : Out := .next (s.valueInstr t .div m o)
def execDivu (t : Tid) (m : BitVec 3) (o : BitVec 23) (s : State) : Out := .next (s.valueInstr t .divu m o)
def execRem (t : Tid) (m : BitVec 3) (o : BitVec 23) (s : State) : Out := .next (s.valueInstr t .rem m o)
def execRemu (t : Tid) (m : BitVec 3) (o : BitVec 23) (s : State) : Out := .next (s.valueInstr t .remu m o)
def execFadd (t : Tid) (m : BitVec 3) (o : BitVec 23) (s : State) : Out := .next (s.valueInstr t .fadd m o)
def execFsub (t : Tid) (m : BitVec 3) (o : BitVec 23) (s : State) : Out := .next (s.valueInstr t .fsub m o)
def execFmul (t : Tid) (m : BitVec 3) (o : BitVec 23) (s : State) : Out := .next (s.valueInstr t .fmul m o)
def execFdiv (t : Tid) (m : BitVec 3) (o : BitVec 23) (s : State) : Out := .next (s.valueInstr t .fdiv m o)
def execFsqrt (t : Tid) (m : BitVec 3) (o : BitVec 23) (s : State) : Out := .next (s.valueInstr t .fsqrt m o)
def execFcmp (t : Tid) (m : BitVec 3) (o : BitVec 23) (s : State) : Out := .next (s.valueInstr t .fcmp m o)
def execAddX (t : Tid) (m : BitVec 3) (o : BitVec 23) (s : State) : Out := .next (s.valueInstr t .addX m o)
def execAddY (t : Tid) (m : BitVec 3) (o : BitVec 23) (s : State) : Out := .next (s.valueInstr t .addY m o)
def execCmpX (t : Tid) (m : BitVec 3) (o : BitVec 23) (s : State) : Out := .next (s.valueInstr t .cmpX m o)
def execCmpY (t : Tid) (m : BitVec 3) (o : BitVec 23) (s : State) : Out := .next (s.valueInstr t .cmpY m o)

/-! ## Stores (R76, R168, R181, R182) -/

/-- What a store writes: register A, X or Y whole, or the low byte or halfword of A. -/
inductive StOp where
  | stA | stX | stY | stB | stH
  deriving DecidableEq, Repr

def StOp.size : StOp → Nat
  | .stB => 1
  | .stH => 2
  | _ => 4

def StOp.reads : StOp → BitVec 4
  | .stX => sbX
  | .stY => sbY
  | _ => sbA

def StOp.data : StOp → Thread → Word
  | .stX, th => th.x
  | .stY, th => th.y
  | _, th => th.a

/-- The operand is of a form that the store accepts. -/
def storeLegal (op : StOp) (th : Thread) (m : BitVec 3) (o : BitVec 23) : Bool :=
  match operandOf th m o with
  | none => false
  | some (.imm _) => false
  | some (.mem _) => true
  | some (.sys n) => op == .stA && sysKnown n

/-- Store-buffer entries of thread t that have not left (R181). -/
def State.storesHeld (s : State) (t : Tid) : Nat := ((s.core (coreOf t)).sbuf.filter fun e => e.t == t).length

/-- The store waits: its thread holds four entries, or an older access of the word has not been sent (R181, R184).
Log entries 9 (DESIGN CHOICE), 11 (DEDUCED). -/
def State.storeStalls (s : State) (t : Tid) (m : BitVec 3) (o : BitVec 23) : Bool :=
  match operandOf (s.thr t) m o with
  | some (.mem ea) =>
    decide (4 ≤ s.storesHeld t) || (s.thr t).unsentAt (coreOf t) (wordKey (coreOf t) ea) (s.seq + 1) false
  | _ => false

/-- The bank of an address is being handed over by this core: what leaves now is refused there (R168, R170).
Log entry 17 (DEDUCED). -/
def State.leavesLate (s : State) (c : CoreId) (key : Nat) : Bool :=
  match bankOf? key with
  | some b => (s.bank b).ho.isSome && s.ownerOf b == masterCore c
  | none => false

/-- The SoC address that a store is translated to when it leaves the pipeline, with its type and stream tag (R550, R551).
Log entry 17 (DEDUCED). -/
def State.storePhys (s : State) (c : CoreId) (ea : Word) : Nat × SmTag :=
  match regionOf c ea, s.windowOf ea with
  | .system, some k => (s.physical k ea / 4 * 4, s.windowTag k)
  | _, _ => (0, {})

/-- A store enters the store buffer. -/
def State.storeOperand (s : State) (t : Tid) (op : StOp) (ea : Word) : State :=
  let c := coreOf t
  let th := s.thr t
  let key := wordKey c ea
  match s.storeFault c ea op.size with
  | some code => s.threadFault t code
  | none =>
    let dev := s.isDevice c ea
    let s1 := (if dev then s.endRunAhead t else s).dropRunAhead c key
    (s1.enterStore t key (byteMask ea op.size) (placeData ea (op.data th)) (th.pc.extractLsb' 2 16) dev
      (s.leavesLate c key) (s.storePhys c ea).1 (s.storePhys c ea).2).retire t

def State.runStore (s : State) (t : Tid) (op : StOp) (m : BitVec 3) (o : BitVec 23) : State :=
  match operandOf (s.thr t) m o with
  | some (.sys n) => (s.sysWrite t n (s.thr t).a).retire t
  | some (.mem ea) => (if s.cancelsEarly (coreOf t) ea false then s.reissued t else s).storeOperand t op ea
  | _ => s

def storeRegs (op : StOp) (m : BitVec 3) (o : BitVec 23) : BitVec 4 :=
  op.reads ||| modeReads m ||| (if m = 7 && o = 0x0F then sbF else 0)

/-- A store, or a write of a system register (R76). -/
def State.storeInstr (s : State) (t : Tid) (op : StOp) (m : BitVec 3) (o : BitVec 23) : State :=
  s.issue t (storeLegal op (s.thr t) m o) (storeRegs op m o) false (s.storeStalls t m o) fun s => s.runStore t op m o

def execStA (t : Tid) (m : BitVec 3) (o : BitVec 23) (s : State) : Out := .next (s.storeInstr t .stA m o)
def execStX (t : Tid) (m : BitVec 3) (o : BitVec 23) (s : State) : Out := .next (s.storeInstr t .stX m o)
def execStY (t : Tid) (m : BitVec 3) (o : BitVec 23) (s : State) : Out := .next (s.storeInstr t .stY m o)
def execStB (t : Tid) (m : BitVec 3) (o : BitVec 23) (s : State) : Out := .next (s.storeInstr t .stB m o)
def execStH (t : Tid) (m : BitVec 3) (o : BitVec 23) (s : State) : Out := .next (s.storeInstr t .stH m o)

/-! ## LEA and LDHI -/

/-- An address-only instruction accepts the memory modes (R74). -/
def addressLegal (th : Thread) (m : BitVec 3) (o : BitVec 23) : Bool :=
  match operandOf th m o with
  | some (.mem _) => true
  | _ => false

/-- The effective address of a memory operand. -/
def eaOf (th : Thread) (m : BitVec 3) (o : BitVec 23) : Word :=
  match operandOf th m o with
  | some (.mem ea) => ea
  | _ => 0

/-- Write A and go on. -/
def State.finishA (s : State) (t : Tid) (v : Word) : State := s.setThr t { s.thr t with a := v }.retire

/-- LEA (R76): A takes the address; no access is made. -/
def execLea (t : Tid) (m : BitVec 3) (o : BitVec 23) (s : State) : Out :=
  .next (s.issue t (addressLegal (s.thr t) m o) (sbA ||| modeReads m) false false fun s => s.finishA t (eaOf (s.thr t) m o))

/-- LDHI (R76): A takes the operand field times 512. -/
def execLdhi (t : Tid) (m : BitVec 3) (o : BitVec 23) (s : State) : Out :=
  .next (s.issue t (m == 0) sbA false false fun s => s.finishA t (o ++ (0 : BitVec 9)))

end Sys2Proof.Machine
end

