-- ==== Sys2Proof/Machine/QueueLock.lean ====
section
/-!
DEFINITION. Queue instructions (R84 to R87) and lock instructions (R88, R136 to R138, R147) as commands.
-/

namespace Sys2Proof.Machine

/-! ## Queue instructions -/

/-- A queue operand is well formed: QID 0 with IND, and KIND and PRIO 0 for a read (R84). -/
def queueLegal (m : BitVec 3) (o : BitVec 23) (read : Bool) : Bool :=
  let q := queueOperand o
  m == 6 && (!q.ind || q.qid == 0) && (!read || (q.kind == 0 && q.prio == 0))

/-- The registers a queue instruction reads and writes (R85, R86). -/
def queueRegs (o : BitVec 23) (read : Bool) : BitVec 4 :=
  sbA ||| sbF ||| (if read then 0 else sbY) ||| (if (queueOperand o).ind then sbX else 0)

/-- A queue read or push: a device access (R185), always with a far-access entry (R43). -/
def State.queueInstr (s : State) (t : Tid) (op : FarOp) (read blocking : Bool) (m : BitVec 3) (o : BitVec 23) : State :=
  s.issue t (queueLegal m o read) (queueRegs o read) true false fun s =>
    let s1 := s.endRunAhead t
    let e := s1.newEntry t op (o.setWidth 32) blocking
    if blocking then s1.startBlocking t e else s1.startFar t e

/-- LDQ (R85). -/
def execLdq (t : Tid) (m : BitVec 3) (o : BitVec 23) (s : State) : Out := .next (s.queueInstr t .queueRead true false m o)
/-- LDW (R85). -/
def execLdw (t : Tid) (m : BitVec 3) (o : BitVec 23) (s : State) : Out := .next (s.queueInstr t .queueRead true true m o)
/-- STQ (R86). -/
def execStq (t : Tid) (m : BitVec 3) (o : BitVec 23) (s : State) : Out :=
  .next (s.queueInstr t (.queuePush false) false false m o)
/-- STQE (R86). -/
def execStqe (t : Tid) (m : BitVec 3) (o : BitVec 23) (s : State) : Out :=
  .next (s.queueInstr t (.queuePush true) false false m o)
/-- STW (R86). -/
def execStw (t : Tid) (m : BitVec 3) (o : BitVec 23) (s : State) : Out :=
  .next (s.queueInstr t (.queuePush false) false true m o)
/-- STWE (R86). -/
def execStwe (t : Tid) (m : BitVec 3) (o : BitVec 23) (s : State) : Out :=
  .next (s.queueInstr t (.queuePush true) false true m o)

/-! ## Lock instructions -/

/-- The registers a lock instruction reads and writes. -/
def lockRegs (op : FarOp) (m : BitVec 3) : BitVec 4 :=
  modeReads m ||| match op with
    | .cas => sbA ||| sbX ||| sbF
    | .waitev => sbA ||| sbF
    | _ => sbA

/-- CAS, SWAP or WAITEV: always with a far-access entry (R43). -/
def State.lockInstr (s : State) (t : Tid) (op : FarOp) (m : BitVec 3) (o : BitVec 23) : State :=
  s.issue t (addressLegal (s.thr t) m o) (lockRegs op m) true false fun s =>
    let ea := eaOf (s.thr t) m o
    match lockFault (coreOf t) ea with
    | some code => s.threadFault t code
    | none =>
      let s1 := s.endRunAhead t
      let e := s1.newEntry t op ea (op == .waitev)
      if op == .waitev then s1.startBlocking t e else s1.startFar t e

/-- CAS (R88). -/
def execCas (t : Tid) (m : BitVec 3) (o : BitVec 23) (s : State) : Out := .next (s.lockInstr t .cas m o)
/-- SWAP (R88). -/
def execSwap (t : Tid) (m : BitVec 3) (o : BitVec 23) (s : State) : Out := .next (s.lockInstr t .swap m o)
/-- WAITEV (R88). -/
def execWaitev (t : Tid) (m : BitVec 3) (o : BitVec 23) (s : State) : Out := .next (s.lockInstr t .waitev m o)

end Sys2Proof.Machine
end

