-- ==== Sys2Proof/Machine/Branch.lean ====
section
/-!
DEFINITION. Branches with their delay slots and their prediction (R46 to R54, R71, R80 to R83), fences and MSYNC (R188 to
R190), HALT (R82, R127), illegal instructions (R70, R74, R77, R89, R91, R105) and the REG group (R77) as commands.
-/

namespace Sys2Proof.Machine

/-! ## Prediction (R50 to R54) -/

/-- The thread's OFF bit (R52). -/
def State.predOff (s : State) (t : Tid) : Bool := (s.fld F.sltPred_OFF (coreOf t).toNat).testBit (t.toNat % 16)

/-- The table entry a branch at this PC uses, when it is the thread's own (R51). -/
def State.predHit (s : State) (t : Tid) (pc : Word) : Option (BitVec 2) :=
  match smGet none (s.core (coreOf t)).table (bitsOf pc 2 8) with
  | some e => if e.tid = t then some e.ctr else none
  | none => none

/-- The predicted outcome of a branch with the given sign of displacement. -/
def State.predicted (s : State) (t : Tid) (pc : Word) (back : Bool) : Bool :=
  if s.predOff t then false
  else if (s.core (coreOf t)).mode == .service then back
  else match s.predHit t pc with
    | some c => decide (2 ≤ c.toNat)
    | none => back

/-- A counter moved one step toward the outcome. -/
def trained (c : BitVec 2) (taken : Bool) : BitVec 2 :=
  if taken then (if c = 3 then 3 else c + 1) else (if c = 0 then 0 else c - 1)

/-- The entry of a resolved branch is updated (R51), not in SERVICE mode and not for a thread with OFF set. -/
def State.trainPred (s : State) (t : Tid) (pc : Word) (taken : Bool) : State :=
  let c := coreOf t
  let x := s.core c
  if s.predOff t || x.mode == .service then s
  else
    let ctr : BitVec 2 := match s.predHit t pc with
      | some k => trained k taken
      | none => if taken then 2 else 1
    s.setCore c { x with table := smSet none x.table (bitsOf pc 2 8) (some ⟨t, ctr⟩) }

/-- The most a misprediction can squash: the thread issues in at most the six cycles behind the branch; the slot of a
branch that completes is not squashed, and a predicted-taken branch leaves one cycle to the redirect (R40, R48, R54).
A thread that is not speculation-capable issues no more than the slot of an annulling branch. -/
def squashLimit (capable annul predicted : Bool) : Nat :=
  match capable, predicted with
  | true, true => if annul then 5 else 4
  | true, false => 5
  | false, true => if annul then 1 else 0
  | false, false => 0

/-- A misprediction squashes what the thread issued since on the wrong path, and its run-ahead data (R54, R58).
Log entry 6 (DESIGN CHOICE). -/
def State.mispredict (s : State) (t : Tid) (annul predicted : Bool) : State :=
  let limit := squashLimit (s.specCapable (coreOf t) (t.toNat % 16)) annul predicted
  (s.squashes t limit).endRunAhead t

/-! ## Branches -/

/-- A branch resolves: its delay slot is next (R46, R47). -/
def State.takeBranch (s : State) (t : Tid) (annul taken : Bool) (target : Word) (path : Option (Word × Nat)) : State :=
  let th := s.thr t
  s.setThr t { th with pc := th.pc + 4, slot := some ⟨taken, annul, target, th.pc + 8⟩, path := path }

/-- A predicted branch resolves; a thread that issues past an unresolved branch has done so along the path that proves
right: of it at most one instruction at a predicted target, or two behind the slot, have issued by t + 3 (R40, R53). -/
def State.resolveBranch (s : State) (t : Tid) (annul taken back : Bool) (target : Word) : State :=
  let pc := (s.thr t).pc
  let capable := s.specCapable (coreOf t) (t.toNat % 16)
  let wrong := (capable || annul) && s.predicted t pc back != taken
  let s1 := s.trainPred t pc taken
  let path := if capable && !wrong then some (if taken then (target, 1) else (pc + 8, 2)) else none
  (if wrong then s1.mispredict t annul (s.predicted t pc back) else s1).takeBranch t annul taken target path

/-- No branch and no HALT may stand in a delay slot (R82). -/
def Thread.outsideSlot (th : Thread) : Bool := th.slot.isNone

/-- The target of a displacement of n bits (R71). -/
def branchTarget (pc : Word) (disp : Word) : Word := pc + BitVec.shiftLeft disp 2

/-- GO.cc (R80): COND 0 reads no flags. -/
def execGoCc (t : Tid) (annul : Bool) (cond : BitVec 4) (disp : BitVec 21) (s : State) : Out :=
  .next (s.issue t ((s.thr t).outsideSlot && cond != 0xF) (if cond = 0 then 0 else sbF) false false fun s =>
    s.resolveBranch t annul (condHolds (s.thr t).f cond) (disp.getLsbD 20)
      (branchTarget (s.thr t).pc (disp.signExtend 32)))

/-- GOL (R83): Y takes the address after the delay slot. -/
def execGol (t : Tid) (annul : Bool) (cond : BitVec 4) (disp : BitVec 21) (s : State) : Out :=
  .next (s.issue t ((s.thr t).outsideSlot && cond == 0) sbY false false fun s =>
    let pc := (s.thr t).pc
    let s1 := s.resolveBranch t annul true (disp.getLsbD 20) (branchTarget pc (disp.signExtend 32))
    s1.setThr t { s1.thr t with y := pc + 8 })

/-- GOI (R83): never predicted, never annulling, and so it trains no prediction entry (R51). Log entries 13 (DEDUCED),
62 (DESIGN CHOICE). -/
def execGoi (t : Tid) (m : BitVec 3) (o : BitVec 23) (s : State) : Out :=
  .next (s.issue t ((s.thr t).outsideSlot && addressLegal (s.thr t) m o) (modeReads m) false false fun s =>
    let ea := eaOf (s.thr t) m o
    if !aligned ea 4 then s.threadFault t 0x02 else s.takeBranch t false true ea none)

/-- A compare-and-branch on two values (R81). -/
def State.compareBranch (s : State) (t : Tid) (annul : Bool) (rel : BitVec 3) (a b : Word) (disp : BitVec 14) : State :=
  s.resolveBranch t annul (relHolds rel a b) (disp.getLsbD 13) (branchTarget (s.thr t).pc (disp.signExtend 32))

/-- CGO.A (R81). -/
def execCgoA (t : Tid) (annul : Bool) (rel : BitVec 3) (src : Bool) (imm : BitVec 7) (disp : BitVec 14) (s : State) : Out :=
  .next (s.issue t ((s.thr t).outsideSlot && (!src || imm == 0)) (if src then sbA ||| sbX else sbA) false false fun s =>
    let th := s.thr t
    s.compareBranch t annul rel th.a (if src then th.x else imm.signExtend 32) disp)

/-- CGO.X (R81). -/
def execCgoX (t : Tid) (annul : Bool) (rel : BitVec 3) (src : Bool) (imm : BitVec 7) (disp : BitVec 14) (s : State) : Out :=
  .next (s.issue t ((s.thr t).outsideSlot && (!src || imm == 0)) (if src then sbX ||| sbY else sbX) false false fun s =>
    let th := s.thr t
    s.compareBranch t annul rel th.x (if src then th.y else imm.signExtend 32) disp)

/-! ## Fences (R188) -/

/-- The conditions of a scope hold for what stands before place `seq`: scopes 0 C, 1 H, 2 S. -/
def State.fenceHolds (s : State) (t : Tid) (scope : BitVec 2) (seq : Nat) : Bool :=
  let c := coreOf t
  let es := ((s.core c).sbuf ++ (s.core c).inflight).filter fun e => decide (e.seq ≤ seq)
  let own := fun (e : SbEntry) => e.t == t && decide (coreMemBase c ≤ e.addr) && decide (e.addr < coreMemBase c + 0x40000)
  (s.thr t).far.isEmpty &&
    match scope.toNat with
    | 0 => !es.any own
    | 1 => !es.any (fun e => own e || onBlock e.addr)
    | _ => es.isEmpty

/-- A fence that has been issued completes once its conditions hold. Log entry 18 (DEDUCED). -/
def State.fenceWaits (s : State) (t : Tid) (scope : BitVec 2) (seq : Nat) : State :=
  let th := s.thr t
  if (th.st == .running || th.st == .stopping) && th.pendFault.isNone && s.fenceHolds t scope seq then
    s.setThr t { th with fence := none }.retire
  else s

/-- A fence issues, and completes at once or when its command comes again. Log entry 18 (DEDUCED). -/
def State.fence (s : State) (t : Tid) (scope : BitVec 2) : State :=
  match (s.thr t).fence with
  | some (k, seq) => s.fenceWaits t k seq
  | none =>
    s.issue t true 0 false false fun s =>
      let s1 := s.endRunAhead t
      if s1.fenceHolds t scope s1.seq then s1.retire t
      else s1.setThr t { s1.thr t with fence := some (scope, s1.seq) }

/-- FENCE.C (R188). -/
def execFenceC (t : Tid) (s : State) : Out := .next (s.fence t 0)
/-- FENCE.H (R188). -/
def execFenceH (t : Tid) (s : State) : Out := .next (s.fence t 1)
/-- FENCE.S (R188). -/
def execFenceS (t : Tid) (s : State) : Out := .next (s.fence t 2)

/-! ## MSYNC (R190, R434) -/

/-- MACK covers an MSEQ, modulo 2^20. -/
def mackCovers (acked : BitVec 20) (mseq : Nat) : Bool := decide ((acked - BitVec.ofNat 20 mseq).toNat < 2 ^ 19)

/-- A far access that writes a mirrored bank or pushes to a mirrored queue of this block. -/
def State.mirrorsFar (s : State) (t : Tid) (e : FarEntry) : Bool :=
  match e.op with
  | .cas => s.mirroredAt (wordKey (coreOf t) e.addr)
  | .swap => s.mirroredAt (wordKey (coreOf t) e.addr)
  | .queuePush _ =>
    let nq := s.queueNamed (queueOperand (e.addr.setWidth 23)) e.x
    nq.1 == s.node && s.bit F.qeQcfg_MIRRORED nq.2.toNat
  | _ => false

/-- The thread's older mirrored stores and pushes have been performed and acknowledged by the partner. -/
def State.mirrorSynced (s : State) (t : Tid) : Bool :=
  let c := coreOf t
  !s.pairing ||
    (!((s.core c).sbuf ++ (s.core c).inflight).any (fun e => e.t == t && s.mirroredAt e.addr) &&
     !(s.thr t).far.any (fun e => e.resp.isNone && s.mirrorsFar t e) &&
     (match (s.thr t).mseq with
      | none => true
      | some n => mackCovers s.mirror.acked n))

/-- MSYNC: the thread waits at it until it may complete. Log entry 18 (DEDUCED). -/
def execMsync (t : Tid) (s : State) : Out :=
  .next (s.issue t true 0 false (!s.mirrorSynced t) fun s => (s.endRunAhead t).retire t)

/-! ## HALT and illegal instructions -/

/-- HALT issues; HALT_COMPLETE ends it (R127). -/
def execHalt (t : Tid) (s : State) : Out :=
  .next (s.issue t (s.thr t).outsideSlot 0 false false fun s => s.setThr t { s.thr t with halting := some (s.thr t).pc })

/-- The form of an operand field that a mode requires (R72). -/
def modeFieldOk (m : Nat) (o : Nat) : Bool :=
  match m with
  | 1 => decide (o < 1024)
  | 4 => o == 0
  | 7 => decide (o < 4096)
  | _ => true

/-- A memory/ALU word of opcode `op` is well formed (R74, R76, R77, R84, R89, R91). -/
def memoryWordOk (op m o : Nat) : Bool :=
  let sys := m == 7 && modeFieldOk m o && sysKnown o
  let mem := decide (1 ≤ m) && decide (m ≤ 5) && modeFieldOk m o
  let queue := fun (read : Bool) => queueLegal (BitVec.ofNat 3 m) (BitVec.ofNat 23 o) read
  if op = 0x01 then m == 0 || mem || sys
  else if op = 0x04 then mem || sys
  else if op ≤ 0x03 then m == 0 || mem
  else if op ≤ 0x0B then mem
  else if op = 0x0C then m == 0
  else if op ≤ 0x29 then m == 0 || mem
  else if op ≤ 0x2B then queue true
  else if op ≤ 0x2F then queue false
  else if op ≤ 0x32 || op = 0x35 then mem
  else if op = 0x38 then m == 0 && decide (o < 3)
  else if op = 0x39 || op = 0x3A then m == 0 && o == 0
  else m == 0 && (decide (o ≤ 9) || (decide (0x10 ≤ o) && decide (o ≤ 0x15)))

/-- A word is a well-formed instruction (R70, R105), its place in a delay slot apart. -/
def wordOk (w : Word) : Bool :=
  let op := bitsOf w 26 6
  if op = 0x33 then bitsOf w 21 4 != 0xF
  else if op = 0x34 then bitsOf w 21 4 == 0
  else if op = 0x36 || op = 0x37 then !w.getLsbD 21 || bitsOf w 14 7 == 0
  else if op = 0 || op = 0x3F || (decide (0x3B ≤ op) && decide (op ≤ 0x3D)) then false
  else memoryWordOk op (bitsOf w 23 3) (bitsOf w 0 23)

/-- ILLEGAL_INSTRUCTION (R105): a word that is no well-formed instruction is at the head of the thread's queue.
Log entry 19 (DEDUCED). -/
def execIllegalInstruction (t : Tid) (w : Word) (s : State) : Out :=
  .next (if wordOk w then s else s.issue t false 0 false false fun s => s)

/-! ## REG group (R77) -/

/-- An instruction that reads and writes registers only. -/
def State.regInstr (s : State) (t : Tid) (regs : BitVec 4) (f : Thread → Thread) : State :=
  s.issue t true regs false false fun s => s.setThr t (f (s.thr t)).retire

/-- A result in A with its flags. -/
def Thread.setAF (th : Thread) (r : Word × Word) : Thread := { th with a := r.1, f := r.2 }

/-- A binary32 conversion's result in A, its sticky flags added (R78). -/
def Thread.setSticky (th : Thread) (r : Word × Word) : Thread := { th with a := r.1, f := th.f ||| r.2 }

def execNop (t : Tid) (s : State) : Out := .next (s.regInstr t 0 fun th => th)
def execNeg (t : Tid) (s : State) : Out := .next (s.regInstr t (sbA ||| sbF) fun th => th.setAF (subFlags th.f 0 th.a false))
def execNot (t : Tid) (s : State) : Out :=
  .next (s.regInstr t (sbA ||| sbF) fun th => th.setAF (~~~th.a, setNZ th.f (~~~th.a)))
def execMvXa (t : Tid) (s : State) : Out := .next (s.regInstr t (sbA ||| sbX) fun th => { th with x := th.a })
def execMvYa (t : Tid) (s : State) : Out := .next (s.regInstr t (sbA ||| sbY) fun th => { th with y := th.a })
def execMvAx (t : Tid) (s : State) : Out := .next (s.regInstr t (sbA ||| sbX) fun th => { th with a := th.x })
def execMvAy (t : Tid) (s : State) : Out := .next (s.regInstr t (sbA ||| sbY) fun th => { th with a := th.y })
def execMvYx (t : Tid) (s : State) : Out := .next (s.regInstr t (sbX ||| sbY) fun th => { th with y := th.x })
def execMvXy (t : Tid) (s : State) : Out := .next (s.regInstr t (sbX ||| sbY) fun th => { th with x := th.y })
def execClz (t : Tid) (s : State) : Out :=
  .next (s.regInstr t (sbA ||| sbF) fun th => th.setAF (BitVec.ofNat 32 (clz th.a), setNZ th.f (BitVec.ofNat 32 (clz th.a))))
def execFneg (t : Tid) (s : State) : Out := .next (s.regInstr t sbA fun th => { th with a := th.a ^^^ 0x80000000 })
def execFabs (t : Tid) (s : State) : Out := .next (s.regInstr t sbA fun th => { th with a := th.a &&& 0x7FFFFFFF })
def execFtoi (t : Tid) (s : State) : Out :=
  .next (s.regInstr t (sbA ||| sbF) fun th => th.setSticky (fToInt th.rm th.a (-2 ^ 31) (2 ^ 31 - 1)))
def execFtou (t : Tid) (s : State) : Out :=
  .next (s.regInstr t (sbA ||| sbF) fun th => th.setSticky (fToInt th.rm th.a 0 (2 ^ 32 - 1)))
def execItof (t : Tid) (s : State) : Out :=
  .next (s.regInstr t (sbA ||| sbF) fun th => th.setSticky (fOfInt th.rm th.a.toInt))
def execUtof (t : Tid) (s : State) : Out :=
  .next (s.regInstr t (sbA ||| sbF) fun th => th.setSticky (fOfInt th.rm th.a.toNat))

end Sys2Proof.Machine
end

