-- ==== Sys2Proof/Machine/StoreBuffer.lean ====
section
/-!
DEFINITION. Stores on their way out of a core (R166, R168, R181 to R187, R435, R523, R561): entries leave the store
buffer, are performed and acknowledged, or are refused.
-/

namespace Sys2Proof.Machine

/-! ## Leaving the buffer (R183, R185) -/

/-- An entry may leave: its controller's older entries have left, and for a device store every older device access of its
thread has been performed. -/
def State.mayLeave (s : State) (c : CoreId) (idx : Nat) (e : SbEntry) : Bool :=
  let x := s.core c
  !(x.sbuf.take idx).any (fun p => controllerOf p.addr == controllerOf e.addr) &&
    !(e.dev && s.deviceBefore e.t e.seq)

/-- The request that carries a store to SoC memory (R550). -/
def sbRequest (c : CoreId) (e : SbEntry) : SmReq := .store e.t e.phys e.data e.mask e.tag

/-- The entry leaves toward its controller; a store to SoC memory becomes a request. -/
def State.entryLeaves (s : State) (c : CoreId) (idx : Nat) : State :=
  match (s.core c).sbuf[idx]? with
  | none => s
  | some e =>
    if !s.mayLeave c idx e then s
    else
      let x := s.core c
      let s1 := s.setCore c { x with sbuf := x.sbuf.eraseIdx idx, inflight := x.inflight ++ [e] }
      if 0x10000000 ≤ e.addr then s1.smRequest (sbRequest c e) else s1

/-- STORE_BUFFER_ENTRY_LEAVE (R183). -/
def execStoreBufferEntryLeave (c : CoreId) (idx : Nat) (s : State) : Out := .next (s.entryLeaves c idx)

/-! ## Performing a store -/

/-- The store's turn at its controller: in the order of arrival on the block, in issue order for SoC memory where R187
asks for it. -/
def State.storeTurn (s : State) (c : CoreId) (idx : Nat) (e : SbEntry) : Bool :=
  let before := (s.core c).inflight.take idx
  if 0x10000000 ≤ e.addr then
    s.soc.reqs.contains (sbRequest c e) &&
      !before.any (fun p => p.t == e.t && decide (0x10000000 ≤ p.addr) && ((p.dev && e.dev) || p.phys / 64 == e.phys / 64)) &&
      !((s.thr e.t).olderFar e.seq).any fun x => x.sent && x.resp.isNone &&
        ((s.farDevice e.t x && e.dev) || s.loadLine x == e.phys / 64)
  else !before.any fun p => controllerOf p.addr == controllerOf e.addr

/-- The entry is done. -/
def State.dropInflight (s : State) (c : CoreId) (idx : Nat) : State :=
  s.setCore c { s.core c with inflight := (s.core c).inflight.eraseIdx idx }

/-- How a bank takes the store: an entry that left its core before a handover is performed (R168).
Log entry 17 (DEDUCED). -/
def State.storeCheck (s : State) (c : CoreId) (b : BankId) (e : SbEntry) : BankAns :=
  s.bankAskWrite b (masterCore c) (.store c e.seq) (s.ownerOf b == masterCore c && !e.late)

/-- A store to a shared bank is performed with its mirror record, once that has a place (R435). Log entry 17 (DEDUCED). -/
def State.bankStore (s : State) (c : CoreId) (idx : Nat) (b : BankId) (e : SbEntry) : State :=
  let m := masterCore c
  let r := BankReq.store c e.seq
  match s.storeCheck c b e with
  | .ok =>
    if s.mirroredAt e.addr && !s.mirrorRoom then s.bankWaits b m r
    else
      let s1 := ((s.bankGrant b m r).dropInflight c idx).writeMirrored e.addr e.mask e.data
      if s1.mirroredAt e.addr then s1.coverMirror e.t else s1
  | .zero => (s.bankGrant b m r).dropInflight c idx
  | .refuse => s.bankLeaves b r
  | .wait => s.bankWaits b m r

/-- A store to a control register is performed by its unit, with the storing thread as its writer (R27, R549).
Log entry 58 (DEDUCED). -/
def State.controlStore (s : State) (e : SbEntry) (off : Nat) : State :=
  let s1 := ({ s with storeAt := some (e.pc, e.seq) }).regWrite (.thread e.t) off e.data
  { s1 with storeAt := none }

/-- A store to a register that waits for a place in the mirror egress: it stays on its way (R435). -/
def State.storeWaits (s : State) (e : SbEntry) (off : Nat) : Bool :=
  match locate off with
  | some (k, i, _) => s.recordWaits (.thread e.t) k i e.data
  | none => false

/-- A store reaches a core-local memory: one that its hearth had accepted before it drains is performed there and wakes
nothing (R397, R399). -/
def State.coreStore (s : State) (c c' : CoreId) (idx g : Nat) (e : SbEntry) : State :=
  let d := coreDomain c'
  let f := fun (s : State) => (s.dropInflight c idx).performWrite g e.mask e.data
  if (s.dom d).st = .draining && (s.dom d).accepted.contains (c, e.seq) then
    f (s.setDom d { s.dom d with accepted := (s.dom d).accepted.erase (c, e.seq) })
  else s.atDomain d f

/-- The address lies in a chain window (R420). -/
def onChain (a : Nat) : Bool := decide (0x08000000 ≤ a) && decide (a < 0x10000000)

/-- What a store that has left its core does at its target. -/
def State.performStore (s0 : State) (c : CoreId) (idx : Nat) (e : SbEntry) : State :=
  let s := if onChain e.addr then s0 else s0.endRun c
  match regionOf c (BitVec.ofNat 32 e.addr) with
  | .core c' g => s.coreStore c c' idx g e
  | .bank b _ => s.bankStore c idx b e
  | .ctrl off =>
    let wr := fun (s : State) => if s.storeWaits e off then s else (s.dropInflight c idx).controlStore e off
    match accessDomain true off with
    | some d => s.atDomain d wr
    | none => wr s
  | .chain k o =>
    (s.dropInflight c idx).chainStore c (BitVec.ofNat 18 (s.fld F.chnRwin_NODE k.toNat)) (o / 4) e.data
  | .system => (s.dropInflight c idx).dropRequest fun r => r == sbRequest c e
  | _ => s.dropInflight c idx

/-- A store is performed and acknowledged. -/
def State.storeAcked (s : State) (c : CoreId) (idx : Nat) : State :=
  match (s.core c).inflight[idx]? with
  | none => s.dropRequest fun r => match r with
    | .store c' _ _ _ _ => coreOf c' == c && !(s.core c).inflight.any (fun e => sbRequest c e == r)
    | _ => false
  | some e => if s.storeTurn c idx e then s.performStore c idx e else s

/-- STORE_ACKNOWLEDGED (R188). -/
def execStoreAcknowledged (c : CoreId) (idx : Nat) (s : State) : Out := .next (s.storeAcked c idx)

/-- A store's refusal reaches its core (R166, R523, R561). -/
def State.storeRefused (s : State) (c : CoreId) (idx : Nat) (stat : BitVec 2) : State :=
  match (s.core c).inflight[idx]? with
  | none => s
  | some e =>
    if !s.storeTurn c idx e then s
    else match regionOf c (BitVec.ofNat 32 e.addr) with
      | .bank b _ =>
        if s.storeCheck c b e == .refuse then
          ((s.dropInflight c idx).bankRefuses b (masterCore c) (.store c e.seq)).lateFault e.t 0x07 e.pc e.seq
        else s
      | .system =>
        if stat = 0 then s
        else ((s.dropInflight c idx).dropRequest fun r => r == sbRequest c e).lateFault e.t 0x04 e.pc e.seq
      | _ => s

/-- LATE_STORE_FAULT (R561). -/
def execLateStoreFault (c : CoreId) (idx : Nat) (stat : BitVec 2) (s : State) : Out := .next (s.storeRefused c idx stat)

end Sys2Proof.Machine
end

