-- ==== Sys2Proof/Machine/BankEvents.lean ====
section
/-!
DEFINITION. What ends a bank's wait (R168 to R175): a handover, a wipe or a wake is complete, and the accesses that waited
are performed in the order of their arrival.
-/

namespace Sys2Proof.Machine

/-- A far access that waited at its bank is performed; its response reaches the core by its own command. -/
def State.performFar (s : State) (t : Tid) (e : FarEntry) : State :=
  match s.tryFar t e with
  | (.done r, s1) =>
    let f := fun (x : FarEntry) => if x = e then { x with resp := some r } else x
    s1.setThr t { s1.thr t with far := (s1.thr t).far.map f }
  | (.slept, s1) => s1.setThr t { s1.thr t with far := (s1.thr t).far.erase e }
  | (_, s1) => s1

/-- The turn of a waiting access. -/
def State.serveReq (s : State) (b : BankId) (w : BankWait) : State :=
  match w.req with
  | .far t q =>
    match (s.thr t).far.find? fun e => e.seq == q && e.resp.isNone with
    | some e => s.performFar t e
    | none => s
  | .store c q =>
    match (s.core c).inflight.findIdx? fun e => e.seq == q with
    | some idx => s.storeAcked c idx
    | none => s
  | .release c => s.tryRelease c
  | .remote => s.remoteWrites
  | .copy => s.feedCopy
  | .table _ => s
  | .word _ _ _ _ => s.bankWord b w.m w.req

/-- The accesses waiting at bank b are performed in the order of arrival, up to one that still waits. -/
def State.serveBank (s : State) (b : BankId) : Nat → State
  | 0 => s
  | n + 1 =>
    match (s.bank b).waiting.filter s.reqLive with
    | [] => s.setBank b { s.bank b with waiting := [] }
    | w :: _ =>
      let s1 := s.serveReq b w
      if ((s1.bank b).waiting.filter s1.reqLive).head? = some w then s else s1.serveBank b n

/-- Every access that waits at bank b has its turn. -/
def State.serveWaiting (s : State) (b : BankId) : State := s.serveBank b (2 * (s.bank b).waiting.length)

/-- HANDOVER_COMPLETE (R168). -/
def execHandoverComplete (b : BankId) (s : State) : Out := .next ((s.handoverDone b).serveWaiting b)

/-- WIPE_COMPLETE (R169). -/
def execWipeComplete (b : BankId) (s : State) : Out := .next ((s.wipeDone b).serveWaiting b)

/-- BANK_WAKE_COMPLETE (R175): 12 us after the wake; a wipe that waited starts now. -/
def execBankWakeComplete (b : BankId) (s : State) : Out :=
  let x := s.bank b
  .next (if x.ret == .waking && decide (x.retAt + 12000 ≤ s.ns) then
      (s.setBank b { x with ret := .active, lastAccess := s.cycle
                            wiping := if x.wiping.isSome then some s.cycle else none }).serveWaiting b
    else s)

end Sys2Proof.Machine
end

