-- ==== Sys2Proof/Machine/Clock.lean ====
section
/-!
DEFINITION. One block cycle passing: what happens whatever is commanded (R30, R31, R62, R65, R261, R303, R385, R517, R524).
-/

namespace Sys2Proof.Machine

/-- A core issues nothing in this cycle. -/
def State.coreIdle (s : State) (c : CoreId) : Bool := !s.issuedNow.any fun t => coreOf t == c

/-- SLT.IDLECNT of every core (R65); cycles of issue that no instruction's command stands for are taken off
it (R54, R57).
Log entry 63 (DEDUCED). -/
def State.countIdle (s : State) : State :=
  (List.range 32).foldl (fun s i =>
    let c := BitVec.ofNat 5 i
    let x := s.core c
    if !s.coreIdle c then s
    else if 0 < x.unseen then s.setCore c { x with unseen := x.unseen - 1 }
    else s.satAdd F.sltIdlecnt_IDLE 1 i) s

/-- ISSUE and WAIT of every thread (R385). Log entry 23 (DESIGN CHOICE). -/
def State.countIssue (s : State) : State :=
  let f := fun (k : Nat) (th : Thread) =>
    let t := BitVec.ofNat 9 k
    { th with issued := th.issued + (s.issuedNow.contains t).toNat
              waited := th.waited + (!s.issuedNow.contains t && s.readyNow t).toNat }
  { s with threads := smMap {} s.threads f, issuedNow := [] }

/-- At a frame boundary a changed CLASS and a changed NOSPEC apply (R31, R62), and slot-table copies fall due (R35). -/
def State.frameBoundary (s : State) : State :=
  let f := fun (_ : Nat) (th : Thread) => { th with cls := th.clsNext.getD th.cls, clsNext := none }
  let s1 := (List.range 32).foldl (fun s i => s.snapTable (BitVec.ofNat 5 i)) { s with threads := smMap {} s.threads f }
  (List.range 32).foldl (fun s i =>
    let c := BitVec.ofNat 5 i
    match (s.core c).nospecNext with
    | none => s
    | some b => (s.setFld F.sltCtl_NOSPEC b.toNat i).setCore c { s.core c with nospecNext := none }) s1

/-- At a position 0 of the channel slot tables, copies that wait take their tables (R240). -/
def State.snapEngines (s : State) : State := (s.engines.map fun kv => kv.1).foldl (fun s e => s.snapSlots (BitVec.ofNat 6 e)) s

/-- The last cycle of an adaptation epoch: every bellows takes its measures (R384, R385). -/
def State.endEpoch (s : State) : State :=
  if (s.cycle + 1) % 65536 = 0 then (List.range 8).foldl (fun s h => s.takeEpoch (BitVec.ofNat 3 h)) s else s

/-- The time of the block moves on by one cycle. Log entry 1 (DESIGN CHOICE). -/
def State.advance (s : State) : State :=
  let s1 := { s with cycle := s.cycle + 1, tbSum := s.tbSum + s.incNow.setWidth 80
                     tbEra := s.tbEra + (s.tbSum.toNat + s.incNow.toNat) / 2 ^ 80, incNow := s.reg .tbT0inc, pulsedNow := [], wokeNow := [], cycEv := [] }
  let s2 := if s1.cycle % 16 = 0 then s1.snapEngines else s1
  if s2.cycle % 32 = 0 then s2.frameBoundary else s2

/-- Requests that waited for room at the system master port leave (R521). -/
def State.sendWaiting (s : State) : State :=
  let s1 := s.sendVectors
  { s1 with soc := sendHeld s1.soc.held.length s1.soc }

/-- Force releases that wait try their word again (R146), and the arbiter of every bank starts a cycle with no
grants (R178). -/
def State.memoryTick (s : State) : State :=
  let s1 := (List.range 32).foldl (fun s i => s.tryRelease (BitVec.ofNat 5 i)) s
  { s1 with banks := smMap {} s1.banks fun _ x => { x with grants := [] } }

/-- What waits for a domain to be ON, or for a place, goes on (R142, R361, R377, R399, R435). -/
def State.resume (s : State) : State := s.deliverRaises.drainRegs.moverLeaves.drainSignal.replacePinned

/-- One block cycle. Log entry 1 (DESIGN CHOICE). -/
def State.tick (s : State) : State :=
  s.countIdle.countIssue.endEpoch.readbackAll.integrateAll.endQueues.advance.arriveAll.memoryTick.sendWaiting.resume.chainTick.countMissed.settleReset

end Sys2Proof.Machine
end

