-- ==== Sys2Proof/Machine/Dispatch.lean ====
section
/-! DEFINITION. One arm per command: the direct call of its meaning. -/

namespace Sys2Proof.Machine

/-- The effect of a command on everything but the queue of waiting commands. -/
def exec (i : Instr) (s : State) : Host.Outcome State Fault Refusal :=
  match i with
  | .ldA t m o => Sys2Proof.Machine.execLdA t m o s
  | .ldX t m o => Sys2Proof.Machine.execLdX t m o s
  | .ldY t m o => Sys2Proof.Machine.execLdY t m o s
  | .stA t m o => Sys2Proof.Machine.execStA t m o s
  | .stX t m o => Sys2Proof.Machine.execStX t m o s
  | .stY t m o => Sys2Proof.Machine.execStY t m o s
  | .ldBu t m o => Sys2Proof.Machine.execLdBu t m o s
  | .ldHu t m o => Sys2Proof.Machine.execLdHu t m o s
  | .stB t m o => Sys2Proof.Machine.execStB t m o s
  | .stH t m o => Sys2Proof.Machine.execStH t m o s
  | .lea t m o => Sys2Proof.Machine.execLea t m o s
  | .ldhi t m o => Sys2Proof.Machine.execLdhi t m o s
  | .add t m o => Sys2Proof.Machine.execAdd t m o s
  | .addc t m o => Sys2Proof.Machine.execAddc t m o s
  | .sub t m o => Sys2Proof.Machine.execSub t m o s
  | .subb t m o => Sys2Proof.Machine.execSubb t m o s
  | .and t m o => Sys2Proof.Machine.execAnd t m o s
  | .or t m o => Sys2Proof.Machine.execOr t m o s
  | .xor t m o => Sys2Proof.Machine.execXor t m o s
  | .cmp t m o => Sys2Proof.Machine.execCmp t m o s
  | .tst t m o => Sys2Proof.Machine.execTst t m o s
  | .shl t m o => Sys2Proof.Machine.execShl t m o s
  | .shr t m o => Sys2Proof.Machine.execShr t m o s
  | .sar t m o => Sys2Proof.Machine.execSar t m o s
  | .rol t m o => Sys2Proof.Machine.execRol t m o s
  | .mul t m o => Sys2Proof.Machine.execMul t m o s
  | .mulh t m o => Sys2Proof.Machine.execMulh t m o s
  | .div t m o => Sys2Proof.Machine.execDiv t m o s
  | .divu t m o => Sys2Proof.Machine.execDivu t m o s
  | .rem t m o => Sys2Proof.Machine.execRem t m o s
  | .remu t m o => Sys2Proof.Machine.execRemu t m o s
  | .fadd t m o => Sys2Proof.Machine.execFadd t m o s
  | .fsub t m o => Sys2Proof.Machine.execFsub t m o s
  | .fmul t m o => Sys2Proof.Machine.execFmul t m o s
  | .fdiv t m o => Sys2Proof.Machine.execFdiv t m o s
  | .fsqrt t m o => Sys2Proof.Machine.execFsqrt t m o s
  | .fcmp t m o => Sys2Proof.Machine.execFcmp t m o s
  | .addX t m o => Sys2Proof.Machine.execAddX t m o s
  | .addY t m o => Sys2Proof.Machine.execAddY t m o s
  | .cmpX t m o => Sys2Proof.Machine.execCmpX t m o s
  | .cmpY t m o => Sys2Proof.Machine.execCmpY t m o s
  | .ldq t m o => Sys2Proof.Machine.execLdq t m o s
  | .ldw t m o => Sys2Proof.Machine.execLdw t m o s
  | .stq t m o => Sys2Proof.Machine.execStq t m o s
  | .stqe t m o => Sys2Proof.Machine.execStqe t m o s
  | .stw t m o => Sys2Proof.Machine.execStw t m o s
  | .stwe t m o => Sys2Proof.Machine.execStwe t m o s
  | .cas t m o => Sys2Proof.Machine.execCas t m o s
  | .swap t m o => Sys2Proof.Machine.execSwap t m o s
  | .waitev t m o => Sys2Proof.Machine.execWaitev t m o s
  | .goCc t annul cond disp => Sys2Proof.Machine.execGoCc t annul cond disp s
  | .gol t annul cond disp => Sys2Proof.Machine.execGol t annul cond disp s
  | .goi t m o => Sys2Proof.Machine.execGoi t m o s
  | .cgoA t annul rel src imm disp => Sys2Proof.Machine.execCgoA t annul rel src imm disp s
  | .cgoX t annul rel src imm disp => Sys2Proof.Machine.execCgoX t annul rel src imm disp s
  | .fenceC t => Sys2Proof.Machine.execFenceC t s
  | .fenceH t => Sys2Proof.Machine.execFenceH t s
  | .fenceS t => Sys2Proof.Machine.execFenceS t s
  | .msync t => Sys2Proof.Machine.execMsync t s
  | .halt t => Sys2Proof.Machine.execHalt t s
  | .illegalInstruction t w => Sys2Proof.Machine.execIllegalInstruction t w s
  | .nop t => Sys2Proof.Machine.execNop t s
  | .neg t => Sys2Proof.Machine.execNeg t s
  | .not t => Sys2Proof.Machine.execNot t s
  | .mvXa t => Sys2Proof.Machine.execMvXa t s
  | .mvYa t => Sys2Proof.Machine.execMvYa t s
  | .mvAx t => Sys2Proof.Machine.execMvAx t s
  | .mvAy t => Sys2Proof.Machine.execMvAy t s
  | .mvYx t => Sys2Proof.Machine.execMvYx t s
  | .mvXy t => Sys2Proof.Machine.execMvXy t s
  | .clz t => Sys2Proof.Machine.execClz t s
  | .fneg t => Sys2Proof.Machine.execFneg t s
  | .fabs t => Sys2Proof.Machine.execFabs t s
  | .ftoi t => Sys2Proof.Machine.execFtoi t s
  | .ftou t => Sys2Proof.Machine.execFtou t s
  | .itof t => Sys2Proof.Machine.execItof t s
  | .utof t => Sys2Proof.Machine.execUtof t s
  | .farAccessCompletion t idx stat data => Sys2Proof.Machine.execFarAccessCompletion t idx stat data s
  | .storeBufferEntryLeave c idx => Sys2Proof.Machine.execStoreBufferEntryLeave c idx s
  | .lateStoreFault c idx stat => Sys2Proof.Machine.execLateStoreFault c idx stat s
  | .runAheadLoad t m o => Sys2Proof.Machine.execRunAheadLoad t m o s
  | .runAheadEntryExpiry t idx => Sys2Proof.Machine.execRunAheadEntryExpiry t idx s
  | .time0lRead t => Sys2Proof.Machine.execTime0lRead t s
  | .sltTabWrite w c wi v => Sys2Proof.Machine.execSltTabWrite w c wi v s
  | .sltCommit w c => Sys2Proof.Machine.execSltCommit w c s
  | .slotTableCopy c => Sys2Proof.Machine.execSlotTableCopy c s
  | .predLeave w c => Sys2Proof.Machine.execPredLeave w c s
  | .idlecntRead c => Sys2Proof.Machine.execIdlecntRead c s
  | .sqcntRead c => Sys2Proof.Machine.execSqcntRead c s
  | .threadRelease w t => Sys2Proof.Machine.execThreadRelease w t s
  | .threadStop w t => Sys2Proof.Machine.execThreadStop w t s
  | .threadStopped t => Sys2Proof.Machine.execThreadStopped t s
  | .haltComplete t => Sys2Proof.Machine.execHaltComplete t s
  | .threadFault t => Sys2Proof.Machine.execThreadFault t s
  | .noticeHeldPush h => Sys2Proof.Machine.execNoticeHeldPush h s
  | .thrStateWrite w t r v => Sys2Proof.Machine.execThrStateWrite w t r v s
  | .thrCfgWrite w t v => Sys2Proof.Machine.execThrCfgWrite w t v s
  | .roleReassign w t v => Sys2Proof.Machine.execRoleReassign w t v s
  | .rolebusyClear t => Sys2Proof.Machine.execRolebusyClear t s
  | .watchWake => Sys2Proof.Machine.execWatchWake s
  | .inheritanceChain t => Sys2Proof.Machine.execInheritanceChain t s
  | .priorityRecompute => Sys2Proof.Machine.execPriorityRecompute s
  | .forceRelease w c owner => Sys2Proof.Machine.execForceRelease w c owner s
  | .watchRead => Sys2Proof.Machine.execWatchRead s
  | .lckCntRead => Sys2Proof.Machine.execLckCntRead s
  | .handover w b wipe newOwner => Sys2Proof.Machine.execHandover w b wipe newOwner s
  | .handoverComplete b => Sys2Proof.Machine.execHandoverComplete b s
  | .wipeComplete b => Sys2Proof.Machine.execWipeComplete b s
  | .tamper => Sys2Proof.Machine.execTamper s
  | .lifecycleChange lc => Sys2Proof.Machine.execLifecycleChange lc s
  | .bankRetentionEntry b => Sys2Proof.Machine.execBankRetentionEntry b s
  | .bankRetained b => Sys2Proof.Machine.execBankRetained b s
  | .bankWake b => Sys2Proof.Machine.execBankWake b s
  | .bankWakeComplete b => Sys2Proof.Machine.execBankWakeComplete b s
  | .memRetWrite w b v => Sys2Proof.Machine.execMemRetWrite w b v s
  | .memRetRead b => Sys2Proof.Machine.execMemRetRead b s
  | .memEccRead coreLocal n => Sys2Proof.Machine.execMemEccRead coreLocal n s
  | .memNownRead b => Sys2Proof.Machine.execMemNownRead b s
  | .memConfRead b m => Sys2Proof.Machine.execMemConfRead b m s
  | .wakeNotice q => Sys2Proof.Machine.execWakeNotice q s
  | .depthWaiterServe q => Sys2Proof.Machine.execDepthWaiterServe q s
  | .slotClaimRetry k => Sys2Proof.Machine.execSlotClaimRetry k s
  | .assemblyHoldRelease k => Sys2Proof.Machine.execAssemblyHoldRelease k s
  | .queueFlush w q => Sys2Proof.Machine.execQueueFlush w q s
  | .qcfgWrite w q v => Sys2Proof.Machine.execQcfgWrite w q v s
  | .quotaWrite w o v => Sys2Proof.Machine.execQuotaWrite w o v s
  | .doorbellPush q full data => Sys2Proof.Machine.execDoorbellPush q full data s
  | .doorbellPushe q full data => Sys2Proof.Machine.execDoorbellPushe q full data s
  | .doorbellCidx q v => Sys2Proof.Machine.execDoorbellCidx q v s
  | .doorbellStatusRead q => Sys2Proof.Machine.execDoorbellStatusRead q s
  | .hostMoverBatch r => Sys2Proof.Machine.execHostMoverBatch r s
  | .hostMoverResponse r ok => Sys2Proof.Machine.execHostMoverResponse r ok s
  | .ringEnable w r v => Sys2Proof.Machine.execRingEnable w r v s
  | .slaglostRead => Sys2Proof.Machine.execSlaglostRead s
  | .slagcntRead r => Sys2Proof.Machine.execSlagcntRead r s
  | .cstWrite w e wi v => Sys2Proof.Machine.execCstWrite w e wi v s
  | .ectlCommit w e => Sys2Proof.Machine.execEctlCommit w e s
  | .channelTableCopy e => Sys2Proof.Machine.execChannelTableCopy e s
  | .start w ch => Sys2Proof.Machine.execStart w ch s
  | .stop w ch => Sys2Proof.Machine.execStop w ch s
  | .safe w ch => Sys2Proof.Machine.execSafe w ch s
  | .unlatch w ch => Sys2Proof.Machine.execUnlatch w ch s
  | .movi ch dd imm => Sys2Proof.Machine.execMovi ch dd imm s
  | .movh ch dd imm => Sys2Proof.Machine.execMovh ch dd imm s
  | .mov ch dd ds => Sys2Proof.Machine.execMov ch dd ds s
  | .peAdd ch dd ds useImm imm => Sys2Proof.Machine.execPeAdd ch dd ds useImm imm s
  | .peSub ch dd ds useImm imm => Sys2Proof.Machine.execPeSub ch dd ds useImm imm s
  | .peAnd ch dd ds useImm imm => Sys2Proof.Machine.execPeAnd ch dd ds useImm imm s
  | .peOr ch dd ds useImm imm => Sys2Proof.Machine.execPeOr ch dd ds useImm imm s
  | .peXor ch dd ds useImm imm => Sys2Proof.Machine.execPeXor ch dd ds useImm imm s
  | .peShl ch dd ds useImm imm => Sys2Proof.Machine.execPeShl ch dd ds useImm imm s
  | .peShr ch dd ds useImm imm => Sys2Proof.Machine.execPeShr ch dd ds useImm imm s
  | .peCmp ch dd ds useImm imm => Sys2Proof.Machine.execPeCmp ch dd ds useImm imm s
  | .br ch f dd target => Sys2Proof.Machine.execBr ch f dd target s
  | .djnz ch dd target => Sys2Proof.Machine.execDjnz ch dd target s
  | .drive ch dd ds f imm => Sys2Proof.Machine.execDrive ch dd ds f imm s
  | .timedDriveDue ch lane => Sys2Proof.Machine.execTimedDriveDue ch lane s
  | .sample ch dd lane => Sys2Proof.Machine.execSample ch dd lane s
  | .waite ch lane timed ds => Sys2Proof.Machine.execWaite ch lane timed ds s
  | .waitt ch dd => Sys2Proof.Machine.execWaitt ch dd s
  | .tstamp ch dd lane lowWord pop => Sys2Proof.Machine.execTstamp ch dd lane lowWord pop s
  | .rdc ch dd => Sys2Proof.Machine.execRdc ch dd s
  | .pull ch dd src => Sys2Proof.Machine.execPull ch dd src s
  | .tpull ch dd src => Sys2Proof.Machine.execTpull ch dd src s
  | .push ch dd snk fin prio kind => Sys2Proof.Machine.execPush ch dd snk fin prio kind s
  | .tag ch dd => Sys2Proof.Machine.execTag ch dd s
  | .shtx ch ds n => Sys2Proof.Machine.execShtx ch ds n s
  | .shrx ch dd n => Sys2Proof.Machine.execShrx ch dd n s
  | .crci ch lane => Sys2Proof.Machine.execCrci ch lane s
  | .rdca ch dd lane => Sys2Proof.Machine.execRdca ch dd lane s
  | .rdcb ch dd lane => Sys2Proof.Machine.execRdcb ch dd lane s
  | .stmode ch lane mode n => Sys2Proof.Machine.execStmode ch lane mode n s
  | .stcnt ch dd lane => Sys2Proof.Machine.execStcnt ch dd lane s
  | .bset ch setB => Sys2Proof.Machine.execBset ch setB s
  | .ben ch en => Sys2Proof.Machine.execBen ch en s
  | .hsync ch kind => Sys2Proof.Machine.execHsync ch kind s
  | .bstat ch dd => Sys2Proof.Machine.execBstat ch dd s
  | .tsclr ch lane => Sys2Proof.Machine.execTsclr ch lane s
  | .evt ch => Sys2Proof.Machine.execEvt ch s
  | .wrap ch ds top => Sys2Proof.Machine.execWrap ch ds top s
  | .peHalt ch => Sys2Proof.Machine.execPeHalt ch s
  | .peIllegal ch w => Sys2Proof.Machine.execPeIllegal ch w s
  | .portEdge p level => Sys2Proof.Machine.execPortEdge p level s
  | .readbackMismatch p => Sys2Proof.Machine.execReadbackMismatch p s
  | .stagedActionDue ch => Sys2Proof.Machine.execStagedActionDue ch s
  | .voteWindowExpiry ch => Sys2Proof.Machine.execVoteWindowExpiry ch s
  | .portFenceSet w p => Sys2Proof.Machine.execPortFenceSet w p s
  | .portFenceClear w p => Sys2Proof.Machine.execPortFenceClear w p s
  | .safeWhenDry ch => Sys2Proof.Machine.execSafeWhenDry ch s
  | .pmdataWrite w e v => Sys2Proof.Machine.execPmdataWrite w e v s
  | .estatRead e => Sys2Proof.Machine.execEstatRead e s
  | .cerrRead ch => Sys2Proof.Machine.execCerrRead ch s
  | .online ch => Sys2Proof.Machine.execOnline ch s
  | .offline ch => Sys2Proof.Machine.execOffline ch s
  | .listen ch => Sys2Proof.Machine.execListen ch s
  | .sleep ch => Sys2Proof.Machine.execSleep ch s
  | .wake ch => Sys2Proof.Machine.execWake ch s
  | .readCounters ch => Sys2Proof.Machine.execReadCounters ch s
  | .abortTx ch => Sys2Proof.Machine.execAbortTx ch s
  | .recover ch => Sys2Proof.Machine.execRecover ch s
  | .canTxFrame ch x => Sys2Proof.Machine.execCanTxFrame ch x s
  | .canRxFrame ch f e => Sys2Proof.Machine.execCanRxFrame ch f e s
  | .busOffRecovery ch => Sys2Proof.Machine.execBusOffRecovery ch s
  | .linFrameStart x => Sys2Proof.Machine.execLinFrameStart x s
  | .linHeaderRx ch pid x => Sys2Proof.Machine.execLinHeaderRx ch pid x s
  | .linResponseTimeout ch => Sys2Proof.Machine.execLinResponseTimeout ch s
  | .sentMessage ch lane back cal pulses => Sys2Proof.Machine.execSentMessage ch lane back cal pulses s
  | .sentSlowMessage ch lane id data => Sys2Proof.Machine.execSentSlowMessage ch lane id data s
  | .psi5Frame ch slot x => Sys2Proof.Machine.execPsi5Frame ch slot x s
  | .psi5SlotEnd ch slot => Sys2Proof.Machine.execPsi5SlotEnd ch slot s
  | .t1sTxFrame ch x => Sys2Proof.Machine.execT1sTxFrame ch x s
  | .t1sRxFrame ch dest back x => Sys2Proof.Machine.execT1sRxFrame ch dest back x s
  | .t1sBeaconMissing ch => Sys2Proof.Machine.execT1sBeaconMissing ch s
  | .mdioTransfer ch rdata => Sys2Proof.Machine.execMdioTransfer ch rdata s
  | .spiTransfer ch rdata => Sys2Proof.Machine.execSpiTransfer ch rdata s
  | .twsTransfer ch r rdata => Sys2Proof.Machine.execTwsTransfer ch r rdata s
  | .uartTx ch => Sys2Proof.Machine.execUartTx ch s
  | .uartRx ch char err => Sys2Proof.Machine.execUartRx ch char err s
  | .hallSectorChange ch hall => Sys2Proof.Machine.execHallSectorChange ch hall s
  | .zeroCrossing ch lane => Sys2Proof.Machine.execZeroCrossing ch lane s
  | .partnerSessionOpen t key addr reply dest deadline => Sys2Proof.Machine.execPartnerSessionOpen t key addr reply dest deadline s
  | .timePortWord time valid step => Sys2Proof.Machine.execTimePortWord time valid step s
  | .timePortSample => Sys2Proof.Machine.execTimePortSample s
  | .capturePacket n j => Sys2Proof.Machine.execCapturePacket n j s
  | .estimationWindowEnd n => Sys2Proof.Machine.execEstimationWindowEnd n s
  | .referenceLost n => Sys2Proof.Machine.execReferenceLost n s
  | .stillTimeout n => Sys2Proof.Machine.execStillTimeout n s
  | .slewUpdate n => Sys2Proof.Machine.execSlewUpdate n s
  | .refReadmit w n j => Sys2Proof.Machine.execRefReadmit w n j s
  | .t0incWrite w v => Sys2Proof.Machine.execT0incWrite w v s
  | .tbVallRead mst n => Sys2Proof.Machine.execTbVallRead mst n s
  | .tbPortlRead mst => Sys2Proof.Machine.execTbPortlRead mst s
  | .tbPortRead => Sys2Proof.Machine.execTbPortRead s
  | .refstatRead n j => Sys2Proof.Machine.execRefstatRead n j s
  | .tbWinRead n => Sys2Proof.Machine.execTbWinRead n s
  | .post t p4 => Sys2Proof.Machine.execPost t p4 s
  | .revalidationPass => Sys2Proof.Machine.execRevalidationPass s
  | .quench n => Sys2Proof.Machine.execQuench n s
  | .quenchRecompute n => Sys2Proof.Machine.execQuenchRecompute n s
  | .taskEnable w c v => Sys2Proof.Machine.execTaskEnable w c v s
  | .taskRelease k => Sys2Proof.Machine.execTaskRelease k s
  | .taskDone w k => Sys2Proof.Machine.execTaskDone w k s
  | .taskRebase w c => Sys2Proof.Machine.execTaskRebase w c s
  | .taCntRead => Sys2Proof.Machine.execTaCntRead s
  | .eventFire n => Sys2Proof.Machine.execEventFire n s
  | .softwareEventPulse w src => Sys2Proof.Machine.execSoftwareEventPulse w src s
  | .ovrcntRead => Sys2Proof.Machine.execOvrcntRead s
  | .sigPacketRead => Sys2Proof.Machine.execSigPacketRead s
  | .directoryLookup q => Sys2Proof.Machine.execDirectoryLookup q s
  | .directoryFillReturn line ok words => Sys2Proof.Machine.execDirectoryFillReturn line ok words s
  | .directoryInvalidate w line => Sys2Proof.Machine.execDirectoryInvalidate w line s
  | .pinnedEntryReplace w entry => Sys2Proof.Machine.execPinnedEntryReplace w entry s
  | .dironWrite w v => Sys2Proof.Machine.execDironWrite w v s
  | .sigCntRead k => Sys2Proof.Machine.execSigCntRead k s
  | .bellowsEpochEnd h => Sys2Proof.Machine.execBellowsEpochEnd h s
  | .bellowsApply h => Sys2Proof.Machine.execBellowsApply h s
  | .hstatRead h => Sys2Proof.Machine.execHstatRead h s
  | .powerRequestOn w d => Sys2Proof.Machine.execPowerRequestOn w d s
  | .powerRequestRetained w d => Sys2Proof.Machine.execPowerRequestRetained w d s
  | .powerRequestOff w d => Sys2Proof.Machine.execPowerRequestOff w d s
  | .drainComplete d => Sys2Proof.Machine.execDrainComplete d s
  | .domainLowState d => Sys2Proof.Machine.execDomainLowState d s
  | .domainWake d cause => Sys2Proof.Machine.execDomainWake d cause s
  | .domainOn d => Sys2Proof.Machine.execDomainOn d s
  | .heldItemAgeCheck => Sys2Proof.Machine.execHeldItemAgeCheck s
  | .pdAckRise d => Sys2Proof.Machine.execPdAckRise d s
  | .pdAckFall d => Sys2Proof.Machine.execPdAckFall d s
  | .dstatRead d => Sys2Proof.Machine.execDstatRead d s
  | .laneEnableWrite w l v => Sys2Proof.Machine.execLaneEnableWrite w l v s
  | .laneInit l => Sys2Proof.Machine.execLaneInit l s
  | .initFlitTimer l => Sys2Proof.Machine.execInitFlitTimer l s
  | .initFlitRx l f => Sys2Proof.Machine.execInitFlitRx l f s
  | .laneSignalLoss l => Sys2Proof.Machine.execLaneSignalLoss l s
  | .codewordTimeout l => Sys2Proof.Machine.execCodewordTimeout l s
  | .codewordRx l cw => Sys2Proof.Machine.execCodewordRx l cw s
  | .creditRx l f => Sys2Proof.Machine.execCreditRx l f s
  | .itemsFlitRx l f => Sys2Proof.Machine.execItemsFlitRx l f s
  | .rwriteRx l f => Sys2Proof.Machine.execRwriteRx l f s
  | .probeTimer l => Sys2Proof.Machine.execProbeTimer l s
  | .probeRx l f => Sys2Proof.Machine.execProbeRx l f s
  | .timeFlitTimer => Sys2Proof.Machine.execTimeFlitTimer s
  | .timeFlitRx l f => Sys2Proof.Machine.execTimeFlitRx l f s
  | .tunnelPoll txCidx rxPidx => Sys2Proof.Machine.execTunnelPoll txCidx rxPidx s
  | .tunnelEntryClose => Sys2Proof.Machine.execTunnelEntryClose s
  | .tunnelRxEntry header flits => Sys2Proof.Machine.execTunnelRxEntry header flits s
  | .lcntRead l => Sys2Proof.Machine.execLcntRead l s
  | .egrRead => Sys2Proof.Machine.execEgrRead s
  | .chnCntRead => Sys2Proof.Machine.execChnCntRead s
  | .tunstatRead => Sys2Proof.Machine.execTunstatRead s
  | .heartbeatTimer => Sys2Proof.Machine.execHeartbeatTimer s
  | .heartbeatRx l f => Sys2Proof.Machine.execHeartbeatRx l f s
  | .joinTimeout => Sys2Proof.Machine.execJoinTimeout s
  | .mirrorCopyComplete => Sys2Proof.Machine.execMirrorCopyComplete s
  | .mirrorFlitRx l f => Sys2Proof.Machine.execMirrorFlitRx l f s
  | .mirrorTbSnapshot => Sys2Proof.Machine.execMirrorTbSnapshot s
  | .mackRx l f => Sys2Proof.Machine.execMackRx l f s
  | .mirKick w => Sys2Proof.Machine.execMirKick w s
  | .kickTimeout => Sys2Proof.Machine.execKickTimeout s
  | .padGuardTrip => Sys2Proof.Machine.execPadGuardTrip s
  | .partnerSilence => Sys2Proof.Machine.execPartnerSilence s
  | .partnerOkTestEnd => Sys2Proof.Machine.execPartnerOkTestEnd s
  | .takeover => Sys2Proof.Machine.execTakeover s
  | .mirForce w => Sys2Proof.Machine.execMirForce w s
  | .mirCntRead => Sys2Proof.Machine.execMirCntRead s
  | .faultEvent cls inst => Sys2Proof.Machine.execFaultEvent cls inst s
  | .faultInject w cls inst => Sys2Proof.Machine.execFaultInject w cls inst s
  | .scntRead cls => Sys2Proof.Machine.execScntRead cls s
  | .fltStatRead => Sys2Proof.Machine.execFltStatRead s
  | .coldReset straps hold lc => Sys2Proof.Machine.execColdReset straps hold lc s
  | .reload src straps hold lc => Sys2Proof.Machine.execReload src straps hold lc s
  | .warmReset w => Sys2Proof.Machine.execWarmReset w s
  | .hearthReset w h => Sys2Proof.Machine.execHearthReset w h s
  | .hearthResetComplete sections => Sys2Proof.Machine.execHearthResetComplete sections s
  | .sectionLoaded gap bytes => Sys2Proof.Machine.execSectionLoaded gap bytes s
  | .flashTimeout => Sys2Proof.Machine.execFlashTimeout s
  | .criticalRelease => Sys2Proof.Machine.execCriticalRelease s
  | .digestValid tail => Sys2Proof.Machine.execDigestValid tail s
  | .seal => Sys2Proof.Machine.execSeal s
  | .bootGo => Sys2Proof.Machine.execBootGo s
  | .serviceReloadRequest full32 v straps hold lc => Sys2Proof.Machine.execServiceReloadRequest full32 v straps hold lc s
  | .serviceStatRead => Sys2Proof.Machine.execServiceStatRead s
  | .calendarSecond => Sys2Proof.Machine.execCalendarSecond s
  | .calendarSet w => Sys2Proof.Machine.execCalendarSet w s
  | .calendarSetApply => Sys2Proof.Machine.execCalendarSetApply s
  | .cal0Read mst => Sys2Proof.Machine.execCal0Read mst s
  | .wakeRecognised p => Sys2Proof.Machine.execWakeRecognised p s
  | .wakeTimerFired => Sys2Proof.Machine.execWakeTimerFired s
  | .retokFall => Sys2Proof.Machine.execRetokFall s
  | .retokRise => Sys2Proof.Machine.execRetokRise s
  | .emberClockStop => Sys2Proof.Machine.execEmberClockStop s
  | .irqPulseEnd k => Sys2Proof.Machine.execIrqPulseEnd k s
  | .hostViewRead off two => Sys2Proof.Machine.execHostViewRead off two s
  | .hostViewWrite off => Sys2Proof.Machine.execHostViewWrite off s
  | .hostUnmappedAccess off => Sys2Proof.Machine.execHostUnmappedAccess off s
  | .swinCfgWrite w k v => Sys2Proof.Machine.execSwinCfgWrite w k v s
  | .vstatRead => Sys2Proof.Machine.execVstatRead s
  | .herrRead => Sys2Proof.Machine.execHerrRead s
  | .registerWrite w off v => Sys2Proof.Machine.execRegisterWrite w off v s
  | .storeAcknowledged c idx => Sys2Proof.Machine.execStoreAcknowledged c idx s
  | .tamperDeassert => Sys2Proof.Machine.execTamperDeassert s
  | .codewordAlignmentLock l => Sys2Proof.Machine.execCodewordAlignmentLock l s
  | .tunnelRingWriteResponse ok => Sys2Proof.Machine.execTunnelRingWriteResponse ok s
  | .basePassesCycleCountZero n => Sys2Proof.Machine.execBasePassesCycleCountZero n s
  | .bitBoundary ch => Sys2Proof.Machine.execBitBoundary ch s
  | .bitSamplePoint ch => Sys2Proof.Machine.execBitSamplePoint ch s
  | .quadcapTransition ch a b z => Sys2Proof.Machine.execQuadcapTransition ch a b z s
  | .directoryWriteBackResponse line ok => Sys2Proof.Machine.execDirectoryWriteBackResponse line ok s
  | .billetHeadersRead copyA copyB => Sys2Proof.Machine.execBilletHeadersRead copyA copyB s
  | .emberTick pins => Sys2Proof.Machine.execEmberTick pins s
  | .vectorWriteResponse v ok => Sys2Proof.Machine.execVectorWriteResponse v ok s
  | .fabricCreditReturn p => Sys2Proof.Machine.execFabricCreditReturn p s
  | .builtInTest c start => Sys2Proof.Machine.execBuiltInTest c start s

end Sys2Proof.Machine
end

