-- ==== Sys2Proof/Machine/Outputs.lean ====
section
/-!
DEFINITION. The block's outputs to the SoC as functions of its state (R461, R500, R511, R514, R525, R535, R536). The
isolation clamps of R510 act outside the block, while it has no supply.
-/

namespace Sys2Proof.Machine

/-- The signals of a port that the block drives (R511). -/
structure PinSignals where
  out : Bool
  oe : Bool
  od : Bool
  str : BitVec 2
  pull : BitVec 2
  deriving DecidableEq, Repr

/-- PIN_OUT, PIN_OE, PIN_OD, PIN_STR and PIN_PULL of port n; the guard of a shared port gates OE (R511, R514). -/
def State.pinSignals (s : State) (n : Port) : PinSignals where
  out := (s.resolved n).1
  oe := (s.resolved n).2
  od := decide (s.fld F.pePad_MODE n.toNat = 1)
  str := BitVec.ofNat 2 (s.fld F.pePad_STRENGTH n.toNat)
  pull := BitVec.ofNat 2 (s.fld F.pePad_PULL n.toNat)

/-- SAFE_ALM[k] and SAFE_ALM_N[k] for k = 0 (MINOR), 1 (MAJOR), 2 (FATAL): a complementary pair (R461, R536). -/
def State.safeAlm (s : State) (k : Nat) : Bool × Bool :=
  ((s.reg .fltAlm).getLsbD k, !(s.reg .fltAlm).getLsbD k)

/-- IRQ[k]: high for 64 cycles from the last vector routed to the line (R525). -/
def State.irqLine (s : State) (k : BitVec 3) : Bool := decide (s.cycle < smGet 0 s.soc.irq k.toNat)

/-- PARTNER_OK_OUT: 1 while HBGEN advances and the pad guard has not tripped (R438, R535). Log entry 41 (DEDUCED). -/
def State.partnerOkOut (s : State) : Bool := s.mirror.armed && !s.mirror.guard && s.hbAdvances

end Sys2Proof.Machine
end

