-- ==== Sys2Proof/Safety.lean ====
section
/-!
DEFINITION. What a run of the block keeps (no command stops it; its memory stays in the canonical form), and the
conditions under which the statements about the block speak.
-/

namespace Sys2Proof.Machine

/-- A step answers a next state. -/
def completes (o : Host.Outcome State Fault Refusal) : Prop := ∃ t, o = .next t

/-- The memory of user data is in its canonical form. -/
def State.memOk (s : State) : Prop := Memory.wf s.mem = true

/-- Domain d takes a register access at once: it is ON, and no earlier access waits for it to wake (R399). -/
def State.takes (s : State) (d : Nat) : Prop := (s.dom d).st = .on ∧ (s.regWaits.any fun x => x.d == d) = false

/-! ## Threads -/

/-- Thread t issues its next instruction: it is ready (R33), PC is inside the core-local memory (R105) and at no discarded
delay slot (R47), and no far access still owes a register of `regs` (R42). -/
def State.issues (s : State) (t : Tid) (regs : BitVec 4) : Prop :=
  s.ready t = true ∧ (s.thr t).discards = false ∧ (s.thr t).pc.toNat < 0x40000 ∧ (s.thr t).pendingRegs &&& regs = 0

/-- Nothing of thread t or of its core's buffer is on its way to memory. -/
def State.quiet (s : State) (t : Tid) : Prop :=
  (s.thr t).far = [] ∧ (s.thr t).runAhead = [] ∧ (s.core (coreOf t)).sbuf = [] ∧ (s.core (coreOf t)).inflight = []

/-- The operand of a value instruction is v, found inside the core: the sign-extended immediate of mode IMM (R72), or the
aligned bytes at an address of the own core-local memory whose line has no uncorrectable error (R177), zero-extended (R73
to R75). -/
def State.operandIs (s : State) (t : Tid) (op : VOp) (m : BitVec 3) (o : BitVec 23) (v : Word) : Prop :=
  (m = 0 ∧ op.narrow = false ∧ v = o.signExtend 32) ∨
  (∃ ea g, operandOf (s.thr t) m o = some (.mem ea) ∧ regionOf (coreOf t) ea = .core (coreOf t) g ∧
    ea.toNat % op.size = 0 ∧ s.quiet t ∧ s.badWord (wordKey (coreOf t) ea) = false ∧ v = takeData ea op.size (memWord s.mem (g / 4 * 4)))

/-- A value instruction of thread t issues with operand v. -/
def State.issuesWith (s : State) (t : Tid) (op : VOp) (m : BitVec 3) (o : BitVec 23) (v : Word) : Prop :=
  s.issues t (valueRegs op m o) ∧ s.operandIs t op m o v

/-- The state after an instruction that leaves thread t's registers as th and goes on to the next instruction. -/
def State.afterInstr (s : State) (t : Tid) (th : Thread) : State := (s.issuing t).setThr t th.retire

/-! ## Channels -/

/-- The PC that follows an instruction of channel ch that is no taken branch (R246). -/
def State.pinNext (s : State) (ch : Chan) : BitVec 10 :=
  if (s.chan ch).pc.toNat = s.chFld F.peWrap_WRAPT ch then BitVec.ofNat 10 (s.chFld F.peWrap_WRAPB ch) else (s.chan ch).pc + 1

/-- Channel ch executes (R242) and does not stand at the end of its program memory (R246). -/
def State.pinRuns (s : State) (ch : Chan) : Prop :=
  s.chExecutes ch = true ∧ ((s.chan ch).pc.toNat = s.chFld F.peWrap_WRAPT ch ∨ (s.chan ch).pc ≠ 0x3FF)

/-- The state after an instruction that leaves channel ch as x and goes on to the next one. -/
def State.afterPin (s : State) (ch : Chan) (x : Channel) : State := s.setChan ch { x with st := .run, pc := s.pinNext ch }

/-- Operand b of a pin-engine instruction is v: the extended immediate, or DS (R248). -/
def State.pinOperandIs (s : State) (ch : Chan) (ds : BitVec 3) (useImm : Bool) (imm : BitVec 16) (signed : Bool) (v : Word) :
    Prop :=
  (useImm = true ∧ ds = 0 ∧ v = if signed then imm.signExtend 32 else imm.setWidth 32) ∨
  (useImm = false ∧ imm = 0 ∧ v = (s.chan ch).reg ds)

end Sys2Proof.Machine
end

