-- ==== Sys2Proof/Certificates/Slice0/Obligations.lean ====
section
/-!
DEFINITION. The statements about the block: what each family of commands does to its registers, queues, memories, pins, clocks
and links, command by command, and what holds of every step.
-/

open Sys2Proof Sys2Proof.Machine

/-! ## Threads: operands, results and flags -/

/-- R72: the operand that each mode selects, and the forms that no mode has. R78, R98: which bits of F the flag updates
change, and to what: N in bit 3, Z in bit 2, C in bit 1, V in bit 0, OF in bit 10; a sticky flag is only ever set. -/
def Obligations.OperandsAndFlags : Prop :=
  (∀ (th : Thread) (o : BitVec 23),
    operandOf th 0 o = some (.imm (o.signExtend 32)) ∧
    (o.toNat < 1024 → operandOf th 1 o = some (.mem (th.tp + BitVec.ofNat 32 (4 * o.toNat)))) ∧
    (1024 ≤ o.toNat → operandOf th 1 o = none) ∧
    operandOf th 2 o = some (.mem (th.x + o.signExtend 32)) ∧
    operandOf th 3 o = some (.mem (th.y + o.signExtend 32)) ∧
    operandOf th 4 0 = some (.mem (th.x + th.y)) ∧
    (o ≠ 0 → operandOf th 4 o = none) ∧
    operandOf th 5 o = some (.mem (BitVec.ofNat 32 (0x01000000 + 4 * o.toNat))) ∧
    operandOf th 6 o = none ∧
    (o.toNat < 4096 → operandOf th 7 o = some (.sys o.toNat)) ∧
    (4096 ≤ o.toNat → operandOf th 7 o = none)) ∧
  (∀ (f r : Word) (b : Bool) (i k : Nat), i < 32 → k < 32 →
    (setNZ f r).getLsbD i = (if i = 3 then r.getLsbD 31 else if i = 2 then r == 0 else f.getLsbD i) ∧
    (setV f b).getLsbD i = (if i = 0 then b else if i = 10 then f.getLsbD 10 || b else f.getLsbD i) ∧
    (putFlag f k b).getLsbD i = (if i = k then b else f.getLsbD i) ∧
    (stick f k b).getLsbD i = (if i = k then f.getLsbD k || b else f.getLsbD i) ∧
    flagV = 0 ∧ flagC = 1 ∧ flagZ = 2 ∧ flagN = 3 ∧ stickyDZ = 8 ∧ stickyIV = 9 ∧ stickyOF = 10)

/-- R76, R78, R107: sums, differences and comparisons. In `F`, C is the carry out (no borrow for a difference) and V says
that the true signed result does not fit; ADD.X and ADD.Y set no flag and the comparisons keep their register. -/
def Obligations.AddSubCompare : Prop :=
  ∀ (s : State) (t : Tid) (m : BitVec 3) (o : BitVec 23) (v : Word),
    let th := s.thr t
    let plus := fun (a : Word) (cin : Nat) =>
      let r := a + v + BitVec.ofNat 32 cin
      let f := putFlag (setNZ th.f r) flagC (decide (2 ^ 32 ≤ a.toNat + v.toNat + cin))
      (r, setV f (decide (¬ (-(2 ^ 31) ≤ a.toInt + v.toInt + cin ∧ a.toInt + v.toInt + cin < 2 ^ 31))))
    let minus := fun (a : Word) (bin : Nat) =>
      let r := a - v - BitVec.ofNat 32 bin
      let f := putFlag (setNZ th.f r) flagC (decide (v.toNat + bin ≤ a.toNat))
      (r, setV f (decide (¬ (-(2 ^ 31) ≤ a.toInt - v.toInt - bin ∧ a.toInt - v.toInt - bin < 2 ^ 31))))
    let cin := (th.f.getLsbD 1).toNat
    (s.issuesWith t .add m o v →
      exec (.add t m o) s = .next (s.afterInstr t { th with a := (plus th.a 0).1, f := (plus th.a 0).2 })) ∧
    (s.issuesWith t .addc m o v →
      exec (.addc t m o) s = .next (s.afterInstr t { th with a := (plus th.a cin).1, f := (plus th.a cin).2 })) ∧
    (s.issuesWith t .sub m o v →
      exec (.sub t m o) s = .next (s.afterInstr t { th with a := (minus th.a 0).1, f := (minus th.a 0).2 })) ∧
    (s.issuesWith t .subb m o v →
      exec (.subb t m o) s =
        .next (s.afterInstr t { th with a := (minus th.a (1 - cin)).1, f := (minus th.a (1 - cin)).2 })) ∧
    (s.issuesWith t .cmp m o v → exec (.cmp t m o) s = .next (s.afterInstr t { th with f := (minus th.a 0).2 })) ∧
    (s.issuesWith t .cmpX m o v → exec (.cmpX t m o) s = .next (s.afterInstr t { th with f := (minus th.x 0).2 })) ∧
    (s.issuesWith t .cmpY m o v → exec (.cmpY t m o) s = .next (s.afterInstr t { th with f := (minus th.y 0).2 })) ∧
    (s.issuesWith t .addX m o v → exec (.addX t m o) s = .next (s.afterInstr t { th with x := th.x + v })) ∧
    (s.issuesWith t .addY m o v → exec (.addY t m o) s = .next (s.afterInstr t { th with y := th.y + v }))

/-- R76, R78, R111: bitwise results, and shifts by the full unsigned amount with C the last bit shifted out. R76, R78,
R107 to R109: products and quotients, with the results of a zero divisor and of -2^31 / -1. -/
def Obligations.LogicShiftsProductsQuotients : Prop :=
  (∀ (s : State) (t : Tid) (m : BitVec 3) (o : BitVec 23) (v : Word),
    let th := s.thr t
    let k := v.toNat
    let logic := fun (r : Word) => s.afterInstr t { th with a := r, f := setNZ th.f r }
    let shift := fun (r : Word) (c : Bool) => s.afterInstr t { th with a := r, f := putFlag (setNZ th.f r) flagC c }
    (s.issuesWith t .and m o v → exec (.and t m o) s = .next (logic (th.a &&& v))) ∧
    (s.issuesWith t .or m o v → exec (.or t m o) s = .next (logic (th.a ||| v))) ∧
    (s.issuesWith t .xor m o v → exec (.xor t m o) s = .next (logic (th.a ^^^ v))) ∧
    (s.issuesWith t .tst m o v →
      exec (.tst t m o) s = .next (s.afterInstr t { th with f := setNZ th.f (th.a &&& v) })) ∧
    (s.issuesWith t .shl m o v →
      exec (.shl t m o) s = .next (shift (th.a <<< k) (decide (1 ≤ k ∧ k ≤ 32) && th.a.getLsbD (32 - k)))) ∧
    (s.issuesWith t .shr m o v →
      exec (.shr t m o) s = .next (shift (th.a >>> k) (decide (1 ≤ k ∧ k ≤ 32) && th.a.getLsbD (k - 1)))) ∧
    (s.issuesWith t .sar m o v →
      exec (.sar t m o) s = .next (shift (th.a.sshiftRight k) (decide (1 ≤ k ∧ k ≤ 32) && th.a.getLsbD (k - 1)))) ∧
    (s.issuesWith t .rol m o v →
      exec (.rol t m o) s = .next (shift (th.a.rotateLeft k) ((th.a.rotateLeft k).getLsbD 0)))) ∧
  (∀ (s : State) (t : Tid) (m : BitVec 3) (o : BitVec 23) (v : Word),
    let th := s.thr t
    let p : Int := th.a.toInt * v.toInt
    let ovf := th.a = 0x80000000 ∧ v = 0xFFFFFFFF
    let done := fun (r : Word) (f : Word) => s.afterInstr t { th with a := r, f := f }
    let divided := fun (r : Word) (vf : Bool) => done r (stick (setV (setNZ th.f r) vf) stickyDZ (v == 0))
    (s.issuesWith t .mul m o v →
      exec (.mul t m o) s =
        .next (done (th.a * v) (setV (setNZ th.f (th.a * v)) (decide (¬ (-(2 ^ 31) ≤ p ∧ p < 2 ^ 31)))))) ∧
    (s.issuesWith t .mulh m o v →
      exec (.mulh t m o) s =
        .next (let r := BitVec.ofInt 32 (p / 2 ^ 32); done r (putFlag (setNZ th.f r) flagV false))) ∧
    (s.issuesWith t .div m o v →
      exec (.div t m o) s =
        .next (if v = 0 then divided 0xFFFFFFFF false else divided (th.a.sdiv v) (decide ovf))) ∧
    (s.issuesWith t .divu m o v →
      exec (.divu t m o) s =
        .next (if v = 0 then divided 0xFFFFFFFF false else divided (th.a.udiv v) false)) ∧
    (s.issuesWith t .rem m o v →
      exec (.rem t m o) s = .next (if v = 0 then divided th.a false else divided (th.a.srem v) (decide ovf))) ∧
    (s.issuesWith t .remu m o v → exec (.remu t m o) s = .next (divided (th.a.umod v) false)))

/-- R76, R79, R112, R113: the binary32 instructions take their result and IEEE flags from the rounded operation under
SR.RM; FCMP leaves A and writes one of the four flags. -/
def Obligations.FloatArithmetic : Prop :=
  ∀ (s : State) (t : Tid) (m : BitVec 3) (o : BitVec 23) (v : Word),
    let th := s.thr t
    let done := fun (r : Word × Word) => s.afterInstr t { th with a := r.1, f := th.f ||| r.2 }
    (s.issuesWith t .fadd m o v → exec (.fadd t m o) s = .next (done (fadd th.rm th.a v))) ∧
    (s.issuesWith t .fsub m o v → exec (.fsub t m o) s = .next (done (fsub th.rm th.a v))) ∧
    (s.issuesWith t .fmul m o v → exec (.fmul t m o) s = .next (done (fmul th.rm th.a v))) ∧
    (s.issuesWith t .fdiv m o v → exec (.fdiv t m o) s = .next (done (fdiv th.rm th.a v))) ∧
    (s.issuesWith t .fsqrt m o v → exec (.fsqrt t m o) s = .next (done (fsqrt th.rm v))) ∧
    (s.issuesWith t .fcmp m o v →
      exec (.fcmp t m o) s = .next (s.afterInstr t { th with f := fcmpFlags th.f th.a v }))

/-- R113, R114: NaN operands, infinities, zeros and negative square roots, in every rounding mode. Bit 20 of F is NV and
bit 19 is DZF. R79: FCMP sets exactly one of Z, N, C and V and clears the other three, and adds NV (bit 20) for a
signalling NaN; no other bit of F changes. -/
def Obligations.FloatSpecialValues : Prop :=
  (∀ (rm : BitVec 2) (a b : Word),
    let nv := fun (x : Bool) => if x then BitVec.ofNat 32 (2 ^ 20) else (0 : Word)
    let sign := fun (x y : Word) => x.getLsbD 31 != y.getLsbD 31
    let inf := fun (neg : Bool) => if neg then (0xFF800000 : Word) else 0x7F800000
    ((fIsNan a || fIsNan b) = true →
      fadd rm a b = (0x7FC00000, nv (fIsSnan a || fIsSnan b)) ∧ fsub rm a b = (0x7FC00000, nv (fIsSnan a || fIsSnan b)) ∧
      fmul rm a b = (0x7FC00000, nv (fIsSnan a || fIsSnan b)) ∧ fdiv rm a b = (0x7FC00000, nv (fIsSnan a || fIsSnan b))) ∧
    (fIsNan b = true → fsqrt rm b = (0x7FC00000, nv (fIsSnan b))) ∧
    (fIsInf a = true → fIsInf b = true → fadd rm a b = if sign a b then (0x7FC00000, nv true) else (a, 0)) ∧
    (fIsInf a = true → fIsZero b = true → fmul rm a b = (0x7FC00000, nv true) ∧ fmul rm b a = (0x7FC00000, nv true)) ∧
    (fIsZero a = true → fIsZero b = true → fdiv rm a b = (0x7FC00000, nv true)) ∧
    (fIsInf a = true → fIsInf b = true → fdiv rm a b = (0x7FC00000, nv true)) ∧
    (fIsNan a = false → fIsInf a = false → fIsZero a = false → fIsZero b = true →
      fdiv rm a b = (inf (sign a b), BitVec.ofNat 32 (2 ^ 19))) ∧
    (fIsNan b = false → fIsZero b = false → b.getLsbD 31 = true → fsqrt rm b = (0x7FC00000, nv true)) ∧
    (fIsZero b = true → fsqrt rm b = (b, 0))) ∧
  (∀ (f a b : Word),
    let r := fcmpFlags f a b
    let un := fIsNan a || fIsNan b
    (r.getLsbD 0 = un) ∧
    (r.getLsbD 2 = (!un && decide (fKey a = fKey b))) ∧
    (r.getLsbD 3 = (!un && decide (fKey a < fKey b))) ∧
    (r.getLsbD 1 = (!un && decide (fKey b < fKey a))) ∧
    ((r.getLsbD 0).toNat + (r.getLsbD 1).toNat + (r.getLsbD 2).toNat + (r.getLsbD 3).toNat = 1) ∧
    (∀ i, 4 ≤ i → i < 32 → r.getLsbD i = (f.getLsbD i || (decide (i = 20) && (fIsSnan a || fIsSnan b)))))

/-- R76: a load writes its register with the operand found inside the core (a byte or a halfword zero-extended), and no
flag. R43, R165, R166: a load from a shared bank that the core owns, by a thread with no branch to resolve, takes a
far-access entry with the bank's answer and lets the thread go on. -/
def Obligations.LoadsNearAndFar : Prop :=
  (∀ (s : State) (t : Tid) (m : BitVec 3) (o : BitVec 23) (v : Word),
    let th := s.thr t
    (s.issuesWith t .ldA m o v → exec (.ldA t m o) s = .next (s.afterInstr t { th with a := v })) ∧
    (s.issuesWith t .ldX m o v → exec (.ldX t m o) s = .next (s.afterInstr t { th with x := v })) ∧
    (s.issuesWith t .ldY m o v → exec (.ldY t m o) s = .next (s.afterInstr t { th with y := v })) ∧
    (s.issuesWith t .ldBu m o v → exec (.ldBu t m o) s = .next (s.afterInstr t { th with a := v }) ∧ v.toNat < 2 ^ 8) ∧
    (s.issuesWith t .ldHu m o v → exec (.ldHu t m o) s = .next (s.afterInstr t { th with a := v }) ∧ v.toNat < 2 ^ 16)) ∧
  (∀ (s : State) (t : Tid) (m : BitVec 3) (o : BitVec 23) (ea : Word) (b : BankId) (g : Nat),
    s.issues t (valueRegs .ldA m o) → operandOf (s.thr t) m o = some (.mem ea) → regionOf (coreOf t) ea = .bank b g →
    ea.toNat % 4 = 0 → s.quiet t → s.secure b = false → (s.bank b).ret = .active → (s.bank b).ho = none →
    (s.bank b).owner = masterCore (coreOf t) → (s.bank b).waiting = [] → s.badWord g = false → (s.thr t).path = none →
    ∃ e : FarEntry,
      e = ⟨.value .ldA, ea, (s.thr t).pc, (s.thr t).a, (s.thr t).x, (s.thr t).y, (s.thr t).rm, s.seq + 1, false, false,
        some (.value (takeData ea 4 (memWord s.mem (g / 4 * 4))))⟩ ∧
      exec (.ldA t m o) s =
        .next (((s.issuing t).bankGrant b (masterCore (coreOf t)) (.far t (s.seq + 1))).setThr t
          { s.thr t with far := [e] }.retire))

/-- R43, R76, R85 to R88: what a far access writes when it is delivered: the register and flags of its instruction, and
for a blocking instruction PC moves on. -/
def Obligations.FarAccessDelivery : Prop :=
  ∀ (s : State) (t : Tid) (idx : Nat) (e : FarEntry) (r : FarResp) (data : Word),
    let th := { s.thr t with far := (s.thr t).far.erase e }
    let after := fun (x : Thread) => s.setThr t (if e.blocking then x.retire else x)
    (s.thr t).far[idx]? = some e → (s.thr t).pendFault = none → e.resp = some r →
    (∀ op w, e.op = .value op → r = .value w →
      exec (.farAccessCompletion t idx 0 data) s = .next (after (applyOp op e.a e.x e.y e.rm th w))) ∧
    (∀ p tag, r = .item p tag →
      exec (.farAccessCompletion t idx 0 data) s = .next (after { th with a := p, qt := tag, qst := 0, f := putFlag th.f flagC true })) ∧
    (r = .empty →
      exec (.farAccessCompletion t idx 0 data) s = .next (after { th with a := 0, qt := 0, qst := 1, f := putFlag th.f flagC false })) ∧
    (∀ q, r = .pushed q →
      exec (.farAccessCompletion t idx 0 data) s = .next (after { th with qst := q, f := putFlag th.f flagC (q == 0) })) ∧
    (∀ old z l, r = .cas old z l →
      exec (.farAccessCompletion t idx 0 data) s = .next (after { th with a := old, lst := l, f := putFlag th.f flagZ z })) ∧
    (∀ old, r = .swap old →
      exec (.farAccessCompletion t idx 0 data) s = .next (after { th with a := old, lst := 0 })) ∧
    (∀ z l, r = .waitev z l →
      exec (.farAccessCompletion t idx 0 data) s = .next (after { th with lst := l, f := putFlag th.f flagZ z }))

/-- R76, R168, R181: a store to user memory enters its core's store buffer with the bytes it names in their lanes of the
word, and the thread goes on; memory itself does not change yet. -/
def Obligations.StoresEnterTheBuffer : Prop :=
  ∀ (s : State) (t : Tid) (m : BitVec 3) (o : BitVec 23) (ea : Word) (g : Nat),
    let th := s.thr t
    let c := coreOf t
    let enter := fun (mask : BitVec 4) (v : Word) =>
      (((s.issuing t).dropRunAhead c (g / 4 * 4)).enterStore t (g / 4 * 4) mask v (th.pc.extractLsb' 2 16) false
        (s.leavesLate c (g / 4 * 4)) 0 {}).retire t
    operandOf th m o = some (.mem ea) →
    ((∃ d, regionOf c ea = .core d g) ∨ (∃ b, regionOf c ea = .bank b g)) → th.far = [] →
    ((s.core c).sbuf.filter fun e => e.t == t).length < 4 →
    (s.issues t (storeRegs .stA m o) → ea.toNat % 4 = 0 → exec (.stA t m o) s = .next (enter 0xF th.a)) ∧
    (s.issues t (storeRegs .stX m o) → ea.toNat % 4 = 0 → exec (.stX t m o) s = .next (enter 0xF th.x)) ∧
    (s.issues t (storeRegs .stY m o) → ea.toNat % 4 = 0 → exec (.stY t m o) s = .next (enter 0xF th.y)) ∧
    (s.issues t (storeRegs .stB m o) →
      exec (.stB t m o) s = .next (enter (BitVec.ofNat 4 (2 ^ (ea.toNat % 4))) (th.a <<< (8 * (ea.toNat % 4))))) ∧
    (s.issues t (storeRegs .stH m o) → ea.toNat % 2 = 0 →
      exec (.stH t m o) s = .next (enter (BitVec.ofNat 4 (3 * 2 ^ (ea.toNat % 4))) (th.a <<< (8 * (ea.toNat % 4)))))

/-- R75, R105: a misaligned load or store has no effect but the thread's pending fault MISALIGNED (0x02) at its PC (no
branch before it is still to resolve: then SQCNT may also count its reissue, R55). R70, R76, R77, R89: the words that
are well-formed instructions by opcode: 0x00, 0x3B to 0x3D and 0x3F never are, and the all-zero and all-ones words are
illegal; a well-formed word spells an instruction and no other word spells it. R247 to R251: the word of a pin-engine
instruction spells it again, and a legal word spells one. -/
def Obligations.InstructionFaults : Prop :=
  (∀ (s : State) (t : Tid) (m : BitVec 3) (o : BitVec 23) (ea : Word),
    let th := s.thr t
    let fault := (s.issuing t).setThr t { th with pendFault := some ⟨0x02, some th.pc, th.pc.extractLsb' 2 16, s.seq + 1⟩ }
    operandOf th m o = some (.mem ea) → s.quiet t → th.reissueLimit = 0 →
    (s.issues t (valueRegs .ldA m o) → ea.toNat % 4 ≠ 0 → exec (.ldA t m o) s = .next fault) ∧
    (s.issues t (valueRegs .ldHu m o) → ea.toNat % 2 ≠ 0 → exec (.ldHu t m o) s = .next fault) ∧
    (s.issues t (storeRegs .stA m o) → ea.toNat % 4 ≠ 0 → exec (.stA t m o) s = .next fault) ∧
    (s.issues t (storeRegs .stH m o) → ea.toNat % 2 ≠ 0 → exec (.stH t m o) s = .next fault)) ∧
  ((∀ w : Word, bitsOf w 26 6 ∈ [0x00, 0x3B, 0x3C, 0x3D, 0x3F] → wordOk w = false) ∧
    (∀ (i : Instr) (w : Word), encodeThreadWord i = some w → ∃ t, decodeThreadWord t w = i) ∧
    (∀ (t : Tid) (w : Word), wordOk w = true → encodeThreadWord (decodeThreadWord t w) = some w) ∧
    (∀ (i : Instr) (w : Word), encodePinWord i = some w → ∃ ch, decodePinWord ch w = i) ∧
    (∀ (ch : Chan) (w : Word), pinWordOk w = true → encodePinWord (decodePinWord ch w) = some w))

/-- R76: LEA takes the address without an access, LDHI the field times 512; no flag changes. R91 to R99: reads and writes
of system registers by LD.A and ST.A: TID, TP, QT, FLAGS, and the TIME0 pair, whose low half latches the high half. -/
def Obligations.AddressAndSystemInstructions : Prop :=
  (∀ (s : State) (t : Tid) (m : BitVec 3) (o : BitVec 23),
    let th := s.thr t
    (∀ ea, operandOf th m o = some (.mem ea) → s.issues t (sbA ||| modeReads m) →
      exec (.lea t m o) s = .next (s.afterInstr t { th with a := ea })) ∧
    (s.issues t sbA →
      exec (.ldhi t 0 o) s = .next (s.afterInstr t { th with a := BitVec.ofNat 32 (512 * o.toNat) }))) ∧
  (∀ (s : State) (t : Tid),
    let th := s.thr t
    s.issues t (sbA ||| sbF) → s.quiet t →
    exec (.ldA t 7 0x08) s = .next (s.afterInstr t { th with a := t.setWidth 32 }) ∧
    exec (.ldA t 7 0x0C) s = .next (s.afterInstr t { th with a := th.tp }) ∧
    exec (.ldA t 7 0x0D) s = .next (s.afterInstr t { th with a := th.qt }) ∧
    exec (.ldA t 7 0x0F) s = .next (s.afterInstr t { th with a := th.f }) ∧
    exec (.ldA t 7 0x11) s = .next (s.afterInstr t { th with a := th.timeH }) ∧
    exec (.ldA t 7 0x10) s =
      .next ((s.issuing t).setThr t { th with timeH := s.tb0.extractLsb' 32 32 } |>.setThr t
        { th with timeH := s.tb0.extractLsb' 32 32, a := s.tb0.extractLsb' 0 32 }.retire) ∧
    exec (.stA t 7 0x0F) s =
      .next (((s.issuing t).setThr t { th with f := th.a &&& flagBits }).setThr t { th with f := th.a &&& flagBits }.retire) ∧
    exec (.stA t 7 0x0E) s =
      .next (((s.issuing t).setThr t { th with rm := th.a.extractLsb' 0 2 }).setThr t
        { th with rm := th.a.extractLsb' 0 2 }.retire))

/-! ## Threads: queues and locks -/

/-- R85, R86, R87, R202, R559: queue reads and pushes of a thread at a queue of its own block. The quadrant's answer
stands in the far-access entry of a non-blocking instruction, and the thread goes on; LDW with no item sleeps until
one comes, STW and STWE with a refused push sleep for what refused it, and a push whose item goes to the slag queue is
answered OK. The tag's PRIO and KIND come from the operand, the payload from A, the role word from Y. -/
def Obligations.QueueInstructions : Prop :=
  ∀ (s : State) (t : Tid) (o : BitVec 23),
    let th := s.thr t
    let q := (queueOperand o).qid
    let u := (s.issuing t).setThr t { th with runAhead := [] }
    let entry := fun (op : FarOp) (blocking : Bool) (r : FarResp) =>
      FarEntry.mk op (o.setWidth 32) th.pc th.a th.x th.y th.rm (s.seq + 1) blocking false (some r)
    let pass := fun (x : State) (e : FarEntry) => x.setThr t { x.thr t with far := (x.thr t).far ++ [e] }.retire
    let stay := fun (x : State) (e : FarEntry) => x.setThr t { x.thr t with far := (x.thr t).far ++ [e] }
    let item := fun (last : Bool) =>
      mkItem last (queueOperand o).prio (queueOperand o).kind (BitVec.ofNat 22 t.toNat) th.a
    th.far = [] → (s.core (coreOf t)).sbuf = [] → (s.core (coreOf t)).inflight = [] → (queueOperand o).ind = false →
    (s.dom (16 + (quadrantOf q).toNat)).st = .on →
    (s.issues t (queueRegs o true) → (queueOperand o).kind = 0 → (queueOperand o).prio = 0 → s.mayRead t q = true →
      s.bit F.qeQcfg_MIRRORED q.toNat = false →
      (∀ i w x, u.popItem q (.thread t) = (some (i, w), x) →
        exec (.ldq t 6 o) s = .next (pass x (entry .queueRead false (.item (i.extractLsb' 0 32) (i.extractLsb' 32 32)))) ∧
        exec (.ldw t 6 o) s = .next (stay x (entry .queueRead true (.item (i.extractLsb' 0 32) (i.extractLsb' 32 32))))) ∧
      (∀ x, u.popItem q (.thread t) = (none, x) →
        exec (.ldq t 6 o) s = .next (pass x (entry .queueRead false .empty)) ∧
        ((x.thr t).st = .running → exec (.ldw t 6 o) s = .next (x.bump.setThr t
          { x.thr t with st := .sleepQueue, sleep := .read q, sleepSeq := x.seq + 1 })))) ∧
    (s.issues t (queueRegs o false) →
      (s.quad (quadrantOf q)).held.any (fun h => h.owner == BitVec.ofNat 12 t.toNat) = false →
      (∀ x, u.pushItem q (item false) (BitVec.ofNat 12 t.toNat) th.y = (.ok, x) →
        exec (.stq t 6 o) s = .next (pass (x.coverPush t q .ok) (entry (.queuePush false) false (.pushed 0))) ∧
        exec (.stw t 6 o) s = .next (stay ((x.dropWaiter (BitVec.ofNat 12 t.toNat)).coverPush t q .ok)
          (entry (.queuePush false) true (.pushed 0)))) ∧
      (∀ x, u.pushItem q (item true) (BitVec.ofNat 12 t.toNat) th.y = (.ok, x) →
        exec (.stqe t 6 o) s = .next (pass (x.coverPush t q .ok) (entry (.queuePush true) false (.pushed 0))) ∧
        exec (.stwe t 6 o) s = .next (stay ((x.dropWaiter (BitVec.ofNat 12 t.toNat)).coverPush t q .ok)
          (entry (.queuePush true) true (.pushed 0)))) ∧
      (∀ a code x, (a, code) ∈ [(PushAns.full, (2 : BitVec 4)), (.poolFull, 3), (.over, 4)] →
        (u.pushItem q (item false) (BitVec.ofNat 12 t.toNat) th.y = (a, x) →
          exec (.stq t 6 o) s = .next (pass x (entry (.queuePush false) false (.pushed code))) ∧
          exec (.stw t 6 o) s = .next (x.pushSleep t q a)) ∧
        (u.pushItem q (item true) (BitVec.ofNat 12 t.toNat) th.y = (a, x) →
          exec (.stqe t 6 o) s = .next (pass x (entry (.queuePush true) false (.pushed code))) ∧
          exec (.stwe t 6 o) s = .next (x.pushSleep t q a))) ∧
      (∀ a code x, (a, code) ∈ [(PushAns.slagged, (0 : BitVec 4)), (.disabled, 2)] →
        u.pushItem q (item false) (BitVec.ofNat 12 t.toNat) th.y = (a, x) →
          exec (.stq t 6 o) s = .next (pass x (entry (.queuePush false) false (.pushed code))) ∧
          exec (.stw t 6 o) s = .next (stay (x.dropWaiter (BitVec.ofNat 12 t.toNat))
            (entry (.queuePush false) true (.pushed code)))))

/-- R88, R136, R138, R139: CAS, SWAP and WAITEV on a word of the thread's own core-local memory, as one access after the
core's own buffered stores of the word, when the word holds no uncorrectable error (R177). CAS stores X when the word
equals A; SWAP stores A; WAITEV sleeps on a watch while the word equals A and is done at once (status CHANGED, 3) when
it does not. -/
def Obligations.LockInstructions : Prop :=
  ∀ (s : State) (t : Tid) (m : BitVec 3) (o : BitVec 23) (ea : Word) (g : Nat),
    let th := s.thr t
    let c := coreOf t
    let u := ((s.issuing t).setThr t { th with runAhead := [] }).flushWord c g
    let old := memWord u.mem g
    let entry := fun (op : FarOp) (blocking : Bool) (r : FarResp) =>
      FarEntry.mk op ea th.pc th.a th.x th.y th.rm (s.seq + 1) blocking false (some r)
    let pass := fun (x : State) (e : FarEntry) => x.setThr t { x.thr t with far := (x.thr t).far ++ [e] }.retire
    let wrote := fun (v : Word) => (u.performWrite g 0xF v).dropRunAhead c g
    operandOf th m o = some (.mem ea) → regionOf c ea = .core c g → ea.toNat % 4 = 0 → th.far = [] →
    (s.dom (coreDomain c)).st = .on → th.revoked = [] → (u.thr t).revoked = [] → g < 0x01800000 →
    s.badWord g = false →
    (s.issues t (lockRegs .cas m) → old = th.a →
      exec (.cas t m o) s = .next (pass (wrote th.x) (entry .cas false (.cas old true 0)))) ∧
    (s.issues t (lockRegs .cas m) → old ≠ th.a →
      exec (.cas t m o) s = .next (pass u (entry .cas false (.cas old false 0)))) ∧
    (s.issues t (lockRegs .swap m) → exec (.swap t m o) s = .next (pass (wrote th.a) (entry .swap false (.swap old)))) ∧
    (s.issues t (lockRegs .waitev m) → old = th.a → (u.thr t).st = .running → u.watches.length < 4096 →
      exec (.waitev t m o) s =
        .next ((({ u with watches := u.watches ++ [Watch.mk t g false (old.getLsbD 22)] }).setFld F.lckWatch_HIGH
          (max (u.fld F.lckWatch_HIGH) (u.watches.length + 1))).putToSleep t .sleepLock (.lock g))) ∧
    (s.issues t (lockRegs .waitev m) → old ≠ th.a →
      exec (.waitev t m o) s = .next (u.setThr t { u.thr t with far := (u.thr t).far ++ [entry .waitev true (.waitev false 3)] }))

/-! ## Threads: branches, fences, registers -/

/-- R80, R81: the conditions of GO.cc on N, Z, C and V, and the relations of CGO.A and CGO.X. R46, R50, R53, R54, R71,
R80, R81, R83: a branch outside a delay slot resolves to its condition and target, its prediction entry is trained, a
misprediction squashes, and its delay slot is next; a speculation-capable thread that was predicted right has gone on
along its path. GOL leaves the address after the slot in Y; GOI trains and squashes nothing (the model's choice, log
entry 62). R46, R47: after the delay slot PC goes to the branch's outcome; the slot of an untaken annulling branch is
discarded, whatever instruction stands in it. -/
def Obligations.BranchesAndDelaySlots : Prop :=
  ((∀ f : Word,
    let n := f.getLsbD 3
    let z := f.getLsbD 2
    let c := f.getLsbD 1
    let v := f.getLsbD 0
    ∀ k : BitVec 4, condHolds f k = [true, z, !z, n, !n, c, !c, v, !v, c && !z, !c || z, n == v, n != v, !z && (n == v),
      z || (n != v), false].getD k.toNat false) ∧
  (∀ a b : Word, ∀ k : BitVec 3,
    relHolds k a b = [a == b, a != b, a.slt b, b.sle a, a.ult b, b.ule a, a.getLsbD (b.toNat % 32),
      !a.getLsbD (b.toNat % 32)].getD k.toNat false)) ∧
  (∀ (s : State) (t : Tid) (annul : Bool),
    let th := s.thr t
    let capable := s.specCapable (coreOf t) (t.toNat % 16)
    let slot := fun (u : State) (taken an : Bool) (target : Word) (path : Option (Word × Nat)) =>
      u.setThr t { u.thr t with pc := (u.thr t).pc + 4, slot := some ⟨taken, an, target, (u.thr t).pc + 8⟩, path := path }
    let branch := fun (taken back : Bool) (target : Word) =>
      let u := (s.issuing t).trainPred t th.pc taken
      let wrong := (capable || annul) && s.predicted t th.pc back != taken
      slot (if wrong then u.mispredict t annul (s.predicted t th.pc back) else u) taken annul target
        (if capable && !wrong then some (if taken then (target, 1) else (th.pc + 8, 2)) else none)
    let target := fun (d : Word) => th.pc + d <<< 2
    th.slot = none →
    (∀ (cond : BitVec 4) (disp : BitVec 21), cond ≠ 0xF → s.issues t (if cond = 0 then 0 else sbF) →
      let taken := condHolds th.f cond
      exec (.goCc t annul cond disp) s =
        .next (branch taken (disp.getLsbD 20) (target (disp.signExtend 32)))) ∧
    (∀ disp : BitVec 21, s.issues t sbY →
      let u := branch true (disp.getLsbD 20) (target (disp.signExtend 32))
      exec (.gol t annul 0 disp) s = .next (u.setThr t { u.thr t with y := th.pc + 8 })) ∧
    (∀ (m : BitVec 3) (o : BitVec 23) (ea : Word), s.issues t (modeReads m) → operandOf th m o = some (.mem ea) →
      ea.toNat % 4 = 0 → exec (.goi t m o) s = .next (slot (s.issuing t) true false ea none)) ∧
    (∀ (rel : BitVec 3) (imm : BitVec 7) (disp : BitVec 14),
      let go := fun (taken : Bool) =>
        branch taken (disp.getLsbD 13) (target (disp.signExtend 32))
      (s.issues t sbA →
        exec (.cgoA t annul rel false imm disp) s = .next (go (relHolds rel th.a (imm.signExtend 32)))) ∧
      (s.issues t (sbA ||| sbX) → exec (.cgoA t annul rel true 0 disp) s = .next (go (relHolds rel th.a th.x))) ∧
      (s.issues t sbX →
        exec (.cgoX t annul rel false imm disp) s = .next (go (relHolds rel th.x (imm.signExtend 32)))) ∧
      (s.issues t (sbX ||| sbY) → exec (.cgoX t annul rel true 0 disp) s = .next (go (relHolds rel th.x th.y))))) ∧
  (∀ (s : State) (t : Tid) (target next : Word) (annul : Bool),
    let th := s.thr t
    let at_ := fun (pc : Word) => (s.issuing t).setThr t { th with pc := pc, slot := none, slotSlept := false }
    (th.slot = some ⟨true, annul, target, next⟩ → s.issues t 0 → exec (.nop t) s = .next (at_ target)) ∧
    (th.slot = some ⟨false, false, target, next⟩ → s.issues t 0 → exec (.nop t) s = .next (at_ next)) ∧
    (th.slot = some ⟨false, true, target, next⟩ → s.ready t = true →
      exec (.nop t) s = .next (at_ next) ∧ (∀ m o, exec (.add t m o) s = .next (at_ next)) ∧
      (∀ m o, exec (.stA t m o) s = .next (at_ next)) ∧ (∀ m o, exec (.stqe t m o) s = .next (at_ next))))

/-- R188, R190, R127, R105: a fence completes at once when nothing it waits for is outstanding, and otherwise is held; a
held fence completes when that is done; MSYNC completes when the partner has acknowledged (at once in a block without
a pair); HALT issues and waits for HALT_COMPLETE; an illegal word faults with code 0x01. -/
def Obligations.FencesAndHalt : Prop :=
  ∀ (s : State) (t : Tid),
    let th := s.thr t
    (s.issues t 0 → th.fence = none → s.quiet t →
      exec (.fenceC t) s = .next (s.afterInstr t { th with runAhead := [] }) ∧ exec (.fenceH t) s = .next (s.afterInstr t { th with runAhead := [] }) ∧
      exec (.fenceS t) s = .next (s.afterInstr t { th with runAhead := [] })) ∧
    (∀ (e : FarEntry) (rest : List FarEntry), s.issues t 0 → th.fence = none → th.far = e :: rest →
      exec (.fenceC t) s = .next ((s.issuing t).setThr t
        { th with runAhead := [], fence := some (0, s.seq + 1) }) ∧
      exec (.fenceH t) s = .next ((s.issuing t).setThr t
        { th with runAhead := [], fence := some (1, s.seq + 1) }) ∧
      exec (.fenceS t) s = .next ((s.issuing t).setThr t
        { th with runAhead := [], fence := some (2, s.seq + 1) })) ∧
    (∀ k n, th.fence = some (k, n) → th.st = .running → th.pendFault = none → s.quiet t →
      exec (.fenceC t) s = .next (s.setThr t { th with fence := none }.retire) ∧
      exec (.fenceH t) s = .next (s.setThr t { th with fence := none }.retire) ∧
      exec (.fenceS t) s = .next (s.setThr t { th with fence := none }.retire)) ∧
    (s.issues t 0 → s.mirrorSynced t = true → exec (.msync t) s = .next (s.afterInstr t { th with runAhead := [] })) ∧
    (s.pairing = false → s.mirrorSynced t = true) ∧
    (s.issues t 0 → th.slot = none → exec (.halt t) s = .next ((s.issuing t).setThr t { th with halting := some th.pc })) ∧
    (∀ w, s.issues t 0 → wordOk w = false → th.pendFault = none →
      exec (.illegalInstruction t w) s = .next ((s.issuing t).setThr t
        { th with pendFault := some ⟨0x01, some th.pc, th.pc.extractLsb' 2 16, s.seq + 1⟩ })) ∧
    (s.issues t 0 → exec (.nop t) s = .next (s.afterInstr t th))

/-- R77, R78, R110: the register moves, negation, complement, leading zeros and the sign operations of binary32. R77,
R112, R115, R116: conversions between binary32 and integers by SR.RM (0 to nearest even, 1 toward zero, 2 up, 3 down).
FTOI and FTOU round the operand to an integer; when it stands in range, NX (bit 16) is set exactly when it is not the
operand; out of range the result saturates with IV (bit 9) and NV (bit 20) set and NX not, infinities among it, and a
NaN gives 0 so. ITOF and UTOF round the integer to 24 significant bits; NX is set exactly when the result is another
number. No flag is cleared, and no other is set. -/
def Obligations.RegisterGroupAndConversions : Prop :=
  (∀ (s : State) (t : Tid),
    let th := s.thr t
    let negf := putFlag (setNZ th.f (-th.a)) flagC (th.a == 0)
    (s.issues t (sbA ||| sbF) →
      exec (.neg t) s = .next (s.afterInstr t { th with a := -th.a, f := setV negf (th.a == 0x80000000) }) ∧
      exec (.not t) s = .next (s.afterInstr t { th with a := ~~~th.a, f := setNZ th.f (~~~th.a) }) ∧
      ∃ n : Nat, n ≤ 32 ∧ (∀ i, i < n → th.a.getLsbD (31 - i) = false) ∧ (n < 32 → th.a.getLsbD (31 - n) = true) ∧
        exec (.clz t) s = .next (s.afterInstr t { th with a := BitVec.ofNat 32 n, f := setNZ th.f (BitVec.ofNat 32 n) })) ∧
    (s.issues t (sbA ||| sbX) → exec (.mvXa t) s = .next (s.afterInstr t { th with x := th.a }) ∧
      exec (.mvAx t) s = .next (s.afterInstr t { th with a := th.x })) ∧
    (s.issues t (sbA ||| sbY) → exec (.mvYa t) s = .next (s.afterInstr t { th with y := th.a }) ∧
      exec (.mvAy t) s = .next (s.afterInstr t { th with a := th.y })) ∧
    (s.issues t (sbX ||| sbY) → exec (.mvYx t) s = .next (s.afterInstr t { th with y := th.x }) ∧
      exec (.mvXy t) s = .next (s.afterInstr t { th with x := th.y })) ∧
    (s.issues t sbA → exec (.fneg t) s = .next (s.afterInstr t { th with a := th.a ^^^ 0x80000000 }) ∧
      exec (.fabs t) s = .next (s.afterInstr t { th with a := th.a &&& 0x7FFFFFFF }))) ∧
  (∀ (s : State) (t : Tid), s.issues t (sbA ||| sbF) →
    let th := s.thr t
    let after := fun (r flags : Word) => s.afterInstr t { th with a := r, f := th.f ||| flags }
    let out : Word := 0x00100200
    let nx := fun (exact : Bool) => if exact then (0 : Word) else 0x00010000
    let expo := fun (w : Word) => (w.extractLsb' 23 8).toNat
    let frac := fun (w : Word) => (w.extractLsb' 0 23).toNat
    let value := fun (w : Word) => (if w.getLsbD 31 then -1 else 1 : ℚ) *
      (if expo w = 0 then (frac w : ℚ) * 2 ^ (-149 : ℤ) else (2 ^ 23 + frac w : ℚ) * 2 ^ ((expo w : ℤ) - 150))
    let rounds := fun (x : ℚ) (v : ℤ) =>
      if th.rm = 0 then |x - v| ≤ 1 / 2 ∧ (|x - v| = 1 / 2 → v % 2 = 0)
      else if th.rm = 1 then |x - v| < 1 ∧ |(v : ℚ)| ≤ |x|
      else if th.rm = 2 then x ≤ v ∧ v < x + 1
      else v ≤ x ∧ x < v + 1
    let float := fun (x : ℤ) (r : Word) => expo r ≠ 255 ∧ (x = 0 → r = 0) ∧ ∃ (n : ℤ) (q : ℕ),
      |x| < 2 ^ (24 + q) ∧ (q = 0 ∨ 2 ^ (23 + q) ≤ |x|) ∧ rounds ((x : ℚ) / 2 ^ q) n ∧ value r = (n : ℚ) * 2 ^ q
    (expo th.a = 255 → frac th.a ≠ 0 →
      exec (.ftoi t) s = .next (after 0 out) ∧ exec (.ftou t) s = .next (after 0 out)) ∧
    (expo th.a = 255 → frac th.a = 0 →
      exec (.ftoi t) s = .next (after (if th.a.getLsbD 31 then 0x80000000 else 0x7FFFFFFF) out) ∧
      exec (.ftou t) s = .next (after (if th.a.getLsbD 31 then 0 else 0xFFFFFFFF) out)) ∧
    (expo th.a ≠ 255 → ∃ v : ℤ, rounds (value th.a) v ∧
      exec (.ftoi t) s = .next (if 2 ^ 31 ≤ v then after 0x7FFFFFFF out else if v < -2 ^ 31 then after 0x80000000 out
        else after (BitVec.ofInt 32 v) (nx (decide ((v : ℚ) = value th.a)))) ∧
      exec (.ftou t) s = .next (if 2 ^ 32 ≤ v then after 0xFFFFFFFF out else if v < 0 then after 0 out
        else after (BitVec.ofInt 32 v) (nx (decide ((v : ℚ) = value th.a))))) ∧
    (∃ r, float th.a.toInt r ∧ exec (.itof t) s = .next (after r (nx (decide (value r = th.a.toInt))))) ∧
    (∃ r, float th.a.toNat r ∧ exec (.utof t) s = .next (after r (nx (decide (value r = th.a.toNat))))))

/-! ## Counters and status registers as they are read -/

/-- R9, R10: a read of a counter register answers its fields, those of access RC with their value at the start of the
cycle, and clears the latter but for what the running cycle has counted or set (`since`); it changes nothing else.
IDLECNT and SQCNT (R65, R66), the ECC counters (R196, R199), MEM.CONF (R198), SLAGCNT and SLAGLOST (R230), SIG.CNT in
an ON domain (R382), SCNT (R463), ESTAT (R275), CERR (R277), HSTAT (R403), LCNT (R443), LCK.CNT (R161), TA.CNT (R355),
OVRCNT (R357), CHN.CNT (R444), MIR.CNT (R446), VSTAT and HERR (R557), TB.PORT (R328). R9, R10: status registers that
show the block's own state beside their counters; a read clears the counters as any counter read. MEM.RET (R194),
MEM.NOWN with VALID (R197), TUNSTAT (R445), FLT.STAT (R464), DSTAT (R405), REFSTAT and WIN of a base but TB0 (R327,
R326); the two highest uses LCK.WATCH.HIGH and EGR.HIGH start again from the entries in use (R160, R444). -/
def Obligations.CounterAndStatusReads : Prop :=
  (∀ s : State,
    let e := fun (k : RegKind) (i j : Nat) => smGet none s.cycEv (regOff k i j)
    let start := fun (k : RegKind) (i j : Nat) => match e k i j with | some p => p.1 | none => s.reg k i j
    let since := fun (k : RegKind) (i j : Nat) => match e k i j with | some p => p.2 | none => 0
    let after := fun (k : RegKind) (i j : Nat) (shown cleared : Word) =>
      { s.setReg k ((s.reg k i j &&& ~~~cleared) ||| (since k i j &&& cleared)) i j with
        cycEv := smSet none s.cycEv (regOff k i j) ((e k i j).map fun p => (p.1 &&& ~~~cleared, p.2))
        answer := (((s.reg k i j &&& ~~~cleared) ||| (start k i j &&& cleared)) &&& shown).setWidth 64 }
    let all := (0xFFFFFFFF : Word)
    (∀ c : CoreId, exec (.idlecntRead c) s = .next (after .sltIdlecnt c.toNat 0 all all) ∧ exec (.sqcntRead c) s = .next (after .sltSqcnt c.toNat 0 all all) ∧
      exec (.memEccRead true c) s = .next (after .memClecc c.toNat 0 0xFFFF807F 0xFFFF0000) ∧
      exec (.memEccRead false c) s = .next (after .memEcc (c.toNat % 16) 0 0xFFFF807F 0xFFFF0000)) ∧
    (∀ (b : BankId) (m : Master), m.toNat < 44 → exec (.memConfRead b m) s = .next (after .memConf b.toNat m.toNat all all)) ∧
    (∀ r : BitVec 4, 1 ≤ r.toNat → r.toNat ≤ 9 → exec (.slagcntRead r) s = .next (after .qeSlagcnt (r.toNat - 1) 0 all all)) ∧
    ((s.dom 20).st = .on → (s.regWaits.any fun x => x.d == 20) = false →
      ∀ k : BitVec 4, k.toNat ≤ 10 → exec (.sigCntRead k) s = .next (after .sigCnt k.toNat 0 all all)) ∧
    (∀ k : BitVec 4, k.toNat < 12 → exec (.scntRead k) s = .next (after .fltScnt k.toNat 0 all all)) ∧
    (∀ e : EngineId, exec (.estatRead e) s = .next (after .peEstat e.toNat 0 0xFFFF0000 0xFFFF0000)) ∧
    (∀ ch : Chan, exec (.cerrRead ch) s = .next (after .peCerr (ch.toNat / 8) (ch.toNat % 8) all 0x00FFFFFF)) ∧
    (∀ h : HearthId, exec (.hstatRead h) s = .next (after .belHstat h.toNat 0 0xFF00FFF0 0x0000FF00)) ∧
    (∀ l : LaneId, exec (.lcntRead l) s = .next (after .chnLcnt l.toNat 0 all all)) ∧
    exec .lckCntRead s = .next (after .lckCnt 0 0 all all) ∧ exec .slaglostRead s = .next (after .qeSlaglost 0 0 all all) ∧
    exec .taCntRead s = .next (after .taCnt 0 0 all all) ∧ exec .ovrcntRead s = .next (after .evmOvrcnt 0 0 all all) ∧
    exec .chnCntRead s = .next (after .chnCnt 0 0 all all) ∧ exec .mirCntRead s = .next (after .mirCnt 0 0 0xFFFFFF00 0xFFFFFF00) ∧
    exec .vstatRead s = .next (after .hstVstat 0 0 0x80FFFFFF 0x0000FFFF) ∧ exec .herrRead s = .next (after .hstHerr 0 0 all all) ∧
    exec .tbPortRead s = .next (after .tbPort 0 0 0x8000FF00 0x0000FF00)) ∧
  (∀ s : State,
    let e := fun (k : RegKind) (i j : Nat) => smGet none s.cycEv (regOff k i j)
    let start := fun (k : RegKind) (i j : Nat) => match e k i j with | some p => p.1 | none => s.reg k i j
    let since := fun (k : RegKind) (i j : Nat) => match e k i j with | some p => p.2 | none => 0
    let after := fun (k : RegKind) (i j : Nat) (cleared view : Word) =>
      { s.setReg k ((s.reg k i j &&& ~~~cleared) ||| (since k i j &&& cleared)) i j with
        cycEv := smSet none s.cycEv (regOff k i j) ((e k i j).map fun p => (p.1 &&& ~~~cleared, p.2))
        answer := ((view &&& ~~~cleared) ||| (start k i j &&& cleared)).setWidth 64 }
    exec .watchRead s = .next { s.setFld F.lckWatch_HIGH s.watches.length with
      answer := (F.lckWatch_HIGH.put (BitVec.ofNat 32 s.watches.length)
        (max (s.fld F.lckWatch_HIGH) s.watches.length)).setWidth 64 } ∧
    (∀ b : BankId, exec (.memRetRead b) s = .next (after .memRet b.toNat 0 0x00FF0000
      (F.memRet_STATE.put (s.reg .memRet b.toNat)
        (match (s.bank b).ret with | .active => 0 | .entering => 1 | .retained => 2 | .waking => 3)))) ∧
    (∀ b : BankId,
      let u := after .memNown b.toNat 0 0xFFFF0000 (s.reg .memNown b.toNat &&& 0xFFFF007F)
      exec (.memNownRead b) s =
        .next (u.setFld F.memNown_VALID (if since .memNown b.toNat 0 &&& 0xFFFF0000 = 0 then 0 else 1) b.toNat)) ∧
    exec .egrRead s = .next { s.setFld F.chnEgr_HIGH s.chain.egress.length with
      answer := (F.chnEgr_HIGH.put (F.chnEgr_USE.put (s.reg .chnEgr) s.chain.egress.length)
        (max (s.fld F.chnEgr_HIGH) s.chain.egress.length)).setWidth 64 } ∧
    exec .tunstatRead s = .next (after .chnTunstat 0 0 0x00FFFFFF
      (F.chnTunstat_TXFULL.put (s.reg .chnTunstat) (decide (s.txSize ≤ s.txUsed)).toNat)) ∧
    exec .fltStatRead s = .next (after .fltStat 0 0 0xFFFF0000
      (F.fltStat_TRACK.put (s.reg .fltStat)
        (s.faults.track.filter fun e => decide (s.ns < e.w + 1000 * (s.fld F.fltScfg_WINDOW e.cls.toNat))).length)) ∧
    (∀ d : BitVec 5, exec (.dstatRead d) s = .next (after .pwrDstat d.toNat 0 0x00FF0000
      (F.pwrDstat_HELD.put (F.pwrDstat_STATE.put (s.reg .pwrDstat d.toNat)
        (match (s.dom d.toNat).st with
          | .on => 0 | .draining => 1 | .entering => 2 | .retained => 3 | .off => 4 | .waking => 5)) (s.heldCount d.toNat)))) ∧
    (∀ (n : BaseId) (j : BitVec 2), n ≠ 0 → exec (.refstatRead n j) s = .next (after .tbRefstat n.toNat j.toNat 0x00FF0000
      (F.tbRefstat_VALID.put (s.reg .tbRefstat n.toNat j.toNat) (s.baseOn n && s.refValid n j).toNat &&& 0xE0FFFFFF))) ∧
    (∀ n : BaseId, n ≠ 0 → exec (.tbWinRead n) s = .next (after .tbWin n.toNat 0 0xFFFF0000
      (F.tbWin_HIST.put (s.reg .tbWin n.toNat) ((s.base n).hist.toNat % 256) &&& 0xFFFF00FF))))

/-! ## Core machinery -/

/-- R6, R27, R473, R540 to R542: who makes a register access. A thread's is made; the debug port's is made in life-cycle
states 1, 2 and 6 and answered in every state; the boot unit's is made until the seal. R11, R27, R548, R549, R551,
R558: a register write reaches the register its offset names: offsets not listed ignore it; what only the block
supervisor may write faults any other thread; a command register acts as its command; an enabled translation window
changes only its EN. -/
def Obligations.RegisterAccess : Prop :=
  (∀ (s : State) (f : State → State),
    (∀ t, s.access (.thread t) f = f s) ∧
    (s.soc.lc ∈ [1, 2, 6] → s.access .debug f = (f s).dpReply) ∧
    (s.soc.lc ∉ [1, 2, 6] → s.access .debug f = s.dpReply) ∧
    (s.boot.seald = false → s.access .boot f = f s) ∧
    (s.boot.seald = true → s.access .boot f = s)) ∧
  (∀ (s : State) (v : Word),
    (∀ (t : Tid) (off : BitVec 24), locate off.toNat = none → exec (.registerWrite (.thread t) off v) s = .next s) ∧
    (∀ i : Byte,
      let at_ := fun (n : Nat) => BitVec.ofNat 24 (0x1C1000 + 16 * i.toNat + n)
      exec (.registerWrite (.thread 0) (at_ 8) v) s = .next (s.setReg .hstVdata v i.toNat) ∧
      exec (.registerWrite (.thread 0) (at_ 0) v) s =
        .next (s.setReg .hstVaddrl ((s.reg .hstVaddrl i.toNat &&& 3) ||| (v &&& 0xFFFFFFFC)) i.toNat) ∧
      ∀ t : Tid, t ≠ 0 → exec (.registerWrite (.thread t) (at_ 8) v) s = .next (s.authorityFault (.thread t)) ∧
        exec (.registerWrite (.thread t) (at_ 0) v) s = .next (s.authorityFault (.thread t))) ∧
    (∀ t : Tid,
      exec (.registerWrite (.thread t) 0x1B0018 0x40000000) s = exec (.warmReset (.thread t)) s ∧
      (∀ h : HearthId, exec (.registerWrite (.thread t) 0x1B0018 (0x20000000 + h.setWidth 32)) s = exec (.hearthReset (.thread t) h) s) ∧
      exec (.registerWrite (.thread t) 0x1A0018 0x80000000) s = exec (.calendarSet (.thread t)) s ∧
      (∀ n : BitVec 4, exec (.registerWrite (.thread t) (0x1C000C + 32 * n.setWidth 24) v) s = exec (.swinCfgWrite (.thread t) n v) s)) ∧
    (∀ (n : BitVec 4) (w : Writer),
      (isBlock w = false → exec (.swinCfgWrite w n v) s = .next (s.access w fun s => s.authorityFault w)) ∧
      (isBlock w = true →
        let l := (v.extractLsb' 0 5).toNat
        let base := 65536 * (s.fld F.hstSbase_BASE n.toNat)
        let phys := 2 ^ 32 * (s.fld F.hstPbaseh_ADDR n.toNat) + 65536 * (s.fld F.hstPbasel_ADDR n.toNat)
        let bad := l < 16 ∨ base % 2 ^ l ≠ 0 ∨ phys % 2 ^ l ≠ 0 ∨ base < 0x10000000 ∨ 2 ^ 32 < base + 2 ^ l
        (v.getLsbD 31 = true → bad → exec (.swinCfgWrite w n v) s = .next (s.access w fun s => s)) ∧
        (s.fld F.hstCfg_EN n.toNat = 1 → v.getLsbD 31 = true → ¬ bad →
          exec (.swinCfgWrite w n v) s = .next (s.access w fun s => s.setFld F.hstCfg_EN 1 n.toNat)) ∧
        (s.fld F.hstCfg_EN n.toNat = 1 → v.getLsbD 31 = false →
          exec (.swinCfgWrite w n v) s = .next (s.access w fun s => s.setFld F.hstCfg_EN 0 n.toNat)) ∧
        (s.fld F.hstCfg_EN n.toNat = 0 → v.getLsbD 31 = false ∨ ¬ bad →
          exec (.swinCfgWrite w n v) s = .next (s.access w fun s => s.store w .hstCfg v n.toNat)))))

/-- R6, R139, R183: a masked write changes exactly the bytes it selects, each to its byte of the data. R168, R181, R183,
R188: an entry leaves the store buffer once its controller's older entries have left; a store that has reached its
controller is performed there and acknowledged; one that a bank refuses is counted and faults its thread. -/
def Obligations.StoresReachMemory : Prop :=
  (∀ (m : List Host.Cell) (a x : Nat) (mask : BitVec 4) (v : Word),
    memByte (memSetMasked m a mask v) x =
      (if a ≤ x ∧ x < a + 4 ∧ mask.getLsbD (x - a) = true then v.extractLsb' (8 * (x - a)) 8 else memByte m x)) ∧
  (∀ (s : State) (c : CoreId) (idx : Nat) (e : SbEntry),
    let x := s.core c
    let dropped := s.setCore c { x with inflight := x.inflight.eraseIdx idx }
    (x.sbuf[idx]? = some e → e.dev = false → e.addr < 0x10000000 →
      (∀ p ∈ x.sbuf.take idx, controllerOf p.addr ≠ controllerOf e.addr) →
      exec (.storeBufferEntryLeave c idx) s =
        .next (s.setCore c { x with sbuf := x.sbuf.eraseIdx idx, inflight := x.inflight ++ [e] })) ∧
    (x.inflight[idx]? = some e → e.addr < 0x10000000 → (s.chain.rwOpen.any fun r => r.1 == c) = false →
      (∀ p ∈ x.inflight.take idx, controllerOf p.addr ≠ controllerOf e.addr) →
      (∀ d g, regionOf c (BitVec.ofNat 32 e.addr) = .core d g → (s.dom (coreDomain d)).st = .on →
        exec (.storeAcknowledged c idx) s =
          .next { dropped with mem := memSetMasked s.mem g e.mask e.data, watches := wakeWatches s.watches g }) ∧
      (∀ b g, regionOf c (BitVec.ofNat 32 e.addr) = .bank b g → s.storeCheck c b e = .refuse →
        exec (.storeAcknowledged c idx) s = .next (s.bankLeaves b (.store c e.seq)) ∧
        exec (.lateStoreFault c idx 0) s =
          .next ((dropped.bankRefuses b (masterCore c) (.store c e.seq)).lateFault e.t 0x07 e.pc e.seq))))

/-- R57, R58, R65: a stalled speculation-capable thread fills one of its two run-ahead entries from normal memory, in a
slot that counts as used; an entry is dropped 256 cycles after it was filled. R35, R59 to R63, R49: a slot-table word
written before its commit, the commit, the table taken at the first frame boundary two cycles on and copied, later
writes left for the next copy, the RECOVERY mode left by LEAVE, and the built-in test, which leaves an empty
prediction table where it ends in STARTUP or RECOVERY. -/
def Obligations.RunAheadSlotsAndModes : Prop :=
  (∀ (s : State) (t : Tid),
    let th := s.thr t
    (∀ (m : BitVec 3) (o : BitVec 23) (ea : Word) (d : CoreId) (g : Nat),
      th.st = .running → s.ready t = true → s.specCapable (coreOf t) (t.toNat % 16) = true → s.stalledOnLoad t = true →
      s.noDeviceOut t = true → th.pendingRegs &&& modeReads m = 0 → th.runAhead.length < 2 →
      operandOf th m o = some (.mem ea) → regionOf (coreOf t) ea = .core d g → (s.dom (coreDomain d)).st = .on →
      s.badWord g = false → (∀ r ∈ th.runAhead, r.addr ≠ g / 4 * 4) →
      exec (.runAheadLoad t m o) s =
        .next ((s.setThr t { th with runAhead := th.runAhead ++ [⟨g / 4 * 4, s.loadWord (coreOf t) g, s.cycle⟩] }).setCore
          (coreOf t) { s.core (coreOf t) with unseen := (s.core (coreOf t)).unseen + 1 })) ∧
    (∀ (idx : Nat) (r : RunAhead), th.runAhead[idx]? = some r → r.filled + 256 ≤ s.cycle →
      exec (.runAheadEntryExpiry t idx) s = .next (s.setThr t { th with runAhead := th.runAhead.erase r }))) ∧
  (∀ (s : State) (w : Writer) (c : CoreId),
    let x := s.core c
    let n := c.toNat
    (s.takes (coreDomain c) → overCore w c = true → w ≠ .boot →
      (∀ (wi : BitVec 3) (v : Word), slotWordOk v = true →
        exec (.sltTabWrite w c wi v) s =
          .next (s.access w fun _ => ((s.setReg .sltTab v n wi.toNat).setCore c { x with wrote := true }).setFld
            F.sltCtl_DIRTY 1 n)) ∧
      (x.commitAt = none →
        exec (.sltCommit w c) s =
          .next (s.access w fun _ => (s.setCore c
            { x with nospecNext := some (x.nospecNext.getD (s.bit F.sltCtl_NOSPEC n)), commitAt := some s.cycle }).setFld
              F.sltCtl_PEND 1 n)) ∧
      (x.mode = .recovery →
        exec (.predLeave w c) s =
          .next (s.access w fun _ => (s.setFld F.sltPred_OFF (s.fld F.sltPred_OFF n) n).setCore c { x with mode := .service }))) ∧
    (∀ g, x.commitAt = some g → (g + 2 + 31) / 32 * 32 ≤ s.cycle →
      s.snapTable c = s.setCore c
        { x with commitAt := none, snap := some ((List.range 8).map fun i => s.reg .sltTab n i), wrote := false,
                 snapAt := s.cycle }) ∧
    (∀ ws, x.snap = some ws →
      exec (.slotTableCopy c) s =
        .next (((((List.range 8).foldl (fun u i => u.setReg .sltAct (ws.getD i 0) n i) s).setCore c
          { x with snap := none, loaded := true }).setFld F.sltCtl_PEND x.commitAt.isSome.toNat n).setFld
            F.sltCtl_DIRTY x.wrote.toNat n)) ∧
    (x.mode ≠ .test → exec (.builtInTest c true) s = .next (s.setCore c { x with mode := .test, modeBefore := x.mode, table := [] })) ∧
    (x.mode = .test → exec (.builtInTest c false) s = .next (s.setCore c
      { x with mode := x.modeBefore, table := if x.modeBefore = .service then x.table else [] })))

/-! ## Life cycle, roles and locks of threads -/

/-- R122, R125, R126, R127, R390: release of a settled thread of a core in service, STOP of a running or sleeping one by
another thread, the end of STOPPING, and the end of a HALT once its older far accesses are done. -/
def Obligations.ThreadLifeCycle : Prop :=
  ∀ (s : State) (w : Writer) (t : Tid),
    let th := s.thr t
    (overCore w (coreOf t) = true → s.takes (coreDomain (coreOf t)) →
      (th.st ∈ [.unreleased, .stopped, .halted, .faulted] → s.coreRetired (coreOf t) = false → s.runBarred = false →
        s.beginPair.shadowHeld t = false →
        exec (.threadRelease w t) s =
          .next (s.access w fun _ => (s.beginPair.masterBack t).setThr t
            { (s.beginPair.masterBack t).thr t with
                st := .running, sleep := .awake, revoked := [], relPend := false, runAhead := [],
                pendFault := none, halting := none, far := [], slotSlept := false, fence := none })) ∧
      (th.st ∈ [.unreleased, .stopped, .halted, .faulted] → s.coreRetired (coreOf t) = false → s.runBarred = false →
        s.beginPair.shadowHeld t = true →
        exec (.threadRelease w t) s =
          .next (s.access w fun _ => s.beginPair.setThr t { s.beginPair.thr t with relPend := true })) ∧
      (th.st = .running → w ≠ .thread t →
        exec (.threadStop w t) s =
          .next (s.access w fun _ => (s.dropClaims (BitVec.ofNat 12 t.toNat)).setThr t
            { (s.dropClaims (BitVec.ofNat 12 t.toNat)).thr t with st := .stopping, runAhead := [] })) ∧
      (th.st ∈ [.sleepQueue, .sleepLock] → w ≠ .thread t →
        exec (.threadStop w t) s =
          .next (s.access w fun _ => (s.dropSleep t).setThr t
            { (s.dropSleep t).thr t with st := .stopping, sleep := .awake, slotSlept := ((s.dropSleep t).thr t).slot.isSome }))) ∧
    (th.st = .stopping → th.far = [] → th.pendFault = none → th.halting = none → (th.slot = none ∨ th.slotSlept = true) →
      exec (.threadStopped t) s = .next (s.setThr t { th with st := .stopped })) ∧
    (∀ a, th.halting = some a → th.far = [] → th.pendFault = none → th.st = .running →
      let u := s.setThr t { th with st := .halted, pc := a + 4, halting := none, slot := none }
      (th.hnote = false → exec (.haltComplete t) s = .next u) ∧
      (∀ r, th.hnote = true → faultReceiver t = some r →
        exec (.haltComplete t) s =
          .next (u.notice (.thread t) (u.faultQueue (coreOf r).toNat)
            (mkItem true 15 2 (BitVec.ofNat 22 t.toNat) ((a.extractLsb' 2 16).setWidth 32)))))

/-- R24, R25: the receiver of a thread's fault is its core's master, of a master its hearth's supervisor, of a supervisor
the block supervisor, and of thread 0 nobody. R45, R128, R129, R561: once the older far accesses are done a faulting
thread is FAULTED with the code, its sleep and everything younger dropped, and its notice and its fault events follow;
a held notice that its queue can take is pushed (R130). -/
def Obligations.ThreadFaultsAndNotices : Prop :=
  (∀ t : Tid,
    (t.toNat % 16 ≠ 0 → faultReceiver t = some (BitVec.ofNat 9 (t.toNat / 16 * 16))) ∧
    (t.toNat % 16 = 0 → t.toNat % 64 ≠ 0 → faultReceiver t = some (BitVec.ofNat 9 (64 * (t.toNat / 64)))) ∧
    (t.toNat % 64 = 0 → t ≠ 0 → faultReceiver t = some 0) ∧ faultReceiver 0 = none) ∧
  (∀ s : State,
    (∀ (t : Tid) (f : PendFault) (pc : Word), (s.thr t).pendFault = some f → f.pc = some pc →
      (∀ e ∈ (s.thr t).far, f.seq ≤ e.seq) →
      exec (.threadFault t) s =
        .next ((((s.noteEvent F.thrFault_VALID 1 t.toNat).dropSleep t).setThr t
          { ((s.noteEvent F.thrFault_VALID 1 t.toNat).dropSleep t).thr t with
              st := .faulted, pc := pc, faultCode := f.code, faultValid := true, pendFault := none, halting := none,
              far := [], slot := none, slotSlept := false, fence := none, sleep := .awake, runAhead := [] }).faultNotice t f.code f.npc)) ∧
    (∀ (h : Holder) (n : HeldNotice) (u : State), s.heldNotice h = some n → (s.quad (quadrantOf n.q)).lost = false →
      (s.wakeQuad n.q).tryNotice n.q n.item n.wait = some u →
      exec (.noticeHeldPush h) s = .next ((u.leavePlace n).setHeldNotice h none)))

/-- R124, R132, R133, R135: the setup registers of a settled thread as its master writes them (the boot unit's records
apart), THR.CFG at any time, a reassignment of the role with its epoch and purge, and ROLEBUSY, which clears 1,024
cycles after it and not before the purge has ended. -/
def Obligations.ThreadSetup : Prop :=
  ∀ (s : State) (w : Writer) (t : Tid) (v : Word),
    let th := s.thr t
    let named := s.setThr t { th with service := v.extractLsb' 16 16, epoch := th.epoch + 1 }
    let roled := named.purgeRole t (s.cycle + 1)
    (overCore w (coreOf t) = true → s.takes (coreDomain (coreOf t)) → w ≠ .boot →
      (th.st ∈ [.unreleased, .stopped, .halted, .faulted] →
        exec (.thrStateWrite w t .pc v) s =
          .next (s.access w fun _ => s.setThr t { th with pc := v &&& 0xFFFFFFFC, slot := none, slotSlept := false,
                                                          path := none }) ∧
        exec (.thrStateWrite w t .a v) s = .next (s.access w fun _ => s.setThr t { th with a := v }) ∧
        exec (.thrStateWrite w t .x v) s = .next (s.access w fun _ => s.setThr t { th with x := v }) ∧
        exec (.thrStateWrite w t .y v) s = .next (s.access w fun _ => s.setThr t { th with y := v }) ∧
        exec (.thrStateWrite w t .tp v) s = .next (s.access w fun _ => s.setThr t { th with tp := v &&& 0x3F000 }) ∧
        (th.roleBusy = none → exec (.thrStateWrite w t .role v) s = .next (s.access w fun _ => roled) ∧
          exec (.roleReassign w t v) s = .next (s.access w fun _ => roled)) ∧
        (th.roleBusy ≠ none →
          exec (.roleReassign w t v) s = .next (s.access w fun _ => (s.noteEvent F.thrStat_ROLEREJ 1 t.toNat).setThr t { th with roleRej := true }))) ∧
      (th.st ∉ [.unreleased, .stopped, .halted, .faulted] → ∀ r,
        exec (.thrStateWrite w t r v) s = .next (s.access w fun _ => (s.noteEvent F.thrStat_WIGN 1 t.toNat).setThr t { th with wign := true })) ∧
      exec (.thrCfgWrite w t v) s =
        .next (s.access w fun _ => s.setThr t { th with hnote := v.getLsbD 9, prio := v.extractLsb' 0 4,
                                                        clsNext := some (v.getLsbD 8) })) ∧
    (roled.thr t).roleBusy = some (max (named.purgeEnds t (s.cycle + 1)) (s.cycle + 1 + 1024)) ∧
    (∀ e, th.roleBusy = some e →
      (e ≤ s.cycle → exec (.rolebusyClear t) s = .next (s.setThr t { th with roleBusy := none })) ∧
      (s.cycle < e → exec (.rolebusyClear t) s = .next s))

/-- R138 to R147, R157, R158: the woken WAITEV of highest effective priority completes with Z = 1 and status OK; a chain
that ends at a running owner raises it; raises whose waiter no longer reaches their thread are dropped; a force
release of a word that its owner holds clears the word, revokes the owner and reports DONE (0); it stays BUSY while
the word's bank makes its access wait, and reports 1 when the bank refuses it. -/
def Obligations.Tongs : Prop :=
  ∀ s : State,
    (∀ w, s.nextWoken = some w → (s.dom (coreDomain (coreOf w.t))).st = .on → (s.thr w.t).st = .sleepLock →
      exec .watchWake s =
        .next (({ s with watches := s.watches.erase w }).setThr w.t
          ({ s.thr w.t with st := .running, sleep := .awake, lst := 0, f := putFlag (s.thr w.t).f flagZ true }).retire)) ∧
    (∀ (t : Tid) (w : Watch), s.watches.find? (fun x => x.t == t && x.chain) = some w →
      let f := fun (x : Watch) => if x = w then { x with chain := false } else x
      let u := { s with watches := s.watches.map f }
      (w.woken = true → exec (.inheritanceChain t) s = .next u) ∧
      (w.woken = false → exec (.inheritanceChain t) s = .next (u.walk t (s.thr t).effective w.addr w.addr 4)) ∧
      (w.woken = false → (memWord s.mem w.addr).getLsbD 22 = false → exec (.inheritanceChain t) s = .next u)) ∧
    (∃ u, exec .priorityRecompute s = .next u ∧
      u = { s with threads := smMap {} s.threads fun k th =>
        { th with raises := th.raises.filter fun r => match s.watchOf r.1 with
          | none => false
          | some w => (s.links w.addr 4).contains (BitVec.ofNat 9 k) } }) ∧
    (∀ (w : Writer) (c : CoreId) (owner : Tid),
      let a := s.fld F.lckFaddr_ADDR c.toNat * 4
      let u := (s.setFld F.lckFstat_BUSY 1 c.toNat).setCore c { s.core c with release := some (owner, a) }
      let ends := fun (x : State) (r : Nat) =>
        let y := (x.setFld F.lckFstat_RESULT r c.toNat).setFld F.lckFstat_BUSY 0 c.toNat
        y.setCore c { y.core c with release := none }
      ownSet w c = true → s.takes (coreDomain c) → overCore w (coreOf owner) = true → (s.core c).release = none →
      (0x01000000 ≤ a → a < 0x01800000 → (s.dom (coreDomain (BitVec.ofNat 5 ((a - 0x01000000) / 0x40000)))).st = .on →
        (memWord s.mem a).getLsbD 22 = true → (memWord s.mem a).extractLsb' 23 9 = owner →
        (s.thr owner).revoked.length < 4 →
        exec (.forceRelease w c owner) s =
          .next (s.access w fun _ => ends ((u.performWrite a 0xF 0).setThr owner
            { u.thr owner with revoked := (u.thr owner).revoked ++ [a] }) 0)) ∧
      (∀ b, bankOf? a = some b → 0x02000000 ≤ a → a < 0x02800000 →
        (u.bankAskWrite b (masterCore c) (.release c) false = .wait →
          exec (.forceRelease w c owner) s = .next (s.access w fun _ => u.bankWaits b (masterCore c) (.release c))) ∧
        (u.bankAskWrite b (masterCore c) (.release c) false = .refuse →
          exec (.forceRelease w c owner) s =
            .next (s.access w fun _ => ends (u.bankRefuses b (masterCore c) (.release c)) 1))))

/-! ## Shared banks -/

/-- R166, R168, R170, R173, R175, R178: how a shared bank answers a master after the seal: a SECURE bank under tamper or
wipe answers 0, a retained or waking one makes it wait, during a handover the new owner waits and everybody else is
refused, and otherwise the owner is served and everybody else refused; an access (`ask`) behind one that arrived
before it waits, and one that had left the old owner is performed during the handover; a grant counts the grants of
others since the master's last one in the cycle as its conflict cycles (log entry 64). R167, R168, R169: a handover
accepted from a writer with authority over the bank is pending with its new owner, what waits at the bank from the old
owner is marked and its buffered entries are closed; once none of those is on its way, the owner changes (and no entry
counts as late any more, `lateOver`), or the wipe starts first; a wipe that has run clears the bank and then completes
the handover or is reported; after each the accesses that wait at the bank have their turns (`serve`: nothing waits,
nothing happens). -/
def Obligations.BankAnswersHandoverAndWipe : Prop :=
  (∀ (s : State) (b : BankId) (m : Master), s.boot.seald = true →
    let x := s.bank b
    let shut := s.secure b && (s.soc.tamper || x.wiping.isSome)
    (shut = true → s.bankCheck b m = .zero) ∧
    (shut = false → x.ret ∈ [.retained, .waking] → s.bankCheck b m = .wait) ∧
    (shut = false → x.ret ∈ [.active, .entering] →
      (∀ h, x.ho = some h → s.bankCheck b m = if m = h.newOwner then .wait else .refuse) ∧
      (x.ho = none → s.bankCheck b m = if m = s.ownerOf b then .ok else .refuse)) ∧
    ∀ r : BankReq,
      let ask := fun left => s.bankAsk b m r left
      (shut = true → ∀ left, ask left = .zero) ∧
      (shut = false → x.ret ∈ [.retained, .waking] → ∀ left, ask left = .wait) ∧
      (shut = false → x.ret ∈ [.active, .entering] →
        (x.ho = none → ∀ left, ask left =
          if m = s.ownerOf b then (if s.aheadOf b r = [] then .ok else .wait) else .refuse) ∧
        (∀ h, x.ho = some h → s.aheadOf b r = [] →
          ask true = .ok ∧
          (x.markedOld r = true → ask false = .ok) ∧
          (x.markedOld r = false → ask false = if m = h.newOwner then .wait else .refuse))) ∧
      let y := (s.touchBank b).bank b
      let u := (s.touchBank b).setBank b
        { y with grants := m :: y.grants, waiting := y.waiting.filter fun a => a.req != r && s.reqLive a }
      let n := (y.grants.takeWhile fun g => g != m).length
      (n = 0 → s.bankGrant b m r = u) ∧
      (0 < n → s.bankGrant b m r = u.satAdd F.memConf_CYCLES n b.toNat m.toNat)) ∧
  (∀ (s : State) (b : BankId),
    let x := s.bank b
    let n := b.toNat
    let o := s.ownerOf b
    let serve := fun (u : State) => u.serveWaiting b
    (∀ u : State, (u.bank b).waiting = [] → serve u = u) ∧
    (∀ (w : Writer) (new : Master), s.overBank w b = true → x.ho = none → badOwner new.toNat = false →
      s.secure b = false → new ≠ x.owner → o.toNat < 32 →
      let u := s.setBank b
        { x with ho := some ⟨new, false, s.cycle⟩,
                       waiting := x.waiting.map fun (a : BankWait) => if a.m = o then { a with old := true } else a }
      let c := BitVec.ofNat 5 x.owner.toNat
      exec (.handover w b false new) s =
        .next (s.access w fun _ => u.setCore c { s.core c with
          sbuf := (s.core c).sbuf.map fun (e : SbEntry) => if bankOf? e.addr = some b then { e with closed := true } else e })) ∧
    (∀ h, x.ho = some h → s.oldEntries b = 0 → x.wiping = none → h.at_ < s.cycle → s.faults.banks.contains b = false →
      (h.wipe = false → exec (.handoverComplete b) s =
        .next (serve ((s.lateOver b).setBank b
          { x with owner := h.newOwner, ho := none, wiping := none,
                       waiting := x.waiting.map fun a => { a with old := false } }))) ∧
      (h.wipe = true → exec (.handoverComplete b) s =
        .next (serve (s.setBank b { x with wiping := some s.cycle, cause := .handover })))) ∧
    (∀ c0, x.wiping = some c0 → x.ret = .active → c0 + 8192 ≤ s.cycle →
      let u := ({ s with mem := smDropRange s.mem (bankBase b) (bankBase b + 0x80000) }).raise F.memWipe_DONE n
      (x.ho = none → exec (.wipeComplete b) s = .next (serve ((u.setBank b { x with wiping := none }).detect 11 n))) ∧
      (∀ h, x.ho = some h → h.wipe = true → s.faults.banks.contains b = false →
        exec (.wipeComplete b) s = .next (serve ((u.lateOver b).setBank b
          { x with owner := h.newOwner, ho := none, wiping := none,
                       waiting := x.waiting.map fun a => { a with old := false } })))))

/-- R170, R172, R173, R174, R175, R540: a tamper edge and a change of the life-cycle state start the wipe of every SECURE
bank; retention is entered 256 idle cycles after the last access, reached 64 cycles on, left by an access with a wake
that is counted, and ACTIVE again 12 us later. -/
def Obligations.BankRetentionAndTamper : Prop :=
  ∀ s : State,
    let secured := fun (u : State) (why : WipeCause) =>
      ((List.range 16).map fun i => BitVec.ofNat 4 i).foldl (fun u b => if u.secure b then u.startWipe b why else u) u
    (s.soc.tamper = false → exec .tamper s = .next (secured { s with soc := { s.soc with tamper := true } } .tamper)) ∧
    exec .tamperDeassert s = .next { s with soc := { s.soc with tamper := false } } ∧
    (∀ lc, s.soc.lc ≠ lc →
      exec (.lifecycleChange lc) s = .next (secured { s with soc := { s.soc with lc := lc } } .lifecycle)) ∧
    ∀ b : BankId,
      let x := s.bank b
      let n := b.toNat
      (s.bit F.memRet_REQ n = true → x.ret = .active → x.lastAccess + 256 ≤ s.cycle → s.bankBusy b = false →
        exec (.bankRetentionEntry b) s = .next (s.setBank b { x with ret := .entering, retAt := s.cycle })) ∧
      (x.ret = .entering → x.retAt + 64 ≤ s.cycle →
        exec (.bankRetained b) s = .next (s.setBank b { x with ret := .retained })) ∧
      (x.ret = .retained → exec (.bankWake b) s =
        .next ((s.setBank b { x with ret := .waking, retAt := s.ns, lastAccess := s.cycle }).satAdd F.memRet_WAKES 1 n)) ∧
      (x.ret = .entering → exec (.bankWake b) s = .next (s.setBank b { x with ret := .active, lastAccess := s.cycle })) ∧
      (x.ret = .waking → x.retAt + 12000 ≤ s.ns → x.wiping = none →
        exec (.bankWakeComplete b) s =
          .next ((s.setBank b { x with ret := .active, lastAccess := s.cycle, wiping := none }).serveWaiting b)) ∧
      (∀ (w : Writer) (v : Word), s.overBank w b = true →
        (v.getLsbD 0 = true ∨ x.ret ≠ .retained →
          exec (.memRetWrite w b v) s = .next (s.access w fun _ => s.setFld F.memRet_REQ (v.getLsbD 0).toNat n)) ∧
        (v.getLsbD 0 = false → x.ret = .retained →
          exec (.memRetWrite w b v) s = .next (s.access w fun _ =>
            (s.setFld F.memRet_REQ 0 n).setBank b { x with ret := .waking, retAt := s.ns })))

/-! ## Queues -/

/-- R203, R213, R217, R219, R400, R559: the decision of a push, step by step in the rule's order. R200, R204, R212: an
item holds its flags, PRIO, KIND, SENDER and payload in their places, and a word-mode read delivers an item of the
highest PRIO that stood in the queue at the start of the cycle, the one written first among those. -/
def Obligations.PushAndReadOrder : Prop :=
  (∀ (s : State) (q : Qid) (item : BitVec 64) (o : BitVec 12) (role : Word),
    let n := q.toNat
    let ans := s.decidePush q item o role
    let roleFails := s.bit F.qeQcfg_ROLECHK n = true ∧ s.roleOk q role = false
    let held := ∃ d, s.holdDomain q = some d ∧ (s.dom d).st ≠ .on ∧ s.isWakeItem d item = false ∧
      s.fld F.pwrHold_LIMIT d ≤ s.heldCount d
    (s.queueUp q = false → ans = .disabled) ∧
    (s.queueUp q = true → roleFails → ans = .stale) ∧
    (s.queueUp q = true → ¬ roleFails → held → ans = .powerDown) ∧
    (s.queueUp q = true → ¬ roleFails → ¬ held → s.fld F.qeQcfg_DEPTH n ≤ (s.queue q).depth → ans = .full) ∧
    (s.queueUp q = true → ¬ roleFails → ¬ held → (s.queue q).depth < s.fld F.qeQcfg_DEPTH n →
      (s.pool o (quadrantOf q) = .over → ans = .over) ∧ (s.pool o (quadrantOf q) = .poolFull → ans = .poolFull) ∧
      (∀ a, a ∈ [.floor, .shared, .claim] → s.pool o (quadrantOf q) = a → ans = .accept a))) ∧
  ((∀ (e : Bool) (p k : BitVec 4) (sd : BitVec 22) (v : Word),
    let i := mkItem e p k sd v
    i.getLsbD 63 = true ∧ itemEnd i = e ∧ itemPrio i = p ∧ itemKind i = k ∧ itemSender i = sd ∧ itemPayload i = v) ∧
  (∀ (ws : List QWord), ws ≠ [] →
    ∃ before w after, bestWord ws = some w ∧ ws = before ++ w :: after ∧
      (∀ x ∈ before, itemPrio x.item < itemPrio w.item) ∧ (∀ x ∈ after, itemPrio x.item ≤ itemPrio w.item)) ∧
  (∀ (s : State) (q : Qid) (r : Reader) (w : QWord), s.packetMode q = false → s.standbyRefuses q = false →
    (s.qcycOf q).closed = false → bestWord ((s.queue q).words.filter fun x => decide (x.cand ≤ s.cycSeq)) = some w →
    s.popItem q r = (some (w.item, w),
      ((s.touchQueue q).setQueue q { s.queue q with words := (s.queue q).words.erase w }).afterPop q w)))

/-- R207, R208, R214, R216, R391, R560: a wake notice wakes its sleeping reader, a served depth waiter and the waiter of a
claimed slot may try again, and of the words held at a quadrant's push port, each requester's oldest that an assembly
entry can take, the one the port's rotation chooses enters. R203, R209 to R212, R217, R218, R225, R560: writes of a
queue's configuration, which empty a queue they disable and serve everyone who waits for its room (log entry 66), of
an owner's quota and the flush of a queue by a writer with authority, which removes what was stored before its cycle
(R212) and tells the standby of what stays. -/
def Obligations.QueueWaitersAndConfiguration : Prop :=
  (∀ s : State,
    (∀ (q : Qid) (t : Tid) (rest : List Tid), (s.queue q).notices = t :: rest → (s.dom (hearthOf t).toNat).st = .on →
      (s.thr t).sleep = .read q → (s.thr t).st = .sleepQueue →
      exec (.wakeNotice q) s =
        .next ((s.setQueue q { s.queue q with notices := rest }).setThr t { s.thr t with st := .running, sleep := .awake })) ∧
    (∀ (q : Qid) (w : Waiter) (rest : List Waiter), (s.queue q).served = w :: rest → w.owner.toNat < 0x200 →
      (s.dom (hearthOf (BitVec.ofNat 9 w.owner.toNat)).toNat).st = .on →
      (s.thr (BitVec.ofNat 9 w.owner.toNat)).st = .sleepQueue →
      exec (.depthWaiterServe q) s =
        .next ((s.setQueue q { s.queue q with served := rest }).setThr (BitVec.ofNat 9 w.owner.toNat)
          { s.thr (BitVec.ofNat 9 w.owner.toNat) with st := .running, sleep := .awake })) ∧
    (∀ (k : Quadrant) (w : Waiter), (s.quad k).claims.find? s.claimWaits = some w → w.owner.toNat < 0x200 →
      (s.dom (hearthOf (BitVec.ofNat 9 w.owner.toNat)).toNat).st = .on →
      (s.thr (BitVec.ofNat 9 w.owner.toNat)).st = .sleepQueue →
      exec (.slotClaimRetry k) s =
        .next (s.setThr (BitVec.ofNat 9 w.owner.toNat)
          { s.thr (BitVec.ofNat 9 w.owner.toNat) with st := .running, sleep := .awake })) ∧
    (∀ (k : Quadrant) (h : HeldPush) (a : Arbiter) (u : State), (s.dom (16 + k.toNat)).st = .on →
      (s.quad k).arb.choose (fun h => requesterOf h.owner) (s.readyHeld k) = (some h, a) →
      (s.setQuad k { s.quad k with held := (s.quad k).held.erase h, arb := a }).pushItem h.q h.item h.owner h.role = (.ok, u) →
      0x400 ≤ h.owner.toNat → exec (.assemblyHoldRelease k) s = .next (u.retryHolders k)) ∧
    (∀ (k : Quadrant) (h : HeldPush), h ∈ s.readyHeld k →
      h ∈ (s.quad k).held ∧ (s.needsAssembly h.q h.item = true → s.assemblyUsed k < 256))) ∧
  (∀ (s : State) (w : Writer) (v : Word),
    (∀ q : Qid, s.overQueue w q = true → qcfgOk v = true →
      let u := s.store w .qeQcfg v q.toNat
      exec (.qcfgWrite w q v) s = .next (s.access w fun _ =>
        if s.queueUp q = true ∧ u.queueUp q = false then
          (u.emptyQueue q).serveDepth q ((u.emptyQueue q).queue q).depthWaiters.length
        else u)) ∧
    (∀ o : BitVec 12, overOwner w o = true → w ≠ .boot →
      let u := (s.store w .qeOwnlim v o.toNat).setOwner o { s.owner o with limited := true }
      exec (.quotaWrite w o v) s = .next (s.access w fun _ =>
        if u.isOver o && !s.isOver o then (u.sleepOver o).overNotice o else u.wakeOver o)) ∧
    (∀ q : Qid, s.overQueue w q = true → (s.bit F.qeQcfg_MIRRORED q.toNat = true → s.mirrorRoom = true) →
      (∀ x ∈ s.regWaits, x.d ≠ mirrorPlace) →
      let x := (s.noteFlush q).queue q
      let words := (match x.opened with | none => [] | some p => p.words) ++ x.words ++ (x.packets.map fun p => p.words).flatten
      let gone := words.filter fun y => decide (y.cand ≤ s.cycSeq)
      let u := gone.foldl (fun u y => u.freeSlot (quadrantOf q) y)
        ((s.noteFlush q).setQueue q { x with words := x.words.filter fun y => decide (s.cycSeq < y.cand),
                                             packets := x.packets.filterMap fun p => p.since s.cycSeq, opened := none })
      let y := (u.serveDepth q gone.length).mirrorQueue 2 q 0 0
      exec (.queueFlush w q) s = .next (s.access w fun _ =>
        (y.queue q).allWords.foldl (fun u i => u.mirrorQueue 0 q i.owner i.item) y)))

/-- R222, R223, R226, R227: the doorbell of a queue: a whole push by the host becomes an item of the host page's owner and
sender; one that is refused, not 64 bits wide or not allowed is counted; CIDX goes to the bound ring; STATUS is
answered and clears its drop count. R223, R224, R236: a ring enabled by the block supervisor starts with PIDX at CIDX
and PHASE 1; the mover takes up to 16 items as far as the ring has room and sends one descriptor for each; a full ring
is marked; the response of the last descriptor writes the producer index and raises the vector, and an error stops the
mover with WERR. -/
def Obligations.DoorbellsAndRings : Prop :=
  (∀ (s : State) (q : Qid) (data : BitVec 64),
    let page := q.toNat / 16
    let counted := (s.setQueue q { s.queue q with drops := min 255 ((s.queue q).drops + 1) }).hostReply
    let item := fun (last : Bool) =>
      mkItem last (data.extractLsb' 58 4) (data.extractLsb' 54 4) (BitVec.ofNat 22 (2 ^ 19 + page)) (data.extractLsb' 0 32)
    let whole := fun (last : Bool) =>
      let r := s.pushOrSlag q (item last) (BitVec.ofNat 12 (0x400 + page)) 0
      if r.1 ∈ [.ok, .held, .later] then r.2
      else r.2.setQueue q { r.2.queue q with drops := min 255 ((r.2.queue q).drops + 1) }
    (s.bit F.qeQcfg_HOSTPUSH q.toNat = true →
      exec (.doorbellPush q true data) s = .next (whole false).hostReply ∧
      exec (.doorbellPushe q true data) s = .next (whole true).hostReply) ∧
    (s.bit F.qeQcfg_HOSTPUSH q.toNat = false →
      exec (.doorbellPush q true data) s = .next counted ∧ exec (.doorbellPushe q true data) s = .next counted) ∧
    exec (.doorbellPush q false data) s = .next counted ∧ exec (.doorbellPushe q false data) s = .next counted ∧
    (∀ (v : Word) (r : Nat), v.toNat < 2 ^ 16 → s.ringOfQueue q = some r →
      let u := s.setFld F.ringIdx_CIDX v.toNat r
      exec (.doorbellCidx q v) s =
        .next (if u.ringUsed r < u.ringSize r then u.setFld F.ringStat_FULL 0 r else u).hostReply) ∧
    exec (.doorbellStatusRead q) s =
      .next ({ s.setQueue q { s.queue q with drops := 0 } with answer := (s.doorbellStatus q).setWidth 64 }).hostReply) ∧
  (∀ (s : State) (r : BitVec 10),
    let n := r.toNat
    let x := s.ring r
    let q := BitVec.ofNat 14 (s.fld F.ringCfg_QID n)
    (s.bit F.ringCfg_EN n = true → x.stopped = false → x.batch = [] → x.leaving = [] → s.fld F.qeQcfg_RKIND q.toNat = 4 →
      (s.dom (16 + (quadrantOf q).toNat)).st = .on →
      (s.ringSize n ≤ s.ringUsed n → exec (.hostMoverBatch r) s = .next (s.setFld F.ringStat_FULL 1 n)) ∧
      (∀ items, s.ringUsed n < s.ringSize n → items = s.peekItems q (min 16 (s.ringSize n - s.ringUsed n)) → items ≠ [] →
        exec (.hostMoverBatch r) s =
          .next ((((List.range items.length).zip items).map fun ji => s.descriptorOf r q ji.1 ji.2.1).foldl
            (fun u d => u.smRequest d) (s.setRing r { x with batch := items.map fun i => i.2, answered := 0 })))) ∧
    (∀ (d : SmReq) (a : Nat) (bytes : List Word) (w : QWord), s.ringReq r = some d → d = .descriptor r a bytes →
      let u := { s with soc := { s.soc with reqs := s.soc.reqs.erase d } }
      x.batch[x.answered]? = some w →
      (x.answered + 1 < x.batch.length →
        exec (.hostMoverResponse r false) s =
          .next ((u.raise F.ringStat_WERR n).setRing r { x with answered := x.answered + 1, stopped := true })) ∧
      (let q := BitVec.ofNat 14 (s.fld F.ringCfg_QID n)
      let v := u.removeWord q w
      x.leaving = [] → (s.bit F.qeQcfg_MIRRORED q.toNat = true → u.mirrorRoom = true) → (v.ring r).batch.length = x.answered + 1 → x.stopped = false →
        exec (.hostMoverResponse r true) s =
          .next ((v.setRing r { v.ring r with answered := x.answered + 1, stopped := false }).batchDone r))) ∧
    (x.batch ≠ [] →
      let old := s.fld F.ringIdx_PIDX n
      let flips := (old % s.ringSize n + x.batch.length) / s.ringSize n
      let u := (s.setFld F.ringIdx_PIDX ((old + x.batch.length) % 65536) n).setRing r
        { x with batch := [], answered := 0, phase := x.phase != (flips % 2 == 1) }
      let v := u.smRequest (.ringIndex r (u.ringBase n + u.ringSize n * 16) (BitVec.ofNat 16 ((old + x.batch.length) % 65536)))
      s.batchDone r = v.vector (v.fld F.ringCfg_VEC n)) ∧
    (∀ (w : Writer) (v : Word), isBlock w = true → w ≠ .boot → 4 ≤ F.ringCfg_LOG2SIZE.get v → F.ringCfg_EN.get v = 1 →
      s.bit F.ringCfg_EN n = false →
      let u := (s.store w .ringCfg v n).setRing r { x with stopped := false }
      exec (.ringEnable w r v) s =
        .next (s.access w fun _ => ((u.setFld F.ringIdx_PIDX (u.fld F.ringIdx_CIDX n) n).setFld F.ringStat_FULL 0 n).setRing r
          { x with stopped := false, phase := true })))

/-! ## Pin engines -/

/-- R240, R244, R271, R274: a channel slot-table word, its commit, the table as it stands at a position 0 at least 2
cycles on and its copy, where a later write keeps DIRTY and a later commit PEND; START, STOP, SAFE and UNLATCH of a
controller; a program word; fencing a port and clearing the fence. -/
def Obligations.ChannelControl : Prop :=
  ∀ (s : State) (w : Writer) (e : EngineId) (ch : Chan) (v : Word),
    let n := e.toNat
    let x := s.chan ch
    (overEngine w e = true → w ≠ .boot →
      (∀ wi : BitVec 2, peSlotsOk v = true → exec (.cstWrite w e wi v) s =
        .next (s.access w fun _ =>
          ((s.setReg .peCst v n wi.toNat).setEngine e { s.engine e with wrote := true }).setFld F.peEctl_DIRTY 1 n)) ∧
      ((s.engine e).commitAt = none → exec (.ectlCommit w e) s =
        .next (s.access w fun _ => (s.setEngine e { s.engine e with commitAt := some s.cycle }).setFld F.peEctl_PEND 1 n)) ∧
      exec (.pmdataWrite w e v) s = .next (s.access w fun _ =>
        ({ s with pmem := smSet 0 s.pmem (1024 * n + s.fld F.pePmaddr_ADDR n) v }).setFld F.pePmaddr_ADDR
          ((s.fld F.pePmaddr_ADDR n + 1) % 1024) n)) ∧
    (∀ g, (s.engine e).commitAt = some g → (g + 2 + 15) / 16 * 16 ≤ s.cycle →
      s.snapSlots e = s.setEngine e
        { commitAt := none, snap := some ([0, 1, 2, 3].map fun i => s.reg .peCst n i), wrote := false }) ∧
    (∀ ws, (s.engine e).snap = some ws → exec (.channelTableCopy e) s =
      .next (((([0, 1, 2, 3].foldl (fun u i => u.setReg .peCsa (ws.getD i 0) n i) s).setEngine e
        { s.engine e with snap := none }).setFld F.peEctl_PEND (s.engine e).commitAt.isSome.toNat n).setFld
        F.peEctl_DIRTY (s.engine e).wrote.toNat n)) ∧
    (s.controls w ch = true →
      (x.st ∈ [.off, .halted, .safe] → s.runBarred = false → exec (.start w ch) s = .next (s.access w fun _ =>
        (s.engineBack ch).setChan ch { x with st := .run, d := [], z := false, c := false, qtag := 0, trig := false,
                                              prog := Prog.initial ch,
                                              pc := BitVec.ofNat 10 (s.chFld F.peCcfg_ENTRY ch), bu := { x.bu with tx := [], rx := [] } })) ∧
      (x.st ∈ [.run, .wait, .stallPull, .stallPush] → x.pushHold ≠ [] → exec (.stop w ch) s = .next (s.access w fun _ =>
        (s.setChan ch { x with st := .off, bu := { x.bu with nextAt := none, hsArm := 0 } }).setChFld F.peBitcfg_EN 0 ch)) ∧
      (x.st ∈ [.run, .wait, .stallPull, .stallPush] → x.pushHold = [] → exec (.stop w ch) s = .next (s.access w fun _ =>
        ((s.setChan ch { x with st := .off, bu := { x.bu with nextAt := none, hsArm := 0 } }).setChFld F.peBitcfg_EN 0 ch).dropWaiter
          (ownerChannel ch))) ∧
      (x.st ≠ .latched → exec (.safe w ch) s = .next (s.access w fun _ => s.enterSafe ch .safe)) ∧
      (isBlock w = true → x.st = .latched → exec (.unlatch w ch) s =
        .next (s.access w fun _ => s.setChan ch { x with st := .safe }))) ∧
    (∀ p : Port, overHearth w (groupOf p) = true →
      (let u := (s.setFld F.peFence_FENCED 1 p.toNat).setFld F.peFence_CAUSE 2 p.toNat
      s.binder p = none → exec (.portFenceSet w p) s = .next (s.access w fun _ => u.safePort p (u.cycle + 1))) ∧
      exec (.portFenceClear w p) s = .next (s.access w fun _ => s.setFld F.peFence_FENCED 0 p.toNat)) ∧
    (s.orphaned ch = true → s.chFld F.peCcfg_ORPHAN ch = 0 → x.staged = [] → x.st ∉ [.safe, .latched] →
      exec (.safeWhenDry ch) s = .next ((s.enterSafe ch .safe).report ch 0 3))

/-- R245 to R248: the moves, sums, logic, shifts and comparisons of a channel that executes: the register, the flags, the
next PC; nothing else changes. -/
def Obligations.PinArithmetic : Prop :=
  ∀ (s : State) (ch : Chan) (dd ds : BitVec 3) (useImm : Bool) (imm : BitVec 16) (b : Word),
    let x := s.chan ch
    let a := x.reg dd
    let k := b.toNat
    let sets := fun (v : Word) (z c : Bool) => s.afterPin ch { x.setReg dd v with z := z, c := c }
    let withC := fun (v : Word) (c : Bool) => sets v (v == 0) c
    s.pinRuns ch →
      (∀ (v : Word) (d : BitVec 3), (x.setReg dd v).reg d = if d = dd then v else x.reg d) ∧
      exec (.movi ch dd imm) s = .next (sets (imm.setWidth 32) x.z x.c) ∧
      exec (.movh ch dd imm) s = .next (sets (imm ++ a.extractLsb' 0 16) x.z x.c) ∧
      exec (.mov ch dd ds) s = .next (sets (x.reg ds) x.z x.c) ∧
      (s.pinOperandIs ch ds useImm imm true b →
        exec (.peAdd ch dd ds useImm imm) s = .next (withC (a + b) (decide (2 ^ 32 ≤ a.toNat + k))) ∧
        exec (.peSub ch dd ds useImm imm) s = .next (withC (a - b) (decide (k ≤ a.toNat))) ∧
        exec (.peCmp ch dd ds useImm imm) s = .next (sets a (a == b) (decide (k ≤ a.toNat)))) ∧
      (s.pinOperandIs ch ds useImm imm false b →
        exec (.peAnd ch dd ds useImm imm) s = .next (withC (a &&& b) x.c) ∧
        exec (.peOr ch dd ds useImm imm) s = .next (withC (a ||| b) x.c) ∧
        exec (.peXor ch dd ds useImm imm) s = .next (withC (a ^^^ b) x.c) ∧
        exec (.peShl ch dd ds useImm imm) s = .next (withC (a <<< k) (decide (1 ≤ k ∧ k ≤ 32) && a.getLsbD (32 - k))) ∧
        exec (.peShr ch dd ds useImm imm) s = .next (withC (a >>> k) (decide (1 ≤ k ∧ k ≤ 32) && a.getLsbD (k - 1))))

/-- R246, R248, R249, R251, R273: branches by their conditions, DJNZ, WRAP in force for its own next PC, EVT, RDC, TAG,
WAITT, HALT, and the faults of a word that is illegal, of an unbound lane and of running past 0x3FF. -/
def Obligations.PinControlFlow : Prop :=
  ∀ (s : State) (ch : Chan) (dd : BitVec 3) (target : BitVec 10),
    let x := s.chan ch
    let branch := fun (u : State) (b : Bool) =>
      if b = true then u.setChan ch { u.chan ch with st := .run, pc := target } else u.afterPin ch (u.chan ch)
    s.chExecutes ch = true →
      (s.pinRuns ch →
        (exec (.br ch 0 0 target) s = .next (branch s true) ∧ exec (.br ch 1 0 target) s = .next (branch s x.z) ∧
          exec (.br ch 2 0 target) s = .next (branch s (!x.z)) ∧ exec (.br ch 3 0 target) s = .next (branch s x.c) ∧
          exec (.br ch 4 0 target) s = .next (branch s (!x.c)) ∧
          exec (.br ch 8 0 target) s = .next (branch s (x.bu.stuffErr || x.bu.underrun || x.bu.overrun)) ∧
          exec (.br ch 9 0 target) s = .next (branch s x.bu.tx.isEmpty)) ∧
        (∀ p : Port, dd.toNat < 4 → s.laneOf ch dd.toNat = some p →
          exec (.br ch 5 dd target) s = .next (branch s (s.delivered p)) ∧
          exec (.br ch 6 dd target) s = .next (branch s (!s.delivered p)) ∧
          exec (.br ch 7 dd target) s = .next (branch (s.setPort p { s.port p with diff := false }) (s.port p).diff)) ∧
        exec (.djnz ch dd target) s = .next (branch (s.setChan ch (x.setReg dd (x.reg dd - 1))) (x.reg dd - 1 != 0)) ∧
        exec (.evt ch) s = .next ((s.pulse (0x600 + ch.toNat)).afterPin ch ((s.pulse (0x600 + ch.toNat)).chan ch)) ∧
        exec (.rdc ch dd) s = .next (s.afterPin ch (x.setReg dd (BitVec.ofNat 32 s.cycle))) ∧
        exec (.tag ch dd) s = .next (s.afterPin ch (x.setReg dd x.qtag)) ∧
        (reached (2 ^ 32 - 1 + s.cycle) (x.reg dd) = true → exec (.waitt ch dd) s = .next (s.afterPin ch x)) ∧
        (reached (2 ^ 32 - 1 + s.cycle) (x.reg dd) = false → exec (.waitt ch dd) s = .next (s.setChan ch { x with st := .wait }))) ∧
      (let u := (s.setChFld F.peWrap_WRAPB (bitsOf (x.reg dd) 0 10) ch).setChFld F.peWrap_WRAPT target.toNat ch
      u.pinRuns ch → exec (.wrap ch dd target) s = .next (u.afterPin ch x)) ∧
      (let u := s.setChan ch { x with st := .halted }
      exec (.peHalt ch) s = .next (if s.chBit F.peCcfg_HNOTE ch then u.report ch 0 2 else u)) ∧
      (∀ w : Word, pinWordOk w = false → exec (.peIllegal ch w) s =
        .next (((((s.enterSafe ch .safe).setChFld F.peCerr_CODE 0x20 ch).report ch 0x20 1)).detect 7 ch.toNat)) ∧
      (∀ f : BitVec 4, 10 ≤ f.toNat → exec (.br ch f dd target) s = .next (s.chFault ch 0x20)) ∧
      (∀ lane : BitVec 2, s.laneOf ch lane.toNat = none → exec (.sample ch dd lane) s = .next (s.chFault ch 0x21)) ∧
      (x.pc = 0x3FF → s.chFld F.peWrap_WRAPT ch ≠ 0x3FF →
        exec (.rdc ch dd) s =
          .next ((s.setChan ch (x.setReg dd (BitVec.ofNat 32 s.cycle))).chFault ch 0x24))

/-- R248, R250, R254 to R259: the instructions of a channel that executes, on a lane it binds: drives now and timed, a
pending drive in its cycle, samples, waits for an edge, timestamps, the CRC registers and the stuff count; what an
unfenced port does with the level it is given, counted as a collision while a guard of rank 1 stands over a driven
level. -/
def Obligations.PinLaneInstructions : Prop :=
  ∀ (s : State) (ch : Chan) (dd ds : BitVec 3) (lane : BitVec 2) (p : Port),
    let x := s.chan ch
    let y := s.port p
    let l := lane.toNat
    let timed := smGet none x.timed l
    let after := fun (u : State) => u.afterPin ch (u.chan ch)
    (s.pinRuns ch → s.laneOf ch l = some p →
      (∀ imm : BitVec 2, s.chFld F.peCcfg_VOTE ch = 0 →
        let now := fun (out oe : Bool) =>
          let u := (s.setChan ch { x with timed := smSet none x.timed l none }).writeLane ch l 6 out oe (s.cycle + 1)
          u.chNext ch
        exec (.drive ch 0 0 (lane.setWidth 4) imm) s = .next (now (imm.getLsbD 0) (imm.getLsbD 1)) ∧
        exec (.drive ch 0 ds (lane.setWidth 4 + 4) 0) s = .next (now ((x.reg ds).getLsbD 0) true) ∧
        (∀ (f : BitVec 4) (src : BitVec 3) (im : BitVec 2) (out oe : Bool),
          ((f = lane.setWidth 4 + 8 ∧ src = 0 ∧ out = im.getLsbD 0 ∧ oe = im.getLsbD 1) ∨
            (f = lane.setWidth 4 + 12 ∧ im = 0 ∧ out = (x.reg src).getLsbD 0 ∧ oe = true)) →
          (timed.isSome = true → exec (.drive ch dd src f im) s = .next (s.setChan ch { x with st := .wait })) ∧
          (timed = none → reached s.cycle (x.reg dd) = false → exec (.drive ch dd src f im) s =
            .next (s.afterPin ch { x with timed := smSet none x.timed l (some ⟨x.reg dd, out, oe⟩) })) ∧
          (timed = none → reached s.cycle (x.reg dd) = true → exec (.drive ch dd src f im) s =
            .next (((s.writeLane ch l 4 out oe (s.cycle + 1)).chSatAdd F.peCerr_LATE 1 ch).chNext ch)))) ∧
      (∀ imm : BitVec 2, s.chFld F.peCcfg_VOTE ch = 1 →
        exec (.drive ch 0 0 (lane.setWidth 4) imm) s = .next ((s.chSatAdd F.peCerr_DISC 1 ch).chNext ch)) ∧
      exec (.sample ch dd lane) s = .next (s.afterPin ch
        { x.setReg dd (x.reg dd * 2 + if s.delivered p then 1 else 0) with z := !s.delivered p }) ∧
      (y.ts ≠ [] → exec (.waite ch lane false 0) s = .next (s.afterPin ch { x with z := false })) ∧
      (y.ts = [] → exec (.waite ch lane false 0) s = .next (s.setChan ch { x with st := .wait })) ∧
      (y.ts = [] → reached (2 ^ 32 - 1 + s.cycle) (x.reg ds) = true →
        exec (.waite ch lane true ds) s = .next (s.afterPin ch { x with z := true })) ∧
      (∀ lowWord pop, y.ts = [] → exec (.tstamp ch dd lane lowWord pop) s = .next (s.afterPin ch { x.setReg dd 0 with z := true })) ∧
      (∀ lowWord e rest, y.ts = e :: rest →
        let stamped := { x.setReg dd (if lowWord then e.tb.extractLsb' 0 32 else e.tb.extractLsb' 16 32) with
                         z := false, c := e.rising }
        exec (.tstamp ch dd lane lowWord false) s = .next (s.afterPin ch stamped) ∧
        exec (.tstamp ch dd lane lowWord true) s = .next ((s.setPort p { y with ts := rest }).afterPin ch stamped)) ∧
      exec (.rdca ch dd lane) s = .next (s.afterPin ch (x.setReg dd y.crcA)) ∧
      exec (.rdcb ch dd lane) s = .next (s.afterPin ch (x.setReg dd y.crcB)) ∧
      exec (.stcnt ch dd lane) s = .next (s.afterPin ch (x.setReg dd (y.stuffCnt.setWidth 32))) ∧
      exec (.crci ch lane) s = .next (after (s.setPort p { y with
        crcA := crcInit (s.fld F.peCrccfg_WIDTHA p.toNat) (s.reg .peCrcia p.toNat)
        crcB := crcInit (s.fld F.peCrccfg_WIDTHB p.toNat) (s.reg .peCrcib p.toNat), stuffCnt := 0 })) ∧
      exec (.tsclr ch lane) s = .next (after (s.setPort p { y with ts := [] })) ∧
      (∀ mode n, exec (.stmode ch lane mode n) s =
        .next (s.afterPin ch { x with bu := { x.bu with stNext := x.bu.stNext ++ [(lane, mode, n)] } }))) ∧
    (∀ td, s.groupUp ch = true → timed = some td → reached s.cycle td.at_ = true → exec (.timedDriveDue ch lane) s =
      .next ((s.setChan ch { x with timed := smSet none x.timed l none }).writeLane ch l 4 td.out td.oe s.cycle)) ∧
    (∀ rank out oe c, s.laneOf ch l = some p → s.fld F.peFence_FENCED p.toNat = 0 → x.st ∉ [.safe, .latched] →
      s.chFld F.peCcfg_VOTE ch = 0 → y.lastAt < c + 1 →
      let t := s.portWrite p rank out oe c
      s.writeLane ch l rank out oe c = (if y.guard && oe then t.chSatAdd F.peCerr_COLL 1 ch else t) ∧
      (t.port p).out = out ∧ (t.port p).oe = oe ∧ (∀ q, q ≠ p → t.port q = s.port q) ∧ t.channels = s.channels ∧
        t.regs = s.regs)

/-- R250, R252, R262 to R264: pulls, pushes and the bit unit's instructions of a channel that executes. -/
def Obligations.PinQueuesAndBitUnit : Prop :=
  ∀ (s : State) (ch : Chan) (dd : BitVec 3) (k : Bool) (q : Qid) (n : BitVec 6),
    let x := s.chan ch
    let b := x.bu
    s.pinRuns ch →
      (s.sourceOf ch k = some q → (s.dom (16 + (quadrantOf q).toNat)).st = .on →
        (∀ i w u, s.popItem q (.channel ch) = (some (i, w), u) →
          let got := { (u.chan ch).setReg dd (itemPayload i) with qtag := itemTag i }
          exec (.pull ch dd k) s = .next ((u.setChan ch got).chNext ch) ∧
          exec (.tpull ch dd k) s = .next ((u.setChan ch { got with z := false }).chNext ch)) ∧
        (∀ u, s.popItem q (.channel ch) = (none, u) →
          exec (.pull ch dd k) s = .next (u.setChan ch { u.chan ch with st := .stallPull }) ∧
          exec (.tpull ch dd k) s = .next ((u.setChan ch { u.chan ch with z := true }).chNext ch))) ∧
      (s.sourceOf ch k = none → exec (.pull ch dd k) s = .next (s.chFault ch 0x22) ∧
        exec (.tpull ch dd k) s = .next (s.chFault ch 0x22)) ∧
      (s.sinkOf ch k = some q → (∀ h ∈ (s.quad (quadrantOf q)).held, h.owner ≠ BitVec.ofNat 12 (0x200 + ch.toNat)) →
        ∀ (fin : Bool) (prio kind : BitVec 4),
          let item := mkItem fin prio kind (BitVec.ofNat 22 (2 ^ 18 + ch.toNat)) (x.reg dd)
          let r := s.push q item (BitVec.ofNat 12 (0x200 + ch.toNat)) 0
          (r.1 ∈ [.ok, .slagged] → exec (.push ch dd k fin prio kind) s = .next ((r.2.chNext ch).chPushDone ch)) ∧
          (r.1 = .disabled → exec (.push ch dd k fin prio kind) s =
            .next (((r.2.slagLocal slagPoolFull q item).chNext ch).chPushDone ch)) ∧
          (r.1 ∈ [.full, .poolFull, .over, .held, .later] → exec (.push ch dd k fin prio kind) s =
            .next ((r.2.waitFor q (BitVec.ofNat 12 (0x200 + ch.toNat)) r.1).chWait ch .stallPush))) ∧
      (1 ≤ n.toNat → n.toNat ≤ 32 →
        (s.chFld F.peBitcfg_TXEN ch = 1 →
          (b.tx.length < 2 → exec (.shtx ch dd n) s = .next (s.afterPin ch
            { x with bu := { b with tx := b.tx ++ [sendBits (x.reg dd) n.toNat (s.chBit F.peBitcfg_LSBF ch)] } })) ∧
          (2 ≤ b.tx.length → exec (.shtx ch dd n) s = .next (s.setChan ch { x with st := .wait }))) ∧
        (s.chFld F.peBitcfg_RXEN ch = 1 →
          (n.toNat ≤ b.rx.length → exec (.shrx ch dd n) s = .next (s.afterPin ch
            { x.setReg dd (gatherBits (b.rx.take n.toNat) (s.chBit F.peBitcfg_LSBF ch)) with
              bu := { b with rx := b.rx.drop n.toNat } })) ∧
          (b.rx.length < n.toNat → exec (.shrx ch dd n) s = .next (s.setChan ch { x with st := .wait }))) ∧
        (s.chFld F.peBitcfg_TXEN ch = 0 → exec (.shtx ch dd n) s = .next (s.chFault ch 0x23)) ∧
        (s.chFld F.peBitcfg_RXEN ch = 0 → exec (.shrx ch dd n) s = .next (s.chFault ch 0x23))) ∧
      exec (.bset ch k) s = .next (s.afterPin ch { x with bu := { b with setNext := some k } }) ∧
      (∀ kind : BitVec 2, exec (.hsync ch kind) s = .next (s.afterPin ch { x with bu := { b with hsArm := kind, hsKind := kind } })) ∧
      exec (.ben ch k) s = .next ((s.bitEnable ch k).chNext ch) ∧
      exec (.bstat ch dd) s = .next (s.afterPin ch
        { x.setReg dd ((0 : BitVec 16) ++ b.resync ++ (0 : BitVec 4) ++ BitVec.ofBool b.synced ++ BitVec.ofBool b.overrun ++
            BitVec.ofBool b.underrun ++ BitVec.ofBool b.stuffErr) with
          bu := { b with stuffErr := false, underrun := false, overrun := false, synced := false, resync := 0 } })

/-- R257 to R269: an edge with its timestamp and event source, a readback mismatch run, a staged action in its cycle, an
unpaired VOTE action whose window has passed, and the bit unit at its boundary and at its sample point, in a group
whose domain is up; in one that is not, an edge only changes the pin (R401). -/
def Obligations.PinEvents : Prop :=
  ∀ (s : State) (ch : Chan) (p : Port),
    let x := s.chan ch
    let y := s.port p
    let n := p.toNat
    let b := x.bu
    (∀ level, y.inp = level → exec (.portEdge p level) s = .next s) ∧
    (∀ level, y.inp ≠ level → s.binder p = none →
      let e := s.fld F.peTscfg_EDGES n
      let u := s.setPort p { y with inp := level, hist := recordPin y.hist ⟨s.cycle, (s.resolved p).1, (s.resolved p).2, level⟩ }
      let ended := fun (v : State) => v.pulse (if level then n else 0x200 + n)
      let inc := (s.reg .tbT0inc).setWidth 80
      let wanted := e = 3 ∨ (e = 1 ∧ level = false) ∨ (e = 2 ∧ level = true)
      (s.groupUp p = false → exec (.portEdge p level) s = .next u) ∧
      (s.groupUp p = true → ¬ wanted → exec (.portEdge p level) s = .next (ended u)) ∧
      (s.groupUp p = true → wanted → y.ts.length < 4 → exec (.portEdge p level) s = .next (ended
        (u.setPort p { u.port p with ts := y.ts ++ [⟨level, (s.tbSum - inc - inc).extractLsb' 16 48⟩] }))) ∧
      (s.groupUp p = true → wanted → 4 ≤ y.ts.length →
        exec (.portEdge p level) s = .next (ended (u.raise F.peTscfg_OVF n)))) ∧
    (s.groupUp p = true → s.fld F.peRbk_MODE n ≠ 0 → 0 < s.fld F.peRbk_FILT n → s.fld F.peRbk_FILT n ≤ y.rbRun → y.rbFired = false →
      exec (.readbackMismatch p) s = .next ((s.setPort p { y with rbFired := true }).detect 3 n)) ∧
    (s.groupUp ch = true → s.chFld F.peCcfg_VOTE ch = 1 →
      (∀ a, x.staged = [a] → a.pair = 0 → a.ending = false → a.act.kind = 0 ∨ a.act.kind = 1 →
        a.deadline + s.chFld F.peVote_WINDOW ch < s.cycle →
        exec (.voteWindowExpiry ch) s = .next ((s.setChan ch { x with staged := [] }).detect 4 ch.toNat))) ∧
    (∀ a, s.groupUp ch = true → x.staged = [a] → x.pushHold = [] → a.act.ch = ch → a.act.kind = 0 → a.act.trig = false → a.ending = false → a.pair = 0 →
      s.chFld F.peCcfg_VOTE ch = 0 → a.deadline ≤ s.cycle →
      let v := (s.setChan ch { x with staged := [] }).writeLane ch a.act.lane.toNat 3 a.act.out a.act.oe s.cycle
      ∃ t, exec (.stagedActionDue ch) s = .next t ∧ (t.chan ch).staged = [] ∧ t.ports = v.ports ∧ t.regs = v.regs) ∧
    (s.groupUp ch = true → s.chFld F.peBitcfg_EN ch = 1 →
      (∀ m, b.nextAt = some m → m ≤ s.cycle → b.stNext = [] → b.setNext = none →
        let per := (s.bitTiming ch).1
        let k := b.bits + 1
        let b1 := { b with bitStart := m, bits := k, nextAt := some (m + (k * per / 256 - (k - 1) * per / 256))
                           sampled := false, hadSync := b.syncNow, syncNow := false }
        let u := s.setChan ch { x with bu := b1 }
        (s.chFld F.peBitcfg_TXEN ch = 0 → exec (.bitBoundary ch) s = .next u) ∧
        (s.chFld F.peBitcfg_TXEN ch = 1 → s.laneOf ch (s.chFld F.peBitcfg_TXL ch) = some p → s.fld F.peStuff_MODE n = 0 →
          (b.tx = [] → exec (.bitBoundary ch) s = .next (s.setChan ch { x with bu := { b1 with underrun := true } })) ∧
          (∀ bit w r, b.tx = (bit :: w) :: r → exec (.bitBoundary ch) s =
            .next ((s.setChan ch { x with bu := { b1 with tx := if w.isEmpty then r else w :: r } }).sendLine ch p bit false)))) ∧
      (b.nextAt.isSome = true → b.sampled = false → b.bitStart + (s.bitTiming ch).2 ≤ s.cycle →
        (s.chFld F.peBitcfg_RXEN ch = 0 →
          exec (.bitSamplePoint ch) s = .next (s.setChan ch { x with bu := { b with sampled := true } })) ∧
        (s.chFld F.peBitcfg_RXEN ch = 1 → s.laneOf ch (s.chFld F.peBitcfg_RXL ch) = some p → s.fld F.peStuff_MODE n = 0 →
          let bit := s.delivered p
          let b1 := { b with sampled := true, rxRun := runAfter 0 b.rxRun b.rxLast bit false, rxLast := bit }
          exec (.bitSamplePoint ch) s = .next ((s.setChan ch { x with bu :=
            if 64 ≤ b.rx.length then { b1 with overrun := true } else { b1 with rx := b.rx ++ [bit] } }).crcFeed p bit))))

/-! ## Bus programs -/

/-- R281, R283, R284, R289, R290: a program that runs takes the control item of its source 1 at a frame boundary: with no
frame in progress, or for CAN and T1S, but for OFFLINE, between the attempts of one (ABORT_TX is about that frame
itself). It applies it when it is a command the program accepts, and reports FORMAT otherwise: its state, its lines
and transceiver level, the go-to-sleep frame and wake pulse of LIN, its counters, the frame given up, the recovery
begun; a change of state is reported with one item. Bus-off ends after 128 times 11 recessive bits. Which commands a
program accepts and that levels are options are the model's choices (log entry 20), the go-to-sleep frame is ISO
17987's (log entry 71). R166, R173 to R177, R298 to R300: a session opened by a running thread, in the table that word
0 of its page names, as the thread's core sees it with its own buffered stores. Its accesses ask the table's bank,
which lets them in, holds them back, answers zero or refuses; a key in the table is found; otherwise it takes the
first free entry within 8 probes of its home slot, whose words are written while the thread owns word 0, which is
freed at the end; with none free, or one locked by another thread, nothing is written. A table within one bank, and
the retry of a session whose entry is locked or awaits stores, are the model's (log entries 61 and 75). -/
def Obligations.BusControlAndSessions : Prop :=
  (∀ (s : State) (ch : Chan) (q : Qid) (i : BitVec 64 × QWord) (u : State),
    let p := u.prog ch
    let g := programOf ch
    let can := g = .canfd ∨ g = .canxl
    let sending := can ∨ g = .lin ∨ g = .t1s ∨ g = .mdio ∨ g = .spi ∨ g = .tws ∨ g = .uart
    let k := (itemKind i.1).toNat
    let prio := (builtWith ch 0).extractLsb' 0 4
    let bad := u.status ch 3 0x11
    let boundary := (s.prog ch).frame = [] ∨ k = 7 ∨ ((can ∨ g = .t1s) ∧ k ≠ 2)
    let enters := fun (v : State) (n : BitVec 4) =>
      let r := v.prog ch
      if r.state = n then v
      else (v.setProg ch { r with state := n, idleFor := 0, busFree := 0 }).status ch 4
        (BitVec.ofNat 32 (2 ^ 13 * r.rec_.toNat + r.tec.toNat * 2 ^ 4 + n.toNat))
    let standby := fun (v : State) (normal : Bool) =>
      let w := v.setProg ch { v.prog ch with stb := normal }
      if can ∨ g = .lin then w.writeLane ch 2 6 (optFlag ch 0 != normal) true (w.cycle + 1) else w
    (∀ (v : State) (kind : BitVec 4) (w : Word),
      (∀ sq, v.sinkOf ch true = some sq →
        v.status ch kind w = v.holderPush ch sq (mkItem true prio kind (BitVec.ofNat 22 (2 ^ 18 + ch.toNat)) w)) ∧
      (v.sinkOf ch true = none → v.status ch kind w = v.chFault ch 0x22)) ∧
    (s.chExecutes ch = true → s.sourceOf ch true = some q → s.popItem q (.channel ch) = (some i, u) →
      (¬ boundary → exec (.online ch) s = .next s ∧ exec (.offline ch) s = .next s ∧ exec (.listen ch) s = .next s ∧
        exec (.sleep ch) s = .next s ∧ exec (.wake ch) s = .next s ∧ exec (.readCounters ch) s = .next s) ∧
      (boundary →
        (k = 1 → exec (.online ch) s = .next (enters u (if ¬ can then 1 else if p.state ∈ [1, 2, 3, 6] then p.state
          else if 255 < p.tec.toNat then 3 else if p.state = 4 then p.errState else 6))) ∧
        (k = 2 → exec (.offline ch) s = .next (enters (u.rest ch [0, 1, 2, 3]) 0)) ∧
        (k = 3 → exec (.listen ch) s = .next (enters u 4)) ∧
        (k = 4 → exec (.sleep ch) s = .next (enters (standby (if g = .lin ∧ optFlag ch 1 = true then
          let bits := linHeaderBits ch 0x3C ++
            ([0x00, 0xFF, 0xFF, 0xFF, 0xFF, 0xFF, 0xFF, 0xFF, 0x00] : List Byte).flatMap linByte
          let v := u.sendBits ch 0 bits (optBit ch)
          (v.setProg ch { v.prog ch with frame := [] }).status ch 1 (u.tbAgo (bits.length * optBit ch / 256)) else u) false) 5)) ∧
        (k = 5 → exec (.wake ch) s = .next (if can ∨ g = .lin then
          standby (if g = .lin then u.activePulse ch 0 false (optWake ch) else u) true else bad)) ∧
        (k = 6 → exec (.readCounters ch) s = .next ((u.setProg ch { p with errs := 0 }).status ch 6
          (BitVec.ofNat 32 (2 ^ 22 * p.errs.toNat + 2 ^ 13 * p.rec_.toNat + p.tec.toNat * 2 ^ 4 + p.state.toNat)))) ∧
        (k = 7 → p.frame = [] → exec (.abortTx ch) s = .next (if sending then u else bad)) ∧
        (k = 7 → p.frame ≠ [] → exec (.abortTx ch) s = .next (if sending then
          (u.setProg ch { p with frame := [], tries := 0, lastErr := 0 }).status ch 2
            (BitVec.ofNat 32 (256 * (p.tries % 256) + p.lastErr.toNat)) else bad)) ∧
        (k = 8 → exec (.recover ch) s = .next (if can then
          (if p.state = 3 then u.setProg ch { p with recovering := true, idleFor := 0, busFree := 0 } else u) else bad)) ∧
        (k = 0 ∨ 8 < k → exec (.online ch) s = .next bad))) ∧
    (s.chExecutes ch = true → (s.prog ch).state = 3 → ((s.prog ch).recovering = true ∨ (builtWith ch 3).getLsbD 0 = true) →
      128 ≤ (s.prog ch).busFree →
      exec (.busOffRecovery ch) s =
        .next (enters (s.setProg ch { s.prog ch with tec := 0, rec_ := 0, recovering := false }) 1))) ∧
  (∀ (s : State) (t : Tid) (key addr reply dest deadline : Word) (b : BankId),
    let c := coreOf t
    let m := masterCore c
    let page := coreMemBase c + (s.thr t).tp.toNat % 0x40000
    let base := s.loadWord c page
    let home := (bitsOf addr 0 12 + bitsOf addr 12 12 + bitsOf addr 24 5 + 8 * bitsOf key 23 9) % 4096
    let probes := (List.range 8).map fun i => base.toNat + (home + i) % 4096 * 32
    let held := (key &&& 0xFFF00000) ||| 0x00080000
    let found := probes.find? fun a => s.loadWord c (a + 4) == held && s.loadWord c (a + 8) == addr
    let free := probes.find? fun a => !(s.loadWord c (a + 4)).getLsbD 19
    let bad := probes.find? fun a => s.badWord a
    let opens := exec (.partnerSessionOpen t key addr reply dest deadline) s
    (s.thr t).st = .running →
    (s.badWord page = true → opens = .next ((s.wordMet page).threadFault t 0x08)) ∧
    (s.badWord page = false → base.toNat % 0x20000 = 0 → bankOf? base.toNat = some b →
      let u := s.bankGrant b m (.table t)
      (s.bankAsk b m (.table t) false = .wait → opens = .next (s.touchBank b)) ∧
      (s.bankAsk b m (.table t) false = .refuse → opens = .next ((s.bankRefuses b m (.table t)).threadFault t 0x07)) ∧
      (s.bankAsk b m (.table t) false = .zero → opens = .next u) ∧
      (s.bankAsk b m (.table t) false = .ok →
        (∀ a, bad = some a → opens = .next ((u.wordMet a).threadFault t 0x08)) ∧
        (bad = none →
          (∀ a, found = some a → opens = .next u) ∧
          (found = none → free = none → opens = .next (u.reportLost (key.extractLsb' 23 9) 1)) ∧
          (∀ a, found = none → free = some a →
            let word0 := s.loadWord c a
            let w := fun (v : State) (i : Nat) (x : Word) => v.writeMirrored (a + i) 0xF x
            (word0.getLsbD 22 = true → word0.extractLsb' 23 9 ≠ t → opens = .next u) ∧
            (s.entryBuffered c a = true → opens = .next u) ∧
            ((word0.getLsbD 22 = false ∨ word0.extractLsb' 23 9 = t) → s.entryBuffered c a = false →
              (s.mirrorRefuses b = true → opens = .next ((s.bankRefuses b m (.table t)).threadFault t 0x07)) ∧
              (s.mirrorRefuses b = false → (s.mirroredAt a = true → s.mirrorRoom = true) →
                exec (.partnerSessionOpen t key addr reply dest deadline) s = .next
                  (w (w (w (w (w (w (w (w (w u 0 (t ++ (1 : BitVec 1) ++ (0 : BitVec 22))) 4 held) 8 addr) 12 reply) 16 0)
                    20 dest) 24 deadline) 28 0) 0 0))))))))

/-- R281 to R283, R285 to R290: CAN and LIN frames of a program that takes part in its bus. A CAN frame sent goes over the
lines as `canWire` has it, and is acknowledged and done, or flagged, reported, counted and given up after its last
attempt; a frame received passes the bit unit phase by phase with each phase's stuffing assist, and is delivered, cut
short, reported, or a protocol exception after which the program integrates again. The LIN commander sends break,
header and its own response; the responder reports the headers it accepts, answers in time or reports RESP_LATE, and
takes others' responses. How many bits an error flag has and how counts change are ISO 11898-1's (log entry 35), a
wrong parity as FORM, and bus-off as the end of a frame in progress, the model's choices (log entries 61 and 75). -/
def Obligations.CanAndLinFrames : Prop :=
  ∀ (s : State) (ch : Chan),
    let p := s.prog ch
    let g := programOf ch
    let rxErr := fun (v : State) (lane code : Nat) => v.status ch 3 (BitVec.ofNat 32 (256 * lane + code))
    let failing := fun (v : State) (tries err : Nat) =>
      (v.setProg ch { v.prog ch with frame := [], tries := 0, lastErr := 0 }).status ch 2
        (BitVec.ofNat 32 (256 * (tries % 256) + err))
    let quiet := fun (fmt : Nat) => fmt = 4 ∧ (optFlag ch 10 = true ∨ optFlag ch 2 = true)
    let again := fun (v : State) =>
      if (v.prog ch).state ∈ [1, 2] then v.enterState ch 6
      else v.setProg ch { v.prog ch with waitIdle := true, idleFor := 0 }
    let answered := fun (v : State) (id n : Nat) (r : LinResponse) =>
      let d := (v.reportLost ch 0).dataPacket ch (if linValid ch id n r then 0 else 1)
        (BitVec.ofNat 32 (256 * n + id) :: Machine.wordsOf (r.data.take 8))
      if linValid ch id n r then d else rxErr d 1 0x04
    let sent := fun (v : State) (bits : List Bool) (err : Byte) =>
      let w := v.sendBits ch 0 bits (optBit ch)
      if err = 0 then (w.setProg ch { w.prog ch with frame := [] }).status ch 1 (v.tbAgo (bits.length * optBit ch / 256))
      else failing w 1 err.toNat
    (∀ (f : CanFrame) time, f.fmt.toNat ≤ 4 → canFrameOk (canFrameWords f time) = true) ∧
    (∀ (x : CanPhase) (port : Port), s.laneOf ch (s.chFld F.peBitcfg_TXL ch) = some port ∨
        s.laneOf ch (s.chFld F.peBitcfg_RXL ch) = some port →
      (s.canStuff ch x).fld F.peStuff_MODE port.toNat = (match x with | .arbitration => 1 | .fdCrc => 2 | .xlData => 2) ∧
      (s.canStuff ch x).fld F.peStuff_N port.toNat = (match x with | .arbitration => 5 | .fdCrc => 4 | .xlData => 10)) ∧
    ((s.chan ch).pushHold = [] → s.reportLost ch 1 = (s.setProg ch { p with lost := 0 }).status ch 5
      (BitVec.ofNat 32 (min (p.lost.toNat + 1) 65535))) ∧
    (s.chExecutes ch = true → p.state ∈ [1, 2] → p.frame = [] → ∀ ws u, s.takePacket ch false = (ws, u) →
      (ws = [] → ∀ r e, exec (.canTxFrame ch ⟨r, e⟩) s = .next u) ∧
      (ws ≠ [] → ∀ e : CanEcho,
        let fits : Bool := canFrameOk ws && (decide (g = .canxl) || bitsOf (ws.getD 0 0) 29 3 != 4)
        let v := (u.setProg ch { u.prog ch with frame := ws }).canWire ch ws e
        (∀ back,
          let a := v.acknowledge ch
          exec (.canTxFrame ch ⟨.done back, e⟩) s = .next (if fits then
          (a.errUpdate ch { a.prog ch with frame := [], tries := 0, lastErr := 0
                                           tec := (a.prog ch).tec - if (a.prog ch).tec = 0 then 0 else 1 }).status ch 1
            (a.tbAgo back) else rxErr u 0 0x11)) ∧
        (∀ err : Byte,
          let a := rxErr (if quiet (bitsOf ((v.prog ch).frame.headD 0) 29 3) then v else v.errorFlag ch) 1 err.toNat
          let r := a.prog ch
          let b := a.errUpdate ch { r with
            tries := r.tries + 1, lastErr := err, tec := cap9 (r.tec.toNat + if r.state = 2 ∧ err = 0x05 then 0 else 8)
            errs := cap10 (r.errs.toNat + 1) }
          let o := b.prog ch
          exec (.canTxFrame ch ⟨.failed [err], e⟩) s = .next (if fits then
            (if o.state = 3 ∨ (optRetries ch < 16 ∧ optRetries ch < o.tries) then failing b o.tries o.lastErr.toNat
             else b) else rxErr u 0 0x11)))) ∧
    (s.chExecutes ch = true → p.state ∈ [1, 2, 4] → p.waitIdle = false →
      (∀ f : CanFrame,
        let n := f.fmt.toNat
        let phases := if n ≤ 1 then [CanPhase.arbitration] else
          if n ≤ 3 then [.arbitration, .fdCrc, .arbitration] else [.arbitration, .xlData, .arbitration]
        let v := (s.startCrc ch).canPass ch phases f.line
        let strange := n = 4 ∧ g ≠ .canxl
        let pex := again (rxErr v 1 0x0C)
        let wrong := fun (err : Byte) (dominant : Bool) =>
          if quiet n then
            let b := rxErr v 1 err.toNat
            again (b.setProg ch { b.prog ch with errs := cap10 ((b.prog ch).errs.toNat + 1) })
          else
            let b := rxErr (v.errorFlag ch) 1 err.toNat
            b.errUpdate ch { b.prog ch with
              rec_ := cap9 ((b.prog ch).rec_.toNat + if dominant then 8 else 1), errs := cap10 ((b.prog ch).errs.toNat + 1) }
        (n ≤ 4 →
          let a := (v.acknowledge ch).reportLost ch 0
          let d := a.dataPacket ch 0 (canFrameWords f (v.tbAgo f.back))
          let c := (d.prog ch).rec_
          exec (.canRxFrame ch f .complete) s = .next (if strange then pex else
            d.errUpdate ch { d.prog ch with rec_ := if c = 0 then 0 else if 127 < c.toNat then 127 else c - 1 })) ∧
        (4 < n → exec (.canRxFrame ch f .complete) s = .next (wrong 0x03 false)) ∧
        (∀ k, let b := (v.dataPacket ch 1 ((canFrameWords f (s.tbAgo f.back)).take k)).reportLost ch 1
          exec (.canRxFrame ch f (.cut k)) s = .next (if strange then pex else
            b.setProg ch { b.prog ch with waitIdle := decide (g = .canfd ∨ g = .canxl ∨ g = .uart), idleFor := 0 })) ∧
        (∀ (err : Byte) dominant, exec (.canRxFrame ch f (.error err dominant)) s =
          .next (if strange then pex else if err = 0x0C then pex else wrong err dominant))) ∧
      exec (.linResponseTimeout ch) s = .next (rxErr (s.setProg ch { p with frame := [] }) 1 0x07) ∧
      (∀ (pid : Byte) (x : LinHeard),
        let id := pid.toNat % 64
        let h := (s.rest ch [0]).status ch 7 (pid.setWidth 32)
        let others := fun (v : State) => match x.resp with | some r => answered v id r.data.length r | none => v
        (optFlag ch 1 = true ∨ x.brk < 11 → exec (.linHeaderRx ch pid x) s = .next s) ∧
        (optFlag ch 1 = false → 11 ≤ x.brk →
          (100 * x.bitTime < 86 * optBit ch ∨ 114 * optBit ch < 100 * x.bitTime →
            exec (.linHeaderRx ch pid x) s = .next (rxErr s 1 0x08)) ∧
          (86 * optBit ch ≤ 100 * x.bitTime → 100 * x.bitTime ≤ 114 * optBit ch →
            (pid ≠ linPid (pid.extractLsb' 0 6) → exec (.linHeaderRx ch pid x) s = .next (rxErr s 1 0x03)) ∧
            (pid = linPid (pid.extractLsb' 0 6) → ∀ ws u, h.takePacket ch false = (ws, u) →
              (ws = [] ∨ bitsOf (ws.headD 0) 0 6 ≠ id ∨ x.inTime = false ∨ (h.prog ch).state ∉ [1, 2] →
                exec (.linHeaderRx ch pid x) s = .next (others (rxErr h 1 0x10))) ∧
              (∀ w0 r, ws = w0 :: r → bitsOf w0 0 6 = id → x.inTime = true → (h.prog ch).state ∈ [1, 2] →
                exec (.linHeaderRx ch pid x) s = .next (others (
                  if linFrameOk ws = true ∧ r ≠ [] then sent u (linResponseBits ch id (linData ws)) x.err
                  else rxErr u 0 0x11)))))))) ∧
    (s.chExecutes ch = true → p.state ∈ [1, 2] →
      (optFlag ch 1 = false → ∀ resp err, exec (.linFrameStart ⟨ch, resp, err⟩) s = .next s) ∧
      (optFlag ch 1 = true → ∀ ws u, (s.rest ch [0]).takePacket ch false = (ws, u) →
        (ws = [] → ∀ resp err, exec (.linFrameStart ⟨ch, resp, err⟩) s = .next u) ∧
        (ws ≠ [] → linFrameOk ws = false → ∀ resp err, exec (.linFrameStart ⟨ch, resp, err⟩) s = .next (rxErr u 0 0x11)) ∧
        (linFrameOk ws = true →
          let id := bitsOf (ws.getD 0 0) 0 6
          let v := u.sendBits ch 0 (linHeaderBits ch id) (optBit ch)
          (1 < ws.length → ∀ resp err, exec (.linFrameStart ⟨ch, resp, err⟩) s =
            .next (sent u (linHeaderBits ch id ++ linResponseBits ch id (linData ws)) err)) ∧
          (ws.length = 1 →
            exec (.linFrameStart ⟨ch, none, 0⟩) s = .next (v.setProg ch { v.prog ch with frame := ws }) ∧
            (∀ err, err ≠ 0 → exec (.linFrameStart ⟨ch, none, err⟩) s = .next (rxErr v 1 err.toNat)) ∧
            (∀ r err, exec (.linFrameStart ⟨ch, some r, err⟩) s =
              .next (answered (if err = 0 then v else rxErr v 1 err.toNat) id (bitsOf (ws.getD 0 0) 8 4) r))))))

/-- R281 to R283, R291 to R297, R308: the sensor, network and serial programs: SENT messages decoded from their pulses,
PSI5 frames and slots, 10BASE-T1S frames on the grid of their clock, transfers with what they send and read,
characters, and captures. The layouts that the spec does not give are the model's (log entries 20 and 61), so is the
FCS counted in the length (log entry 75), and checksums are their standards' (log entry 71). -/
def Obligations.ProgramFrames : Prop :=
  ∀ (s : State) (ch : Chan),
    let p := s.prog ch
    let rxErr := fun (v : State) (lane code : Nat) => v.status ch 3 (BitVec.ofNat 32 (256 * lane + code))
    let failing := fun (v : State) (tries err : Nat) =>
      (v.setProg ch { v.prog ch with frame := [], tries := 0, lastErr := 0 }).status ch 2
        (BitVec.ofNat 32 (256 * (tries % 256) + err))
    let capture := fun (v : State) (type : BitVec 4) (w : Word) => (v.dataWord ch false 0 (v.tbAgo 2)).dataWord ch true type w
    (∀ t n : Nat, 0 < t → n < 16 → sentNibble (56 * t) ((12 + n) * t) = some (BitVec.ofNat 4 n)) ∧
    (s.chExecutes ch = true → p.state ∈ [1, 2, 4] → p.waitIdle = false →
      (∀ (lane : BitVec 2) back cal pulses,
        let l := lane.toNat
        let w := s.takeStamps ch l
        let seen := { w.prog ch with cal := smSet 0 (w.prog ch).cal l cal }
        let slow := smGet [] (w.prog ch).slow l
        let drop := fun (e : Nat) => rxErr (w.setProg ch { seen with slow := smSet [] (w.prog ch).slow l [] }) l e
        (∀ port, w.laneOf ch l = some port → w.fld F.peTscfg_OVF port.toNat = 1 →
          exec (.sentMessage ch lane back cal pulses) s = .next (drop 0x0A)) ∧
        ((∀ port, w.laneOf ch l = some port → w.fld F.peTscfg_OVF port.toNat = 0) →
          exec (.sentMessage ch lane back cal pulses) s = .next (
            match sentDecode ch lane (smGet 0 (w.prog ch).cal l) cal pulses with
            | .error e => drop e
            | .ok x =>
              let bits := slow ++ [x.1.extractLsb' 2 2]
              (w.setProg ch { seen with slow := smSet [] (w.prog ch).slow l (bits.drop (bits.length - 18)) }).dataPacket ch 1
                [w.tbAgo back, (0 : BitVec 2) ++ lane ++ x.1 ++ sentData x.2])) ∧
        (∀ id data, exec (.sentSlowMessage ch lane id data) s = .next (
          match (if optEnhanced ch lane then enhancedMessage (smGet [] p.slow l)
              else shortMessage ch lane (smGet [] p.slow l)) with
          | none => s
          | some m =>
            let v := s.setProg ch { p with slow := smSet [] p.slow l [] }
            if m.id ≠ id ∨ m.data ≠ data then s
            else if m.good then v.dataPacket ch 2 [(0 : BitVec 2) ++ lane ++ m.id ++ (0 : BitVec 4) ++ m.data] else rxErr v l 0x04))) ∧
      (∀ (slot : BitVec 2) start bits,
        let v := s.setProg ch { p with slots := p.slots ||| ((1 : BitVec 4) <<< slot.toNat) }
        let n := optWidth ch
        exec (.psi5Frame ch slot ⟨start, bits⟩) s = .next (
          if optFlag ch 6 = false ∧ (start < optSlotFrom ch slot ∨ optSlotTo ch slot < start) then rxErr s 0 0x08
          else match bits.mapM id with
            | none => rxErr v 0 0x09
            | some bs =>
              if bs.length ≤ n then rxErr v 0 0x09
              else if psi5Check ch (bs.take n) (bs.drop n) = false then rxErr v 0 0x04
              else v.dataPacket ch (if optFlag ch 6 then 0 else slot.setWidth 4)
                [BitVec.ofNat 32 (spell (bs.take n).reverse)]) ∧
        exec (.psi5SlotEnd ch slot) s = .next (if p.slots.getLsbD slot.toNat then
          s.setProg ch { p with slots := p.slots &&& ~~~((1 : BitVec 4) <<< slot.toNat) } else rxErr s 0 0x07)) ∧
      exec (.t1sBeaconMissing ch) s = .next (if optNode ch = 0 ∨ s.ns < p.beaconAt + 4 * (100 * optToTimer ch) then s
        else rxErr (s.setProg ch { p with beaconAt := s.ns }) 0 0x0E) ∧
      (∀ dest back beacon ns grid,
        let h := if beacon then s.setProg ch { p with beaconAt := s.ns } else s
        let v := h.passGrid ch grid
        let bytes := afterSfd ns
        let w := v.throughSink ch bytes
        (∀ err, exec (.t1sRxFrame ch dest back ⟨beacon, [], grid, err⟩) s = .next h) ∧
        (ns ≠ [] →
          exec (.t1sRxFrame ch dest back ⟨beacon, ns, grid, true⟩) s = .next (rxErr v 0 0x03) ∧
          (16 * grid.length < ns.length → exec (.t1sRxFrame ch dest back ⟨beacon, ns, grid, false⟩) s = .next (rxErr v 0 0x08)) ∧
          (ns.length ≤ 16 * grid.length →
            (fcsOk bytes = false → exec (.t1sRxFrame ch dest back ⟨beacon, ns, grid, false⟩) s = .next (rxErr w 0 0x04)) ∧
            (fcsOk bytes = true → exec (.t1sRxFrame ch dest back ⟨beacon, ns, grid, false⟩) s = .next (
              (w.serviceDeliver (optService ch) dest (BitVec.ofNat 32 bytes.length :: v.tbAgo back :: Machine.wordsOf bytes)).getD
                (v.reportLost ch 1)))))) ∧
      (∀ (char : BitVec 9) (err : Byte),
        let r := s.throughUnit ch (uartBits ch (char.setWidth 32))
        let got := if err = 0 then (r.reportLost ch 0).dataPacket ch 0
            [BitVec.ofNat 32 (char.toNat % 2 ^ min 9 (max 5 (optWidth ch)))] else rxErr r 1 err.toNat
        let v := if err = 0x0A then (got.reportLost ch 1).awaitIdle ch else got
        exec (.uartRx ch char err) s = .next (
          if optFlag ch 8 then v.writeLane ch 2 6 (!(v.chan ch).pushHold.isEmpty) true (v.cycle + 1) else v)) ∧
      (∀ hall : BitVec 3, exec (.hallSectorChange ch hall) s = .next (
        if hall = 0 ∨ hall = 7 then rxErr s 0 0x09 else if p.sector = hall then s
        else capture (s.setProg ch { p with sector := hall }) 1 (hall.setWidth 32))) ∧
      (∀ lane, exec (.zeroCrossing ch lane) s = .next (capture s 4 (lane.setWidth 32))) ∧
      (∀ a b z : Bool,
        let turn := fun (a b : Bool) => if a then (if b then 2 else 1) else (if b then 3 else 0)
        let d := (turn a b + 4 - turn p.quadA p.quadB) % 4
        let n := if z then 0 else if d = 1 then p.count + 1 else if d = 3 then p.count - 1 else p.count
        let v := s.setProg ch { p with quadA := a, quadB := b, count := n }
        let w := if d = 2 then rxErr v 0 0x09 else v
        exec (.quadcapTransition ch a b z) s = .next (if n = p.count then w else capture w 2 n))) ∧
    (s.chExecutes ch = true → p.state ∈ [1, 2] →
      (∀ r grid, optNodes ch ≤ optNode ch → exec (.t1sTxFrame ch ⟨r, grid⟩) s = .next s) ∧
      (optNode ch < optNodes ch →
        let h := s.t1sBeacon ch
        (optNode ch ≠ 0 → h = s) ∧
        (∀ ws u, h.takePacket ch false = (ws, u) → (h.prog ch).frame = [] → ∀ r grid,
          (ws = [] → exec (.t1sTxFrame ch ⟨r, grid⟩) s = .next u) ∧
          (ws ≠ [] → u.midPacket ch = true → exec (.t1sTxFrame ch ⟨r, grid⟩) s = .next (failing u 1 0x0F)) ∧
          (ws ≠ [] → u.midPacket ch = false → t1sFrameOk ws = false →
            exec (.t1sTxFrame ch ⟨r, grid⟩) s = .next (rxErr u 0 0x11)) ∧
          (u.midPacket ch = false → t1sFrameOk ws = true →
            let v := u.setProg ch { u.prog ch with frame := ws }
            let tc := optClockChan ch
            let ns := t1sPreamble ++ nibblesOf (t1sBytes ws ++ fcsOf (t1sBytes ws))
            let w := ((((v.passGrid ch grid).wire tc 1 true (nibbleCycle v.cycle grid 0)).driveNibbles ch
              (ns.take (16 * grid.length)) grid).rest ch [0, 1, 2, 3]).rest tc [1]
            (∀ back, ns.length ≤ 16 * grid.length → exec (.t1sTxFrame ch ⟨.done back, grid⟩) s =
              .next ((w.setProg ch { w.prog ch with frame := [], tries := 0, lastErr := 0 }).status ch 1 (w.tbAgo back))) ∧
            (∀ back, 16 * grid.length < ns.length → exec (.t1sTxFrame ch ⟨.done back, grid⟩) s =
              .next (failing (rxErr w 0 0x08) (w.prog ch).tries 0x08)) ∧
            (∀ err : Byte, (v.prog ch).tries = 0 → exec (.t1sTxFrame ch ⟨.failed [err], grid⟩) s = .next (
              let x := v.setProg ch { v.prog ch with tries := 1, lastErr := err }
              if err = 0x0D then x else failing x 1 err.toNat))))) ∧
      (∀ lanes ws u, (s.rest ch lanes).takePacket ch false = (ws, u) →
        let fits : Bool := ws.length == Config.packetWords ch.toNat (ws.headD 0)
        let done := fun (v : State) => if ws = [] then u else if fits then v else rxErr u 0 0x11
        let v := u.clockedBits ch 0 1 (Config.busBits ch.toNat ws) (optBit ch)
        let reads := fun (got : List Word) =>
          if v.option.1.getLsbD 0 = true then v.option.2.dataPacket ch 0 got else v.option.2
        (lanes = [0, 1] →
          (∀ x, exec (.mdioTransfer ch x) s = .next (done (reads [x.setWidth 32]))) ∧
          (∀ back data, exec (.twsTransfer ch (.done back) data) s = .next (done (reads (Machine.wordsOf data)))) ∧
          (∀ (err : Byte) data, exec (.twsTransfer ch (.failed [err]) data) s = .next (done (failing v 1 err.toNat)))) ∧
        (lanes = [0, 1, 3] → ∀ rdata : List Word,
          let w := u.spiWire ch ws rdata
          let got := (rdata.take ws.length).map (spiWord ch)
          exec (.spiTransfer ch rdata) s = .next (done (if rdata.length < ws.length
            then ((w.dataPacket ch 1 got).reportLost ch 1).awaitIdle ch else (w.reportLost ch 0).dataPacket ch 0 got)))) ∧
      (let cts : Bool := optFlag ch 8 && (match s.laneOf ch 3 with | some port => s.delivered port | none => false)
      (∀ w u, s.takeWord ch = (some w, u) → exec (.uartTx ch) s =
        .next (if cts then s else u.sendBits ch 0 (uartBits ch w) (optBit ch))) ∧
      (∀ u, s.takeWord ch = (none, u) → exec (.uartTx ch) s =
        .next (if cts then s else if s.midPacket ch then rxErr s 0 0x0F else s))))

/-! ## Time bases -/

/-- R303, R305, R307, R311, R315, R318, R323, R349, R527: what reaches the time-base unit: the word of the time port and
its sample every 16 cycles, a capture packet, a reference that is lost, a base that stands still, a reference
readmitted that was not excluded in this very cycle (R10), the written TB0 increment, and the one pulse of each pass
of a forward base through cycle count 0. -/
def Obligations.TimeReferences : Prop :=
  ∀ (s : State) (n : BaseId) (j : BitVec 2) (w : Writer),
    let b := s.base n
    let anchored := fun (u : State) (x : Base) (st : TbState) (v r : Rat) =>
      (u.base n).st = st ∧ (u.base n).va = v ∧ (u.base n).ta = s.tbRat ∧ (u.base n).rate = r ∧ (u.base n).corr = 0 ∧
        (u.base n).sel = x.sel
    (∀ time valid step, exec (.timePortWord time valid step) s =
      .next { s with soc := { s.soc with ntTime := time, ntValid := valid, ntStep := s.soc.ntStep || step } }) ∧
    (s.cycle % 16 ≠ 0 → exec .timePortSample s = .next s) ∧
    (s.cycle % 16 = 0 → (∀ m, s.baseOn m = false) →
      let u := (((({ s with soc := { s.soc with ntStep := false } }).setReg .tbPortl (s.soc.ntTime.extractLsb' 0 32)).setReg
        .tbPorth (s.soc.ntTime.extractLsb' 32 32)).setFld F.tbPort_NT_VALID s.soc.ntValid.toNat)
      exec .timePortSample s = .next (if s.soc.ntStep = true then u.satAdd F.tbPort_STEPS 1 else u)) ∧
    (let q := BitVec.ofNat 14 (s.refFld F.tbRefarg_ARG n j)
    s.baseOn n = true → s.refFld F.tbRefcfg_V n j = 1 → s.refFld F.tbRefcfg_SRC n j = 2 → s.faults.sigLost = false →
      (s.dom 20).st = .on → s.fld F.qeQcfg_RKIND q.toNat = 3 → (s.dom (16 + (quadrantOf q).toNat)).st = .on →
      ∀ items u, s.readPacket q .signalEngine (s.queue q).depth [] = (items, u) →
        (items = [] → exec (.capturePacket n j) s = .next s) ∧
        (items.length = 1 ∨ 2 < items.length → exec (.capturePacket n j) s =
          .next (u.satAdd F.tbRefstat_ERR 1 n.toNat j.toNat)) ∧
        (∀ w1 w2 x, items = [w1, w2] → itemKind w1 = 0 →
          (itemKind w2).toNat = u.refFld F.tbRefcfg_CAPT n j + 1 →
          capturePos (u.ref n j) (u.refFld F.tbRefcfg_CAPT n j) (u.refFld F.tbRefcfg_LANE n j) (itemPayload w2) = some (some x) →
          let v := u.setRef n j x
          exec (.capturePacket n j) s =
            .next (v.observe n j (v.edgeTime (itemPayload w1)) (v.positionOf n j + v.refOffset n j) false))) ∧
    (s.baseOn n = true → s.slaved n = false →
      (b.st = .locked → s.refValid n b.sel = false → s.isNet n = true →
        ∃ u, exec (.referenceLost n) s = .next u ∧ anchored u b .holdover (baseValueAt true b s.tbRat) b.savedRate ∧
          u.fld F.tbStat_REFLOST n.toNat = 1) ∧
      (b.st = .locked ∨ b.st = .holdover → s.isNet n = false → s.noneValid n = true →
        ∃ u, exec (.stillTimeout n) s = .next u ∧ anchored u b .still (baseValueAt false b s.tbRat) 0)) ∧
    (isBlock w = true → n ≠ 0 → s.refFld F.tbRefstat_EXCL n j = 1 →
      F.tbRefstat_EXCL.get (s.setNow .tbRefstat n.toNat j.toNat) = 0 → exec (.refReadmit w n j) s =
      .next (s.access w fun _ => (s.setFld F.tbRefstat_EXCL 0 n.toNat j.toNat).setRef n j { s.ref n j with readmit := true })) ∧
    (∀ v, isBlock w = true → exec (.t0incWrite w v) s = .next (s.access w fun _ => s.store w .tbT0inc v) ∧
      (s.boot.seald = false → (s.store w .tbT0inc v).reg .tbT0inc = v) ∧
      (s.boot.seald = true → w ≠ .boot → (s.store w .tbT0inc v).reg .tbT0inc = s.reg .tbT0inc)) ∧
    (s.baseOn n = true → s.isNet n = false → b.st = .locked ∨ b.st = .holdover → b.back = false →
      (ratMod (s.baseNow n) (s.ringOf n)).floor < 2 ^ 32 →
      let lap := (s.baseNow n / (s.ringOf n : Rat)).floor
      (b.zeroLap ≠ some lap → exec (.basePassesCycleCountZero n) s =
        .next ((s.setBase n { b with zeroLap := some lap }).pulse (0xA20 + n.toNat))) ∧
      (b.zeroLap = some lap → exec (.basePassesCycleCountZero n) s = .next s))

/-- R99, R303, R316 to R318, R322, R324, R328: a read of the low half of a 64-bit value answers it and latches the high
half for its reader; the correction moves, once in 1,024 cycles, by no more than SLEW; a window that has not ended
changes nothing, one that ends begins the next, and a bad one, where one suffices, excludes the reference that
drifted. -/
def Obligations.TimeReadsAndSlewing : Prop :=
  ∀ (s : State) (m : Master) (n : BaseId),
    let b := s.base n
    let latched := fun (u : State) (key : Nat) (v : BitVec 64) =>
      { u with answer := (v.extractLsb' 0 32).setWidth 64, latches := smSet 0 u.latches key (v.extractLsb' 32 32) }
    let v := ratMod (s.baseNow n) (s.ringOf n)
    ((v.floor.toNat : Rat) = v → exec (.tbVallRead m n) s =
      .next (latched s (256 * m.toNat + n.toNat) (BitVec.ofNat 64 v.floor.toNat))) ∧
    ((v.floor.toNat : Rat) ≠ v →
      let up := Config.roundUp s.fresh
      exec (.tbVallRead m n) s = .next (latched { s with fresh := s.fresh + 1 } (256 * m.toNat + n.toNat)
        (BitVec.ofNat 64 (if up = true then (v.floor.toNat + 1) % s.ringOf n else v.floor.toNat)))) ∧
    exec (.tbPortlRead m) s = .next (latched s (256 * m.toNat + 48) (s.reg .tbPorth ++ s.reg .tbPortl)) ∧
    (∀ t : Tid, exec (.time0lRead t) s =
      .next { s.setThr t { s.thr t with timeH := s.tbSum.extractLsb' 48 32 } with
              answer := (s.tbSum.extractLsb' 16 32).setWidth 64 }) ∧
    (s.ns / 2 ^ s.fld F.tbMon_WLOG n.toNat ≤ b.lastWin → exec (.estimationWindowEnd n) s = .next s) ∧
    (s.baseOn n = true → b.lastWin < s.ns / 2 ^ s.fld F.tbMon_WLOG n.toNat → b.st = .acquire ∨ b.st = .still →
      exec (.estimationWindowEnd n) s = .next (refIds.foldl
        (fun u j => (u.setRef n j { u.ref n j with winFirst := (u.ref n j).obs }).applyRefWrites n j)
        (s.setBase n { b with lastWin := b.lastWin + 1 }))) ∧
    (s.isNet n = false → s.windowBad n b.sel = true → s.fld F.tbMon_N n.toNat = 1 → s.fld F.tbMon_M n.toNat = 1 →
      let u := s.setBase n { b with hist := b.hist * 2 ||| 1 }
      s.verdict n = (((u.raise F.tbStat_DRIFT n.toNat).raise F.tbRefstat_EXCL n.toNat b.sel.toNat).pulse
        (0xA10 + n.toNat)).leaveReference n) ∧
    (s.cycle < b.lastSlew + 1024 → exec (.slewUpdate n) s = .next s) ∧
    (s.baseOn n = true → s.slaved n = false → b.lastSlew + 1024 ≤ s.cycle →
      (b.st ≠ .locked → exec (.slewUpdate n) s = .next (s.setBase n { b with lastSlew := s.cycle })) ∧
      (b.st = .locked → basePhiAt (s.isNet n) b s.tbRat ≠ 0 →
        let d : Rat := 1024 * ((s.fld F.tbServo_SLEW n.toNat : Nat) / 1000000) * (s.incNow.toNat : Nat) / (4294967296 * 1000000000)
        ∃ u, exec (.slewUpdate n) s = .next u ∧ (u.base n).corr ≤ b.corr + d ∧ b.corr - d ≤ (u.base n).corr ∧
          (u.base n).va = baseValueAt (s.isNet n) b s.tbRat ∧ (u.base n).ta = s.tbRat))

/-! ## Timed actions, tasks and events -/

/-- R329 to R332, R335, R339, R354: a post whose channel is not mirrored, while no write waits for the mirror: the action
its registers hold is denied, bad, or placed: staged within the horizon when its channel's queue has room, what is on
its way to it counted, stored otherwise; PSTAT takes the result. R336, R340 to R343: the pass of every 1,024 cycles,
once, over one stored action; the withdrawal of a base's older staged actions two cycles after its generation changed,
but of none that was due by then; and their recomputation, from three cycles after the change, of what one channel has
once a cycle. -/
def Obligations.PostingAndQuench : Prop :=
  (∀ (s : State) (t : Tid) (p4 : Word),
    let u := s.setReg .taP4 p4 t.toNat
    let a := u.postedAction t
    let answered := fun (v : State) (code : Nat) => v.setFld F.taPstat_RESULT code t.toNat
    let entries := (s.chan a.ch).staged.length + (s.arrivals.filter fun r => r.old.isNone && r.entry.act.ch == a.ch).length
    s.mirrorsChan a.ch = false → (∀ x ∈ s.regWaits, x.d ≠ mirrorPlace) →
      (a.base = (s.reg .taP0 t.toNat).extractLsb' 28 4 ∧ a.kind = (s.reg .taP0 t.toNat).extractLsb' 25 3 ∧
        a.ch = (s.reg .taP0 t.toNat).extractLsb' 12 9 ∧ a.target = s.reg .taP2 t.toNat ++ s.reg .taP1 t.toNat ∧
        a.param = s.reg .taP3 t.toNat ∧ a.poster = t ∧ a.qn = p4.getLsbD 31 ∧ a.ln = p4.getLsbD 30) ∧
      (u.mayPost t a.ch = false → u.chFld F.peCcfg_VOTE a.ch = 0 → exec (.post t p4) s = .next (answered u 5)) ∧
      (u.mayPost t a.ch = false → u.chFld F.peCcfg_VOTE a.ch = 1 →
        exec (.post t p4) s = .next (answered (u.chSatAdd F.peCerr_DISC 1 a.ch) 5)) ∧
      (u.mayPost t a.ch = true → u.badPost t a = true → exec (.post t p4) s = .next (answered u 4)) ∧
      (u.mayPost t a.ch = true → u.badPost t a = false → u.passed a.base a.x = false →
        (∀ d, u.withinHorizon a.base a.x = some d → entries < 64 →
          exec (.post t p4) s = .next (answered (u.enqueue
            ⟨a, if d ≤ s.cycle then s.cycle + 2 else d, u.genOf a.base, decide (d ≤ s.cycle), false, 0, u.spanFrom a d⟩) 0)) ∧
        (∀ d, u.withinHorizon a.base a.x = some d → 64 ≤ entries → s.pend.length < 8192 →
          exec (.post t p4) s = .next (answered { u with pend := u.pend ++ [a] } 1)) ∧
        (u.withinHorizon a.base a.x = none → s.pend.length < 8192 →
          exec (.post t p4) s = .next (answered { u with pend := u.pend ++ [a] } 1)) ∧
        (u.withinHorizon a.base a.x = none → 8192 ≤ s.pend.length → exec (.post t p4) s = .next (answered u 3))) ∧
      (u.mayPost t a.ch = true → u.badPost t a = false → u.passed a.base a.x = true → a.trig = false → a.late = 1 → a.ln = false →
        exec (.post t p4) s = .next (answered (u.satAdd F.taCnt_DROP 1) 2))) ∧
  (∀ (s : State) (n : BaseId),
    let b := s.base n
    let lap := s.cycle / 1024 + 1
    (s.passDone = lap → exec .revalidationPass s = .next s) ∧
    (s.passDone ≠ lap → (∀ kv ∈ s.channels, kv.2.staged = []) →
      (s.pend = [] → exec .revalidationPass s = .next { s with passDone := lap }) ∧
      (∀ a, s.pend = [a] → exec .revalidationPass s = .next { (({ s with pend := [] }).place a 0).2 with passDone := lap })) ∧
    (b.quenches = [] → exec (.quench n) s = .next s) ∧
    (∀ g gen more, b.quenches = (g, gen) :: more → s.cycle < g + 2 → exec (.quench n) s = .next s) ∧
    (∀ g gen more, b.quenches = (g, gen) :: more → g + 2 ≤ s.cycle → s.arrivals = [] →
      (∀ kv ∈ s.channels, ∀ x ∈ kv.2.staged, x.act.qn = false) →
      let all := (s.channels.map fun kv => kv.2.staged).flatten
      let ends := (all.filter (quenchEnd n gen)).filter fun x => !b.recomp.contains x
      let without := fun (_ : Nat) (c : Channel) =>
        if c.staged.any (s.quenched n g gen) = true then
          { c with staged := unpair (c.staged.filter fun x => !s.quenched n g gen x), trig := false } else c
      let u := { s with channels := smMap {} s.channels without }
      exec (.quench n) s = .next ((u.setBase n { b with quenches := more, recompAt := some g
                                                        recomp := b.recomp ++ ends ++ all.filter (s.quenched n g gen) }).satAdd
        F.taCnt_QUENCH 1) ∧
      (∀ ch x, x ∈ (u.chan ch).staged → x.act.base = n → 0 < (gen - x.gen).toNat → (gen - x.gen).toNat < 128 →
        x.ending = false → x.act.trig = false → s.chFld F.peCcfg_VOTE x.act.ch = 0 → x.deadline ≤ g + 1)) ∧
    (b.recompAt = none → exec (.quenchRecompute n) s = .next s) ∧
    (∀ g, b.recompAt = some g → s.cycle < g + 3 ∨ b.recompStep = s.cycle + 1 → exec (.quenchRecompute n) s = .next s) ∧
    (∀ g x, b.recompAt = some g → g + 3 ≤ s.cycle → b.recompStep ≠ s.cycle + 1 → b.recomp = [x] → x.ending = false →
      let v := ((s.setBase n { b with recomp := [] }).place x.act 2).2
      exec (.quenchRecompute n) s = .next (v.setBase n { v.base n with
        recompStep := s.cycle + 1, recompAt := if (v.base n).recomp.isEmpty then none else (v.base n).recompAt })))

/-- R344 to R348, R356: a task that is not mirrored, while no write waits for the mirror: enabled on the grid of its T0,
released on its grid point unless its last item is still held, finished, and started anew on its grid. R350 to R353,
R357, R399: a fire that has reached its input: a channel's trigger, a consumer's item, a domain's wake; a fire whose
gate was shut is lost and one that finds its input busy is an overrun, which sets the input's bit and counts; a
software pulse. -/
def Obligations.TasksAndEvents : Prop :=
  (∀ (s : State) (w : Writer) (c : CoreId) (k : TaskId),
    let x := s.task k
    s.mirrorsTask k = false → (∀ y ∈ s.regWaits, y.d ≠ mirrorPlace) →
      (k = BitVec.ofNat 12 (s.fld F.tskSel_TASK c.toNat) → s.overTask w c = true →
        (∀ v : Word, F.tskCfg_S.get v ≤ 32 → F.tskCfg_M.get v ≠ 0 → x.enabled = false →
          let own := if w = .boot ∨ s.boot.seald = false then F.tskCfg_OWNCORE.get v else F.tskCfg_OWNCORE.get x.cfg
          let y := { x with cfg := F.tskCfg_BASE.put (F.tskCfg_OWNCORE.put (v &&& 0xFFFFFFC0) own) (F.tskCfg_BASE.get v) }
          (y.enabled = false → exec (.taskEnable w c v) s = .next (s.access w fun _ => s.setTask k y)) ∧
          (y.enabled = true → s.periodOk y = false →
            exec (.taskEnable w c v) s = .next (s.access w fun _ => s.taskIgnored k)) ∧
          (y.enabled = true → s.periodOk y = true → exec (.taskEnable w c v) s =
            .next (s.access w fun _ => s.setTask k { s.startGrid y with jobs := 0, onGrid := false }))) ∧
        (0 < x.per.toNat →
          exec (.taskRebase w c) s = .next (s.access w fun _ => s.setTask k { s.startGrid x with lagn := false }))) ∧
      (x.running = true → exec (.taskDone w k) s =
        .next ((s.baseWord x.base).2.setTask k
          ((s.baseWord x.base).2.nextRelease { x with running := false } ((s.baseWord x.base).1.toNat : Int)))) ∧
      (x.held.isSome = true → exec (.taskRelease k) s = .next s) ∧
      (x.enabled = true → x.running = false → x.held = none → 0 < x.per.toNat → s.stages x.base = true → s.baseDisabled x.base = false →
        s.wraps x.base = false → s.passed x.base (x.nextR : Int) = true → s.ringMod x.base (x.nextR - s.gridPoint x x.k) = 0 →
        let y := { x with lastR := x.nextR, k := x.k + 1, jobs := x.jobs + 1, lag := 0, onGrid := true, noted := false }
        let pulsed := fun (u : State) => if F.tskCfg_RELE.get x.cfg = 1 then u.pulse (0x900 + F.tskDest_ESRC.get x.dest) else u
        (F.tskCfg_RELQ.get x.cfg = 0 →
          exec (.taskRelease k) s = .next (pulsed (s.setTask k (s.nextRelease y x.nextR)))) ∧
        (F.tskCfg_RELQ.get x.cfg = 1 →
          let q := BitVec.ofNat 14 (F.tskDest_QID.get x.dest)
          let item := mkItem true (BitVec.ofNat 4 (F.tskDest_PRIO.get x.dest)) (BitVec.ofNat 4 (F.tskDest_KIND.get x.dest))
            (BitVec.ofNat 22 (3 * 2 ^ 18 + 4)) (BitVec.ofNat 32 (4096 * k.toNat + x.k % 4096))
          let r := (pulsed (s.setTask k { y with running := true })).unitPush { q := q, item := item }
          exec (.taskRelease k) s = .next (r.2.setTask k { r.2.task k with held := r.1 })))) ∧
  (∀ (s : State) (i : BitVec 12),
    let n := i.toNat
    (∀ (w : Writer) (src : BitVec 10), exec (.softwareEventPulse w src) s = .next (s.pulse (0xB00 + src.toNat))) ∧
    ((∀ f ∈ s.fires, f.input ≠ i ∨ s.cycle < f.due) → exec (.eventFire i) s = .next s) ∧
    (∀ f, s.fires.find? (fun f => f.input == i && decide (f.due ≤ s.cycle)) = some f →
      let u := { s with fires := s.fires.erase f }
      let overrun := (u.raise ⟨.evmOvr, n % 32, 1⟩ (n / 32)).satAdd F.evmOvrcnt_COUNT 1
      (f.gateOk = false → exec (.eventFire i) s = .next u) ∧
      (f.gateOk = true →
        (n < 0x200 → let ch := BitVec.ofNat 9 n
          exec (.eventFire i) s = .next (if (s.chan ch).trig = true then overrun else
            u.setChan ch { s.chan ch with trig := true, trigAt := s.cycle })) ∧
        (0x200 ≤ n → n < 0xFE0 →
          ((smGet none s.evmHeld n).isSome = true → exec (.eventFire i) s = .next overrun) ∧
          (smGet none s.evmHeld n = none →
            let q := BitVec.ofNat 14 (s.fld F.evmCdest_QID n)
            let item := mkItem true (BitVec.ofNat 4 (s.fld F.evmCdest_PRIO n)) (BitVec.ofNat 4 (s.fld F.evmCdest_KIND n))
              (BitVec.ofNat 22 (3 * 2 ^ 18 + 5)) f.tb
            let r := u.unitPush { q := q, item := item }
            exec (.eventFire i) s = .next { r.2 with evmHeld := smSet none r.2.evmHeld n r.1 })) ∧
        (0xFE0 ≤ n → n < 0xFF5 →
          (n ∈ s.wokeNow → exec (.eventFire i) s = .next overrun) ∧
          (n ∉ s.wokeNow → exec (.eventFire i) s = .next ({ u with wokeNow := n :: s.wokeNow }.wakeDomain (n - 0xFE0)))) ∧
        (0xFF5 ≤ n → exec (.eventFire i) s = .next u))))

/-! ## Signal engine -/

/-- R358, R359, R361, R370, R373 to R379: the words of a packet read into the store as far as it has room; the lookup of a
packet that is not accepted and of one whose frame is unknown; a line asked for; its return, good and failed; a
write-back's response; a line invalidated, the replacement of a pinned entry taken and, not more than 16 cycles on,
done, a second one meanwhile refused, and the directory switched off. -/
def Obligations.SignalEngine : Prop :=
  ∀ (s : State) (q : Qid) (w : Writer),
    let works := (s.dom 20).st = .on ∧ s.faults.sigLost = false
    (s.nextOffer = none → exec .sigPacketRead s = .next s) ∧
    (works → s.nextOffer = some q → s.captureEntry q = none → (s.dom (16 + (quadrantOf q).toNat)).st = .on →
      ∀ items u, s.sigRead q (min (s.queue q).depth (16384 - s.storeUse)) [] = (items, u) →
        (items = [] → exec .sigPacketRead s = .next u) ∧
        (∀ last, items.getLast? = some last →
          (∀ p, u.partRead = some p → exec .sigPacketRead s =
            .next (u.replacePacket { p with items := p.items ++ items, whole := itemEnd last })) ∧
          (u.partRead = none → exec .sigPacketRead s = .next { u.bump with sigPackets := u.sigPackets ++
            [{ id := u.bump.seq, q := q, items := items, whole := itemEnd last, started := false, lines := [], frame := none
               next := 0, waiting := none }] }))) ∧
    (∀ p, s.sigPackets.find? (fun p => p.q == q) = some p → works → p.waiting = none →
      let u := s.dropPacket p
      (p.whole = false → exec (.directoryLookup q) s = .next s) ∧
      (p.whole = true → p.started = false → s.packetKey p.items = none →
        exec (.directoryLookup q) s = .next (u.satAdd F.sigCnt_COUNT 1 8)) ∧
      (∀ ch key, p.whole = true → p.started = true → p.key = some (ch, key) → p.frame = none → p.lines = [] →
        let home := homeLine (s.fld F.sigCfg_BLOG) ch key % 2 ^ s.fld F.sigCfg_BLOG
        s.cached home = none →
        (s.fld F.sigCfg_DIRON = 0 →
          exec (.directoryLookup q) s = .next (u.noRouteYet p)) ∧
        (s.fld F.sigCfg_DIRON = 1 → s.fills = [] → home ∉ s.writeBacks →
          let v := { s.bump with fills := [{ line := home, install := true, drop := false, id := s.bump.seq }] }
          exec (.directoryLookup q) s = .next (((v.satAdd F.sigCnt_COUNT 1 2).smRequest (.fill home (s.lineAddr home))).replacePacket
            { p with waiting := some home, fill := s.bump.seq })))) ∧
    (∀ (l : BitVec 21) (words : List Word) (f : SigFill), s.fills = [f] → f.line = l.toNat → f.drop = false → f.got = none →
      s.sigPackets = [] →
      let u := { s with fills := [], soc := { s.soc with reqs := s.soc.reqs.erase (.fill l.toNat (s.lineAddr l.toNat)) } }
      (words.length = 16 → f.install = true → exec (.directoryFillReturn l true words) s = .next (
        match u.installLine l.toNat words with
        | some v => v
        | none => { u with fills := [{ f with got := some words }] })) ∧
      (words.length = 16 → f.install = false → exec (.directoryFillReturn l true words) s = .next u) ∧
      exec (.directoryFillReturn l false words) s = .next ((u.raise F.sigStat_FERR).satAdd F.sigCnt_COUNT 1 9)) ∧
    (∀ (l : BitVec 21) ok, l.toNat ∈ s.writeBacks → s.sigPackets = [] → s.fills = [] →
      exec (.directoryWriteBackResponse l ok) s = .next { s with
        writeBacks := s.writeBacks.erase l.toNat
        soc := { s.soc with reqs := s.soc.reqs.eraseP fun r => match r with | .writeBack k _ _ => k == l.toNat | _ => false } }) ∧
    (isBlock w = true → s.takes 20 →
      (∀ (l : BitVec 21), s.fills = [] → s.sigPackets = [] →
        (∀ x, smGet none s.cache l.toNat = some x → x.pinned = false → exec (.directoryInvalidate w l) s =
          .next (s.access w fun _ => { s with cache := smSet none s.cache l.toNat none })) ∧
        (∀ x, smGet none s.cache l.toNat = some x → x.pinned = true →
          exec (.directoryInvalidate w l) s = .next (s.access w fun _ => s)) ∧
        (smGet none s.cache l.toNat = none → exec (.directoryInvalidate w l) s = .next (s.access w fun _ => s))) ∧
      (∀ e : BitVec 23,
        let wrong := exec (.pinnedEntryReplace w e) s = .next (s.access w fun _ => s.raise F.sigStat_PWERR)
        (∀ x, smGet none s.cache (e.toNat / 4) = some x → x.pinned = true → s.pinWrite = none →
          ∃ due, s.cycle < due ∧ due ≤ s.cycle + 16 ∧ exec (.pinnedEntryReplace w e) s = .next (s.access w fun _ =>
            { s with pinWrite := some ⟨e.toNat, [s.reg .sigPw 0, s.reg .sigPw 1, s.reg .sigPw 2, s.reg .sigPw 3], due⟩
                     fresh := s.fresh + 1 })) ∧
        (s.pinWrite.isSome = true → wrong) ∧ (smGet none s.cache (e.toNat / 4) = none → wrong) ∧
        (∀ x, smGet none s.cache (e.toNat / 4) = some x → x.pinned = false → wrong)) ∧
      (∀ v : Word, F.sigCfg_BLOG.get v ≤ 21 →
        let u := s.store w .sigCfg v
        (s.fld F.sigCfg_DIRON = 0 ∨ u.fld F.sigCfg_DIRON ≠ 0 →
          exec (.dironWrite w v) s = .next (s.access w fun _ => u)) ∧
        (s.fld F.sigCfg_DIRON = 1 → u.fld F.sigCfg_DIRON = 0 →
          exec (.dironWrite w v) s = .next (s.access w fun _ => u.directoryOff)))) ∧
    (∀ p x, s.pinWrite = some p → p.due ≤ s.cycle → smGet none s.cache (p.entry / 4) = some x →
      let ws := p.words.zipIdx.foldl (fun ws k => ws.set (4 * (p.entry % 4) + k.2) k.1) x.words
      s.replacePinned = { s with pinWrite := none, cache := smSet none s.cache (p.entry / 4) (some { x with words := ws }) })

/-! ## Bellows and power domains -/

/-- R384, R389, R401: an epoch of a hearth ends at its 65,536-cycle boundary: the idle count follows its cores, and every
thread's measures stand in its registers with counting begun again (measures already taken at the boundary stand as
they were taken); 512 cycles on, the moves that still stand by the classes, MINSLOTS and MAXSLOTS of then (R386) are
applied, or all discarded for a core whose slot table is being changed. -/
def Obligations.BellowsEpochs : Prop :=
  ∀ (s : State) (h : HearthId),
    let x := s.hearth h
    let n := h.toNat
    (s.cycle < 65536 * (x.epoch + 1) → exec (.bellowsEpochEnd h) s = .next s) ∧
    (65536 * (x.epoch + 1) ≤ s.cycle → x.ended = none →
      ∃ u, exec (.bellowsEpochEnd h) s = .next u ∧ (u.hearth h).epoch = x.epoch + 1 ∧
        (u.hearth h).due = some (65536 * (x.epoch + 1) + 512) ∧
        u.fld F.belHstat_IDLEEP n = (if s.hearthIdle h = true then min 15 (s.fld F.belHstat_IDLEEP n + 1) else 0) ∧
        (∀ t : Tid, t.toNat / 64 = n →
          (u.thr t).issued = 0 ∧ (u.thr t).waited = 0 ∧
          u.fld F.belTiss_ENTRIES t.toNat = s.entries (coreOf t) (t.toNat % 16) ∧
          u.fld F.belTiss_ISSUE t.toNat = min (s.thr t).issued (2 ^ 17 - 1) ∧
          u.fld F.belTwait_WAIT t.toNat = min (s.thr t).waited (2 ^ 17 - 1))) ∧
    (∀ r, 65536 * (x.epoch + 1) ≤ s.cycle → x.ended = some r →
      ∃ u, exec (.bellowsEpochEnd h) s = .next u ∧ (u.hearth h).epoch = x.epoch + 1 ∧ (u.hearth h).moves = r.moves ∧
        (u.hearth h).due = some (65536 * (x.epoch + 1) + 512) ∧ (u.hearth h).ended = none ∧ u.threads = s.threads ∧
        u.fld F.belHstat_IDLEEP n = (if r.idle = true then min 15 (s.fld F.belHstat_IDLEEP n + 1) else 0) ∧
        (∀ t : Tid, t.toNat / 64 = n →
          u.reg .belTiss t.toNat = r.tiss.getD (t.toNat % 64) 0 ∧ u.reg .belTwait t.toNat = r.twait.getD (t.toNat % 64) 0)) ∧
    (x.due = none → exec (.bellowsApply h) s = .next s) ∧
    (∀ c0, x.due = some c0 → s.cycle < c0 → exec (.bellowsApply h) s = .next s) ∧
    (∀ c0, x.due = some c0 → c0 ≤ s.cycle → x.moves = [] → x.retain = false →
      ∃ u, exec (.bellowsApply h) s = .next u ∧ (u.hearth h).due = none ∧ u.threads = s.threads ∧ u.domains = s.domains ∧
        (∀ (c : CoreId) (i : BitVec 3), u.reg .sltAct c.toNat i.toNat = s.reg .sltAct c.toNat i.toNat ∧
          u.reg .sltTab c.toNat i.toNat = s.reg .sltTab c.toNat i.toNat)) ∧
    (∀ (c : CoreId) (m : SlotMove) (c0 : Nat), m.c = c →
      let mark := fun (b : Nat) => s.setReg .belHstat (putBits (s.reg .belHstat n) (24 + c.toNat % 4) 1 b) n
      (s.fld F.sltCtl_DIRTY c.toNat ≠ 0 ∨ s.fld F.sltCtl_PEND c.toNat ≠ 0 ∨ (0 < c0 ∧ (s.core c).snapAt = c0) →
        s.applyMoves h c [m] c0 = mark 1) ∧
      (s.fld F.sltCtl_DIRTY c.toNat = 0 → s.fld F.sltCtl_PEND c.toNat = 0 → (s.core c).snapAt ≠ c0 → s.coreRetired c = false →
        let u := mark 0
        (u.moveStands c m = true → s.applyMoves h c [m] c0 = (u.setSlot c m.entry m.receiver.toNat).satAdd F.belHstat_MOVES 1 n) ∧
        (u.moveStands c m = false → s.applyMoves h c [m] c0 = u)))

/-- R396 to R400, R543, R544: requests of the block supervisor, the drain, over once all that was accepted is done, the
low state 64 cycles on, the wake by the causes of its domain, the acknowledgement of the power manager, and ON 12 us
after the wake with the acknowledgement gone; held items are checked every 1,024 cycles. -/
def Obligations.PowerDomains : Prop :=
  ∀ (s : State) (w : Writer) (d : BitVec 5),
    let n := d.toNat
    let x := s.dom n
    (isBlock w = true → n < 22 →
      (x.st = .off → exec (.powerRequestOn w d) s =
        .next (s.access w fun _ => s.setDom n { x with st := .waking, since := s.ns, pdReq := false })) ∧
      (x.st ≠ .off → exec (.powerRequestOn w d) s = .next (s.access w fun _ => s.wakeDomain n)) ∧
      (n ≠ 21 → exec (.powerRequestOff w d) s = .next (s.access w fun _ => s.raise F.pwrDstat_DENIED n)) ∧
      (n = 21 → exec (.powerRequestRetained w d) s = .next (s.access w fun _ => s.raise F.pwrDstat_DENIED n)) ∧
      (let draining := fun (off : Bool) =>
        s.setDom n { x with st := .draining, since := s.cycle, off := off, accepted := s.storesTo n }
      (n ≠ 21 → x.st ≠ .on → exec (.powerRequestRetained w d) s = .next (s.access w fun _ => s)) ∧
      (n ≠ 21 → x.st = .on → s.refusesLow n = false →
        exec (.powerRequestRetained w d) s = .next (s.access w fun _ => draining false)) ∧
      (n ≠ 21 → x.st = .on → s.refusesLow n = true →
        exec (.powerRequestRetained w d) s = .next (s.access w fun _ => s.raise F.pwrDstat_DENIED n)) ∧
      (n = 21 → x.st = .on → s.refusesLow n = false →
        exec (.powerRequestOff w d) s = .next (s.access w fun _ => draining true)))) ∧
    (x.st = .draining → s.drained n = true →
      exec (.drainComplete d) s = .next (s.setDom n { x with st := .entering, since := s.cycle })) ∧
    (x.st ≠ .draining ∨ s.drained n = false → exec (.drainComplete d) s = .next s) ∧
    (x.st = .entering → x.since + 64 ≤ s.cycle → x.off = false → exec (.domainLowState d) s =
      .next ((s.setDom n { x with st := .retained, pdReq := true, pdRet := true }).pulse (0xAC0 + n))) ∧
    (s.cycle < x.since + 64 → exec (.domainLowState d) s = .next s) ∧
    (∀ cause, (cause = .item ∧ (n < 16 ∨ n = 20)) ∨ (cause = .notice ∧ n < 8) ∨
        (cause = .access ∧ (n < 8 ∨ 16 ≤ n ∧ n < 21)) ∨ (cause = .registerWrite ∧ (n < 8 ∨ n = 20)) ∨
        (cause = .eventInput ∧ n < 21) →
      exec (.domainWake d cause) s = .next (s.wakeDomain n)) ∧
    exec (.pdAckRise d) s = .next (s.setDom n { x with pdAck := true }) ∧
    (x.pdAck = true → exec (.pdAckFall d) s = .next (s.setDom n { x with pdAck := false, ackFell := some s.cycle })) ∧
    (x.pdAck = false → exec (.pdAckFall d) s = .next (s.setDom n { x with pdAck := false })) ∧
    (x.st ≠ .waking ∨ x.pdAck = true ∨ s.ns < x.since + 12000 → exec (.domainOn d) s = .next s) ∧
    (x.st = .waking → x.pdAck = false → x.ackFell = none ∨ (∃ c, x.ackFell = some c ∧ c + 64 ≤ s.cycle) →
      x.since + 12000 ≤ s.ns →
      let u := s.domainReachOn n
      ((8 ≤ n ∧ n < 16) ∨ n = 20 → exec (.domainOn d) s = .next u) ∧
      (n < 8 → exec (.domainOn d) s = .next (u.deliverHeldWakes n)) ∧
      (16 ≤ n → n < 20 → let k : Quadrant := BitVec.ofNat 2 (n - 16)
        exec (.domainOn d) s = .next ((u.releaseAllHeld k (u.quad k).held.length).retryUnits k)) ∧
      (n = 21 → exec (.domainOn d) s = .next (laneIds.foldl (fun v l => v.tryInit l) u))) ∧
    (s.cycle % 1024 ≠ 0 → exec .heldItemAgeCheck s = .next s) ∧
    (s.cycle % 1024 = 0 → (∀ i, i < 16 → (s.dom i).st = .on ∨ s.fld F.pwrHold_AGE i = 0) → exec .heldItemAgeCheck s = .next s)

/-! ## Chain -/

/-- R408 to R412, R533: a lane's life: enabled, given its signal, INIT flits queued every 1 us and received, lost by its
signal or for want of codewords, its alignment lock; codewords by their SEQ: one that cannot be corrected asks for a
replay, one out of order only frees what it acknowledges, the expected one advances the sequence. -/
def Obligations.ChainLanes : Prop :=
  ∀ (s : State) (w : Writer) (l : LaneId),
    let x := s.lane l
    let n := l.toNat
    (∀ v, isBlock w = true → F.chnLctl_EN.get ((s.store w .chnLctl v n).reg .chnLctl n) = 1 →
      exec (.laneEnableWrite w l v) s = .next (s.access w fun _ => (s.store w .chnLctl v n).tryInit l)) ∧
    (∀ v, isBlock w = true → F.chnLctl_EN.get ((s.store w .chnLctl v n).reg .chnLctl n) = 0 → x.st = .down →
      exec (.laneEnableWrite w l v) s = .next (s.access w fun _ => (s.store w .chnLctl v n).setLane l { x with faultDown := false })) ∧
    (x.st = .down → s.fld F.chnLctl_EN n = 1 → s.fld F.blkNodeid_LOADED = 1 → x.faultDown = false → (s.dom 21).st = .on →
      exec (.laneInit l) s = .next (s.setLane l
        { x with sig := true, st := .init, gotInit := false, sentReady := false, gotReady := false, lastInit := s.ns })) ∧
    (x.st ≠ .down → exec (.laneInit l) s = .next (s.setLane l { x with sig := true })) ∧
    (x.st = .init → x.lastInit + 1000 ≤ s.ns →
      let flit : Flit := ⟨0, 14, 0, 0, 0, s.node, BitVec.ofNat 32 (2 ^ 31 * x.gotInit.toNat + s.node.toNat), 0, body12 []⟩
      exec (.initFlitTimer l) s = .next (s.setLane l { x with links := x.links ++ [flit], lastInit := s.ns })) ∧
    (x.st ≠ .init ∨ s.ns < x.lastInit + 1000 → exec (.initFlitTimer l) s = .next s) ∧
    (∀ f : Flit, f.type = 14 → f.vc = 0 → x.st = .init → x.sentReady = false →
      exec (.initFlitRx l f) s = .next (s.setLane l
        { x with lastCw := s.ns, gotInit := true, gotReady := x.gotReady || f.h2.getLsbD 31, peer := f.h2.extractLsb' 0 18 })) ∧
    (x.st = .init → x.sentReady = true → x.gotReady = true →
      s.tryUp l = (((s.setLane l { x with st := .up, credits := fullCredits, owed := [0, 0, 0, 0], txSeq := 0, rxNext := 0
                                          ack := 0x3FF, nak := false, replay := [], again := [], probeAt := none
                                          lastCw := s.ns, lastProbe := s.ns }).setFld
        F.chnLstat_PEER x.peer.toNat n).pulse (0xA40 + n)).drainAll) ∧
    (x.st = .down → exec (.laneSignalLoss l) s = .next (s.setLane l { x with sig := false, lock := false })) ∧
    (x.st = .up → exec (.laneSignalLoss l) s =
      .next ((s.laneDown l 2).setLane l { (s.laneDown l 2).lane l with sig := false, lock := false })) ∧
    (s.ns < x.lastCw + 10000 → exec (.codewordTimeout l) s = .next s) ∧
    (x.lastCw + 10000 ≤ s.ns → x.st = .init → exec (.codewordTimeout l) s = .next (s.setLane l { x with lock := false })) ∧
    exec (.codewordAlignmentLock l) s = .next (s.setLane l { x with lock := true, lastCw := s.ns }) ∧
    (∀ cw, x.lock = false → exec (.codewordRx l cw) s = .next s) ∧
    (x.lock = true →
      let bad := (s.satAdd F.chnLcnt_UNCORR 1 n).detect 2 n
      (x.st ≠ .up → exec (.codewordRx l .uncorrectable) s = .next bad) ∧
      (x.st = .up → exec (.codewordRx l .uncorrectable) s =
        .next (bad.setLane l { bad.lane l with nak := true, nakDue := true })) ∧
      (∀ seq ack, x.st = .up → seq ≠ 0x3FF →
        let kept := ackReplay x.replay ack.toNat
        let heard := { x with lastCw := s.ns, replay := kept, again := x.again.filter fun c => kept.contains c }
        (seq.toNat ≠ x.rxNext → ∀ flits, exec (.codewordRx l (.decoded false seq ack flits)) s = .next (s.setLane l heard)) ∧
        (seq.toNat = x.rxNext → exec (.codewordRx l (.decoded false seq ack [])) s =
          .next (s.setLane l { heard with rxNext := (x.rxNext + 1) % 1023, ack := seq, nak := false }))))

/-- R409 to R412, R414 to R416, R419 to R422, R443: flits received on a lane that is UP: credits and a request for replay,
a probe answered and one that measures the delay, items and written words for this node, whose place in the receive
buffer frees with the last of them; messages forwarded, too old, or out of hops; probes and time messages on their
timers. R411, R423 to R426, R445: the tunnel: the indices read once in 1 us, an entry closed into the ring, header and
flits as words, the response that advances the index, an entry received and one that is malformed. -/
def Obligations.ChainFlitsAndTunnel : Prop :=
  (∀ (s : State) (l : LaneId) (f : Flit),
    let x := s.lane l
    let u := s.setLane l { x with lastCw := s.ns }
    (x.st = .up →
      (f.type = 15 → f.vc = 0 →
        let back := [bitsOf f.h2 24 8, bitsOf f.h2 16 8, bitsOf f.h2 8 8, bitsOf f.h2 0 8]
        let credits := (x.credits.zip (back.zip fullCredits)).map fun c => min (c.1 + c.2.1) c.2.2
        (f.h3.getLsbD 31 = false → exec (.creditRx l f) s = .next (u.setLane l { x with lastCw := s.ns, credits := credits })) ∧
        (f.h3.getLsbD 31 = true → exec (.creditRx l f) s = .next ((u.setLane l { x with
          lastCw := s.ns, credits := credits, again := replayFrom x.replay (bitsOf f.h3 0 10) }).satAdd F.chnLcnt_REPLAY 1 l.toNat))) ∧
      (f.type = 8 → f.vc = 1 → f.dest = s.node → exec (.itemsFlitRx l f) s =
        .next ((f.records.foldl (fun v r => v.deliverItem f.src r) u).freePlace (some (l, 1)))) ∧
      (f.type = 9 → f.vc = 1 → f.dest = s.node → f.runWords ≠ [] →
        let words := f.runWords.zipIdx.map fun k => (k.1, if k.2 + 1 = f.runWords.length then some (l, (1 : BitVec 2)) else none)
        exec (.rwriteRx l f) s = .next ({ u with chain := { u.chain with rwWait := u.chain.rwWait ++ words } }).remoteWrites) ∧
      (f.type = 9 → f.vc = 1 → f.dest ≠ s.node → f.hops = 16 → exec (.rwriteRx l f) s =
        .next ((u.satAdd F.chnCnt_HOP 1).freePlace (some (l, 1)))) ∧
      (f.type = 8 → f.vc = 0 → exec (.itemsFlitRx l f) s = .next (u.satAdd F.chnLcnt_UNCORR 1 l.toNat)) ∧
      (f.type = 13 → f.vc = 0 → f.h2 = 0 →
        let r := u.residence
        let back : Flit :=
          ⟨0, 13, 0, 0, 0, s.node, 1, 0, body12 [f.word 0, f.word 1, r.1.extractLsb' 0 32, r.1.extractLsb' 32 32]⟩
        exec (.probeRx l f) s = .next (r.2.setLane l { r.2.lane l with links := (r.2.lane l).links ++ [back] })) ∧
      (f.type = 13 → f.vc = 0 → f.h2 ≠ 0 → x.probeAt ≠ some (f.word 1 ++ f.word 0) → exec (.probeRx l f) s = .next u) ∧
      (f.type = 11 → f.vc = 2 → (∀ n, s.baseOn n = false) → exec (.timeFlitRx l f) s = .next
        (({ u with chain := { u.chain with timeSeen := smSet 0 u.chain.timeSeen f.src.toNat (s.ns + 1) } }).freePlace (some (l, 2)))) ∧
      (x.lastProbe + 1000000 ≤ s.ns → exec (.probeTimer l) s = .next (s.setLane l { x with lastProbe := s.ns, probeDue := true })) ∧
      (s.ns < x.lastProbe + 1000000 → exec (.probeTimer l) s = .next s)) ∧
    (x.st ≠ .up → exec (.probeTimer l) s = .next s) ∧
    (∀ (g : Flit) (dn : Nat) p, g.dest = s.node → s.forward g dn p = s.deliver ⟨g, s.ns, p⟩) ∧
    (∀ (g : Flit) (dn : Nat) p, g.dest ≠ s.node → g.hops ≠ 16 →
      let h := { g.aged dn with hops := g.hops + 1 }
      (h.age.toNat < 4000 → s.forward g dn p = s.dispatch ⟨h, s.ns, p⟩) ∧
      (4000 ≤ h.age.toNat → s.forward g dn p = (s.stopAge h).freePlace p)) ∧
    (let n := BitVec.ofNat 4 (s.fld F.chnTcfg_TB)
    let b := s.base n
    s.fld F.chnTcfg_EN = 1 → s.isNet n = true → b.st = .locked ∨ b.st = .holdover →
      s.chain.lastTime + 1000 * (s.fld F.chnTcfg_PERIOD) ≤ s.ns →
      let sent := fun (v : State) => { v with chain := { v.chain with lastTime := v.ns } }
      (s.upLanes 15 = [] → exec .timeFlitTimer s = .next (sent s)) ∧
      (s.upLanes 15 = [l] → exec .timeFlitTimer s = .next (sent ((s.setBase n { b with stepDue := false }).laneSend l
        ⟨2, 11, 0, x.peer, 0, s.node, 0, 0, body12 [BitVec.ofNat 32 (2 ^ 31 * b.stepDue.toNat + b.gen.toNat)]⟩)))) ∧
    (s.fld F.chnTcfg_EN = 0 → exec .timeFlitTimer s = .next s)) ∧
  (∀ (s : State),
    let c := s.chain
    let runs := s.fld F.chnTuncfg_EN = 1 ∧ s.fld F.blkNodeid_LOADED = 1 ∧ c.tunStopped = false
    (∀ a b, runs → c.lastPoll + 1000 ≤ s.ns →
      exec (.tunnelPoll a b) s = .next { s with chain := { c with lastPoll := s.ns, txCidx := a, rxPidx := b } }) ∧
    (∀ a b, s.ns < c.lastPoll + 1000 → exec (.tunnelPoll a b) s = .next s) ∧
    (c.tun = [] → exec .tunnelEntryClose s = .next s) ∧
    (∀ e f, runs → c.tun = [e] → e.flits = [⟨f, s.ns, none⟩] → e.since + 2000 ≤ s.ns → f.age.toNat < 4000 →
      (s.txSize ≤ s.txUsed → exec .tunnelEntryClose s = .next s) ∧
      (s.txUsed < s.txSize →
        let seq := smGet 0 c.tunSeq e.dest.toNat
        let u := { s with chain := { c with tun := [], tunSeq := smSet 0 c.tunSeq e.dest.toNat (seq + 1) } }
        let at_ := s.txBase + 1536 * ((c.txPidx.toNat + s.tunnelOut) % s.txSize)
        let header := (e.dest ++ seq) ++ ((1 : BitVec 4) ++ (1 : BitVec 5) ++ (0 : BitVec 5) ++ s.node)
        exec .tunnelEntryClose s = .next (u.smRequest (.tunnel at_
          ([header.extractLsb' 0 32, header.extractLsb' 32 32] ++ f.words))))) ∧
    (∀ r, s.soc.reqs.find? SmReq.isTunnel = some r →
      let u := { s with soc := { s.soc with reqs := s.soc.reqs.erase r } }
      let v := ({ u with chain := { c with txPidx := c.txPidx + 1 } }).satAdd F.chnTunstat_ENTRIES 1
      exec (.tunnelRingWriteResponse false) s =
        .next { u.raise F.chnTunstat_WERR with chain := { c with tunStopped := true } } ∧
      (r.isTunnelEntry = true → exec (.tunnelRingWriteResponse true) s =
        .next ((v.smRequest (.tunnelIndex (v.txBase + 1536 * v.txSize) (c.txPidx + 1))).vector (v.fld F.chnTuncfg_VEC))) ∧
      (r.isTunnelEntry = false → exec (.tunnelRingWriteResponse true) s = .next u)) ∧
    (∀ header flits, runs → c.rxCidx ≠ c.rxPidx →
      let u := ({ s with chain := { c with rxCidx := c.rxCidx + 1 } }).smRequest
        (.tunnelIndex (s.rxBase + 1536 * s.rxSize) (c.rxCidx + 1))
      (tunnelEntryOk header flits = false → exec (.tunnelRxEntry header flits) s = .next (u.satAdd F.chnTunstat_BAD 1)) ∧
      (∀ f : Flit, flits = [f] → tunnelEntryOk header flits = true → f.type = 8 →
        exec (.tunnelRxEntry header flits) s = .next (u.forward { f with vc := 3 } 0 none))))

/-! ## Mirror pair -/

/-- R430, R431, R434, R437 to R441: the pair's timers and tests: heartbeats every 8 us, a partner heard, the join that
ends without one, kicks, the pad guard, a partner silent for 32 us, the test of PARTNER_OK and what it decides, the
takeover 10 us on, the end of a copy, and acknowledgements. -/
def Obligations.MirrorPair : Prop :=
  ∀ (s : State) (w : Writer) (l : LaneId) (f : Flit),
    let m := s.mirror
    let set := fun (u : State) (x : Mirror) => { u with mirror := x }
    (m.begun = true → m.stopped = false → m.lastHbSent + 8000 ≤ s.ns → s.fld F.mirCfg_EN = 0 →
      exec .heartbeatTimer s = .next (set s
        { m with hbgen := (m.hbgen + 1) % 2 ^ 32, lastHbSent := m.lastHbSent + 8000, hbAt := s.ns, armed := true })) ∧
    (m.stopped = true → exec .heartbeatTimer s = .next s) ∧
    (s.ns < m.joinAt + 1000000 * (s.fld F.mirTim_JOINTO) → exec .joinTimeout s = .next s) ∧
    (m.role = .joining → m.heard = false → m.testAt = none → m.guardAt = none → m.joinAt + 1000000 * (s.fld F.mirTim_JOINTO) ≤ s.ns →
      exec .joinTimeout s = .next (set s { m with testAt := some s.ns, testJoin := true })) ∧
    (isBlock w = true → exec (.mirKick w) s = .next (s.access w fun _ => set s { m with lastKick := s.ns }) ∧
      (m.role = .held → m.guardAt = none → exec (.mirForce w) s =
        .next (s.access w fun _ => set s { m with guardAt := some s.ns, guardJoin := false })) ∧
      (m.role ≠ .held → exec (.mirForce w) s = .next (s.access w fun _ => s))) ∧
    (s.fld F.mirCfg_KICKEN = 1 → m.begun = true → m.lastKick + 1000 * (s.fld F.mirTim_KICKP) ≤ s.ns →
      exec .kickTimeout s = .next (set s { m with stopped := true })) ∧
    (s.fld F.mirCfg_KICKEN = 0 → exec .kickTimeout s = .next s) ∧
    (m.armed = true → m.guard = false →
      let r := s.guardClockLost
      let trips := (set r.2 { m with guard := true }).refreshHold.pulse 0xA4D
      (m.hbAt + 10000 ≤ s.ns → exec .padGuardTrip s = .next trips) ∧
      (s.ns < m.hbAt + 10000 → exec .padGuardTrip s = .next (if r.1 = true then trips else r.2))) ∧
    (m.armed = false ∨ m.guard = true → exec .padGuardTrip s = .next s) ∧
    (s.partnerOkOut = true ↔ m.armed = true ∧ m.guard = false ∧ m.begun = true ∧ m.stopped = false ∧ s.ns < m.hbAt + 10000) ∧
    (m.role ∈ [.primary, .standby, .syncing] ∨ (m.role = .alone ∧ m.copying = true) → m.silent = false →
      m.lastHbRx + 32000 ≤ s.ns → exec .partnerSilence s =
        .next (((set s { m with silent := true, testAt := some s.ns, testJoin := false }).pulse 0xA49).pairNotice 2)) ∧
    (s.ns < m.lastHbRx + 32000 → exec .partnerSilence s = .next s) ∧
    (∀ t, m.testAt = some t → s.ns < t + 2000 → exec .partnerOkTestEnd s = .next s) ∧
    (∀ t, m.testAt = some t → t + 2000 ≤ s.ns →
      let alive := Config.partnerOkIn s.fresh
      let u := { s with fresh := s.fresh + 1, mirror := { m with testAt := none } }
      let rank0 := s.fld F.mirCfg_RANK = 0
      let guardStarts := fun (v : State) (join : Bool) => set v { v.mirror with guardAt := some s.ns, guardJoin := join }
      (m.testJoin = true → alive = false → exec .partnerOkTestEnd s = .next (guardStarts u true)) ∧
      (m.testJoin = true → alive = true → exec .partnerOkTestEnd s = .next u.becomeHeld.diverge) ∧
      (m.testJoin = false → m.role = .primary →
        (alive = false → exec .partnerOkTestEnd s = .next u.becomeAlone) ∧
        (alive = true → rank0 → exec .partnerOkTestEnd s = .next u.becomeAlone.diverge) ∧
        (alive = true → ¬ rank0 → exec .partnerOkTestEnd s = .next u.becomeHeld.diverge.stopShadows)) ∧
      (m.testJoin = false → m.role = .standby →
        (alive = false → exec .partnerOkTestEnd s = .next (guardStarts u false)) ∧
        (alive = true → rank0 → exec .partnerOkTestEnd s = .next (guardStarts u.diverge false)) ∧
        (alive = true → ¬ rank0 → exec .partnerOkTestEnd s = .next u.becomeHeld.diverge)) ∧
      (m.testJoin = false → m.role = .syncing →
        (alive = true → exec .partnerOkTestEnd s = .next u.becomeHeld.diverge) ∧
        (alive = false → exec .partnerOkTestEnd s = .next ((u.becomeHeld.raise F.mirStat_INCOMPLETE).pairNotice 5))) ∧
      (m.testJoin = false → m.role = .alone → exec .partnerOkTestEnd s = .next u.becomeAlone)) ∧
    (m.guardAt = none → exec .takeover s = .next s) ∧
    (∀ t, m.guardAt = some t → s.ns < t + 10000 → exec .takeover s = .next s) ∧
    (∀ t, m.guardAt = some t → t + 10000 ≤ s.ns → m.guardJoin = true →
      exec .takeover s = .next (if m.role = .joining then (set s { m with guardAt := none }).becomeAlone
        else set s { m with guardAt := none })) ∧
    (∀ t, m.guardAt = some t → t + 10000 ≤ s.ns → m.guardJoin = false → m.role ∈ [.standby, .held] → m.snaps = [] →
      m.tasks = [] →
      let u := (set s { m with guardAt := none }).becomeAlone
      exec .takeover s = .next ((((set u { u.mirror with snaps := [], tasks := [], early := [] }).satAdd F.mirCnt_TAKE 1).pulse
        0xA4A).pairNotice 3)) ∧
    (m.role = .syncing → m.based = true → m.early = [] →
      exec .mirrorCopyComplete s = .next ((s.setRole .standby).pairNotice 1)) ∧
    (m.role = .syncing → m.based = false ∨ m.early ≠ [] → exec .mirrorCopyComplete s = .next s) ∧
    (m.role ≠ .syncing → m.copying = true → m.copied = true → m.egress = [] → m.acked = m.sent →
      exec .mirrorCopyComplete s = .next ((s.endPairing.setRole .primary).pairNotice 1)) ∧
    (m.role ≠ .syncing → m.copying = false → exec .mirrorCopyComplete s = .next s) ∧
    (s.pairing = false → exec .mirrorTbSnapshot s = .next s) ∧
    (let x := s.lane l
    let u := s.setLane l { x with lastCw := s.ns }
    let vc2 := f.vc = 2 ∧ x.st = .up
    (vc2 → f.type = 10 → s.fld F.mirCfg_EN = 0 → exec (.heartbeatRx l f) s = .next (u.freePlace (some (l, 2)))) ∧
    (vc2 → f.type = 12 → f.src.toNat = s.fld F.mirCfg_PARTNER → l ∈ u.mirrorLanes →
      let a : BitVec 20 := f.h2.extractLsb' 0 20
      ((a - m.acked).toNat < 2 ^ 19 → exec (.mackRx l f) s = .next ((set u { m with acked := a }).freePlace (some (l, 2)))) ∧
      (2 ^ 19 ≤ (a - m.acked).toNat → exec (.mackRx l f) s = .next (u.freePlace (some (l, 2))))) ∧
    (f.type = 1 → f.vc = 0 → x.st = .up → s.applying = false →
      exec (.mirrorFlitRx l f) s = .next ((u.satAdd F.mirCnt_REJ 1).freePlace (some (l, 0)))))

/-! ## Faults -/

/-- R448, R451, R452, R453, R462, R464: a fault event of a class below 12, detected or injected, is counted, its source
pulses and its alarm is raised; then, unless its instance is out of service, THRESH decides: 0 nothing, 1 the class
action, else the event is tracked in its window of WINDOW µs, and the action comes at the threshold or when the table
is full. R163, R176, R177: an uncorrectable word of a core-local memory waits for the load that finds it, one of a pin
engine faults the fetching channel; a memory with no spare line left retires none. R461: an alarm drives its SAFE_ALM
pair. -/
def Obligations.FaultEvents : Prop :=
  ∀ (s : State) (cls : BitVec 4) (inst : BitVec 24),
    let c := cls.toNat
    let thresh := s.fld F.fltScfg_THRESH c
    let counted := fun (s : State) =>
      ((((s.satAdd F.fltScnt_EVENTS 1 c).setReg .fltSlast (0x80000000 ||| inst.setWidth 32) c).pulse (0xA80 + c)).alarm
        (s.fld F.fltScfg_ALM c) c)
    let track := fun (s : State) (l : List Track) => { s with faults := { s.faults with track := l } }
    let live := fun (s : State) =>
      s.faults.track.filter fun e => decide (s.ns < e.w + 1000 * (s.fld F.fltScfg_WINDOW e.cls.toNat))
    let mine := fun (e : Track) => e.cls == cls && e.inst == inst
    let taken := { s with faults := { s.faults with events := s.faults.events.erase (cls, inst) } }
    let found := fun (v : State) (m : Nat) =>
      if m < 0x30 then { v with faults := { v.faults with found := v.faults.found ++ [(m, lineOf inst)] } }
      else if 0x40 ≤ m then v.fetchFault (BitVec.ofNat 6 m) (lineOf inst) else v
    c ≤ 11 →
      exec (.faultEvent cls inst) s = .next ((if c = 0 then taken.countEcc (memIdOf inst) true
        else if c = 1 then found (taken.countEcc (memIdOf inst) false) (memIdOf inst) else taken).countEvent cls inst) ∧
      (∀ m line, (if m = 0x35 then 16 else if 0x40 ≤ m then 4 else 64) ≤ s.spares m → s.retireLine m line = s) ∧
      (∀ w : Writer, isBlock w = true →
        exec (.faultInject w cls inst) s = .next (s.access w fun s => s.countEvent cls inst)) ∧
      (∀ w : Writer, isBlock w = false → exec (.faultInject w cls inst) s = .next (s.access w fun s => s.authorityFault w)) ∧
      (let u := counted s
       (u.outOfService (s.fld F.fltScfg_ACTION c) inst = true → s.countEvent cls inst = u) ∧
       (u.outOfService (s.fld F.fltScfg_ACTION c) inst = false →
        (thresh = 0 → s.countEvent cls inst = u) ∧
        (thresh = 1 → s.countEvent cls inst = u.act cls inst) ∧
        (2 ≤ thresh → u.fld F.fltScfg_THRESH c = thresh →
          ((live u).find? mine = none → (live u).length < 256 →
            s.countEvent cls inst = track u (live u ++ [⟨cls, inst, 1, u.ns⟩])) ∧
          ((live u).find? mine = none → 256 ≤ (live u).length →
            s.countEvent cls inst = ((track u (live u)).satAdd F.fltStat_TOVF 1).act cls inst) ∧
          (∀ e, (live u).find? mine = some e → e.n + 1 < thresh →
            s.countEvent cls inst = track u ((live u).map fun x => if mine x then { x with n := x.n + 1 } else x)) ∧
          (∀ e, (live u).find? mine = some e → thresh ≤ e.n + 1 →
            s.countEvent cls inst = (track u ((live u).erase e)).act cls inst)))) ∧
      (∀ level, 1 ≤ level → level ≤ 3 → ((s.alarm level c).safeAlm (level - 1)) = (true, false)) ∧
      (let v := ((s.satAdd F.fltScnt_ACTIONS 1 c).pulse (0xA90 + c)).alarm (s.fld F.fltScfg_ALM c) c
       let told := fun (a : BitVec 4) (u : State) =>
         u.notice .faultUnit (u.faultQueue 0) (mkItem true 15 0xA (senderUnit 7) (cls ++ a ++ inst))
       (s.fld F.fltScfg_ACTION c = 0 ∨ s.fld F.fltScfg_ACTION c = 5 → s.act cls inst = v) ∧
       (s.fld F.fltScfg_ACTION c = 1 → s.act cls inst = told 1 (v.retireLine (memIdOf inst) (lineOf inst))) ∧
       (s.fld F.fltScfg_ACTION c = 2 → s.act cls inst = told 2 (v.laneFault (inst.setWidth 2))) ∧
       (s.fld F.fltScfg_ACTION c = 3 → s.act cls inst = told 3 (v.fencePort (inst.setWidth 9) 1)) ∧
       (s.fld F.fltScfg_ACTION c = 4 →
         s.act cls inst = told 4 ((v.enterSafe (inst.setWidth 9) .latched).report (inst.setWidth 9) 0 5)) ∧
       (s.fld F.fltScfg_ACTION c = 6 → s.act cls inst = told 6 (v.loseCore (inst.setWidth 5) c)) ∧
       (s.fld F.fltScfg_ACTION c = 7 → s.act cls inst = told 7 (v.loseRegion (memIdOf inst) c)) ∧
       (s.fld F.fltScfg_ACTION c = 8 → s.act cls inst = told 8 (v.loseBlock c)))

/-! ## Resets -/

/-- R69, R303, R466, R477, R480, R501, R502: after a cold reset every thread is UNRELEASED with its reset values, TB0 is
0, memories, queues, channels, tasks and fault tracking are empty, the seal is lifted, T0INC holds 0xAAAAAAAB, and the
ember content is kept when its sentinel is good, lost otherwise; in life-cycle state END the boot fails. R465, R466,
R480, R487, R542, R555: who may request a reload; a reload that runs already is kept and HERR set; otherwise it
applies once no response of the system master port is outstanding. TB0, T0INC, the ember domain and the epochs, one
further, are kept; everything else is as after a cold reset. -/
def Obligations.ColdResetAndReload : Prop :=
  (∀ (s : State) (straps : Byte) (hold : Bool) (lc : BitVec 3), ∃ u : State,
    exec (.coldReset straps hold lc) s = .next u ∧ u.tbSum = 0 ∧ u.mem = [] ∧ (∀ t, u.thr t = {}) ∧ (∀ q, u.queue q = {}) ∧
      (∀ ch, u.chan ch = {}) ∧ (∀ k, u.task k = {}) ∧ u.pend = [] ∧ u.mirror = {} ∧ u.faults = {} ∧ u.boot.seald = false ∧
      u.boot.dvalid = false ∧ u.boot.hold = hold ∧ u.boot.excluded = none ∧ u.soc.lc = lc ∧ u.pending = s.pending ∧
      u.reg .tbT0inc = 0xAAAAAAAB ∧ u.fld F.bootStrap_BOOT_CFG = straps.toNat ∧
      ((lc = 1 ∨ lc = 2 ∨ lc = 4 ∨ lc = 6) → u.boot.stage = .rom) ∧
      (¬ (lc = 1 ∨ lc = 2 ∨ lc = 4 ∨ lc = 6) → u.boot.stage = .failed ∧ u.boot.err = 6 ∧ u.bit F.fltAlm_FATAL = true) ∧
      (s.ember.sentA = 0x454D4252 ∧ s.ember.sentB = 0xBAB2BDAD →
        u.ember = { s.ember with lastTick := 0 } ∧ u.reg .embTaioff = s.reg .embTaioff ∧ ∀ i < 16, u.reg .embScr i = s.reg .embScr i) ∧
      (¬ (s.ember.sentA = 0x454D4252 ∧ s.ember.sentB = 0xBAB2BDAD) →
        u.ember = { retok := s.ember.retok } ∧ u.reg .embTaioff = 0 ∧ (∀ i < 16, u.reg .embScr i = 0) ∧
          u.bit F.embStat_CAL_LOST = true ∧ u.bit F.embStat_EMB_LOST = true)) ∧
  (∀ (s : State) (straps : Byte) (hold : Bool) (lc : BitVec 3),
    (∀ t : Tid, t ≠ 0 → exec (.reload (.bootCtl (.thread t)) straps hold lc) s = .next (s.authorityFault (.thread t))) ∧
    exec (.reload (.bootCtl (.thread 0)) straps hold lc) s = .next (s.requestReload 1 straps hold lc) ∧
    (s.fld F.hstSvccfg_RLDEN = 1 → exec (.reload .service straps hold lc) s = .next (s.requestReload 2 straps hold lc)) ∧
    (s.fld F.hstSvccfg_RLDEN = 0 → exec (.reload .service straps hold lc) s = .next s) ∧
    (s.soc.lc = 1 ∨ s.soc.lc = 2 ∨ s.soc.lc = 4 ∨ s.soc.lc = 6 →
      exec (.reload .debugPort straps hold lc) s = .next (s.requestReload 3 straps hold lc).dpReply) ∧
    (¬ (s.soc.lc = 1 ∨ s.soc.lc = 2 ∨ s.soc.lc = 4 ∨ s.soc.lc = 6) →
      exec (.reload .debugPort straps hold lc) s = .next s.dpReply) ∧
    (s.fld F.hstSvccfg_RLDEN = 0 → ∀ v : Word, exec (.serviceReloadRequest true v straps hold lc) s =
      .next (s.satAdd F.hstHerr_ERR 1).hostReply) ∧
    (s.fld F.hstSvccfg_RLDEN = 1 →
      (∀ v : Word, v ≠ 0xA5C30001 → exec (.serviceReloadRequest true v straps hold lc) s = .next (s.satAdd F.hstHerr_ERR 1).hostReply) ∧
      (∀ v : Word, exec (.serviceReloadRequest false v straps hold lc) s = .next (s.satAdd F.hstHerr_ERR 1).hostReply) ∧
      exec (.serviceReloadRequest true 0xA5C30001 straps hold lc) s = .next (s.hostReply.requestReload 2 straps hold lc)) ∧
    (∀ src : Nat, src < 16 →
      (s.reloading = true → s.requestReload src straps hold lc = s.setFld F.bootHstat_HERR 1) ∧
      (s.reloading = false → s.soc.reqs ≠ [] → s.requestReload src straps hold lc =
        { s.pairDown with soc := { s.soc with due := some (.reload src straps hold lc) } }) ∧
      (s.reloading = false → s.soc.reqs = [] → ∃ u, s.requestReload src straps hold lc = u ∧ u.tbSum = s.tbSum ∧ u.mem = [] ∧
        (∀ t, u.thr t = { epoch := (s.thr t).epoch + 1, roleBusy := some (s.cycle + 1025) }) ∧ (∀ q, u.queue q = {}) ∧
        (∀ ch, u.chan ch = {}) ∧ (∀ k, u.task k = {}) ∧ u.pend = [] ∧ u.mirror = {} ∧ u.faults = {} ∧ u.ember = s.ember ∧
        u.boot.seald = false ∧ u.boot.dvalid = false ∧ u.boot.hold = hold ∧ u.boot.excluded = s.boot.excluded ∧ u.soc.lc = lc ∧
        u.reg .tbT0inc = s.reg .tbT0inc ∧ u.fld F.bootCause_SOURCE = src ∧ u.fld F.bootCause_KIND = 1 ∧
        u.fld F.bootCause_RELOADS = min 65535 (s.fld F.bootCause_RELOADS + 1))))

/-- R49, R139, R271, R465, R466, R484: a warm or hearth reset needs the seal and no FATAL alarm, a hearth reset another
hearth than 0 and no hearth reset that runs; what each leaves. -/
def Obligations.WarmAndHearthReset : Prop :=
  ∀ (s : State) (w : Writer), isBlock w = true →
    (s.boot.seald = false ∨ s.fld F.fltAlm_FATAL = 1 →
      exec (.warmReset w) s = .next (s.access w fun s => s.setFld F.bootHstat_HERR 1) ∧
      ∀ h : HearthId, exec (.hearthReset w h) s = .next (s.access w fun s => s.setFld F.bootHstat_HERR 1)) ∧
    (∀ h : HearthId, h = 0 ∨ s.boot.hearth ≠ none →
      exec (.hearthReset w h) s = .next (s.access w fun s => s.setFld F.bootHstat_HERR 1)) ∧
    (s.boot.seald = true → s.fld F.fltAlm_FATAL = 0 → s.soc.reqs = [] → ∃ u : State,
      exec (.warmReset w) s = .next (s.access w fun _ => if s.boot.stage = .hold then u else u.releaseRel true true) ∧
      u.mem = s.mem ∧ u.pmem = s.pmem ∧ u.tbSum = s.tbSum ∧ u.boot = s.boot ∧ u.ember = s.ember ∧ u.queues = [] ∧ u.pend = [] ∧
      (∀ t, (u.thr t).st = .unreleased ∧ (u.thr t).epoch = (s.thr t).epoch + 1 ∧ (u.thr t).prio = (s.thr t).prio) ∧
      (∀ c, (u.core c).mode = .service) ∧ (∀ k, (u.task k).enabled = false) ∧ u.fld F.sigCfg_DIRON = 0 ∧ u.mirror = {} ∧
      (∀ kv ∈ u.cache, ∀ l, kv.2 = some l → l.pinned = true) ∧ u.fld F.bootCause_KIND = 2) ∧
    (∀ h : HearthId, h ≠ 0 → s.boot.seald = true → s.fld F.fltAlm_FATAL = 0 → s.boot.hearth = none → ∃ u : State,
      exec (.hearthReset w h) s = .next (s.access w fun _ => u.orphanNotices h) ∧
      (∀ t, hearthOf t = h → (u.thr t).st = .unreleased ∧ (u.thr t).epoch = (s.thr t).epoch + 1) ∧
      (∀ c, hearthOfCore c = h → (u.core c).mode = .recovery) ∧
      (∀ a, 0x01000000 + 0x100000 * h.toNat ≤ a → a < 0x01000000 + 0x100000 * (h.toNat + 1) → memByte u.mem a = 0) ∧
      (∀ a, ¬ (0x01000000 + 0x100000 * h.toNat ≤ a ∧ a < 0x01000000 + 0x100000 * (h.toNat + 1)) → memByte u.mem a = memByte s.mem a) ∧
      h ∈ u.faults.hearths ∧ u.boot.hearth = some h ∧ u.fld F.bootHstat_BUSY = 1 ∧ u.fld F.bootHstat_HEARTH = h.toNat ∧
      u.fld F.bootCause_KIND = 3 ∧ u.tbSum = s.tbSum)

/-! ## Start-up -/

/-- R468 to R476, R483: the headers of both copies: the newer valid copy that is not excluded is selected, copy A when
they are equally new; without one the boot fails. R467, R473, R476, R478, R480: a section's records as they arrive;
one that is good moves the load on; one that is not ends it, or starts a reload that considers the other copy only;
the release of the critical masters; the digest; a flash that does not answer. -/
def Obligations.BilletSelectionAndLoad : Prop :=
  (∀ (s : State) (a b : List Byte),
    let off := 2 ^ (21 + (s.reg .bootStrap).toNat % 8)
    let chosen := fun (copyB : Bool) (x : Word × Nat × List SectEntry) (bytes : List Byte) => { s with boot := { s.boot with
      stage := .critical, copyB := copyB, seq := x.1, total := x.2.1, table := x.2.2, next := 0, stream := bytes } }
    (s.boot.stage ≠ .rom → exec (.billetHeadersRead a b) s = .next s) ∧
    (s.boot.stage = .rom →
      (∀ x y, parseCopy a = some x → parseCopy b = some y → x.2.1 ≤ off → s.boot.excluded = none →
        (1 ≤ (y.1 - x.1).toNat ∧ (y.1 - x.1).toNat < 2 ^ 31 →
          exec (.billetHeadersRead a b) s = .next (chosen true y b)) ∧
        (¬ (1 ≤ (y.1 - x.1).toNat ∧ (y.1 - x.1).toNat < 2 ^ 31) →
          exec (.billetHeadersRead a b) s = .next (chosen false x a))) ∧
      (∀ x, parseCopy a = some x → x.2.1 ≤ off → s.boot.excluded ≠ some false → parseCopy b = none ∨ s.boot.excluded = some true →
        exec (.billetHeadersRead a b) s = .next (chosen false x a)) ∧
      (∀ y, parseCopy b = some y → s.boot.excluded ≠ some true →
        (parseCopy a = none ∨ (∃ x, parseCopy a = some x ∧ off < x.2.1) ∨ s.boot.excluded = some false) →
        exec (.billetHeadersRead a b) s = .next (chosen true y b)) ∧
      (parseCopy a = none → parseCopy b = none → s.fld F.bootCause_SOURCE ≠ 4 →
        exec (.billetHeadersRead a b) s = .next (s.bootFail 1 0)) ∧
      (parseCopy a = none → parseCopy b = none → s.fld F.bootCause_SOURCE = 4 →
        exec (.billetHeadersRead a b) s = .next (s.bootFail s.boot.lastErr s.boot.lastSec))) ∧
    (∀ err sec : Byte, (s.bootFail err sec).boot = { s.boot with stage := .failed, err := err, errsec := sec } ∧
      (s.bootFail err sec).bit F.fltAlm_FATAL = true)) ∧
  (∀ s : State,
    (∀ (gap bytes : List Byte) (e : SectEntry),
      s.boot.table[s.boot.next]? = some e → s.boot.stage = .critical ∨ s.boot.stage = .rest → s.soc.due = none →
      s.boot.stream.length + gap.length = e.offset → bytes.length = e.length →
      let u := { s with boot := { s.boot with stream := s.boot.stream ++ gap ++ bytes } }
      let r := u.loadSection e bytes
      let sec := BitVec.ofNat 8 r.1.boot.next
      (crc32c bytes = e.crc → r.2 = true → ∃ v, exec (.sectionLoaded gap bytes) s = .next v ∧ v.mem = r.1.mem ∧ v.pmem = r.1.pmem ∧
        v.boot.next = r.1.boot.next + 1 ∧ v.boot.stream = r.1.boot.stream ∧
        v.boot.stage = (if r.1.boot.table.drop (r.1.boot.next + 1) = [] then .sealing
          else if (r.1.boot.table.drop (r.1.boot.next + 1)).any SectEntry.crit then .critical else .rest)) ∧
      (∀ err : Byte, (crc32c bytes ≠ e.crc ∧ err = 2) ∨ (crc32c bytes = e.crc ∧ r.2 = false ∧ err = 3) →
        (r.1.boot.excluded ≠ none → exec (.sectionLoaded gap bytes) s = .next (r.1.bootFail err sec)) ∧
        (r.1.boot.excluded = none → ∃ straps hold, exec (.sectionLoaded gap bytes) s = .next
          ({ r.1 with fresh := r.1.fresh + 1
                      boot := { r.1.boot with excluded := some r.1.boot.copyB, fallback := true, lastErr := err, lastSec := sec } }.resetDue
            (.reload 4 straps hold r.1.soc.lc))))) ∧
    (s.boot.critDone = true → s.boot.hold = false → s.boot.released = false → s.boot.stage = .rest ∨ s.boot.stage = .sealing →
      exec .criticalRelease s =
        .next ((({ s with boot := { s.boot with released := true } }).setReg .bootTcrit s.tb0w).releaseRel true false)) ∧
    (s.boot.critDone = false ∨ s.boot.hold = true ∨ s.boot.released = true → exec .criticalRelease s = .next s) ∧
    (∀ tail : List Byte, s.boot.table ≠ [] → s.boot.next = s.boot.table.length → s.boot.dvalid = false → s.boot.stage ≠ .failed →
      s.boot.stage ≠ .hold → s.boot.stream.length + tail.length = s.boot.total →
      ∃ u, exec (.digestValid tail) s = .next u ∧ u.boot.dvalid = true ∧ u.boot.stage = s.boot.stage ∧
        ∀ i < 8, u.reg .bootDigest i = (sha256 (s.boot.stream ++ tail)).getD i 0) ∧
    (s.boot.stage = .rom ∨ s.boot.stage = .critical ∨ s.boot.stage = .rest → s.soc.due = none →
      exec .flashTimeout s = .next (s.bootFail 4 0)))

/-- R481, R482, R483, R49: the seal and what follows it: the masters that wait are released at the seal, or under hold
when the digest is valid and BOOT_GO is 1; a failed check ends the boot. R464, R484, R491: a hearth reset ends when
its CORE sections have been read: with good sections its masters are released, BUSY is 0 and the hearth is in service
again; a bad one leaves its threads as they are and sets HERR and CORE_CRC. -/
def Obligations.SealReleaseAndHearth : Prop :=
  (∀ s : State,
    (s.boot.stage ≠ .sealing → exec .seal s = .next s) ∧
    (s.boot.stage = .sealing → s.boot.hold = true ∨ s.boot.released = true → s.soc.due = none →
      (∀ n, s.sealCheck = some n → ∃ u, exec .seal s = .next u ∧ u.boot.stage = .failed ∧ u.boot.err = 5 ∧
        u.boot.errsec = BitVec.ofNat 8 n ∧ u.boot.seald = s.boot.seald ∧ u.bit F.fltAlm_FATAL = true ∧
        (s.boot.released = false → u = s.bootFail 5 (BitVec.ofNat 8 n))) ∧
      (s.sealCheck = none → ∃ u : State, u.boot.seald = true ∧ u.reg .bootTfull = s.tb0w ∧ (∀ c, (u.core c).mode ≠ .startup) ∧
        (s.boot.hold = false → u.boot.stage = .run ∧ exec .seal s = .next (u.releaseRel false true)) ∧
        (s.boot.hold = true → s.boot.dvalid = false ∨ s.soc.bootGo = false → u.boot.stage = .hold ∧ exec .seal s = .next u) ∧
        (s.boot.hold = true → s.boot.dvalid = true → s.soc.bootGo = true →
          u.boot.stage = .run ∧ exec .seal s = .next (u.releaseRel true true)))) ∧
    (let u := { s with soc := { s.soc with bootGo := true } }
     (s.boot.stage = .hold → s.boot.dvalid = true →
       exec .bootGo s = .next ({ u with boot := { u.boot with stage := .run } }.releaseRel true true)) ∧
     (s.boot.stage ≠ .hold ∨ s.boot.dvalid = false → exec .bootGo s = .next u))) ∧
  (∀ (s : State) (sections : List (List Byte)),
    (s.boot.hearth = none → exec (.hearthResetComplete sections) s = .next s) ∧
    (∀ h, s.boot.hearth = some h → (s.dom h.toNat).st ≠ .on → exec (.hearthResetComplete sections) s = .next s) ∧
    (∀ h, s.boot.hearth = some h → (s.dom h.toNat).st = .on →
      (s.coreSections h).map (fun x => x.2.length) = sections.map List.length →
      let r := s.reloadCores ((s.coreSections h).zip sections)
      (r.2 = none → ∃ u, exec (.hearthResetComplete sections) s = .next u ∧ u.fld F.bootHstat_BUSY = 0 ∧ u.boot.hearth = none ∧
        h ∉ u.faults.hearths) ∧
      (∀ i, r.2 = some i → ∃ u, exec (.hearthResetComplete sections) s = .next u ∧ u.threads = r.1.threads ∧
        u.fld F.bootHstat_BUSY = 0 ∧ u.fld F.bootHstat_HERR = 1 ∧ u.boot.hearth = none ∧ u.boot.err = 7 ∧
        u.boot.errsec = BitVec.ofNat 8 i)))

/-! ## The ember domain -/

/-- R492 to R495, R500: a second that is due: each field carries into the next, the month ends on its last day, the
calendar stops at the end of 2999, and the wake timer counts; without a second due, or with a set at the same tick,
nothing happens. The day of the week and the latching read of CAL0 (R497, R504). R491, R496, R497, R505: GO checks
SET0 and SET1 (with the writes still on their way): the first failure is the reason; a good value waits for the second
tick and then applies whole. -/
def Obligations.Calendar : Prop :=
  (∀ s : State,
    let e := s.ember
    let ends := e.year = 2999 ∧ e.month = 12 ∧ e.day = 31 ∧ e.hour = 23 ∧ e.min = 59 ∧ e.sec = 59
    (e.secDue = false ∨ e.setDue = true → exec .calendarSecond s = .next s) ∧
    (e.secDue = true → e.setDue = false → ends →
      exec .calendarSecond s = .next { s with ember := { e with sub := 0, secDue := false, calend := true } }) ∧
    (e.secDue = true → e.setDue = false → ¬ ends →
      let passed := fun (x : Ember) => ({ s with ember := { x with sub := 0, secDue := false } }).timerSecond
      let midnight := e.sec = 59 ∧ e.min = 59 ∧ e.hour = 23
      (e.sec < 59 → exec .calendarSecond s = .next (passed { e with sec := e.sec + 1 })) ∧
      (e.sec = 59 → e.min < 59 → exec .calendarSecond s = .next (passed { e with min := e.min + 1, sec := 0 })) ∧
      (e.sec = 59 → e.min = 59 → e.hour < 23 → exec .calendarSecond s = .next (passed { e with hour := e.hour + 1, min := 0, sec := 0 })) ∧
      (midnight → e.day < lastDay e.year e.month → exec .calendarSecond s =
        .next (passed { e with hour := 0, min := 0, sec := 0, day := e.day + 1 })) ∧
      (midnight → e.day = lastDay e.year e.month → e.month < 12 →
        exec .calendarSecond s = .next (passed { e with hour := 0, min := 0, sec := 0, month := e.month + 1, day := 1 })) ∧
      (midnight → e.day = lastDay e.year e.month → e.month = 12 →
        exec .calendarSecond s = .next (passed { e with hour := 0, min := 0, sec := 0, year := e.year + 1, month := 1, day := 1 }))) ∧
    (∀ y m, lastDay y m = if m = 2 then (if y % 4 = 0 ∧ (y % 100 ≠ 0 ∨ y % 400 = 0) then 29 else 28)
      else if m = 4 ∨ m = 6 ∨ m = 9 ∨ m = 11 then 30 else 31) ∧
    (let n := s.fld F.embWtimer_COUNT
     (n = 0 → s.timerSecond = s) ∧
     (n ≠ 0 → ∃ u, s.timerSecond = u ∧ u.fld F.embWtimer_COUNT = n - 1 ∧ u.ember = { e with timerDue := e.timerDue || n == 1 })) ∧
    (e.timerDue = true → ∃ u, exec .wakeTimerFired s = .next u ∧ u.bit F.embWtimer_FIRED = true ∧ u.ember.timerDue = false) ∧
    (e.timerDue = false → exec .wakeTimerFired s = .next s) ∧
    (dayOfWeek 0 = 6 ∧ (∀ k, dayOfWeek (k + 7) = dayOfWeek k) ∧ ∀ k, dayOfWeek (k + 1) = dayOfWeek k % 7 + 1) ∧
    (∀ mst : Master, mst.toNat < 44 → ∃ u, exec (.cal0Read mst) s = .next u ∧ u.answer = s.cal0View.setWidth 64 ∧
      u.latched mst 8 0 = s.cal1View ∧ u.latched mst 8 1 = s.cal2View ∧ u.regs = s.regs ∧ u.ember = e)) ∧
  (∀ s : State,
    let v0 := s.embLatest .embSet0
    let v1 := s.embLatest .embSet1
    let y := (v1.extractLsb' 16 12).toNat
    let m := (v1.extractLsb' 8 4).toNat
    let d := (v1.extractLsb' 0 5).toNat
    let hr := (v0.extractLsb' 16 5).toNat
    let mi := (v0.extractLsb' 8 6).toNat
    let sc := (v0.extractLsb' 0 6).toNat
    let yearOk := 2000 ≤ y ∧ y ≤ 2999
    let monthOk := yearOk ∧ 1 ≤ m ∧ m ≤ 12
    let dayOk := monthOk ∧ 1 ≤ d ∧ d ≤ lastDay y m
    let hourOk := dayOk ∧ hr ≤ 23
    let minOk := hourOk ∧ mi ≤ 59
    let good := minOk ∧ sc ≤ 59
    let rejected := fun (w : Writer) (code : Nat) =>
      s.access w fun _ => (s.setFld F.embCalerr_ERR 1).setFld F.embCalerr_REASON code
    (∀ w : Writer, isBlock w = false → exec (.calendarSet w) s = .next (s.access w fun s => s.authorityFault w)) ∧
    (∀ w : Writer, isBlock w = true →
      (¬ yearOk → exec (.calendarSet w) s = .next (rejected w 1)) ∧
      (yearOk → ¬ monthOk → exec (.calendarSet w) s = .next (rejected w 2)) ∧
      (monthOk → ¬ dayOk → exec (.calendarSet w) s = .next (rejected w 3)) ∧
      (dayOk → ¬ hourOk → exec (.calendarSet w) s = .next (rejected w 4)) ∧
      (hourOk → ¬ minOk → exec (.calendarSet w) s = .next (rejected w 5)) ∧
      (minOk → ¬ good → exec (.calendarSet w) s = .next (rejected w 6)) ∧
      (good → s.ember.setPend.isSome = true → exec (.calendarSet w) s = .next (rejected w 7)) ∧
      (good → s.ember.setPend = none → exec (.calendarSet w) s = .next (s.access w fun _ =>
        { s.setFld F.embCalerr_PEND 1 with ember := { s.ember with setPend := some (2, v0, v1) } }))) ∧
    (∀ a0 a1 : Word, s.ember.setPend = some (0, a0, a1) → exec .calendarSetApply s =
      .next { (s.setFld F.embCalerr_PEND 0).setFld F.embCalerr_REASON 0 with ember := { s.ember with
        year := (a1.extractLsb' 16 12).toNat, month := (a1.extractLsb' 8 4).toNat, day := (a1.extractLsb' 0 5).toNat
        hour := (a0.extractLsb' 16 5).toNat, min := (a0.extractLsb' 8 6).toNat, sec := (a0.extractLsb' 0 6).toNat
        sub := 0, valid := true, calend := false, setPend := none, setDue := false, secDue := false } }) ∧
    ((∀ a0 a1 : Word, s.ember.setPend ≠ some (0, a0, a1)) → exec .calendarSetApply s = .next s))

/-- R492, R499, R500 to R503: the ember tick counts SUB while the calendar is valid and not at its end, brings writes and
a set nearer and samples the wake ports; a recognised wake sets its bit; EMB_RETOK and the sentinel; the clock that
stops. -/
def Obligations.EmberTicksAndWakes : Prop :=
  ∀ s : State,
    let e := s.ember
    (∀ pins : BitVec 32, e.setPend = none → e.secDue = false → e.wakeDue = [] → e.timerDue = false → e.writes = [] →
      ∃ u, exec (.emberTick pins) s = .next u ∧ u.regs = s.regs ∧ u.ember.clkstop = false ∧
        (e.valid = false ∨ e.calend = true → u.ember.sub = e.sub ∧ u.ember.secDue = false) ∧
        (e.valid = true → e.calend = false → e.sub < 32767 → u.ember.sub = e.sub + 1 ∧ u.ember.secDue = false) ∧
        (e.valid = true → e.calend = false → e.sub = 32767 → u.ember.sub = 32767 ∧ u.ember.secDue = true) ∧
        (u.ember.year = e.year ∧ u.ember.month = e.month ∧ u.ember.day = e.day ∧ u.ember.hour = e.hour ∧ u.ember.min = e.min ∧
          u.ember.sec = e.sec) ∧
        (∀ p < 32, s.fld F.embWcfg_MODE p = 0 → BitVec.ofNat 5 p ∉ u.ember.wakeDue) ∧
        (∀ p < 32, s.fld F.embWcfg_MODE p = 2 → s.fld F.embWcfg_FILT p = 1 → smGet 0 e.filt p = 0 → pins.getLsbD p = true →
          BitVec.ofNat 5 p ∈ u.ember.wakeDue)) ∧
    (∀ p : BitVec 5, (p ∈ e.wakeDue → ∃ u, exec (.wakeRecognised p) s = .next u ∧ (u.reg .embWstat).getLsbD p.toNat = true ∧
        u.ember = { e with wakeDue := e.wakeDue.erase p }) ∧
      (p ∉ e.wakeDue → exec (.wakeRecognised p) s = .next s)) ∧
    exec .retokFall s = .next { s with ember := { e with retok := false, sentA := 0, sentB := 0 } } ∧
    (e.sentA = 0x454D4252 → e.sentB = 0xBAB2BDAD → exec .retokRise s = .next { s with ember := { e with retok := true } }) ∧
    (¬ (e.sentA = 0x454D4252 ∧ e.sentB = 0xBAB2BDAD) → ∃ u, exec .retokRise s = .next u ∧
      u.ember = { retok := true, lastTick := e.lastTick } ∧ u.bit F.embStat_CAL_LOST = true ∧
      u.bit F.embStat_EMB_LOST = true ∧ u.reg .embTaioff = 0 ∧ (∀ i < 16, u.reg .embScr i = 0) ∧
      u.mem = s.mem ∧ u.threads = s.threads) ∧
    (e.lastTick + 1000000 ≤ s.ns → exec .emberClockStop s = .next { s with ember := { e with clkstop := true } }) ∧
    (s.ns < e.lastTick + 1000000 → exec .emberClockStop s = .next s)

/-! ## Registers, the host port and the fabric -/

/-- R518, R553, R554, R555: the host reads registers without a side effect but the latches of its own latching pairs; its
writes of the view are answered ERR and unmapped offsets NOMAP, both counted; STAT of the service page. R391, R393,
R517, R521, R525, R552: credits that return, and the waiting request that the port then grants; a grant goes to the
input of the largest credit, the first after the last winner among equals, and moves the credits of its node alone; a
vector raised, the response to its write, and its line's pulse of 64 cycles. -/
def Obligations.HostAndFabricPorts : Prop :=
  (∀ s : State,
    (∀ (off : BitVec 24) (two : Bool), off.toNat < 0x400000 → off.toNat % (if two then 8 else 4) = 0 → ∃ u v : State,
      exec (.hostViewRead off two) s = .next u ∧ u = { v with soc := s.hostReply.soc } ∧
        v = { s with answer := v.answer, latches := v.latches, fresh := v.fresh } ∧
        (∀ mst : Master, mst ≠ 0x2A → ∀ k < 16, ∀ n : BaseId, v.latched mst k n = s.latched mst k n) ∧
        (two = false → locate off.toNat = none → v.answer = 0)) ∧
    (∀ i : Byte, ∃ u, exec (.hostViewRead (BitVec.ofNat 24 (0x1C1000 + 16 * i.toNat + 8)) false) s = .next u ∧
      u.answer = (s.reg .hstVdata i.toNat).setWidth 64) ∧
    (∀ i : Byte, ∃ u, exec (.hostViewRead (BitVec.ofNat 24 (0x1C1000 + 16 * i.toNat)) true) s = .next u ∧
      u.answer = s.regView .hstVaddrh i.toNat 0 ++ s.regView .hstVaddrl i.toNat 0) ∧
    (∀ (off : BitVec 24) (two : Bool), off.toNat < 0x400000 → off.toNat % (if two then 8 else 4) ≠ 0 →
      exec (.hostViewRead off two) s = .next (s.satAdd F.hstHerr_ERR 1).hostReply) ∧
    (∀ off : BitVec 24, exec (.hostViewWrite off) s = .next (s.satAdd F.hstHerr_ERR 1).hostReply) ∧
    (∀ off : BitVec 24, 0x801000 ≤ off.toNat → exec (.hostUnmappedAccess off) s = .next (s.satAdd F.hstHerr_NOMAP 1).hostReply) ∧
    (∃ u, exec .serviceStatRead s = .next u ∧ u.answer.extractLsb' 0 16 = BitVec.ofNat 16 (s.fld F.bootCause_RELOADS) ∧
      u.answer.getLsbD 26 = s.bit F.hstSvccfg_RLDEN ∧ u.answer.getLsbD 27 = s.boot.seald)) ∧
  (∀ s : State,
    let k := s.soc
    (0 < k.htOwed → exec (.fabricCreditReturn .htReply) s = .next { s with soc := { k with htOwed := k.htOwed - 1 } }) ∧
    (k.htOwed = 0 → exec (.fabricCreditReturn .htReply) s = .next { s with soc := { k with htCredits := k.htCredits + 1 } }) ∧
    (0 < k.dpOwed → exec (.fabricCreditReturn .dpReply) s = .next { s with soc := { k with dpOwed := k.dpOwed - 1 } }) ∧
    (k.dpOwed = 0 → exec (.fabricCreditReturn .dpReply) s = .next { s with soc := { k with dpCredits := k.dpCredits + 1 } }) ∧
    (k.held = [] ∨ k.due ≠ none →
      exec (.fabricCreditReturn .smCommand) s = .next { s with soc := { k with smCredits := k.smCredits + 1 } }) ∧
    (∀ r, k.held = [r] → k.due = none → r.beats ≤ k.smCredits + 1 → k.roomFor r = true → exec (.fabricCreditReturn .smCommand) s =
      .next { s with soc := { k with held := [], reqs := k.reqs ++ [r], smCredits := k.smCredits + 1 - r.beats
                                     arb := (k.arb.choose SmReq.requester [r]).2 } }) ∧
    (∀ r a, k.arb.choose SmReq.requester k.ready = (some r, a) → k.due = none → r.beats = k.smCredits + 1 →
      exec (.fabricCreditReturn .smCommand) s =
        .next { s with soc := { k with held := k.held.erase r, reqs := k.reqs ++ [r], smCredits := 0, arb := a } }) ∧
    (∀ (a : Arbiter) (n : ArbNode) (ins : List (ArbNode × Nat)),
      (∀ w, a.winner n ins = some w → ∃ p, (w, p) ∈ ins ∧
        ∀ x ∈ ins, a.creditOf n x.1 + x.2 ≤ a.creditOf n w + p ∧
          (a.creditOf n x.1 + x.2 = a.creditOf n w + p → a.afterLast n w ≤ a.afterLast n x.1)) ∧
      (∀ w, (ins.map fun x => x.1).Nodup →
        (∀ x ∈ ins, (a.granted n w ins).creditOf n x.1 =
          a.creditOf n x.1 + x.2 - (if x.1 = w then ((ins.map fun y => y.2).sum : Int) else 0)) ∧
        (∀ i, (∀ x ∈ ins, x.1 ≠ i) → (a.granted n w ins).creditOf n i = 0) ∧
        (∀ m i, m ≠ n → (a.granted n w ins).creditOf m i = a.creditOf m i))) ∧
    (∀ v : Byte, s.fld F.hstVctl_EN v.toNat = 0 → s.vector v.toNat = s.satAdd F.hstVstat_DROPS 1) ∧
    (∀ v : Byte, s.fld F.hstVctl_EN v.toNat = 1 → s.fld F.hstVctl_WIRED v.toNat = 1 → ∀ c, s.cycle ≤ c → c < s.cycle + 64 →
      ({ s.vector v.toNat with cycle := c }).irqLine (BitVec.ofNat 3 (s.fld F.hstVctl_LINE v.toNat)) = true) ∧
    (∀ v : Byte, s.fld F.hstVctl_EN v.toNat = 1 → s.fld F.hstVctl_WIRED v.toNat = 0 → k.raised = [] →
      s.vector v.toNat = { s with soc := { k with raised :=
        [.vector v (2 ^ 32 * (s.fld F.hstVaddrh_ADDR v.toNat) + s.fld F.hstVaddrl_ADDR v.toNat * 4) (s.reg .hstVdata v.toNat)
          (BitVec.ofNat 8 (s.fld F.hstVaddrh_VSTREAM v.toNat))] } }) ∧
    (∀ (v : Byte) (ok : Bool),
      let mine := fun (r : SmReq) => match r with | .vector u _ _ _ => u == v | _ => false
      let u := { s with soc := { k with reqs := k.reqs.eraseP mine } }
      (k.reqs.any mine = false → exec (.vectorWriteResponse v ok) s = .next s) ∧
      (k.reqs.any mine = true → ok = true → exec (.vectorWriteResponse v ok) s = .next u) ∧
      (k.reqs.any mine = true → ok = false → exec (.vectorWriteResponse v ok) s =
        .next (((u.setFld F.hstVstat_WERR 1).setFld F.hstVstat_EVEC v.toNat).satAdd F.hstVstat_ERRS 1))) ∧
    (∀ n : BitVec 3, (smGet 0 k.irq n.toNat ≤ s.cycle →
        exec (.irqPulseEnd n) s = .next { s with soc := { k with irq := smSet 0 k.irq n.toNat 0 } }) ∧
      (s.cycle < smGet 0 k.irq n.toNat → exec (.irqPulseEnd n) s = .next s)))

/-! ## The whole block -/

/-- The command at the front of the queue is taken and run with the queue's rest (the model's queue: log entry 1). -/
def Obligations.StepRunsFront : Prop :=
  ∀ (s : State) (c : Instr) (rest : List Instr), step { s with pending := c :: rest } = exec c { s with pending := rest }

/-- R8, R69, R303, R464, R466, R473: after reset nothing waits, TB0 is 0, threads and channels hold their reset values,
the block is not sealed, memory lists nothing and is in its canonical form. -/
def Obligations.ResetValues : Prop :=
  let s := State.reset
  s.pending = [] ∧ s.tbSum = 0 ∧ s.reg .tbT0inc = 0xAAAAAAAB ∧ s.mem = [] ∧ s.memOk ∧ (∀ t, s.thr t = {}) ∧ (∀ ch, s.chan ch = {}) ∧
    (∀ q, (s.queue q).words = []) ∧ s.boot.seald = false ∧ s.boot.stage = .rom ∧
    (∀ t, (s.thr t).st = .unreleased ∧ (s.thr t).pc = 0 ∧ (s.thr t).a = 0 ∧ (s.thr t).epoch = 0) ∧ (∀ ch, (s.chan ch).st = .off) ∧
    s.reg .fltAcause = 0xFFF00000

/-- Every command completes, and leaves the commands that wait as they are (the model's queue: log entry 1). -/
def Obligations.CommandsLeaveTheQueue : Prop :=
  ∀ (c : Instr) (s : State), ∃ t, exec c s = .next t ∧ t.pending = s.pending

/-- R303: TB0 is set by a cold reset alone: no other command changes it, and a block cycle adds its increment. -/
def Obligations.TimeBaseZeroRuns : Prop :=
  (∀ (c : Instr) (s t : State), (∀ straps hold lc, c ≠ .coldReset straps hold lc) → exec c s = .next t → t.tbSum = s.tbSum) ∧
    (∀ s t : State, s.pending = [] → step s = .next t → t.tbSum = s.tbSum + s.incNow.setWidth 80)

/-- Every step keeps memory in its canonical form (the model's choice of form: log entry 33). -/
def Obligations.MemoryStaysCanonical : Prop :=
  ∀ s t : State, s.memOk → step s = .next t → t.memOk
end

