-- ==== Sys2Proof/Laws/SMap.lean ====
section
/-!
SUPPORT. Sparse tables: a read after a write, and the operations that keep the canonical form.
-/

namespace Sys2Proof.Machine

variable {α : Type}

@[simp] theorem smGet_smInsert_same (d : α) (m : SMap α) (n : Nat) (v : α) : smGet d (smInsert m n v) n = v := by
  induction m with
  | nil => simp [smInsert, smGet]
  | cons p r ih =>
    obtain ⟨k, w⟩ := p
    simp only [smInsert]
    split
    · simp [smGet]
    · split
      · simp [smGet]
      · simp [smGet, ih, Ne.symm ‹¬ n = k›]

theorem smGet_smInsert_ne (d : α) (m : SMap α) (n k : Nat) (v : α) (h : k ≠ n) :
    smGet d (smInsert m n v) k = smGet d m k := by
  induction m with
  | nil => simp [smInsert, smGet, h.symm]
  | cons p r ih =>
    obtain ⟨j, w⟩ := p
    simp only [smInsert]
    split
    · simp [smGet, h.symm]
    · split
      · subst_vars; simp [smGet, h.symm]
      · simp [smGet, ih]

theorem smGet_erase (d : α) (m : SMap α) (n k : Nat) :
    smGet d (smErase m n) k = if k = n then d else smGet d m k := by
  unfold smErase
  induction m with
  | nil => simp [smGet]
  | cons p r ih =>
    obtain ⟨j, w⟩ := p
    by_cases hj : j = n
    · subst hj
      simp only [List.filter_cons]
      by_cases hk : k = j
      · subst hk; simpa using ih
      · simp [smGet, Ne.symm hk]; simpa [hk] using ih
    · simp only [List.filter_cons, hj, ne_eq, not_false_eq_true, decide_true, if_true, smGet, ih]
      by_cases hk : j = k
      · subst hk; simp [hj]
      · simp [hk]

/-- A read after a write gives the value written, and a write leaves every other key alone. -/
theorem smGet_smSet [DecidableEq α] (d : α) (m : SMap α) (n k : Nat) (v : α) :
    smGet d (smSet d m n v) k = if k = n then v else smGet d m k := by
  unfold smSet
  by_cases hv : v = d
  · rw [if_pos hv, smGet_erase, hv]
  · rw [if_neg hv]
    by_cases hk : k = n
    · subst hk; simp
    · rw [smGet_smInsert_ne _ _ _ _ _ hk, smGet_erase, if_neg hk, if_neg hk]

@[simp] theorem smGet_smSet_same [DecidableEq α] (d : α) (m : SMap α) (n : Nat) (v : α) :
    smGet d (smSet d m n v) n = v := by simp [smGet_smSet]

theorem smGet_smSet_ne [DecidableEq α] (d : α) (m : SMap α) (n k : Nat) (v : α) (h : k ≠ n) :
    smGet d (smSet d m n v) k = smGet d m k := by simp [smGet_smSet, h]

/-- Erasing a key undoes an insertion of it. -/
theorem smErase_smInsert (m : SMap α) (n : Nat) (v : α) (h : ∀ kv ∈ m, kv.1 ≠ n) : smErase (smInsert m n v) n = m := by
  induction m with
  | nil => simp [smInsert, smErase]
  | cons p r ih =>
    obtain ⟨k, w⟩ := p
    have hk : k ≠ n := h (k, w) (by simp)
    have hr : ∀ kv ∈ r, kv.1 ≠ n := fun kv hkv => h kv (List.mem_cons_of_mem _ hkv)
    have hf : r.filter (fun kv => decide (kv.1 ≠ n)) = r := List.filter_eq_self.mpr fun kv hkv => by simpa using hr kv hkv
    have ih' := ih hr
    simp only [smInsert]
    split
    · simp only [smErase, List.filter_cons]
      simp [hk] at hf ⊢
      exact hf
    · split
      · exact absurd ‹n = k›.symm hk
      · simp only [smErase, List.filter_cons] at ih' ⊢
        simpa [hk] using ih'

/-- Of two writes to one key only the second remains. -/
@[simp] theorem smSet_smSet [DecidableEq α] (d : α) (m : SMap α) (n : Nat) (v w : α) :
    smSet d (smSet d m n v) n w = smSet d m n w := by
  have h : smErase (smSet d m n v) n = smErase m n := by
    unfold smSet
    split
    · simp [smErase]
    · exact smErase_smInsert _ _ _ fun kv hkv => by simpa [smErase] using (List.mem_filter.mp hkv).2
  rw [smSet, h]
  rfl

/-! ## The canonical form -/

/-- A lower bound of the keys may be lowered. -/
theorem smWfFrom_mono [DecidableEq α] (d : α) (lo : Option Nat) (l : Nat) (m : SMap α)
    (h : smWfFrom d (some l) m = true) (hl : ∀ x, lo = some x → x ≤ l) : smWfFrom d lo m = true := by
  cases m with
  | nil => rfl
  | cons p r =>
    obtain ⟨k, w⟩ := p
    simp only [smWfFrom, Bool.and_eq_true, decide_eq_true_eq] at h ⊢
    refine ⟨⟨?_, h.1.2⟩, h.2⟩
    cases lo with
    | none => rfl
    | some x => have := hl x rfl; simp; omega

/-- Any filter keeps the canonical form. -/
theorem smWfFrom_filter [DecidableEq α] (d : α) (p : Nat × α → Bool) (m : SMap α) :
    ∀ lo, smWfFrom d lo m = true → smWfFrom d lo (m.filter p) = true := by
  induction m with
  | nil => intro lo h; exact h
  | cons q r ih =>
    obtain ⟨k, w⟩ := q
    intro lo h
    simp only [smWfFrom, Bool.and_eq_true] at h
    rw [List.filter_cons]
    split
    · simp only [smWfFrom, Bool.and_eq_true]
      exact ⟨h.1, ih _ h.2⟩
    · refine smWfFrom_mono d lo k _ (ih _ h.2) ?_
      rintro x rfl
      have := h.1.1
      simp at this
      omega

theorem smWfFrom_insert [DecidableEq α] (d v : α) (hv : v ≠ d) (n : Nat) (m : SMap α) :
    ∀ lo, smWfFrom d lo m = true → (∀ x, lo = some x → x < n) → smWfFrom d lo (smInsert m n v) = true := by
  induction m with
  | nil =>
    intro lo _ hl
    cases lo with
    | none => simp [smInsert, smWfFrom, hv]
    | some x => simp [smInsert, smWfFrom, hv, hl x rfl]
  | cons q r ih =>
    obtain ⟨k, w⟩ := q
    intro lo h hl
    simp only [smWfFrom, Bool.and_eq_true, decide_eq_true_eq] at h
    simp only [smInsert]
    split
    · simp only [smWfFrom, Bool.and_eq_true, decide_eq_true_eq]
      refine ⟨⟨?_, hv⟩, ⟨‹n < k›, h.1.2⟩, h.2⟩
      cases lo with
      | none => rfl
      | some x => simpa using hl x rfl
    · split
      · subst_vars
        simp only [smWfFrom, Bool.and_eq_true, decide_eq_true_eq]
        exact ⟨⟨h.1.1, hv⟩, h.2⟩
      · simp only [smWfFrom, Bool.and_eq_true, decide_eq_true_eq]
        refine ⟨h.1, ih _ h.2 ?_⟩
        rintro x hx
        cases hx
        omega

/-- A write keeps the canonical form. -/
theorem smWf_smSet [DecidableEq α] (d : α) (m : SMap α) (n : Nat) (v : α) (h : smWf d m = true) :
    smWf d (smSet d m n v) = true := by
  unfold smSet smWf at *
  split
  · exact smWfFrom_filter d _ m none h
  · exact smWfFrom_insert d v ‹_› n _ none (smWfFrom_filter d _ m none h) (by simp)

theorem smWf_filter [DecidableEq α] (d : α) (p : Nat × α → Bool) (m : SMap α) (h : smWf d m = true) :
    smWf d (m.filter p) = true := smWfFrom_filter d p m none h

theorem smWf_smDropRange [DecidableEq α] (d : α) (m : SMap α) (lo hi : Nat) (h : smWf d m = true) :
    smWf d (smDropRange m lo hi) = true := smWf_filter d _ m h

end Sys2Proof.Machine
end

