-- ==== Sys2Proof/Laws/State.lean ====
section
/-!
SUPPORT. One lemma per field and part of the state per update: what a set of one part leaves alone, and what a read of
that part gives back.  Every later proof cites these; none unfolds a record update.
-/

namespace Sys2Proof.Machine

variable (s : State)


/-! ## State.setThr -/

@[simp] theorem cycle_setThr (t : Tid) (x : Thread) : (s.setThr t x).cycle = s.cycle := rfl
@[simp] theorem tbSum_setThr (t : Tid) (x : Thread) : (s.setThr t x).tbSum = s.tbSum := rfl
@[simp] theorem incNow_setThr (t : Tid) (x : Thread) : (s.setThr t x).incNow = s.incNow := rfl
@[simp] theorem tbEra_setThr (t : Tid) (x : Thread) : (s.setThr t x).tbEra = s.tbEra := rfl
@[simp] theorem regs_setThr (t : Tid) (x : Thread) : (s.setThr t x).regs = s.regs := rfl
@[simp] theorem cycEv_setThr (t : Tid) (x : Thread) : (s.setThr t x).cycEv = s.cycEv := rfl
@[simp] theorem mem_setThr (t : Tid) (x : Thread) : (s.setThr t x).mem = s.mem := rfl
@[simp] theorem cores_setThr (t : Tid) (x : Thread) : (s.setThr t x).cores = s.cores := rfl
@[simp] theorem watches_setThr (t : Tid) (x : Thread) : (s.setThr t x).watches = s.watches := rfl
@[simp] theorem heldWakes_setThr (t : Tid) (x : Thread) : (s.setThr t x).heldWakes = s.heldWakes := rfl
@[simp] theorem heldRaises_setThr (t : Tid) (x : Thread) : (s.setThr t x).heldRaises = s.heldRaises := rfl
@[simp] theorem regWaits_setThr (t : Tid) (x : Thread) : (s.setThr t x).regWaits = s.regWaits := rfl
@[simp] theorem banks_setThr (t : Tid) (x : Thread) : (s.setThr t x).banks = s.banks := rfl
@[simp] theorem queues_setThr (t : Tid) (x : Thread) : (s.setThr t x).queues = s.queues := rfl
@[simp] theorem quads_setThr (t : Tid) (x : Thread) : (s.setThr t x).quads = s.quads := rfl
@[simp] theorem owners_setThr (t : Tid) (x : Thread) : (s.setThr t x).owners = s.owners := rfl
@[simp] theorem rings_setThr (t : Tid) (x : Thread) : (s.setThr t x).rings = s.rings := rfl
@[simp] theorem qeNotice_setThr (t : Tid) (x : Thread) : (s.setThr t x).qeNotice = s.qeNotice := rfl
@[simp] theorem purgeFree_setThr (t : Tid) (x : Thread) : (s.setThr t x).purgeFree = s.purgeFree := rfl
@[simp] theorem evmHeld_setThr (t : Tid) (x : Thread) : (s.setThr t x).evmHeld = s.evmHeld := rfl
@[simp] theorem qcyc_setThr (t : Tid) (x : Thread) : (s.setThr t x).qcyc = s.qcyc := rfl
@[simp] theorem freed_setThr (t : Tid) (x : Thread) : (s.setThr t x).freed = s.freed := rfl
@[simp] theorem cycSeq_setThr (t : Tid) (x : Thread) : (s.setThr t x).cycSeq = s.cycSeq := rfl
@[simp] theorem engines_setThr (t : Tid) (x : Thread) : (s.setThr t x).engines = s.engines := rfl
@[simp] theorem pmem_setThr (t : Tid) (x : Thread) : (s.setThr t x).pmem = s.pmem := rfl
@[simp] theorem channels_setThr (t : Tid) (x : Thread) : (s.setThr t x).channels = s.channels := rfl
@[simp] theorem ports_setThr (t : Tid) (x : Thread) : (s.setThr t x).ports = s.ports := rfl
@[simp] theorem bases_setThr (t : Tid) (x : Thread) : (s.setThr t x).bases = s.bases := rfl
@[simp] theorem refs_setThr (t : Tid) (x : Thread) : (s.setThr t x).refs = s.refs := rfl
@[simp] theorem latches_setThr (t : Tid) (x : Thread) : (s.setThr t x).latches = s.latches := rfl
@[simp] theorem pend_setThr (t : Tid) (x : Thread) : (s.setThr t x).pend = s.pend := rfl
@[simp] theorem arrivals_setThr (t : Tid) (x : Thread) : (s.setThr t x).arrivals = s.arrivals := rfl
@[simp] theorem passDone_setThr (t : Tid) (x : Thread) : (s.setThr t x).passDone = s.passDone := rfl
@[simp] theorem stagerNotice_setThr (t : Tid) (x : Thread) : (s.setThr t x).stagerNotice = s.stagerNotice := rfl
@[simp] theorem tasks_setThr (t : Tid) (x : Thread) : (s.setThr t x).tasks = s.tasks := rfl
@[simp] theorem temperNotice_setThr (t : Tid) (x : Thread) : (s.setThr t x).temperNotice = s.temperNotice := rfl
@[simp] theorem fires_setThr (t : Tid) (x : Thread) : (s.setThr t x).fires = s.fires := rfl
@[simp] theorem pulsedNow_setThr (t : Tid) (x : Thread) : (s.setThr t x).pulsedNow = s.pulsedNow := rfl
@[simp] theorem wokeNow_setThr (t : Tid) (x : Thread) : (s.setThr t x).wokeNow = s.wokeNow := rfl
@[simp] theorem cache_setThr (t : Tid) (x : Thread) : (s.setThr t x).cache = s.cache := rfl
@[simp] theorem sigPackets_setThr (t : Tid) (x : Thread) : (s.setThr t x).sigPackets = s.sigPackets := rfl
@[simp] theorem sigOut_setThr (t : Tid) (x : Thread) : (s.setThr t x).sigOut = s.sigOut := rfl
@[simp] theorem pinWrite_setThr (t : Tid) (x : Thread) : (s.setThr t x).pinWrite = s.pinWrite := rfl
@[simp] theorem fills_setThr (t : Tid) (x : Thread) : (s.setThr t x).fills = s.fills := rfl
@[simp] theorem writeBacks_setThr (t : Tid) (x : Thread) : (s.setThr t x).writeBacks = s.writeBacks := rfl
@[simp] theorem hearths_setThr (t : Tid) (x : Thread) : (s.setThr t x).hearths = s.hearths := rfl
@[simp] theorem domains_setThr (t : Tid) (x : Thread) : (s.setThr t x).domains = s.domains := rfl
@[simp] theorem lanes_setThr (t : Tid) (x : Thread) : (s.setThr t x).lanes = s.lanes := rfl
@[simp] theorem chain_setThr (t : Tid) (x : Thread) : (s.setThr t x).chain = s.chain := rfl
@[simp] theorem mirror_setThr (t : Tid) (x : Thread) : (s.setThr t x).mirror = s.mirror := rfl
@[simp] theorem faults_setThr (t : Tid) (x : Thread) : (s.setThr t x).faults = s.faults := rfl
@[simp] theorem boot_setThr (t : Tid) (x : Thread) : (s.setThr t x).boot = s.boot := rfl
@[simp] theorem ember_setThr (t : Tid) (x : Thread) : (s.setThr t x).ember = s.ember := rfl
@[simp] theorem soc_setThr (t : Tid) (x : Thread) : (s.setThr t x).soc = s.soc := rfl
@[simp] theorem answer_setThr (t : Tid) (x : Thread) : (s.setThr t x).answer = s.answer := rfl
@[simp] theorem issuedNow_setThr (t : Tid) (x : Thread) : (s.setThr t x).issuedNow = s.issuedNow := rfl
@[simp] theorem storeAt_setThr (t : Tid) (x : Thread) : (s.setThr t x).storeAt = s.storeAt := rfl
@[simp] theorem seq_setThr (t : Tid) (x : Thread) : (s.setThr t x).seq = s.seq := rfl
@[simp] theorem fresh_setThr (t : Tid) (x : Thread) : (s.setThr t x).fresh = s.fresh := rfl
@[simp] theorem pending_setThr (t : Tid) (x : Thread) : (s.setThr t x).pending = s.pending := rfl
@[simp] theorem core_setThr (t : Tid) (x : Thread) (u : CoreId) : (s.setThr t x).core u = s.core u := rfl
@[simp] theorem bank_setThr (t : Tid) (x : Thread) (u : BankId) : (s.setThr t x).bank u = s.bank u := rfl
@[simp] theorem queue_setThr (t : Tid) (x : Thread) (u : Qid) : (s.setThr t x).queue u = s.queue u := rfl
@[simp] theorem quad_setThr (t : Tid) (x : Thread) (u : Quadrant) : (s.setThr t x).quad u = s.quad u := rfl
@[simp] theorem owner_setThr (t : Tid) (x : Thread) (u : BitVec 12) : (s.setThr t x).owner u = s.owner u := rfl
@[simp] theorem ring_setThr (t : Tid) (x : Thread) (u : BitVec 10) : (s.setThr t x).ring u = s.ring u := rfl
@[simp] theorem engine_setThr (t : Tid) (x : Thread) (u : EngineId) : (s.setThr t x).engine u = s.engine u := rfl
@[simp] theorem chan_setThr (t : Tid) (x : Thread) (u : Chan) : (s.setThr t x).chan u = s.chan u := rfl
@[simp] theorem port_setThr (t : Tid) (x : Thread) (u : Port) : (s.setThr t x).port u = s.port u := rfl
@[simp] theorem base_setThr (t : Tid) (x : Thread) (u : BaseId) : (s.setThr t x).base u = s.base u := rfl
@[simp] theorem ref_setThr (t : Tid) (x : Thread) (u : BaseId) (v : BitVec 2) : (s.setThr t x).ref u v = s.ref u v := rfl
@[simp] theorem task_setThr (t : Tid) (x : Thread) (u : TaskId) : (s.setThr t x).task u = s.task u := rfl
@[simp] theorem hearth_setThr (t : Tid) (x : Thread) (u : HearthId) : (s.setThr t x).hearth u = s.hearth u := rfl
@[simp] theorem dom_setThr (t : Tid) (x : Thread) (u : Nat) : (s.setThr t x).dom u = s.dom u := rfl
@[simp] theorem lane_setThr (t : Tid) (x : Thread) (u : LaneId) : (s.setThr t x).lane u = s.lane u := rfl
@[simp] theorem reg_setThr (t : Tid) (x : Thread) (k : RegKind) (i j : Nat) : (s.setThr t x).reg k i j = s.reg k i j := rfl
@[simp] theorem fld_setThr (t : Tid) (x : Thread) (f : Fld) (i j : Nat) : (s.setThr t x).fld f i j = s.fld f i j := rfl
@[simp] theorem bit_setThr (t : Tid) (x : Thread) (f : Fld) (i j : Nat) : (s.setThr t x).bit f i j = s.bit f i j := rfl
@[simp] theorem ns_setThr (t : Tid) (x : Thread) : (s.setThr t x).ns = s.ns := rfl
@[simp] theorem tb0_setThr (t : Tid) (x : Thread) : (s.setThr t x).tb0 = s.tb0 := rfl
@[simp] theorem tb0w_setThr (t : Tid) (x : Thread) : (s.setThr t x).tb0w = s.tb0w := rfl
@[simp] theorem thr_setThr_same (t : Tid) (x : Thread) : (s.setThr t x).thr t = x := by simp [State.thr, State.setThr]

/-! ## State.setCore -/

@[simp] theorem cycle_setCore (c : CoreId) (x : Core) : (s.setCore c x).cycle = s.cycle := rfl
@[simp] theorem tbSum_setCore (c : CoreId) (x : Core) : (s.setCore c x).tbSum = s.tbSum := rfl
@[simp] theorem incNow_setCore (c : CoreId) (x : Core) : (s.setCore c x).incNow = s.incNow := rfl
@[simp] theorem tbEra_setCore (c : CoreId) (x : Core) : (s.setCore c x).tbEra = s.tbEra := rfl
@[simp] theorem regs_setCore (c : CoreId) (x : Core) : (s.setCore c x).regs = s.regs := rfl
@[simp] theorem cycEv_setCore (c : CoreId) (x : Core) : (s.setCore c x).cycEv = s.cycEv := rfl
@[simp] theorem mem_setCore (c : CoreId) (x : Core) : (s.setCore c x).mem = s.mem := rfl
@[simp] theorem threads_setCore (c : CoreId) (x : Core) : (s.setCore c x).threads = s.threads := rfl
@[simp] theorem watches_setCore (c : CoreId) (x : Core) : (s.setCore c x).watches = s.watches := rfl
@[simp] theorem heldWakes_setCore (c : CoreId) (x : Core) : (s.setCore c x).heldWakes = s.heldWakes := rfl
@[simp] theorem heldRaises_setCore (c : CoreId) (x : Core) : (s.setCore c x).heldRaises = s.heldRaises := rfl
@[simp] theorem regWaits_setCore (c : CoreId) (x : Core) : (s.setCore c x).regWaits = s.regWaits := rfl
@[simp] theorem banks_setCore (c : CoreId) (x : Core) : (s.setCore c x).banks = s.banks := rfl
@[simp] theorem queues_setCore (c : CoreId) (x : Core) : (s.setCore c x).queues = s.queues := rfl
@[simp] theorem quads_setCore (c : CoreId) (x : Core) : (s.setCore c x).quads = s.quads := rfl
@[simp] theorem owners_setCore (c : CoreId) (x : Core) : (s.setCore c x).owners = s.owners := rfl
@[simp] theorem rings_setCore (c : CoreId) (x : Core) : (s.setCore c x).rings = s.rings := rfl
@[simp] theorem qeNotice_setCore (c : CoreId) (x : Core) : (s.setCore c x).qeNotice = s.qeNotice := rfl
@[simp] theorem purgeFree_setCore (c : CoreId) (x : Core) : (s.setCore c x).purgeFree = s.purgeFree := rfl
@[simp] theorem evmHeld_setCore (c : CoreId) (x : Core) : (s.setCore c x).evmHeld = s.evmHeld := rfl
@[simp] theorem qcyc_setCore (c : CoreId) (x : Core) : (s.setCore c x).qcyc = s.qcyc := rfl
@[simp] theorem freed_setCore (c : CoreId) (x : Core) : (s.setCore c x).freed = s.freed := rfl
@[simp] theorem cycSeq_setCore (c : CoreId) (x : Core) : (s.setCore c x).cycSeq = s.cycSeq := rfl
@[simp] theorem engines_setCore (c : CoreId) (x : Core) : (s.setCore c x).engines = s.engines := rfl
@[simp] theorem pmem_setCore (c : CoreId) (x : Core) : (s.setCore c x).pmem = s.pmem := rfl
@[simp] theorem channels_setCore (c : CoreId) (x : Core) : (s.setCore c x).channels = s.channels := rfl
@[simp] theorem ports_setCore (c : CoreId) (x : Core) : (s.setCore c x).ports = s.ports := rfl
@[simp] theorem bases_setCore (c : CoreId) (x : Core) : (s.setCore c x).bases = s.bases := rfl
@[simp] theorem refs_setCore (c : CoreId) (x : Core) : (s.setCore c x).refs = s.refs := rfl
@[simp] theorem latches_setCore (c : CoreId) (x : Core) : (s.setCore c x).latches = s.latches := rfl
@[simp] theorem pend_setCore (c : CoreId) (x : Core) : (s.setCore c x).pend = s.pend := rfl
@[simp] theorem arrivals_setCore (c : CoreId) (x : Core) : (s.setCore c x).arrivals = s.arrivals := rfl
@[simp] theorem passDone_setCore (c : CoreId) (x : Core) : (s.setCore c x).passDone = s.passDone := rfl
@[simp] theorem stagerNotice_setCore (c : CoreId) (x : Core) : (s.setCore c x).stagerNotice = s.stagerNotice := rfl
@[simp] theorem tasks_setCore (c : CoreId) (x : Core) : (s.setCore c x).tasks = s.tasks := rfl
@[simp] theorem temperNotice_setCore (c : CoreId) (x : Core) : (s.setCore c x).temperNotice = s.temperNotice := rfl
@[simp] theorem fires_setCore (c : CoreId) (x : Core) : (s.setCore c x).fires = s.fires := rfl
@[simp] theorem pulsedNow_setCore (c : CoreId) (x : Core) : (s.setCore c x).pulsedNow = s.pulsedNow := rfl
@[simp] theorem wokeNow_setCore (c : CoreId) (x : Core) : (s.setCore c x).wokeNow = s.wokeNow := rfl
@[simp] theorem cache_setCore (c : CoreId) (x : Core) : (s.setCore c x).cache = s.cache := rfl
@[simp] theorem sigPackets_setCore (c : CoreId) (x : Core) : (s.setCore c x).sigPackets = s.sigPackets := rfl
@[simp] theorem sigOut_setCore (c : CoreId) (x : Core) : (s.setCore c x).sigOut = s.sigOut := rfl
@[simp] theorem pinWrite_setCore (c : CoreId) (x : Core) : (s.setCore c x).pinWrite = s.pinWrite := rfl
@[simp] theorem fills_setCore (c : CoreId) (x : Core) : (s.setCore c x).fills = s.fills := rfl
@[simp] theorem writeBacks_setCore (c : CoreId) (x : Core) : (s.setCore c x).writeBacks = s.writeBacks := rfl
@[simp] theorem hearths_setCore (c : CoreId) (x : Core) : (s.setCore c x).hearths = s.hearths := rfl
@[simp] theorem domains_setCore (c : CoreId) (x : Core) : (s.setCore c x).domains = s.domains := rfl
@[simp] theorem lanes_setCore (c : CoreId) (x : Core) : (s.setCore c x).lanes = s.lanes := rfl
@[simp] theorem chain_setCore (c : CoreId) (x : Core) : (s.setCore c x).chain = s.chain := rfl
@[simp] theorem mirror_setCore (c : CoreId) (x : Core) : (s.setCore c x).mirror = s.mirror := rfl
@[simp] theorem faults_setCore (c : CoreId) (x : Core) : (s.setCore c x).faults = s.faults := rfl
@[simp] theorem boot_setCore (c : CoreId) (x : Core) : (s.setCore c x).boot = s.boot := rfl
@[simp] theorem ember_setCore (c : CoreId) (x : Core) : (s.setCore c x).ember = s.ember := rfl
@[simp] theorem soc_setCore (c : CoreId) (x : Core) : (s.setCore c x).soc = s.soc := rfl
@[simp] theorem answer_setCore (c : CoreId) (x : Core) : (s.setCore c x).answer = s.answer := rfl
@[simp] theorem issuedNow_setCore (c : CoreId) (x : Core) : (s.setCore c x).issuedNow = s.issuedNow := rfl
@[simp] theorem storeAt_setCore (c : CoreId) (x : Core) : (s.setCore c x).storeAt = s.storeAt := rfl
@[simp] theorem seq_setCore (c : CoreId) (x : Core) : (s.setCore c x).seq = s.seq := rfl
@[simp] theorem fresh_setCore (c : CoreId) (x : Core) : (s.setCore c x).fresh = s.fresh := rfl
@[simp] theorem pending_setCore (c : CoreId) (x : Core) : (s.setCore c x).pending = s.pending := rfl
@[simp] theorem thr_setCore (c : CoreId) (x : Core) (u : Tid) : (s.setCore c x).thr u = s.thr u := rfl
@[simp] theorem bank_setCore (c : CoreId) (x : Core) (u : BankId) : (s.setCore c x).bank u = s.bank u := rfl
@[simp] theorem queue_setCore (c : CoreId) (x : Core) (u : Qid) : (s.setCore c x).queue u = s.queue u := rfl
@[simp] theorem quad_setCore (c : CoreId) (x : Core) (u : Quadrant) : (s.setCore c x).quad u = s.quad u := rfl
@[simp] theorem owner_setCore (c : CoreId) (x : Core) (u : BitVec 12) : (s.setCore c x).owner u = s.owner u := rfl
@[simp] theorem ring_setCore (c : CoreId) (x : Core) (u : BitVec 10) : (s.setCore c x).ring u = s.ring u := rfl
@[simp] theorem engine_setCore (c : CoreId) (x : Core) (u : EngineId) : (s.setCore c x).engine u = s.engine u := rfl
@[simp] theorem chan_setCore (c : CoreId) (x : Core) (u : Chan) : (s.setCore c x).chan u = s.chan u := rfl
@[simp] theorem port_setCore (c : CoreId) (x : Core) (u : Port) : (s.setCore c x).port u = s.port u := rfl
@[simp] theorem base_setCore (c : CoreId) (x : Core) (u : BaseId) : (s.setCore c x).base u = s.base u := rfl
@[simp] theorem ref_setCore (c : CoreId) (x : Core) (u : BaseId) (v : BitVec 2) : (s.setCore c x).ref u v = s.ref u v := rfl
@[simp] theorem task_setCore (c : CoreId) (x : Core) (u : TaskId) : (s.setCore c x).task u = s.task u := rfl
@[simp] theorem hearth_setCore (c : CoreId) (x : Core) (u : HearthId) : (s.setCore c x).hearth u = s.hearth u := rfl
@[simp] theorem dom_setCore (c : CoreId) (x : Core) (u : Nat) : (s.setCore c x).dom u = s.dom u := rfl
@[simp] theorem lane_setCore (c : CoreId) (x : Core) (u : LaneId) : (s.setCore c x).lane u = s.lane u := rfl
@[simp] theorem reg_setCore (c : CoreId) (x : Core) (k : RegKind) (i j : Nat) : (s.setCore c x).reg k i j = s.reg k i j := rfl
@[simp] theorem fld_setCore (c : CoreId) (x : Core) (f : Fld) (i j : Nat) : (s.setCore c x).fld f i j = s.fld f i j := rfl
@[simp] theorem bit_setCore (c : CoreId) (x : Core) (f : Fld) (i j : Nat) : (s.setCore c x).bit f i j = s.bit f i j := rfl
@[simp] theorem ns_setCore (c : CoreId) (x : Core) : (s.setCore c x).ns = s.ns := rfl
@[simp] theorem tb0_setCore (c : CoreId) (x : Core) : (s.setCore c x).tb0 = s.tb0 := rfl
@[simp] theorem tb0w_setCore (c : CoreId) (x : Core) : (s.setCore c x).tb0w = s.tb0w := rfl
@[simp] theorem core_setCore_same (c : CoreId) (x : Core) : (s.setCore c x).core c = x := by simp [State.core, State.setCore]

/-! ## State.setBank -/

@[simp] theorem cycle_setBank (b : BankId) (x : Bank) : (s.setBank b x).cycle = s.cycle := rfl
@[simp] theorem tbSum_setBank (b : BankId) (x : Bank) : (s.setBank b x).tbSum = s.tbSum := rfl
@[simp] theorem incNow_setBank (b : BankId) (x : Bank) : (s.setBank b x).incNow = s.incNow := rfl
@[simp] theorem tbEra_setBank (b : BankId) (x : Bank) : (s.setBank b x).tbEra = s.tbEra := rfl
@[simp] theorem regs_setBank (b : BankId) (x : Bank) : (s.setBank b x).regs = s.regs := rfl
@[simp] theorem cycEv_setBank (b : BankId) (x : Bank) : (s.setBank b x).cycEv = s.cycEv := rfl
@[simp] theorem mem_setBank (b : BankId) (x : Bank) : (s.setBank b x).mem = s.mem := rfl
@[simp] theorem threads_setBank (b : BankId) (x : Bank) : (s.setBank b x).threads = s.threads := rfl
@[simp] theorem cores_setBank (b : BankId) (x : Bank) : (s.setBank b x).cores = s.cores := rfl
@[simp] theorem watches_setBank (b : BankId) (x : Bank) : (s.setBank b x).watches = s.watches := rfl
@[simp] theorem heldWakes_setBank (b : BankId) (x : Bank) : (s.setBank b x).heldWakes = s.heldWakes := rfl
@[simp] theorem heldRaises_setBank (b : BankId) (x : Bank) : (s.setBank b x).heldRaises = s.heldRaises := rfl
@[simp] theorem regWaits_setBank (b : BankId) (x : Bank) : (s.setBank b x).regWaits = s.regWaits := rfl
@[simp] theorem queues_setBank (b : BankId) (x : Bank) : (s.setBank b x).queues = s.queues := rfl
@[simp] theorem quads_setBank (b : BankId) (x : Bank) : (s.setBank b x).quads = s.quads := rfl
@[simp] theorem owners_setBank (b : BankId) (x : Bank) : (s.setBank b x).owners = s.owners := rfl
@[simp] theorem rings_setBank (b : BankId) (x : Bank) : (s.setBank b x).rings = s.rings := rfl
@[simp] theorem qeNotice_setBank (b : BankId) (x : Bank) : (s.setBank b x).qeNotice = s.qeNotice := rfl
@[simp] theorem purgeFree_setBank (b : BankId) (x : Bank) : (s.setBank b x).purgeFree = s.purgeFree := rfl
@[simp] theorem evmHeld_setBank (b : BankId) (x : Bank) : (s.setBank b x).evmHeld = s.evmHeld := rfl
@[simp] theorem qcyc_setBank (b : BankId) (x : Bank) : (s.setBank b x).qcyc = s.qcyc := rfl
@[simp] theorem freed_setBank (b : BankId) (x : Bank) : (s.setBank b x).freed = s.freed := rfl
@[simp] theorem cycSeq_setBank (b : BankId) (x : Bank) : (s.setBank b x).cycSeq = s.cycSeq := rfl
@[simp] theorem engines_setBank (b : BankId) (x : Bank) : (s.setBank b x).engines = s.engines := rfl
@[simp] theorem pmem_setBank (b : BankId) (x : Bank) : (s.setBank b x).pmem = s.pmem := rfl
@[simp] theorem channels_setBank (b : BankId) (x : Bank) : (s.setBank b x).channels = s.channels := rfl
@[simp] theorem ports_setBank (b : BankId) (x : Bank) : (s.setBank b x).ports = s.ports := rfl
@[simp] theorem bases_setBank (b : BankId) (x : Bank) : (s.setBank b x).bases = s.bases := rfl
@[simp] theorem refs_setBank (b : BankId) (x : Bank) : (s.setBank b x).refs = s.refs := rfl
@[simp] theorem latches_setBank (b : BankId) (x : Bank) : (s.setBank b x).latches = s.latches := rfl
@[simp] theorem pend_setBank (b : BankId) (x : Bank) : (s.setBank b x).pend = s.pend := rfl
@[simp] theorem arrivals_setBank (b : BankId) (x : Bank) : (s.setBank b x).arrivals = s.arrivals := rfl
@[simp] theorem passDone_setBank (b : BankId) (x : Bank) : (s.setBank b x).passDone = s.passDone := rfl
@[simp] theorem stagerNotice_setBank (b : BankId) (x : Bank) : (s.setBank b x).stagerNotice = s.stagerNotice := rfl
@[simp] theorem tasks_setBank (b : BankId) (x : Bank) : (s.setBank b x).tasks = s.tasks := rfl
@[simp] theorem temperNotice_setBank (b : BankId) (x : Bank) : (s.setBank b x).temperNotice = s.temperNotice := rfl
@[simp] theorem fires_setBank (b : BankId) (x : Bank) : (s.setBank b x).fires = s.fires := rfl
@[simp] theorem pulsedNow_setBank (b : BankId) (x : Bank) : (s.setBank b x).pulsedNow = s.pulsedNow := rfl
@[simp] theorem wokeNow_setBank (b : BankId) (x : Bank) : (s.setBank b x).wokeNow = s.wokeNow := rfl
@[simp] theorem cache_setBank (b : BankId) (x : Bank) : (s.setBank b x).cache = s.cache := rfl
@[simp] theorem sigPackets_setBank (b : BankId) (x : Bank) : (s.setBank b x).sigPackets = s.sigPackets := rfl
@[simp] theorem sigOut_setBank (b : BankId) (x : Bank) : (s.setBank b x).sigOut = s.sigOut := rfl
@[simp] theorem pinWrite_setBank (b : BankId) (x : Bank) : (s.setBank b x).pinWrite = s.pinWrite := rfl
@[simp] theorem fills_setBank (b : BankId) (x : Bank) : (s.setBank b x).fills = s.fills := rfl
@[simp] theorem writeBacks_setBank (b : BankId) (x : Bank) : (s.setBank b x).writeBacks = s.writeBacks := rfl
@[simp] theorem hearths_setBank (b : BankId) (x : Bank) : (s.setBank b x).hearths = s.hearths := rfl
@[simp] theorem domains_setBank (b : BankId) (x : Bank) : (s.setBank b x).domains = s.domains := rfl
@[simp] theorem lanes_setBank (b : BankId) (x : Bank) : (s.setBank b x).lanes = s.lanes := rfl
@[simp] theorem chain_setBank (b : BankId) (x : Bank) : (s.setBank b x).chain = s.chain := rfl
@[simp] theorem mirror_setBank (b : BankId) (x : Bank) : (s.setBank b x).mirror = s.mirror := rfl
@[simp] theorem faults_setBank (b : BankId) (x : Bank) : (s.setBank b x).faults = s.faults := rfl
@[simp] theorem boot_setBank (b : BankId) (x : Bank) : (s.setBank b x).boot = s.boot := rfl
@[simp] theorem ember_setBank (b : BankId) (x : Bank) : (s.setBank b x).ember = s.ember := rfl
@[simp] theorem soc_setBank (b : BankId) (x : Bank) : (s.setBank b x).soc = s.soc := rfl
@[simp] theorem answer_setBank (b : BankId) (x : Bank) : (s.setBank b x).answer = s.answer := rfl
@[simp] theorem issuedNow_setBank (b : BankId) (x : Bank) : (s.setBank b x).issuedNow = s.issuedNow := rfl
@[simp] theorem storeAt_setBank (b : BankId) (x : Bank) : (s.setBank b x).storeAt = s.storeAt := rfl
@[simp] theorem seq_setBank (b : BankId) (x : Bank) : (s.setBank b x).seq = s.seq := rfl
@[simp] theorem fresh_setBank (b : BankId) (x : Bank) : (s.setBank b x).fresh = s.fresh := rfl
@[simp] theorem pending_setBank (b : BankId) (x : Bank) : (s.setBank b x).pending = s.pending := rfl
@[simp] theorem thr_setBank (b : BankId) (x : Bank) (u : Tid) : (s.setBank b x).thr u = s.thr u := rfl
@[simp] theorem core_setBank (b : BankId) (x : Bank) (u : CoreId) : (s.setBank b x).core u = s.core u := rfl
@[simp] theorem queue_setBank (b : BankId) (x : Bank) (u : Qid) : (s.setBank b x).queue u = s.queue u := rfl
@[simp] theorem quad_setBank (b : BankId) (x : Bank) (u : Quadrant) : (s.setBank b x).quad u = s.quad u := rfl
@[simp] theorem owner_setBank (b : BankId) (x : Bank) (u : BitVec 12) : (s.setBank b x).owner u = s.owner u := rfl
@[simp] theorem ring_setBank (b : BankId) (x : Bank) (u : BitVec 10) : (s.setBank b x).ring u = s.ring u := rfl
@[simp] theorem engine_setBank (b : BankId) (x : Bank) (u : EngineId) : (s.setBank b x).engine u = s.engine u := rfl
@[simp] theorem chan_setBank (b : BankId) (x : Bank) (u : Chan) : (s.setBank b x).chan u = s.chan u := rfl
@[simp] theorem port_setBank (b : BankId) (x : Bank) (u : Port) : (s.setBank b x).port u = s.port u := rfl
@[simp] theorem base_setBank (b : BankId) (x : Bank) (u : BaseId) : (s.setBank b x).base u = s.base u := rfl
@[simp] theorem ref_setBank (b : BankId) (x : Bank) (u : BaseId) (v : BitVec 2) : (s.setBank b x).ref u v = s.ref u v := rfl
@[simp] theorem task_setBank (b : BankId) (x : Bank) (u : TaskId) : (s.setBank b x).task u = s.task u := rfl
@[simp] theorem hearth_setBank (b : BankId) (x : Bank) (u : HearthId) : (s.setBank b x).hearth u = s.hearth u := rfl
@[simp] theorem dom_setBank (b : BankId) (x : Bank) (u : Nat) : (s.setBank b x).dom u = s.dom u := rfl
@[simp] theorem lane_setBank (b : BankId) (x : Bank) (u : LaneId) : (s.setBank b x).lane u = s.lane u := rfl
@[simp] theorem reg_setBank (b : BankId) (x : Bank) (k : RegKind) (i j : Nat) : (s.setBank b x).reg k i j = s.reg k i j := rfl
@[simp] theorem fld_setBank (b : BankId) (x : Bank) (f : Fld) (i j : Nat) : (s.setBank b x).fld f i j = s.fld f i j := rfl
@[simp] theorem bit_setBank (b : BankId) (x : Bank) (f : Fld) (i j : Nat) : (s.setBank b x).bit f i j = s.bit f i j := rfl
@[simp] theorem ns_setBank (b : BankId) (x : Bank) : (s.setBank b x).ns = s.ns := rfl
@[simp] theorem tb0_setBank (b : BankId) (x : Bank) : (s.setBank b x).tb0 = s.tb0 := rfl
@[simp] theorem tb0w_setBank (b : BankId) (x : Bank) : (s.setBank b x).tb0w = s.tb0w := rfl
@[simp] theorem bank_setBank_same (b : BankId) (x : Bank) : (s.setBank b x).bank b = x := by simp [State.bank, State.setBank]

/-! ## State.setQueue -/

@[simp] theorem cycle_setQueue (q : Qid) (x : Queue) : (s.setQueue q x).cycle = s.cycle := rfl
@[simp] theorem tbSum_setQueue (q : Qid) (x : Queue) : (s.setQueue q x).tbSum = s.tbSum := rfl
@[simp] theorem incNow_setQueue (q : Qid) (x : Queue) : (s.setQueue q x).incNow = s.incNow := rfl
@[simp] theorem tbEra_setQueue (q : Qid) (x : Queue) : (s.setQueue q x).tbEra = s.tbEra := rfl
@[simp] theorem regs_setQueue (q : Qid) (x : Queue) : (s.setQueue q x).regs = s.regs := rfl
@[simp] theorem cycEv_setQueue (q : Qid) (x : Queue) : (s.setQueue q x).cycEv = s.cycEv := rfl
@[simp] theorem mem_setQueue (q : Qid) (x : Queue) : (s.setQueue q x).mem = s.mem := rfl
@[simp] theorem threads_setQueue (q : Qid) (x : Queue) : (s.setQueue q x).threads = s.threads := rfl
@[simp] theorem cores_setQueue (q : Qid) (x : Queue) : (s.setQueue q x).cores = s.cores := rfl
@[simp] theorem watches_setQueue (q : Qid) (x : Queue) : (s.setQueue q x).watches = s.watches := rfl
@[simp] theorem heldWakes_setQueue (q : Qid) (x : Queue) : (s.setQueue q x).heldWakes = s.heldWakes := rfl
@[simp] theorem heldRaises_setQueue (q : Qid) (x : Queue) : (s.setQueue q x).heldRaises = s.heldRaises := rfl
@[simp] theorem regWaits_setQueue (q : Qid) (x : Queue) : (s.setQueue q x).regWaits = s.regWaits := rfl
@[simp] theorem banks_setQueue (q : Qid) (x : Queue) : (s.setQueue q x).banks = s.banks := rfl
@[simp] theorem quads_setQueue (q : Qid) (x : Queue) : (s.setQueue q x).quads = s.quads := rfl
@[simp] theorem owners_setQueue (q : Qid) (x : Queue) : (s.setQueue q x).owners = s.owners := rfl
@[simp] theorem rings_setQueue (q : Qid) (x : Queue) : (s.setQueue q x).rings = s.rings := rfl
@[simp] theorem qeNotice_setQueue (q : Qid) (x : Queue) : (s.setQueue q x).qeNotice = s.qeNotice := rfl
@[simp] theorem purgeFree_setQueue (q : Qid) (x : Queue) : (s.setQueue q x).purgeFree = s.purgeFree := rfl
@[simp] theorem evmHeld_setQueue (q : Qid) (x : Queue) : (s.setQueue q x).evmHeld = s.evmHeld := rfl
@[simp] theorem qcyc_setQueue (q : Qid) (x : Queue) : (s.setQueue q x).qcyc = s.qcyc := rfl
@[simp] theorem freed_setQueue (q : Qid) (x : Queue) : (s.setQueue q x).freed = s.freed := rfl
@[simp] theorem cycSeq_setQueue (q : Qid) (x : Queue) : (s.setQueue q x).cycSeq = s.cycSeq := rfl
@[simp] theorem engines_setQueue (q : Qid) (x : Queue) : (s.setQueue q x).engines = s.engines := rfl
@[simp] theorem pmem_setQueue (q : Qid) (x : Queue) : (s.setQueue q x).pmem = s.pmem := rfl
@[simp] theorem channels_setQueue (q : Qid) (x : Queue) : (s.setQueue q x).channels = s.channels := rfl
@[simp] theorem ports_setQueue (q : Qid) (x : Queue) : (s.setQueue q x).ports = s.ports := rfl
@[simp] theorem bases_setQueue (q : Qid) (x : Queue) : (s.setQueue q x).bases = s.bases := rfl
@[simp] theorem refs_setQueue (q : Qid) (x : Queue) : (s.setQueue q x).refs = s.refs := rfl
@[simp] theorem latches_setQueue (q : Qid) (x : Queue) : (s.setQueue q x).latches = s.latches := rfl
@[simp] theorem pend_setQueue (q : Qid) (x : Queue) : (s.setQueue q x).pend = s.pend := rfl
@[simp] theorem arrivals_setQueue (q : Qid) (x : Queue) : (s.setQueue q x).arrivals = s.arrivals := rfl
@[simp] theorem passDone_setQueue (q : Qid) (x : Queue) : (s.setQueue q x).passDone = s.passDone := rfl
@[simp] theorem stagerNotice_setQueue (q : Qid) (x : Queue) : (s.setQueue q x).stagerNotice = s.stagerNotice := rfl
@[simp] theorem tasks_setQueue (q : Qid) (x : Queue) : (s.setQueue q x).tasks = s.tasks := rfl
@[simp] theorem temperNotice_setQueue (q : Qid) (x : Queue) : (s.setQueue q x).temperNotice = s.temperNotice := rfl
@[simp] theorem fires_setQueue (q : Qid) (x : Queue) : (s.setQueue q x).fires = s.fires := rfl
@[simp] theorem pulsedNow_setQueue (q : Qid) (x : Queue) : (s.setQueue q x).pulsedNow = s.pulsedNow := rfl
@[simp] theorem wokeNow_setQueue (q : Qid) (x : Queue) : (s.setQueue q x).wokeNow = s.wokeNow := rfl
@[simp] theorem cache_setQueue (q : Qid) (x : Queue) : (s.setQueue q x).cache = s.cache := rfl
@[simp] theorem sigPackets_setQueue (q : Qid) (x : Queue) : (s.setQueue q x).sigPackets = s.sigPackets := rfl
@[simp] theorem sigOut_setQueue (q : Qid) (x : Queue) : (s.setQueue q x).sigOut = s.sigOut := rfl
@[simp] theorem pinWrite_setQueue (q : Qid) (x : Queue) : (s.setQueue q x).pinWrite = s.pinWrite := rfl
@[simp] theorem fills_setQueue (q : Qid) (x : Queue) : (s.setQueue q x).fills = s.fills := rfl
@[simp] theorem writeBacks_setQueue (q : Qid) (x : Queue) : (s.setQueue q x).writeBacks = s.writeBacks := rfl
@[simp] theorem hearths_setQueue (q : Qid) (x : Queue) : (s.setQueue q x).hearths = s.hearths := rfl
@[simp] theorem domains_setQueue (q : Qid) (x : Queue) : (s.setQueue q x).domains = s.domains := rfl
@[simp] theorem lanes_setQueue (q : Qid) (x : Queue) : (s.setQueue q x).lanes = s.lanes := rfl
@[simp] theorem chain_setQueue (q : Qid) (x : Queue) : (s.setQueue q x).chain = s.chain := rfl
@[simp] theorem mirror_setQueue (q : Qid) (x : Queue) : (s.setQueue q x).mirror = s.mirror := rfl
@[simp] theorem faults_setQueue (q : Qid) (x : Queue) : (s.setQueue q x).faults = s.faults := rfl
@[simp] theorem boot_setQueue (q : Qid) (x : Queue) : (s.setQueue q x).boot = s.boot := rfl
@[simp] theorem ember_setQueue (q : Qid) (x : Queue) : (s.setQueue q x).ember = s.ember := rfl
@[simp] theorem soc_setQueue (q : Qid) (x : Queue) : (s.setQueue q x).soc = s.soc := rfl
@[simp] theorem answer_setQueue (q : Qid) (x : Queue) : (s.setQueue q x).answer = s.answer := rfl
@[simp] theorem issuedNow_setQueue (q : Qid) (x : Queue) : (s.setQueue q x).issuedNow = s.issuedNow := rfl
@[simp] theorem storeAt_setQueue (q : Qid) (x : Queue) : (s.setQueue q x).storeAt = s.storeAt := rfl
@[simp] theorem seq_setQueue (q : Qid) (x : Queue) : (s.setQueue q x).seq = s.seq := rfl
@[simp] theorem fresh_setQueue (q : Qid) (x : Queue) : (s.setQueue q x).fresh = s.fresh := rfl
@[simp] theorem pending_setQueue (q : Qid) (x : Queue) : (s.setQueue q x).pending = s.pending := rfl
@[simp] theorem thr_setQueue (q : Qid) (x : Queue) (u : Tid) : (s.setQueue q x).thr u = s.thr u := rfl
@[simp] theorem core_setQueue (q : Qid) (x : Queue) (u : CoreId) : (s.setQueue q x).core u = s.core u := rfl
@[simp] theorem bank_setQueue (q : Qid) (x : Queue) (u : BankId) : (s.setQueue q x).bank u = s.bank u := rfl
@[simp] theorem quad_setQueue (q : Qid) (x : Queue) (u : Quadrant) : (s.setQueue q x).quad u = s.quad u := rfl
@[simp] theorem owner_setQueue (q : Qid) (x : Queue) (u : BitVec 12) : (s.setQueue q x).owner u = s.owner u := rfl
@[simp] theorem ring_setQueue (q : Qid) (x : Queue) (u : BitVec 10) : (s.setQueue q x).ring u = s.ring u := rfl
@[simp] theorem engine_setQueue (q : Qid) (x : Queue) (u : EngineId) : (s.setQueue q x).engine u = s.engine u := rfl
@[simp] theorem chan_setQueue (q : Qid) (x : Queue) (u : Chan) : (s.setQueue q x).chan u = s.chan u := rfl
@[simp] theorem port_setQueue (q : Qid) (x : Queue) (u : Port) : (s.setQueue q x).port u = s.port u := rfl
@[simp] theorem base_setQueue (q : Qid) (x : Queue) (u : BaseId) : (s.setQueue q x).base u = s.base u := rfl
@[simp] theorem ref_setQueue (q : Qid) (x : Queue) (u : BaseId) (v : BitVec 2) : (s.setQueue q x).ref u v = s.ref u v := rfl
@[simp] theorem task_setQueue (q : Qid) (x : Queue) (u : TaskId) : (s.setQueue q x).task u = s.task u := rfl
@[simp] theorem hearth_setQueue (q : Qid) (x : Queue) (u : HearthId) : (s.setQueue q x).hearth u = s.hearth u := rfl
@[simp] theorem dom_setQueue (q : Qid) (x : Queue) (u : Nat) : (s.setQueue q x).dom u = s.dom u := rfl
@[simp] theorem lane_setQueue (q : Qid) (x : Queue) (u : LaneId) : (s.setQueue q x).lane u = s.lane u := rfl
@[simp] theorem reg_setQueue (q : Qid) (x : Queue) (k : RegKind) (i j : Nat) : (s.setQueue q x).reg k i j = s.reg k i j := rfl
@[simp] theorem fld_setQueue (q : Qid) (x : Queue) (f : Fld) (i j : Nat) : (s.setQueue q x).fld f i j = s.fld f i j := rfl
@[simp] theorem bit_setQueue (q : Qid) (x : Queue) (f : Fld) (i j : Nat) : (s.setQueue q x).bit f i j = s.bit f i j := rfl
@[simp] theorem ns_setQueue (q : Qid) (x : Queue) : (s.setQueue q x).ns = s.ns := rfl
@[simp] theorem tb0_setQueue (q : Qid) (x : Queue) : (s.setQueue q x).tb0 = s.tb0 := rfl
@[simp] theorem tb0w_setQueue (q : Qid) (x : Queue) : (s.setQueue q x).tb0w = s.tb0w := rfl
@[simp] theorem queue_setQueue_same (q : Qid) (x : Queue) : (s.setQueue q x).queue q = x := by simp [State.queue, State.setQueue]

/-! ## State.setQuad -/

@[simp] theorem cycle_setQuad (k : Quadrant) (x : Quad) : (s.setQuad k x).cycle = s.cycle := rfl
@[simp] theorem tbSum_setQuad (k : Quadrant) (x : Quad) : (s.setQuad k x).tbSum = s.tbSum := rfl
@[simp] theorem incNow_setQuad (k : Quadrant) (x : Quad) : (s.setQuad k x).incNow = s.incNow := rfl
@[simp] theorem tbEra_setQuad (k : Quadrant) (x : Quad) : (s.setQuad k x).tbEra = s.tbEra := rfl
@[simp] theorem regs_setQuad (k : Quadrant) (x : Quad) : (s.setQuad k x).regs = s.regs := rfl
@[simp] theorem cycEv_setQuad (k : Quadrant) (x : Quad) : (s.setQuad k x).cycEv = s.cycEv := rfl
@[simp] theorem mem_setQuad (k : Quadrant) (x : Quad) : (s.setQuad k x).mem = s.mem := rfl
@[simp] theorem threads_setQuad (k : Quadrant) (x : Quad) : (s.setQuad k x).threads = s.threads := rfl
@[simp] theorem cores_setQuad (k : Quadrant) (x : Quad) : (s.setQuad k x).cores = s.cores := rfl
@[simp] theorem watches_setQuad (k : Quadrant) (x : Quad) : (s.setQuad k x).watches = s.watches := rfl
@[simp] theorem heldWakes_setQuad (k : Quadrant) (x : Quad) : (s.setQuad k x).heldWakes = s.heldWakes := rfl
@[simp] theorem heldRaises_setQuad (k : Quadrant) (x : Quad) : (s.setQuad k x).heldRaises = s.heldRaises := rfl
@[simp] theorem regWaits_setQuad (k : Quadrant) (x : Quad) : (s.setQuad k x).regWaits = s.regWaits := rfl
@[simp] theorem banks_setQuad (k : Quadrant) (x : Quad) : (s.setQuad k x).banks = s.banks := rfl
@[simp] theorem queues_setQuad (k : Quadrant) (x : Quad) : (s.setQuad k x).queues = s.queues := rfl
@[simp] theorem owners_setQuad (k : Quadrant) (x : Quad) : (s.setQuad k x).owners = s.owners := rfl
@[simp] theorem rings_setQuad (k : Quadrant) (x : Quad) : (s.setQuad k x).rings = s.rings := rfl
@[simp] theorem qeNotice_setQuad (k : Quadrant) (x : Quad) : (s.setQuad k x).qeNotice = s.qeNotice := rfl
@[simp] theorem purgeFree_setQuad (k : Quadrant) (x : Quad) : (s.setQuad k x).purgeFree = s.purgeFree := rfl
@[simp] theorem evmHeld_setQuad (k : Quadrant) (x : Quad) : (s.setQuad k x).evmHeld = s.evmHeld := rfl
@[simp] theorem qcyc_setQuad (k : Quadrant) (x : Quad) : (s.setQuad k x).qcyc = s.qcyc := rfl
@[simp] theorem freed_setQuad (k : Quadrant) (x : Quad) : (s.setQuad k x).freed = s.freed := rfl
@[simp] theorem cycSeq_setQuad (k : Quadrant) (x : Quad) : (s.setQuad k x).cycSeq = s.cycSeq := rfl
@[simp] theorem engines_setQuad (k : Quadrant) (x : Quad) : (s.setQuad k x).engines = s.engines := rfl
@[simp] theorem pmem_setQuad (k : Quadrant) (x : Quad) : (s.setQuad k x).pmem = s.pmem := rfl
@[simp] theorem channels_setQuad (k : Quadrant) (x : Quad) : (s.setQuad k x).channels = s.channels := rfl
@[simp] theorem ports_setQuad (k : Quadrant) (x : Quad) : (s.setQuad k x).ports = s.ports := rfl
@[simp] theorem bases_setQuad (k : Quadrant) (x : Quad) : (s.setQuad k x).bases = s.bases := rfl
@[simp] theorem refs_setQuad (k : Quadrant) (x : Quad) : (s.setQuad k x).refs = s.refs := rfl
@[simp] theorem latches_setQuad (k : Quadrant) (x : Quad) : (s.setQuad k x).latches = s.latches := rfl
@[simp] theorem pend_setQuad (k : Quadrant) (x : Quad) : (s.setQuad k x).pend = s.pend := rfl
@[simp] theorem arrivals_setQuad (k : Quadrant) (x : Quad) : (s.setQuad k x).arrivals = s.arrivals := rfl
@[simp] theorem passDone_setQuad (k : Quadrant) (x : Quad) : (s.setQuad k x).passDone = s.passDone := rfl
@[simp] theorem stagerNotice_setQuad (k : Quadrant) (x : Quad) : (s.setQuad k x).stagerNotice = s.stagerNotice := rfl
@[simp] theorem tasks_setQuad (k : Quadrant) (x : Quad) : (s.setQuad k x).tasks = s.tasks := rfl
@[simp] theorem temperNotice_setQuad (k : Quadrant) (x : Quad) : (s.setQuad k x).temperNotice = s.temperNotice := rfl
@[simp] theorem fires_setQuad (k : Quadrant) (x : Quad) : (s.setQuad k x).fires = s.fires := rfl
@[simp] theorem pulsedNow_setQuad (k : Quadrant) (x : Quad) : (s.setQuad k x).pulsedNow = s.pulsedNow := rfl
@[simp] theorem wokeNow_setQuad (k : Quadrant) (x : Quad) : (s.setQuad k x).wokeNow = s.wokeNow := rfl
@[simp] theorem cache_setQuad (k : Quadrant) (x : Quad) : (s.setQuad k x).cache = s.cache := rfl
@[simp] theorem sigPackets_setQuad (k : Quadrant) (x : Quad) : (s.setQuad k x).sigPackets = s.sigPackets := rfl
@[simp] theorem sigOut_setQuad (k : Quadrant) (x : Quad) : (s.setQuad k x).sigOut = s.sigOut := rfl
@[simp] theorem pinWrite_setQuad (k : Quadrant) (x : Quad) : (s.setQuad k x).pinWrite = s.pinWrite := rfl
@[simp] theorem fills_setQuad (k : Quadrant) (x : Quad) : (s.setQuad k x).fills = s.fills := rfl
@[simp] theorem writeBacks_setQuad (k : Quadrant) (x : Quad) : (s.setQuad k x).writeBacks = s.writeBacks := rfl
@[simp] theorem hearths_setQuad (k : Quadrant) (x : Quad) : (s.setQuad k x).hearths = s.hearths := rfl
@[simp] theorem domains_setQuad (k : Quadrant) (x : Quad) : (s.setQuad k x).domains = s.domains := rfl
@[simp] theorem lanes_setQuad (k : Quadrant) (x : Quad) : (s.setQuad k x).lanes = s.lanes := rfl
@[simp] theorem chain_setQuad (k : Quadrant) (x : Quad) : (s.setQuad k x).chain = s.chain := rfl
@[simp] theorem mirror_setQuad (k : Quadrant) (x : Quad) : (s.setQuad k x).mirror = s.mirror := rfl
@[simp] theorem faults_setQuad (k : Quadrant) (x : Quad) : (s.setQuad k x).faults = s.faults := rfl
@[simp] theorem boot_setQuad (k : Quadrant) (x : Quad) : (s.setQuad k x).boot = s.boot := rfl
@[simp] theorem ember_setQuad (k : Quadrant) (x : Quad) : (s.setQuad k x).ember = s.ember := rfl
@[simp] theorem soc_setQuad (k : Quadrant) (x : Quad) : (s.setQuad k x).soc = s.soc := rfl
@[simp] theorem answer_setQuad (k : Quadrant) (x : Quad) : (s.setQuad k x).answer = s.answer := rfl
@[simp] theorem issuedNow_setQuad (k : Quadrant) (x : Quad) : (s.setQuad k x).issuedNow = s.issuedNow := rfl
@[simp] theorem storeAt_setQuad (k : Quadrant) (x : Quad) : (s.setQuad k x).storeAt = s.storeAt := rfl
@[simp] theorem seq_setQuad (k : Quadrant) (x : Quad) : (s.setQuad k x).seq = s.seq := rfl
@[simp] theorem fresh_setQuad (k : Quadrant) (x : Quad) : (s.setQuad k x).fresh = s.fresh := rfl
@[simp] theorem pending_setQuad (k : Quadrant) (x : Quad) : (s.setQuad k x).pending = s.pending := rfl
@[simp] theorem thr_setQuad (k : Quadrant) (x : Quad) (u : Tid) : (s.setQuad k x).thr u = s.thr u := rfl
@[simp] theorem core_setQuad (k : Quadrant) (x : Quad) (u : CoreId) : (s.setQuad k x).core u = s.core u := rfl
@[simp] theorem bank_setQuad (k : Quadrant) (x : Quad) (u : BankId) : (s.setQuad k x).bank u = s.bank u := rfl
@[simp] theorem queue_setQuad (k : Quadrant) (x : Quad) (u : Qid) : (s.setQuad k x).queue u = s.queue u := rfl
@[simp] theorem owner_setQuad (k : Quadrant) (x : Quad) (u : BitVec 12) : (s.setQuad k x).owner u = s.owner u := rfl
@[simp] theorem ring_setQuad (k : Quadrant) (x : Quad) (u : BitVec 10) : (s.setQuad k x).ring u = s.ring u := rfl
@[simp] theorem engine_setQuad (k : Quadrant) (x : Quad) (u : EngineId) : (s.setQuad k x).engine u = s.engine u := rfl
@[simp] theorem chan_setQuad (k : Quadrant) (x : Quad) (u : Chan) : (s.setQuad k x).chan u = s.chan u := rfl
@[simp] theorem port_setQuad (k : Quadrant) (x : Quad) (u : Port) : (s.setQuad k x).port u = s.port u := rfl
@[simp] theorem base_setQuad (k : Quadrant) (x : Quad) (u : BaseId) : (s.setQuad k x).base u = s.base u := rfl
@[simp] theorem ref_setQuad (k : Quadrant) (x : Quad) (u : BaseId) (v : BitVec 2) : (s.setQuad k x).ref u v = s.ref u v := rfl
@[simp] theorem task_setQuad (k : Quadrant) (x : Quad) (u : TaskId) : (s.setQuad k x).task u = s.task u := rfl
@[simp] theorem hearth_setQuad (k : Quadrant) (x : Quad) (u : HearthId) : (s.setQuad k x).hearth u = s.hearth u := rfl
@[simp] theorem dom_setQuad (k : Quadrant) (x : Quad) (u : Nat) : (s.setQuad k x).dom u = s.dom u := rfl
@[simp] theorem lane_setQuad (k : Quadrant) (x : Quad) (u : LaneId) : (s.setQuad k x).lane u = s.lane u := rfl
@[simp] theorem reg_setQuad (k : Quadrant) (x : Quad) (r : RegKind) (i j : Nat) : (s.setQuad k x).reg r i j = s.reg r i j := rfl
@[simp] theorem fld_setQuad (k : Quadrant) (x : Quad) (f : Fld) (i j : Nat) : (s.setQuad k x).fld f i j = s.fld f i j := rfl
@[simp] theorem bit_setQuad (k : Quadrant) (x : Quad) (f : Fld) (i j : Nat) : (s.setQuad k x).bit f i j = s.bit f i j := rfl
@[simp] theorem ns_setQuad (k : Quadrant) (x : Quad) : (s.setQuad k x).ns = s.ns := rfl
@[simp] theorem tb0_setQuad (k : Quadrant) (x : Quad) : (s.setQuad k x).tb0 = s.tb0 := rfl
@[simp] theorem tb0w_setQuad (k : Quadrant) (x : Quad) : (s.setQuad k x).tb0w = s.tb0w := rfl
@[simp] theorem quad_setQuad_same (k : Quadrant) (x : Quad) : (s.setQuad k x).quad k = x := by simp [State.quad, State.setQuad]

/-! ## State.setOwner -/

@[simp] theorem cycle_setOwner (o : BitVec 12) (x : Owner) : (s.setOwner o x).cycle = s.cycle := rfl
@[simp] theorem tbSum_setOwner (o : BitVec 12) (x : Owner) : (s.setOwner o x).tbSum = s.tbSum := rfl
@[simp] theorem incNow_setOwner (o : BitVec 12) (x : Owner) : (s.setOwner o x).incNow = s.incNow := rfl
@[simp] theorem tbEra_setOwner (o : BitVec 12) (x : Owner) : (s.setOwner o x).tbEra = s.tbEra := rfl
@[simp] theorem regs_setOwner (o : BitVec 12) (x : Owner) : (s.setOwner o x).regs = s.regs := rfl
@[simp] theorem cycEv_setOwner (o : BitVec 12) (x : Owner) : (s.setOwner o x).cycEv = s.cycEv := rfl
@[simp] theorem mem_setOwner (o : BitVec 12) (x : Owner) : (s.setOwner o x).mem = s.mem := rfl
@[simp] theorem threads_setOwner (o : BitVec 12) (x : Owner) : (s.setOwner o x).threads = s.threads := rfl
@[simp] theorem cores_setOwner (o : BitVec 12) (x : Owner) : (s.setOwner o x).cores = s.cores := rfl
@[simp] theorem watches_setOwner (o : BitVec 12) (x : Owner) : (s.setOwner o x).watches = s.watches := rfl
@[simp] theorem heldWakes_setOwner (o : BitVec 12) (x : Owner) : (s.setOwner o x).heldWakes = s.heldWakes := rfl
@[simp] theorem heldRaises_setOwner (o : BitVec 12) (x : Owner) : (s.setOwner o x).heldRaises = s.heldRaises := rfl
@[simp] theorem regWaits_setOwner (o : BitVec 12) (x : Owner) : (s.setOwner o x).regWaits = s.regWaits := rfl
@[simp] theorem banks_setOwner (o : BitVec 12) (x : Owner) : (s.setOwner o x).banks = s.banks := rfl
@[simp] theorem queues_setOwner (o : BitVec 12) (x : Owner) : (s.setOwner o x).queues = s.queues := rfl
@[simp] theorem quads_setOwner (o : BitVec 12) (x : Owner) : (s.setOwner o x).quads = s.quads := rfl
@[simp] theorem rings_setOwner (o : BitVec 12) (x : Owner) : (s.setOwner o x).rings = s.rings := rfl
@[simp] theorem qeNotice_setOwner (o : BitVec 12) (x : Owner) : (s.setOwner o x).qeNotice = s.qeNotice := rfl
@[simp] theorem purgeFree_setOwner (o : BitVec 12) (x : Owner) : (s.setOwner o x).purgeFree = s.purgeFree := rfl
@[simp] theorem evmHeld_setOwner (o : BitVec 12) (x : Owner) : (s.setOwner o x).evmHeld = s.evmHeld := rfl
@[simp] theorem qcyc_setOwner (o : BitVec 12) (x : Owner) : (s.setOwner o x).qcyc = s.qcyc := rfl
@[simp] theorem freed_setOwner (o : BitVec 12) (x : Owner) : (s.setOwner o x).freed = s.freed := rfl
@[simp] theorem cycSeq_setOwner (o : BitVec 12) (x : Owner) : (s.setOwner o x).cycSeq = s.cycSeq := rfl
@[simp] theorem engines_setOwner (o : BitVec 12) (x : Owner) : (s.setOwner o x).engines = s.engines := rfl
@[simp] theorem pmem_setOwner (o : BitVec 12) (x : Owner) : (s.setOwner o x).pmem = s.pmem := rfl
@[simp] theorem channels_setOwner (o : BitVec 12) (x : Owner) : (s.setOwner o x).channels = s.channels := rfl
@[simp] theorem ports_setOwner (o : BitVec 12) (x : Owner) : (s.setOwner o x).ports = s.ports := rfl
@[simp] theorem bases_setOwner (o : BitVec 12) (x : Owner) : (s.setOwner o x).bases = s.bases := rfl
@[simp] theorem refs_setOwner (o : BitVec 12) (x : Owner) : (s.setOwner o x).refs = s.refs := rfl
@[simp] theorem latches_setOwner (o : BitVec 12) (x : Owner) : (s.setOwner o x).latches = s.latches := rfl
@[simp] theorem pend_setOwner (o : BitVec 12) (x : Owner) : (s.setOwner o x).pend = s.pend := rfl
@[simp] theorem arrivals_setOwner (o : BitVec 12) (x : Owner) : (s.setOwner o x).arrivals = s.arrivals := rfl
@[simp] theorem passDone_setOwner (o : BitVec 12) (x : Owner) : (s.setOwner o x).passDone = s.passDone := rfl
@[simp] theorem stagerNotice_setOwner (o : BitVec 12) (x : Owner) : (s.setOwner o x).stagerNotice = s.stagerNotice := rfl
@[simp] theorem tasks_setOwner (o : BitVec 12) (x : Owner) : (s.setOwner o x).tasks = s.tasks := rfl
@[simp] theorem temperNotice_setOwner (o : BitVec 12) (x : Owner) : (s.setOwner o x).temperNotice = s.temperNotice := rfl
@[simp] theorem fires_setOwner (o : BitVec 12) (x : Owner) : (s.setOwner o x).fires = s.fires := rfl
@[simp] theorem pulsedNow_setOwner (o : BitVec 12) (x : Owner) : (s.setOwner o x).pulsedNow = s.pulsedNow := rfl
@[simp] theorem wokeNow_setOwner (o : BitVec 12) (x : Owner) : (s.setOwner o x).wokeNow = s.wokeNow := rfl
@[simp] theorem cache_setOwner (o : BitVec 12) (x : Owner) : (s.setOwner o x).cache = s.cache := rfl
@[simp] theorem sigPackets_setOwner (o : BitVec 12) (x : Owner) : (s.setOwner o x).sigPackets = s.sigPackets := rfl
@[simp] theorem sigOut_setOwner (o : BitVec 12) (x : Owner) : (s.setOwner o x).sigOut = s.sigOut := rfl
@[simp] theorem pinWrite_setOwner (o : BitVec 12) (x : Owner) : (s.setOwner o x).pinWrite = s.pinWrite := rfl
@[simp] theorem fills_setOwner (o : BitVec 12) (x : Owner) : (s.setOwner o x).fills = s.fills := rfl
@[simp] theorem writeBacks_setOwner (o : BitVec 12) (x : Owner) : (s.setOwner o x).writeBacks = s.writeBacks := rfl
@[simp] theorem hearths_setOwner (o : BitVec 12) (x : Owner) : (s.setOwner o x).hearths = s.hearths := rfl
@[simp] theorem domains_setOwner (o : BitVec 12) (x : Owner) : (s.setOwner o x).domains = s.domains := rfl
@[simp] theorem lanes_setOwner (o : BitVec 12) (x : Owner) : (s.setOwner o x).lanes = s.lanes := rfl
@[simp] theorem chain_setOwner (o : BitVec 12) (x : Owner) : (s.setOwner o x).chain = s.chain := rfl
@[simp] theorem mirror_setOwner (o : BitVec 12) (x : Owner) : (s.setOwner o x).mirror = s.mirror := rfl
@[simp] theorem faults_setOwner (o : BitVec 12) (x : Owner) : (s.setOwner o x).faults = s.faults := rfl
@[simp] theorem boot_setOwner (o : BitVec 12) (x : Owner) : (s.setOwner o x).boot = s.boot := rfl
@[simp] theorem ember_setOwner (o : BitVec 12) (x : Owner) : (s.setOwner o x).ember = s.ember := rfl
@[simp] theorem soc_setOwner (o : BitVec 12) (x : Owner) : (s.setOwner o x).soc = s.soc := rfl
@[simp] theorem answer_setOwner (o : BitVec 12) (x : Owner) : (s.setOwner o x).answer = s.answer := rfl
@[simp] theorem issuedNow_setOwner (o : BitVec 12) (x : Owner) : (s.setOwner o x).issuedNow = s.issuedNow := rfl
@[simp] theorem storeAt_setOwner (o : BitVec 12) (x : Owner) : (s.setOwner o x).storeAt = s.storeAt := rfl
@[simp] theorem seq_setOwner (o : BitVec 12) (x : Owner) : (s.setOwner o x).seq = s.seq := rfl
@[simp] theorem fresh_setOwner (o : BitVec 12) (x : Owner) : (s.setOwner o x).fresh = s.fresh := rfl
@[simp] theorem pending_setOwner (o : BitVec 12) (x : Owner) : (s.setOwner o x).pending = s.pending := rfl
@[simp] theorem thr_setOwner (o : BitVec 12) (x : Owner) (u : Tid) : (s.setOwner o x).thr u = s.thr u := rfl
@[simp] theorem core_setOwner (o : BitVec 12) (x : Owner) (u : CoreId) : (s.setOwner o x).core u = s.core u := rfl
@[simp] theorem bank_setOwner (o : BitVec 12) (x : Owner) (u : BankId) : (s.setOwner o x).bank u = s.bank u := rfl
@[simp] theorem queue_setOwner (o : BitVec 12) (x : Owner) (u : Qid) : (s.setOwner o x).queue u = s.queue u := rfl
@[simp] theorem quad_setOwner (o : BitVec 12) (x : Owner) (u : Quadrant) : (s.setOwner o x).quad u = s.quad u := rfl
@[simp] theorem ring_setOwner (o : BitVec 12) (x : Owner) (u : BitVec 10) : (s.setOwner o x).ring u = s.ring u := rfl
@[simp] theorem engine_setOwner (o : BitVec 12) (x : Owner) (u : EngineId) : (s.setOwner o x).engine u = s.engine u := rfl
@[simp] theorem chan_setOwner (o : BitVec 12) (x : Owner) (u : Chan) : (s.setOwner o x).chan u = s.chan u := rfl
@[simp] theorem port_setOwner (o : BitVec 12) (x : Owner) (u : Port) : (s.setOwner o x).port u = s.port u := rfl
@[simp] theorem base_setOwner (o : BitVec 12) (x : Owner) (u : BaseId) : (s.setOwner o x).base u = s.base u := rfl
@[simp] theorem ref_setOwner (o : BitVec 12) (x : Owner) (u : BaseId) (v : BitVec 2) : (s.setOwner o x).ref u v = s.ref u v := rfl
@[simp] theorem task_setOwner (o : BitVec 12) (x : Owner) (u : TaskId) : (s.setOwner o x).task u = s.task u := rfl
@[simp] theorem hearth_setOwner (o : BitVec 12) (x : Owner) (u : HearthId) : (s.setOwner o x).hearth u = s.hearth u := rfl
@[simp] theorem dom_setOwner (o : BitVec 12) (x : Owner) (u : Nat) : (s.setOwner o x).dom u = s.dom u := rfl
@[simp] theorem lane_setOwner (o : BitVec 12) (x : Owner) (u : LaneId) : (s.setOwner o x).lane u = s.lane u := rfl
@[simp] theorem reg_setOwner (o : BitVec 12) (x : Owner) (k : RegKind) (i j : Nat) : (s.setOwner o x).reg k i j = s.reg k i j := rfl
@[simp] theorem fld_setOwner (o : BitVec 12) (x : Owner) (f : Fld) (i j : Nat) : (s.setOwner o x).fld f i j = s.fld f i j := rfl
@[simp] theorem bit_setOwner (o : BitVec 12) (x : Owner) (f : Fld) (i j : Nat) : (s.setOwner o x).bit f i j = s.bit f i j := rfl
@[simp] theorem ns_setOwner (o : BitVec 12) (x : Owner) : (s.setOwner o x).ns = s.ns := rfl
@[simp] theorem tb0_setOwner (o : BitVec 12) (x : Owner) : (s.setOwner o x).tb0 = s.tb0 := rfl
@[simp] theorem tb0w_setOwner (o : BitVec 12) (x : Owner) : (s.setOwner o x).tb0w = s.tb0w := rfl
@[simp] theorem owner_setOwner_same (o : BitVec 12) (x : Owner) : (s.setOwner o x).owner o = x := by simp [State.owner, State.setOwner]

/-! ## State.setRing -/

@[simp] theorem cycle_setRing (r : BitVec 10) (x : Ring) : (s.setRing r x).cycle = s.cycle := rfl
@[simp] theorem tbSum_setRing (r : BitVec 10) (x : Ring) : (s.setRing r x).tbSum = s.tbSum := rfl
@[simp] theorem incNow_setRing (r : BitVec 10) (x : Ring) : (s.setRing r x).incNow = s.incNow := rfl
@[simp] theorem tbEra_setRing (r : BitVec 10) (x : Ring) : (s.setRing r x).tbEra = s.tbEra := rfl
@[simp] theorem regs_setRing (r : BitVec 10) (x : Ring) : (s.setRing r x).regs = s.regs := rfl
@[simp] theorem cycEv_setRing (r : BitVec 10) (x : Ring) : (s.setRing r x).cycEv = s.cycEv := rfl
@[simp] theorem mem_setRing (r : BitVec 10) (x : Ring) : (s.setRing r x).mem = s.mem := rfl
@[simp] theorem threads_setRing (r : BitVec 10) (x : Ring) : (s.setRing r x).threads = s.threads := rfl
@[simp] theorem cores_setRing (r : BitVec 10) (x : Ring) : (s.setRing r x).cores = s.cores := rfl
@[simp] theorem watches_setRing (r : BitVec 10) (x : Ring) : (s.setRing r x).watches = s.watches := rfl
@[simp] theorem heldWakes_setRing (r : BitVec 10) (x : Ring) : (s.setRing r x).heldWakes = s.heldWakes := rfl
@[simp] theorem heldRaises_setRing (r : BitVec 10) (x : Ring) : (s.setRing r x).heldRaises = s.heldRaises := rfl
@[simp] theorem regWaits_setRing (r : BitVec 10) (x : Ring) : (s.setRing r x).regWaits = s.regWaits := rfl
@[simp] theorem banks_setRing (r : BitVec 10) (x : Ring) : (s.setRing r x).banks = s.banks := rfl
@[simp] theorem queues_setRing (r : BitVec 10) (x : Ring) : (s.setRing r x).queues = s.queues := rfl
@[simp] theorem quads_setRing (r : BitVec 10) (x : Ring) : (s.setRing r x).quads = s.quads := rfl
@[simp] theorem owners_setRing (r : BitVec 10) (x : Ring) : (s.setRing r x).owners = s.owners := rfl
@[simp] theorem qeNotice_setRing (r : BitVec 10) (x : Ring) : (s.setRing r x).qeNotice = s.qeNotice := rfl
@[simp] theorem purgeFree_setRing (r : BitVec 10) (x : Ring) : (s.setRing r x).purgeFree = s.purgeFree := rfl
@[simp] theorem evmHeld_setRing (r : BitVec 10) (x : Ring) : (s.setRing r x).evmHeld = s.evmHeld := rfl
@[simp] theorem qcyc_setRing (r : BitVec 10) (x : Ring) : (s.setRing r x).qcyc = s.qcyc := rfl
@[simp] theorem freed_setRing (r : BitVec 10) (x : Ring) : (s.setRing r x).freed = s.freed := rfl
@[simp] theorem cycSeq_setRing (r : BitVec 10) (x : Ring) : (s.setRing r x).cycSeq = s.cycSeq := rfl
@[simp] theorem engines_setRing (r : BitVec 10) (x : Ring) : (s.setRing r x).engines = s.engines := rfl
@[simp] theorem pmem_setRing (r : BitVec 10) (x : Ring) : (s.setRing r x).pmem = s.pmem := rfl
@[simp] theorem channels_setRing (r : BitVec 10) (x : Ring) : (s.setRing r x).channels = s.channels := rfl
@[simp] theorem ports_setRing (r : BitVec 10) (x : Ring) : (s.setRing r x).ports = s.ports := rfl
@[simp] theorem bases_setRing (r : BitVec 10) (x : Ring) : (s.setRing r x).bases = s.bases := rfl
@[simp] theorem refs_setRing (r : BitVec 10) (x : Ring) : (s.setRing r x).refs = s.refs := rfl
@[simp] theorem latches_setRing (r : BitVec 10) (x : Ring) : (s.setRing r x).latches = s.latches := rfl
@[simp] theorem pend_setRing (r : BitVec 10) (x : Ring) : (s.setRing r x).pend = s.pend := rfl
@[simp] theorem arrivals_setRing (r : BitVec 10) (x : Ring) : (s.setRing r x).arrivals = s.arrivals := rfl
@[simp] theorem passDone_setRing (r : BitVec 10) (x : Ring) : (s.setRing r x).passDone = s.passDone := rfl
@[simp] theorem stagerNotice_setRing (r : BitVec 10) (x : Ring) : (s.setRing r x).stagerNotice = s.stagerNotice := rfl
@[simp] theorem tasks_setRing (r : BitVec 10) (x : Ring) : (s.setRing r x).tasks = s.tasks := rfl
@[simp] theorem temperNotice_setRing (r : BitVec 10) (x : Ring) : (s.setRing r x).temperNotice = s.temperNotice := rfl
@[simp] theorem fires_setRing (r : BitVec 10) (x : Ring) : (s.setRing r x).fires = s.fires := rfl
@[simp] theorem pulsedNow_setRing (r : BitVec 10) (x : Ring) : (s.setRing r x).pulsedNow = s.pulsedNow := rfl
@[simp] theorem wokeNow_setRing (r : BitVec 10) (x : Ring) : (s.setRing r x).wokeNow = s.wokeNow := rfl
@[simp] theorem cache_setRing (r : BitVec 10) (x : Ring) : (s.setRing r x).cache = s.cache := rfl
@[simp] theorem sigPackets_setRing (r : BitVec 10) (x : Ring) : (s.setRing r x).sigPackets = s.sigPackets := rfl
@[simp] theorem sigOut_setRing (r : BitVec 10) (x : Ring) : (s.setRing r x).sigOut = s.sigOut := rfl
@[simp] theorem pinWrite_setRing (r : BitVec 10) (x : Ring) : (s.setRing r x).pinWrite = s.pinWrite := rfl
@[simp] theorem fills_setRing (r : BitVec 10) (x : Ring) : (s.setRing r x).fills = s.fills := rfl
@[simp] theorem writeBacks_setRing (r : BitVec 10) (x : Ring) : (s.setRing r x).writeBacks = s.writeBacks := rfl
@[simp] theorem hearths_setRing (r : BitVec 10) (x : Ring) : (s.setRing r x).hearths = s.hearths := rfl
@[simp] theorem domains_setRing (r : BitVec 10) (x : Ring) : (s.setRing r x).domains = s.domains := rfl
@[simp] theorem lanes_setRing (r : BitVec 10) (x : Ring) : (s.setRing r x).lanes = s.lanes := rfl
@[simp] theorem chain_setRing (r : BitVec 10) (x : Ring) : (s.setRing r x).chain = s.chain := rfl
@[simp] theorem mirror_setRing (r : BitVec 10) (x : Ring) : (s.setRing r x).mirror = s.mirror := rfl
@[simp] theorem faults_setRing (r : BitVec 10) (x : Ring) : (s.setRing r x).faults = s.faults := rfl
@[simp] theorem boot_setRing (r : BitVec 10) (x : Ring) : (s.setRing r x).boot = s.boot := rfl
@[simp] theorem ember_setRing (r : BitVec 10) (x : Ring) : (s.setRing r x).ember = s.ember := rfl
@[simp] theorem soc_setRing (r : BitVec 10) (x : Ring) : (s.setRing r x).soc = s.soc := rfl
@[simp] theorem answer_setRing (r : BitVec 10) (x : Ring) : (s.setRing r x).answer = s.answer := rfl
@[simp] theorem issuedNow_setRing (r : BitVec 10) (x : Ring) : (s.setRing r x).issuedNow = s.issuedNow := rfl
@[simp] theorem storeAt_setRing (r : BitVec 10) (x : Ring) : (s.setRing r x).storeAt = s.storeAt := rfl
@[simp] theorem seq_setRing (r : BitVec 10) (x : Ring) : (s.setRing r x).seq = s.seq := rfl
@[simp] theorem fresh_setRing (r : BitVec 10) (x : Ring) : (s.setRing r x).fresh = s.fresh := rfl
@[simp] theorem pending_setRing (r : BitVec 10) (x : Ring) : (s.setRing r x).pending = s.pending := rfl
@[simp] theorem thr_setRing (r : BitVec 10) (x : Ring) (u : Tid) : (s.setRing r x).thr u = s.thr u := rfl
@[simp] theorem core_setRing (r : BitVec 10) (x : Ring) (u : CoreId) : (s.setRing r x).core u = s.core u := rfl
@[simp] theorem bank_setRing (r : BitVec 10) (x : Ring) (u : BankId) : (s.setRing r x).bank u = s.bank u := rfl
@[simp] theorem queue_setRing (r : BitVec 10) (x : Ring) (u : Qid) : (s.setRing r x).queue u = s.queue u := rfl
@[simp] theorem quad_setRing (r : BitVec 10) (x : Ring) (u : Quadrant) : (s.setRing r x).quad u = s.quad u := rfl
@[simp] theorem owner_setRing (r : BitVec 10) (x : Ring) (u : BitVec 12) : (s.setRing r x).owner u = s.owner u := rfl
@[simp] theorem engine_setRing (r : BitVec 10) (x : Ring) (u : EngineId) : (s.setRing r x).engine u = s.engine u := rfl
@[simp] theorem chan_setRing (r : BitVec 10) (x : Ring) (u : Chan) : (s.setRing r x).chan u = s.chan u := rfl
@[simp] theorem port_setRing (r : BitVec 10) (x : Ring) (u : Port) : (s.setRing r x).port u = s.port u := rfl
@[simp] theorem base_setRing (r : BitVec 10) (x : Ring) (u : BaseId) : (s.setRing r x).base u = s.base u := rfl
@[simp] theorem ref_setRing (r : BitVec 10) (x : Ring) (u : BaseId) (v : BitVec 2) : (s.setRing r x).ref u v = s.ref u v := rfl
@[simp] theorem task_setRing (r : BitVec 10) (x : Ring) (u : TaskId) : (s.setRing r x).task u = s.task u := rfl
@[simp] theorem hearth_setRing (r : BitVec 10) (x : Ring) (u : HearthId) : (s.setRing r x).hearth u = s.hearth u := rfl
@[simp] theorem dom_setRing (r : BitVec 10) (x : Ring) (u : Nat) : (s.setRing r x).dom u = s.dom u := rfl
@[simp] theorem lane_setRing (r : BitVec 10) (x : Ring) (u : LaneId) : (s.setRing r x).lane u = s.lane u := rfl
@[simp] theorem reg_setRing (r : BitVec 10) (x : Ring) (k : RegKind) (i j : Nat) : (s.setRing r x).reg k i j = s.reg k i j := rfl
@[simp] theorem fld_setRing (r : BitVec 10) (x : Ring) (f : Fld) (i j : Nat) : (s.setRing r x).fld f i j = s.fld f i j := rfl
@[simp] theorem bit_setRing (r : BitVec 10) (x : Ring) (f : Fld) (i j : Nat) : (s.setRing r x).bit f i j = s.bit f i j := rfl
@[simp] theorem ns_setRing (r : BitVec 10) (x : Ring) : (s.setRing r x).ns = s.ns := rfl
@[simp] theorem tb0_setRing (r : BitVec 10) (x : Ring) : (s.setRing r x).tb0 = s.tb0 := rfl
@[simp] theorem tb0w_setRing (r : BitVec 10) (x : Ring) : (s.setRing r x).tb0w = s.tb0w := rfl
@[simp] theorem ring_setRing_same (r : BitVec 10) (x : Ring) : (s.setRing r x).ring r = x := by simp [State.ring, State.setRing]

/-! ## State.setEngine -/

@[simp] theorem cycle_setEngine (e : EngineId) (x : Engine) : (s.setEngine e x).cycle = s.cycle := rfl
@[simp] theorem tbSum_setEngine (e : EngineId) (x : Engine) : (s.setEngine e x).tbSum = s.tbSum := rfl
@[simp] theorem incNow_setEngine (e : EngineId) (x : Engine) : (s.setEngine e x).incNow = s.incNow := rfl
@[simp] theorem tbEra_setEngine (e : EngineId) (x : Engine) : (s.setEngine e x).tbEra = s.tbEra := rfl
@[simp] theorem regs_setEngine (e : EngineId) (x : Engine) : (s.setEngine e x).regs = s.regs := rfl
@[simp] theorem cycEv_setEngine (e : EngineId) (x : Engine) : (s.setEngine e x).cycEv = s.cycEv := rfl
@[simp] theorem mem_setEngine (e : EngineId) (x : Engine) : (s.setEngine e x).mem = s.mem := rfl
@[simp] theorem threads_setEngine (e : EngineId) (x : Engine) : (s.setEngine e x).threads = s.threads := rfl
@[simp] theorem cores_setEngine (e : EngineId) (x : Engine) : (s.setEngine e x).cores = s.cores := rfl
@[simp] theorem watches_setEngine (e : EngineId) (x : Engine) : (s.setEngine e x).watches = s.watches := rfl
@[simp] theorem heldWakes_setEngine (e : EngineId) (x : Engine) : (s.setEngine e x).heldWakes = s.heldWakes := rfl
@[simp] theorem heldRaises_setEngine (e : EngineId) (x : Engine) : (s.setEngine e x).heldRaises = s.heldRaises := rfl
@[simp] theorem regWaits_setEngine (e : EngineId) (x : Engine) : (s.setEngine e x).regWaits = s.regWaits := rfl
@[simp] theorem banks_setEngine (e : EngineId) (x : Engine) : (s.setEngine e x).banks = s.banks := rfl
@[simp] theorem queues_setEngine (e : EngineId) (x : Engine) : (s.setEngine e x).queues = s.queues := rfl
@[simp] theorem quads_setEngine (e : EngineId) (x : Engine) : (s.setEngine e x).quads = s.quads := rfl
@[simp] theorem owners_setEngine (e : EngineId) (x : Engine) : (s.setEngine e x).owners = s.owners := rfl
@[simp] theorem rings_setEngine (e : EngineId) (x : Engine) : (s.setEngine e x).rings = s.rings := rfl
@[simp] theorem qeNotice_setEngine (e : EngineId) (x : Engine) : (s.setEngine e x).qeNotice = s.qeNotice := rfl
@[simp] theorem purgeFree_setEngine (e : EngineId) (x : Engine) : (s.setEngine e x).purgeFree = s.purgeFree := rfl
@[simp] theorem evmHeld_setEngine (e : EngineId) (x : Engine) : (s.setEngine e x).evmHeld = s.evmHeld := rfl
@[simp] theorem qcyc_setEngine (e : EngineId) (x : Engine) : (s.setEngine e x).qcyc = s.qcyc := rfl
@[simp] theorem freed_setEngine (e : EngineId) (x : Engine) : (s.setEngine e x).freed = s.freed := rfl
@[simp] theorem cycSeq_setEngine (e : EngineId) (x : Engine) : (s.setEngine e x).cycSeq = s.cycSeq := rfl
@[simp] theorem pmem_setEngine (e : EngineId) (x : Engine) : (s.setEngine e x).pmem = s.pmem := rfl
@[simp] theorem channels_setEngine (e : EngineId) (x : Engine) : (s.setEngine e x).channels = s.channels := rfl
@[simp] theorem ports_setEngine (e : EngineId) (x : Engine) : (s.setEngine e x).ports = s.ports := rfl
@[simp] theorem bases_setEngine (e : EngineId) (x : Engine) : (s.setEngine e x).bases = s.bases := rfl
@[simp] theorem refs_setEngine (e : EngineId) (x : Engine) : (s.setEngine e x).refs = s.refs := rfl
@[simp] theorem latches_setEngine (e : EngineId) (x : Engine) : (s.setEngine e x).latches = s.latches := rfl
@[simp] theorem pend_setEngine (e : EngineId) (x : Engine) : (s.setEngine e x).pend = s.pend := rfl
@[simp] theorem arrivals_setEngine (e : EngineId) (x : Engine) : (s.setEngine e x).arrivals = s.arrivals := rfl
@[simp] theorem passDone_setEngine (e : EngineId) (x : Engine) : (s.setEngine e x).passDone = s.passDone := rfl
@[simp] theorem stagerNotice_setEngine (e : EngineId) (x : Engine) : (s.setEngine e x).stagerNotice = s.stagerNotice := rfl
@[simp] theorem tasks_setEngine (e : EngineId) (x : Engine) : (s.setEngine e x).tasks = s.tasks := rfl
@[simp] theorem temperNotice_setEngine (e : EngineId) (x : Engine) : (s.setEngine e x).temperNotice = s.temperNotice := rfl
@[simp] theorem fires_setEngine (e : EngineId) (x : Engine) : (s.setEngine e x).fires = s.fires := rfl
@[simp] theorem pulsedNow_setEngine (e : EngineId) (x : Engine) : (s.setEngine e x).pulsedNow = s.pulsedNow := rfl
@[simp] theorem wokeNow_setEngine (e : EngineId) (x : Engine) : (s.setEngine e x).wokeNow = s.wokeNow := rfl
@[simp] theorem cache_setEngine (e : EngineId) (x : Engine) : (s.setEngine e x).cache = s.cache := rfl
@[simp] theorem sigPackets_setEngine (e : EngineId) (x : Engine) : (s.setEngine e x).sigPackets = s.sigPackets := rfl
@[simp] theorem sigOut_setEngine (e : EngineId) (x : Engine) : (s.setEngine e x).sigOut = s.sigOut := rfl
@[simp] theorem pinWrite_setEngine (e : EngineId) (x : Engine) : (s.setEngine e x).pinWrite = s.pinWrite := rfl
@[simp] theorem fills_setEngine (e : EngineId) (x : Engine) : (s.setEngine e x).fills = s.fills := rfl
@[simp] theorem writeBacks_setEngine (e : EngineId) (x : Engine) : (s.setEngine e x).writeBacks = s.writeBacks := rfl
@[simp] theorem hearths_setEngine (e : EngineId) (x : Engine) : (s.setEngine e x).hearths = s.hearths := rfl
@[simp] theorem domains_setEngine (e : EngineId) (x : Engine) : (s.setEngine e x).domains = s.domains := rfl
@[simp] theorem lanes_setEngine (e : EngineId) (x : Engine) : (s.setEngine e x).lanes = s.lanes := rfl
@[simp] theorem chain_setEngine (e : EngineId) (x : Engine) : (s.setEngine e x).chain = s.chain := rfl
@[simp] theorem mirror_setEngine (e : EngineId) (x : Engine) : (s.setEngine e x).mirror = s.mirror := rfl
@[simp] theorem faults_setEngine (e : EngineId) (x : Engine) : (s.setEngine e x).faults = s.faults := rfl
@[simp] theorem boot_setEngine (e : EngineId) (x : Engine) : (s.setEngine e x).boot = s.boot := rfl
@[simp] theorem ember_setEngine (e : EngineId) (x : Engine) : (s.setEngine e x).ember = s.ember := rfl
@[simp] theorem soc_setEngine (e : EngineId) (x : Engine) : (s.setEngine e x).soc = s.soc := rfl
@[simp] theorem answer_setEngine (e : EngineId) (x : Engine) : (s.setEngine e x).answer = s.answer := rfl
@[simp] theorem issuedNow_setEngine (e : EngineId) (x : Engine) : (s.setEngine e x).issuedNow = s.issuedNow := rfl
@[simp] theorem storeAt_setEngine (e : EngineId) (x : Engine) : (s.setEngine e x).storeAt = s.storeAt := rfl
@[simp] theorem seq_setEngine (e : EngineId) (x : Engine) : (s.setEngine e x).seq = s.seq := rfl
@[simp] theorem fresh_setEngine (e : EngineId) (x : Engine) : (s.setEngine e x).fresh = s.fresh := rfl
@[simp] theorem pending_setEngine (e : EngineId) (x : Engine) : (s.setEngine e x).pending = s.pending := rfl
@[simp] theorem thr_setEngine (e : EngineId) (x : Engine) (u : Tid) : (s.setEngine e x).thr u = s.thr u := rfl
@[simp] theorem core_setEngine (e : EngineId) (x : Engine) (u : CoreId) : (s.setEngine e x).core u = s.core u := rfl
@[simp] theorem bank_setEngine (e : EngineId) (x : Engine) (u : BankId) : (s.setEngine e x).bank u = s.bank u := rfl
@[simp] theorem queue_setEngine (e : EngineId) (x : Engine) (u : Qid) : (s.setEngine e x).queue u = s.queue u := rfl
@[simp] theorem quad_setEngine (e : EngineId) (x : Engine) (u : Quadrant) : (s.setEngine e x).quad u = s.quad u := rfl
@[simp] theorem owner_setEngine (e : EngineId) (x : Engine) (u : BitVec 12) : (s.setEngine e x).owner u = s.owner u := rfl
@[simp] theorem ring_setEngine (e : EngineId) (x : Engine) (u : BitVec 10) : (s.setEngine e x).ring u = s.ring u := rfl
@[simp] theorem chan_setEngine (e : EngineId) (x : Engine) (u : Chan) : (s.setEngine e x).chan u = s.chan u := rfl
@[simp] theorem port_setEngine (e : EngineId) (x : Engine) (u : Port) : (s.setEngine e x).port u = s.port u := rfl
@[simp] theorem base_setEngine (e : EngineId) (x : Engine) (u : BaseId) : (s.setEngine e x).base u = s.base u := rfl
@[simp] theorem ref_setEngine (e : EngineId) (x : Engine) (u : BaseId) (v : BitVec 2) : (s.setEngine e x).ref u v = s.ref u v := rfl
@[simp] theorem task_setEngine (e : EngineId) (x : Engine) (u : TaskId) : (s.setEngine e x).task u = s.task u := rfl
@[simp] theorem hearth_setEngine (e : EngineId) (x : Engine) (u : HearthId) : (s.setEngine e x).hearth u = s.hearth u := rfl
@[simp] theorem dom_setEngine (e : EngineId) (x : Engine) (u : Nat) : (s.setEngine e x).dom u = s.dom u := rfl
@[simp] theorem lane_setEngine (e : EngineId) (x : Engine) (u : LaneId) : (s.setEngine e x).lane u = s.lane u := rfl
@[simp] theorem reg_setEngine (e : EngineId) (x : Engine) (k : RegKind) (i j : Nat) : (s.setEngine e x).reg k i j = s.reg k i j := rfl
@[simp] theorem fld_setEngine (e : EngineId) (x : Engine) (f : Fld) (i j : Nat) : (s.setEngine e x).fld f i j = s.fld f i j := rfl
@[simp] theorem bit_setEngine (e : EngineId) (x : Engine) (f : Fld) (i j : Nat) : (s.setEngine e x).bit f i j = s.bit f i j := rfl
@[simp] theorem ns_setEngine (e : EngineId) (x : Engine) : (s.setEngine e x).ns = s.ns := rfl
@[simp] theorem tb0_setEngine (e : EngineId) (x : Engine) : (s.setEngine e x).tb0 = s.tb0 := rfl
@[simp] theorem tb0w_setEngine (e : EngineId) (x : Engine) : (s.setEngine e x).tb0w = s.tb0w := rfl
@[simp] theorem engine_setEngine_same (e : EngineId) (x : Engine) : (s.setEngine e x).engine e = x := by simp [State.engine, State.setEngine]

/-! ## State.setChan -/

@[simp] theorem cycle_setChan (c : Chan) (x : Channel) : (s.setChan c x).cycle = s.cycle := rfl
@[simp] theorem tbSum_setChan (c : Chan) (x : Channel) : (s.setChan c x).tbSum = s.tbSum := rfl
@[simp] theorem incNow_setChan (c : Chan) (x : Channel) : (s.setChan c x).incNow = s.incNow := rfl
@[simp] theorem tbEra_setChan (c : Chan) (x : Channel) : (s.setChan c x).tbEra = s.tbEra := rfl
@[simp] theorem regs_setChan (c : Chan) (x : Channel) : (s.setChan c x).regs = s.regs := rfl
@[simp] theorem cycEv_setChan (c : Chan) (x : Channel) : (s.setChan c x).cycEv = s.cycEv := rfl
@[simp] theorem mem_setChan (c : Chan) (x : Channel) : (s.setChan c x).mem = s.mem := rfl
@[simp] theorem threads_setChan (c : Chan) (x : Channel) : (s.setChan c x).threads = s.threads := rfl
@[simp] theorem cores_setChan (c : Chan) (x : Channel) : (s.setChan c x).cores = s.cores := rfl
@[simp] theorem watches_setChan (c : Chan) (x : Channel) : (s.setChan c x).watches = s.watches := rfl
@[simp] theorem heldWakes_setChan (c : Chan) (x : Channel) : (s.setChan c x).heldWakes = s.heldWakes := rfl
@[simp] theorem heldRaises_setChan (c : Chan) (x : Channel) : (s.setChan c x).heldRaises = s.heldRaises := rfl
@[simp] theorem regWaits_setChan (c : Chan) (x : Channel) : (s.setChan c x).regWaits = s.regWaits := rfl
@[simp] theorem banks_setChan (c : Chan) (x : Channel) : (s.setChan c x).banks = s.banks := rfl
@[simp] theorem queues_setChan (c : Chan) (x : Channel) : (s.setChan c x).queues = s.queues := rfl
@[simp] theorem quads_setChan (c : Chan) (x : Channel) : (s.setChan c x).quads = s.quads := rfl
@[simp] theorem owners_setChan (c : Chan) (x : Channel) : (s.setChan c x).owners = s.owners := rfl
@[simp] theorem rings_setChan (c : Chan) (x : Channel) : (s.setChan c x).rings = s.rings := rfl
@[simp] theorem qeNotice_setChan (c : Chan) (x : Channel) : (s.setChan c x).qeNotice = s.qeNotice := rfl
@[simp] theorem purgeFree_setChan (c : Chan) (x : Channel) : (s.setChan c x).purgeFree = s.purgeFree := rfl
@[simp] theorem evmHeld_setChan (c : Chan) (x : Channel) : (s.setChan c x).evmHeld = s.evmHeld := rfl
@[simp] theorem qcyc_setChan (c : Chan) (x : Channel) : (s.setChan c x).qcyc = s.qcyc := rfl
@[simp] theorem freed_setChan (c : Chan) (x : Channel) : (s.setChan c x).freed = s.freed := rfl
@[simp] theorem cycSeq_setChan (c : Chan) (x : Channel) : (s.setChan c x).cycSeq = s.cycSeq := rfl
@[simp] theorem engines_setChan (c : Chan) (x : Channel) : (s.setChan c x).engines = s.engines := rfl
@[simp] theorem pmem_setChan (c : Chan) (x : Channel) : (s.setChan c x).pmem = s.pmem := rfl
@[simp] theorem ports_setChan (c : Chan) (x : Channel) : (s.setChan c x).ports = s.ports := rfl
@[simp] theorem bases_setChan (c : Chan) (x : Channel) : (s.setChan c x).bases = s.bases := rfl
@[simp] theorem refs_setChan (c : Chan) (x : Channel) : (s.setChan c x).refs = s.refs := rfl
@[simp] theorem latches_setChan (c : Chan) (x : Channel) : (s.setChan c x).latches = s.latches := rfl
@[simp] theorem pend_setChan (c : Chan) (x : Channel) : (s.setChan c x).pend = s.pend := rfl
@[simp] theorem arrivals_setChan (c : Chan) (x : Channel) : (s.setChan c x).arrivals = s.arrivals := rfl
@[simp] theorem passDone_setChan (c : Chan) (x : Channel) : (s.setChan c x).passDone = s.passDone := rfl
@[simp] theorem stagerNotice_setChan (c : Chan) (x : Channel) : (s.setChan c x).stagerNotice = s.stagerNotice := rfl
@[simp] theorem tasks_setChan (c : Chan) (x : Channel) : (s.setChan c x).tasks = s.tasks := rfl
@[simp] theorem temperNotice_setChan (c : Chan) (x : Channel) : (s.setChan c x).temperNotice = s.temperNotice := rfl
@[simp] theorem fires_setChan (c : Chan) (x : Channel) : (s.setChan c x).fires = s.fires := rfl
@[simp] theorem pulsedNow_setChan (c : Chan) (x : Channel) : (s.setChan c x).pulsedNow = s.pulsedNow := rfl
@[simp] theorem wokeNow_setChan (c : Chan) (x : Channel) : (s.setChan c x).wokeNow = s.wokeNow := rfl
@[simp] theorem cache_setChan (c : Chan) (x : Channel) : (s.setChan c x).cache = s.cache := rfl
@[simp] theorem sigPackets_setChan (c : Chan) (x : Channel) : (s.setChan c x).sigPackets = s.sigPackets := rfl
@[simp] theorem sigOut_setChan (c : Chan) (x : Channel) : (s.setChan c x).sigOut = s.sigOut := rfl
@[simp] theorem pinWrite_setChan (c : Chan) (x : Channel) : (s.setChan c x).pinWrite = s.pinWrite := rfl
@[simp] theorem fills_setChan (c : Chan) (x : Channel) : (s.setChan c x).fills = s.fills := rfl
@[simp] theorem writeBacks_setChan (c : Chan) (x : Channel) : (s.setChan c x).writeBacks = s.writeBacks := rfl
@[simp] theorem hearths_setChan (c : Chan) (x : Channel) : (s.setChan c x).hearths = s.hearths := rfl
@[simp] theorem domains_setChan (c : Chan) (x : Channel) : (s.setChan c x).domains = s.domains := rfl
@[simp] theorem lanes_setChan (c : Chan) (x : Channel) : (s.setChan c x).lanes = s.lanes := rfl
@[simp] theorem chain_setChan (c : Chan) (x : Channel) : (s.setChan c x).chain = s.chain := rfl
@[simp] theorem mirror_setChan (c : Chan) (x : Channel) : (s.setChan c x).mirror = s.mirror := rfl
@[simp] theorem faults_setChan (c : Chan) (x : Channel) : (s.setChan c x).faults = s.faults := rfl
@[simp] theorem boot_setChan (c : Chan) (x : Channel) : (s.setChan c x).boot = s.boot := rfl
@[simp] theorem ember_setChan (c : Chan) (x : Channel) : (s.setChan c x).ember = s.ember := rfl
@[simp] theorem soc_setChan (c : Chan) (x : Channel) : (s.setChan c x).soc = s.soc := rfl
@[simp] theorem answer_setChan (c : Chan) (x : Channel) : (s.setChan c x).answer = s.answer := rfl
@[simp] theorem issuedNow_setChan (c : Chan) (x : Channel) : (s.setChan c x).issuedNow = s.issuedNow := rfl
@[simp] theorem storeAt_setChan (c : Chan) (x : Channel) : (s.setChan c x).storeAt = s.storeAt := rfl
@[simp] theorem seq_setChan (c : Chan) (x : Channel) : (s.setChan c x).seq = s.seq := rfl
@[simp] theorem fresh_setChan (c : Chan) (x : Channel) : (s.setChan c x).fresh = s.fresh := rfl
@[simp] theorem pending_setChan (c : Chan) (x : Channel) : (s.setChan c x).pending = s.pending := rfl
@[simp] theorem thr_setChan (c : Chan) (x : Channel) (u : Tid) : (s.setChan c x).thr u = s.thr u := rfl
@[simp] theorem core_setChan (c : Chan) (x : Channel) (u : CoreId) : (s.setChan c x).core u = s.core u := rfl
@[simp] theorem bank_setChan (c : Chan) (x : Channel) (u : BankId) : (s.setChan c x).bank u = s.bank u := rfl
@[simp] theorem queue_setChan (c : Chan) (x : Channel) (u : Qid) : (s.setChan c x).queue u = s.queue u := rfl
@[simp] theorem quad_setChan (c : Chan) (x : Channel) (u : Quadrant) : (s.setChan c x).quad u = s.quad u := rfl
@[simp] theorem owner_setChan (c : Chan) (x : Channel) (u : BitVec 12) : (s.setChan c x).owner u = s.owner u := rfl
@[simp] theorem ring_setChan (c : Chan) (x : Channel) (u : BitVec 10) : (s.setChan c x).ring u = s.ring u := rfl
@[simp] theorem engine_setChan (c : Chan) (x : Channel) (u : EngineId) : (s.setChan c x).engine u = s.engine u := rfl
@[simp] theorem port_setChan (c : Chan) (x : Channel) (u : Port) : (s.setChan c x).port u = s.port u := rfl
@[simp] theorem base_setChan (c : Chan) (x : Channel) (u : BaseId) : (s.setChan c x).base u = s.base u := rfl
@[simp] theorem ref_setChan (c : Chan) (x : Channel) (u : BaseId) (v : BitVec 2) : (s.setChan c x).ref u v = s.ref u v := rfl
@[simp] theorem task_setChan (c : Chan) (x : Channel) (u : TaskId) : (s.setChan c x).task u = s.task u := rfl
@[simp] theorem hearth_setChan (c : Chan) (x : Channel) (u : HearthId) : (s.setChan c x).hearth u = s.hearth u := rfl
@[simp] theorem dom_setChan (c : Chan) (x : Channel) (u : Nat) : (s.setChan c x).dom u = s.dom u := rfl
@[simp] theorem lane_setChan (c : Chan) (x : Channel) (u : LaneId) : (s.setChan c x).lane u = s.lane u := rfl
@[simp] theorem reg_setChan (c : Chan) (x : Channel) (k : RegKind) (i j : Nat) : (s.setChan c x).reg k i j = s.reg k i j := rfl
@[simp] theorem fld_setChan (c : Chan) (x : Channel) (f : Fld) (i j : Nat) : (s.setChan c x).fld f i j = s.fld f i j := rfl
@[simp] theorem bit_setChan (c : Chan) (x : Channel) (f : Fld) (i j : Nat) : (s.setChan c x).bit f i j = s.bit f i j := rfl
@[simp] theorem ns_setChan (c : Chan) (x : Channel) : (s.setChan c x).ns = s.ns := rfl
@[simp] theorem tb0_setChan (c : Chan) (x : Channel) : (s.setChan c x).tb0 = s.tb0 := rfl
@[simp] theorem tb0w_setChan (c : Chan) (x : Channel) : (s.setChan c x).tb0w = s.tb0w := rfl
@[simp] theorem chan_setChan_same (c : Chan) (x : Channel) : (s.setChan c x).chan c = x := by simp [State.chan, State.setChan]

/-! ## State.setPort -/

@[simp] theorem cycle_setPort (p : Port) (x : PortSt) : (s.setPort p x).cycle = s.cycle := rfl
@[simp] theorem tbSum_setPort (p : Port) (x : PortSt) : (s.setPort p x).tbSum = s.tbSum := rfl
@[simp] theorem incNow_setPort (p : Port) (x : PortSt) : (s.setPort p x).incNow = s.incNow := rfl
@[simp] theorem tbEra_setPort (p : Port) (x : PortSt) : (s.setPort p x).tbEra = s.tbEra := rfl
@[simp] theorem regs_setPort (p : Port) (x : PortSt) : (s.setPort p x).regs = s.regs := rfl
@[simp] theorem cycEv_setPort (p : Port) (x : PortSt) : (s.setPort p x).cycEv = s.cycEv := rfl
@[simp] theorem mem_setPort (p : Port) (x : PortSt) : (s.setPort p x).mem = s.mem := rfl
@[simp] theorem threads_setPort (p : Port) (x : PortSt) : (s.setPort p x).threads = s.threads := rfl
@[simp] theorem cores_setPort (p : Port) (x : PortSt) : (s.setPort p x).cores = s.cores := rfl
@[simp] theorem watches_setPort (p : Port) (x : PortSt) : (s.setPort p x).watches = s.watches := rfl
@[simp] theorem heldWakes_setPort (p : Port) (x : PortSt) : (s.setPort p x).heldWakes = s.heldWakes := rfl
@[simp] theorem heldRaises_setPort (p : Port) (x : PortSt) : (s.setPort p x).heldRaises = s.heldRaises := rfl
@[simp] theorem regWaits_setPort (p : Port) (x : PortSt) : (s.setPort p x).regWaits = s.regWaits := rfl
@[simp] theorem banks_setPort (p : Port) (x : PortSt) : (s.setPort p x).banks = s.banks := rfl
@[simp] theorem queues_setPort (p : Port) (x : PortSt) : (s.setPort p x).queues = s.queues := rfl
@[simp] theorem quads_setPort (p : Port) (x : PortSt) : (s.setPort p x).quads = s.quads := rfl
@[simp] theorem owners_setPort (p : Port) (x : PortSt) : (s.setPort p x).owners = s.owners := rfl
@[simp] theorem rings_setPort (p : Port) (x : PortSt) : (s.setPort p x).rings = s.rings := rfl
@[simp] theorem qeNotice_setPort (p : Port) (x : PortSt) : (s.setPort p x).qeNotice = s.qeNotice := rfl
@[simp] theorem purgeFree_setPort (p : Port) (x : PortSt) : (s.setPort p x).purgeFree = s.purgeFree := rfl
@[simp] theorem evmHeld_setPort (p : Port) (x : PortSt) : (s.setPort p x).evmHeld = s.evmHeld := rfl
@[simp] theorem qcyc_setPort (p : Port) (x : PortSt) : (s.setPort p x).qcyc = s.qcyc := rfl
@[simp] theorem freed_setPort (p : Port) (x : PortSt) : (s.setPort p x).freed = s.freed := rfl
@[simp] theorem cycSeq_setPort (p : Port) (x : PortSt) : (s.setPort p x).cycSeq = s.cycSeq := rfl
@[simp] theorem engines_setPort (p : Port) (x : PortSt) : (s.setPort p x).engines = s.engines := rfl
@[simp] theorem pmem_setPort (p : Port) (x : PortSt) : (s.setPort p x).pmem = s.pmem := rfl
@[simp] theorem channels_setPort (p : Port) (x : PortSt) : (s.setPort p x).channels = s.channels := rfl
@[simp] theorem bases_setPort (p : Port) (x : PortSt) : (s.setPort p x).bases = s.bases := rfl
@[simp] theorem refs_setPort (p : Port) (x : PortSt) : (s.setPort p x).refs = s.refs := rfl
@[simp] theorem latches_setPort (p : Port) (x : PortSt) : (s.setPort p x).latches = s.latches := rfl
@[simp] theorem pend_setPort (p : Port) (x : PortSt) : (s.setPort p x).pend = s.pend := rfl
@[simp] theorem arrivals_setPort (p : Port) (x : PortSt) : (s.setPort p x).arrivals = s.arrivals := rfl
@[simp] theorem passDone_setPort (p : Port) (x : PortSt) : (s.setPort p x).passDone = s.passDone := rfl
@[simp] theorem stagerNotice_setPort (p : Port) (x : PortSt) : (s.setPort p x).stagerNotice = s.stagerNotice := rfl
@[simp] theorem tasks_setPort (p : Port) (x : PortSt) : (s.setPort p x).tasks = s.tasks := rfl
@[simp] theorem temperNotice_setPort (p : Port) (x : PortSt) : (s.setPort p x).temperNotice = s.temperNotice := rfl
@[simp] theorem fires_setPort (p : Port) (x : PortSt) : (s.setPort p x).fires = s.fires := rfl
@[simp] theorem pulsedNow_setPort (p : Port) (x : PortSt) : (s.setPort p x).pulsedNow = s.pulsedNow := rfl
@[simp] theorem wokeNow_setPort (p : Port) (x : PortSt) : (s.setPort p x).wokeNow = s.wokeNow := rfl
@[simp] theorem cache_setPort (p : Port) (x : PortSt) : (s.setPort p x).cache = s.cache := rfl
@[simp] theorem sigPackets_setPort (p : Port) (x : PortSt) : (s.setPort p x).sigPackets = s.sigPackets := rfl
@[simp] theorem sigOut_setPort (p : Port) (x : PortSt) : (s.setPort p x).sigOut = s.sigOut := rfl
@[simp] theorem pinWrite_setPort (p : Port) (x : PortSt) : (s.setPort p x).pinWrite = s.pinWrite := rfl
@[simp] theorem fills_setPort (p : Port) (x : PortSt) : (s.setPort p x).fills = s.fills := rfl
@[simp] theorem writeBacks_setPort (p : Port) (x : PortSt) : (s.setPort p x).writeBacks = s.writeBacks := rfl
@[simp] theorem hearths_setPort (p : Port) (x : PortSt) : (s.setPort p x).hearths = s.hearths := rfl
@[simp] theorem domains_setPort (p : Port) (x : PortSt) : (s.setPort p x).domains = s.domains := rfl
@[simp] theorem lanes_setPort (p : Port) (x : PortSt) : (s.setPort p x).lanes = s.lanes := rfl
@[simp] theorem chain_setPort (p : Port) (x : PortSt) : (s.setPort p x).chain = s.chain := rfl
@[simp] theorem mirror_setPort (p : Port) (x : PortSt) : (s.setPort p x).mirror = s.mirror := rfl
@[simp] theorem faults_setPort (p : Port) (x : PortSt) : (s.setPort p x).faults = s.faults := rfl
@[simp] theorem boot_setPort (p : Port) (x : PortSt) : (s.setPort p x).boot = s.boot := rfl
@[simp] theorem ember_setPort (p : Port) (x : PortSt) : (s.setPort p x).ember = s.ember := rfl
@[simp] theorem soc_setPort (p : Port) (x : PortSt) : (s.setPort p x).soc = s.soc := rfl
@[simp] theorem answer_setPort (p : Port) (x : PortSt) : (s.setPort p x).answer = s.answer := rfl
@[simp] theorem issuedNow_setPort (p : Port) (x : PortSt) : (s.setPort p x).issuedNow = s.issuedNow := rfl
@[simp] theorem storeAt_setPort (p : Port) (x : PortSt) : (s.setPort p x).storeAt = s.storeAt := rfl
@[simp] theorem seq_setPort (p : Port) (x : PortSt) : (s.setPort p x).seq = s.seq := rfl
@[simp] theorem fresh_setPort (p : Port) (x : PortSt) : (s.setPort p x).fresh = s.fresh := rfl
@[simp] theorem pending_setPort (p : Port) (x : PortSt) : (s.setPort p x).pending = s.pending := rfl
@[simp] theorem thr_setPort (p : Port) (x : PortSt) (u : Tid) : (s.setPort p x).thr u = s.thr u := rfl
@[simp] theorem core_setPort (p : Port) (x : PortSt) (u : CoreId) : (s.setPort p x).core u = s.core u := rfl
@[simp] theorem bank_setPort (p : Port) (x : PortSt) (u : BankId) : (s.setPort p x).bank u = s.bank u := rfl
@[simp] theorem queue_setPort (p : Port) (x : PortSt) (u : Qid) : (s.setPort p x).queue u = s.queue u := rfl
@[simp] theorem quad_setPort (p : Port) (x : PortSt) (u : Quadrant) : (s.setPort p x).quad u = s.quad u := rfl
@[simp] theorem owner_setPort (p : Port) (x : PortSt) (u : BitVec 12) : (s.setPort p x).owner u = s.owner u := rfl
@[simp] theorem ring_setPort (p : Port) (x : PortSt) (u : BitVec 10) : (s.setPort p x).ring u = s.ring u := rfl
@[simp] theorem engine_setPort (p : Port) (x : PortSt) (u : EngineId) : (s.setPort p x).engine u = s.engine u := rfl
@[simp] theorem chan_setPort (p : Port) (x : PortSt) (u : Chan) : (s.setPort p x).chan u = s.chan u := rfl
@[simp] theorem base_setPort (p : Port) (x : PortSt) (u : BaseId) : (s.setPort p x).base u = s.base u := rfl
@[simp] theorem ref_setPort (p : Port) (x : PortSt) (u : BaseId) (v : BitVec 2) : (s.setPort p x).ref u v = s.ref u v := rfl
@[simp] theorem task_setPort (p : Port) (x : PortSt) (u : TaskId) : (s.setPort p x).task u = s.task u := rfl
@[simp] theorem hearth_setPort (p : Port) (x : PortSt) (u : HearthId) : (s.setPort p x).hearth u = s.hearth u := rfl
@[simp] theorem dom_setPort (p : Port) (x : PortSt) (u : Nat) : (s.setPort p x).dom u = s.dom u := rfl
@[simp] theorem lane_setPort (p : Port) (x : PortSt) (u : LaneId) : (s.setPort p x).lane u = s.lane u := rfl
@[simp] theorem reg_setPort (p : Port) (x : PortSt) (k : RegKind) (i j : Nat) : (s.setPort p x).reg k i j = s.reg k i j := rfl
@[simp] theorem fld_setPort (p : Port) (x : PortSt) (f : Fld) (i j : Nat) : (s.setPort p x).fld f i j = s.fld f i j := rfl
@[simp] theorem bit_setPort (p : Port) (x : PortSt) (f : Fld) (i j : Nat) : (s.setPort p x).bit f i j = s.bit f i j := rfl
@[simp] theorem ns_setPort (p : Port) (x : PortSt) : (s.setPort p x).ns = s.ns := rfl
@[simp] theorem tb0_setPort (p : Port) (x : PortSt) : (s.setPort p x).tb0 = s.tb0 := rfl
@[simp] theorem tb0w_setPort (p : Port) (x : PortSt) : (s.setPort p x).tb0w = s.tb0w := rfl
@[simp] theorem port_setPort_same (p : Port) (x : PortSt) : (s.setPort p x).port p = x := by simp [State.port, State.setPort]

/-! ## State.setBase -/

@[simp] theorem cycle_setBase (n : BaseId) (x : Base) : (s.setBase n x).cycle = s.cycle := rfl
@[simp] theorem tbSum_setBase (n : BaseId) (x : Base) : (s.setBase n x).tbSum = s.tbSum := rfl
@[simp] theorem incNow_setBase (n : BaseId) (x : Base) : (s.setBase n x).incNow = s.incNow := rfl
@[simp] theorem tbEra_setBase (n : BaseId) (x : Base) : (s.setBase n x).tbEra = s.tbEra := rfl
@[simp] theorem regs_setBase (n : BaseId) (x : Base) : (s.setBase n x).regs = s.regs := rfl
@[simp] theorem cycEv_setBase (n : BaseId) (x : Base) : (s.setBase n x).cycEv = s.cycEv := rfl
@[simp] theorem mem_setBase (n : BaseId) (x : Base) : (s.setBase n x).mem = s.mem := rfl
@[simp] theorem threads_setBase (n : BaseId) (x : Base) : (s.setBase n x).threads = s.threads := rfl
@[simp] theorem cores_setBase (n : BaseId) (x : Base) : (s.setBase n x).cores = s.cores := rfl
@[simp] theorem watches_setBase (n : BaseId) (x : Base) : (s.setBase n x).watches = s.watches := rfl
@[simp] theorem heldWakes_setBase (n : BaseId) (x : Base) : (s.setBase n x).heldWakes = s.heldWakes := rfl
@[simp] theorem heldRaises_setBase (n : BaseId) (x : Base) : (s.setBase n x).heldRaises = s.heldRaises := rfl
@[simp] theorem regWaits_setBase (n : BaseId) (x : Base) : (s.setBase n x).regWaits = s.regWaits := rfl
@[simp] theorem banks_setBase (n : BaseId) (x : Base) : (s.setBase n x).banks = s.banks := rfl
@[simp] theorem queues_setBase (n : BaseId) (x : Base) : (s.setBase n x).queues = s.queues := rfl
@[simp] theorem quads_setBase (n : BaseId) (x : Base) : (s.setBase n x).quads = s.quads := rfl
@[simp] theorem owners_setBase (n : BaseId) (x : Base) : (s.setBase n x).owners = s.owners := rfl
@[simp] theorem rings_setBase (n : BaseId) (x : Base) : (s.setBase n x).rings = s.rings := rfl
@[simp] theorem qeNotice_setBase (n : BaseId) (x : Base) : (s.setBase n x).qeNotice = s.qeNotice := rfl
@[simp] theorem purgeFree_setBase (n : BaseId) (x : Base) : (s.setBase n x).purgeFree = s.purgeFree := rfl
@[simp] theorem evmHeld_setBase (n : BaseId) (x : Base) : (s.setBase n x).evmHeld = s.evmHeld := rfl
@[simp] theorem qcyc_setBase (n : BaseId) (x : Base) : (s.setBase n x).qcyc = s.qcyc := rfl
@[simp] theorem freed_setBase (n : BaseId) (x : Base) : (s.setBase n x).freed = s.freed := rfl
@[simp] theorem cycSeq_setBase (n : BaseId) (x : Base) : (s.setBase n x).cycSeq = s.cycSeq := rfl
@[simp] theorem engines_setBase (n : BaseId) (x : Base) : (s.setBase n x).engines = s.engines := rfl
@[simp] theorem pmem_setBase (n : BaseId) (x : Base) : (s.setBase n x).pmem = s.pmem := rfl
@[simp] theorem channels_setBase (n : BaseId) (x : Base) : (s.setBase n x).channels = s.channels := rfl
@[simp] theorem ports_setBase (n : BaseId) (x : Base) : (s.setBase n x).ports = s.ports := rfl
@[simp] theorem refs_setBase (n : BaseId) (x : Base) : (s.setBase n x).refs = s.refs := rfl
@[simp] theorem latches_setBase (n : BaseId) (x : Base) : (s.setBase n x).latches = s.latches := rfl
@[simp] theorem pend_setBase (n : BaseId) (x : Base) : (s.setBase n x).pend = s.pend := rfl
@[simp] theorem arrivals_setBase (n : BaseId) (x : Base) : (s.setBase n x).arrivals = s.arrivals := rfl
@[simp] theorem passDone_setBase (n : BaseId) (x : Base) : (s.setBase n x).passDone = s.passDone := rfl
@[simp] theorem stagerNotice_setBase (n : BaseId) (x : Base) : (s.setBase n x).stagerNotice = s.stagerNotice := rfl
@[simp] theorem tasks_setBase (n : BaseId) (x : Base) : (s.setBase n x).tasks = s.tasks := rfl
@[simp] theorem temperNotice_setBase (n : BaseId) (x : Base) : (s.setBase n x).temperNotice = s.temperNotice := rfl
@[simp] theorem fires_setBase (n : BaseId) (x : Base) : (s.setBase n x).fires = s.fires := rfl
@[simp] theorem pulsedNow_setBase (n : BaseId) (x : Base) : (s.setBase n x).pulsedNow = s.pulsedNow := rfl
@[simp] theorem wokeNow_setBase (n : BaseId) (x : Base) : (s.setBase n x).wokeNow = s.wokeNow := rfl
@[simp] theorem cache_setBase (n : BaseId) (x : Base) : (s.setBase n x).cache = s.cache := rfl
@[simp] theorem sigPackets_setBase (n : BaseId) (x : Base) : (s.setBase n x).sigPackets = s.sigPackets := rfl
@[simp] theorem sigOut_setBase (n : BaseId) (x : Base) : (s.setBase n x).sigOut = s.sigOut := rfl
@[simp] theorem pinWrite_setBase (n : BaseId) (x : Base) : (s.setBase n x).pinWrite = s.pinWrite := rfl
@[simp] theorem fills_setBase (n : BaseId) (x : Base) : (s.setBase n x).fills = s.fills := rfl
@[simp] theorem writeBacks_setBase (n : BaseId) (x : Base) : (s.setBase n x).writeBacks = s.writeBacks := rfl
@[simp] theorem hearths_setBase (n : BaseId) (x : Base) : (s.setBase n x).hearths = s.hearths := rfl
@[simp] theorem domains_setBase (n : BaseId) (x : Base) : (s.setBase n x).domains = s.domains := rfl
@[simp] theorem lanes_setBase (n : BaseId) (x : Base) : (s.setBase n x).lanes = s.lanes := rfl
@[simp] theorem chain_setBase (n : BaseId) (x : Base) : (s.setBase n x).chain = s.chain := rfl
@[simp] theorem mirror_setBase (n : BaseId) (x : Base) : (s.setBase n x).mirror = s.mirror := rfl
@[simp] theorem faults_setBase (n : BaseId) (x : Base) : (s.setBase n x).faults = s.faults := rfl
@[simp] theorem boot_setBase (n : BaseId) (x : Base) : (s.setBase n x).boot = s.boot := rfl
@[simp] theorem ember_setBase (n : BaseId) (x : Base) : (s.setBase n x).ember = s.ember := rfl
@[simp] theorem soc_setBase (n : BaseId) (x : Base) : (s.setBase n x).soc = s.soc := rfl
@[simp] theorem answer_setBase (n : BaseId) (x : Base) : (s.setBase n x).answer = s.answer := rfl
@[simp] theorem issuedNow_setBase (n : BaseId) (x : Base) : (s.setBase n x).issuedNow = s.issuedNow := rfl
@[simp] theorem storeAt_setBase (n : BaseId) (x : Base) : (s.setBase n x).storeAt = s.storeAt := rfl
@[simp] theorem seq_setBase (n : BaseId) (x : Base) : (s.setBase n x).seq = s.seq := rfl
@[simp] theorem fresh_setBase (n : BaseId) (x : Base) : (s.setBase n x).fresh = s.fresh := rfl
@[simp] theorem pending_setBase (n : BaseId) (x : Base) : (s.setBase n x).pending = s.pending := rfl
@[simp] theorem thr_setBase (n : BaseId) (x : Base) (u : Tid) : (s.setBase n x).thr u = s.thr u := rfl
@[simp] theorem core_setBase (n : BaseId) (x : Base) (u : CoreId) : (s.setBase n x).core u = s.core u := rfl
@[simp] theorem bank_setBase (n : BaseId) (x : Base) (u : BankId) : (s.setBase n x).bank u = s.bank u := rfl
@[simp] theorem queue_setBase (n : BaseId) (x : Base) (u : Qid) : (s.setBase n x).queue u = s.queue u := rfl
@[simp] theorem quad_setBase (n : BaseId) (x : Base) (u : Quadrant) : (s.setBase n x).quad u = s.quad u := rfl
@[simp] theorem owner_setBase (n : BaseId) (x : Base) (u : BitVec 12) : (s.setBase n x).owner u = s.owner u := rfl
@[simp] theorem ring_setBase (n : BaseId) (x : Base) (u : BitVec 10) : (s.setBase n x).ring u = s.ring u := rfl
@[simp] theorem engine_setBase (n : BaseId) (x : Base) (u : EngineId) : (s.setBase n x).engine u = s.engine u := rfl
@[simp] theorem chan_setBase (n : BaseId) (x : Base) (u : Chan) : (s.setBase n x).chan u = s.chan u := rfl
@[simp] theorem port_setBase (n : BaseId) (x : Base) (u : Port) : (s.setBase n x).port u = s.port u := rfl
@[simp] theorem ref_setBase (n : BaseId) (x : Base) (u : BaseId) (v : BitVec 2) : (s.setBase n x).ref u v = s.ref u v := rfl
@[simp] theorem task_setBase (n : BaseId) (x : Base) (u : TaskId) : (s.setBase n x).task u = s.task u := rfl
@[simp] theorem hearth_setBase (n : BaseId) (x : Base) (u : HearthId) : (s.setBase n x).hearth u = s.hearth u := rfl
@[simp] theorem dom_setBase (n : BaseId) (x : Base) (u : Nat) : (s.setBase n x).dom u = s.dom u := rfl
@[simp] theorem lane_setBase (n : BaseId) (x : Base) (u : LaneId) : (s.setBase n x).lane u = s.lane u := rfl
@[simp] theorem reg_setBase (n : BaseId) (x : Base) (k : RegKind) (i j : Nat) : (s.setBase n x).reg k i j = s.reg k i j := rfl
@[simp] theorem fld_setBase (n : BaseId) (x : Base) (f : Fld) (i j : Nat) : (s.setBase n x).fld f i j = s.fld f i j := rfl
@[simp] theorem bit_setBase (n : BaseId) (x : Base) (f : Fld) (i j : Nat) : (s.setBase n x).bit f i j = s.bit f i j := rfl
@[simp] theorem ns_setBase (n : BaseId) (x : Base) : (s.setBase n x).ns = s.ns := rfl
@[simp] theorem tb0_setBase (n : BaseId) (x : Base) : (s.setBase n x).tb0 = s.tb0 := rfl
@[simp] theorem tb0w_setBase (n : BaseId) (x : Base) : (s.setBase n x).tb0w = s.tb0w := rfl
@[simp] theorem base_setBase_same (n : BaseId) (x : Base) : (s.setBase n x).base n = x := by simp [State.base, State.setBase]

/-! ## State.setRef -/

@[simp] theorem cycle_setRef (n : BaseId) (j : BitVec 2) (x : RefEntry) : (s.setRef n j x).cycle = s.cycle := rfl
@[simp] theorem tbSum_setRef (n : BaseId) (j : BitVec 2) (x : RefEntry) : (s.setRef n j x).tbSum = s.tbSum := rfl
@[simp] theorem incNow_setRef (n : BaseId) (j : BitVec 2) (x : RefEntry) : (s.setRef n j x).incNow = s.incNow := rfl
@[simp] theorem tbEra_setRef (n : BaseId) (j : BitVec 2) (x : RefEntry) : (s.setRef n j x).tbEra = s.tbEra := rfl
@[simp] theorem regs_setRef (n : BaseId) (j : BitVec 2) (x : RefEntry) : (s.setRef n j x).regs = s.regs := rfl
@[simp] theorem cycEv_setRef (n : BaseId) (j : BitVec 2) (x : RefEntry) : (s.setRef n j x).cycEv = s.cycEv := rfl
@[simp] theorem mem_setRef (n : BaseId) (j : BitVec 2) (x : RefEntry) : (s.setRef n j x).mem = s.mem := rfl
@[simp] theorem threads_setRef (n : BaseId) (j : BitVec 2) (x : RefEntry) : (s.setRef n j x).threads = s.threads := rfl
@[simp] theorem cores_setRef (n : BaseId) (j : BitVec 2) (x : RefEntry) : (s.setRef n j x).cores = s.cores := rfl
@[simp] theorem watches_setRef (n : BaseId) (j : BitVec 2) (x : RefEntry) : (s.setRef n j x).watches = s.watches := rfl
@[simp] theorem heldWakes_setRef (n : BaseId) (j : BitVec 2) (x : RefEntry) : (s.setRef n j x).heldWakes = s.heldWakes := rfl
@[simp] theorem heldRaises_setRef (n : BaseId) (j : BitVec 2) (x : RefEntry) : (s.setRef n j x).heldRaises = s.heldRaises := rfl
@[simp] theorem regWaits_setRef (n : BaseId) (j : BitVec 2) (x : RefEntry) : (s.setRef n j x).regWaits = s.regWaits := rfl
@[simp] theorem banks_setRef (n : BaseId) (j : BitVec 2) (x : RefEntry) : (s.setRef n j x).banks = s.banks := rfl
@[simp] theorem queues_setRef (n : BaseId) (j : BitVec 2) (x : RefEntry) : (s.setRef n j x).queues = s.queues := rfl
@[simp] theorem quads_setRef (n : BaseId) (j : BitVec 2) (x : RefEntry) : (s.setRef n j x).quads = s.quads := rfl
@[simp] theorem owners_setRef (n : BaseId) (j : BitVec 2) (x : RefEntry) : (s.setRef n j x).owners = s.owners := rfl
@[simp] theorem rings_setRef (n : BaseId) (j : BitVec 2) (x : RefEntry) : (s.setRef n j x).rings = s.rings := rfl
@[simp] theorem qeNotice_setRef (n : BaseId) (j : BitVec 2) (x : RefEntry) : (s.setRef n j x).qeNotice = s.qeNotice := rfl
@[simp] theorem purgeFree_setRef (n : BaseId) (j : BitVec 2) (x : RefEntry) : (s.setRef n j x).purgeFree = s.purgeFree := rfl
@[simp] theorem evmHeld_setRef (n : BaseId) (j : BitVec 2) (x : RefEntry) : (s.setRef n j x).evmHeld = s.evmHeld := rfl
@[simp] theorem qcyc_setRef (n : BaseId) (j : BitVec 2) (x : RefEntry) : (s.setRef n j x).qcyc = s.qcyc := rfl
@[simp] theorem freed_setRef (n : BaseId) (j : BitVec 2) (x : RefEntry) : (s.setRef n j x).freed = s.freed := rfl
@[simp] theorem cycSeq_setRef (n : BaseId) (j : BitVec 2) (x : RefEntry) : (s.setRef n j x).cycSeq = s.cycSeq := rfl
@[simp] theorem engines_setRef (n : BaseId) (j : BitVec 2) (x : RefEntry) : (s.setRef n j x).engines = s.engines := rfl
@[simp] theorem pmem_setRef (n : BaseId) (j : BitVec 2) (x : RefEntry) : (s.setRef n j x).pmem = s.pmem := rfl
@[simp] theorem channels_setRef (n : BaseId) (j : BitVec 2) (x : RefEntry) : (s.setRef n j x).channels = s.channels := rfl
@[simp] theorem ports_setRef (n : BaseId) (j : BitVec 2) (x : RefEntry) : (s.setRef n j x).ports = s.ports := rfl
@[simp] theorem bases_setRef (n : BaseId) (j : BitVec 2) (x : RefEntry) : (s.setRef n j x).bases = s.bases := rfl
@[simp] theorem latches_setRef (n : BaseId) (j : BitVec 2) (x : RefEntry) : (s.setRef n j x).latches = s.latches := rfl
@[simp] theorem pend_setRef (n : BaseId) (j : BitVec 2) (x : RefEntry) : (s.setRef n j x).pend = s.pend := rfl
@[simp] theorem arrivals_setRef (n : BaseId) (j : BitVec 2) (x : RefEntry) : (s.setRef n j x).arrivals = s.arrivals := rfl
@[simp] theorem passDone_setRef (n : BaseId) (j : BitVec 2) (x : RefEntry) : (s.setRef n j x).passDone = s.passDone := rfl
@[simp] theorem stagerNotice_setRef (n : BaseId) (j : BitVec 2) (x : RefEntry) : (s.setRef n j x).stagerNotice = s.stagerNotice := rfl
@[simp] theorem tasks_setRef (n : BaseId) (j : BitVec 2) (x : RefEntry) : (s.setRef n j x).tasks = s.tasks := rfl
@[simp] theorem temperNotice_setRef (n : BaseId) (j : BitVec 2) (x : RefEntry) : (s.setRef n j x).temperNotice = s.temperNotice := rfl
@[simp] theorem fires_setRef (n : BaseId) (j : BitVec 2) (x : RefEntry) : (s.setRef n j x).fires = s.fires := rfl
@[simp] theorem pulsedNow_setRef (n : BaseId) (j : BitVec 2) (x : RefEntry) : (s.setRef n j x).pulsedNow = s.pulsedNow := rfl
@[simp] theorem wokeNow_setRef (n : BaseId) (j : BitVec 2) (x : RefEntry) : (s.setRef n j x).wokeNow = s.wokeNow := rfl
@[simp] theorem cache_setRef (n : BaseId) (j : BitVec 2) (x : RefEntry) : (s.setRef n j x).cache = s.cache := rfl
@[simp] theorem sigPackets_setRef (n : BaseId) (j : BitVec 2) (x : RefEntry) : (s.setRef n j x).sigPackets = s.sigPackets := rfl
@[simp] theorem sigOut_setRef (n : BaseId) (j : BitVec 2) (x : RefEntry) : (s.setRef n j x).sigOut = s.sigOut := rfl
@[simp] theorem pinWrite_setRef (n : BaseId) (j : BitVec 2) (x : RefEntry) : (s.setRef n j x).pinWrite = s.pinWrite := rfl
@[simp] theorem fills_setRef (n : BaseId) (j : BitVec 2) (x : RefEntry) : (s.setRef n j x).fills = s.fills := rfl
@[simp] theorem writeBacks_setRef (n : BaseId) (j : BitVec 2) (x : RefEntry) : (s.setRef n j x).writeBacks = s.writeBacks := rfl
@[simp] theorem hearths_setRef (n : BaseId) (j : BitVec 2) (x : RefEntry) : (s.setRef n j x).hearths = s.hearths := rfl
@[simp] theorem domains_setRef (n : BaseId) (j : BitVec 2) (x : RefEntry) : (s.setRef n j x).domains = s.domains := rfl
@[simp] theorem lanes_setRef (n : BaseId) (j : BitVec 2) (x : RefEntry) : (s.setRef n j x).lanes = s.lanes := rfl
@[simp] theorem chain_setRef (n : BaseId) (j : BitVec 2) (x : RefEntry) : (s.setRef n j x).chain = s.chain := rfl
@[simp] theorem mirror_setRef (n : BaseId) (j : BitVec 2) (x : RefEntry) : (s.setRef n j x).mirror = s.mirror := rfl
@[simp] theorem faults_setRef (n : BaseId) (j : BitVec 2) (x : RefEntry) : (s.setRef n j x).faults = s.faults := rfl
@[simp] theorem boot_setRef (n : BaseId) (j : BitVec 2) (x : RefEntry) : (s.setRef n j x).boot = s.boot := rfl
@[simp] theorem ember_setRef (n : BaseId) (j : BitVec 2) (x : RefEntry) : (s.setRef n j x).ember = s.ember := rfl
@[simp] theorem soc_setRef (n : BaseId) (j : BitVec 2) (x : RefEntry) : (s.setRef n j x).soc = s.soc := rfl
@[simp] theorem answer_setRef (n : BaseId) (j : BitVec 2) (x : RefEntry) : (s.setRef n j x).answer = s.answer := rfl
@[simp] theorem issuedNow_setRef (n : BaseId) (j : BitVec 2) (x : RefEntry) : (s.setRef n j x).issuedNow = s.issuedNow := rfl
@[simp] theorem storeAt_setRef (n : BaseId) (j : BitVec 2) (x : RefEntry) : (s.setRef n j x).storeAt = s.storeAt := rfl
@[simp] theorem seq_setRef (n : BaseId) (j : BitVec 2) (x : RefEntry) : (s.setRef n j x).seq = s.seq := rfl
@[simp] theorem fresh_setRef (n : BaseId) (j : BitVec 2) (x : RefEntry) : (s.setRef n j x).fresh = s.fresh := rfl
@[simp] theorem pending_setRef (n : BaseId) (j : BitVec 2) (x : RefEntry) : (s.setRef n j x).pending = s.pending := rfl
@[simp] theorem thr_setRef (n : BaseId) (j : BitVec 2) (x : RefEntry) (u : Tid) : (s.setRef n j x).thr u = s.thr u := rfl
@[simp] theorem core_setRef (n : BaseId) (j : BitVec 2) (x : RefEntry) (u : CoreId) : (s.setRef n j x).core u = s.core u := rfl
@[simp] theorem bank_setRef (n : BaseId) (j : BitVec 2) (x : RefEntry) (u : BankId) : (s.setRef n j x).bank u = s.bank u := rfl
@[simp] theorem queue_setRef (n : BaseId) (j : BitVec 2) (x : RefEntry) (u : Qid) : (s.setRef n j x).queue u = s.queue u := rfl
@[simp] theorem quad_setRef (n : BaseId) (j : BitVec 2) (x : RefEntry) (u : Quadrant) : (s.setRef n j x).quad u = s.quad u := rfl
@[simp] theorem owner_setRef (n : BaseId) (j : BitVec 2) (x : RefEntry) (u : BitVec 12) : (s.setRef n j x).owner u = s.owner u := rfl
@[simp] theorem ring_setRef (n : BaseId) (j : BitVec 2) (x : RefEntry) (u : BitVec 10) : (s.setRef n j x).ring u = s.ring u := rfl
@[simp] theorem engine_setRef (n : BaseId) (j : BitVec 2) (x : RefEntry) (u : EngineId) : (s.setRef n j x).engine u = s.engine u := rfl
@[simp] theorem chan_setRef (n : BaseId) (j : BitVec 2) (x : RefEntry) (u : Chan) : (s.setRef n j x).chan u = s.chan u := rfl
@[simp] theorem port_setRef (n : BaseId) (j : BitVec 2) (x : RefEntry) (u : Port) : (s.setRef n j x).port u = s.port u := rfl
@[simp] theorem base_setRef (n : BaseId) (j : BitVec 2) (x : RefEntry) (u : BaseId) : (s.setRef n j x).base u = s.base u := rfl
@[simp] theorem task_setRef (n : BaseId) (j : BitVec 2) (x : RefEntry) (u : TaskId) : (s.setRef n j x).task u = s.task u := rfl
@[simp] theorem hearth_setRef (n : BaseId) (j : BitVec 2) (x : RefEntry) (u : HearthId) : (s.setRef n j x).hearth u = s.hearth u := rfl
@[simp] theorem dom_setRef (n : BaseId) (j : BitVec 2) (x : RefEntry) (u : Nat) : (s.setRef n j x).dom u = s.dom u := rfl
@[simp] theorem lane_setRef (n : BaseId) (j : BitVec 2) (x : RefEntry) (u : LaneId) : (s.setRef n j x).lane u = s.lane u := rfl
@[simp] theorem reg_setRef (n : BaseId) (j : BitVec 2) (x : RefEntry) (k : RegKind) (i m : Nat) : (s.setRef n j x).reg k i m = s.reg k i m := rfl
@[simp] theorem fld_setRef (n : BaseId) (j : BitVec 2) (x : RefEntry) (f : Fld) (i m : Nat) : (s.setRef n j x).fld f i m = s.fld f i m := rfl
@[simp] theorem bit_setRef (n : BaseId) (j : BitVec 2) (x : RefEntry) (f : Fld) (i m : Nat) : (s.setRef n j x).bit f i m = s.bit f i m := rfl
@[simp] theorem ns_setRef (n : BaseId) (j : BitVec 2) (x : RefEntry) : (s.setRef n j x).ns = s.ns := rfl
@[simp] theorem tb0_setRef (n : BaseId) (j : BitVec 2) (x : RefEntry) : (s.setRef n j x).tb0 = s.tb0 := rfl
@[simp] theorem tb0w_setRef (n : BaseId) (j : BitVec 2) (x : RefEntry) : (s.setRef n j x).tb0w = s.tb0w := rfl
@[simp] theorem ref_setRef_same (n : BaseId) (j : BitVec 2) (x : RefEntry) : (s.setRef n j x).ref n j = x := by simp [State.ref, State.setRef]

/-! ## State.setTask -/

@[simp] theorem cycle_setTask (k : TaskId) (x : Task) : (s.setTask k x).cycle = s.cycle := rfl
@[simp] theorem tbSum_setTask (k : TaskId) (x : Task) : (s.setTask k x).tbSum = s.tbSum := rfl
@[simp] theorem incNow_setTask (k : TaskId) (x : Task) : (s.setTask k x).incNow = s.incNow := rfl
@[simp] theorem tbEra_setTask (k : TaskId) (x : Task) : (s.setTask k x).tbEra = s.tbEra := rfl
@[simp] theorem regs_setTask (k : TaskId) (x : Task) : (s.setTask k x).regs = s.regs := rfl
@[simp] theorem cycEv_setTask (k : TaskId) (x : Task) : (s.setTask k x).cycEv = s.cycEv := rfl
@[simp] theorem mem_setTask (k : TaskId) (x : Task) : (s.setTask k x).mem = s.mem := rfl
@[simp] theorem threads_setTask (k : TaskId) (x : Task) : (s.setTask k x).threads = s.threads := rfl
@[simp] theorem cores_setTask (k : TaskId) (x : Task) : (s.setTask k x).cores = s.cores := rfl
@[simp] theorem watches_setTask (k : TaskId) (x : Task) : (s.setTask k x).watches = s.watches := rfl
@[simp] theorem heldWakes_setTask (k : TaskId) (x : Task) : (s.setTask k x).heldWakes = s.heldWakes := rfl
@[simp] theorem heldRaises_setTask (k : TaskId) (x : Task) : (s.setTask k x).heldRaises = s.heldRaises := rfl
@[simp] theorem regWaits_setTask (k : TaskId) (x : Task) : (s.setTask k x).regWaits = s.regWaits := rfl
@[simp] theorem banks_setTask (k : TaskId) (x : Task) : (s.setTask k x).banks = s.banks := rfl
@[simp] theorem queues_setTask (k : TaskId) (x : Task) : (s.setTask k x).queues = s.queues := rfl
@[simp] theorem quads_setTask (k : TaskId) (x : Task) : (s.setTask k x).quads = s.quads := rfl
@[simp] theorem owners_setTask (k : TaskId) (x : Task) : (s.setTask k x).owners = s.owners := rfl
@[simp] theorem rings_setTask (k : TaskId) (x : Task) : (s.setTask k x).rings = s.rings := rfl
@[simp] theorem qeNotice_setTask (k : TaskId) (x : Task) : (s.setTask k x).qeNotice = s.qeNotice := rfl
@[simp] theorem purgeFree_setTask (k : TaskId) (x : Task) : (s.setTask k x).purgeFree = s.purgeFree := rfl
@[simp] theorem evmHeld_setTask (k : TaskId) (x : Task) : (s.setTask k x).evmHeld = s.evmHeld := rfl
@[simp] theorem qcyc_setTask (k : TaskId) (x : Task) : (s.setTask k x).qcyc = s.qcyc := rfl
@[simp] theorem freed_setTask (k : TaskId) (x : Task) : (s.setTask k x).freed = s.freed := rfl
@[simp] theorem cycSeq_setTask (k : TaskId) (x : Task) : (s.setTask k x).cycSeq = s.cycSeq := rfl
@[simp] theorem engines_setTask (k : TaskId) (x : Task) : (s.setTask k x).engines = s.engines := rfl
@[simp] theorem pmem_setTask (k : TaskId) (x : Task) : (s.setTask k x).pmem = s.pmem := rfl
@[simp] theorem channels_setTask (k : TaskId) (x : Task) : (s.setTask k x).channels = s.channels := rfl
@[simp] theorem ports_setTask (k : TaskId) (x : Task) : (s.setTask k x).ports = s.ports := rfl
@[simp] theorem bases_setTask (k : TaskId) (x : Task) : (s.setTask k x).bases = s.bases := rfl
@[simp] theorem refs_setTask (k : TaskId) (x : Task) : (s.setTask k x).refs = s.refs := rfl
@[simp] theorem latches_setTask (k : TaskId) (x : Task) : (s.setTask k x).latches = s.latches := rfl
@[simp] theorem pend_setTask (k : TaskId) (x : Task) : (s.setTask k x).pend = s.pend := rfl
@[simp] theorem arrivals_setTask (k : TaskId) (x : Task) : (s.setTask k x).arrivals = s.arrivals := rfl
@[simp] theorem passDone_setTask (k : TaskId) (x : Task) : (s.setTask k x).passDone = s.passDone := rfl
@[simp] theorem stagerNotice_setTask (k : TaskId) (x : Task) : (s.setTask k x).stagerNotice = s.stagerNotice := rfl
@[simp] theorem temperNotice_setTask (k : TaskId) (x : Task) : (s.setTask k x).temperNotice = s.temperNotice := rfl
@[simp] theorem fires_setTask (k : TaskId) (x : Task) : (s.setTask k x).fires = s.fires := rfl
@[simp] theorem pulsedNow_setTask (k : TaskId) (x : Task) : (s.setTask k x).pulsedNow = s.pulsedNow := rfl
@[simp] theorem wokeNow_setTask (k : TaskId) (x : Task) : (s.setTask k x).wokeNow = s.wokeNow := rfl
@[simp] theorem cache_setTask (k : TaskId) (x : Task) : (s.setTask k x).cache = s.cache := rfl
@[simp] theorem sigPackets_setTask (k : TaskId) (x : Task) : (s.setTask k x).sigPackets = s.sigPackets := rfl
@[simp] theorem sigOut_setTask (k : TaskId) (x : Task) : (s.setTask k x).sigOut = s.sigOut := rfl
@[simp] theorem pinWrite_setTask (k : TaskId) (x : Task) : (s.setTask k x).pinWrite = s.pinWrite := rfl
@[simp] theorem fills_setTask (k : TaskId) (x : Task) : (s.setTask k x).fills = s.fills := rfl
@[simp] theorem writeBacks_setTask (k : TaskId) (x : Task) : (s.setTask k x).writeBacks = s.writeBacks := rfl
@[simp] theorem hearths_setTask (k : TaskId) (x : Task) : (s.setTask k x).hearths = s.hearths := rfl
@[simp] theorem domains_setTask (k : TaskId) (x : Task) : (s.setTask k x).domains = s.domains := rfl
@[simp] theorem lanes_setTask (k : TaskId) (x : Task) : (s.setTask k x).lanes = s.lanes := rfl
@[simp] theorem chain_setTask (k : TaskId) (x : Task) : (s.setTask k x).chain = s.chain := rfl
@[simp] theorem mirror_setTask (k : TaskId) (x : Task) : (s.setTask k x).mirror = s.mirror := rfl
@[simp] theorem faults_setTask (k : TaskId) (x : Task) : (s.setTask k x).faults = s.faults := rfl
@[simp] theorem boot_setTask (k : TaskId) (x : Task) : (s.setTask k x).boot = s.boot := rfl
@[simp] theorem ember_setTask (k : TaskId) (x : Task) : (s.setTask k x).ember = s.ember := rfl
@[simp] theorem soc_setTask (k : TaskId) (x : Task) : (s.setTask k x).soc = s.soc := rfl
@[simp] theorem answer_setTask (k : TaskId) (x : Task) : (s.setTask k x).answer = s.answer := rfl
@[simp] theorem issuedNow_setTask (k : TaskId) (x : Task) : (s.setTask k x).issuedNow = s.issuedNow := rfl
@[simp] theorem storeAt_setTask (k : TaskId) (x : Task) : (s.setTask k x).storeAt = s.storeAt := rfl
@[simp] theorem seq_setTask (k : TaskId) (x : Task) : (s.setTask k x).seq = s.seq := rfl
@[simp] theorem fresh_setTask (k : TaskId) (x : Task) : (s.setTask k x).fresh = s.fresh := rfl
@[simp] theorem pending_setTask (k : TaskId) (x : Task) : (s.setTask k x).pending = s.pending := rfl
@[simp] theorem thr_setTask (k : TaskId) (x : Task) (u : Tid) : (s.setTask k x).thr u = s.thr u := rfl
@[simp] theorem core_setTask (k : TaskId) (x : Task) (u : CoreId) : (s.setTask k x).core u = s.core u := rfl
@[simp] theorem bank_setTask (k : TaskId) (x : Task) (u : BankId) : (s.setTask k x).bank u = s.bank u := rfl
@[simp] theorem queue_setTask (k : TaskId) (x : Task) (u : Qid) : (s.setTask k x).queue u = s.queue u := rfl
@[simp] theorem quad_setTask (k : TaskId) (x : Task) (u : Quadrant) : (s.setTask k x).quad u = s.quad u := rfl
@[simp] theorem owner_setTask (k : TaskId) (x : Task) (u : BitVec 12) : (s.setTask k x).owner u = s.owner u := rfl
@[simp] theorem ring_setTask (k : TaskId) (x : Task) (u : BitVec 10) : (s.setTask k x).ring u = s.ring u := rfl
@[simp] theorem engine_setTask (k : TaskId) (x : Task) (u : EngineId) : (s.setTask k x).engine u = s.engine u := rfl
@[simp] theorem chan_setTask (k : TaskId) (x : Task) (u : Chan) : (s.setTask k x).chan u = s.chan u := rfl
@[simp] theorem port_setTask (k : TaskId) (x : Task) (u : Port) : (s.setTask k x).port u = s.port u := rfl
@[simp] theorem base_setTask (k : TaskId) (x : Task) (u : BaseId) : (s.setTask k x).base u = s.base u := rfl
@[simp] theorem ref_setTask (k : TaskId) (x : Task) (u : BaseId) (v : BitVec 2) : (s.setTask k x).ref u v = s.ref u v := rfl
@[simp] theorem hearth_setTask (k : TaskId) (x : Task) (u : HearthId) : (s.setTask k x).hearth u = s.hearth u := rfl
@[simp] theorem dom_setTask (k : TaskId) (x : Task) (u : Nat) : (s.setTask k x).dom u = s.dom u := rfl
@[simp] theorem lane_setTask (k : TaskId) (x : Task) (u : LaneId) : (s.setTask k x).lane u = s.lane u := rfl
@[simp] theorem reg_setTask (k : TaskId) (x : Task) (r : RegKind) (i j : Nat) : (s.setTask k x).reg r i j = s.reg r i j := rfl
@[simp] theorem fld_setTask (k : TaskId) (x : Task) (f : Fld) (i j : Nat) : (s.setTask k x).fld f i j = s.fld f i j := rfl
@[simp] theorem bit_setTask (k : TaskId) (x : Task) (f : Fld) (i j : Nat) : (s.setTask k x).bit f i j = s.bit f i j := rfl
@[simp] theorem ns_setTask (k : TaskId) (x : Task) : (s.setTask k x).ns = s.ns := rfl
@[simp] theorem tb0_setTask (k : TaskId) (x : Task) : (s.setTask k x).tb0 = s.tb0 := rfl
@[simp] theorem tb0w_setTask (k : TaskId) (x : Task) : (s.setTask k x).tb0w = s.tb0w := rfl
@[simp] theorem task_setTask_same (k : TaskId) (x : Task) : (s.setTask k x).task k = x := by simp [State.task, State.setTask]

/-! ## State.setHearth -/

@[simp] theorem cycle_setHearth (h : HearthId) (x : Hearth) : (s.setHearth h x).cycle = s.cycle := rfl
@[simp] theorem tbSum_setHearth (h : HearthId) (x : Hearth) : (s.setHearth h x).tbSum = s.tbSum := rfl
@[simp] theorem incNow_setHearth (h : HearthId) (x : Hearth) : (s.setHearth h x).incNow = s.incNow := rfl
@[simp] theorem tbEra_setHearth (h : HearthId) (x : Hearth) : (s.setHearth h x).tbEra = s.tbEra := rfl
@[simp] theorem regs_setHearth (h : HearthId) (x : Hearth) : (s.setHearth h x).regs = s.regs := rfl
@[simp] theorem cycEv_setHearth (h : HearthId) (x : Hearth) : (s.setHearth h x).cycEv = s.cycEv := rfl
@[simp] theorem mem_setHearth (h : HearthId) (x : Hearth) : (s.setHearth h x).mem = s.mem := rfl
@[simp] theorem threads_setHearth (h : HearthId) (x : Hearth) : (s.setHearth h x).threads = s.threads := rfl
@[simp] theorem cores_setHearth (h : HearthId) (x : Hearth) : (s.setHearth h x).cores = s.cores := rfl
@[simp] theorem watches_setHearth (h : HearthId) (x : Hearth) : (s.setHearth h x).watches = s.watches := rfl
@[simp] theorem heldWakes_setHearth (h : HearthId) (x : Hearth) : (s.setHearth h x).heldWakes = s.heldWakes := rfl
@[simp] theorem heldRaises_setHearth (h : HearthId) (x : Hearth) : (s.setHearth h x).heldRaises = s.heldRaises := rfl
@[simp] theorem regWaits_setHearth (h : HearthId) (x : Hearth) : (s.setHearth h x).regWaits = s.regWaits := rfl
@[simp] theorem banks_setHearth (h : HearthId) (x : Hearth) : (s.setHearth h x).banks = s.banks := rfl
@[simp] theorem queues_setHearth (h : HearthId) (x : Hearth) : (s.setHearth h x).queues = s.queues := rfl
@[simp] theorem quads_setHearth (h : HearthId) (x : Hearth) : (s.setHearth h x).quads = s.quads := rfl
@[simp] theorem owners_setHearth (h : HearthId) (x : Hearth) : (s.setHearth h x).owners = s.owners := rfl
@[simp] theorem rings_setHearth (h : HearthId) (x : Hearth) : (s.setHearth h x).rings = s.rings := rfl
@[simp] theorem qeNotice_setHearth (h : HearthId) (x : Hearth) : (s.setHearth h x).qeNotice = s.qeNotice := rfl
@[simp] theorem purgeFree_setHearth (h : HearthId) (x : Hearth) : (s.setHearth h x).purgeFree = s.purgeFree := rfl
@[simp] theorem evmHeld_setHearth (h : HearthId) (x : Hearth) : (s.setHearth h x).evmHeld = s.evmHeld := rfl
@[simp] theorem qcyc_setHearth (h : HearthId) (x : Hearth) : (s.setHearth h x).qcyc = s.qcyc := rfl
@[simp] theorem freed_setHearth (h : HearthId) (x : Hearth) : (s.setHearth h x).freed = s.freed := rfl
@[simp] theorem cycSeq_setHearth (h : HearthId) (x : Hearth) : (s.setHearth h x).cycSeq = s.cycSeq := rfl
@[simp] theorem engines_setHearth (h : HearthId) (x : Hearth) : (s.setHearth h x).engines = s.engines := rfl
@[simp] theorem pmem_setHearth (h : HearthId) (x : Hearth) : (s.setHearth h x).pmem = s.pmem := rfl
@[simp] theorem channels_setHearth (h : HearthId) (x : Hearth) : (s.setHearth h x).channels = s.channels := rfl
@[simp] theorem ports_setHearth (h : HearthId) (x : Hearth) : (s.setHearth h x).ports = s.ports := rfl
@[simp] theorem bases_setHearth (h : HearthId) (x : Hearth) : (s.setHearth h x).bases = s.bases := rfl
@[simp] theorem refs_setHearth (h : HearthId) (x : Hearth) : (s.setHearth h x).refs = s.refs := rfl
@[simp] theorem latches_setHearth (h : HearthId) (x : Hearth) : (s.setHearth h x).latches = s.latches := rfl
@[simp] theorem pend_setHearth (h : HearthId) (x : Hearth) : (s.setHearth h x).pend = s.pend := rfl
@[simp] theorem arrivals_setHearth (h : HearthId) (x : Hearth) : (s.setHearth h x).arrivals = s.arrivals := rfl
@[simp] theorem passDone_setHearth (h : HearthId) (x : Hearth) : (s.setHearth h x).passDone = s.passDone := rfl
@[simp] theorem stagerNotice_setHearth (h : HearthId) (x : Hearth) : (s.setHearth h x).stagerNotice = s.stagerNotice := rfl
@[simp] theorem tasks_setHearth (h : HearthId) (x : Hearth) : (s.setHearth h x).tasks = s.tasks := rfl
@[simp] theorem temperNotice_setHearth (h : HearthId) (x : Hearth) : (s.setHearth h x).temperNotice = s.temperNotice := rfl
@[simp] theorem fires_setHearth (h : HearthId) (x : Hearth) : (s.setHearth h x).fires = s.fires := rfl
@[simp] theorem pulsedNow_setHearth (h : HearthId) (x : Hearth) : (s.setHearth h x).pulsedNow = s.pulsedNow := rfl
@[simp] theorem wokeNow_setHearth (h : HearthId) (x : Hearth) : (s.setHearth h x).wokeNow = s.wokeNow := rfl
@[simp] theorem cache_setHearth (h : HearthId) (x : Hearth) : (s.setHearth h x).cache = s.cache := rfl
@[simp] theorem sigPackets_setHearth (h : HearthId) (x : Hearth) : (s.setHearth h x).sigPackets = s.sigPackets := rfl
@[simp] theorem sigOut_setHearth (h : HearthId) (x : Hearth) : (s.setHearth h x).sigOut = s.sigOut := rfl
@[simp] theorem pinWrite_setHearth (h : HearthId) (x : Hearth) : (s.setHearth h x).pinWrite = s.pinWrite := rfl
@[simp] theorem fills_setHearth (h : HearthId) (x : Hearth) : (s.setHearth h x).fills = s.fills := rfl
@[simp] theorem writeBacks_setHearth (h : HearthId) (x : Hearth) : (s.setHearth h x).writeBacks = s.writeBacks := rfl
@[simp] theorem domains_setHearth (h : HearthId) (x : Hearth) : (s.setHearth h x).domains = s.domains := rfl
@[simp] theorem lanes_setHearth (h : HearthId) (x : Hearth) : (s.setHearth h x).lanes = s.lanes := rfl
@[simp] theorem chain_setHearth (h : HearthId) (x : Hearth) : (s.setHearth h x).chain = s.chain := rfl
@[simp] theorem mirror_setHearth (h : HearthId) (x : Hearth) : (s.setHearth h x).mirror = s.mirror := rfl
@[simp] theorem faults_setHearth (h : HearthId) (x : Hearth) : (s.setHearth h x).faults = s.faults := rfl
@[simp] theorem boot_setHearth (h : HearthId) (x : Hearth) : (s.setHearth h x).boot = s.boot := rfl
@[simp] theorem ember_setHearth (h : HearthId) (x : Hearth) : (s.setHearth h x).ember = s.ember := rfl
@[simp] theorem soc_setHearth (h : HearthId) (x : Hearth) : (s.setHearth h x).soc = s.soc := rfl
@[simp] theorem answer_setHearth (h : HearthId) (x : Hearth) : (s.setHearth h x).answer = s.answer := rfl
@[simp] theorem issuedNow_setHearth (h : HearthId) (x : Hearth) : (s.setHearth h x).issuedNow = s.issuedNow := rfl
@[simp] theorem storeAt_setHearth (h : HearthId) (x : Hearth) : (s.setHearth h x).storeAt = s.storeAt := rfl
@[simp] theorem seq_setHearth (h : HearthId) (x : Hearth) : (s.setHearth h x).seq = s.seq := rfl
@[simp] theorem fresh_setHearth (h : HearthId) (x : Hearth) : (s.setHearth h x).fresh = s.fresh := rfl
@[simp] theorem pending_setHearth (h : HearthId) (x : Hearth) : (s.setHearth h x).pending = s.pending := rfl
@[simp] theorem thr_setHearth (h : HearthId) (x : Hearth) (u : Tid) : (s.setHearth h x).thr u = s.thr u := rfl
@[simp] theorem core_setHearth (h : HearthId) (x : Hearth) (u : CoreId) : (s.setHearth h x).core u = s.core u := rfl
@[simp] theorem bank_setHearth (h : HearthId) (x : Hearth) (u : BankId) : (s.setHearth h x).bank u = s.bank u := rfl
@[simp] theorem queue_setHearth (h : HearthId) (x : Hearth) (u : Qid) : (s.setHearth h x).queue u = s.queue u := rfl
@[simp] theorem quad_setHearth (h : HearthId) (x : Hearth) (u : Quadrant) : (s.setHearth h x).quad u = s.quad u := rfl
@[simp] theorem owner_setHearth (h : HearthId) (x : Hearth) (u : BitVec 12) : (s.setHearth h x).owner u = s.owner u := rfl
@[simp] theorem ring_setHearth (h : HearthId) (x : Hearth) (u : BitVec 10) : (s.setHearth h x).ring u = s.ring u := rfl
@[simp] theorem engine_setHearth (h : HearthId) (x : Hearth) (u : EngineId) : (s.setHearth h x).engine u = s.engine u := rfl
@[simp] theorem chan_setHearth (h : HearthId) (x : Hearth) (u : Chan) : (s.setHearth h x).chan u = s.chan u := rfl
@[simp] theorem port_setHearth (h : HearthId) (x : Hearth) (u : Port) : (s.setHearth h x).port u = s.port u := rfl
@[simp] theorem base_setHearth (h : HearthId) (x : Hearth) (u : BaseId) : (s.setHearth h x).base u = s.base u := rfl
@[simp] theorem ref_setHearth (h : HearthId) (x : Hearth) (u : BaseId) (v : BitVec 2) : (s.setHearth h x).ref u v = s.ref u v := rfl
@[simp] theorem task_setHearth (h : HearthId) (x : Hearth) (u : TaskId) : (s.setHearth h x).task u = s.task u := rfl
@[simp] theorem dom_setHearth (h : HearthId) (x : Hearth) (u : Nat) : (s.setHearth h x).dom u = s.dom u := rfl
@[simp] theorem lane_setHearth (h : HearthId) (x : Hearth) (u : LaneId) : (s.setHearth h x).lane u = s.lane u := rfl
@[simp] theorem reg_setHearth (h : HearthId) (x : Hearth) (k : RegKind) (i j : Nat) : (s.setHearth h x).reg k i j = s.reg k i j := rfl
@[simp] theorem fld_setHearth (h : HearthId) (x : Hearth) (f : Fld) (i j : Nat) : (s.setHearth h x).fld f i j = s.fld f i j := rfl
@[simp] theorem bit_setHearth (h : HearthId) (x : Hearth) (f : Fld) (i j : Nat) : (s.setHearth h x).bit f i j = s.bit f i j := rfl
@[simp] theorem ns_setHearth (h : HearthId) (x : Hearth) : (s.setHearth h x).ns = s.ns := rfl
@[simp] theorem tb0_setHearth (h : HearthId) (x : Hearth) : (s.setHearth h x).tb0 = s.tb0 := rfl
@[simp] theorem tb0w_setHearth (h : HearthId) (x : Hearth) : (s.setHearth h x).tb0w = s.tb0w := rfl
@[simp] theorem hearth_setHearth_same (h : HearthId) (x : Hearth) : (s.setHearth h x).hearth h = x := by simp [State.hearth, State.setHearth]

/-! ## State.setDom -/

@[simp] theorem cycle_setDom (d : Nat) (x : Domain) : (s.setDom d x).cycle = s.cycle := rfl
@[simp] theorem tbSum_setDom (d : Nat) (x : Domain) : (s.setDom d x).tbSum = s.tbSum := rfl
@[simp] theorem incNow_setDom (d : Nat) (x : Domain) : (s.setDom d x).incNow = s.incNow := rfl
@[simp] theorem tbEra_setDom (d : Nat) (x : Domain) : (s.setDom d x).tbEra = s.tbEra := rfl
@[simp] theorem regs_setDom (d : Nat) (x : Domain) : (s.setDom d x).regs = s.regs := rfl
@[simp] theorem cycEv_setDom (d : Nat) (x : Domain) : (s.setDom d x).cycEv = s.cycEv := rfl
@[simp] theorem mem_setDom (d : Nat) (x : Domain) : (s.setDom d x).mem = s.mem := rfl
@[simp] theorem threads_setDom (d : Nat) (x : Domain) : (s.setDom d x).threads = s.threads := rfl
@[simp] theorem cores_setDom (d : Nat) (x : Domain) : (s.setDom d x).cores = s.cores := rfl
@[simp] theorem watches_setDom (d : Nat) (x : Domain) : (s.setDom d x).watches = s.watches := rfl
@[simp] theorem heldWakes_setDom (d : Nat) (x : Domain) : (s.setDom d x).heldWakes = s.heldWakes := rfl
@[simp] theorem heldRaises_setDom (d : Nat) (x : Domain) : (s.setDom d x).heldRaises = s.heldRaises := rfl
@[simp] theorem regWaits_setDom (d : Nat) (x : Domain) : (s.setDom d x).regWaits = s.regWaits := rfl
@[simp] theorem banks_setDom (d : Nat) (x : Domain) : (s.setDom d x).banks = s.banks := rfl
@[simp] theorem queues_setDom (d : Nat) (x : Domain) : (s.setDom d x).queues = s.queues := rfl
@[simp] theorem quads_setDom (d : Nat) (x : Domain) : (s.setDom d x).quads = s.quads := rfl
@[simp] theorem owners_setDom (d : Nat) (x : Domain) : (s.setDom d x).owners = s.owners := rfl
@[simp] theorem rings_setDom (d : Nat) (x : Domain) : (s.setDom d x).rings = s.rings := rfl
@[simp] theorem qeNotice_setDom (d : Nat) (x : Domain) : (s.setDom d x).qeNotice = s.qeNotice := rfl
@[simp] theorem purgeFree_setDom (d : Nat) (x : Domain) : (s.setDom d x).purgeFree = s.purgeFree := rfl
@[simp] theorem evmHeld_setDom (d : Nat) (x : Domain) : (s.setDom d x).evmHeld = s.evmHeld := rfl
@[simp] theorem qcyc_setDom (d : Nat) (x : Domain) : (s.setDom d x).qcyc = s.qcyc := rfl
@[simp] theorem freed_setDom (d : Nat) (x : Domain) : (s.setDom d x).freed = s.freed := rfl
@[simp] theorem cycSeq_setDom (d : Nat) (x : Domain) : (s.setDom d x).cycSeq = s.cycSeq := rfl
@[simp] theorem engines_setDom (d : Nat) (x : Domain) : (s.setDom d x).engines = s.engines := rfl
@[simp] theorem pmem_setDom (d : Nat) (x : Domain) : (s.setDom d x).pmem = s.pmem := rfl
@[simp] theorem channels_setDom (d : Nat) (x : Domain) : (s.setDom d x).channels = s.channels := rfl
@[simp] theorem ports_setDom (d : Nat) (x : Domain) : (s.setDom d x).ports = s.ports := rfl
@[simp] theorem bases_setDom (d : Nat) (x : Domain) : (s.setDom d x).bases = s.bases := rfl
@[simp] theorem refs_setDom (d : Nat) (x : Domain) : (s.setDom d x).refs = s.refs := rfl
@[simp] theorem latches_setDom (d : Nat) (x : Domain) : (s.setDom d x).latches = s.latches := rfl
@[simp] theorem pend_setDom (d : Nat) (x : Domain) : (s.setDom d x).pend = s.pend := rfl
@[simp] theorem arrivals_setDom (d : Nat) (x : Domain) : (s.setDom d x).arrivals = s.arrivals := rfl
@[simp] theorem passDone_setDom (d : Nat) (x : Domain) : (s.setDom d x).passDone = s.passDone := rfl
@[simp] theorem stagerNotice_setDom (d : Nat) (x : Domain) : (s.setDom d x).stagerNotice = s.stagerNotice := rfl
@[simp] theorem tasks_setDom (d : Nat) (x : Domain) : (s.setDom d x).tasks = s.tasks := rfl
@[simp] theorem temperNotice_setDom (d : Nat) (x : Domain) : (s.setDom d x).temperNotice = s.temperNotice := rfl
@[simp] theorem fires_setDom (d : Nat) (x : Domain) : (s.setDom d x).fires = s.fires := rfl
@[simp] theorem pulsedNow_setDom (d : Nat) (x : Domain) : (s.setDom d x).pulsedNow = s.pulsedNow := rfl
@[simp] theorem wokeNow_setDom (d : Nat) (x : Domain) : (s.setDom d x).wokeNow = s.wokeNow := rfl
@[simp] theorem cache_setDom (d : Nat) (x : Domain) : (s.setDom d x).cache = s.cache := rfl
@[simp] theorem sigPackets_setDom (d : Nat) (x : Domain) : (s.setDom d x).sigPackets = s.sigPackets := rfl
@[simp] theorem sigOut_setDom (d : Nat) (x : Domain) : (s.setDom d x).sigOut = s.sigOut := rfl
@[simp] theorem pinWrite_setDom (d : Nat) (x : Domain) : (s.setDom d x).pinWrite = s.pinWrite := rfl
@[simp] theorem fills_setDom (d : Nat) (x : Domain) : (s.setDom d x).fills = s.fills := rfl
@[simp] theorem writeBacks_setDom (d : Nat) (x : Domain) : (s.setDom d x).writeBacks = s.writeBacks := rfl
@[simp] theorem hearths_setDom (d : Nat) (x : Domain) : (s.setDom d x).hearths = s.hearths := rfl
@[simp] theorem lanes_setDom (d : Nat) (x : Domain) : (s.setDom d x).lanes = s.lanes := rfl
@[simp] theorem chain_setDom (d : Nat) (x : Domain) : (s.setDom d x).chain = s.chain := rfl
@[simp] theorem mirror_setDom (d : Nat) (x : Domain) : (s.setDom d x).mirror = s.mirror := rfl
@[simp] theorem faults_setDom (d : Nat) (x : Domain) : (s.setDom d x).faults = s.faults := rfl
@[simp] theorem boot_setDom (d : Nat) (x : Domain) : (s.setDom d x).boot = s.boot := rfl
@[simp] theorem ember_setDom (d : Nat) (x : Domain) : (s.setDom d x).ember = s.ember := rfl
@[simp] theorem soc_setDom (d : Nat) (x : Domain) : (s.setDom d x).soc = s.soc := rfl
@[simp] theorem answer_setDom (d : Nat) (x : Domain) : (s.setDom d x).answer = s.answer := rfl
@[simp] theorem issuedNow_setDom (d : Nat) (x : Domain) : (s.setDom d x).issuedNow = s.issuedNow := rfl
@[simp] theorem storeAt_setDom (d : Nat) (x : Domain) : (s.setDom d x).storeAt = s.storeAt := rfl
@[simp] theorem seq_setDom (d : Nat) (x : Domain) : (s.setDom d x).seq = s.seq := rfl
@[simp] theorem fresh_setDom (d : Nat) (x : Domain) : (s.setDom d x).fresh = s.fresh := rfl
@[simp] theorem pending_setDom (d : Nat) (x : Domain) : (s.setDom d x).pending = s.pending := rfl
@[simp] theorem thr_setDom (d : Nat) (x : Domain) (u : Tid) : (s.setDom d x).thr u = s.thr u := rfl
@[simp] theorem core_setDom (d : Nat) (x : Domain) (u : CoreId) : (s.setDom d x).core u = s.core u := rfl
@[simp] theorem bank_setDom (d : Nat) (x : Domain) (u : BankId) : (s.setDom d x).bank u = s.bank u := rfl
@[simp] theorem queue_setDom (d : Nat) (x : Domain) (u : Qid) : (s.setDom d x).queue u = s.queue u := rfl
@[simp] theorem quad_setDom (d : Nat) (x : Domain) (u : Quadrant) : (s.setDom d x).quad u = s.quad u := rfl
@[simp] theorem owner_setDom (d : Nat) (x : Domain) (u : BitVec 12) : (s.setDom d x).owner u = s.owner u := rfl
@[simp] theorem ring_setDom (d : Nat) (x : Domain) (u : BitVec 10) : (s.setDom d x).ring u = s.ring u := rfl
@[simp] theorem engine_setDom (d : Nat) (x : Domain) (u : EngineId) : (s.setDom d x).engine u = s.engine u := rfl
@[simp] theorem chan_setDom (d : Nat) (x : Domain) (u : Chan) : (s.setDom d x).chan u = s.chan u := rfl
@[simp] theorem port_setDom (d : Nat) (x : Domain) (u : Port) : (s.setDom d x).port u = s.port u := rfl
@[simp] theorem base_setDom (d : Nat) (x : Domain) (u : BaseId) : (s.setDom d x).base u = s.base u := rfl
@[simp] theorem ref_setDom (d : Nat) (x : Domain) (u : BaseId) (v : BitVec 2) : (s.setDom d x).ref u v = s.ref u v := rfl
@[simp] theorem task_setDom (d : Nat) (x : Domain) (u : TaskId) : (s.setDom d x).task u = s.task u := rfl
@[simp] theorem hearth_setDom (d : Nat) (x : Domain) (u : HearthId) : (s.setDom d x).hearth u = s.hearth u := rfl
@[simp] theorem lane_setDom (d : Nat) (x : Domain) (u : LaneId) : (s.setDom d x).lane u = s.lane u := rfl
@[simp] theorem reg_setDom (d : Nat) (x : Domain) (k : RegKind) (i j : Nat) : (s.setDom d x).reg k i j = s.reg k i j := rfl
@[simp] theorem fld_setDom (d : Nat) (x : Domain) (f : Fld) (i j : Nat) : (s.setDom d x).fld f i j = s.fld f i j := rfl
@[simp] theorem bit_setDom (d : Nat) (x : Domain) (f : Fld) (i j : Nat) : (s.setDom d x).bit f i j = s.bit f i j := rfl
@[simp] theorem ns_setDom (d : Nat) (x : Domain) : (s.setDom d x).ns = s.ns := rfl
@[simp] theorem tb0_setDom (d : Nat) (x : Domain) : (s.setDom d x).tb0 = s.tb0 := rfl
@[simp] theorem tb0w_setDom (d : Nat) (x : Domain) : (s.setDom d x).tb0w = s.tb0w := rfl
@[simp] theorem dom_setDom_same (d : Nat) (x : Domain) : (s.setDom d x).dom d = x := by simp [State.dom, State.setDom]

/-! ## State.setLane -/

@[simp] theorem cycle_setLane (l : LaneId) (x : Lane) : (s.setLane l x).cycle = s.cycle := rfl
@[simp] theorem tbSum_setLane (l : LaneId) (x : Lane) : (s.setLane l x).tbSum = s.tbSum := rfl
@[simp] theorem incNow_setLane (l : LaneId) (x : Lane) : (s.setLane l x).incNow = s.incNow := rfl
@[simp] theorem tbEra_setLane (l : LaneId) (x : Lane) : (s.setLane l x).tbEra = s.tbEra := rfl
@[simp] theorem regs_setLane (l : LaneId) (x : Lane) : (s.setLane l x).regs = s.regs := rfl
@[simp] theorem cycEv_setLane (l : LaneId) (x : Lane) : (s.setLane l x).cycEv = s.cycEv := rfl
@[simp] theorem mem_setLane (l : LaneId) (x : Lane) : (s.setLane l x).mem = s.mem := rfl
@[simp] theorem threads_setLane (l : LaneId) (x : Lane) : (s.setLane l x).threads = s.threads := rfl
@[simp] theorem cores_setLane (l : LaneId) (x : Lane) : (s.setLane l x).cores = s.cores := rfl
@[simp] theorem watches_setLane (l : LaneId) (x : Lane) : (s.setLane l x).watches = s.watches := rfl
@[simp] theorem heldWakes_setLane (l : LaneId) (x : Lane) : (s.setLane l x).heldWakes = s.heldWakes := rfl
@[simp] theorem heldRaises_setLane (l : LaneId) (x : Lane) : (s.setLane l x).heldRaises = s.heldRaises := rfl
@[simp] theorem regWaits_setLane (l : LaneId) (x : Lane) : (s.setLane l x).regWaits = s.regWaits := rfl
@[simp] theorem banks_setLane (l : LaneId) (x : Lane) : (s.setLane l x).banks = s.banks := rfl
@[simp] theorem queues_setLane (l : LaneId) (x : Lane) : (s.setLane l x).queues = s.queues := rfl
@[simp] theorem quads_setLane (l : LaneId) (x : Lane) : (s.setLane l x).quads = s.quads := rfl
@[simp] theorem owners_setLane (l : LaneId) (x : Lane) : (s.setLane l x).owners = s.owners := rfl
@[simp] theorem rings_setLane (l : LaneId) (x : Lane) : (s.setLane l x).rings = s.rings := rfl
@[simp] theorem qeNotice_setLane (l : LaneId) (x : Lane) : (s.setLane l x).qeNotice = s.qeNotice := rfl
@[simp] theorem purgeFree_setLane (l : LaneId) (x : Lane) : (s.setLane l x).purgeFree = s.purgeFree := rfl
@[simp] theorem evmHeld_setLane (l : LaneId) (x : Lane) : (s.setLane l x).evmHeld = s.evmHeld := rfl
@[simp] theorem qcyc_setLane (l : LaneId) (x : Lane) : (s.setLane l x).qcyc = s.qcyc := rfl
@[simp] theorem freed_setLane (l : LaneId) (x : Lane) : (s.setLane l x).freed = s.freed := rfl
@[simp] theorem cycSeq_setLane (l : LaneId) (x : Lane) : (s.setLane l x).cycSeq = s.cycSeq := rfl
@[simp] theorem engines_setLane (l : LaneId) (x : Lane) : (s.setLane l x).engines = s.engines := rfl
@[simp] theorem pmem_setLane (l : LaneId) (x : Lane) : (s.setLane l x).pmem = s.pmem := rfl
@[simp] theorem channels_setLane (l : LaneId) (x : Lane) : (s.setLane l x).channels = s.channels := rfl
@[simp] theorem ports_setLane (l : LaneId) (x : Lane) : (s.setLane l x).ports = s.ports := rfl
@[simp] theorem bases_setLane (l : LaneId) (x : Lane) : (s.setLane l x).bases = s.bases := rfl
@[simp] theorem refs_setLane (l : LaneId) (x : Lane) : (s.setLane l x).refs = s.refs := rfl
@[simp] theorem latches_setLane (l : LaneId) (x : Lane) : (s.setLane l x).latches = s.latches := rfl
@[simp] theorem pend_setLane (l : LaneId) (x : Lane) : (s.setLane l x).pend = s.pend := rfl
@[simp] theorem arrivals_setLane (l : LaneId) (x : Lane) : (s.setLane l x).arrivals = s.arrivals := rfl
@[simp] theorem passDone_setLane (l : LaneId) (x : Lane) : (s.setLane l x).passDone = s.passDone := rfl
@[simp] theorem stagerNotice_setLane (l : LaneId) (x : Lane) : (s.setLane l x).stagerNotice = s.stagerNotice := rfl
@[simp] theorem tasks_setLane (l : LaneId) (x : Lane) : (s.setLane l x).tasks = s.tasks := rfl
@[simp] theorem temperNotice_setLane (l : LaneId) (x : Lane) : (s.setLane l x).temperNotice = s.temperNotice := rfl
@[simp] theorem fires_setLane (l : LaneId) (x : Lane) : (s.setLane l x).fires = s.fires := rfl
@[simp] theorem pulsedNow_setLane (l : LaneId) (x : Lane) : (s.setLane l x).pulsedNow = s.pulsedNow := rfl
@[simp] theorem wokeNow_setLane (l : LaneId) (x : Lane) : (s.setLane l x).wokeNow = s.wokeNow := rfl
@[simp] theorem cache_setLane (l : LaneId) (x : Lane) : (s.setLane l x).cache = s.cache := rfl
@[simp] theorem sigPackets_setLane (l : LaneId) (x : Lane) : (s.setLane l x).sigPackets = s.sigPackets := rfl
@[simp] theorem sigOut_setLane (l : LaneId) (x : Lane) : (s.setLane l x).sigOut = s.sigOut := rfl
@[simp] theorem pinWrite_setLane (l : LaneId) (x : Lane) : (s.setLane l x).pinWrite = s.pinWrite := rfl
@[simp] theorem fills_setLane (l : LaneId) (x : Lane) : (s.setLane l x).fills = s.fills := rfl
@[simp] theorem writeBacks_setLane (l : LaneId) (x : Lane) : (s.setLane l x).writeBacks = s.writeBacks := rfl
@[simp] theorem hearths_setLane (l : LaneId) (x : Lane) : (s.setLane l x).hearths = s.hearths := rfl
@[simp] theorem domains_setLane (l : LaneId) (x : Lane) : (s.setLane l x).domains = s.domains := rfl
@[simp] theorem chain_setLane (l : LaneId) (x : Lane) : (s.setLane l x).chain = s.chain := rfl
@[simp] theorem mirror_setLane (l : LaneId) (x : Lane) : (s.setLane l x).mirror = s.mirror := rfl
@[simp] theorem faults_setLane (l : LaneId) (x : Lane) : (s.setLane l x).faults = s.faults := rfl
@[simp] theorem boot_setLane (l : LaneId) (x : Lane) : (s.setLane l x).boot = s.boot := rfl
@[simp] theorem ember_setLane (l : LaneId) (x : Lane) : (s.setLane l x).ember = s.ember := rfl
@[simp] theorem soc_setLane (l : LaneId) (x : Lane) : (s.setLane l x).soc = s.soc := rfl
@[simp] theorem answer_setLane (l : LaneId) (x : Lane) : (s.setLane l x).answer = s.answer := rfl
@[simp] theorem issuedNow_setLane (l : LaneId) (x : Lane) : (s.setLane l x).issuedNow = s.issuedNow := rfl
@[simp] theorem storeAt_setLane (l : LaneId) (x : Lane) : (s.setLane l x).storeAt = s.storeAt := rfl
@[simp] theorem seq_setLane (l : LaneId) (x : Lane) : (s.setLane l x).seq = s.seq := rfl
@[simp] theorem fresh_setLane (l : LaneId) (x : Lane) : (s.setLane l x).fresh = s.fresh := rfl
@[simp] theorem pending_setLane (l : LaneId) (x : Lane) : (s.setLane l x).pending = s.pending := rfl
@[simp] theorem thr_setLane (l : LaneId) (x : Lane) (u : Tid) : (s.setLane l x).thr u = s.thr u := rfl
@[simp] theorem core_setLane (l : LaneId) (x : Lane) (u : CoreId) : (s.setLane l x).core u = s.core u := rfl
@[simp] theorem bank_setLane (l : LaneId) (x : Lane) (u : BankId) : (s.setLane l x).bank u = s.bank u := rfl
@[simp] theorem queue_setLane (l : LaneId) (x : Lane) (u : Qid) : (s.setLane l x).queue u = s.queue u := rfl
@[simp] theorem quad_setLane (l : LaneId) (x : Lane) (u : Quadrant) : (s.setLane l x).quad u = s.quad u := rfl
@[simp] theorem owner_setLane (l : LaneId) (x : Lane) (u : BitVec 12) : (s.setLane l x).owner u = s.owner u := rfl
@[simp] theorem ring_setLane (l : LaneId) (x : Lane) (u : BitVec 10) : (s.setLane l x).ring u = s.ring u := rfl
@[simp] theorem engine_setLane (l : LaneId) (x : Lane) (u : EngineId) : (s.setLane l x).engine u = s.engine u := rfl
@[simp] theorem chan_setLane (l : LaneId) (x : Lane) (u : Chan) : (s.setLane l x).chan u = s.chan u := rfl
@[simp] theorem port_setLane (l : LaneId) (x : Lane) (u : Port) : (s.setLane l x).port u = s.port u := rfl
@[simp] theorem base_setLane (l : LaneId) (x : Lane) (u : BaseId) : (s.setLane l x).base u = s.base u := rfl
@[simp] theorem ref_setLane (l : LaneId) (x : Lane) (u : BaseId) (v : BitVec 2) : (s.setLane l x).ref u v = s.ref u v := rfl
@[simp] theorem task_setLane (l : LaneId) (x : Lane) (u : TaskId) : (s.setLane l x).task u = s.task u := rfl
@[simp] theorem hearth_setLane (l : LaneId) (x : Lane) (u : HearthId) : (s.setLane l x).hearth u = s.hearth u := rfl
@[simp] theorem dom_setLane (l : LaneId) (x : Lane) (u : Nat) : (s.setLane l x).dom u = s.dom u := rfl
@[simp] theorem reg_setLane (l : LaneId) (x : Lane) (k : RegKind) (i j : Nat) : (s.setLane l x).reg k i j = s.reg k i j := rfl
@[simp] theorem fld_setLane (l : LaneId) (x : Lane) (f : Fld) (i j : Nat) : (s.setLane l x).fld f i j = s.fld f i j := rfl
@[simp] theorem bit_setLane (l : LaneId) (x : Lane) (f : Fld) (i j : Nat) : (s.setLane l x).bit f i j = s.bit f i j := rfl
@[simp] theorem ns_setLane (l : LaneId) (x : Lane) : (s.setLane l x).ns = s.ns := rfl
@[simp] theorem tb0_setLane (l : LaneId) (x : Lane) : (s.setLane l x).tb0 = s.tb0 := rfl
@[simp] theorem tb0w_setLane (l : LaneId) (x : Lane) : (s.setLane l x).tb0w = s.tb0w := rfl
@[simp] theorem lane_setLane_same (l : LaneId) (x : Lane) : (s.setLane l x).lane l = x := by simp [State.lane, State.setLane]

/-! ## State.setRegAt -/

@[simp] theorem cycle_setRegAt (a : Nat) (x : Word) : (s.setRegAt a x).cycle = s.cycle := rfl
@[simp] theorem tbSum_setRegAt (a : Nat) (x : Word) : (s.setRegAt a x).tbSum = s.tbSum := rfl
@[simp] theorem incNow_setRegAt (a : Nat) (x : Word) : (s.setRegAt a x).incNow = s.incNow := rfl
@[simp] theorem tbEra_setRegAt (a : Nat) (x : Word) : (s.setRegAt a x).tbEra = s.tbEra := rfl
@[simp] theorem cycEv_setRegAt (a : Nat) (x : Word) : (s.setRegAt a x).cycEv = s.cycEv := rfl
@[simp] theorem mem_setRegAt (a : Nat) (x : Word) : (s.setRegAt a x).mem = s.mem := rfl
@[simp] theorem threads_setRegAt (a : Nat) (x : Word) : (s.setRegAt a x).threads = s.threads := rfl
@[simp] theorem cores_setRegAt (a : Nat) (x : Word) : (s.setRegAt a x).cores = s.cores := rfl
@[simp] theorem watches_setRegAt (a : Nat) (x : Word) : (s.setRegAt a x).watches = s.watches := rfl
@[simp] theorem heldWakes_setRegAt (a : Nat) (x : Word) : (s.setRegAt a x).heldWakes = s.heldWakes := rfl
@[simp] theorem heldRaises_setRegAt (a : Nat) (x : Word) : (s.setRegAt a x).heldRaises = s.heldRaises := rfl
@[simp] theorem regWaits_setRegAt (a : Nat) (x : Word) : (s.setRegAt a x).regWaits = s.regWaits := rfl
@[simp] theorem banks_setRegAt (a : Nat) (x : Word) : (s.setRegAt a x).banks = s.banks := rfl
@[simp] theorem queues_setRegAt (a : Nat) (x : Word) : (s.setRegAt a x).queues = s.queues := rfl
@[simp] theorem quads_setRegAt (a : Nat) (x : Word) : (s.setRegAt a x).quads = s.quads := rfl
@[simp] theorem owners_setRegAt (a : Nat) (x : Word) : (s.setRegAt a x).owners = s.owners := rfl
@[simp] theorem rings_setRegAt (a : Nat) (x : Word) : (s.setRegAt a x).rings = s.rings := rfl
@[simp] theorem qeNotice_setRegAt (a : Nat) (x : Word) : (s.setRegAt a x).qeNotice = s.qeNotice := rfl
@[simp] theorem purgeFree_setRegAt (a : Nat) (x : Word) : (s.setRegAt a x).purgeFree = s.purgeFree := rfl
@[simp] theorem evmHeld_setRegAt (a : Nat) (x : Word) : (s.setRegAt a x).evmHeld = s.evmHeld := rfl
@[simp] theorem qcyc_setRegAt (a : Nat) (x : Word) : (s.setRegAt a x).qcyc = s.qcyc := rfl
@[simp] theorem freed_setRegAt (a : Nat) (x : Word) : (s.setRegAt a x).freed = s.freed := rfl
@[simp] theorem cycSeq_setRegAt (a : Nat) (x : Word) : (s.setRegAt a x).cycSeq = s.cycSeq := rfl
@[simp] theorem engines_setRegAt (a : Nat) (x : Word) : (s.setRegAt a x).engines = s.engines := rfl
@[simp] theorem pmem_setRegAt (a : Nat) (x : Word) : (s.setRegAt a x).pmem = s.pmem := rfl
@[simp] theorem channels_setRegAt (a : Nat) (x : Word) : (s.setRegAt a x).channels = s.channels := rfl
@[simp] theorem ports_setRegAt (a : Nat) (x : Word) : (s.setRegAt a x).ports = s.ports := rfl
@[simp] theorem bases_setRegAt (a : Nat) (x : Word) : (s.setRegAt a x).bases = s.bases := rfl
@[simp] theorem refs_setRegAt (a : Nat) (x : Word) : (s.setRegAt a x).refs = s.refs := rfl
@[simp] theorem latches_setRegAt (a : Nat) (x : Word) : (s.setRegAt a x).latches = s.latches := rfl
@[simp] theorem pend_setRegAt (a : Nat) (x : Word) : (s.setRegAt a x).pend = s.pend := rfl
@[simp] theorem arrivals_setRegAt (a : Nat) (x : Word) : (s.setRegAt a x).arrivals = s.arrivals := rfl
@[simp] theorem passDone_setRegAt (a : Nat) (x : Word) : (s.setRegAt a x).passDone = s.passDone := rfl
@[simp] theorem stagerNotice_setRegAt (a : Nat) (x : Word) : (s.setRegAt a x).stagerNotice = s.stagerNotice := rfl
@[simp] theorem tasks_setRegAt (a : Nat) (x : Word) : (s.setRegAt a x).tasks = s.tasks := rfl
@[simp] theorem temperNotice_setRegAt (a : Nat) (x : Word) : (s.setRegAt a x).temperNotice = s.temperNotice := rfl
@[simp] theorem fires_setRegAt (a : Nat) (x : Word) : (s.setRegAt a x).fires = s.fires := rfl
@[simp] theorem pulsedNow_setRegAt (a : Nat) (x : Word) : (s.setRegAt a x).pulsedNow = s.pulsedNow := rfl
@[simp] theorem wokeNow_setRegAt (a : Nat) (x : Word) : (s.setRegAt a x).wokeNow = s.wokeNow := rfl
@[simp] theorem cache_setRegAt (a : Nat) (x : Word) : (s.setRegAt a x).cache = s.cache := rfl
@[simp] theorem sigPackets_setRegAt (a : Nat) (x : Word) : (s.setRegAt a x).sigPackets = s.sigPackets := rfl
@[simp] theorem sigOut_setRegAt (a : Nat) (x : Word) : (s.setRegAt a x).sigOut = s.sigOut := rfl
@[simp] theorem pinWrite_setRegAt (a : Nat) (x : Word) : (s.setRegAt a x).pinWrite = s.pinWrite := rfl
@[simp] theorem fills_setRegAt (a : Nat) (x : Word) : (s.setRegAt a x).fills = s.fills := rfl
@[simp] theorem writeBacks_setRegAt (a : Nat) (x : Word) : (s.setRegAt a x).writeBacks = s.writeBacks := rfl
@[simp] theorem hearths_setRegAt (a : Nat) (x : Word) : (s.setRegAt a x).hearths = s.hearths := rfl
@[simp] theorem domains_setRegAt (a : Nat) (x : Word) : (s.setRegAt a x).domains = s.domains := rfl
@[simp] theorem lanes_setRegAt (a : Nat) (x : Word) : (s.setRegAt a x).lanes = s.lanes := rfl
@[simp] theorem chain_setRegAt (a : Nat) (x : Word) : (s.setRegAt a x).chain = s.chain := rfl
@[simp] theorem mirror_setRegAt (a : Nat) (x : Word) : (s.setRegAt a x).mirror = s.mirror := rfl
@[simp] theorem faults_setRegAt (a : Nat) (x : Word) : (s.setRegAt a x).faults = s.faults := rfl
@[simp] theorem boot_setRegAt (a : Nat) (x : Word) : (s.setRegAt a x).boot = s.boot := rfl
@[simp] theorem ember_setRegAt (a : Nat) (x : Word) : (s.setRegAt a x).ember = s.ember := rfl
@[simp] theorem soc_setRegAt (a : Nat) (x : Word) : (s.setRegAt a x).soc = s.soc := rfl
@[simp] theorem answer_setRegAt (a : Nat) (x : Word) : (s.setRegAt a x).answer = s.answer := rfl
@[simp] theorem issuedNow_setRegAt (a : Nat) (x : Word) : (s.setRegAt a x).issuedNow = s.issuedNow := rfl
@[simp] theorem storeAt_setRegAt (a : Nat) (x : Word) : (s.setRegAt a x).storeAt = s.storeAt := rfl
@[simp] theorem seq_setRegAt (a : Nat) (x : Word) : (s.setRegAt a x).seq = s.seq := rfl
@[simp] theorem fresh_setRegAt (a : Nat) (x : Word) : (s.setRegAt a x).fresh = s.fresh := rfl
@[simp] theorem pending_setRegAt (a : Nat) (x : Word) : (s.setRegAt a x).pending = s.pending := rfl
@[simp] theorem thr_setRegAt (a : Nat) (x : Word) (u : Tid) : (s.setRegAt a x).thr u = s.thr u := rfl
@[simp] theorem core_setRegAt (a : Nat) (x : Word) (u : CoreId) : (s.setRegAt a x).core u = s.core u := rfl
@[simp] theorem bank_setRegAt (a : Nat) (x : Word) (u : BankId) : (s.setRegAt a x).bank u = s.bank u := rfl
@[simp] theorem queue_setRegAt (a : Nat) (x : Word) (u : Qid) : (s.setRegAt a x).queue u = s.queue u := rfl
@[simp] theorem quad_setRegAt (a : Nat) (x : Word) (u : Quadrant) : (s.setRegAt a x).quad u = s.quad u := rfl
@[simp] theorem owner_setRegAt (a : Nat) (x : Word) (u : BitVec 12) : (s.setRegAt a x).owner u = s.owner u := rfl
@[simp] theorem ring_setRegAt (a : Nat) (x : Word) (u : BitVec 10) : (s.setRegAt a x).ring u = s.ring u := rfl
@[simp] theorem engine_setRegAt (a : Nat) (x : Word) (u : EngineId) : (s.setRegAt a x).engine u = s.engine u := rfl
@[simp] theorem chan_setRegAt (a : Nat) (x : Word) (u : Chan) : (s.setRegAt a x).chan u = s.chan u := rfl
@[simp] theorem port_setRegAt (a : Nat) (x : Word) (u : Port) : (s.setRegAt a x).port u = s.port u := rfl
@[simp] theorem base_setRegAt (a : Nat) (x : Word) (u : BaseId) : (s.setRegAt a x).base u = s.base u := rfl
@[simp] theorem ref_setRegAt (a : Nat) (x : Word) (u : BaseId) (v : BitVec 2) : (s.setRegAt a x).ref u v = s.ref u v := rfl
@[simp] theorem task_setRegAt (a : Nat) (x : Word) (u : TaskId) : (s.setRegAt a x).task u = s.task u := rfl
@[simp] theorem hearth_setRegAt (a : Nat) (x : Word) (u : HearthId) : (s.setRegAt a x).hearth u = s.hearth u := rfl
@[simp] theorem dom_setRegAt (a : Nat) (x : Word) (u : Nat) : (s.setRegAt a x).dom u = s.dom u := rfl
@[simp] theorem lane_setRegAt (a : Nat) (x : Word) (u : LaneId) : (s.setRegAt a x).lane u = s.lane u := rfl
@[simp] theorem ns_setRegAt (a : Nat) (x : Word) : (s.setRegAt a x).ns = s.ns := rfl
@[simp] theorem tb0_setRegAt (a : Nat) (x : Word) : (s.setRegAt a x).tb0 = s.tb0 := rfl
@[simp] theorem tb0w_setRegAt (a : Nat) (x : Word) : (s.setRegAt a x).tb0w = s.tb0w := rfl
@[simp] theorem regAt_setRegAt_same (a : Nat) (x : Word) : (s.setRegAt a x).regAt a = x := by simp [State.regAt, State.setRegAt]

/-! ## State.setReg -/

@[simp] theorem cycle_setReg (k : RegKind) (x : Word) (i j : Nat) : (s.setReg k x i j).cycle = s.cycle := rfl
@[simp] theorem tbSum_setReg (k : RegKind) (x : Word) (i j : Nat) : (s.setReg k x i j).tbSum = s.tbSum := rfl
@[simp] theorem incNow_setReg (k : RegKind) (x : Word) (i j : Nat) : (s.setReg k x i j).incNow = s.incNow := rfl
@[simp] theorem tbEra_setReg (k : RegKind) (x : Word) (i j : Nat) : (s.setReg k x i j).tbEra = s.tbEra := rfl
@[simp] theorem cycEv_setReg (k : RegKind) (x : Word) (i j : Nat) : (s.setReg k x i j).cycEv = s.cycEv := rfl
@[simp] theorem mem_setReg (k : RegKind) (x : Word) (i j : Nat) : (s.setReg k x i j).mem = s.mem := rfl
@[simp] theorem threads_setReg (k : RegKind) (x : Word) (i j : Nat) : (s.setReg k x i j).threads = s.threads := rfl
@[simp] theorem cores_setReg (k : RegKind) (x : Word) (i j : Nat) : (s.setReg k x i j).cores = s.cores := rfl
@[simp] theorem watches_setReg (k : RegKind) (x : Word) (i j : Nat) : (s.setReg k x i j).watches = s.watches := rfl
@[simp] theorem heldWakes_setReg (k : RegKind) (x : Word) (i j : Nat) : (s.setReg k x i j).heldWakes = s.heldWakes := rfl
@[simp] theorem heldRaises_setReg (k : RegKind) (x : Word) (i j : Nat) : (s.setReg k x i j).heldRaises = s.heldRaises := rfl
@[simp] theorem regWaits_setReg (k : RegKind) (x : Word) (i j : Nat) : (s.setReg k x i j).regWaits = s.regWaits := rfl
@[simp] theorem banks_setReg (k : RegKind) (x : Word) (i j : Nat) : (s.setReg k x i j).banks = s.banks := rfl
@[simp] theorem queues_setReg (k : RegKind) (x : Word) (i j : Nat) : (s.setReg k x i j).queues = s.queues := rfl
@[simp] theorem quads_setReg (k : RegKind) (x : Word) (i j : Nat) : (s.setReg k x i j).quads = s.quads := rfl
@[simp] theorem owners_setReg (k : RegKind) (x : Word) (i j : Nat) : (s.setReg k x i j).owners = s.owners := rfl
@[simp] theorem rings_setReg (k : RegKind) (x : Word) (i j : Nat) : (s.setReg k x i j).rings = s.rings := rfl
@[simp] theorem qeNotice_setReg (k : RegKind) (x : Word) (i j : Nat) : (s.setReg k x i j).qeNotice = s.qeNotice := rfl
@[simp] theorem purgeFree_setReg (k : RegKind) (x : Word) (i j : Nat) : (s.setReg k x i j).purgeFree = s.purgeFree := rfl
@[simp] theorem evmHeld_setReg (k : RegKind) (x : Word) (i j : Nat) : (s.setReg k x i j).evmHeld = s.evmHeld := rfl
@[simp] theorem qcyc_setReg (k : RegKind) (x : Word) (i j : Nat) : (s.setReg k x i j).qcyc = s.qcyc := rfl
@[simp] theorem freed_setReg (k : RegKind) (x : Word) (i j : Nat) : (s.setReg k x i j).freed = s.freed := rfl
@[simp] theorem cycSeq_setReg (k : RegKind) (x : Word) (i j : Nat) : (s.setReg k x i j).cycSeq = s.cycSeq := rfl
@[simp] theorem engines_setReg (k : RegKind) (x : Word) (i j : Nat) : (s.setReg k x i j).engines = s.engines := rfl
@[simp] theorem pmem_setReg (k : RegKind) (x : Word) (i j : Nat) : (s.setReg k x i j).pmem = s.pmem := rfl
@[simp] theorem channels_setReg (k : RegKind) (x : Word) (i j : Nat) : (s.setReg k x i j).channels = s.channels := rfl
@[simp] theorem ports_setReg (k : RegKind) (x : Word) (i j : Nat) : (s.setReg k x i j).ports = s.ports := rfl
@[simp] theorem bases_setReg (k : RegKind) (x : Word) (i j : Nat) : (s.setReg k x i j).bases = s.bases := rfl
@[simp] theorem refs_setReg (k : RegKind) (x : Word) (i j : Nat) : (s.setReg k x i j).refs = s.refs := rfl
@[simp] theorem latches_setReg (k : RegKind) (x : Word) (i j : Nat) : (s.setReg k x i j).latches = s.latches := rfl
@[simp] theorem pend_setReg (k : RegKind) (x : Word) (i j : Nat) : (s.setReg k x i j).pend = s.pend := rfl
@[simp] theorem arrivals_setReg (k : RegKind) (x : Word) (i j : Nat) : (s.setReg k x i j).arrivals = s.arrivals := rfl
@[simp] theorem passDone_setReg (k : RegKind) (x : Word) (i j : Nat) : (s.setReg k x i j).passDone = s.passDone := rfl
@[simp] theorem stagerNotice_setReg (k : RegKind) (x : Word) (i j : Nat) : (s.setReg k x i j).stagerNotice = s.stagerNotice := rfl
@[simp] theorem tasks_setReg (k : RegKind) (x : Word) (i j : Nat) : (s.setReg k x i j).tasks = s.tasks := rfl
@[simp] theorem temperNotice_setReg (k : RegKind) (x : Word) (i j : Nat) : (s.setReg k x i j).temperNotice = s.temperNotice := rfl
@[simp] theorem fires_setReg (k : RegKind) (x : Word) (i j : Nat) : (s.setReg k x i j).fires = s.fires := rfl
@[simp] theorem pulsedNow_setReg (k : RegKind) (x : Word) (i j : Nat) : (s.setReg k x i j).pulsedNow = s.pulsedNow := rfl
@[simp] theorem wokeNow_setReg (k : RegKind) (x : Word) (i j : Nat) : (s.setReg k x i j).wokeNow = s.wokeNow := rfl
@[simp] theorem cache_setReg (k : RegKind) (x : Word) (i j : Nat) : (s.setReg k x i j).cache = s.cache := rfl
@[simp] theorem sigPackets_setReg (k : RegKind) (x : Word) (i j : Nat) : (s.setReg k x i j).sigPackets = s.sigPackets := rfl
@[simp] theorem sigOut_setReg (k : RegKind) (x : Word) (i j : Nat) : (s.setReg k x i j).sigOut = s.sigOut := rfl
@[simp] theorem pinWrite_setReg (k : RegKind) (x : Word) (i j : Nat) : (s.setReg k x i j).pinWrite = s.pinWrite := rfl
@[simp] theorem fills_setReg (k : RegKind) (x : Word) (i j : Nat) : (s.setReg k x i j).fills = s.fills := rfl
@[simp] theorem writeBacks_setReg (k : RegKind) (x : Word) (i j : Nat) : (s.setReg k x i j).writeBacks = s.writeBacks := rfl
@[simp] theorem hearths_setReg (k : RegKind) (x : Word) (i j : Nat) : (s.setReg k x i j).hearths = s.hearths := rfl
@[simp] theorem domains_setReg (k : RegKind) (x : Word) (i j : Nat) : (s.setReg k x i j).domains = s.domains := rfl
@[simp] theorem lanes_setReg (k : RegKind) (x : Word) (i j : Nat) : (s.setReg k x i j).lanes = s.lanes := rfl
@[simp] theorem chain_setReg (k : RegKind) (x : Word) (i j : Nat) : (s.setReg k x i j).chain = s.chain := rfl
@[simp] theorem mirror_setReg (k : RegKind) (x : Word) (i j : Nat) : (s.setReg k x i j).mirror = s.mirror := rfl
@[simp] theorem faults_setReg (k : RegKind) (x : Word) (i j : Nat) : (s.setReg k x i j).faults = s.faults := rfl
@[simp] theorem boot_setReg (k : RegKind) (x : Word) (i j : Nat) : (s.setReg k x i j).boot = s.boot := rfl
@[simp] theorem ember_setReg (k : RegKind) (x : Word) (i j : Nat) : (s.setReg k x i j).ember = s.ember := rfl
@[simp] theorem soc_setReg (k : RegKind) (x : Word) (i j : Nat) : (s.setReg k x i j).soc = s.soc := rfl
@[simp] theorem answer_setReg (k : RegKind) (x : Word) (i j : Nat) : (s.setReg k x i j).answer = s.answer := rfl
@[simp] theorem issuedNow_setReg (k : RegKind) (x : Word) (i j : Nat) : (s.setReg k x i j).issuedNow = s.issuedNow := rfl
@[simp] theorem storeAt_setReg (k : RegKind) (x : Word) (i j : Nat) : (s.setReg k x i j).storeAt = s.storeAt := rfl
@[simp] theorem seq_setReg (k : RegKind) (x : Word) (i j : Nat) : (s.setReg k x i j).seq = s.seq := rfl
@[simp] theorem fresh_setReg (k : RegKind) (x : Word) (i j : Nat) : (s.setReg k x i j).fresh = s.fresh := rfl
@[simp] theorem pending_setReg (k : RegKind) (x : Word) (i j : Nat) : (s.setReg k x i j).pending = s.pending := rfl
@[simp] theorem thr_setReg (k : RegKind) (x : Word) (i j : Nat) (u : Tid) : (s.setReg k x i j).thr u = s.thr u := rfl
@[simp] theorem core_setReg (k : RegKind) (x : Word) (i j : Nat) (u : CoreId) : (s.setReg k x i j).core u = s.core u := rfl
@[simp] theorem bank_setReg (k : RegKind) (x : Word) (i j : Nat) (u : BankId) : (s.setReg k x i j).bank u = s.bank u := rfl
@[simp] theorem queue_setReg (k : RegKind) (x : Word) (i j : Nat) (u : Qid) : (s.setReg k x i j).queue u = s.queue u := rfl
@[simp] theorem quad_setReg (k : RegKind) (x : Word) (i j : Nat) (u : Quadrant) : (s.setReg k x i j).quad u = s.quad u := rfl
@[simp] theorem owner_setReg (k : RegKind) (x : Word) (i j : Nat) (u : BitVec 12) : (s.setReg k x i j).owner u = s.owner u := rfl
@[simp] theorem ring_setReg (k : RegKind) (x : Word) (i j : Nat) (u : BitVec 10) : (s.setReg k x i j).ring u = s.ring u := rfl
@[simp] theorem engine_setReg (k : RegKind) (x : Word) (i j : Nat) (u : EngineId) : (s.setReg k x i j).engine u = s.engine u := rfl
@[simp] theorem chan_setReg (k : RegKind) (x : Word) (i j : Nat) (u : Chan) : (s.setReg k x i j).chan u = s.chan u := rfl
@[simp] theorem port_setReg (k : RegKind) (x : Word) (i j : Nat) (u : Port) : (s.setReg k x i j).port u = s.port u := rfl
@[simp] theorem base_setReg (k : RegKind) (x : Word) (i j : Nat) (u : BaseId) : (s.setReg k x i j).base u = s.base u := rfl
@[simp] theorem ref_setReg (k : RegKind) (x : Word) (i j : Nat) (u : BaseId) (v : BitVec 2) : (s.setReg k x i j).ref u v = s.ref u v := rfl
@[simp] theorem task_setReg (k : RegKind) (x : Word) (i j : Nat) (u : TaskId) : (s.setReg k x i j).task u = s.task u := rfl
@[simp] theorem hearth_setReg (k : RegKind) (x : Word) (i j : Nat) (u : HearthId) : (s.setReg k x i j).hearth u = s.hearth u := rfl
@[simp] theorem dom_setReg (k : RegKind) (x : Word) (i j : Nat) (u : Nat) : (s.setReg k x i j).dom u = s.dom u := rfl
@[simp] theorem lane_setReg (k : RegKind) (x : Word) (i j : Nat) (u : LaneId) : (s.setReg k x i j).lane u = s.lane u := rfl
@[simp] theorem ns_setReg (k : RegKind) (x : Word) (i j : Nat) : (s.setReg k x i j).ns = s.ns := rfl
@[simp] theorem tb0_setReg (k : RegKind) (x : Word) (i j : Nat) : (s.setReg k x i j).tb0 = s.tb0 := rfl
@[simp] theorem tb0w_setReg (k : RegKind) (x : Word) (i j : Nat) : (s.setReg k x i j).tb0w = s.tb0w := rfl

/-! ## State.setFld -/

@[simp] theorem cycle_setFld (f : Fld) (x : Nat) (i j : Nat) : (s.setFld f x i j).cycle = s.cycle := rfl
@[simp] theorem tbSum_setFld (f : Fld) (x : Nat) (i j : Nat) : (s.setFld f x i j).tbSum = s.tbSum := rfl
@[simp] theorem incNow_setFld (f : Fld) (x : Nat) (i j : Nat) : (s.setFld f x i j).incNow = s.incNow := rfl
@[simp] theorem tbEra_setFld (f : Fld) (x : Nat) (i j : Nat) : (s.setFld f x i j).tbEra = s.tbEra := rfl
@[simp] theorem cycEv_setFld (f : Fld) (x : Nat) (i j : Nat) : (s.setFld f x i j).cycEv = s.cycEv := rfl
@[simp] theorem mem_setFld (f : Fld) (x : Nat) (i j : Nat) : (s.setFld f x i j).mem = s.mem := rfl
@[simp] theorem threads_setFld (f : Fld) (x : Nat) (i j : Nat) : (s.setFld f x i j).threads = s.threads := rfl
@[simp] theorem cores_setFld (f : Fld) (x : Nat) (i j : Nat) : (s.setFld f x i j).cores = s.cores := rfl
@[simp] theorem watches_setFld (f : Fld) (x : Nat) (i j : Nat) : (s.setFld f x i j).watches = s.watches := rfl
@[simp] theorem heldWakes_setFld (f : Fld) (x : Nat) (i j : Nat) : (s.setFld f x i j).heldWakes = s.heldWakes := rfl
@[simp] theorem heldRaises_setFld (f : Fld) (x : Nat) (i j : Nat) : (s.setFld f x i j).heldRaises = s.heldRaises := rfl
@[simp] theorem regWaits_setFld (f : Fld) (x : Nat) (i j : Nat) : (s.setFld f x i j).regWaits = s.regWaits := rfl
@[simp] theorem banks_setFld (f : Fld) (x : Nat) (i j : Nat) : (s.setFld f x i j).banks = s.banks := rfl
@[simp] theorem queues_setFld (f : Fld) (x : Nat) (i j : Nat) : (s.setFld f x i j).queues = s.queues := rfl
@[simp] theorem quads_setFld (f : Fld) (x : Nat) (i j : Nat) : (s.setFld f x i j).quads = s.quads := rfl
@[simp] theorem owners_setFld (f : Fld) (x : Nat) (i j : Nat) : (s.setFld f x i j).owners = s.owners := rfl
@[simp] theorem rings_setFld (f : Fld) (x : Nat) (i j : Nat) : (s.setFld f x i j).rings = s.rings := rfl
@[simp] theorem qeNotice_setFld (f : Fld) (x : Nat) (i j : Nat) : (s.setFld f x i j).qeNotice = s.qeNotice := rfl
@[simp] theorem purgeFree_setFld (f : Fld) (x : Nat) (i j : Nat) : (s.setFld f x i j).purgeFree = s.purgeFree := rfl
@[simp] theorem evmHeld_setFld (f : Fld) (x : Nat) (i j : Nat) : (s.setFld f x i j).evmHeld = s.evmHeld := rfl
@[simp] theorem qcyc_setFld (f : Fld) (x : Nat) (i j : Nat) : (s.setFld f x i j).qcyc = s.qcyc := rfl
@[simp] theorem freed_setFld (f : Fld) (x : Nat) (i j : Nat) : (s.setFld f x i j).freed = s.freed := rfl
@[simp] theorem cycSeq_setFld (f : Fld) (x : Nat) (i j : Nat) : (s.setFld f x i j).cycSeq = s.cycSeq := rfl
@[simp] theorem engines_setFld (f : Fld) (x : Nat) (i j : Nat) : (s.setFld f x i j).engines = s.engines := rfl
@[simp] theorem pmem_setFld (f : Fld) (x : Nat) (i j : Nat) : (s.setFld f x i j).pmem = s.pmem := rfl
@[simp] theorem channels_setFld (f : Fld) (x : Nat) (i j : Nat) : (s.setFld f x i j).channels = s.channels := rfl
@[simp] theorem ports_setFld (f : Fld) (x : Nat) (i j : Nat) : (s.setFld f x i j).ports = s.ports := rfl
@[simp] theorem bases_setFld (f : Fld) (x : Nat) (i j : Nat) : (s.setFld f x i j).bases = s.bases := rfl
@[simp] theorem refs_setFld (f : Fld) (x : Nat) (i j : Nat) : (s.setFld f x i j).refs = s.refs := rfl
@[simp] theorem latches_setFld (f : Fld) (x : Nat) (i j : Nat) : (s.setFld f x i j).latches = s.latches := rfl
@[simp] theorem pend_setFld (f : Fld) (x : Nat) (i j : Nat) : (s.setFld f x i j).pend = s.pend := rfl
@[simp] theorem arrivals_setFld (f : Fld) (x : Nat) (i j : Nat) : (s.setFld f x i j).arrivals = s.arrivals := rfl
@[simp] theorem passDone_setFld (f : Fld) (x : Nat) (i j : Nat) : (s.setFld f x i j).passDone = s.passDone := rfl
@[simp] theorem stagerNotice_setFld (f : Fld) (x : Nat) (i j : Nat) : (s.setFld f x i j).stagerNotice = s.stagerNotice := rfl
@[simp] theorem tasks_setFld (f : Fld) (x : Nat) (i j : Nat) : (s.setFld f x i j).tasks = s.tasks := rfl
@[simp] theorem temperNotice_setFld (f : Fld) (x : Nat) (i j : Nat) : (s.setFld f x i j).temperNotice = s.temperNotice := rfl
@[simp] theorem fires_setFld (f : Fld) (x : Nat) (i j : Nat) : (s.setFld f x i j).fires = s.fires := rfl
@[simp] theorem pulsedNow_setFld (f : Fld) (x : Nat) (i j : Nat) : (s.setFld f x i j).pulsedNow = s.pulsedNow := rfl
@[simp] theorem wokeNow_setFld (f : Fld) (x : Nat) (i j : Nat) : (s.setFld f x i j).wokeNow = s.wokeNow := rfl
@[simp] theorem cache_setFld (f : Fld) (x : Nat) (i j : Nat) : (s.setFld f x i j).cache = s.cache := rfl
@[simp] theorem sigPackets_setFld (f : Fld) (x : Nat) (i j : Nat) : (s.setFld f x i j).sigPackets = s.sigPackets := rfl
@[simp] theorem sigOut_setFld (f : Fld) (x : Nat) (i j : Nat) : (s.setFld f x i j).sigOut = s.sigOut := rfl
@[simp] theorem pinWrite_setFld (f : Fld) (x : Nat) (i j : Nat) : (s.setFld f x i j).pinWrite = s.pinWrite := rfl
@[simp] theorem fills_setFld (f : Fld) (x : Nat) (i j : Nat) : (s.setFld f x i j).fills = s.fills := rfl
@[simp] theorem writeBacks_setFld (f : Fld) (x : Nat) (i j : Nat) : (s.setFld f x i j).writeBacks = s.writeBacks := rfl
@[simp] theorem hearths_setFld (f : Fld) (x : Nat) (i j : Nat) : (s.setFld f x i j).hearths = s.hearths := rfl
@[simp] theorem domains_setFld (f : Fld) (x : Nat) (i j : Nat) : (s.setFld f x i j).domains = s.domains := rfl
@[simp] theorem lanes_setFld (f : Fld) (x : Nat) (i j : Nat) : (s.setFld f x i j).lanes = s.lanes := rfl
@[simp] theorem chain_setFld (f : Fld) (x : Nat) (i j : Nat) : (s.setFld f x i j).chain = s.chain := rfl
@[simp] theorem mirror_setFld (f : Fld) (x : Nat) (i j : Nat) : (s.setFld f x i j).mirror = s.mirror := rfl
@[simp] theorem faults_setFld (f : Fld) (x : Nat) (i j : Nat) : (s.setFld f x i j).faults = s.faults := rfl
@[simp] theorem boot_setFld (f : Fld) (x : Nat) (i j : Nat) : (s.setFld f x i j).boot = s.boot := rfl
@[simp] theorem ember_setFld (f : Fld) (x : Nat) (i j : Nat) : (s.setFld f x i j).ember = s.ember := rfl
@[simp] theorem soc_setFld (f : Fld) (x : Nat) (i j : Nat) : (s.setFld f x i j).soc = s.soc := rfl
@[simp] theorem answer_setFld (f : Fld) (x : Nat) (i j : Nat) : (s.setFld f x i j).answer = s.answer := rfl
@[simp] theorem issuedNow_setFld (f : Fld) (x : Nat) (i j : Nat) : (s.setFld f x i j).issuedNow = s.issuedNow := rfl
@[simp] theorem storeAt_setFld (f : Fld) (x : Nat) (i j : Nat) : (s.setFld f x i j).storeAt = s.storeAt := rfl
@[simp] theorem seq_setFld (f : Fld) (x : Nat) (i j : Nat) : (s.setFld f x i j).seq = s.seq := rfl
@[simp] theorem fresh_setFld (f : Fld) (x : Nat) (i j : Nat) : (s.setFld f x i j).fresh = s.fresh := rfl
@[simp] theorem pending_setFld (f : Fld) (x : Nat) (i j : Nat) : (s.setFld f x i j).pending = s.pending := rfl
@[simp] theorem thr_setFld (f : Fld) (x : Nat) (i j : Nat) (u : Tid) : (s.setFld f x i j).thr u = s.thr u := rfl
@[simp] theorem core_setFld (f : Fld) (x : Nat) (i j : Nat) (u : CoreId) : (s.setFld f x i j).core u = s.core u := rfl
@[simp] theorem bank_setFld (f : Fld) (x : Nat) (i j : Nat) (u : BankId) : (s.setFld f x i j).bank u = s.bank u := rfl
@[simp] theorem queue_setFld (f : Fld) (x : Nat) (i j : Nat) (u : Qid) : (s.setFld f x i j).queue u = s.queue u := rfl
@[simp] theorem quad_setFld (f : Fld) (x : Nat) (i j : Nat) (u : Quadrant) : (s.setFld f x i j).quad u = s.quad u := rfl
@[simp] theorem owner_setFld (f : Fld) (x : Nat) (i j : Nat) (u : BitVec 12) : (s.setFld f x i j).owner u = s.owner u := rfl
@[simp] theorem ring_setFld (f : Fld) (x : Nat) (i j : Nat) (u : BitVec 10) : (s.setFld f x i j).ring u = s.ring u := rfl
@[simp] theorem engine_setFld (f : Fld) (x : Nat) (i j : Nat) (u : EngineId) : (s.setFld f x i j).engine u = s.engine u := rfl
@[simp] theorem chan_setFld (f : Fld) (x : Nat) (i j : Nat) (u : Chan) : (s.setFld f x i j).chan u = s.chan u := rfl
@[simp] theorem port_setFld (f : Fld) (x : Nat) (i j : Nat) (u : Port) : (s.setFld f x i j).port u = s.port u := rfl
@[simp] theorem base_setFld (f : Fld) (x : Nat) (i j : Nat) (u : BaseId) : (s.setFld f x i j).base u = s.base u := rfl
@[simp] theorem ref_setFld (f : Fld) (x : Nat) (i j : Nat) (u : BaseId) (v : BitVec 2) : (s.setFld f x i j).ref u v = s.ref u v := rfl
@[simp] theorem task_setFld (f : Fld) (x : Nat) (i j : Nat) (u : TaskId) : (s.setFld f x i j).task u = s.task u := rfl
@[simp] theorem hearth_setFld (f : Fld) (x : Nat) (i j : Nat) (u : HearthId) : (s.setFld f x i j).hearth u = s.hearth u := rfl
@[simp] theorem dom_setFld (f : Fld) (x : Nat) (i j : Nat) (u : Nat) : (s.setFld f x i j).dom u = s.dom u := rfl
@[simp] theorem lane_setFld (f : Fld) (x : Nat) (i j : Nat) (u : LaneId) : (s.setFld f x i j).lane u = s.lane u := rfl
@[simp] theorem ns_setFld (f : Fld) (x : Nat) (i j : Nat) : (s.setFld f x i j).ns = s.ns := rfl
@[simp] theorem tb0_setFld (f : Fld) (x : Nat) (i j : Nat) : (s.setFld f x i j).tb0 = s.tb0 := rfl
@[simp] theorem tb0w_setFld (f : Fld) (x : Nat) (i j : Nat) : (s.setFld f x i j).tb0w = s.tb0w := rfl

/-! ## State.satAdd -/

@[simp] theorem cycle_satAdd (f : Fld) (x : Nat) (i j : Nat) : (s.satAdd f x i j).cycle = s.cycle := rfl
@[simp] theorem tbSum_satAdd (f : Fld) (x : Nat) (i j : Nat) : (s.satAdd f x i j).tbSum = s.tbSum := rfl
@[simp] theorem incNow_satAdd (f : Fld) (x : Nat) (i j : Nat) : (s.satAdd f x i j).incNow = s.incNow := rfl
@[simp] theorem tbEra_satAdd (f : Fld) (x : Nat) (i j : Nat) : (s.satAdd f x i j).tbEra = s.tbEra := rfl
@[simp] theorem mem_satAdd (f : Fld) (x : Nat) (i j : Nat) : (s.satAdd f x i j).mem = s.mem := rfl
@[simp] theorem threads_satAdd (f : Fld) (x : Nat) (i j : Nat) : (s.satAdd f x i j).threads = s.threads := rfl
@[simp] theorem cores_satAdd (f : Fld) (x : Nat) (i j : Nat) : (s.satAdd f x i j).cores = s.cores := rfl
@[simp] theorem watches_satAdd (f : Fld) (x : Nat) (i j : Nat) : (s.satAdd f x i j).watches = s.watches := rfl
@[simp] theorem heldWakes_satAdd (f : Fld) (x : Nat) (i j : Nat) : (s.satAdd f x i j).heldWakes = s.heldWakes := rfl
@[simp] theorem heldRaises_satAdd (f : Fld) (x : Nat) (i j : Nat) : (s.satAdd f x i j).heldRaises = s.heldRaises := rfl
@[simp] theorem regWaits_satAdd (f : Fld) (x : Nat) (i j : Nat) : (s.satAdd f x i j).regWaits = s.regWaits := rfl
@[simp] theorem banks_satAdd (f : Fld) (x : Nat) (i j : Nat) : (s.satAdd f x i j).banks = s.banks := rfl
@[simp] theorem queues_satAdd (f : Fld) (x : Nat) (i j : Nat) : (s.satAdd f x i j).queues = s.queues := rfl
@[simp] theorem quads_satAdd (f : Fld) (x : Nat) (i j : Nat) : (s.satAdd f x i j).quads = s.quads := rfl
@[simp] theorem owners_satAdd (f : Fld) (x : Nat) (i j : Nat) : (s.satAdd f x i j).owners = s.owners := rfl
@[simp] theorem rings_satAdd (f : Fld) (x : Nat) (i j : Nat) : (s.satAdd f x i j).rings = s.rings := rfl
@[simp] theorem qeNotice_satAdd (f : Fld) (x : Nat) (i j : Nat) : (s.satAdd f x i j).qeNotice = s.qeNotice := rfl
@[simp] theorem purgeFree_satAdd (f : Fld) (x : Nat) (i j : Nat) : (s.satAdd f x i j).purgeFree = s.purgeFree := rfl
@[simp] theorem evmHeld_satAdd (f : Fld) (x : Nat) (i j : Nat) : (s.satAdd f x i j).evmHeld = s.evmHeld := rfl
@[simp] theorem qcyc_satAdd (f : Fld) (x : Nat) (i j : Nat) : (s.satAdd f x i j).qcyc = s.qcyc := rfl
@[simp] theorem freed_satAdd (f : Fld) (x : Nat) (i j : Nat) : (s.satAdd f x i j).freed = s.freed := rfl
@[simp] theorem cycSeq_satAdd (f : Fld) (x : Nat) (i j : Nat) : (s.satAdd f x i j).cycSeq = s.cycSeq := rfl
@[simp] theorem engines_satAdd (f : Fld) (x : Nat) (i j : Nat) : (s.satAdd f x i j).engines = s.engines := rfl
@[simp] theorem pmem_satAdd (f : Fld) (x : Nat) (i j : Nat) : (s.satAdd f x i j).pmem = s.pmem := rfl
@[simp] theorem channels_satAdd (f : Fld) (x : Nat) (i j : Nat) : (s.satAdd f x i j).channels = s.channels := rfl
@[simp] theorem ports_satAdd (f : Fld) (x : Nat) (i j : Nat) : (s.satAdd f x i j).ports = s.ports := rfl
@[simp] theorem bases_satAdd (f : Fld) (x : Nat) (i j : Nat) : (s.satAdd f x i j).bases = s.bases := rfl
@[simp] theorem refs_satAdd (f : Fld) (x : Nat) (i j : Nat) : (s.satAdd f x i j).refs = s.refs := rfl
@[simp] theorem latches_satAdd (f : Fld) (x : Nat) (i j : Nat) : (s.satAdd f x i j).latches = s.latches := rfl
@[simp] theorem pend_satAdd (f : Fld) (x : Nat) (i j : Nat) : (s.satAdd f x i j).pend = s.pend := rfl
@[simp] theorem arrivals_satAdd (f : Fld) (x : Nat) (i j : Nat) : (s.satAdd f x i j).arrivals = s.arrivals := rfl
@[simp] theorem passDone_satAdd (f : Fld) (x : Nat) (i j : Nat) : (s.satAdd f x i j).passDone = s.passDone := rfl
@[simp] theorem stagerNotice_satAdd (f : Fld) (x : Nat) (i j : Nat) : (s.satAdd f x i j).stagerNotice = s.stagerNotice := rfl
@[simp] theorem tasks_satAdd (f : Fld) (x : Nat) (i j : Nat) : (s.satAdd f x i j).tasks = s.tasks := rfl
@[simp] theorem temperNotice_satAdd (f : Fld) (x : Nat) (i j : Nat) : (s.satAdd f x i j).temperNotice = s.temperNotice := rfl
@[simp] theorem fires_satAdd (f : Fld) (x : Nat) (i j : Nat) : (s.satAdd f x i j).fires = s.fires := rfl
@[simp] theorem pulsedNow_satAdd (f : Fld) (x : Nat) (i j : Nat) : (s.satAdd f x i j).pulsedNow = s.pulsedNow := rfl
@[simp] theorem wokeNow_satAdd (f : Fld) (x : Nat) (i j : Nat) : (s.satAdd f x i j).wokeNow = s.wokeNow := rfl
@[simp] theorem cache_satAdd (f : Fld) (x : Nat) (i j : Nat) : (s.satAdd f x i j).cache = s.cache := rfl
@[simp] theorem sigPackets_satAdd (f : Fld) (x : Nat) (i j : Nat) : (s.satAdd f x i j).sigPackets = s.sigPackets := rfl
@[simp] theorem sigOut_satAdd (f : Fld) (x : Nat) (i j : Nat) : (s.satAdd f x i j).sigOut = s.sigOut := rfl
@[simp] theorem pinWrite_satAdd (f : Fld) (x : Nat) (i j : Nat) : (s.satAdd f x i j).pinWrite = s.pinWrite := rfl
@[simp] theorem fills_satAdd (f : Fld) (x : Nat) (i j : Nat) : (s.satAdd f x i j).fills = s.fills := rfl
@[simp] theorem writeBacks_satAdd (f : Fld) (x : Nat) (i j : Nat) : (s.satAdd f x i j).writeBacks = s.writeBacks := rfl
@[simp] theorem hearths_satAdd (f : Fld) (x : Nat) (i j : Nat) : (s.satAdd f x i j).hearths = s.hearths := rfl
@[simp] theorem domains_satAdd (f : Fld) (x : Nat) (i j : Nat) : (s.satAdd f x i j).domains = s.domains := rfl
@[simp] theorem lanes_satAdd (f : Fld) (x : Nat) (i j : Nat) : (s.satAdd f x i j).lanes = s.lanes := rfl
@[simp] theorem chain_satAdd (f : Fld) (x : Nat) (i j : Nat) : (s.satAdd f x i j).chain = s.chain := rfl
@[simp] theorem mirror_satAdd (f : Fld) (x : Nat) (i j : Nat) : (s.satAdd f x i j).mirror = s.mirror := rfl
@[simp] theorem faults_satAdd (f : Fld) (x : Nat) (i j : Nat) : (s.satAdd f x i j).faults = s.faults := rfl
@[simp] theorem boot_satAdd (f : Fld) (x : Nat) (i j : Nat) : (s.satAdd f x i j).boot = s.boot := rfl
@[simp] theorem ember_satAdd (f : Fld) (x : Nat) (i j : Nat) : (s.satAdd f x i j).ember = s.ember := rfl
@[simp] theorem soc_satAdd (f : Fld) (x : Nat) (i j : Nat) : (s.satAdd f x i j).soc = s.soc := rfl
@[simp] theorem answer_satAdd (f : Fld) (x : Nat) (i j : Nat) : (s.satAdd f x i j).answer = s.answer := rfl
@[simp] theorem issuedNow_satAdd (f : Fld) (x : Nat) (i j : Nat) : (s.satAdd f x i j).issuedNow = s.issuedNow := rfl
@[simp] theorem storeAt_satAdd (f : Fld) (x : Nat) (i j : Nat) : (s.satAdd f x i j).storeAt = s.storeAt := rfl
@[simp] theorem seq_satAdd (f : Fld) (x : Nat) (i j : Nat) : (s.satAdd f x i j).seq = s.seq := rfl
@[simp] theorem fresh_satAdd (f : Fld) (x : Nat) (i j : Nat) : (s.satAdd f x i j).fresh = s.fresh := rfl
@[simp] theorem pending_satAdd (f : Fld) (x : Nat) (i j : Nat) : (s.satAdd f x i j).pending = s.pending := rfl
@[simp] theorem thr_satAdd (f : Fld) (x : Nat) (i j : Nat) (u : Tid) : (s.satAdd f x i j).thr u = s.thr u := rfl
@[simp] theorem core_satAdd (f : Fld) (x : Nat) (i j : Nat) (u : CoreId) : (s.satAdd f x i j).core u = s.core u := rfl
@[simp] theorem bank_satAdd (f : Fld) (x : Nat) (i j : Nat) (u : BankId) : (s.satAdd f x i j).bank u = s.bank u := rfl
@[simp] theorem queue_satAdd (f : Fld) (x : Nat) (i j : Nat) (u : Qid) : (s.satAdd f x i j).queue u = s.queue u := rfl
@[simp] theorem quad_satAdd (f : Fld) (x : Nat) (i j : Nat) (u : Quadrant) : (s.satAdd f x i j).quad u = s.quad u := rfl
@[simp] theorem owner_satAdd (f : Fld) (x : Nat) (i j : Nat) (u : BitVec 12) : (s.satAdd f x i j).owner u = s.owner u := rfl
@[simp] theorem ring_satAdd (f : Fld) (x : Nat) (i j : Nat) (u : BitVec 10) : (s.satAdd f x i j).ring u = s.ring u := rfl
@[simp] theorem engine_satAdd (f : Fld) (x : Nat) (i j : Nat) (u : EngineId) : (s.satAdd f x i j).engine u = s.engine u := rfl
@[simp] theorem chan_satAdd (f : Fld) (x : Nat) (i j : Nat) (u : Chan) : (s.satAdd f x i j).chan u = s.chan u := rfl
@[simp] theorem port_satAdd (f : Fld) (x : Nat) (i j : Nat) (u : Port) : (s.satAdd f x i j).port u = s.port u := rfl
@[simp] theorem base_satAdd (f : Fld) (x : Nat) (i j : Nat) (u : BaseId) : (s.satAdd f x i j).base u = s.base u := rfl
@[simp] theorem ref_satAdd (f : Fld) (x : Nat) (i j : Nat) (u : BaseId) (v : BitVec 2) : (s.satAdd f x i j).ref u v = s.ref u v := rfl
@[simp] theorem task_satAdd (f : Fld) (x : Nat) (i j : Nat) (u : TaskId) : (s.satAdd f x i j).task u = s.task u := rfl
@[simp] theorem hearth_satAdd (f : Fld) (x : Nat) (i j : Nat) (u : HearthId) : (s.satAdd f x i j).hearth u = s.hearth u := rfl
@[simp] theorem dom_satAdd (f : Fld) (x : Nat) (i j : Nat) (u : Nat) : (s.satAdd f x i j).dom u = s.dom u := rfl
@[simp] theorem lane_satAdd (f : Fld) (x : Nat) (i j : Nat) (u : LaneId) : (s.satAdd f x i j).lane u = s.lane u := rfl
@[simp] theorem ns_satAdd (f : Fld) (x : Nat) (i j : Nat) : (s.satAdd f x i j).ns = s.ns := rfl
@[simp] theorem tb0_satAdd (f : Fld) (x : Nat) (i j : Nat) : (s.satAdd f x i j).tb0 = s.tb0 := rfl
@[simp] theorem tb0w_satAdd (f : Fld) (x : Nat) (i j : Nat) : (s.satAdd f x i j).tb0w = s.tb0w := rfl

/-! ## Two writes of one part -/

@[simp] theorem setThr_setThr (t : Tid) (x : Thread) (y : Thread) : (s.setThr t x).setThr t y = s.setThr t y := by simp [State.setThr]
@[simp] theorem setCore_setCore (c : CoreId) (x : Core) (y : Core) : (s.setCore c x).setCore c y = s.setCore c y := by simp [State.setCore]
@[simp] theorem setBank_setBank (b : BankId) (x : Bank) (y : Bank) : (s.setBank b x).setBank b y = s.setBank b y := by simp [State.setBank]
@[simp] theorem setQueue_setQueue (q : Qid) (x : Queue) (y : Queue) : (s.setQueue q x).setQueue q y = s.setQueue q y := by simp [State.setQueue]
@[simp] theorem setQuad_setQuad (k : Quadrant) (x : Quad) (y : Quad) : (s.setQuad k x).setQuad k y = s.setQuad k y := by simp [State.setQuad]
@[simp] theorem setOwner_setOwner (o : BitVec 12) (x : Owner) (y : Owner) : (s.setOwner o x).setOwner o y = s.setOwner o y := by simp [State.setOwner]
@[simp] theorem setRing_setRing (r : BitVec 10) (x : Ring) (y : Ring) : (s.setRing r x).setRing r y = s.setRing r y := by simp [State.setRing]
@[simp] theorem setEngine_setEngine (e : EngineId) (x : Engine) (y : Engine) : (s.setEngine e x).setEngine e y = s.setEngine e y := by simp [State.setEngine]
@[simp] theorem setChan_setChan (c : Chan) (x : Channel) (y : Channel) : (s.setChan c x).setChan c y = s.setChan c y := by simp [State.setChan]
@[simp] theorem setPort_setPort (p : Port) (x : PortSt) (y : PortSt) : (s.setPort p x).setPort p y = s.setPort p y := by simp [State.setPort]
@[simp] theorem setBase_setBase (n : BaseId) (x : Base) (y : Base) : (s.setBase n x).setBase n y = s.setBase n y := by simp [State.setBase]
@[simp] theorem setRef_setRef (n : BaseId) (j : BitVec 2) (x : RefEntry) (y : RefEntry) : (s.setRef n j x).setRef n j y = s.setRef n j y := by simp [State.setRef]
@[simp] theorem setTask_setTask (k : TaskId) (x : Task) (y : Task) : (s.setTask k x).setTask k y = s.setTask k y := by simp [State.setTask]
@[simp] theorem setHearth_setHearth (h : HearthId) (x : Hearth) (y : Hearth) : (s.setHearth h x).setHearth h y = s.setHearth h y := by simp [State.setHearth]
@[simp] theorem setDom_setDom (d : Nat) (x : Domain) (y : Domain) : (s.setDom d x).setDom d y = s.setDom d y := by simp [State.setDom]
@[simp] theorem setLane_setLane (l : LaneId) (x : Lane) (y : Lane) : (s.setLane l x).setLane l y = s.setLane l y := by simp [State.setLane]
@[simp] theorem setRegAt_setRegAt (a : Nat) (x : Word) (y : Word) : (s.setRegAt a x).setRegAt a y = s.setRegAt a y := by simp [State.setRegAt]

/-! ## Another part of the same table -/

theorem thr_setThr_ne (t : Tid) (x : Thread) (u : Tid) (hne : u ≠ t) : (s.setThr t x).thr u = s.thr u := by
  have h' : u.toNat ≠ t.toNat := fun e => hne (BitVec.eq_of_toNat_eq e)
  simp [State.thr, State.setThr, smGet_smSet, h']
theorem core_setCore_ne (c : CoreId) (x : Core) (u : CoreId) (hne : u ≠ c) : (s.setCore c x).core u = s.core u := by
  have h' : u.toNat ≠ c.toNat := fun e => hne (BitVec.eq_of_toNat_eq e)
  simp [State.core, State.setCore, smGet_smSet, h']
theorem bank_setBank_ne (b : BankId) (x : Bank) (u : BankId) (hne : u ≠ b) : (s.setBank b x).bank u = s.bank u := by
  have h' : u.toNat ≠ b.toNat := fun e => hne (BitVec.eq_of_toNat_eq e)
  simp [State.bank, State.setBank, smGet_smSet, h']
theorem queue_setQueue_ne (q : Qid) (x : Queue) (u : Qid) (hne : u ≠ q) : (s.setQueue q x).queue u = s.queue u := by
  have h' : u.toNat ≠ q.toNat := fun e => hne (BitVec.eq_of_toNat_eq e)
  simp [State.queue, State.setQueue, smGet_smSet, h']
theorem quad_setQuad_ne (k : Quadrant) (x : Quad) (u : Quadrant) (hne : u ≠ k) : (s.setQuad k x).quad u = s.quad u := by
  have h' : u.toNat ≠ k.toNat := fun e => hne (BitVec.eq_of_toNat_eq e)
  simp [State.quad, State.setQuad, smGet_smSet, h']
theorem owner_setOwner_ne (o : BitVec 12) (x : Owner) (u : BitVec 12) (hne : u ≠ o) : (s.setOwner o x).owner u = s.owner u := by
  have h' : u.toNat ≠ o.toNat := fun e => hne (BitVec.eq_of_toNat_eq e)
  simp [State.owner, State.setOwner, smGet_smSet, h']
theorem ring_setRing_ne (r : BitVec 10) (x : Ring) (u : BitVec 10) (hne : u ≠ r) : (s.setRing r x).ring u = s.ring u := by
  have h' : u.toNat ≠ r.toNat := fun e => hne (BitVec.eq_of_toNat_eq e)
  simp [State.ring, State.setRing, smGet_smSet, h']
theorem engine_setEngine_ne (e : EngineId) (x : Engine) (u : EngineId) (hne : u ≠ e) : (s.setEngine e x).engine u = s.engine u := by
  have h' : u.toNat ≠ e.toNat := fun e => hne (BitVec.eq_of_toNat_eq e)
  simp [State.engine, State.setEngine, smGet_smSet, h']
theorem chan_setChan_ne (c : Chan) (x : Channel) (u : Chan) (hne : u ≠ c) : (s.setChan c x).chan u = s.chan u := by
  have h' : u.toNat ≠ c.toNat := fun e => hne (BitVec.eq_of_toNat_eq e)
  simp [State.chan, State.setChan, smGet_smSet, h']
theorem port_setPort_ne (p : Port) (x : PortSt) (u : Port) (hne : u ≠ p) : (s.setPort p x).port u = s.port u := by
  have h' : u.toNat ≠ p.toNat := fun e => hne (BitVec.eq_of_toNat_eq e)
  simp [State.port, State.setPort, smGet_smSet, h']
theorem base_setBase_ne (n : BaseId) (x : Base) (u : BaseId) (hne : u ≠ n) : (s.setBase n x).base u = s.base u := by
  have h' : u.toNat ≠ n.toNat := fun e => hne (BitVec.eq_of_toNat_eq e)
  simp [State.base, State.setBase, smGet_smSet, h']
theorem task_setTask_ne (k : TaskId) (x : Task) (u : TaskId) (hne : u ≠ k) : (s.setTask k x).task u = s.task u := by
  have h' : u.toNat ≠ k.toNat := fun e => hne (BitVec.eq_of_toNat_eq e)
  simp [State.task, State.setTask, smGet_smSet, h']
theorem hearth_setHearth_ne (h : HearthId) (x : Hearth) (u : HearthId) (hne : u ≠ h) : (s.setHearth h x).hearth u = s.hearth u := by
  have h' : u.toNat ≠ h.toNat := fun e => hne (BitVec.eq_of_toNat_eq e)
  simp [State.hearth, State.setHearth, smGet_smSet, h']
theorem lane_setLane_ne (l : LaneId) (x : Lane) (u : LaneId) (hne : u ≠ l) : (s.setLane l x).lane u = s.lane u := by
  have h' : u.toNat ≠ l.toNat := fun e => hne (BitVec.eq_of_toNat_eq e)
  simp [State.lane, State.setLane, smGet_smSet, h']
theorem dom_setDom_ne (d : Nat) (x : Domain) (u : Nat) (h : u ≠ d) : (s.setDom d x).dom u = s.dom u := by
  simp [State.dom, State.setDom, smGet_smSet, h]
theorem regAt_setRegAt_ne (a : Nat) (x : Word) (u : Nat) (h : u ≠ a) : (s.setRegAt a x).regAt u = s.regAt u := by
  simp [State.regAt, State.setRegAt, smGet_smSet, h]
@[simp] theorem reg_setReg_same (k : RegKind) (x : Word) (i j : Nat) : (s.setReg k x i j).reg k i j = x := by
  simp [State.reg, State.setReg]
@[simp] theorem setReg_setReg (k : RegKind) (x y : Word) (i j : Nat) : (s.setReg k x i j).setReg k y i j = s.setReg k y i j := by
  simp [State.setReg]

end Sys2Proof.Machine
end

