-- ==== Sys2Proof/Laws/Fields.lean ====
section
/-!
SUPPORT. Fields of control registers, bit by bit: what reading and replacing a field does, and what a read that clears
leaves.
-/

namespace Sys2Proof.Machine

/-- Bit i of a word whose field at lo was replaced by v. -/
theorem getLsbD_putBits (w : Word) (lo len v i : Nat) (h : lo + len ≤ 32) :
    (putBits w lo len v).getLsbD i = if lo ≤ i ∧ i < lo + len then v.testBit (i - lo) else w.getLsbD i := by
  by_cases hi : i < 32
  swap
  · rw [BitVec.getLsbD_of_ge _ _ (by omega), BitVec.getLsbD_of_ge _ _ (by omega), if_neg (by omega)]
  · have e : 2 ^ lo * (v % 2 ^ len) + (w.toNat - 2 ^ lo * bitsOf w lo len) =
        2 ^ lo * (2 ^ len * (w.toNat / 2 ^ lo / 2 ^ len) + v % 2 ^ len) + w.toNat % 2 ^ lo := by
      have h1 := Nat.div_add_mod w.toNat (2 ^ lo)
      have h2 := Nat.div_add_mod (w.toNat / 2 ^ lo) (2 ^ len)
      rw [bitsOf]
      generalize w.toNat / 2 ^ lo % 2 ^ len = m at h2 ⊢
      generalize w.toNat / 2 ^ lo / 2 ^ len = d at h2 ⊢
      generalize w.toNat % 2 ^ lo = r at h1 ⊢
      rw [← h2] at h1
      have h3 : w.toNat - 2 ^ lo * m = 2 ^ lo * (2 ^ len * d) + r := by
        rw [← h1, Nat.mul_add]; omega
      rw [h3, Nat.mul_add]; omega
    have hw : (putBits w lo len v).getLsbD i =
        (2 ^ lo * (2 ^ len * (w.toNat / 2 ^ lo / 2 ^ len) + v % 2 ^ len) + w.toNat % 2 ^ lo).testBit i := by
      rw [putBits, e, BitVec.getLsbD_ofNat]; simp [hi]
    rw [hw, Nat.testBit_two_pow_mul_add _ (Nat.mod_lt _ (by positivity))]
    have ht : ∀ j, w.getLsbD j = w.toNat.testBit j := fun j => (BitVec.testBit_toNat w).symm
    by_cases h1 : i < lo
    · rw [if_pos h1, if_neg (by omega), Nat.testBit_mod_two_pow, ht]; simp [h1]
    · rw [if_neg h1, Nat.testBit_two_pow_mul_add _ (Nat.mod_lt _ (by positivity))]
      by_cases h2 : i - lo < len
      · rw [if_pos h2, if_pos (by omega), Nat.testBit_mod_two_pow]; simp [h2]
      · rw [if_neg h2, if_neg (by omega), Nat.div_div_eq_div_mul, ← Nat.pow_add, Nat.testBit_div_two_pow, ht]
        congr 1; omega

/-- A field read out of a word. -/
theorem testBit_bitsOf (w : Word) (lo len i : Nat) :
    (bitsOf w lo len).testBit i = (decide (i < len) && w.getLsbD (lo + i)) := by
  rw [bitsOf, Nat.testBit_mod_two_pow, Nat.testBit_div_two_pow, ← BitVec.testBit_toNat, Nat.add_comm i]

/-- A field reads back the value it was given, cut to its width. -/
theorem bitsOf_putBits_same (w : Word) (lo len v : Nat) (h : lo + len ≤ 32) :
    bitsOf (putBits w lo len v) lo len = v % 2 ^ len := by
  apply Nat.eq_of_testBit_eq
  intro i
  rw [testBit_bitsOf, getLsbD_putBits _ _ _ _ _ h, Nat.testBit_mod_two_pow]
  by_cases hi : i < len
  · simp [hi]
  · simp [hi]

/-- A field apart from the one replaced keeps its value. -/
theorem bitsOf_putBits_other (w : Word) (lo len v lo' len' : Nat) (h : lo + len ≤ 32)
    (hd : lo' + len' ≤ lo ∨ lo + len ≤ lo') : bitsOf (putBits w lo len v) lo' len' = bitsOf w lo' len' := by
  apply Nat.eq_of_testBit_eq
  intro i
  rw [testBit_bitsOf, testBit_bitsOf, getLsbD_putBits _ _ _ _ _ h]
  by_cases hi : i < len'
  · rw [if_neg (by omega)]
  · simp [hi]

/-- A field of the state after it was set. -/
theorem fld_setFld_same (s : State) (f : Fld) (v i j : Nat) (h : f.lo + f.len ≤ 32) :
    (s.setFld f v i j).fld f i j = v % 2 ^ f.len := by
  simp [State.fld, State.setFld, Fld.get, Fld.put, bitsOf_putBits_same _ _ _ _ h]

/-- Setting one register leaves another alone. -/
theorem reg_setReg_ne (s : State) (k l : RegKind) (v : Word) (i j i' j' : Nat)
    (h : regOff l i' j' ≠ regOff k i j) : (s.setReg k v i j).reg l i' j' = s.reg l i' j' := by
  simp [State.reg, State.setReg, regAt_setRegAt_ne _ _ _ _ h]

/-- Bit i lies in field f. -/
def FieldDesc.covers (f : FieldDesc) (i : Nat) : Bool := decide (f.lo ≤ i) && decide (i < f.lo + f.len)

/-- The bits that a read clears. -/
def RegDesc.clears (d : RegDesc) (i : Nat) : Bool := d.fields.any fun f => f.acc == .rc && f.covers i

/-- The bits that a read shows. -/
def RegDesc.shows (d : RegDesc) (i : Nat) : Bool := d.fields.any fun f => f.acc != .wo && f.covers i

/-- Every field lies inside the word. -/
def RegDesc.fits (d : RegDesc) : Bool := d.fields.all fun f => decide (f.lo + f.len ≤ 32)

theorem getLsbD_clearFields (fs : List FieldDesc) (i : Nat) (h : ∀ f ∈ fs, f.lo + f.len ≤ 32) :
    ∀ w : Word, (fs.foldl (fun w f => if f.acc = .rc then putBits w f.lo f.len 0 else w) w).getLsbD i =
      (w.getLsbD i && !(fs.any fun f => f.acc == .rc && f.covers i)) := by
  induction fs with
  | nil => intro w; simp
  | cons f r ih =>
    intro w
    have hf := h f (List.mem_cons_self ..)
    rw [List.foldl_cons, ih fun g hg => h g (List.mem_cons_of_mem _ hg)]
    by_cases ha : f.acc = .rc
    · rw [if_pos ha, getLsbD_putBits _ _ _ _ _ hf, List.any_cons]
      by_cases hc : f.lo ≤ i ∧ i < f.lo + f.len
      · simp [ha, hc, FieldDesc.covers]
      · rw [if_neg hc]
        have : f.covers i = false := by simp [FieldDesc.covers]; omega
        simp [this]
    · rw [if_neg ha, List.any_cons, show (f.acc == Acc.rc) = false by simpa using ha]; simp

theorem getLsbD_showFields (fs : List FieldDesc) (w : Word) (i : Nat) (h : ∀ f ∈ fs, f.lo + f.len ≤ 32) :
    ∀ v : Word, (fs.foldl (fun v f => if f.acc = .wo then v else putBits v f.lo f.len (bitsOf w f.lo f.len)) v).getLsbD i =
      (if fs.any (fun f => f.acc != .wo && f.covers i) then w.getLsbD i else v.getLsbD i) := by
  induction fs with
  | nil => intro v; simp
  | cons f r ih =>
    intro v
    have hf := h f (List.mem_cons_self ..)
    rw [List.foldl_cons, ih fun g hg => h g (List.mem_cons_of_mem _ hg)]
    by_cases ha : f.acc = .wo
    · rw [if_pos ha, List.any_cons, show (f.acc != Acc.wo) = false by simp [ha]]; simp
    · rw [if_neg ha, getLsbD_putBits _ _ _ _ _ hf, List.any_cons, show (f.acc != Acc.wo) = true by simpa using ha]
      by_cases hc : f.lo ≤ i ∧ i < f.lo + f.len
      · rw [if_pos hc, testBit_bitsOf]
        have h1 : i - f.lo < f.len := by omega
        have h2 : f.lo + (i - f.lo) = i := by omega
        simp [h1, h2, FieldDesc.covers, hc]
      · rw [if_neg hc]
        have : f.covers i = false := by simp [FieldDesc.covers]; omega
        simp [this]

/-- A read shows exactly the bits of the fields that are not WO (R9, R11). -/
theorem visible_mask (d : RegDesc) (m w : Word) (hf : d.fits = true)
    (h : ∀ i, i < 32 → m.getLsbD i = d.shows i) : visible d w = w &&& m := by
  apply BitVec.eq_of_getLsbD_eq
  intro i hi
  rw [visible, getLsbD_showFields _ _ _ (by simpa [RegDesc.fits] using hf), BitVec.getLsbD_and, h i hi]
  by_cases hs : d.shows i = true
  · have : (d.fields.any fun f => f.acc != .wo && f.covers i) = true := hs
    simp [this, hs]
  · have h1 : d.shows i = false := by simpa using hs
    have : (d.fields.any fun f => f.acc != .wo && f.covers i) = false := h1
    simp [this, h1]

end Sys2Proof.Machine
end

