-- ==== Sys2Proof/Laws/Issue.lean ====
section
/-!
SUPPORT. What issuing an instruction comes to, said once per shape of instruction.
-/

namespace Sys2Proof.Machine

/-- A register access at a domain that takes it is made at once. -/
theorem regAtDomain_takes (s : State) (d : Nat) (a : RegAcc) (f : State → State) (h : s.takes d) :
    s.regAtDomain d a f = f s := by
  simp [State.regAtDomain, h.1, h.2]

/-- A command at a domain that is ON acts at once. -/
theorem atDomain_on (s : State) (d : Nat) (f : State → State) (h : (s.dom d).st = .on) : s.atDomain d f = f s := by
  simp [State.atDomain, h]

@[simp] theorem thr_issuing (s : State) (t u : Tid) : (s.issuing t).thr u = s.thr u := rfl
@[simp] theorem core_issuing (s : State) (t : Tid) (c : CoreId) : (s.issuing t).core c = s.core c := rfl
@[simp] theorem mem_issuing (s : State) (t : Tid) : (s.issuing t).mem = s.mem := rfl
@[simp] theorem cycle_issuing (s : State) (t : Tid) : (s.issuing t).cycle = s.cycle := rfl
@[simp] theorem seq_issuing (s : State) (t : Tid) : (s.issuing t).seq = s.seq + 1 := rfl

/-- A ready thread runs its instruction. -/
theorem issue_runs (s : State) (t : Tid) (legal : Bool) (regs : BitVec 4) (far stall : Bool) (f : State → State)
    (h : s.issues t regs) (hl : legal = true) (hf : far = true → (s.thr t).far.length < 4) (hs : stall = false) :
    s.issue t legal regs far stall f = f (s.issuing t) := by
  obtain ⟨h1, h2, h3, h4⟩ := h
  have h3' : ¬ 0x40000 ≤ (s.thr t).pc.toNat := by omega
  have h5 : (far && decide (4 ≤ (s.thr t).far.length)) = false := by
    cases far with
    | false => rfl
    | true => simpa using hf rfl
  simp only [State.issue, h1, h2, h3', h4, hl, h5, hs]
  simp

/-- Nothing waits for a quiet thread. -/
theorem quiet_loads (s : State) (t : Tid) (ea : Word) (size n : Nat) (h : s.quiet t) :
    s.loadWaits t ea size n = false := by
  obtain ⟨h1, -, h3, -⟩ := h
  simp [State.loadWaits, Thread.olderFar, h1, Thread.unsentAt, State.partlyBuffered, h3, heldMask]

theorem byteMask_ne (ea : Word) (op : VOp) : byteMask ea op.size ≠ 0 := by
  have h4 : ea.toNat % 4 < 4 := Nat.mod_lt _ (by decide)
  have h1 : ∀ k, k < 4 → (BitVec.ofNat 4 (2 ^ k) ≠ 0 ∧ BitVec.ofNat 4 (3 * 2 ^ k) ≠ 0) := by decide
  have := h1 _ h4
  cases op <;> first | exact this.1 | exact this.2 | (show (0xF : BitVec 4) ≠ 0; decide)

/-- A value instruction whose operand is found inside the core writes its result. -/
theorem valueInstr_runs (s : State) (t : Tid) (op : VOp) (m : BitVec 3) (o : BitVec 23) (v : Word)
    (h : s.issuesWith t op m o v) :
    s.valueInstr t op m o =
      s.afterInstr t (applyOp op (s.thr t).a (s.thr t).x (s.thr t).y (s.thr t).rm (s.thr t) v) := by
  obtain ⟨hi, hv⟩ := h
  rcases hv with ⟨rfl, hn, rfl⟩ | ⟨ea, g, ho, hr, ha, hq, hb, rfl⟩
  · rw [State.valueInstr, issue_runs _ _ _ _ _ _ _ hi (by simp [valueLegal, operandOf, hn]) (by simp [mayBeFar])
      (by simp [State.valueStalls, operandOf])]
    simp [State.runValue, operandOf, State.finishValue, State.afterInstr]
  · have hw := quiet_loads s t ea op.size (s.seq + 1) hq
    obtain ⟨q1, q2, q3, q4⟩ := hq
    rw [State.valueInstr, issue_runs _ _ _ _ _ _ _ hi (by simp [valueLegal, ho]) (by simp [q1])
      (by simp [State.valueStalls, ho, hw])]
    have hm : ∀ {x : BitVec 4}, x ≠ 0 → ¬ (0 &&& x) = x := fun h e => h (by simpa using e.symm)
    have hv : (s.issuing t).heldValue t ea op.size = none := by
      simp [State.heldValue, State.isDevice, hr, State.runAheadHit, q2, q3, heldMask]
      exact fun h => byteMask_ne ea op h.symm
    have hl : (s.issuing t).loadWord (coreOf t) (wordKey (coreOf t) ea) = memWord s.mem (g / 4 * 4) := by
      simp [State.loadWord, wordKey, hr, overlay, q3, q4]
    have hb' : (s.issuing t).badWord (wordKey (coreOf t) ea) = false := hb
    simp [State.runValue, ho, State.loadOperand, State.cancelsEarly, hb', State.loadFault, aligned, ha, hr, isOwn, hv, hl, State.finishValue,
      State.afterInstr]

end Sys2Proof.Machine
end

