-- ==== Sys2Proof/Laws/Memory.lean ====
section
/-!
SUPPORT. Every operation on user memory keeps its canonical form.
-/

namespace Sys2Proof.Machine

theorem wf_memSetByte (m : List Host.Cell) (a : Nat) (v : Byte) (h : Memory.wf m = true) :
    Memory.wf (memSetByte m a v) = true := smWf_smSet 0 m a v h

theorem wf_memSetMasked (m : List Host.Cell) (a : Nat) (mask : BitVec 4) (v : Word) (h : Memory.wf m = true) :
    Memory.wf (memSetMasked m a mask v) = true := by
  have step : ∀ (b : Bool) (m : List Host.Cell) (a : Nat) (x : Byte), Memory.wf m = true →
      Memory.wf (if b then memSetByte m a x else m) = true := by
    intro b m a x hm
    cases b with
    | true => exact wf_memSetByte m a x hm
    | false => exact hm
  exact step _ _ _ _ (step _ _ _ _ (step _ _ _ _ (step _ _ _ _ h)))

theorem wf_memSetWord (m : List Host.Cell) (a : Nat) (v : Word) (h : Memory.wf m = true) :
    Memory.wf (memSetWord m a v) = true := wf_memSetMasked m a 0xF v h

theorem wf_clearRange (m : List Host.Cell) (lo hi : Nat) (h : Memory.wf m = true) :
    Memory.wf (clearRange m lo hi) = true := smWf_smDropRange 0 m lo hi h

theorem wf_empty : Memory.wf [] = true := rfl

end Sys2Proof.Machine
end

