-- ==== Sys2Proof/Laws/Kept.lean ====
section
/-!
SUPPORT. What commands leave as it is: the queue of commands that wait, the sum of TB0 with its increment, and whether memory is in its
canonical form.  Every function on states has one lemma here or in the files Laws/Kept*.lean that says it keeps these;
with `anyMem` true the lemmas say it of the first two whatever memory is, since the third is then true of every state.
-/

namespace Sys2Proof.Machine

/-- The waiting commands, the sum of TB0 with the increment of this cycle, and whether memory is in its canonical form (or any form is taken). -/
def State.keepOf (s : State) (anyMem : Bool) : List Instr × (BitVec 80 × Word) × Bool :=
  (s.pending, (s.tbSum, s.incNow), anyMem || Memory.wf s.mem)

/-- The same of an outcome that is a next state. -/
def outKeep (anyMem : Bool) (o : Out) : Option (List Instr × (BitVec 80 × Word) × Bool) :=
  match o with
  | .next t => some (t.keepOf anyMem)
  | _ => none

@[simp] theorem outKeep_next (anyMem : Bool) (t : State) : outKeep anyMem (.next t) = some (t.keepOf anyMem) := rfl

theorem pendingK (anyMem : Bool) (s : State) : s.pending = (s.keepOf anyMem).1 := rfl
theorem tbSumK (anyMem : Bool) (s : State) : (s.tbSum, s.incNow) = (s.keepOf anyMem).2.1 := rfl
theorem wfK (anyMem : Bool) (s : State) : (anyMem || Memory.wf s.mem) = (s.keepOf anyMem).2.2 := rfl

variable {anyMem : Bool}

/-- What a state given by its fields keeps. -/
theorem keep_mk a0 a1 a2 a3 a4 a5 a6 a7 a8 a9 a10 a11 a12 a13 a14 a15 a16 a17 a18 a19 a20 a21 a22 a23 a24 a25 a26 a27 a28 a29 a30 a31 a32 a33 a34 a35 a36 a37 a38 a39 a40 a41 a42 a43 a44 a45 a46 a47 a48 a49 a50 a51 a52 a53 a54 a55 a56 a57 a58 a59 a60 :
    (State.mk a0 a1 a2 a3 a4 a5 a6 a7 a8 a9 a10 a11 a12 a13 a14 a15 a16 a17 a18 a19 a20 a21 a22 a23 a24 a25 a26 a27 a28 a29 a30 a31 a32 a33 a34 a35 a36 a37 a38 a39 a40 a41 a42 a43 a44 a45 a46 a47 a48 a49 a50 a51 a52 a53 a54 a55 a56 a57 a58 a59 a60).keepOf anyMem =
      (a60, (a1, a2), anyMem || Memory.wf a6) := rfl

/-- Two states agree in what is kept when they agree in the four fields. -/
theorem keep_eq {s t : State} (h1 : t.pending = s.pending) (h2 : t.tbSum = s.tbSum) (h3 : t.mem = s.mem)
    (h4 : t.incNow = s.incNow := by rfl) : t.keepOf anyMem = s.keepOf anyMem := by
  unfold State.keepOf; rw [h1, h2, h3, h4]

/-- Memory written in a way that keeps its form. -/
theorem keep_mem (s : State) (m : List Host.Cell) (hm : Memory.wf s.mem = true → Memory.wf m = true)
    (h : (s.keepOf anyMem).2.2 = true) : ({ s with mem := m } : State).keepOf anyMem = s.keepOf anyMem := by
  rw [← wfK] at h
  simp only [State.keepOf, h, Prod.mk.injEq, true_and]
  cases anyMem with
  | true => rfl
  | false => exact hm h

@[simp] theorem keep_ite (p : Prop) [Decidable p] (s t : State) :
    (if p then s else t).keepOf anyMem = if p then s.keepOf anyMem else t.keepOf anyMem := by split <;> rfl

@[simp] theorem keep_foldl {α : Type} (g : State → α → State) (l : List α) (s : State)
    (h : ∀ s x, (g s x).keepOf anyMem = s.keepOf anyMem) : (l.foldl g s).keepOf anyMem = s.keepOf anyMem := by
  induction l generalizing s with
  | nil => rfl
  | cons a r ih => rw [List.foldl_cons, ih, h]

/-- A fold whose every step keeps it while memory is in its canonical form. -/
theorem keep_foldl_wf {α : Type} (g : State → α → State) (l : List α) (s : State) (hs : (s.keepOf anyMem).2.2 = true)
    (h : ∀ s x, (s.keepOf anyMem).2.2 = true → (g s x).keepOf anyMem = s.keepOf anyMem) :
    (l.foldl g s).keepOf anyMem = s.keepOf anyMem := by
  induction l generalizing s with
  | nil => rfl
  | cons a r ih => rw [List.foldl_cons, ih _ (by rw [h s a hs]; exact hs), h s a hs]

/-- A fold that carries a value beside the state. -/
theorem keep_foldl_snd {α β : Type} (g : β × State → α → β × State) (l : List α) (a : β × State)
    (h : ∀ a x, (g a x).2.keepOf anyMem = a.2.keepOf anyMem) : (l.foldl g a).2.keepOf anyMem = a.2.keepOf anyMem := by
  induction l generalizing a with
  | nil => rfl
  | cons x r ih => rw [List.foldl_cons, ih, h]

end Sys2Proof.Machine
end

