-- ==== Sys2Proof/Laws/KeptOps.lean ====
section
/-!
SUPPORT. What the functions of Machine/Ops.lean keep.
-/

namespace Sys2Proof.Machine

set_option linter.unusedSimpArgs false

variable {anyMem : Bool}

@[simp] theorem keep_setThr (s : State) (t : Tid) (th : Thread) :
    (State.setThr s t th).keepOf anyMem = s.keepOf anyMem := by
  simp [State.setThr, pendingK anyMem, tbSumK anyMem, wfK anyMem, keep_mk]

@[simp] theorem keep_setCore (s : State) (c : CoreId) (x : Core) :
    (State.setCore s c x).keepOf anyMem = s.keepOf anyMem := by
  simp [State.setCore, pendingK anyMem, tbSumK anyMem, wfK anyMem, keep_mk]

@[simp] theorem keep_setBank (s : State) (b : BankId) (x : Bank) :
    (State.setBank s b x).keepOf anyMem = s.keepOf anyMem := by
  simp [State.setBank, pendingK anyMem, tbSumK anyMem, wfK anyMem, keep_mk]

@[simp] theorem keep_setQueue (s : State) (q : Qid) (x : Queue) :
    (State.setQueue s q x).keepOf anyMem = s.keepOf anyMem := by
  simp [State.setQueue, pendingK anyMem, tbSumK anyMem, wfK anyMem, keep_mk]

@[simp] theorem keep_setQuad (s : State) (k : Quadrant) (x : Quad) :
    (State.setQuad s k x).keepOf anyMem = s.keepOf anyMem := by
  simp [State.setQuad, pendingK anyMem, tbSumK anyMem, wfK anyMem, keep_mk]

@[simp] theorem keep_setOwner (s : State) (o : BitVec 12) (x : Owner) :
    (State.setOwner s o x).keepOf anyMem = s.keepOf anyMem := by
  simp [State.setOwner, pendingK anyMem, tbSumK anyMem, wfK anyMem, keep_mk]

@[simp] theorem keep_setRing (s : State) (r : BitVec 10) (x : Ring) :
    (State.setRing s r x).keepOf anyMem = s.keepOf anyMem := by
  simp [State.setRing, pendingK anyMem, tbSumK anyMem, wfK anyMem, keep_mk]

@[simp] theorem keep_setEngine (s : State) (e : EngineId) (x : Engine) :
    (State.setEngine s e x).keepOf anyMem = s.keepOf anyMem := by
  simp [State.setEngine, pendingK anyMem, tbSumK anyMem, wfK anyMem, keep_mk]

@[simp] theorem keep_setChan (s : State) (c : Chan) (x : Channel) :
    (State.setChan s c x).keepOf anyMem = s.keepOf anyMem := by
  simp [State.setChan, pendingK anyMem, tbSumK anyMem, wfK anyMem, keep_mk]

@[simp] theorem keep_setPort (s : State) (p : Port) (x : PortSt) :
    (State.setPort s p x).keepOf anyMem = s.keepOf anyMem := by
  simp [State.setPort, pendingK anyMem, tbSumK anyMem, wfK anyMem, keep_mk]

@[simp] theorem keep_setBase (s : State) (n : BaseId) (x : Base) :
    (State.setBase s n x).keepOf anyMem = s.keepOf anyMem := by
  simp [State.setBase, pendingK anyMem, tbSumK anyMem, wfK anyMem, keep_mk]

@[simp] theorem keep_setRef (s : State) (n : BaseId) (j : BitVec 2) (x : RefEntry) :
    (State.setRef s n j x).keepOf anyMem = s.keepOf anyMem := by
  simp [State.setRef, pendingK anyMem, tbSumK anyMem, wfK anyMem, keep_mk]

@[simp] theorem keep_setTask (s : State) (k : TaskId) (x : Task) :
    (State.setTask s k x).keepOf anyMem = s.keepOf anyMem := by
  simp [State.setTask, pendingK anyMem, tbSumK anyMem, wfK anyMem, keep_mk]

@[simp] theorem keep_setHearth (s : State) (h : HearthId) (x : Hearth) :
    (State.setHearth s h x).keepOf anyMem = s.keepOf anyMem := by
  simp [State.setHearth, pendingK anyMem, tbSumK anyMem, wfK anyMem, keep_mk]

@[simp] theorem keep_setDom (s : State) (d : Nat) (x : Domain) :
    (State.setDom s d x).keepOf anyMem = s.keepOf anyMem := by
  simp [State.setDom, pendingK anyMem, tbSumK anyMem, wfK anyMem, keep_mk]

@[simp] theorem keep_setLane (s : State) (l : LaneId) (x : Lane) :
    (State.setLane s l x).keepOf anyMem = s.keepOf anyMem := by
  simp [State.setLane, pendingK anyMem, tbSumK anyMem, wfK anyMem, keep_mk]

@[simp] theorem keep_setRegAt (s : State) (off : Nat) (v : Word) :
    (State.setRegAt s off v).keepOf anyMem = s.keepOf anyMem := by
  simp [State.setRegAt, pendingK anyMem, tbSumK anyMem, wfK anyMem, keep_mk]

@[simp] theorem keep_setReg (s : State) (k : RegKind) (v : Word) (i : optParam Nat 0) (j : optParam Nat 0) :
    (State.setReg s k v i j).keepOf anyMem = s.keepOf anyMem := by
  simp [State.setReg, pendingK anyMem, tbSumK anyMem, wfK anyMem, keep_mk]

@[simp] theorem keep_setFld (s : State) (f : Fld) (v : Nat) (i : optParam Nat 0) (j : optParam Nat 0) :
    (State.setFld s f v i j).keepOf anyMem = s.keepOf anyMem := by
  simp [State.setFld, pendingK anyMem, tbSumK anyMem, wfK anyMem, keep_mk]

@[simp] theorem keep_noteAt (s : State) (off : Nat) (f : Fld) (n : Nat) :
    (State.noteAt s off f n).keepOf anyMem = s.keepOf anyMem := by
  simp [State.noteAt, pendingK anyMem, tbSumK anyMem, wfK anyMem, keep_mk]

@[simp] theorem keep_noteEvent (s : State) (f : Fld) (n : Nat) (i : optParam Nat 0) (j : optParam Nat 0) :
    (State.noteEvent s f n i j).keepOf anyMem = s.keepOf anyMem := by
  simp [State.noteEvent, pendingK anyMem, tbSumK anyMem, wfK anyMem, keep_mk]

@[simp] theorem keep_satAdd (s : State) (f : Fld) (n : Nat) (i : optParam Nat 0) (j : optParam Nat 0) :
    (State.satAdd s f n i j).keepOf anyMem = s.keepOf anyMem := by
  simp [State.satAdd, pendingK anyMem, tbSumK anyMem, wfK anyMem, keep_mk]

@[simp] theorem keep_raise (s : State) (f : Fld) (i : optParam Nat 0) (j : optParam Nat 0) :
    (State.raise s f i j).keepOf anyMem = s.keepOf anyMem := by
  simp [State.raise, pendingK anyMem, tbSumK anyMem, wfK anyMem, keep_mk]

@[simp] theorem keep_store (s : State) (w : Writer) (k : RegKind) (v : Word) (i : optParam Nat 0) (j : optParam Nat 0) :
    (State.store s w k v i j).keepOf anyMem = s.keepOf anyMem := by
  unfold State.store
  (repeat' split) <;> simp [pendingK anyMem, tbSumK anyMem, wfK anyMem, keep_mk]

@[simp] theorem keep_readOut (s : State) (k : RegKind) (i : Nat) (j : Nat) (view : Word) :
    (State.readOut s k i j view).keepOf anyMem = s.keepOf anyMem := by
  simp [State.readOut, pendingK anyMem, tbSumK anyMem, wfK anyMem, keep_mk]

@[simp] theorem keep_roundUp (s : State) :
    (State.roundUp s).2.keepOf anyMem = s.keepOf anyMem := by
  simp [State.roundUp, pendingK anyMem, tbSumK anyMem, wfK anyMem, keep_mk]

@[simp] theorem keep_option (s : State) :
    (State.option s).2.keepOf anyMem = s.keepOf anyMem := by
  simp [State.option, pendingK anyMem, tbSumK anyMem, wfK anyMem, keep_mk]

@[simp] theorem keep_partnerOk (s : State) :
    (State.partnerOk s).2.keepOf anyMem = s.keepOf anyMem := by
  simp [State.partnerOk, pendingK anyMem, tbSumK anyMem, wfK anyMem, keep_mk]

@[simp] theorem keep_guardClockLost (s : State) :
    (State.guardClockLost s).2.keepOf anyMem = s.keepOf anyMem := by
  simp [State.guardClockLost, pendingK anyMem, tbSumK anyMem, wfK anyMem, keep_mk]

@[simp] theorem keep_residence (s : State) :
    (State.residence s).2.keepOf anyMem = s.keepOf anyMem := by
  simp [State.residence, pendingK anyMem, tbSumK anyMem, wfK anyMem, keep_mk]

@[simp] theorem keep_smRequest (s : State) (r : SmReq) :
    (State.smRequest s r).keepOf anyMem = s.keepOf anyMem := by
  simp [State.smRequest, pendingK anyMem, tbSumK anyMem, wfK anyMem, keep_mk]

@[simp] theorem keep_hostReply (s : State) :
    (State.hostReply s).keepOf anyMem = s.keepOf anyMem := by
  simp [State.hostReply, pendingK anyMem, tbSumK anyMem, wfK anyMem, keep_mk]

@[simp] theorem keep_dpReply (s : State) :
    (State.dpReply s).keepOf anyMem = s.keepOf anyMem := by
  simp [State.dpReply, pendingK anyMem, tbSumK anyMem, wfK anyMem, keep_mk]

@[simp] theorem keep_access (s : State) (w : Writer) (f : State → State) (hf : ((f s).keepOf anyMem) = (s.keepOf anyMem)) :
    ((s.access w f).keepOf anyMem) = (s.keepOf anyMem) := by
  unfold State.access
  cases w with
  | thread _ => exact hf
  | debug => simp [hf]
  | boot => by_cases h : s.boot.seald = true <;> simp [h, hf]

@[simp] theorem keep_bootPins (s : State) :
    (State.bootPins s).2.keepOf anyMem = s.keepOf anyMem := by
  simp [State.bootPins, pendingK anyMem, tbSumK anyMem, wfK anyMem, keep_mk]

@[simp] theorem keep_detect (s : State) (cls : BitVec 4) (x2 : Nat) :
    (State.detect s cls x2).keepOf anyMem = s.keepOf anyMem := by
  simp [State.detect, pendingK anyMem, tbSumK anyMem, wfK anyMem, keep_mk]

@[simp] theorem keep_bump (s : State) :
    (State.bump s).keepOf anyMem = s.keepOf anyMem := by
  simp [State.bump, pendingK anyMem, tbSumK anyMem, wfK anyMem, keep_mk]

end Sys2Proof.Machine
end

