-- ==== Sys2Proof/Laws/KeptEvents.lean ====
section
/-!
SUPPORT. What the functions of Machine/Events.lean keep.
-/

namespace Sys2Proof.Machine

set_option linter.unusedSimpArgs false

variable {anyMem : Bool}

@[simp] theorem keep_drivePort (s : State) (p : Port) (out : Bool) (oe : Bool) (c : Nat) :
    (State.drivePort s p out oe c).keepOf anyMem = s.keepOf anyMem := by
  simp [State.drivePort, pendingK anyMem, tbSumK anyMem, wfK anyMem, keep_mk]

@[simp] theorem keep_pulse (s : State) (srcN : Nat) :
    (State.pulse s srcN).keepOf anyMem = s.keepOf anyMem := by
  simp [State.pulse, pendingK anyMem, tbSumK anyMem, wfK anyMem, keep_mk]

@[simp] theorem keep_sendVectors (s : State) :
    (State.sendVectors s).keepOf anyMem = s.keepOf anyMem := by
  simp [State.sendVectors, pendingK anyMem, tbSumK anyMem, wfK anyMem, keep_mk]

@[simp] theorem keep_vector (s : State) (v : Nat) :
    (State.vector s v).keepOf anyMem = s.keepOf anyMem := by
  simp [State.vector, pendingK anyMem, tbSumK anyMem, wfK anyMem, keep_mk]

end Sys2Proof.Machine
end

