-- ==== Sys2Proof/Laws/KeptLaneOps.lean ====
section
/-!
SUPPORT. What the functions of Machine/LaneOps.lean keep.
-/

namespace Sys2Proof.Machine

set_option linter.unusedSimpArgs false

variable {anyMem : Bool}

@[simp] theorem keep_laneSend (s : State) (l : LaneId) (f : Flit) :
    (State.laneSend s l f).keepOf anyMem = s.keepOf anyMem := by
  simp [State.laneSend, pendingK anyMem, tbSumK anyMem, wfK anyMem, keep_mk]

@[simp] theorem keep_linkSend (s : State) (l : LaneId) (f : Flit) :
    (State.linkSend s l f).keepOf anyMem = s.keepOf anyMem := by
  simp [State.linkSend, pendingK anyMem, tbSumK anyMem, wfK anyMem, keep_mk]

@[simp] theorem keep_freePlace (s : State) (p : Option (LaneId × BitVec 2)) :
    (State.freePlace s p).keepOf anyMem = s.keepOf anyMem := by
  unfold State.freePlace
  (repeat' split) <;> simp [pendingK anyMem, tbSumK anyMem, wfK anyMem, keep_mk]

@[simp] theorem keep_mirrorEmit (s : State) (ty : BitVec 4) (h2 : Word) (wmask : BitVec 12) (body : List Word) :
    (State.mirrorEmit s ty h2 wmask body).keepOf anyMem = s.keepOf anyMem := by
  simp [State.mirrorEmit, pendingK anyMem, tbSumK anyMem, wfK anyMem, keep_mk]

@[simp] theorem keep_mirrorWrite (s : State) (g : Nat) (mask : BitVec 4) (v : Word) :
    (State.mirrorWrite s g mask v).keepOf anyMem = s.keepOf anyMem := by
  simp [State.mirrorWrite, pendingK anyMem, tbSumK anyMem, wfK anyMem, keep_mk]

@[simp] theorem keep_mirrorQueue (s : State) (op : Nat) (q : Qid) (owner : BitVec 12) (item : BitVec 64) :
    (State.mirrorQueue s op q owner item).keepOf anyMem = s.keepOf anyMem := by
  simp [State.mirrorQueue, pendingK anyMem, tbSumK anyMem, wfK anyMem, keep_mk]

end Sys2Proof.Machine
end

