-- ==== Sys2Proof/Laws/KeptQueueOps.lean ====
section
/-!
SUPPORT. What the functions of Machine/QueueOps.lean keep.
-/

namespace Sys2Proof.Machine

set_option linter.unusedSimpArgs false

variable {anyMem : Bool}

@[simp] theorem keep_rouse (s : State) (t : Tid) :
    (State.rouse s t).keepOf anyMem = s.keepOf anyMem := by
  simp [State.rouse, pendingK anyMem, tbSumK anyMem, wfK anyMem, keep_mk]

@[simp] theorem keep_domainReachOn (s : State) (d : Nat) :
    (State.domainReachOn s d).keepOf anyMem = s.keepOf anyMem := by
  simp [State.domainReachOn, pendingK anyMem, tbSumK anyMem, wfK anyMem, keep_mk]

@[simp] theorem keep_wakeDomain (s : State) (d : Nat) :
    (State.wakeDomain s d).keepOf anyMem = s.keepOf anyMem := by
  unfold State.wakeDomain
  (repeat' split) <;> simp [pendingK anyMem, tbSumK anyMem, wfK anyMem, keep_mk]

@[simp] theorem keep_atDomain (s : State) (d : Nat) (f : State → State) (h1 : ((f s).keepOf anyMem) = (s.keepOf anyMem))
    (h2 : ((f (s.wakeDomain d)).keepOf anyMem) = (s.keepOf anyMem)) : ((s.atDomain d f).keepOf anyMem) = (s.keepOf anyMem) := by
  unfold State.atDomain; repeat' split
  · exact h1
  · exact h2
  · simp

@[simp] theorem keep_regAtDomain (s : State) (d : Nat) (a : RegAcc) (f : State → State)
    (h1 : (f s).keepOf anyMem = s.keepOf anyMem) (h2 : (f (s.wakeDomain d)).keepOf anyMem = s.keepOf anyMem) :
    (s.regAtDomain d a f).keepOf anyMem = s.keepOf anyMem := by
  have hw : ∀ u : State, ({ u with regWaits := u.regWaits ++ [⟨d, a⟩] } : State).keepOf anyMem = u.keepOf anyMem := fun u => rfl
  unfold State.regAtDomain
  by_cases h : (s.dom d).st = .on
  · simp only [h, if_true]; split
    · exact h1
    · exact hw s
  · simp only [h, if_false]; split
    · exact h2
    · rw [hw]; simp

@[simp] theorem keep_regAtMirror (s : State) (waits : Bool) (w : Writer) (off : Nat) (v : Word) (f : State → State)
    (h1 : (f s).keepOf anyMem = s.keepOf anyMem) : (s.regAtMirror waits w off v f).keepOf anyMem = s.keepOf anyMem := by
  unfold State.regAtMirror; split
  · rfl
  · exact h1

@[simp] theorem keep_wakeThread (s : State) (t : Tid) :
    (State.wakeThread s t).keepOf anyMem = s.keepOf anyMem := by
  unfold State.wakeThread
  dsimp only
  (repeat' split) <;> simp [pendingK anyMem, tbSumK anyMem, wfK anyMem, keep_mk]

@[simp] theorem keep_serveDepth (s : State) (q : Qid) (x2 : Nat) :
    (State.serveDepth s q x2).keepOf anyMem = s.keepOf anyMem := by
  induction x2 generalizing s q with
  | zero => simp [State.serveDepth]
  | succ n ih => simp only [State.serveDepth]; (repeat' split) <;> simp [ih, pendingK anyMem, tbSumK anyMem, wfK anyMem, keep_mk]

@[simp] theorem keep_wakeOver (s : State) (o : BitVec 12) :
    (State.wakeOver s o).keepOf anyMem = s.keepOf anyMem := by
  simp [State.wakeOver, pendingK anyMem, tbSumK anyMem, wfK anyMem, keep_mk]

@[simp] theorem keep_giveSlot (s : State) (k : Quadrant) :
    (State.giveSlot s k).keepOf anyMem = s.keepOf anyMem := by
  unfold State.giveSlot
  dsimp only
  (repeat' split) <;> simp [pendingK anyMem, tbSumK anyMem, wfK anyMem, keep_mk]

@[simp] theorem keep_freeSlot (s : State) (k : Quadrant) (w : QWord) :
    (State.freeSlot s k w).keepOf anyMem = s.keepOf anyMem := by
  simp [State.freeSlot, pendingK anyMem, tbSumK anyMem, wfK anyMem, keep_mk]

@[simp] theorem keep_returnSlot (s : State) (k : Quadrant) (w : QWord) :
    (State.returnSlot s k w).keepOf anyMem = s.keepOf anyMem := by
  simp [State.returnSlot, pendingK anyMem, tbSumK anyMem, wfK anyMem, keep_mk]

@[simp] theorem keep_returnSlots (s : State) :
    (State.returnSlots s).keepOf anyMem = s.keepOf anyMem := by
  simp [State.returnSlots, pendingK anyMem, tbSumK anyMem, wfK anyMem, keep_mk]

@[simp] theorem keep_touchQueue (s : State) (q : Qid) :
    (State.touchQueue s q).keepOf anyMem = s.keepOf anyMem := by
  simp [State.touchQueue, pendingK anyMem, tbSumK anyMem, wfK anyMem, keep_mk]

@[simp] theorem keep_noteFlush (s : State) (q : Qid) :
    (State.noteFlush s q).keepOf anyMem = s.keepOf anyMem := by
  simp [State.noteFlush, pendingK anyMem, tbSumK anyMem, wfK anyMem, keep_mk]

@[simp] theorem keep_noteClose (s : State) (q : Qid) :
    (State.noteClose s q).keepOf anyMem = s.keepOf anyMem := by
  simp [State.noteClose, pendingK anyMem, tbSumK anyMem, wfK anyMem, keep_mk]

@[simp] theorem keep_levelEvent (s : State) (q : Qid) (c : QueueCyc) :
    (State.levelEvent s q c).keepOf anyMem = s.keepOf anyMem := by
  simp [State.levelEvent, pendingK anyMem, tbSumK anyMem, wfK anyMem, keep_mk]

@[simp] theorem keep_notifyReader (s : State) (q : Qid) :
    (State.notifyReader s q).keepOf anyMem = s.keepOf anyMem := by
  unfold State.notifyReader
  (repeat' split) <;> simp [pendingK anyMem, tbSumK anyMem, wfK anyMem, keep_mk]

@[simp] theorem keep_notifyReaders (s : State) (q : Qid) (x2 : Nat) :
    (State.notifyReaders s q x2).keepOf anyMem = s.keepOf anyMem := by
  induction x2 generalizing s q with
  | zero => simp [State.notifyReaders]
  | succ n ih => simp only [State.notifyReaders]; (repeat' split) <;> simp [ih, pendingK anyMem, tbSumK anyMem, wfK anyMem, keep_mk]

@[simp] theorem keep_queueEnd (s : State) (q : Qid) (c : QueueCyc) :
    (State.queueEnd s q c).keepOf anyMem = s.keepOf anyMem := by
  simp [State.queueEnd, pendingK anyMem, tbSumK anyMem, wfK anyMem, keep_mk]

@[simp] theorem keep_endQueues (s : State) : s.endQueues.keepOf anyMem = s.keepOf anyMem := by
  have h : ∀ u : State, (u.qcyc.foldl (fun s kv => match kv.2 with
      | none => s
      | some c => s.queueEnd (BitVec.ofNat 14 kv.1) c) u).keepOf anyMem = u.keepOf anyMem := fun u =>
    keep_foldl _ _ _ fun s kv => by split <;> simp
  unfold State.endQueues
  rw [keep_returnSlots]
  exact h s

@[simp] theorem keep_dropClaim (s : State) (o : BitVec 12) (k : Quadrant) (used : Bool) (n : optParam Nat 0) :
    (State.dropClaim s o k used n).keepOf anyMem = s.keepOf anyMem := by
  unfold State.dropClaim
  (repeat' split) <;> simp [pendingK anyMem, tbSumK anyMem, wfK anyMem, keep_mk]

@[simp] theorem keep_dropClaims (s : State) (o : BitVec 12) :
    (State.dropClaims s o).keepOf anyMem = s.keepOf anyMem := by
  simp [State.dropClaims, pendingK anyMem, tbSumK anyMem, wfK anyMem, keep_mk]

@[simp] theorem keep_takeSlot (s : State) (o : BitVec 12) (k : Quadrant) (a : PoolAns) (n : optParam Nat 0) :
    (State.takeSlot s o k a n).keepOf anyMem = s.keepOf anyMem := by
  unfold State.takeSlot
  (repeat' split) <;> simp [pendingK anyMem, tbSumK anyMem, wfK anyMem, keep_mk]

@[simp] theorem keep_storeWord (s : State) (q : Qid) (w : QWord) :
    (State.storeWord s q w).keepOf anyMem = s.keepOf anyMem := by
  simp [State.storeWord, pendingK anyMem, tbSumK anyMem, wfK anyMem, keep_mk]

@[simp] theorem keep_freeSlagSlot (s : State) (w : QWord) :
    (State.freeSlagSlot s w).keepOf anyMem = s.keepOf anyMem := by
  simp [State.freeSlagSlot, pendingK anyMem, tbSumK anyMem, wfK anyMem, keep_mk]

theorem keep_dropSlagRecord (s t : State) (h : s.dropSlagRecord = some t) : (t.keepOf anyMem) = (s.keepOf anyMem) := by
  unfold State.dropSlagRecord at h; split at h
  · cases h
  · cases h; simp

@[simp] theorem keep_makeSlagRoom (s : State) (n : Nat) : (s.makeSlagRoom n).keepOf anyMem = s.keepOf anyMem := by
  induction n generalizing s with
  | zero => rfl
  | succ n ih =>
    unfold State.makeSlagRoom
    split
    · rfl
    · split
      · rfl
      · rename_i h
        rw [ih, keep_dropSlagRecord _ _ h]


@[simp] theorem keep_claimFree (s : State) (k : Quadrant) (x2 : Nat) :
    (State.claimFree s k x2).keepOf anyMem = s.keepOf anyMem := by
  induction x2 generalizing s k with
  | zero => simp [State.claimFree]
  | succ n ih => simp only [State.claimFree]; (repeat' split) <;> simp [ih, pendingK anyMem, tbSumK anyMem, wfK anyMem, keep_mk]

@[simp] theorem keep_writeSlagRecord (s : State) (w1 : BitVec 64) (w2 : BitVec 64) :
    (State.writeSlagRecord s w1 w2).keepOf anyMem = s.keepOf anyMem := by
  simp [State.writeSlagRecord, pendingK anyMem, tbSumK anyMem, wfK anyMem, keep_mk]

@[simp] theorem keep_slag (s : State) (reason : BitVec 4) (dest : Word) (item : BitVec 64) :
    (State.slag s reason dest item).keepOf anyMem = s.keepOf anyMem := by
  unfold State.slag
  dsimp only
  (repeat' split) <;> simp [pendingK anyMem, tbSumK anyMem, wfK anyMem, keep_mk]

@[simp] theorem keep_slagLocal (s : State) (reason : BitVec 4) (q : Qid) (item : BitVec 64) :
    (State.slagLocal s reason q item).keepOf anyMem = s.keepOf anyMem := by
  simp [State.slagLocal, pendingK anyMem, tbSumK anyMem, wfK anyMem, keep_mk]

@[simp] theorem keep_setHeldNotice (s : State) (h : Holder) (n : Option HeldNotice) :
    (State.setHeldNotice s h n).keepOf anyMem = s.keepOf anyMem := by
  unfold State.setHeldNotice
  (repeat' split) <;> simp [pendingK anyMem, tbSumK anyMem, wfK anyMem, keep_mk]

@[simp] theorem keep_storeHeld (s : State) (q : Qid) (item : BitVec 64) (o : BitVec 12) (floor : Bool) :
    (State.storeHeld s q item o floor).keepOf anyMem = s.keepOf anyMem := by
  unfold State.storeHeld
  (repeat' split) <;> simp [pendingK anyMem, tbSumK anyMem, wfK anyMem, keep_mk]

@[simp] theorem keep_leavePlace (s : State) (x : HeldNotice) :
    (State.leavePlace s x).keepOf anyMem = s.keepOf anyMem := by
  simp [State.leavePlace, pendingK anyMem, tbSumK anyMem, wfK anyMem, keep_mk]

@[simp] theorem keep_takePlace (s : State) (x : HeldNotice) (full : Bool) (slot : Bool) :
    (State.takePlace s x full slot).2.keepOf anyMem = s.keepOf anyMem := by
  simp [State.takePlace, pendingK anyMem, tbSumK anyMem, wfK anyMem, keep_mk]

@[simp] theorem keep_noticeWaits (s : State) (h : Holder) (x : HeldNotice) :
    (State.noticeWaits s h x).keepOf anyMem = s.keepOf anyMem := by
  simp [State.noticeWaits, pendingK anyMem, tbSumK anyMem, wfK anyMem, keep_mk]

@[simp] theorem keep_wakeQuad (s : State) (q : Qid) :
    (State.wakeQuad s q).keepOf anyMem = s.keepOf anyMem := by
  simp [State.wakeQuad, pendingK anyMem, tbSumK anyMem, wfK anyMem, keep_mk]

theorem keep_tryNotice (s t : State) (q : Qid) (item : BitVec 64) (n : Nat) (h : s.tryNotice q item n = some t) :
    (t.keepOf anyMem) = (s.keepOf anyMem) := by
  unfold State.tryNotice at h; dsimp only at h; repeat' split at h
  all_goals first
    | (cases h; done)
    | (cases h; simp)

@[simp] theorem keep_notice (s : State) (h : Holder) (q : Qid) (item : BitVec 64) : ((s.notice h q item).keepOf anyMem) = (s.keepOf anyMem) := by
  unfold State.notice; repeat' split
  all_goals first
    | (simp; done)
    | (rename_i h; rw [keep_tryNotice _ _ _ _ _ h]; simp)

@[simp] theorem keep_staleNotice (s : State) (q : Qid) (o : BitVec 12) :
    (State.staleNotice s q o).keepOf anyMem = s.keepOf anyMem := by
  simp [State.staleNotice, pendingK anyMem, tbSumK anyMem, wfK anyMem, keep_mk]

@[simp] theorem keep_acceptPush (s : State) (q : Qid) (item : BitVec 64) (o : BitVec 12) (a : PoolAns) (n : optParam Nat 0) :
    (State.acceptPush s q item o a n).keepOf anyMem = s.keepOf anyMem := by
  simp [State.acceptPush, pendingK anyMem, tbSumK anyMem, wfK anyMem, keep_mk]

@[simp] theorem keep_holdPush (s : State) (q : Qid) (item : BitVec 64) (o : BitVec 12) (role : Word) :
    (State.holdPush s q item o role).keepOf anyMem = s.keepOf anyMem := by
  simp [State.holdPush, pendingK anyMem, tbSumK anyMem, wfK anyMem, keep_mk]

@[simp] theorem keep_pushItem (s : State) (q : Qid) (item : BitVec 64) (o : BitVec 12) (role : Word) (n : optParam Nat 0) :
    (State.pushItem s q item o role n).2.keepOf anyMem = s.keepOf anyMem := by
  unfold State.pushItem
  dsimp only
  (repeat' split) <;> simp [pendingK anyMem, tbSumK anyMem, wfK anyMem, keep_mk]

@[simp] theorem keep_push (s : State) (q : Qid) (item : BitVec 64) (o : BitVec 12) (role : Word) (n : optParam Nat 0) :
    (State.push s q item o role n).2.keepOf anyMem = s.keepOf anyMem := by
  unfold State.push
  dsimp only
  (repeat' split) <;> simp [pendingK anyMem, tbSumK anyMem, wfK anyMem, keep_mk]

@[simp] theorem keep_pushOrSlag (s : State) (q : Qid) (item : BitVec 64) (o : BitVec 12) (role : Word) :
    (State.pushOrSlag s q item o role).2.keepOf anyMem = s.keepOf anyMem := by
  unfold State.pushOrSlag
  (repeat' split)
  all_goals first
    | (simp [pendingK anyMem, tbSumK anyMem, wfK anyMem, keep_mk]; done)
    | (rename_i hp; have e := congrArg (fun p => p.2.keepOf anyMem) hp; simp at e; simp [← e, pendingK anyMem, tbSumK anyMem, wfK anyMem, keep_mk]; done)
    | (rename_i hp; have e := congrArg (fun p => p.1.keepOf anyMem) hp; simp at e; simp [← e, pendingK anyMem, tbSumK anyMem, wfK anyMem, keep_mk]; done)

@[simp] theorem keep_afterPop (s : State) (q : Qid) (w : QWord) :
    (State.afterPop s q w).keepOf anyMem = s.keepOf anyMem := by
  simp [State.afterPop, pendingK anyMem, tbSumK anyMem, wfK anyMem, keep_mk]

@[simp] theorem keep_popUpTo (s0 : State) (lim : Nat) (q : Qid) (r : Reader) :
    (State.popUpTo s0 lim q r).2.keepOf anyMem = s0.keepOf anyMem := by
  unfold State.popUpTo
  dsimp only
  (repeat' split) <;> simp [pendingK anyMem, tbSumK anyMem, wfK anyMem, keep_mk]

@[simp] theorem keep_popAny (s : State) (q : Qid) (r : Reader) :
    (State.popAny s q r).2.keepOf anyMem = s.keepOf anyMem := by
  unfold State.popAny
  (repeat' split) <;> simp [pendingK anyMem, tbSumK anyMem, wfK anyMem, keep_mk]

@[simp] theorem keep_popItem (s : State) (q : Qid) (r : Reader) :
    (State.popItem s q r).2.keepOf anyMem = s.keepOf anyMem := by
  unfold State.popItem
  (repeat' split) <;> simp [pendingK anyMem, tbSumK anyMem, wfK anyMem, keep_mk]

@[simp] theorem keep_emptyUpTo (s0 : State) (lim : Nat) (q : Qid) :
    (State.emptyUpTo s0 lim q).keepOf anyMem = s0.keepOf anyMem := by
  simp [State.emptyUpTo, pendingK anyMem, tbSumK anyMem, wfK anyMem, keep_mk]

@[simp] theorem keep_flushQueue (s : State) (q : Qid) :
    (State.flushQueue s q).keepOf anyMem = s.keepOf anyMem := by
  simp [State.flushQueue, pendingK anyMem, tbSumK anyMem, wfK anyMem, keep_mk]

@[simp] theorem keep_emptyQueue (s : State) (q : Qid) :
    (State.emptyQueue s q).keepOf anyMem = s.keepOf anyMem := by
  simp [State.emptyQueue, pendingK anyMem, tbSumK anyMem, wfK anyMem, keep_mk]

@[simp] theorem keep_purgeQueue (s0 : State) (q : Qid) (reason : BitVec 4) :
    (State.purgeQueue s0 q reason).keepOf anyMem = s0.keepOf anyMem := by
  simp [State.purgeQueue, pendingK anyMem, tbSumK anyMem, wfK anyMem, keep_mk]

@[simp] theorem keep_dropOpen (s : State) (r : Reader) : (s.dropOpen r).keepOf anyMem = s.keepOf anyMem := by
  refine keep_foldl _ _ _ fun s kv => ?_
  split
  · rfl
  · split
    · rfl
    · have f : ∀ (u : State) (q : Qid) (ws : List QWord),
          (ws.foldl (fun s w => ((s.freeSlot (quadrantOf q) w).slagLocal slagFlushed q w.item).mirrorQueue 1 q w.owner 0) u).keepOf anyMem =
            u.keepOf anyMem := fun u q ws => keep_foldl _ _ _ fun s w => by simp
      dsimp only
      simp [f]

end Sys2Proof.Machine
end

