-- ==== Sys2Proof/Laws/KeptMemOps.lean ====
section
/-!
SUPPORT. What the functions of Machine/MemOps.lean keep.
-/

namespace Sys2Proof.Machine

set_option linter.unusedSimpArgs false

variable {anyMem : Bool}

@[simp] theorem keep_touchBank (s : State) (b : BankId) :
    (State.touchBank s b).keepOf anyMem = s.keepOf anyMem := by
  unfold State.touchBank
  dsimp only
  (repeat' split) <;> simp [pendingK anyMem, tbSumK anyMem, wfK anyMem, keep_mk]

@[simp] theorem keep_bankGrant (s : State) (b : BankId) (m : Master) (r : BankReq) :
    (State.bankGrant s b m r).keepOf anyMem = s.keepOf anyMem := by
  simp [State.bankGrant, pendingK anyMem, tbSumK anyMem, wfK anyMem, keep_mk]

@[simp] theorem keep_bankWaits (s : State) (b : BankId) (m : Master) (r : BankReq) :
    (State.bankWaits s b m r).keepOf anyMem = s.keepOf anyMem := by
  simp [State.bankWaits, pendingK anyMem, tbSumK anyMem, wfK anyMem, keep_mk]

@[simp] theorem keep_bankLeaves (s : State) (b : BankId) (r : BankReq) :
    (State.bankLeaves s b r).keepOf anyMem = s.keepOf anyMem := by
  simp [State.bankLeaves, pendingK anyMem, tbSumK anyMem, wfK anyMem, keep_mk]

@[simp] theorem keep_countRefusal (s : State) (b : BankId) (m : Master) :
    (State.countRefusal s b m).keepOf anyMem = s.keepOf anyMem := by
  simp [State.countRefusal, pendingK anyMem, tbSumK anyMem, wfK anyMem, keep_mk]

@[simp] theorem keep_bankRefuses (s : State) (b : BankId) (m : Master) (r : BankReq) :
    (State.bankRefuses s b m r).keepOf anyMem = s.keepOf anyMem := by
  simp [State.bankRefuses, pendingK anyMem, tbSumK anyMem, wfK anyMem, keep_mk]

@[simp] theorem keep_clearBank (s : State) (b : BankId) (h : (s.keepOf anyMem).2.2 = true) :
    ((s.clearBank b).keepOf anyMem) = (s.keepOf anyMem) :=
  keep_mem s _ (wf_clearRange s.mem _ _) h

@[simp] theorem keep_wordMet (s : State) (g : Nat) :
    (State.wordMet s g).keepOf anyMem = s.keepOf anyMem := by
  simp [State.wordMet, pendingK anyMem, tbSumK anyMem, wfK anyMem, keep_mk]

@[simp] theorem keep_performWrite (s : State) (g : Nat) (mask : BitVec 4) (v : Word) (h : (s.keepOf anyMem).2.2 = true) :
    ((s.performWrite g mask v).keepOf anyMem) = (s.keepOf anyMem) := by
  unfold State.performWrite
  refine Eq.trans ?_ (keep_mem s _ (wf_memSetMasked s.mem g mask v) h)
  simp [keep_mk]

@[simp] theorem keep_writeMirrored (s : State) (g : Nat) (mask : BitVec 4) (v : Word) (h : (s.keepOf anyMem).2.2 = true) :
    (State.writeMirrored s g mask v).keepOf anyMem = s.keepOf anyMem := by
  simp [State.writeMirrored, pendingK anyMem, tbSumK anyMem, wfK anyMem, keep_mk, h, Prod.ext_iff]

@[simp] theorem keep_bankWord (s : State) (b : BankId) (m : Master) (r : BankReq) (h : (s.keepOf anyMem).2.2 = true) :
    (State.bankWord s b m r).keepOf anyMem = s.keepOf anyMem := by
  unfold State.bankWord
  (repeat' split) <;> simp [pendingK anyMem, tbSumK anyMem, wfK anyMem, keep_mk, h, Prod.ext_iff]

@[simp] theorem keep_writeWordAs (s : State) (m : Master) (g : Nat) (mask : BitVec 4) (v : Word) (h : (s.keepOf anyMem).2.2 = true) :
    (State.writeWordAs s m g mask v).keepOf anyMem = s.keepOf anyMem := by
  unfold State.writeWordAs
  (repeat' split) <;> simp [pendingK anyMem, tbSumK anyMem, wfK anyMem, keep_mk, h, Prod.ext_iff]

@[simp] theorem keep_enterStore (s : State) (t : Tid) (addr : Nat) (mask : BitVec 4) (v : Word) (pc : BitVec 16) (dev : Bool) (late : Bool) (phys : Nat) (tag : SmTag) :
    (State.enterStore s t addr mask v pc dev late phys tag).keepOf anyMem = s.keepOf anyMem := by
  simp [State.enterStore, pendingK anyMem, tbSumK anyMem, wfK anyMem, keep_mk]

@[simp] theorem keep_dropRunAhead (s : State) (c : CoreId) (addr : Nat) :
    (State.dropRunAhead s c addr).keepOf anyMem = s.keepOf anyMem := by
  simp [State.dropRunAhead, pendingK anyMem, tbSumK anyMem, wfK anyMem, keep_mk]

@[simp] theorem keep_flushWord (s : State) (c : CoreId) (a : Nat) (h : (s.keepOf anyMem).2.2 = true) :
    ((State.flushWord s c a).keepOf anyMem) = (s.keepOf anyMem) := by
  unfold State.flushWord
  dsimp only
  rw [keep_foldl_wf _ _ _ (by simp [h]) (fun s x hx => by simp [hx])]
  simp

@[simp] theorem keep_threadFault (s : State) (t : Tid) (code : Byte) :
    (State.threadFault s t code).keepOf anyMem = s.keepOf anyMem := by
  unfold State.threadFault
  dsimp only
  (repeat' split) <;> simp [pendingK anyMem, tbSumK anyMem, wfK anyMem, keep_mk]

@[simp] theorem keep_faultNotice (s : State) (t : Tid) (code : Byte) (npc : BitVec 16) :
    (State.faultNotice s t code npc).keepOf anyMem = s.keepOf anyMem := by
  unfold State.faultNotice
  (repeat' split) <;> simp [pendingK anyMem, tbSumK anyMem, wfK anyMem, keep_mk]

@[simp] theorem keep_faultAtRest (s : State) (t : Tid) (code : Byte) (npc : BitVec 16) :
    (State.faultAtRest s t code npc).keepOf anyMem = s.keepOf anyMem := by
  simp [State.faultAtRest, pendingK anyMem, tbSumK anyMem, wfK anyMem, keep_mk]

@[simp] theorem keep_lateFault (s : State) (t : Tid) (code : Byte) (npc : BitVec 16) (seq : Nat) :
    (State.lateFault s t code npc seq).keepOf anyMem = s.keepOf anyMem := by
  unfold State.lateFault
  dsimp only
  (repeat' split) <;> simp [pendingK anyMem, tbSumK anyMem, wfK anyMem, keep_mk]

@[simp] theorem keep_authorityFault (s : State) (w : Writer) :
    (State.authorityFault s w).keepOf anyMem = s.keepOf anyMem := by
  unfold State.authorityFault
  (repeat' split) <;> simp [pendingK anyMem, tbSumK anyMem, wfK anyMem, keep_mk]

end Sys2Proof.Machine
end

