-- ==== Sys2Proof/Laws/KeptTimeOps.lean ====
section
/-!
SUPPORT. What the functions of Machine/TimeOps.lean keep.
-/

namespace Sys2Proof.Machine

set_option linter.unusedSimpArgs false

variable {anyMem : Bool}

@[simp] theorem keep_baseWord (s : State) (n : BaseId) :
    (State.baseWord s n).2.keepOf anyMem = s.keepOf anyMem := by
  unfold State.baseWord
  dsimp only
  (repeat' split) <;> simp [pendingK anyMem, tbSumK anyMem, wfK anyMem, keep_mk]

@[simp] theorem keep_reanchor (s : State) (n : BaseId) :
    (State.reanchor s n).keepOf anyMem = s.keepOf anyMem := by
  unfold State.reanchor
  dsimp only
  (repeat' split) <;> simp [pendingK anyMem, tbSumK anyMem, wfK anyMem, keep_mk]

end Sys2Proof.Machine
end

