-- ==== Sys2Proof/Laws/KeptPinOps.lean ====
section
/-!
SUPPORT. What the functions of Machine/PinOps.lean keep.
-/

namespace Sys2Proof.Machine

set_option linter.unusedSimpArgs false

variable {anyMem : Bool}

@[simp] theorem keep_setChReg (s : State) (k : RegKind) (v : Word) (ch : Chan) :
    (State.setChReg s k v ch).keepOf anyMem = s.keepOf anyMem := by
  simp [State.setChReg, pendingK anyMem, tbSumK anyMem, wfK anyMem, keep_mk]

@[simp] theorem keep_setChFld (s : State) (f : Fld) (v : Nat) (ch : Chan) :
    (State.setChFld s f v ch).keepOf anyMem = s.keepOf anyMem := by
  simp [State.setChFld, pendingK anyMem, tbSumK anyMem, wfK anyMem, keep_mk]

@[simp] theorem keep_chSatAdd (s : State) (f : Fld) (n : Nat) (ch : Chan) :
    (State.chSatAdd s f n ch).keepOf anyMem = s.keepOf anyMem := by
  simp [State.chSatAdd, pendingK anyMem, tbSumK anyMem, wfK anyMem, keep_mk]

@[simp] theorem keep_rebind (s : State) (p : Port) :
    (State.rebind s p).keepOf anyMem = s.keepOf anyMem := by
  unfold State.rebind
  (repeat' split) <;> simp [pendingK anyMem, tbSumK anyMem, wfK anyMem, keep_mk]

@[simp] theorem keep_bindLanes (s : State) (ch : Chan) (v : Word) :
    (State.bindLanes s ch v).keepOf anyMem = s.keepOf anyMem := by
  simp [State.bindLanes, pendingK anyMem, tbSumK anyMem, wfK anyMem, keep_mk]

@[simp] theorem keep_portWrite (s : State) (p : Port) (rank : Nat) (out : Bool) (oe : Bool) (c : Nat) :
    (State.portWrite s p rank out oe c).keepOf anyMem = s.keepOf anyMem := by
  simp [State.portWrite, pendingK anyMem, tbSumK anyMem, wfK anyMem, keep_mk]

@[simp] theorem keep_displaced (s : State) (p : Port) (v : Bool × Bool) :
    (State.displaced s p v).keepOf anyMem = s.keepOf anyMem := by
  unfold State.displaced
  (repeat' split) <;> simp [pendingK anyMem, tbSumK anyMem, wfK anyMem, keep_mk]

@[simp] theorem keep_safePort (s : State) (p : Port) (c : Nat) :
    (State.safePort s p c).keepOf anyMem = s.keepOf anyMem := by
  unfold State.safePort
  dsimp only
  (repeat' split) <;> simp [pendingK anyMem, tbSumK anyMem, wfK anyMem, keep_mk]

@[simp] theorem keep_writeLane (s : State) (ch : Chan) (lane : Nat) (rank : Nat) (out : Bool) (oe : Bool) (c : Nat) :
    (State.writeLane s ch lane rank out oe c).keepOf anyMem = s.keepOf anyMem := by
  unfold State.writeLane
  (repeat' split) <;> simp [pendingK anyMem, tbSumK anyMem, wfK anyMem, keep_mk]

@[simp] theorem keep_dropWaiter (s : State) (o : BitVec 12) :
    (State.dropWaiter s o).keepOf anyMem = s.keepOf anyMem := by
  simp [State.dropWaiter, pendingK anyMem, tbSumK anyMem, wfK anyMem, keep_mk]

@[simp] theorem keep_report (s : State) (ch : Chan) (code : Byte) (reason : Byte) :
    (State.report s ch code reason).keepOf anyMem = s.keepOf anyMem := by
  simp [State.report, pendingK anyMem, tbSumK anyMem, wfK anyMem, keep_mk]

@[simp] theorem keep_enterSafe (s : State) (ch : Chan) (st : ChState) :
    (State.enterSafe s ch st).keepOf anyMem = s.keepOf anyMem := by
  simp [State.enterSafe, pendingK anyMem, tbSumK anyMem, wfK anyMem, keep_mk]

@[simp] theorem keep_chFault (s : State) (ch : Chan) (code : Byte) :
    (State.chFault s ch code).keepOf anyMem = s.keepOf anyMem := by
  simp [State.chFault, pendingK anyMem, tbSumK anyMem, wfK anyMem, keep_mk]

@[simp] theorem keep_fencePort (s : State) (p : Port) (cause : Nat) :
    (State.fencePort s p cause).keepOf anyMem = s.keepOf anyMem := by
  unfold State.fencePort
  dsimp only
  (repeat' split) <;> simp [pendingK anyMem, tbSumK anyMem, wfK anyMem, keep_mk]

@[simp] theorem keep_chNext (s : State) (ch : Chan) :
    (State.chNext s ch).keepOf anyMem = s.keepOf anyMem := by
  unfold State.chNext
  (repeat' split) <;> simp [pendingK anyMem, tbSumK anyMem, wfK anyMem, keep_mk]

@[simp] theorem keep_chBranch (s : State) (ch : Chan) (target : BitVec 10) :
    (State.chBranch s ch target).keepOf anyMem = s.keepOf anyMem := by
  simp [State.chBranch, pendingK anyMem, tbSumK anyMem, wfK anyMem, keep_mk]

@[simp] theorem keep_chWait (s : State) (ch : Chan) (st : ChState) :
    (State.chWait s ch st).keepOf anyMem = s.keepOf anyMem := by
  simp [State.chWait, pendingK anyMem, tbSumK anyMem, wfK anyMem, keep_mk]

@[simp] theorem keep_crcFeed (s : State) (p : Port) (bit : Bool) :
    (State.crcFeed s p bit).keepOf anyMem = s.keepOf anyMem := by
  simp [State.crcFeed, pendingK anyMem, tbSumK anyMem, wfK anyMem, keep_mk]

@[simp] theorem keep_waitFor (s : State) (q : Qid) (o : BitVec 12) (a : PushAns) :
    (State.waitFor s q o a).keepOf anyMem = s.keepOf anyMem := by
  unfold State.waitFor
  (repeat' split) <;> simp [pendingK anyMem, tbSumK anyMem, wfK anyMem, keep_mk]

@[simp] theorem keep_chPushDone (s : State) (ch : Chan) :
    (State.chPushDone s ch).keepOf anyMem = s.keepOf anyMem := by
  simp [State.chPushDone, pendingK anyMem, tbSumK anyMem, wfK anyMem, keep_mk]

@[simp] theorem keep_drainHolder (s : State) (ch : Chan) (x2 : Nat) :
    (State.drainHolder s ch x2).keepOf anyMem = s.keepOf anyMem := by
  induction x2 generalizing s ch with
  | zero => simp [State.drainHolder]
  | succ n ih => simp only [State.drainHolder]; (repeat' split) <;> simp [ih, pendingK anyMem, tbSumK anyMem, wfK anyMem, keep_mk]

@[simp] theorem keep_retryHolder (s : State) (ch : Chan) :
    (State.retryHolder s ch).keepOf anyMem = s.keepOf anyMem := by
  simp [State.retryHolder, pendingK anyMem, tbSumK anyMem, wfK anyMem, keep_mk]

@[simp] theorem keep_holderPush (s : State) (ch : Chan) (q : Qid) (item : BitVec 64) :
    (State.holderPush s ch q item).keepOf anyMem = s.keepOf anyMem := by
  simp [State.holderPush, pendingK anyMem, tbSumK anyMem, wfK anyMem, keep_mk]

end Sys2Proof.Machine
end

