-- ==== Sys2Proof/Laws/KeptStageOps.lean ====
section
/-!
SUPPORT. What the functions of Machine/StageOps.lean keep.
-/

namespace Sys2Proof.Machine

set_option linter.unusedSimpArgs false

variable {anyMem : Bool}

@[simp] theorem keep_actionNotice (s : State) (a : Action) (kind : BitVec 4) :
    (State.actionNotice s a kind).keepOf anyMem = s.keepOf anyMem := by
  simp [State.actionNotice, pendingK anyMem, tbSumK anyMem, wfK anyMem, keep_mk]

@[simp] theorem keep_countLate (s : State) (a : Action) :
    (State.countLate s a).keepOf anyMem = s.keepOf anyMem := by
  simp [State.countLate, pendingK anyMem, tbSumK anyMem, wfK anyMem, keep_mk]

@[simp] theorem keep_countDrop (s : State) (a : Action) :
    (State.countDrop s a).keepOf anyMem = s.keepOf anyMem := by
  simp [State.countDrop, pendingK anyMem, tbSumK anyMem, wfK anyMem, keep_mk]

@[simp] theorem keep_enqueue (s : State) (x : Staged) :
    (State.enqueue s x).keepOf anyMem = s.keepOf anyMem := by
  unfold State.enqueue
  dsimp only
  (repeat' split) <;> simp [pendingK anyMem, tbSumK anyMem, wfK anyMem, keep_mk]

@[simp] theorem keep_toPend (s : State) (a : Action) :
    (State.toPend s a).2.keepOf anyMem = s.keepOf anyMem := by
  unfold State.toPend
  (repeat' split) <;> simp [pendingK anyMem, tbSumK anyMem, wfK anyMem, keep_mk]

@[simp] theorem keep_enter (s : State) (x : Staged) (lag : Nat) :
    (State.enter s x lag).keepOf anyMem = s.keepOf anyMem := by
  simp [State.enter, pendingK anyMem, tbSumK anyMem, wfK anyMem, keep_mk]

@[simp] theorem keep_stageAt (s : State) (a : Action) (d : Nat) (late : Bool) (lag : Nat) :
    (State.stageAt s a d late lag).keepOf anyMem = s.keepOf anyMem := by
  simp [State.stageAt, pendingK anyMem, tbSumK anyMem, wfK anyMem, keep_mk]

@[simp] theorem keep_placeAhead (s : State) (a : Action) (lag : Nat) :
    (State.placeAhead s a lag).2.keepOf anyMem = s.keepOf anyMem := by
  unfold State.placeAhead
  (repeat' split) <;> simp [pendingK anyMem, tbSumK anyMem, wfK anyMem, keep_mk]

@[simp] theorem keep_place (s : State) (a : Action) (lag : Nat) :
    (State.place s a lag).2.keepOf anyMem = s.keepOf anyMem := by
  unfold State.place
  dsimp only
  (repeat' split) <;> simp [pendingK anyMem, tbSumK anyMem, wfK anyMem, keep_mk]

@[simp] theorem keep_lateEnd (s : State) (a : Action) :
    (State.lateEnd s a).keepOf anyMem = s.keepOf anyMem := by
  simp [State.lateEnd, pendingK anyMem, tbSumK anyMem, wfK anyMem, keep_mk]

@[simp] theorem keep_markEmit (s : State) (a : Action) :
    (State.markEmit s a).keepOf anyMem = s.keepOf anyMem := by
  simp [State.markEmit, pendingK anyMem, tbSumK anyMem, wfK anyMem, keep_mk]

@[simp] theorem keep_perform (s0 : State) (x : Staged) :
    (State.perform s0 x).keepOf anyMem = s0.keepOf anyMem := by
  unfold State.perform
  dsimp only
  (repeat' split) <;> simp [pendingK anyMem, tbSumK anyMem, wfK anyMem, keep_mk]

@[simp] theorem keep_unstage (s : State) (x : Staged) :
    (State.unstage s x).keepOf anyMem = s.keepOf anyMem := by
  simp [State.unstage, pendingK anyMem, tbSumK anyMem, wfK anyMem, keep_mk]

@[simp] theorem keep_unstagePair (s : State) (x : Staged) :
    (State.unstagePair s x).keepOf anyMem = s.keepOf anyMem := by
  simp [State.unstagePair, pendingK anyMem, tbSumK anyMem, wfK anyMem, keep_mk]

@[simp] theorem keep_runPins (s : State) (ch : Chan) (x2 : List Staged) :
    (State.runPins s ch x2).keepOf anyMem = s.keepOf anyMem := by
  induction x2 generalizing s ch with
  | nil => simp [State.runPins]
  | cons y r ih => simp only [State.runPins]; (repeat' split) <;> simp [ih, pendingK anyMem, tbSumK anyMem, wfK anyMem, keep_mk]

@[simp] theorem keep_runDue (s : State) (ch : Chan) :
    (State.runDue s ch).keepOf anyMem = s.keepOf anyMem := by
  unfold State.runDue
  dsimp only
  (repeat' split) <;> simp [pendingK anyMem, tbSumK anyMem, wfK anyMem, keep_mk]

@[simp] theorem keep_expireVotes (s : State) (ch : Chan) :
    (State.expireVotes s ch).keepOf anyMem = s.keepOf anyMem := by
  simp [State.expireVotes, pendingK anyMem, tbSumK anyMem, wfK anyMem, keep_mk]

@[simp] theorem keep_revalidate (s : State) (x : Staged) :
    (State.revalidate s x).keepOf anyMem = s.keepOf anyMem := by
  unfold State.revalidate
  dsimp only
  (repeat' split) <;> simp [pendingK anyMem, tbSumK anyMem, wfK anyMem, keep_mk]

@[simp] theorem keep_passPend (s : State) (a : Action) :
    (State.passPend s a).keepOf anyMem = s.keepOf anyMem := by
  simp [State.passPend, pendingK anyMem, tbSumK anyMem, wfK anyMem, keep_mk]

@[simp] theorem keep_pass (s : State) :
    (State.pass s).keepOf anyMem = s.keepOf anyMem := by
  simp [State.pass, pendingK anyMem, tbSumK anyMem, wfK anyMem, keep_mk]

@[simp] theorem keep_applyQuench (s : State) (n : BaseId) (g : Nat) (gen : Byte) :
    (State.applyQuench s n g gen).keepOf anyMem = s.keepOf anyMem := by
  simp [State.applyQuench, pendingK anyMem, tbSumK anyMem, wfK anyMem, keep_mk]

@[simp] theorem keep_quench (s : State) (n : BaseId) :
    (State.quench s n).keepOf anyMem = s.keepOf anyMem := by
  unfold State.quench
  (repeat' split) <;> simp [pendingK anyMem, tbSumK anyMem, wfK anyMem, keep_mk]

@[simp] theorem keep_recomputeEnd (s : State) (x : Staged) :
    (State.recomputeEnd s x).keepOf anyMem = s.keepOf anyMem := by
  unfold State.recomputeEnd
  dsimp only
  (repeat' split) <;> simp [pendingK anyMem, tbSumK anyMem, wfK anyMem, keep_mk]

@[simp] theorem keep_arrive (s : State) (r : Arrival) :
    (State.arrive s r).keepOf anyMem = s.keepOf anyMem := by
  unfold State.arrive
  (repeat' split) <;> simp [pendingK anyMem, tbSumK anyMem, wfK anyMem, keep_mk]

@[simp] theorem keep_arriveAll (s : State) :
    (State.arriveAll s).keepOf anyMem = s.keepOf anyMem := by
  simp [State.arriveAll, pendingK anyMem, tbSumK anyMem, wfK anyMem, keep_mk]

@[simp] theorem keep_recompute1 (s : State) (n : BaseId) (x : Staged) :
    (State.recompute1 s n x).keepOf anyMem = s.keepOf anyMem := by
  simp [State.recompute1, pendingK anyMem, tbSumK anyMem, wfK anyMem, keep_mk]

@[simp] theorem keep_recompute (s : State) (n : BaseId) :
    (State.recompute s n).keepOf anyMem = s.keepOf anyMem := by
  simp [State.recompute, pendingK anyMem, tbSumK anyMem, wfK anyMem, keep_mk]

@[simp] theorem keep_newGeneration (s : State) (n : BaseId) :
    (State.newGeneration s n).keepOf anyMem = s.keepOf anyMem := by
  simp [State.newGeneration, pendingK anyMem, tbSumK anyMem, wfK anyMem, keep_mk]

end Sys2Proof.Machine
end

