-- ==== Sys2Proof/Laws/KeptPinControl.lean ====
section
/-!
SUPPORT. What the functions of Machine/PinControl.lean keep.
-/

namespace Sys2Proof.Machine

set_option linter.unusedSimpArgs false

variable {anyMem : Bool}

@[simp] theorem keep_wrCst (s : State) (w : Writer) (e : EngineId) (wi : Nat) (v : Word) :
    (State.wrCst s w e wi v).keepOf anyMem = s.keepOf anyMem := by
  unfold State.wrCst
  (repeat' split) <;> simp [pendingK anyMem, tbSumK anyMem, wfK anyMem, keep_mk]

@[simp] theorem keep_wrEctl (s : State) (w : Writer) (e : EngineId) (v : Word) :
    (State.wrEctl s w e v).keepOf anyMem = s.keepOf anyMem := by
  simp [State.wrEctl, pendingK anyMem, tbSumK anyMem, wfK anyMem, keep_mk]

@[simp] theorem keep_snapSlots (s : State) (e : EngineId) :
    (State.snapSlots s e).keepOf anyMem = s.keepOf anyMem := by
  unfold State.snapSlots
  dsimp only
  (repeat' split) <;> simp [pendingK anyMem, tbSumK anyMem, wfK anyMem, keep_mk]

@[simp] theorem keep_copySlots (s : State) (e : EngineId) :
    (State.copySlots s e).keepOf anyMem = s.keepOf anyMem := by
  unfold State.copySlots
  dsimp only
  (repeat' split) <;> simp [pendingK anyMem, tbSumK anyMem, wfK anyMem, keep_mk]

@[simp] theorem keep_execCstWrite (w : Writer) (e : EngineId) (wi : BitVec 2) (v : Word) (s : State) :
    outKeep anyMem (execCstWrite w e wi v s) = some (s.keepOf anyMem) := by
  simp [execCstWrite, pendingK anyMem, tbSumK anyMem, wfK anyMem, keep_mk]

@[simp] theorem keep_execEctlCommit (w : Writer) (e : EngineId) (s : State) :
    outKeep anyMem (execEctlCommit w e s) = some (s.keepOf anyMem) := by
  simp [execEctlCommit, pendingK anyMem, tbSumK anyMem, wfK anyMem, keep_mk]

@[simp] theorem keep_execChannelTableCopy (e : EngineId) (s : State) :
    outKeep anyMem (execChannelTableCopy e s) = some (s.keepOf anyMem) := by
  simp [execChannelTableCopy, pendingK anyMem, tbSumK anyMem, wfK anyMem, keep_mk]

@[simp] theorem keep_chIgnored (s : State) (ch : Chan) :
    (State.chIgnored s ch).keepOf anyMem = s.keepOf anyMem := by
  simp [State.chIgnored, pendingK anyMem, tbSumK anyMem, wfK anyMem, keep_mk]

@[simp] theorem keep_engineBack (s : State) (ch : Chan) :
    (State.engineBack s ch).keepOf anyMem = s.keepOf anyMem := by
  simp [State.engineBack, pendingK anyMem, tbSumK anyMem, wfK anyMem, keep_mk]

@[simp] theorem keep_chStart (s : State) (ch : Chan) :
    (State.chStart s ch).keepOf anyMem = s.keepOf anyMem := by
  simp [State.chStart, pendingK anyMem, tbSumK anyMem, wfK anyMem, keep_mk]

@[simp] theorem keep_chStop (s : State) (ch : Chan) :
    (State.chStop s ch).keepOf anyMem = s.keepOf anyMem := by
  simp [State.chStop, pendingK anyMem, tbSumK anyMem, wfK anyMem, keep_mk]

@[simp] theorem keep_chSafe (s : State) (ch : Chan) :
    (State.chSafe s ch).keepOf anyMem = s.keepOf anyMem := by
  simp [State.chSafe, pendingK anyMem, tbSumK anyMem, wfK anyMem, keep_mk]

@[simp] theorem keep_chUnlatch (s : State) (ch : Chan) :
    (State.chUnlatch s ch).keepOf anyMem = s.keepOf anyMem := by
  simp [State.chUnlatch, pendingK anyMem, tbSumK anyMem, wfK anyMem, keep_mk]

@[simp] theorem keep_wrCctl (s : State) (w : Writer) (ch : Chan) (v : Word) :
    (State.wrCctl s w ch v).keepOf anyMem = s.keepOf anyMem := by
  unfold State.wrCctl
  (repeat' split) <;> simp [pendingK anyMem, tbSumK anyMem, wfK anyMem, keep_mk]

@[simp] theorem keep_execStart (w : Writer) (ch : Chan) (s : State) :
    outKeep anyMem (execStart w ch s) = some (s.keepOf anyMem) := by
  simp [execStart, pendingK anyMem, tbSumK anyMem, wfK anyMem, keep_mk]

@[simp] theorem keep_execStop (w : Writer) (ch : Chan) (s : State) :
    outKeep anyMem (execStop w ch s) = some (s.keepOf anyMem) := by
  simp [execStop, pendingK anyMem, tbSumK anyMem, wfK anyMem, keep_mk]

@[simp] theorem keep_execSafe (w : Writer) (ch : Chan) (s : State) :
    outKeep anyMem (execSafe w ch s) = some (s.keepOf anyMem) := by
  simp [execSafe, pendingK anyMem, tbSumK anyMem, wfK anyMem, keep_mk]

@[simp] theorem keep_execUnlatch (w : Writer) (ch : Chan) (s : State) :
    outKeep anyMem (execUnlatch w ch s) = some (s.keepOf anyMem) := by
  simp [execUnlatch, pendingK anyMem, tbSumK anyMem, wfK anyMem, keep_mk]

@[simp] theorem keep_wrPmdata (s : State) (w : Writer) (e : EngineId) (v : Word) :
    (State.wrPmdata s w e v).keepOf anyMem = s.keepOf anyMem := by
  simp [State.wrPmdata, pendingK anyMem, tbSumK anyMem, wfK anyMem, keep_mk]

@[simp] theorem keep_execPmdataWrite (w : Writer) (e : EngineId) (v : Word) (s : State) :
    outKeep anyMem (execPmdataWrite w e v s) = some (s.keepOf anyMem) := by
  simp [execPmdataWrite, pendingK anyMem, tbSumK anyMem, wfK anyMem, keep_mk]

@[simp] theorem keep_readStored (s : State) (k : RegKind) (i : Nat) (j : Nat) :
    (State.readStored s k i j).keepOf anyMem = s.keepOf anyMem := by
  simp [State.readStored, pendingK anyMem, tbSumK anyMem, wfK anyMem, keep_mk]

@[simp] theorem keep_execEstatRead (e : EngineId) (s : State) :
    outKeep anyMem (execEstatRead e s) = some (s.keepOf anyMem) := by
  simp [execEstatRead, pendingK anyMem, tbSumK anyMem, wfK anyMem, keep_mk]

@[simp] theorem keep_execCerrRead (ch : Chan) (s : State) :
    outKeep anyMem (execCerrRead ch s) = some (s.keepOf anyMem) := by
  simp [execCerrRead, pendingK anyMem, tbSumK anyMem, wfK anyMem, keep_mk]

@[simp] theorem keep_bitEnable (s : State) (ch : Chan) (en : Bool) :
    (State.bitEnable s ch en).keepOf anyMem = s.keepOf anyMem := by
  simp [State.bitEnable, pendingK anyMem, tbSumK anyMem, wfK anyMem, keep_mk]

@[simp] theorem keep_wrBit (s : State) (w : Writer) (k : RegKind) (ch : Chan) (v : Word) :
    (State.wrBit s w k ch v).keepOf anyMem = s.keepOf anyMem := by
  simp [State.wrBit, pendingK anyMem, tbSumK anyMem, wfK anyMem, keep_mk]

@[simp] theorem keep_wrChannel (s : State) (w : Writer) (k : RegKind) (ch : Chan) (v : Word) :
    (State.wrChannel s w k ch v).keepOf anyMem = s.keepOf anyMem := by
  unfold State.wrChannel
  (repeat' split) <;> simp [pendingK anyMem, tbSumK anyMem, wfK anyMem, keep_mk]

@[simp] theorem keep_wrFence (s : State) (w : Writer) (p : Port) (v : Word) :
    (State.wrFence s w p v).keepOf anyMem = s.keepOf anyMem := by
  simp [State.wrFence, pendingK anyMem, tbSumK anyMem, wfK anyMem, keep_mk]

@[simp] theorem keep_crcHold (s : State) (p : Port) :
    (State.crcHold s p).keepOf anyMem = s.keepOf anyMem := by
  simp [State.crcHold, pendingK anyMem, tbSumK anyMem, wfK anyMem, keep_mk]

@[simp] theorem keep_refreshPort (s : State) (p : Port) :
    (State.refreshPort s p).keepOf anyMem = s.keepOf anyMem := by
  simp [State.refreshPort, pendingK anyMem, tbSumK anyMem, wfK anyMem, keep_mk]

@[simp] theorem keep_wrPort (s : State) (w : Writer) (k : RegKind) (p : Port) (v : Word) :
    (State.wrPort s w k p v).keepOf anyMem = s.keepOf anyMem := by
  unfold State.wrPort
  (repeat' split) <;> simp [pendingK anyMem, tbSumK anyMem, wfK anyMem, keep_mk]

@[simp] theorem keep_execPortFenceSet (w : Writer) (p : Port) (s : State) :
    outKeep anyMem (execPortFenceSet w p s) = some (s.keepOf anyMem) := by
  simp [execPortFenceSet, pendingK anyMem, tbSumK anyMem, wfK anyMem, keep_mk]

@[simp] theorem keep_execPortFenceClear (w : Writer) (p : Port) (s : State) :
    outKeep anyMem (execPortFenceClear w p s) = some (s.keepOf anyMem) := by
  simp [execPortFenceClear, pendingK anyMem, tbSumK anyMem, wfK anyMem, keep_mk]

@[simp] theorem keep_execSafeWhenDry (ch : Chan) (s : State) :
    outKeep anyMem (execSafeWhenDry ch s) = some (s.keepOf anyMem) := by
  simp [execSafeWhenDry, pendingK anyMem, tbSumK anyMem, wfK anyMem, keep_mk]

end Sys2Proof.Machine
end

