-- ==== Sys2Proof/Laws/KeptPinProgram.lean ====
section
/-!
SUPPORT. What the functions of Machine/PinProgram.lean keep.
-/

namespace Sys2Proof.Machine

set_option linter.unusedSimpArgs false

variable {anyMem : Bool}

@[simp] theorem keep_pin (s : State) (ch : Chan) (f : State → State) (hf : ((f s).keepOf anyMem) = (s.keepOf anyMem)) :
    ((s.pin ch f).keepOf anyMem) = (s.keepOf anyMem) := by
  unfold State.pin; split
  · exact hf
  · rfl

@[simp] theorem keep_pinSet (s : State) (ch : Chan) (dd : BitVec 3) (v : Word) :
    (State.pinSet s ch dd v).keepOf anyMem = s.keepOf anyMem := by
  simp [State.pinSet, pendingK anyMem, tbSumK anyMem, wfK anyMem, keep_mk]

@[simp] theorem keep_pinSetZ (s : State) (ch : Chan) (dd : BitVec 3) (v : Word) (z : Bool) :
    (State.pinSetZ s ch dd v z).keepOf anyMem = s.keepOf anyMem := by
  simp [State.pinSetZ, pendingK anyMem, tbSumK anyMem, wfK anyMem, keep_mk]

@[simp] theorem keep_pinSetZC (s : State) (ch : Chan) (dd : BitVec 3) (v : Word) (z : Bool) (c : Bool) :
    (State.pinSetZC s ch dd v z c).keepOf anyMem = s.keepOf anyMem := by
  simp [State.pinSetZC, pendingK anyMem, tbSumK anyMem, wfK anyMem, keep_mk]

@[simp] theorem keep_pinAlu (s : State) (ch : Chan) (dd ds : BitVec 3) (useImm : Bool) (imm : BitVec 16) (signed : Bool)
    (f : State → Word → Word → State) (hf : ∀ a b, ((f s a b).keepOf anyMem) = (s.keepOf anyMem)) :
    ((s.pinAlu ch dd ds useImm imm signed f).keepOf anyMem) = (s.keepOf anyMem) := by
  unfold State.pinAlu; split
  · simp
  · exact hf _ _

@[simp] theorem keep_pinLane (s : State) (ch : Chan) (lane : BitVec 2) (f : State → Port → State)
    (hf : ∀ p, ((f s p).keepOf anyMem) = (s.keepOf anyMem)) : ((s.pinLane ch lane f).keepOf anyMem) = (s.keepOf anyMem) := by
  unfold State.pinLane; split
  · simp
  · exact hf _

@[simp] theorem keep_execMovi (ch : Chan) (dd : BitVec 3) (imm : BitVec 16) (s : State) :
    outKeep anyMem (execMovi ch dd imm s) = some (s.keepOf anyMem) := by
  simp [execMovi, pendingK anyMem, tbSumK anyMem, wfK anyMem, keep_mk]

@[simp] theorem keep_execMovh (ch : Chan) (dd : BitVec 3) (imm : BitVec 16) (s : State) :
    outKeep anyMem (execMovh ch dd imm s) = some (s.keepOf anyMem) := by
  simp [execMovh, pendingK anyMem, tbSumK anyMem, wfK anyMem, keep_mk]

@[simp] theorem keep_execMov (ch : Chan) (dd : BitVec 3) (ds : BitVec 3) (s : State) :
    outKeep anyMem (execMov ch dd ds s) = some (s.keepOf anyMem) := by
  simp [execMov, pendingK anyMem, tbSumK anyMem, wfK anyMem, keep_mk]

@[simp] theorem keep_execPeAdd (ch : Chan) (dd : BitVec 3) (ds : BitVec 3) (useImm : Bool) (imm : BitVec 16) (s : State) :
    outKeep anyMem (execPeAdd ch dd ds useImm imm s) = some (s.keepOf anyMem) := by
  simp [execPeAdd, pendingK anyMem, tbSumK anyMem, wfK anyMem, keep_mk]

@[simp] theorem keep_execPeSub (ch : Chan) (dd : BitVec 3) (ds : BitVec 3) (useImm : Bool) (imm : BitVec 16) (s : State) :
    outKeep anyMem (execPeSub ch dd ds useImm imm s) = some (s.keepOf anyMem) := by
  simp [execPeSub, pendingK anyMem, tbSumK anyMem, wfK anyMem, keep_mk]

@[simp] theorem keep_execPeAnd (ch : Chan) (dd : BitVec 3) (ds : BitVec 3) (useImm : Bool) (imm : BitVec 16) (s : State) :
    outKeep anyMem (execPeAnd ch dd ds useImm imm s) = some (s.keepOf anyMem) := by
  simp [execPeAnd, pendingK anyMem, tbSumK anyMem, wfK anyMem, keep_mk]

@[simp] theorem keep_execPeOr (ch : Chan) (dd : BitVec 3) (ds : BitVec 3) (useImm : Bool) (imm : BitVec 16) (s : State) :
    outKeep anyMem (execPeOr ch dd ds useImm imm s) = some (s.keepOf anyMem) := by
  simp [execPeOr, pendingK anyMem, tbSumK anyMem, wfK anyMem, keep_mk]

@[simp] theorem keep_execPeXor (ch : Chan) (dd : BitVec 3) (ds : BitVec 3) (useImm : Bool) (imm : BitVec 16) (s : State) :
    outKeep anyMem (execPeXor ch dd ds useImm imm s) = some (s.keepOf anyMem) := by
  simp [execPeXor, pendingK anyMem, tbSumK anyMem, wfK anyMem, keep_mk]

@[simp] theorem keep_execPeShl (ch : Chan) (dd : BitVec 3) (ds : BitVec 3) (useImm : Bool) (imm : BitVec 16) (s : State) :
    outKeep anyMem (execPeShl ch dd ds useImm imm s) = some (s.keepOf anyMem) := by
  simp [execPeShl, pendingK anyMem, tbSumK anyMem, wfK anyMem, keep_mk]

@[simp] theorem keep_execPeShr (ch : Chan) (dd : BitVec 3) (ds : BitVec 3) (useImm : Bool) (imm : BitVec 16) (s : State) :
    outKeep anyMem (execPeShr ch dd ds useImm imm s) = some (s.keepOf anyMem) := by
  simp [execPeShr, pendingK anyMem, tbSumK anyMem, wfK anyMem, keep_mk]

@[simp] theorem keep_execPeCmp (ch : Chan) (dd : BitVec 3) (ds : BitVec 3) (useImm : Bool) (imm : BitVec 16) (s : State) :
    outKeep anyMem (execPeCmp ch dd ds useImm imm s) = some (s.keepOf anyMem) := by
  simp [execPeCmp, pendingK anyMem, tbSumK anyMem, wfK anyMem, keep_mk]

@[simp] theorem keep_brRun (s : State) (ch : Chan) (f : BitVec 4) (dd : BitVec 3) (target : BitVec 10) :
    (State.brRun s ch f dd target).keepOf anyMem = s.keepOf anyMem := by
  unfold State.brRun
  (repeat' split) <;> simp [pendingK anyMem, tbSumK anyMem, wfK anyMem, keep_mk]

@[simp] theorem keep_execBr (ch : Chan) (f : BitVec 4) (dd : BitVec 3) (target : BitVec 10) (s : State) :
    outKeep anyMem (execBr ch f dd target s) = some (s.keepOf anyMem) := by
  simp [execBr, pendingK anyMem, tbSumK anyMem, wfK anyMem, keep_mk]

@[simp] theorem keep_execDjnz (ch : Chan) (dd : BitVec 3) (target : BitVec 10) (s : State) :
    outKeep anyMem (execDjnz ch dd target s) = some (s.keepOf anyMem) := by
  simp [execDjnz, pendingK anyMem, tbSumK anyMem, wfK anyMem, keep_mk]

@[simp] theorem keep_pendDrive (s : State) (ch : Chan) (lane : Nat) (t : Word) (out : Bool) (oe : Bool) :
    (State.pendDrive s ch lane t out oe).keepOf anyMem = s.keepOf anyMem := by
  simp [State.pendDrive, pendingK anyMem, tbSumK anyMem, wfK anyMem, keep_mk]

@[simp] theorem keep_driveNow (s : State) (ch : Chan) (lane : Nat) (out : Bool) (oe : Bool) :
    (State.driveNow s ch lane out oe).keepOf anyMem = s.keepOf anyMem := by
  simp [State.driveNow, pendingK anyMem, tbSumK anyMem, wfK anyMem, keep_mk]

@[simp] theorem keep_driveRun (s : State) (ch : Chan) (dd : BitVec 3) (ds : BitVec 3) (f : BitVec 4) (imm : BitVec 2) :
    (State.driveRun s ch dd ds f imm).keepOf anyMem = s.keepOf anyMem := by
  unfold State.driveRun
  (repeat' split) <;> simp [pendingK anyMem, tbSumK anyMem, wfK anyMem, keep_mk]

@[simp] theorem keep_execDrive (ch : Chan) (dd : BitVec 3) (ds : BitVec 3) (f : BitVec 4) (imm : BitVec 2) (s : State) :
    outKeep anyMem (execDrive ch dd ds f imm s) = some (s.keepOf anyMem) := by
  simp [execDrive, pendingK anyMem, tbSumK anyMem, wfK anyMem, keep_mk]

@[simp] theorem keep_execTimedDriveDue (ch : Chan) (lane : BitVec 2) (s : State) :
    outKeep anyMem (execTimedDriveDue ch lane s) = some (s.keepOf anyMem) := by
  unfold execTimedDriveDue
  (repeat' split) <;> simp [pendingK anyMem, tbSumK anyMem, wfK anyMem, keep_mk]

@[simp] theorem keep_execSample (ch : Chan) (dd : BitVec 3) (lane : BitVec 2) (s : State) :
    outKeep anyMem (execSample ch dd lane s) = some (s.keepOf anyMem) := by
  simp [execSample, pendingK anyMem, tbSumK anyMem, wfK anyMem, keep_mk]

@[simp] theorem keep_waiteRun (s : State) (ch : Chan) (lane : BitVec 2) (timed : Bool) (ds : BitVec 3) :
    (State.waiteRun s ch lane timed ds).keepOf anyMem = s.keepOf anyMem := by
  simp [State.waiteRun, pendingK anyMem, tbSumK anyMem, wfK anyMem, keep_mk]

@[simp] theorem keep_execWaite (ch : Chan) (lane : BitVec 2) (timed : Bool) (ds : BitVec 3) (s : State) :
    outKeep anyMem (execWaite ch lane timed ds s) = some (s.keepOf anyMem) := by
  simp [execWaite, pendingK anyMem, tbSumK anyMem, wfK anyMem, keep_mk]

@[simp] theorem keep_execWaitt (ch : Chan) (dd : BitVec 3) (s : State) :
    outKeep anyMem (execWaitt ch dd s) = some (s.keepOf anyMem) := by
  simp [execWaitt, pendingK anyMem, tbSumK anyMem, wfK anyMem, keep_mk]

@[simp] theorem keep_tstampRun (s : State) (ch : Chan) (dd : BitVec 3) (lane : BitVec 2) (lowWord pop : Bool) :
    ((State.tstampRun s ch dd lane lowWord pop).keepOf anyMem) = (s.keepOf anyMem) := by
  unfold State.tstampRun
  refine keep_pinLane _ _ _ _ fun p => ?_
  dsimp only
  split <;> cases pop <;> simp

@[simp] theorem keep_execTstamp (ch : Chan) (dd : BitVec 3) (lane : BitVec 2) (lowWord : Bool) (pop : Bool) (s : State) :
    outKeep anyMem (execTstamp ch dd lane lowWord pop s) = some (s.keepOf anyMem) := by
  simp [execTstamp, pendingK anyMem, tbSumK anyMem, wfK anyMem, keep_mk]

@[simp] theorem keep_execRdc (ch : Chan) (dd : BitVec 3) (s : State) :
    outKeep anyMem (execRdc ch dd s) = some (s.keepOf anyMem) := by
  simp [execRdc, pendingK anyMem, tbSumK anyMem, wfK anyMem, keep_mk]

@[simp] theorem keep_chPull (s : State) (ch : Chan) (q : Qid) :
    (State.chPull s ch q).2.keepOf anyMem = s.keepOf anyMem := by
  unfold State.chPull
  dsimp only
  (repeat' split) <;> simp [pendingK anyMem, tbSumK anyMem, wfK anyMem, keep_mk]

@[simp] theorem keep_pullRun (s : State) (ch : Chan) (dd : BitVec 3) (src try_ : Bool) :
    ((State.pullRun s ch dd src try_).keepOf anyMem) = (s.keepOf anyMem) := by
  unfold State.pullRun
  split
  · simp
  · rename_i q _
    have e : ((s.chPull ch q).2.keepOf anyMem) = (s.keepOf anyMem) := by simp
    revert e
    cases s.chPull ch q with
    | mk i s1 => intro e; cases i <;> cases try_ <;> simp at e ⊢ <;> exact e

@[simp] theorem keep_execPull (ch : Chan) (dd : BitVec 3) (src : Bool) (s : State) :
    outKeep anyMem (execPull ch dd src s) = some (s.keepOf anyMem) := by
  simp [execPull, pendingK anyMem, tbSumK anyMem, wfK anyMem, keep_mk]

@[simp] theorem keep_execTpull (ch : Chan) (dd : BitVec 3) (src : Bool) (s : State) :
    outKeep anyMem (execTpull ch dd src s) = some (s.keepOf anyMem) := by
  simp [execTpull, pendingK anyMem, tbSumK anyMem, wfK anyMem, keep_mk]

@[simp] theorem keep_pushRun (s : State) (ch : Chan) (dd : BitVec 3) (snk : Bool) (fin : Bool) (prio : BitVec 4) (kind : BitVec 4) :
    (State.pushRun s ch dd snk fin prio kind).keepOf anyMem = s.keepOf anyMem := by
  unfold State.pushRun
  dsimp only
  (repeat' split)
  all_goals first
    | (simp [pendingK anyMem, tbSumK anyMem, wfK anyMem, keep_mk]; done)
    | (rename_i hp; have e := congrArg (fun p => p.2.keepOf anyMem) hp; simp at e; simp [← e, pendingK anyMem, tbSumK anyMem, wfK anyMem, keep_mk]; done)
    | (rename_i hp; have e := congrArg (fun p => p.1.keepOf anyMem) hp; simp at e; simp [← e, pendingK anyMem, tbSumK anyMem, wfK anyMem, keep_mk]; done)

@[simp] theorem keep_execPush (ch : Chan) (dd : BitVec 3) (snk : Bool) (fin : Bool) (prio : BitVec 4) (kind : BitVec 4) (s : State) :
    outKeep anyMem (execPush ch dd snk fin prio kind s) = some (s.keepOf anyMem) := by
  simp [execPush, pendingK anyMem, tbSumK anyMem, wfK anyMem, keep_mk]

@[simp] theorem keep_execTag (ch : Chan) (dd : BitVec 3) (s : State) :
    outKeep anyMem (execTag ch dd s) = some (s.keepOf anyMem) := by
  simp [execTag, pendingK anyMem, tbSumK anyMem, wfK anyMem, keep_mk]

@[simp] theorem keep_shtxRun (s : State) (ch : Chan) (ds : BitVec 3) (n : BitVec 6) :
    (State.shtxRun s ch ds n).keepOf anyMem = s.keepOf anyMem := by
  simp [State.shtxRun, pendingK anyMem, tbSumK anyMem, wfK anyMem, keep_mk]

@[simp] theorem keep_execShtx (ch : Chan) (ds : BitVec 3) (n : BitVec 6) (s : State) :
    outKeep anyMem (execShtx ch ds n s) = some (s.keepOf anyMem) := by
  simp [execShtx, pendingK anyMem, tbSumK anyMem, wfK anyMem, keep_mk]

@[simp] theorem keep_shrxRun (s : State) (ch : Chan) (dd : BitVec 3) (n : BitVec 6) :
    (State.shrxRun s ch dd n).keepOf anyMem = s.keepOf anyMem := by
  simp [State.shrxRun, pendingK anyMem, tbSumK anyMem, wfK anyMem, keep_mk]

@[simp] theorem keep_execShrx (ch : Chan) (dd : BitVec 3) (n : BitVec 6) (s : State) :
    outKeep anyMem (execShrx ch dd n s) = some (s.keepOf anyMem) := by
  simp [execShrx, pendingK anyMem, tbSumK anyMem, wfK anyMem, keep_mk]

@[simp] theorem keep_execCrci (ch : Chan) (lane : BitVec 2) (s : State) :
    outKeep anyMem (execCrci ch lane s) = some (s.keepOf anyMem) := by
  simp [execCrci, pendingK anyMem, tbSumK anyMem, wfK anyMem, keep_mk]

@[simp] theorem keep_execRdca (ch : Chan) (dd : BitVec 3) (lane : BitVec 2) (s : State) :
    outKeep anyMem (execRdca ch dd lane s) = some (s.keepOf anyMem) := by
  simp [execRdca, pendingK anyMem, tbSumK anyMem, wfK anyMem, keep_mk]

@[simp] theorem keep_execRdcb (ch : Chan) (dd : BitVec 3) (lane : BitVec 2) (s : State) :
    outKeep anyMem (execRdcb ch dd lane s) = some (s.keepOf anyMem) := by
  simp [execRdcb, pendingK anyMem, tbSumK anyMem, wfK anyMem, keep_mk]

@[simp] theorem keep_execStmode (ch : Chan) (lane : BitVec 2) (mode : BitVec 2) (n : BitVec 4) (s : State) :
    outKeep anyMem (execStmode ch lane mode n s) = some (s.keepOf anyMem) := by
  simp [execStmode, pendingK anyMem, tbSumK anyMem, wfK anyMem, keep_mk]

@[simp] theorem keep_execStcnt (ch : Chan) (dd : BitVec 3) (lane : BitVec 2) (s : State) :
    outKeep anyMem (execStcnt ch dd lane s) = some (s.keepOf anyMem) := by
  simp [execStcnt, pendingK anyMem, tbSumK anyMem, wfK anyMem, keep_mk]

@[simp] theorem keep_execBset (ch : Chan) (setB : Bool) (s : State) :
    outKeep anyMem (execBset ch setB s) = some (s.keepOf anyMem) := by
  simp [execBset, pendingK anyMem, tbSumK anyMem, wfK anyMem, keep_mk]

@[simp] theorem keep_execBen (ch : Chan) (en : Bool) (s : State) :
    outKeep anyMem (execBen ch en s) = some (s.keepOf anyMem) := by
  simp [execBen, pendingK anyMem, tbSumK anyMem, wfK anyMem, keep_mk]

@[simp] theorem keep_execHsync (ch : Chan) (kind : BitVec 2) (s : State) :
    outKeep anyMem (execHsync ch kind s) = some (s.keepOf anyMem) := by
  simp [execHsync, pendingK anyMem, tbSumK anyMem, wfK anyMem, keep_mk]

@[simp] theorem keep_execBstat (ch : Chan) (dd : BitVec 3) (s : State) :
    outKeep anyMem (execBstat ch dd s) = some (s.keepOf anyMem) := by
  simp [execBstat, pendingK anyMem, tbSumK anyMem, wfK anyMem, keep_mk]

@[simp] theorem keep_execTsclr (ch : Chan) (lane : BitVec 2) (s : State) :
    outKeep anyMem (execTsclr ch lane s) = some (s.keepOf anyMem) := by
  simp [execTsclr, pendingK anyMem, tbSumK anyMem, wfK anyMem, keep_mk]

@[simp] theorem keep_execEvt (ch : Chan) (s : State) :
    outKeep anyMem (execEvt ch s) = some (s.keepOf anyMem) := by
  simp [execEvt, pendingK anyMem, tbSumK anyMem, wfK anyMem, keep_mk]

@[simp] theorem keep_execWrap (ch : Chan) (ds : BitVec 3) (top : BitVec 10) (s : State) :
    outKeep anyMem (execWrap ch ds top s) = some (s.keepOf anyMem) := by
  simp [execWrap, pendingK anyMem, tbSumK anyMem, wfK anyMem, keep_mk]

@[simp] theorem keep_execPeHalt (ch : Chan) (s : State) :
    outKeep anyMem (execPeHalt ch s) = some (s.keepOf anyMem) := by
  simp [execPeHalt, pendingK anyMem, tbSumK anyMem, wfK anyMem, keep_mk]

@[simp] theorem keep_execPeIllegal (ch : Chan) (w : Word) (s : State) :
    outKeep anyMem (execPeIllegal ch w s) = some (s.keepOf anyMem) := by
  simp [execPeIllegal, pendingK anyMem, tbSumK anyMem, wfK anyMem, keep_mk]

end Sys2Proof.Machine
end

