-- ==== Sys2Proof/Laws/KeptPinEvents.lean ====
section
/-!
SUPPORT. What the functions of Machine/PinEvents.lean keep.
-/

namespace Sys2Proof.Machine

set_option linter.unusedSimpArgs false

variable {anyMem : Bool}

@[simp] theorem keep_stampEdge (s : State) (p : Port) (rising : Bool) :
    (State.stampEdge s p rising).keepOf anyMem = s.keepOf anyMem := by
  simp [State.stampEdge, pendingK anyMem, tbSumK anyMem, wfK anyMem, keep_mk]

@[simp] theorem keep_syncEdge (s : State) (ch : Chan) (rising : Bool) :
    (State.syncEdge s ch rising).keepOf anyMem = s.keepOf anyMem := by
  unfold State.syncEdge
  dsimp only
  (repeat' split) <;> simp [pendingK anyMem, tbSumK anyMem, wfK anyMem, keep_mk]

@[simp] theorem keep_edge (s : State) (p : Port) (level : Bool) :
    (State.edge s p level).keepOf anyMem = s.keepOf anyMem := by
  unfold State.edge
  dsimp only
  (repeat' split) <;> simp [pendingK anyMem, tbSumK anyMem, wfK anyMem, keep_mk]

@[simp] theorem keep_execPortEdge (p : Port) (level : Bool) (s : State) :
    outKeep anyMem (execPortEdge p level s) = some (s.keepOf anyMem) := by
  simp [execPortEdge, pendingK anyMem, tbSumK anyMem, wfK anyMem, keep_mk]

@[simp] theorem keep_readbackPort (s : State) (p : Port) :
    (State.readbackPort s p).keepOf anyMem = s.keepOf anyMem := by
  unfold State.readbackPort
  (repeat' split) <;> simp [pendingK anyMem, tbSumK anyMem, wfK anyMem, keep_mk]

@[simp] theorem keep_readbackAll (s : State) :
    (State.readbackAll s).keepOf anyMem = s.keepOf anyMem := by
  simp [State.readbackAll, pendingK anyMem, tbSumK anyMem, wfK anyMem, keep_mk]

@[simp] theorem keep_execReadbackMismatch (p : Port) (s : State) :
    outKeep anyMem (execReadbackMismatch p s) = some (s.keepOf anyMem) := by
  simp [execReadbackMismatch, pendingK anyMem, tbSumK anyMem, wfK anyMem, keep_mk]

@[simp] theorem keep_execStagedActionDue (ch : Chan) (s : State) :
    outKeep anyMem (execStagedActionDue ch s) = some (s.keepOf anyMem) := by
  simp [execStagedActionDue, pendingK anyMem, tbSumK anyMem, wfK anyMem, keep_mk]

@[simp] theorem keep_execVoteWindowExpiry (ch : Chan) (s : State) :
    outKeep anyMem (execVoteWindowExpiry ch s) = some (s.keepOf anyMem) := by
  simp [execVoteWindowExpiry, pendingK anyMem, tbSumK anyMem, wfK anyMem, keep_mk]

@[simp] theorem keep_boundaryChanges (s : State) (ch : Chan) :
    ((State.boundaryChanges s ch).keepOf anyMem) = (s.keepOf anyMem) := by
  unfold State.boundaryChanges
  dsimp only
  have e : ∀ (l : List (BitVec 2 × BitVec 2 × BitVec 4)), ((l.foldl (fun (s : State) (c : BitVec 2 × BitVec 2 × BitVec 4) =>
    match s.laneOf ch c.1.toNat with
    | none => s
    | some p =>
      if c.2.1 = 3 || decide (c.2.2.toNat < 2) then s
      else (s.setFld F.peStuff_MODE c.2.1.toNat p.toNat).setFld F.peStuff_N c.2.2.toNat p.toNat) s).keepOf anyMem) = (s.keepOf anyMem) := fun l =>
    keep_foldl _ l s fun s c => by
      repeat' split
      all_goals simp
  split <;> rw [keep_setChan] <;> exact e _

@[simp] theorem keep_sendLine (s : State) (ch : Chan) (p : Port) (bit : Bool) (stuffed : Bool) :
    (State.sendLine s ch p bit stuffed).keepOf anyMem = s.keepOf anyMem := by
  simp [State.sendLine, pendingK anyMem, tbSumK anyMem, wfK anyMem, keep_mk]

@[simp] theorem keep_sendBoundary (s : State) (ch : Chan) :
    (State.sendBoundary s ch).keepOf anyMem = s.keepOf anyMem := by
  unfold State.sendBoundary
  dsimp only
  (repeat' split) <;> simp [pendingK anyMem, tbSumK anyMem, wfK anyMem, keep_mk]

@[simp] theorem keep_boundary (s : State) (ch : Chan) :
    (State.boundary s ch).keepOf anyMem = s.keepOf anyMem := by
  unfold State.boundary
  (repeat' split) <;> simp [pendingK anyMem, tbSumK anyMem, wfK anyMem, keep_mk]

@[simp] theorem keep_execBitBoundary (ch : Chan) (s : State) :
    outKeep anyMem (execBitBoundary ch s) = some (s.keepOf anyMem) := by
  simp [execBitBoundary, pendingK anyMem, tbSumK anyMem, wfK anyMem, keep_mk]

@[simp] theorem keep_receiveLevel (s : State) (ch : Chan) (p : Port) (bit : Bool) :
    (State.receiveLevel s ch p bit).keepOf anyMem = s.keepOf anyMem := by
  simp [State.receiveLevel, pendingK anyMem, tbSumK anyMem, wfK anyMem, keep_mk]

@[simp] theorem keep_receive (s : State) (ch : Chan) (p : Port) :
    (State.receive s ch p).keepOf anyMem = s.keepOf anyMem := by
  simp [State.receive, pendingK anyMem, tbSumK anyMem, wfK anyMem, keep_mk]

@[simp] theorem keep_execBitSamplePoint (ch : Chan) (s : State) :
    outKeep anyMem (execBitSamplePoint ch s) = some (s.keepOf anyMem) := by
  unfold execBitSamplePoint
  (repeat' split) <;> simp [pendingK anyMem, tbSumK anyMem, wfK anyMem, keep_mk]

end Sys2Proof.Machine
end

