-- ==== Sys2Proof/Laws/KeptCoreControl.lean ====
section
/-!
SUPPORT. What the functions of Machine/CoreControl.lean keep.
-/

namespace Sys2Proof.Machine

set_option linter.unusedSimpArgs false

variable {anyMem : Bool}

@[simp] theorem keep_wrSltTab (s : State) (w : Writer) (c : CoreId) (wi : Nat) (v : Word) :
    (State.wrSltTab s w c wi v).keepOf anyMem = s.keepOf anyMem := by
  unfold State.wrSltTab
  (repeat' split) <;> simp [pendingK anyMem, tbSumK anyMem, wfK anyMem, keep_mk]

@[simp] theorem keep_wrSltCtl (s : State) (w : Writer) (c : CoreId) (v : Word) :
    (State.wrSltCtl s w c v).keepOf anyMem = s.keepOf anyMem := by
  unfold State.wrSltCtl
  (repeat' split) <;> simp [pendingK anyMem, tbSumK anyMem, wfK anyMem, keep_mk]

@[simp] theorem keep_snapTable (s : State) (c : CoreId) :
    (State.snapTable s c).keepOf anyMem = s.keepOf anyMem := by
  unfold State.snapTable
  dsimp only
  (repeat' split) <;> simp [pendingK anyMem, tbSumK anyMem, wfK anyMem, keep_mk]

@[simp] theorem keep_copyTable (s : State) (c : CoreId) :
    (State.copyTable s c).keepOf anyMem = s.keepOf anyMem := by
  unfold State.copyTable
  dsimp only
  (repeat' split) <;> simp [pendingK anyMem, tbSumK anyMem, wfK anyMem, keep_mk]

@[simp] theorem keep_execSltTabWrite (w : Writer) (c : CoreId) (wi : BitVec 3) (v : Word) (s : State) :
    outKeep anyMem (execSltTabWrite w c wi v s) = some (s.keepOf anyMem) := by
  simp [execSltTabWrite, pendingK anyMem, tbSumK anyMem, wfK anyMem, keep_mk]

@[simp] theorem keep_execSltCommit (w : Writer) (c : CoreId) (s : State) :
    outKeep anyMem (execSltCommit w c s) = some (s.keepOf anyMem) := by
  simp [execSltCommit, pendingK anyMem, tbSumK anyMem, wfK anyMem, keep_mk]

@[simp] theorem keep_execSlotTableCopy (c : CoreId) (s : State) :
    outKeep anyMem (execSlotTableCopy c s) = some (s.keepOf anyMem) := by
  simp [execSlotTableCopy, pendingK anyMem, tbSumK anyMem, wfK anyMem, keep_mk]

@[simp] theorem keep_enterMode (s : State) (c : CoreId) (m : PredMode) :
    (State.enterMode s c m).keepOf anyMem = s.keepOf anyMem := by
  simp [State.enterMode, pendingK anyMem, tbSumK anyMem, wfK anyMem, keep_mk]

@[simp] theorem keep_wrSltPred (s : State) (w : Writer) (c : CoreId) (v : Word) :
    (State.wrSltPred s w c v).keepOf anyMem = s.keepOf anyMem := by
  simp [State.wrSltPred, pendingK anyMem, tbSumK anyMem, wfK anyMem, keep_mk]

@[simp] theorem keep_execPredLeave (w : Writer) (c : CoreId) (s : State) :
    outKeep anyMem (execPredLeave w c s) = some (s.keepOf anyMem) := by
  simp [execPredLeave, pendingK anyMem, tbSumK anyMem, wfK anyMem, keep_mk]

@[simp] theorem keep_builtIn (s : State) (c : CoreId) (start : Bool) :
    (State.builtIn s c start).keepOf anyMem = s.keepOf anyMem := by
  simp [State.builtIn, pendingK anyMem, tbSumK anyMem, wfK anyMem, keep_mk]

@[simp] theorem keep_execBuiltInTest (c : CoreId) (start : Bool) (s : State) :
    outKeep anyMem (execBuiltInTest c start s) = some (s.keepOf anyMem) := by
  simp [execBuiltInTest, pendingK anyMem, tbSumK anyMem, wfK anyMem, keep_mk]

@[simp] theorem keep_execIdlecntRead (c : CoreId) (s : State) :
    outKeep anyMem (execIdlecntRead c s) = some (s.keepOf anyMem) := by
  simp [execIdlecntRead, pendingK anyMem, tbSumK anyMem, wfK anyMem, keep_mk]

@[simp] theorem keep_execSqcntRead (c : CoreId) (s : State) :
    outKeep anyMem (execSqcntRead c s) = some (s.keepOf anyMem) := by
  simp [execSqcntRead, pendingK anyMem, tbSumK anyMem, wfK anyMem, keep_mk]

end Sys2Proof.Machine
end

