-- ==== Sys2Proof/Laws/KeptThreadOps.lean ====
section
/-!
SUPPORT. What the functions of Machine/ThreadOps.lean keep.
-/

namespace Sys2Proof.Machine

set_option linter.unusedSimpArgs false

variable {anyMem : Bool}

@[simp] theorem keep_putToSleep (s : State) (t : Tid) (st : ThreadState) (why : Sleep) :
    (State.putToSleep s t st why).keepOf anyMem = s.keepOf anyMem := by
  simp [State.putToSleep, pendingK anyMem, tbSumK anyMem, wfK anyMem, keep_mk]

@[simp] theorem keep_dropSleep (s : State) (t : Tid) :
    (State.dropSleep s t).keepOf anyMem = s.keepOf anyMem := by
  simp [State.dropSleep, pendingK anyMem, tbSumK anyMem, wfK anyMem, keep_mk]

@[simp] theorem keep_pushSleep (s : State) (t : Tid) (q : Qid) (a : PushAns) :
    (State.pushSleep s t q a).keepOf anyMem = s.keepOf anyMem := by
  unfold State.pushSleep
  (repeat' split) <;> simp [pendingK anyMem, tbSumK anyMem, wfK anyMem, keep_mk]

@[simp] theorem keep_coverMirror (s : State) (t : Tid) :
    (State.coverMirror s t).keepOf anyMem = s.keepOf anyMem := by
  simp [State.coverMirror, pendingK anyMem, tbSumK anyMem, wfK anyMem, keep_mk]

@[simp] theorem keep_coverPush (s : State) (t : Tid) (q : Qid) (a : PushAns) :
    (State.coverPush s t q a).keepOf anyMem = s.keepOf anyMem := by
  simp [State.coverPush, pendingK anyMem, tbSumK anyMem, wfK anyMem, keep_mk]

@[simp] theorem keep_pushAnswered (s : State) (t : Tid) (q : Qid) (a : PushAns) :
    (State.pushAnswered s t q a).keepOf anyMem = s.keepOf anyMem := by
  unfold State.pushAnswered
  dsimp only
  (repeat' split) <;> simp [pendingK anyMem, tbSumK anyMem, wfK anyMem, keep_mk]

@[simp] theorem keep_masterBack (s : State) (t : Tid) :
    (State.masterBack s t).keepOf anyMem = s.keepOf anyMem := by
  simp [State.masterBack, pendingK anyMem, tbSumK anyMem, wfK anyMem, keep_mk]

@[simp] theorem keep_startThread (s0 : State) (t : Tid) :
    (State.startThread s0 t).keepOf anyMem = s0.keepOf anyMem := by
  simp [State.startThread, pendingK anyMem, tbSumK anyMem, wfK anyMem, keep_mk]

@[simp] theorem keep_beginPair (s : State) :
    (State.beginPair s).keepOf anyMem = s.keepOf anyMem := by
  simp [State.beginPair, pendingK anyMem, tbSumK anyMem, wfK anyMem, keep_mk]

@[simp] theorem keep_release (s : State) (t : Tid) :
    (State.release s t).keepOf anyMem = s.keepOf anyMem := by
  simp [State.release, pendingK anyMem, tbSumK anyMem, wfK anyMem, keep_mk]

@[simp] theorem keep_stopThread (s : State) (t : Tid) :
    (State.stopThread s t).keepOf anyMem = s.keepOf anyMem := by
  simp [State.stopThread, pendingK anyMem, tbSumK anyMem, wfK anyMem, keep_mk]

@[simp] theorem keep_wrThrCtl (s : State) (w : Writer) (t : Tid) (v : Word) :
    (State.wrThrCtl s w t v).keepOf anyMem = s.keepOf anyMem := by
  unfold State.wrThrCtl
  (repeat' split) <;> simp [pendingK anyMem, tbSumK anyMem, wfK anyMem, keep_mk]

@[simp] theorem keep_purgeRole (s : State) (t : Tid) (e : Nat) :
    (State.purgeRole s t e).keepOf anyMem = s.keepOf anyMem := by
  simp [State.purgeRole, pendingK anyMem, tbSumK anyMem, wfK anyMem, keep_mk]

@[simp] theorem keep_holdRaise (s : State) (o : Tid) (waiter : Tid) (p : BitVec 4) :
    (State.holdRaise s o waiter p).keepOf anyMem = s.keepOf anyMem := by
  simp [State.holdRaise, pendingK anyMem, tbSumK anyMem, wfK anyMem, keep_mk]

@[simp] theorem keep_raiseBy (s : State) (o : Tid) (waiter : Tid) (p : BitVec 4) :
    (State.raiseBy s o waiter p).keepOf anyMem = s.keepOf anyMem := by
  simp [State.raiseBy, pendingK anyMem, tbSumK anyMem, wfK anyMem, keep_mk]

@[simp] theorem keep_deliverRaises (s : State) :
    (State.deliverRaises s).keepOf anyMem = s.keepOf anyMem := by
  simp [State.deliverRaises, pendingK anyMem, tbSumK anyMem, wfK anyMem, keep_mk]

@[simp] theorem keep_tongsNotice (s : State) (waiter : Tid) (kind : BitVec 4) (addr : Nat) :
    (State.tongsNotice s waiter kind addr).keepOf anyMem = s.keepOf anyMem := by
  simp [State.tongsNotice, pendingK anyMem, tbSumK anyMem, wfK anyMem, keep_mk]

@[simp] theorem keep_walk (s : State) (waiter : Tid) (p : BitVec 4) (start addr : Nat) (n : Nat) :
    ((State.walk s waiter p start addr n).keepOf anyMem) = (s.keepOf anyMem) := by
  induction n generalizing s addr with
  | zero => unfold State.walk; repeat' split
            all_goals simp
  | succ n ih => 
    unfold State.walk; dsimp only
    repeat' split
    all_goals simp [ih]

@[simp] theorem keep_recomputeRaises (s : State) :
    (State.recomputeRaises s).keepOf anyMem = s.keepOf anyMem := by
  simp [State.recomputeRaises, pendingK anyMem, tbSumK anyMem, wfK anyMem, keep_mk]

end Sys2Proof.Machine
end

