-- ==== Sys2Proof/Laws/KeptThreadControl.lean ====
section
/-!
SUPPORT. What the functions of Machine/ThreadControl.lean keep.
-/

namespace Sys2Proof.Machine

set_option linter.unusedSimpArgs false

variable {anyMem : Bool}

@[simp] theorem keep_execThreadRelease (w : Writer) (t : Tid) (s : State) :
    outKeep anyMem (execThreadRelease w t s) = some (s.keepOf anyMem) := by
  simp [execThreadRelease, pendingK anyMem, tbSumK anyMem, wfK anyMem, keep_mk]

@[simp] theorem keep_execThreadStop (w : Writer) (t : Tid) (s : State) :
    outKeep anyMem (execThreadStop w t s) = some (s.keepOf anyMem) := by
  simp [execThreadStop, pendingK anyMem, tbSumK anyMem, wfK anyMem, keep_mk]

@[simp] theorem keep_execThreadStopped (t : Tid) (s : State) :
    outKeep anyMem (execThreadStopped t s) = some (s.keepOf anyMem) := by
  simp [execThreadStopped, pendingK anyMem, tbSumK anyMem, wfK anyMem, keep_mk]

@[simp] theorem keep_haltDone (s : State) (t : Tid) :
    (State.haltDone s t).keepOf anyMem = s.keepOf anyMem := by
  unfold State.haltDone
  dsimp only
  (repeat' split) <;> simp [pendingK anyMem, tbSumK anyMem, wfK anyMem, keep_mk]

@[simp] theorem keep_execHaltComplete (t : Tid) (s : State) :
    outKeep anyMem (execHaltComplete t s) = some (s.keepOf anyMem) := by
  simp [execHaltComplete, pendingK anyMem, tbSumK anyMem, wfK anyMem, keep_mk]

@[simp] theorem keep_faultDone (s : State) (t : Tid) :
    (State.faultDone s t).keepOf anyMem = s.keepOf anyMem := by
  unfold State.faultDone
  dsimp only
  (repeat' split) <;> simp [pendingK anyMem, tbSumK anyMem, wfK anyMem, keep_mk]

@[simp] theorem keep_execThreadFault (t : Tid) (s : State) :
    outKeep anyMem (execThreadFault t s) = some (s.keepOf anyMem) := by
  simp [execThreadFault, pendingK anyMem, tbSumK anyMem, wfK anyMem, keep_mk]

@[simp] theorem keep_noticeRetry (s : State) (h : Holder) : ((State.noticeRetry s h).keepOf anyMem) = (s.keepOf anyMem) := by
  unfold State.noticeRetry
  split
  · rfl
  · split
    · simp
    · split
      · simp
      · rename_i e
        simp [keep_tryNotice _ _ _ _ _ e]

@[simp] theorem keep_execNoticeHeldPush (h : Holder) (s : State) :
    outKeep anyMem (execNoticeHeldPush h s) = some (s.keepOf anyMem) := by
  simp [execNoticeHeldPush, pendingK anyMem, tbSumK anyMem, wfK anyMem, keep_mk]

@[simp] theorem keep_reassign (s : State) (t : Tid) (service : BitVec 16) :
    (State.reassign s t service).keepOf anyMem = s.keepOf anyMem := by
  simp [State.reassign, pendingK anyMem, tbSumK anyMem, wfK anyMem, keep_mk]

@[simp] theorem keep_wrThr (s : State) (w : Writer) (t : Tid) (r : ThrReg) (v : Word) :
    (State.wrThr s w t r v).keepOf anyMem = s.keepOf anyMem := by
  unfold State.wrThr
  (repeat' split) <;> simp [pendingK anyMem, tbSumK anyMem, wfK anyMem, keep_mk]

@[simp] theorem keep_wrThrCfg (s : State) (w : Writer) (t : Tid) (v : Word) :
    (State.wrThrCfg s w t v).keepOf anyMem = s.keepOf anyMem := by
  unfold State.wrThrCfg
  (repeat' split) <;> simp [pendingK anyMem, tbSumK anyMem, wfK anyMem, keep_mk]

@[simp] theorem keep_execThrStateWrite (w : Writer) (t : Tid) (r : ThrReg) (v : Word) (s : State) :
    outKeep anyMem (execThrStateWrite w t r v s) = some (s.keepOf anyMem) := by
  simp [execThrStateWrite, pendingK anyMem, tbSumK anyMem, wfK anyMem, keep_mk]

@[simp] theorem keep_execThrCfgWrite (w : Writer) (t : Tid) (v : Word) (s : State) :
    outKeep anyMem (execThrCfgWrite w t v s) = some (s.keepOf anyMem) := by
  simp [execThrCfgWrite, pendingK anyMem, tbSumK anyMem, wfK anyMem, keep_mk]

@[simp] theorem keep_execRoleReassign (w : Writer) (t : Tid) (v : Word) (s : State) :
    outKeep anyMem (execRoleReassign w t v s) = some (s.keepOf anyMem) := by
  simp [execRoleReassign, pendingK anyMem, tbSumK anyMem, wfK anyMem, keep_mk]

@[simp] theorem keep_execRolebusyClear (t : Tid) (s : State) :
    outKeep anyMem (execRolebusyClear t s) = some (s.keepOf anyMem) := by
  unfold execRolebusyClear
  (repeat' split) <;> simp [pendingK anyMem, tbSumK anyMem, wfK anyMem, keep_mk]

@[simp] theorem keep_execWatchWake (s : State) : outKeep anyMem (execWatchWake s) = some (s.keepOf anyMem) := by
  unfold execWatchWake
  split
  · rfl
  · refine congrArg some (keep_atDomain _ _ _ ?_ ?_) <;> dsimp only <;> split <;> simp [keep_mk, pendingK anyMem, tbSumK anyMem, wfK anyMem]

@[simp] theorem keep_execInheritanceChain (t : Tid) (s : State) :
    outKeep anyMem (execInheritanceChain t s) = some (s.keepOf anyMem) := by
  unfold execInheritanceChain
  (repeat' split) <;> simp [pendingK anyMem, tbSumK anyMem, wfK anyMem, keep_mk]

@[simp] theorem keep_execPriorityRecompute (s : State) :
    outKeep anyMem (execPriorityRecompute s) = some (s.keepOf anyMem) := by
  simp [execPriorityRecompute, pendingK anyMem, tbSumK anyMem, wfK anyMem, keep_mk]

@[simp] theorem keep_releaseEnds (s : State) (c : CoreId) (r : Nat) :
    (State.releaseEnds s c r).keepOf anyMem = s.keepOf anyMem := by
  simp [State.releaseEnds, pendingK anyMem, tbSumK anyMem, wfK anyMem, keep_mk]

@[simp] theorem keep_releaseWord (s : State) (c : CoreId) (owner : Tid) (a : Nat) (h : (s.keepOf anyMem).2.2 = true) :
    (State.releaseWord s c owner a).keepOf anyMem = s.keepOf anyMem := by
  simp [State.releaseWord, pendingK anyMem, tbSumK anyMem, wfK anyMem, keep_mk, h, Prod.ext_iff]

@[simp] theorem keep_tryRelease (s : State) (c : CoreId) (h : (s.keepOf anyMem).2.2 = true) :
    (State.tryRelease s c).keepOf anyMem = s.keepOf anyMem := by
  unfold State.tryRelease
  dsimp only
  (repeat' split) <;> simp [pendingK anyMem, tbSumK anyMem, wfK anyMem, keep_mk, h, Prod.ext_iff]

@[simp] theorem keep_forceRelease (s : State) (w : Writer) (c : CoreId) (owner : Tid) (h : (s.keepOf anyMem).2.2 = true) :
    (State.forceRelease s w c owner).keepOf anyMem = s.keepOf anyMem := by
  unfold State.forceRelease
  dsimp only
  (repeat' split) <;> simp [pendingK anyMem, tbSumK anyMem, wfK anyMem, keep_mk, h, Prod.ext_iff]

@[simp] theorem keep_wrFcmd (s : State) (w : Writer) (c : CoreId) (v : Word) (h : (s.keepOf anyMem).2.2 = true) :
    (State.wrFcmd s w c v).keepOf anyMem = s.keepOf anyMem := by
  simp [State.wrFcmd, pendingK anyMem, tbSumK anyMem, wfK anyMem, keep_mk, h, Prod.ext_iff]

@[simp] theorem keep_wrFaddr (s : State) (w : Writer) (c : CoreId) (v : Word) :
    (State.wrFaddr s w c v).keepOf anyMem = s.keepOf anyMem := by
  simp [State.wrFaddr, pendingK anyMem, tbSumK anyMem, wfK anyMem, keep_mk]

@[simp] theorem keep_execForceRelease (w : Writer) (c : CoreId) (owner : Tid) (s : State) (h : (s.keepOf anyMem).2.2 = true) :
    outKeep anyMem (execForceRelease w c owner s) = some (s.keepOf anyMem) := by
  unfold execForceRelease
  dsimp only
  refine congrArg some ?_
  (repeat' split)
  all_goals first
    | (simp [pendingK anyMem, tbSumK anyMem, wfK anyMem, keep_mk, h, Prod.ext_iff]; done)
    | (apply keep_pinLane <;> intros <;> (try dsimp only) <;> (repeat' split) <;> (first | assumption | (simp_all [pendingK anyMem, tbSumK anyMem, wfK anyMem, keep_mk, h, Prod.ext_iff]; done) | simp [pendingK anyMem, tbSumK anyMem, wfK anyMem, keep_mk, h, Prod.ext_iff]))
    | (apply keep_pinAlu <;> intros <;> (try dsimp only) <;> (repeat' split) <;> (first | assumption | (simp_all [pendingK anyMem, tbSumK anyMem, wfK anyMem, keep_mk, h, Prod.ext_iff]; done) | simp [pendingK anyMem, tbSumK anyMem, wfK anyMem, keep_mk, h, Prod.ext_iff]))
    | (apply keep_pin <;> intros <;> (try dsimp only) <;> (repeat' split) <;> (first | assumption | (simp_all [pendingK anyMem, tbSumK anyMem, wfK anyMem, keep_mk, h, Prod.ext_iff]; done) | simp [pendingK anyMem, tbSumK anyMem, wfK anyMem, keep_mk, h, Prod.ext_iff]))
    | (apply keep_access <;> intros <;> (try dsimp only) <;> (repeat' split) <;> (first | assumption | (simp_all [pendingK anyMem, tbSumK anyMem, wfK anyMem, keep_mk, h, Prod.ext_iff]; done) | simp [pendingK anyMem, tbSumK anyMem, wfK anyMem, keep_mk, h, Prod.ext_iff]))
    | (apply keep_atDomain <;> intros <;> (try dsimp only) <;> (repeat' split) <;> (first | assumption | (simp_all [pendingK anyMem, tbSumK anyMem, wfK anyMem, keep_mk, h, Prod.ext_iff]; done) | simp [pendingK anyMem, tbSumK anyMem, wfK anyMem, keep_mk, h, Prod.ext_iff]))

@[simp] theorem keep_execWatchRead (s : State) :
    outKeep anyMem (execWatchRead s) = some (s.keepOf anyMem) := by
  simp [execWatchRead, pendingK anyMem, tbSumK anyMem, wfK anyMem, keep_mk]

@[simp] theorem keep_execLckCntRead (s : State) :
    outKeep anyMem (execLckCntRead s) = some (s.keepOf anyMem) := by
  simp [execLckCntRead, pendingK anyMem, tbSumK anyMem, wfK anyMem, keep_mk]

end Sys2Proof.Machine
end

