-- ==== Sys2Proof/Laws/KeptBankOps.lean ====
section
/-!
SUPPORT. What the functions of Machine/BankOps.lean keep.
-/

namespace Sys2Proof.Machine

set_option linter.unusedSimpArgs false

variable {anyMem : Bool}

@[simp] theorem keep_wrBcfg (s : State) (w : Writer) (b : BankId) (v : Word) :
    (State.wrBcfg s w b v).keepOf anyMem = s.keepOf anyMem := by
  unfold State.wrBcfg
  (repeat' split) <;> simp [pendingK anyMem, tbSumK anyMem, wfK anyMem, keep_mk]

@[simp] theorem keep_beginHandover (s : State) (b : BankId) (wipe : Bool) (new : Master) :
    (State.beginHandover s b wipe new).keepOf anyMem = s.keepOf anyMem := by
  simp [State.beginHandover, pendingK anyMem, tbSumK anyMem, wfK anyMem, keep_mk]

@[simp] theorem keep_handover (s : State) (w : Writer) (b : BankId) (wipe : Bool) (new : Master) :
    (State.handover s w b wipe new).keepOf anyMem = s.keepOf anyMem := by
  simp [State.handover, pendingK anyMem, tbSumK anyMem, wfK anyMem, keep_mk]

@[simp] theorem keep_execHandover (w : Writer) (b : BankId) (wipe : Bool) (new : Master) (s : State) :
    outKeep anyMem (execHandover w b wipe new s) = some (s.keepOf anyMem) := by
  simp [execHandover, pendingK anyMem, tbSumK anyMem, wfK anyMem, keep_mk]

@[simp] theorem keep_lateOver (s : State) (b : BankId) :
    (State.lateOver s b).keepOf anyMem = s.keepOf anyMem := by
  simp [State.lateOver, pendingK anyMem, tbSumK anyMem, wfK anyMem, keep_mk]

@[simp] theorem keep_ownerTakes (s : State) (b : BankId) (new : Master) :
    (State.ownerTakes s b new).keepOf anyMem = s.keepOf anyMem := by
  simp [State.ownerTakes, pendingK anyMem, tbSumK anyMem, wfK anyMem, keep_mk]

@[simp] theorem keep_handoverDone (s : State) (b : BankId) :
    (State.handoverDone s b).keepOf anyMem = s.keepOf anyMem := by
  unfold State.handoverDone
  dsimp only
  (repeat' split) <;> simp [pendingK anyMem, tbSumK anyMem, wfK anyMem, keep_mk]

@[simp] theorem keep_startWipe (s : State) (b : BankId) (why : WipeCause) :
    (State.startWipe s b why).keepOf anyMem = s.keepOf anyMem := by
  unfold State.startWipe
  dsimp only
  (repeat' split) <;> simp [pendingK anyMem, tbSumK anyMem, wfK anyMem, keep_mk]

@[simp] theorem keep_wipeSecure (s : State) (why : WipeCause) :
    (State.wipeSecure s why).keepOf anyMem = s.keepOf anyMem := by
  simp [State.wipeSecure, pendingK anyMem, tbSumK anyMem, wfK anyMem, keep_mk]

@[simp] theorem keep_wipeDone (s : State) (b : BankId) (h : (s.keepOf anyMem).2.2 = true) :
    (State.wipeDone s b).keepOf anyMem = s.keepOf anyMem := by
  unfold State.wipeDone
  dsimp only
  (repeat' split) <;> simp [pendingK anyMem, tbSumK anyMem, wfK anyMem, keep_mk, h, Prod.ext_iff]

@[simp] theorem keep_execTamper (s : State) :
    outKeep anyMem (execTamper s) = some (s.keepOf anyMem) := by
  simp [execTamper, pendingK anyMem, tbSumK anyMem, wfK anyMem, keep_mk]

@[simp] theorem keep_execTamperDeassert (s : State) :
    outKeep anyMem (execTamperDeassert s) = some (s.keepOf anyMem) := by
  simp [execTamperDeassert, pendingK anyMem, tbSumK anyMem, wfK anyMem, keep_mk]

@[simp] theorem keep_execLifecycleChange (lc : BitVec 3) (s : State) :
    outKeep anyMem (execLifecycleChange lc s) = some (s.keepOf anyMem) := by
  simp [execLifecycleChange, pendingK anyMem, tbSumK anyMem, wfK anyMem, keep_mk]

@[simp] theorem keep_execBankRetentionEntry (b : BankId) (s : State) :
    outKeep anyMem (execBankRetentionEntry b s) = some (s.keepOf anyMem) := by
  simp [execBankRetentionEntry, pendingK anyMem, tbSumK anyMem, wfK anyMem, keep_mk]

@[simp] theorem keep_execBankRetained (b : BankId) (s : State) :
    outKeep anyMem (execBankRetained b s) = some (s.keepOf anyMem) := by
  simp [execBankRetained, pendingK anyMem, tbSumK anyMem, wfK anyMem, keep_mk]

@[simp] theorem keep_execBankWake (b : BankId) (s : State) :
    outKeep anyMem (execBankWake b s) = some (s.keepOf anyMem) := by
  unfold execBankWake
  (repeat' split) <;> simp [pendingK anyMem, tbSumK anyMem, wfK anyMem, keep_mk]

@[simp] theorem keep_wrRet (s : State) (w : Writer) (b : BankId) (v : Word) :
    (State.wrRet s w b v).keepOf anyMem = s.keepOf anyMem := by
  simp [State.wrRet, pendingK anyMem, tbSumK anyMem, wfK anyMem, keep_mk]

@[simp] theorem keep_execMemRetWrite (w : Writer) (b : BankId) (v : Word) (s : State) :
    outKeep anyMem (execMemRetWrite w b v s) = some (s.keepOf anyMem) := by
  simp [execMemRetWrite, pendingK anyMem, tbSumK anyMem, wfK anyMem, keep_mk]

@[simp] theorem keep_execMemRetRead (b : BankId) (s : State) :
    outKeep anyMem (execMemRetRead b s) = some (s.keepOf anyMem) := by
  simp [execMemRetRead, pendingK anyMem, tbSumK anyMem, wfK anyMem, keep_mk]

@[simp] theorem keep_execMemEccRead (coreLocal : Bool) (i : CoreId) (s : State) :
    outKeep anyMem (execMemEccRead coreLocal i s) = some (s.keepOf anyMem) := by
  simp [execMemEccRead, pendingK anyMem, tbSumK anyMem, wfK anyMem, keep_mk]

@[simp] theorem keep_validKept (s : State) (b : BankId) :
    (State.validKept s b).keepOf anyMem = s.keepOf anyMem := by
  simp [State.validKept, pendingK anyMem, tbSumK anyMem, wfK anyMem, keep_mk]

@[simp] theorem keep_execMemNownRead (b : BankId) (s : State) :
    outKeep anyMem (execMemNownRead b s) = some (s.keepOf anyMem) := by
  simp [execMemNownRead, pendingK anyMem, tbSumK anyMem, wfK anyMem, keep_mk]

@[simp] theorem keep_execMemConfRead (b : BankId) (m : Master) (s : State) :
    outKeep anyMem (execMemConfRead b m s) = some (s.keepOf anyMem) := by
  simp [execMemConfRead, pendingK anyMem, tbSumK anyMem, wfK anyMem, keep_mk]

end Sys2Proof.Machine
end

