-- ==== Sys2Proof/Laws/KeptQueueControl.lean ====
section
/-!
SUPPORT. What the functions of Machine/QueueControl.lean keep.
-/

namespace Sys2Proof.Machine

set_option linter.unusedSimpArgs false

variable {anyMem : Bool}

@[simp] theorem keep_disableQueue (s : State) (q : Qid) :
    (State.disableQueue s q).keepOf anyMem = s.keepOf anyMem := by
  simp [State.disableQueue, pendingK anyMem, tbSumK anyMem, wfK anyMem, keep_mk]

@[simp] theorem keep_wrQcfg (s : State) (w : Writer) (q : Qid) (v : Word) :
    (State.wrQcfg s w q v).keepOf anyMem = s.keepOf anyMem := by
  simp [State.wrQcfg, pendingK anyMem, tbSumK anyMem, wfK anyMem, keep_mk]

@[simp] theorem keep_execQcfgWrite (w : Writer) (q : Qid) (v : Word) (s : State) :
    outKeep anyMem (execQcfgWrite w q v s) = some (s.keepOf anyMem) := by
  simp [execQcfgWrite, pendingK anyMem, tbSumK anyMem, wfK anyMem, keep_mk]

@[simp] theorem keep_wrQueueReg (s : State) (w : Writer) (k : RegKind) (q : Qid) (v : Word) :
    (State.wrQueueReg s w k q v).keepOf anyMem = s.keepOf anyMem := by
  simp [State.wrQueueReg, pendingK anyMem, tbSumK anyMem, wfK anyMem, keep_mk]

@[simp] theorem keep_overNotice (s : State) (o : BitVec 12) :
    (State.overNotice s o).keepOf anyMem = s.keepOf anyMem := by
  simp [State.overNotice, pendingK anyMem, tbSumK anyMem, wfK anyMem, keep_mk]

@[simp] theorem keep_sleepOver (s : State) (o : BitVec 12) :
    (State.sleepOver s o).keepOf anyMem = s.keepOf anyMem := by
  unfold State.sleepOver
  dsimp only
  (repeat' split) <;> simp [pendingK anyMem, tbSumK anyMem, wfK anyMem, keep_mk]

@[simp] theorem keep_wrOwnlim (s : State) (w : Writer) (o : BitVec 12) (v : Word) :
    (State.wrOwnlim s w o v).keepOf anyMem = s.keepOf anyMem := by
  simp [State.wrOwnlim, pendingK anyMem, tbSumK anyMem, wfK anyMem, keep_mk]

@[simp] theorem keep_execQuotaWrite (w : Writer) (o : BitVec 12) (v : Word) (s : State) :
    outKeep anyMem (execQuotaWrite w o v s) = some (s.keepOf anyMem) := by
  simp [execQuotaWrite, pendingK anyMem, tbSumK anyMem, wfK anyMem, keep_mk]

@[simp] theorem keep_wrFlush (s : State) (w : Writer) (v : Word) :
    (State.wrFlush s w v).keepOf anyMem = s.keepOf anyMem := by
  simp [State.wrFlush, pendingK anyMem, tbSumK anyMem, wfK anyMem, keep_mk]

@[simp] theorem keep_execQueueFlush (w : Writer) (q : Qid) (s : State) :
    outKeep anyMem (execQueueFlush w q s) = some (s.keepOf anyMem) := by
  simp [execQueueFlush, pendingK anyMem, tbSumK anyMem, wfK anyMem, keep_mk]

@[simp] theorem keep_deliverWake (s : State) (q : Qid) :
    (State.deliverWake s q).keepOf anyMem = s.keepOf anyMem := by
  unfold State.deliverWake
  dsimp only
  (repeat' split) <;> simp [pendingK anyMem, tbSumK anyMem, wfK anyMem, keep_mk]

@[simp] theorem keep_execWakeNotice (q : Qid) (s : State) :
    outKeep anyMem (execWakeNotice q s) = some (s.keepOf anyMem) := by
  simp [execWakeNotice, pendingK anyMem, tbSumK anyMem, wfK anyMem, keep_mk]

@[simp] theorem keep_unitPush (s : State) (x : HeldNotice) :
    (State.unitPush s x).2.keepOf anyMem = s.keepOf anyMem := by
  unfold State.unitPush
  dsimp only
  (repeat' split)
  all_goals first
    | (simp [pendingK anyMem, tbSumK anyMem, wfK anyMem, keep_mk]; done)
    | (rename_i hp; have e := congrArg (fun p => p.2.keepOf anyMem) hp; simp at e; simp [← e, pendingK anyMem, tbSumK anyMem, wfK anyMem, keep_mk]; done)
    | (rename_i hp; have e := congrArg (fun p => p.1.keepOf anyMem) hp; simp at e; simp [← e, pendingK anyMem, tbSumK anyMem, wfK anyMem, keep_mk]; done)

@[simp] theorem keep_retryNotices (s : State) (k : Quadrant) : ((State.retryNotices s k).keepOf anyMem) = (s.keepOf anyMem) := by
  refine keep_foldl _ _ _ fun s h => ?_
  repeat' split
  all_goals simp [keep_noticeRetry]

@[simp] theorem keep_retryConsumers (s : State) (k : Quadrant) : ((State.retryConsumers s k).keepOf anyMem) = (s.keepOf anyMem) := by
  refine keep_foldl _ _ _ fun s kv => ?_
  dsimp only
  repeat' split
  all_goals simp [keep_mk, pendingK anyMem, tbSumK anyMem, wfK anyMem]

@[simp] theorem keep_retryReleases (s : State) (k : Quadrant) : ((State.retryReleases s k).keepOf anyMem) = (s.keepOf anyMem) := by
  refine keep_foldl _ _ _ fun s kv => ?_
  dsimp only
  repeat' split
  all_goals simp [keep_mk, pendingK anyMem, tbSumK anyMem, wfK anyMem]

@[simp] theorem keep_passClaims (s : State) (k : Quadrant) (x2 : Nat) :
    (State.passClaims s k x2).keepOf anyMem = s.keepOf anyMem := by
  induction x2 generalizing s k with
  | zero => simp [State.passClaims]
  | succ n ih => simp only [State.passClaims]; (repeat' split) <;> simp [ih, pendingK anyMem, tbSumK anyMem, wfK anyMem, keep_mk]

@[simp] theorem keep_retryUnits (s : State) (k : Quadrant) :
    (State.retryUnits s k).keepOf anyMem = s.keepOf anyMem := by
  simp [State.retryUnits, pendingK anyMem, tbSumK anyMem, wfK anyMem, keep_mk]

@[simp] theorem keep_retryOwner (s : State) (o : BitVec 12) :
    (State.retryOwner s o).keepOf anyMem = s.keepOf anyMem := by
  simp [State.retryOwner, pendingK anyMem, tbSumK anyMem, wfK anyMem, keep_mk]

@[simp] theorem keep_execDepthWaiterServe (q : Qid) (s : State) :
    outKeep anyMem (execDepthWaiterServe q s) = some (s.keepOf anyMem) := by
  unfold execDepthWaiterServe
  (repeat' split) <;> simp [pendingK anyMem, tbSumK anyMem, wfK anyMem, keep_mk]

@[simp] theorem keep_execSlotClaimRetry (k : Quadrant) (s : State) :
    outKeep anyMem (execSlotClaimRetry k s) = some (s.keepOf anyMem) := by
  unfold execSlotClaimRetry
  (repeat' split) <;> simp [pendingK anyMem, tbSumK anyMem, wfK anyMem, keep_mk]

@[simp] theorem keep_countDoorbell (s : State) (q : Qid) :
    (State.countDoorbell s q).keepOf anyMem = s.keepOf anyMem := by
  simp [State.countDoorbell, pendingK anyMem, tbSumK anyMem, wfK anyMem, keep_mk]

@[simp] theorem keep_heldAnswered (s : State) (h : HeldPush) (a : PushAns) :
    (State.heldAnswered s h a).keepOf anyMem = s.keepOf anyMem := by
  unfold State.heldAnswered
  (repeat' split) <;> simp [pendingK anyMem, tbSumK anyMem, wfK anyMem, keep_mk]

@[simp] theorem keep_heldRelease (s : State) (k : Quadrant) :
    (State.heldRelease s k).keepOf anyMem = s.keepOf anyMem := by
  unfold State.heldRelease
  dsimp only
  (repeat' split) <;> simp [pendingK anyMem, tbSumK anyMem, wfK anyMem, keep_mk]

@[simp] theorem keep_retryHolders (s : State) (k : Quadrant) : (s.retryHolders k).keepOf anyMem = s.keepOf anyMem := by
  refine keep_foldl _ _ _ fun s kv => ?_
  repeat' split
  all_goals simp


@[simp] theorem keep_execAssemblyHoldRelease (k : Quadrant) (s : State) :
    outKeep anyMem (execAssemblyHoldRelease k s) = some (s.keepOf anyMem) := by
  simp [execAssemblyHoldRelease, pendingK anyMem, tbSumK anyMem, wfK anyMem, keep_mk]

@[simp] theorem keep_doorbell (s : State) (q : Qid) (full : Bool) (end_ : Bool) (data : BitVec 64) :
    (State.doorbell s q full end_ data).keepOf anyMem = s.keepOf anyMem := by
  unfold State.doorbell
  dsimp only
  (repeat' split)
  all_goals first
    | (simp [pendingK anyMem, tbSumK anyMem, wfK anyMem, keep_mk]; done)
    | (rename_i hp; have e := congrArg (fun p => p.2.keepOf anyMem) hp; simp at e; simp [← e, pendingK anyMem, tbSumK anyMem, wfK anyMem, keep_mk]; done)
    | (rename_i hp; have e := congrArg (fun p => p.1.keepOf anyMem) hp; simp at e; simp [← e, pendingK anyMem, tbSumK anyMem, wfK anyMem, keep_mk]; done)

@[simp] theorem keep_execDoorbellPush (q : Qid) (full : Bool) (data : BitVec 64) (s : State) :
    outKeep anyMem (execDoorbellPush q full data s) = some (s.keepOf anyMem) := by
  simp [execDoorbellPush, pendingK anyMem, tbSumK anyMem, wfK anyMem, keep_mk]

@[simp] theorem keep_execDoorbellPushe (q : Qid) (full : Bool) (data : BitVec 64) (s : State) :
    outKeep anyMem (execDoorbellPushe q full data s) = some (s.keepOf anyMem) := by
  simp [execDoorbellPushe, pendingK anyMem, tbSumK anyMem, wfK anyMem, keep_mk]

@[simp] theorem keep_execDoorbellCidx (q : Qid) (v : Word) (s : State) :
    outKeep anyMem (execDoorbellCidx q v s) = some (s.keepOf anyMem) := by
  unfold execDoorbellCidx
  (repeat' split) <;> simp [pendingK anyMem, tbSumK anyMem, wfK anyMem, keep_mk]

@[simp] theorem keep_execDoorbellStatusRead (q : Qid) (s : State) :
    outKeep anyMem (execDoorbellStatusRead q s) = some (s.keepOf anyMem) := by
  simp [execDoorbellStatusRead, pendingK anyMem, tbSumK anyMem, wfK anyMem, keep_mk]

@[simp] theorem keep_removeWord (s : State) (q : Qid) (w : QWord) :
    (State.removeWord s q w).keepOf anyMem = s.keepOf anyMem := by
  unfold State.removeWord
  dsimp only
  (repeat' split) <;> simp [pendingK anyMem, tbSumK anyMem, wfK anyMem, keep_mk]

@[simp] theorem keep_leaveQueue (s : State) (r : BitVec 10) (w : QWord) :
    (State.leaveQueue s r w).keepOf anyMem = s.keepOf anyMem := by
  simp [State.leaveQueue, pendingK anyMem, tbSumK anyMem, wfK anyMem, keep_mk]

@[simp] theorem keep_moverLeaves (s : State) :
    (State.moverLeaves s).keepOf anyMem = s.keepOf anyMem := by
  simp [State.moverLeaves, pendingK anyMem, tbSumK anyMem, wfK anyMem, keep_mk]

@[simp] theorem keep_moverBatch (s : State) (r : BitVec 10) :
    (State.moverBatch s r).keepOf anyMem = s.keepOf anyMem := by
  simp [State.moverBatch, pendingK anyMem, tbSumK anyMem, wfK anyMem, keep_mk]

@[simp] theorem keep_execHostMoverBatch (r : BitVec 10) (s : State) :
    outKeep anyMem (execHostMoverBatch r s) = some (s.keepOf anyMem) := by
  simp [execHostMoverBatch, pendingK anyMem, tbSumK anyMem, wfK anyMem, keep_mk]

@[simp] theorem keep_batchDone (s : State) (r : BitVec 10) :
    (State.batchDone s r).keepOf anyMem = s.keepOf anyMem := by
  simp [State.batchDone, pendingK anyMem, tbSumK anyMem, wfK anyMem, keep_mk]

@[simp] theorem keep_moverResponse (s : State) (r : BitVec 10) (ok : Bool) :
    (State.moverResponse s r ok).keepOf anyMem = s.keepOf anyMem := by
  unfold State.moverResponse
  dsimp only
  (repeat' split) <;> simp [pendingK anyMem, tbSumK anyMem, wfK anyMem, keep_mk]

@[simp] theorem keep_execHostMoverResponse (r : BitVec 10) (ok : Bool) (s : State) :
    outKeep anyMem (execHostMoverResponse r ok s) = some (s.keepOf anyMem) := by
  simp [execHostMoverResponse, pendingK anyMem, tbSumK anyMem, wfK anyMem, keep_mk]

@[simp] theorem keep_wrRingCfg (s : State) (w : Writer) (r : BitVec 10) (v : Word) :
    (State.wrRingCfg s w r v).keepOf anyMem = s.keepOf anyMem := by
  simp [State.wrRingCfg, pendingK anyMem, tbSumK anyMem, wfK anyMem, keep_mk]

@[simp] theorem keep_wrRingBase (s : State) (w : Writer) (k : RegKind) (r : Nat) (v : Word) :
    (State.wrRingBase s w k r v).keepOf anyMem = s.keepOf anyMem := by
  simp [State.wrRingBase, pendingK anyMem, tbSumK anyMem, wfK anyMem, keep_mk]

@[simp] theorem keep_execRingEnable (w : Writer) (r : BitVec 10) (v : Word) (s : State) :
    outKeep anyMem (execRingEnable w r v s) = some (s.keepOf anyMem) := by
  simp [execRingEnable, pendingK anyMem, tbSumK anyMem, wfK anyMem, keep_mk]

@[simp] theorem keep_execSlaglostRead (s : State) :
    outKeep anyMem (execSlaglostRead s) = some (s.keepOf anyMem) := by
  simp [execSlaglostRead, pendingK anyMem, tbSumK anyMem, wfK anyMem, keep_mk]

@[simp] theorem keep_execSlagcntRead (r : BitVec 4) (s : State) :
    outKeep anyMem (execSlagcntRead r s) = some (s.keepOf anyMem) := by
  simp [execSlagcntRead, pendingK anyMem, tbSumK anyMem, wfK anyMem, keep_mk]

end Sys2Proof.Machine
end

