-- ==== Sys2Proof/Laws/KeptTimeControl.lean ====
section
/-!
SUPPORT. What the functions of Machine/TimeControl.lean keep.
-/

namespace Sys2Proof.Machine

set_option linter.unusedSimpArgs false

variable {anyMem : Bool}

@[simp] theorem keep_showRat (s : State) (x : ℚ) (w : Nat) :
    (State.showRat s x w).2.keepOf anyMem = s.keepOf anyMem := by
  unfold State.showRat
  (repeat' split) <;> simp [pendingK anyMem, tbSumK anyMem, wfK anyMem, keep_mk]

@[simp] theorem keep_setRefFld (s : State) (f : Fld) (v : Nat) (n : BaseId) (j : BitVec 2) :
    (State.setRefFld s f v n j).keepOf anyMem = s.keepOf anyMem := by
  simp [State.setRefFld, pendingK anyMem, tbSumK anyMem, wfK anyMem, keep_mk]

@[simp] theorem keep_refError (s : State) (n : BaseId) (j : BitVec 2) :
    (State.refError s n j).keepOf anyMem = s.keepOf anyMem := by
  simp [State.refError, pendingK anyMem, tbSumK anyMem, wfK anyMem, keep_mk]

@[simp] theorem keep_discontinuity (s : State) (n : BaseId) (t : ℚ) (y : ℤ) (rate : ℚ) :
    (State.discontinuity s n t y rate).keepOf anyMem = s.keepOf anyMem := by
  simp [State.discontinuity, pendingK anyMem, tbSumK anyMem, wfK anyMem, keep_mk]

@[simp] theorem keep_followNet (s : State) (n : BaseId) (t : ℚ) (y : ℤ) :
    (State.followNet s n t y).keepOf anyMem = s.keepOf anyMem := by
  simp [State.followNet, pendingK anyMem, tbSumK anyMem, wfK anyMem, keep_mk]

@[simp] theorem keep_followTurn (s : State) (n : BaseId) (t : ℚ) (y : ℤ) (prev : Option (ℚ × ℤ)) :
    (State.followTurn s n t y prev).keepOf anyMem = s.keepOf anyMem := by
  unfold State.followTurn
  (repeat' split) <;> simp [pendingK anyMem, tbSumK anyMem, wfK anyMem, keep_mk]

@[simp] theorem keep_lockOn (s : State) (n : BaseId) (j : BitVec 2) :
    (State.lockOn s n j).keepOf anyMem = s.keepOf anyMem := by
  unfold State.lockOn
  dsimp only
  (repeat' split) <;> simp [pendingK anyMem, tbSumK anyMem, wfK anyMem, keep_mk]

@[simp] theorem keep_record (s : State) (n : BaseId) (j : BitVec 2) (t : ℚ) (y : ℤ) :
    (State.record s n j t y).keepOf anyMem = s.keepOf anyMem := by
  simp [State.record, pendingK anyMem, tbSumK anyMem, wfK anyMem, keep_mk]

@[simp] theorem keep_observe (s : State) (n : BaseId) (j : BitVec 2) (t : ℚ) (y : ℤ) (step : Bool) :
    (State.observe s n j t y step).keepOf anyMem = s.keepOf anyMem := by
  unfold State.observe
  dsimp only
  (repeat' split) <;> simp [pendingK anyMem, tbSumK anyMem, wfK anyMem, keep_mk]

@[simp] theorem keep_execTimePortWord (time : BitVec 64) (valid : Bool) (step : Bool) (s : State) :
    outKeep anyMem (execTimePortWord time valid step s) = some (s.keepOf anyMem) := by
  simp [execTimePortWord, pendingK anyMem, tbSumK anyMem, wfK anyMem, keep_mk]

@[simp] theorem keep_portSample (s : State) (n : BaseId) (j : BitVec 2) (step : Bool) :
    (State.portSample s n j step).keepOf anyMem = s.keepOf anyMem := by
  simp [State.portSample, pendingK anyMem, tbSumK anyMem, wfK anyMem, keep_mk]

@[simp] theorem keep_eachRef (s : State) (f : State → BaseId → BitVec 2 → State) (hf : ∀ s n j, ((f s n j).keepOf anyMem) = (s.keepOf anyMem)) :
    ((State.eachRef s f).keepOf anyMem) = (s.keepOf anyMem) :=
  keep_foldl _ _ _ fun s n => keep_foldl _ _ _ fun s j => hf s n j

@[simp] theorem keep_timeSample (s : State) :
    (State.timeSample s).keepOf anyMem = s.keepOf anyMem := by
  simp [State.timeSample, pendingK anyMem, tbSumK anyMem, wfK anyMem, keep_mk]

@[simp] theorem keep_execTimePortSample (s : State) :
    outKeep anyMem (execTimePortSample s) = some (s.keepOf anyMem) := by
  simp [execTimePortSample, pendingK anyMem, tbSumK anyMem, wfK anyMem, keep_mk]

@[simp] theorem keep_readPacket (s : State) (q : Qid) (r : Reader) (n : Nat) (acc : List (BitVec 64)) :
    ((State.readPacket s q r n acc).2.keepOf anyMem) = (s.keepOf anyMem) := by
  induction n generalizing s acc with
  | zero => rfl
  | succ n ih =>
    unfold State.readPacket
    have e : ((s.popItem q r).2.keepOf anyMem) = (s.keepOf anyMem) := by simp
    revert e
    cases s.popItem q r with
    | mk i s1 =>
      intro e
      cases i with
      | none => exact e
      | some x =>
        dsimp only at e ⊢
        split
        · exact e
        · rw [ih]; exact e

@[simp] theorem keep_capture (s : State) (n : BaseId) (j : BitVec 2) (items : List (BitVec 64)) :
    (State.capture s n j items).keepOf anyMem = s.keepOf anyMem := by
  unfold State.capture
  (repeat' split) <;> simp [pendingK anyMem, tbSumK anyMem, wfK anyMem, keep_mk]

@[simp] theorem keep_execCapturePacket (n : BaseId) (j : BitVec 2) (s : State) :
    outKeep anyMem (execCapturePacket n j s) = some (s.keepOf anyMem) := by
  simp [execCapturePacket, pendingK anyMem, tbSumK anyMem, wfK anyMem, keep_mk]

@[simp] theorem keep_enterHoldover (s : State) (n : BaseId) :
    (State.enterHoldover s n).keepOf anyMem = s.keepOf anyMem := by
  simp [State.enterHoldover, pendingK anyMem, tbSumK anyMem, wfK anyMem, keep_mk]

@[simp] theorem keep_enterStill (s : State) (n : BaseId) :
    (State.enterStill s n).keepOf anyMem = s.keepOf anyMem := by
  simp [State.enterStill, pendingK anyMem, tbSumK anyMem, wfK anyMem, keep_mk]

@[simp] theorem keep_leaveReference (s : State) (n : BaseId) :
    (State.leaveReference s n).keepOf anyMem = s.keepOf anyMem := by
  simp [State.leaveReference, pendingK anyMem, tbSumK anyMem, wfK anyMem, keep_mk]

@[simp] theorem keep_execReferenceLost (n : BaseId) (s : State) :
    outKeep anyMem (execReferenceLost n s) = some (s.keepOf anyMem) := by
  simp [execReferenceLost, pendingK anyMem, tbSumK anyMem, wfK anyMem, keep_mk]

@[simp] theorem keep_execStillTimeout (n : BaseId) (s : State) :
    outKeep anyMem (execStillTimeout n s) = some (s.keepOf anyMem) := by
  simp [execStillTimeout, pendingK anyMem, tbSumK anyMem, wfK anyMem, keep_mk]

@[simp] theorem keep_switchTo (s : State) (n : BaseId) (j : BitVec 2) (rate : Option ℚ) :
    (State.switchTo s n j rate).keepOf anyMem = s.keepOf anyMem := by
  unfold State.switchTo
  dsimp only
  (repeat' split) <;> simp [pendingK anyMem, tbSumK anyMem, wfK anyMem, keep_mk]

@[simp] theorem keep_judgeRef (s : State) (n : BaseId) (j : BitVec 2) :
    (State.judgeRef s n j).keepOf anyMem = s.keepOf anyMem := by
  unfold State.judgeRef
  (repeat' split) <;> simp [pendingK anyMem, tbSumK anyMem, wfK anyMem, keep_mk]

@[simp] theorem keep_netRate (s : State) (n : BaseId) :
    (State.netRate s n).keepOf anyMem = s.keepOf anyMem := by
  unfold State.netRate
  (repeat' split) <;> simp [pendingK anyMem, tbSumK anyMem, wfK anyMem, keep_mk]

@[simp] theorem keep_verdict (s : State) (n : BaseId) :
    (State.verdict s n).keepOf anyMem = s.keepOf anyMem := by
  simp [State.verdict, pendingK anyMem, tbSumK anyMem, wfK anyMem, keep_mk]

@[simp] theorem keep_readmitRef (s : State) (n : BaseId) (j : BitVec 2) :
    (State.readmitRef s n j).keepOf anyMem = s.keepOf anyMem := by
  simp [State.readmitRef, pendingK anyMem, tbSumK anyMem, wfK anyMem, keep_mk]

@[simp] theorem keep_windowSwitch (s : State) (n : BaseId) (held : Bool) :
    (State.windowSwitch s n held).keepOf anyMem = s.keepOf anyMem := by
  unfold State.windowSwitch
  dsimp only
  (repeat' split) <;> simp [pendingK anyMem, tbSumK anyMem, wfK anyMem, keep_mk]

@[simp] theorem keep_applyRefWrites (s : State) (n : BaseId) (j : BitVec 2) : ((State.applyRefWrites s n j).keepOf anyMem) = (s.keepOf anyMem) := by
  unfold State.applyRefWrites
  dsimp only
  rw [keep_setRef]
  refine keep_foldl _ _ _ fun s kv => ?_
  split <;> simp

@[simp] theorem keep_windowEnd (s : State) (n : BaseId) :
    (State.windowEnd s n).keepOf anyMem = s.keepOf anyMem := by
  simp [State.windowEnd, pendingK anyMem, tbSumK anyMem, wfK anyMem, keep_mk]

@[simp] theorem keep_execEstimationWindowEnd (n : BaseId) (s : State) :
    outKeep anyMem (execEstimationWindowEnd n s) = some (s.keepOf anyMem) := by
  simp [execEstimationWindowEnd, pendingK anyMem, tbSumK anyMem, wfK anyMem, keep_mk]

@[simp] theorem keep_ratSqrt (s : State) (x : ℚ) :
    (State.ratSqrt s x).2.keepOf anyMem = s.keepOf anyMem := by
  simp [State.ratSqrt, pendingK anyMem, tbSumK anyMem, wfK anyMem, keep_mk]

@[simp] theorem keep_targetCorr (s : State) (n : BaseId) :
    (State.targetCorr s n).2.keepOf anyMem = s.keepOf anyMem := by
  unfold State.targetCorr
  dsimp only
  (repeat' split) <;> simp [pendingK anyMem, tbSumK anyMem, wfK anyMem, keep_mk]

@[simp] theorem keep_slew (s : State) (n : BaseId) :
    (State.slew s n).keepOf anyMem = s.keepOf anyMem := by
  simp [State.slew, pendingK anyMem, tbSumK anyMem, wfK anyMem, keep_mk]

@[simp] theorem keep_execSlewUpdate (n : BaseId) (s : State) :
    outKeep anyMem (execSlewUpdate n s) = some (s.keepOf anyMem) := by
  simp [execSlewUpdate, pendingK anyMem, tbSumK anyMem, wfK anyMem, keep_mk]

@[simp] theorem keep_wrRefstat (s : State) (w : Writer) (n : BaseId) (j : BitVec 2) (v : Word) :
    (State.wrRefstat s w n j v).keepOf anyMem = s.keepOf anyMem := by
  simp [State.wrRefstat, pendingK anyMem, tbSumK anyMem, wfK anyMem, keep_mk]

@[simp] theorem keep_execRefReadmit (w : Writer) (n : BaseId) (j : BitVec 2) (s : State) :
    outKeep anyMem (execRefReadmit w n j s) = some (s.keepOf anyMem) := by
  simp [execRefReadmit, pendingK anyMem, tbSumK anyMem, wfK anyMem, keep_mk]

@[simp] theorem keep_wrT0inc (s : State) (w : Writer) (v : Word) :
    (State.wrT0inc s w v).keepOf anyMem = s.keepOf anyMem := by
  simp [State.wrT0inc, pendingK anyMem, tbSumK anyMem, wfK anyMem, keep_mk]

@[simp] theorem keep_execT0incWrite (w : Writer) (v : Word) (s : State) :
    outKeep anyMem (execT0incWrite w v s) = some (s.keepOf anyMem) := by
  simp [execT0incWrite, pendingK anyMem, tbSumK anyMem, wfK anyMem, keep_mk]

@[simp] theorem keep_wrRef (s : State) (w : Writer) (k : RegKind) (n : BaseId) (j : BitVec 2) (v : Word) :
    (State.wrRef s w k n j v).keepOf anyMem = s.keepOf anyMem := by
  simp [State.wrRef, pendingK anyMem, tbSumK anyMem, wfK anyMem, keep_mk]

@[simp] theorem keep_wrTb (s : State) (w : Writer) (k : RegKind) (n : BaseId) (v : Word) :
    (State.wrTb s w k n v).keepOf anyMem = s.keepOf anyMem := by
  simp [State.wrTb, pendingK anyMem, tbSumK anyMem, wfK anyMem, keep_mk]

@[simp] theorem keep_readPair (s : State) (mst : Master) (kind : Nat) (n : BaseId) (v : BitVec 64) :
    (State.readPair s mst kind n v).keepOf anyMem = s.keepOf anyMem := by
  simp [State.readPair, pendingK anyMem, tbSumK anyMem, wfK anyMem, keep_mk]

@[simp] theorem keep_readVall (s : State) (mst : Master) (n : BaseId) :
    (State.readVall s mst n).keepOf anyMem = s.keepOf anyMem := by
  simp [State.readVall, pendingK anyMem, tbSumK anyMem, wfK anyMem, keep_mk]

@[simp] theorem keep_execTbVallRead (mst : Master) (n : BaseId) (s : State) :
    outKeep anyMem (execTbVallRead mst n s) = some (s.keepOf anyMem) := by
  simp [execTbVallRead, pendingK anyMem, tbSumK anyMem, wfK anyMem, keep_mk]

@[simp] theorem keep_readRatel (s : State) (mst : Master) (n : BaseId) :
    (State.readRatel s mst n).keepOf anyMem = s.keepOf anyMem := by
  simp [State.readRatel, pendingK anyMem, tbSumK anyMem, wfK anyMem, keep_mk]

@[simp] theorem keep_readPhil (s : State) (mst : Master) (n : BaseId) :
    (State.readPhil s mst n).keepOf anyMem = s.keepOf anyMem := by
  simp [State.readPhil, pendingK anyMem, tbSumK anyMem, wfK anyMem, keep_mk]

@[simp] theorem keep_readCorr (s : State) (n : BaseId) :
    (State.readCorr s n).keepOf anyMem = s.keepOf anyMem := by
  simp [State.readCorr, pendingK anyMem, tbSumK anyMem, wfK anyMem, keep_mk]

@[simp] theorem keep_readPortl (s : State) (mst : Master) :
    (State.readPortl s mst).keepOf anyMem = s.keepOf anyMem := by
  simp [State.readPortl, pendingK anyMem, tbSumK anyMem, wfK anyMem, keep_mk]

@[simp] theorem keep_execTbPortlRead (mst : Master) (s : State) :
    outKeep anyMem (execTbPortlRead mst s) = some (s.keepOf anyMem) := by
  simp [execTbPortlRead, pendingK anyMem, tbSumK anyMem, wfK anyMem, keep_mk]

@[simp] theorem keep_execTbPortRead (s : State) :
    outKeep anyMem (execTbPortRead s) = some (s.keepOf anyMem) := by
  simp [execTbPortRead, pendingK anyMem, tbSumK anyMem, wfK anyMem, keep_mk]

@[simp] theorem keep_execRefstatRead (n : BaseId) (j : BitVec 2) (s : State) :
    outKeep anyMem (execRefstatRead n j s) = some (s.keepOf anyMem) := by
  simp [execRefstatRead, pendingK anyMem, tbSumK anyMem, wfK anyMem, keep_mk]

@[simp] theorem keep_execTbWinRead (n : BaseId) (s : State) :
    outKeep anyMem (execTbWinRead n s) = some (s.keepOf anyMem) := by
  simp [execTbWinRead, pendingK anyMem, tbSumK anyMem, wfK anyMem, keep_mk]

@[simp] theorem keep_execBasePassesCycleCountZero (n : BaseId) (s : State) :
    outKeep anyMem (execBasePassesCycleCountZero n s) = some (s.keepOf anyMem) := by
  simp [execBasePassesCycleCountZero, pendingK anyMem, tbSumK anyMem, wfK anyMem, keep_mk]

end Sys2Proof.Machine
end

