-- ==== Sys2Proof/Laws/KeptTaskOps.lean ====
section
/-!
SUPPORT. What the functions of Machine/TaskOps.lean keep.
-/

namespace Sys2Proof.Machine

set_option linter.unusedSimpArgs false

variable {anyMem : Bool}

@[simp] theorem keep_post (s : State) (t : Tid) :
    (State.post s t).2.keepOf anyMem = s.keepOf anyMem := by
  unfold State.post
  dsimp only
  (repeat' split) <;> simp [pendingK anyMem, tbSumK anyMem, wfK anyMem, keep_mk]

@[simp] theorem keep_wrP4 (s : State) (t : Tid) (v : Word) :
    (State.wrP4 s t v).keepOf anyMem = s.keepOf anyMem := by
  simp [State.wrP4, pendingK anyMem, tbSumK anyMem, wfK anyMem, keep_mk]

@[simp] theorem keep_execPost (t : Tid) (p4 : Word) (s : State) :
    outKeep anyMem (execPost t p4 s) = some (s.keepOf anyMem) := by
  simp [execPost, pendingK anyMem, tbSumK anyMem, wfK anyMem, keep_mk]

@[simp] theorem keep_execRevalidationPass (s : State) :
    outKeep anyMem (execRevalidationPass s) = some (s.keepOf anyMem) := by
  simp [execRevalidationPass, pendingK anyMem, tbSumK anyMem, wfK anyMem, keep_mk]

@[simp] theorem keep_execQuench (n : BaseId) (s : State) :
    outKeep anyMem (execQuench n s) = some (s.keepOf anyMem) := by
  simp [execQuench, pendingK anyMem, tbSumK anyMem, wfK anyMem, keep_mk]

@[simp] theorem keep_execQuenchRecompute (n : BaseId) (s : State) :
    outKeep anyMem (execQuenchRecompute n s) = some (s.keepOf anyMem) := by
  simp [execQuenchRecompute, pendingK anyMem, tbSumK anyMem, wfK anyMem, keep_mk]

@[simp] theorem keep_execTaCntRead (s : State) :
    outKeep anyMem (execTaCntRead s) = some (s.keepOf anyMem) := by
  simp [execTaCntRead, pendingK anyMem, tbSumK anyMem, wfK anyMem, keep_mk]

@[simp] theorem keep_mirrorTask (s : State) (k : TaskId) :
    (State.mirrorTask s k).keepOf anyMem = s.keepOf anyMem := by
  simp [State.mirrorTask, pendingK anyMem, tbSumK anyMem, wfK anyMem, keep_mk]

@[simp] theorem keep_lagNotice (s : State) (k : TaskId) (lag : Nat) :
    (State.lagNotice s k lag).keepOf anyMem = s.keepOf anyMem := by
  simp [State.lagNotice, pendingK anyMem, tbSumK anyMem, wfK anyMem, keep_mk]

@[simp] theorem keep_noteTask (s : State) (k : TaskId) (f : Fld) :
    (State.noteTask s k f).keepOf anyMem = s.keepOf anyMem := by
  simp [State.noteTask, pendingK anyMem, tbSumK anyMem, wfK anyMem, keep_mk]

@[simp] theorem keep_taskIgnored (s : State) (k : TaskId) :
    (State.taskIgnored s k).keepOf anyMem = s.keepOf anyMem := by
  simp [State.taskIgnored, pendingK anyMem, tbSumK anyMem, wfK anyMem, keep_mk]

@[simp] theorem keep_release1 (s : State) (k : TaskId) (x : Task) (lag : Nat) (grid : Bool) :
    (State.release1 s k x lag grid).keepOf anyMem = s.keepOf anyMem := by
  simp [State.release1, pendingK anyMem, tbSumK anyMem, wfK anyMem, keep_mk]

@[simp] theorem keep_releaseTask (s : State) (k : TaskId) :
    (State.releaseTask s k).keepOf anyMem = s.keepOf anyMem := by
  simp [State.releaseTask, pendingK anyMem, tbSumK anyMem, wfK anyMem, keep_mk]

@[simp] theorem keep_execTaskRelease (k : TaskId) (s : State) :
    outKeep anyMem (execTaskRelease k s) = some (s.keepOf anyMem) := by
  simp [execTaskRelease, pendingK anyMem, tbSumK anyMem, wfK anyMem, keep_mk]

@[simp] theorem keep_wrDone (s : State) (v : Word) :
    (State.wrDone s v).keepOf anyMem = s.keepOf anyMem := by
  simp [State.wrDone, pendingK anyMem, tbSumK anyMem, wfK anyMem, keep_mk]

@[simp] theorem keep_execTaskDone (w : Writer) (k : TaskId) (s : State) :
    outKeep anyMem (execTaskDone w k s) = some (s.keepOf anyMem) := by
  simp [execTaskDone, pendingK anyMem, tbSumK anyMem, wfK anyMem, keep_mk]

@[simp] theorem keep_wrTaskCfg (s : State) (w : Writer) (k : TaskId) (v : Word) :
    (State.wrTaskCfg s w k v).keepOf anyMem = s.keepOf anyMem := by
  simp [State.wrTaskCfg, pendingK anyMem, tbSumK anyMem, wfK anyMem, keep_mk]

@[simp] theorem keep_wrTaskReg (s : State) (w : Writer) (r : RegKind) (c : CoreId) (v : Word) :
    (State.wrTaskReg s w r c v).keepOf anyMem = s.keepOf anyMem := by
  unfold State.wrTaskReg
  (repeat' split) <;> simp [pendingK anyMem, tbSumK anyMem, wfK anyMem, keep_mk]

@[simp] theorem keep_wrTask (s : State) (w : Writer) (r : RegKind) (c : CoreId) (v : Word) :
    (State.wrTask s w r c v).keepOf anyMem = s.keepOf anyMem := by
  simp [State.wrTask, pendingK anyMem, tbSumK anyMem, wfK anyMem, keep_mk]

@[simp] theorem keep_taskWrite (s : State) (w : Writer) (r : RegKind) (c : CoreId) (v : Word) :
    (State.taskWrite s w r c v).keepOf anyMem = s.keepOf anyMem := by
  simp [State.taskWrite, pendingK anyMem, tbSumK anyMem, wfK anyMem, keep_mk]

@[simp] theorem keep_execTaskEnable (w : Writer) (c : CoreId) (v : Word) (s : State) :
    outKeep anyMem (execTaskEnable w c v s) = some (s.keepOf anyMem) := by
  simp [execTaskEnable, pendingK anyMem, tbSumK anyMem, wfK anyMem, keep_mk]

@[simp] theorem keep_execTaskRebase (w : Writer) (c : CoreId) (s : State) :
    outKeep anyMem (execTaskRebase w c s) = some (s.keepOf anyMem) := by
  simp [execTaskRebase, pendingK anyMem, tbSumK anyMem, wfK anyMem, keep_mk]

@[simp] theorem keep_overrun (s : State) (i : Nat) :
    (State.overrun s i).keepOf anyMem = s.keepOf anyMem := by
  simp [State.overrun, pendingK anyMem, tbSumK anyMem, wfK anyMem, keep_mk]

@[simp] theorem keep_fire (s : State) (i : Nat) (tb : Word) :
    (State.fire s i tb).keepOf anyMem = s.keepOf anyMem := by
  simp [State.fire, pendingK anyMem, tbSumK anyMem, wfK anyMem, keep_mk]

@[simp] theorem keep_execEventFire (i : BitVec 12) (s : State) :
    outKeep anyMem (execEventFire i s) = some (s.keepOf anyMem) := by
  unfold execEventFire
  (repeat' split) <;> simp [pendingK anyMem, tbSumK anyMem, wfK anyMem, keep_mk]

@[simp] theorem keep_wrSwset (s : State) (v : Word) :
    (State.wrSwset s v).keepOf anyMem = s.keepOf anyMem := by
  simp [State.wrSwset, pendingK anyMem, tbSumK anyMem, wfK anyMem, keep_mk]

@[simp] theorem keep_execSoftwareEventPulse (x0 : Writer) (src : BitVec 10) (s : State) :
    outKeep anyMem (execSoftwareEventPulse x0 src s) = some (s.keepOf anyMem) := by
  simp [execSoftwareEventPulse, pendingK anyMem, tbSumK anyMem, wfK anyMem, keep_mk]

@[simp] theorem keep_execOvrcntRead (s : State) :
    outKeep anyMem (execOvrcntRead s) = some (s.keepOf anyMem) := by
  simp [execOvrcntRead, pendingK anyMem, tbSumK anyMem, wfK anyMem, keep_mk]

end Sys2Proof.Machine
end

