-- ==== Sys2Proof/Laws/KeptBusOps.lean ====
section
/-!
SUPPORT. What the functions of Machine/BusOps.lean keep.
-/

namespace Sys2Proof.Machine

set_option linter.unusedSimpArgs false

variable {anyMem : Bool}

@[simp] theorem keep_setProg (s : State) (ch : Chan) (p : Prog) :
    (State.setProg s ch p).keepOf anyMem = s.keepOf anyMem := by
  simp [State.setProg, pendingK anyMem, tbSumK anyMem, wfK anyMem, keep_mk]

@[simp] theorem keep_restLane (s : State) (ch : Chan) (lane : Nat) :
    (State.restLane s ch lane).keepOf anyMem = s.keepOf anyMem := by
  unfold State.restLane
  (repeat' split) <;> simp [pendingK anyMem, tbSumK anyMem, wfK anyMem, keep_mk]

@[simp] theorem keep_rest (s : State) (ch : Chan) (lanes : List Nat) :
    (State.rest s ch lanes).keepOf anyMem = s.keepOf anyMem := by
  simp [State.rest, pendingK anyMem, tbSumK anyMem, wfK anyMem, keep_mk]

@[simp] theorem keep_wire (s : State) (ch : Chan) (lane : Nat) (level : Bool) (c : Nat) :
    (State.wire s ch lane level c).keepOf anyMem = s.keepOf anyMem := by
  simp [State.wire, pendingK anyMem, tbSumK anyMem, wfK anyMem, keep_mk]

@[simp] theorem keep_wireBits (s : State) (ch : Chan) (lane : Nat) (bits : List Bool) (start : Nat) (per : Nat) :
    (State.wireBits s ch lane bits start per).keepOf anyMem = s.keepOf anyMem := by
  simp [State.wireBits, pendingK anyMem, tbSumK anyMem, wfK anyMem, keep_mk]

@[simp] theorem keep_sendBits (s : State) (ch : Chan) (lane : Nat) (bits : List Bool) (per : Nat) :
    (State.sendBits s ch lane bits per).keepOf anyMem = s.keepOf anyMem := by
  simp [State.sendBits, pendingK anyMem, tbSumK anyMem, wfK anyMem, keep_mk]

@[simp] theorem keep_clockedBits (s : State) (ch : Chan) (clock : Nat) (data : Nat) (bits : List (Option Bool)) (per : Nat) :
    (State.clockedBits s ch clock data bits per).keepOf anyMem = s.keepOf anyMem := by
  simp [State.clockedBits, pendingK anyMem, tbSumK anyMem, wfK anyMem, keep_mk]

@[simp] theorem keep_throughUnit (s : State) (ch : Chan) (bits : List Bool) :
    (State.throughUnit s ch bits).keepOf anyMem = s.keepOf anyMem := by
  unfold State.throughUnit
  (repeat' split) <;> simp [pendingK anyMem, tbSumK anyMem, wfK anyMem, keep_mk]

@[simp] theorem keep_activePulse (s : State) (ch : Chan) (lane : Nat) (level : Bool) (len : Nat) :
    (State.activePulse s ch lane level len).keepOf anyMem = s.keepOf anyMem := by
  simp [State.activePulse, pendingK anyMem, tbSumK anyMem, wfK anyMem, keep_mk]

@[simp] theorem keep_sinkPush (s : State) (ch : Chan) (k : Bool) (end_ : Bool) (prio : BitVec 4) (kind : BitVec 4) (v : Word) :
    (State.sinkPush s ch k end_ prio kind v).keepOf anyMem = s.keepOf anyMem := by
  unfold State.sinkPush
  (repeat' split) <;> simp [pendingK anyMem, tbSumK anyMem, wfK anyMem, keep_mk]

@[simp] theorem keep_status (s : State) (ch : Chan) (kind : BitVec 4) (v : Word) :
    (State.status s ch kind v).keepOf anyMem = s.keepOf anyMem := by
  simp [State.status, pendingK anyMem, tbSumK anyMem, wfK anyMem, keep_mk]

@[simp] theorem keep_dataWord (s : State) (ch : Chan) (end_ : Bool) (kind : BitVec 4) (v : Word) :
    (State.dataWord s ch end_ kind v).keepOf anyMem = s.keepOf anyMem := by
  simp [State.dataWord, pendingK anyMem, tbSumK anyMem, wfK anyMem, keep_mk]

@[simp] theorem keep_dataPacket (s : State) (ch : Chan) (kind : BitVec 4) (ws : List Word) :
    ((State.dataPacket s ch kind ws).keepOf anyMem) = (s.keepOf anyMem) := by
  induction ws generalizing s with
  | nil => rfl
  | cons w r ih =>
    cases r with
    | nil => simp [State.dataPacket]
    | cons w2 r2 => rw [State.dataPacket, ih] <;> simp

@[simp] theorem keep_rxError (s : State) (ch : Chan) (lane : Nat) (code : Nat) :
    (State.rxError s ch lane code).keepOf anyMem = s.keepOf anyMem := by
  simp [State.rxError, pendingK anyMem, tbSumK anyMem, wfK anyMem, keep_mk]

@[simp] theorem keep_enterState (s : State) (ch : Chan) (n : BitVec 4) :
    (State.enterState s ch n).keepOf anyMem = s.keepOf anyMem := by
  simp [State.enterState, pendingK anyMem, tbSumK anyMem, wfK anyMem, keep_mk]

@[simp] theorem keep_takePacket (s : State) (ch : Chan) (k : Bool) :
    (State.takePacket s ch k).2.keepOf anyMem = s.keepOf anyMem := by
  unfold State.takePacket
  (repeat' split) <;> simp [pendingK anyMem, tbSumK anyMem, wfK anyMem, keep_mk]

@[simp] theorem keep_control (s : State) (ch : Chan) (k : Nat) (f : State → State) (hf : ∀ t, ((f t).keepOf anyMem) = (t.keepOf anyMem)) :
    ((State.control s ch k f).keepOf anyMem) = (s.keepOf anyMem) := by
  unfold State.control
  split
  · rfl
  · split
    · rfl
    · rename_i x e
      have e2 : (x.2.keepOf anyMem) = (s.keepOf anyMem) := by
        have : ∀ y, s.nextControl ch = some y → (y.2.keepOf anyMem) = (s.keepOf anyMem) := by
          intro y hy
          unfold State.nextControl at hy
          split at hy
          · cases hy
          · rename_i q _
            have e3 : ((s.popItem q (.channel ch)).2.keepOf anyMem) = (s.keepOf anyMem) := by simp
            split at hy
            · cases hy
            · rename_i h; cases hy; rw [h] at e3; exact e3
        exact this x e
      repeat' split
      all_goals simp [hf, e2]

@[simp] theorem keep_txFail (s : State) (ch : Chan) (tries : Nat) (err : Nat) :
    (State.txFail s ch tries err).keepOf anyMem = s.keepOf anyMem := by
  simp [State.txFail, pendingK anyMem, tbSumK anyMem, wfK anyMem, keep_mk]

@[simp] theorem keep_reportLost (s : State) (ch : Chan) (n : Nat) :
    (State.reportLost s ch n).keepOf anyMem = s.keepOf anyMem := by
  simp [State.reportLost, pendingK anyMem, tbSumK anyMem, wfK anyMem, keep_mk]

@[simp] theorem keep_awaitIdle (s : State) (ch : Chan) :
    (State.awaitIdle s ch).keepOf anyMem = s.keepOf anyMem := by
  simp [State.awaitIdle, pendingK anyMem, tbSumK anyMem, wfK anyMem, keep_mk]

@[simp] theorem keep_closeEarly (s : State) (ch : Chan) (ws : List Word) :
    (State.closeEarly s ch ws).keepOf anyMem = s.keepOf anyMem := by
  simp [State.closeEarly, pendingK anyMem, tbSumK anyMem, wfK anyMem, keep_mk]

@[simp] theorem keep_received (s : State) (ch : Chan) (f : State → State) (hf : ∀ t, ((f t).keepOf anyMem) = (t.keepOf anyMem)) :
    outKeep anyMem (State.received s ch f) = some (s.keepOf anyMem) := by
  unfold State.received
  simp [hf]

end Sys2Proof.Machine
end

