-- ==== Sys2Proof/Laws/KeptCanProgram.lean ====
section
/-!
SUPPORT. What the functions of Machine/CanProgram.lean keep.
-/

namespace Sys2Proof.Machine

set_option linter.unusedSimpArgs false

variable {anyMem : Bool}

@[simp] theorem keep_canStuff (s : State) (ch : Chan) (x : CanPhase) : (s.canStuff ch x).keepOf anyMem = s.keepOf anyMem := by
  refine keep_foldl _ _ _ fun s l => ?_
  split <;> simp


@[simp] theorem keep_startCrc (s : State) (ch : Chan) :
    (State.startCrc s ch).keepOf anyMem = s.keepOf anyMem := by
  unfold State.startCrc
  (repeat' split) <;> simp [pendingK anyMem, tbSumK anyMem, wfK anyMem, keep_mk]

@[simp] theorem keep_dataBit (s : State) (ch : Chan) (bit : Bool) (b : Nat) :
    (State.dataBit s ch bit b).keepOf anyMem = s.keepOf anyMem := by
  simp [State.dataBit, pendingK anyMem, tbSumK anyMem, wfK anyMem, keep_mk]

@[simp] theorem keep_alignUnit (s : State) (ch : Chan) (c : Nat) (setB : Bool) :
    (State.alignUnit s ch c setB).keepOf anyMem = s.keepOf anyMem := by
  simp [State.alignUnit, pendingK anyMem, tbSumK anyMem, wfK anyMem, keep_mk]

@[simp] theorem keep_dataStretch (s : State) (ch : Chan) (start : Nat) (i : Nat) (sent : List Bool) (echoed : List Bool) :
    (State.dataStretch s ch start i sent echoed).keepOf anyMem = s.keepOf anyMem := by
  simp [State.dataStretch, pendingK anyMem, tbSumK anyMem, wfK anyMem, keep_mk]

@[simp] theorem keep_dataPhase (s : State) (ch : Chan) (ws : List Word) (e : CanEcho) :
    (State.dataPhase s ch ws e).keepOf anyMem = s.keepOf anyMem := by
  simp [State.dataPhase, pendingK anyMem, tbSumK anyMem, wfK anyMem, keep_mk]

@[simp] theorem keep_canPass (s : State) (ch : Chan) (x2 : List CanPhase) (x3 : List (List Bool)) :
    (State.canPass s ch x2 x3).keepOf anyMem = s.keepOf anyMem := by
  induction x2 generalizing s ch x3 with
  | nil => simp [State.canPass]
  | cons y r ih => simp only [State.canPass]; (repeat' split) <;> simp [ih, pendingK anyMem, tbSumK anyMem, wfK anyMem, keep_mk]

@[simp] theorem keep_canWire (s : State) (ch : Chan) (ws : List Word) (e : CanEcho) :
    (State.canWire s ch ws e).keepOf anyMem = s.keepOf anyMem := by
  simp [State.canWire, pendingK anyMem, tbSumK anyMem, wfK anyMem, keep_mk]

@[simp] theorem keep_errUpdate (s : State) (ch : Chan) (p : Prog) :
    (State.errUpdate s ch p).keepOf anyMem = s.keepOf anyMem := by
  simp [State.errUpdate, pendingK anyMem, tbSumK anyMem, wfK anyMem, keep_mk]

@[simp] theorem keep_acknowledge (s : State) (ch : Chan) :
    (State.acknowledge s ch).keepOf anyMem = s.keepOf anyMem := by
  simp [State.acknowledge, pendingK anyMem, tbSumK anyMem, wfK anyMem, keep_mk]

@[simp] theorem keep_errorFlag (s : State) (ch : Chan) :
    (State.errorFlag s ch).keepOf anyMem = s.keepOf anyMem := by
  simp [State.errorFlag, pendingK anyMem, tbSumK anyMem, wfK anyMem, keep_mk]

@[simp] theorem keep_canSent (s0 : State) (ch : Chan) (back : Nat) :
    (State.canSent s0 ch back).keepOf anyMem = s0.keepOf anyMem := by
  simp [State.canSent, pendingK anyMem, tbSumK anyMem, wfK anyMem, keep_mk]

@[simp] theorem keep_canAttempt (s : State) (ch : Chan) (err : Byte) :
    (State.canAttempt s ch err).keepOf anyMem = s.keepOf anyMem := by
  simp [State.canAttempt, pendingK anyMem, tbSumK anyMem, wfK anyMem, keep_mk]

@[simp] theorem keep_canFailed (s : State) (ch : Chan) (errs : List Byte) :
    (State.canFailed s ch errs).keepOf anyMem = s.keepOf anyMem := by
  simp [State.canFailed, pendingK anyMem, tbSumK anyMem, wfK anyMem, keep_mk]

@[simp] theorem keep_canTx (s : State) (ch : Chan) (r : BusResult) (e : CanEcho) :
    (State.canTx s ch r e).keepOf anyMem = s.keepOf anyMem := by
  unfold State.canTx
  (repeat' split) <;> simp [pendingK anyMem, tbSumK anyMem, wfK anyMem, keep_mk]

@[simp] theorem keep_execCanTxFrame (ch : Chan) (x : CanSent) (s : State) :
    outKeep anyMem (execCanTxFrame ch x s) = some (s.keepOf anyMem) := by
  simp [execCanTxFrame, pendingK anyMem, tbSumK anyMem, wfK anyMem, keep_mk]

@[simp] theorem keep_reintegrate (s : State) (ch : Chan) :
    (State.reintegrate s ch).keepOf anyMem = s.keepOf anyMem := by
  simp [State.reintegrate, pendingK anyMem, tbSumK anyMem, wfK anyMem, keep_mk]

@[simp] theorem keep_canRxError (s : State) (ch : Chan) (fmt : Nat) (err : Byte) (dominant : Bool) :
    (State.canRxError s ch fmt err dominant).keepOf anyMem = s.keepOf anyMem := by
  simp [State.canRxError, pendingK anyMem, tbSumK anyMem, wfK anyMem, keep_mk]

@[simp] theorem keep_canValid (s : State) (ch : Chan) (f : CanFrame) :
    (State.canValid s ch f).keepOf anyMem = s.keepOf anyMem := by
  simp [State.canValid, pendingK anyMem, tbSumK anyMem, wfK anyMem, keep_mk]

@[simp] theorem keep_canRx (s : State) (ch : Chan) (f : CanFrame) (e : FrameEnd) : (s.canRx ch f e).keepOf anyMem = s.keepOf anyMem := by
  unfold State.canRx
  dsimp only
  repeat' split
  all_goals simp


@[simp] theorem keep_execCanRxFrame (ch : Chan) (f : CanFrame) (e : FrameEnd) (s : State) :
    outKeep anyMem (execCanRxFrame ch f e s) = some (s.keepOf anyMem) := by
  unfold execCanRxFrame
  (repeat' split) <;> simp [pendingK anyMem, tbSumK anyMem, wfK anyMem, keep_mk]

@[simp] theorem keep_execBusOffRecovery (ch : Chan) (s : State) :
    outKeep anyMem (execBusOffRecovery ch s) = some (s.keepOf anyMem) := by
  simp [execBusOffRecovery, pendingK anyMem, tbSumK anyMem, wfK anyMem, keep_mk]

@[simp] theorem keep_integrate (s : State) (ch : Chan) :
    (State.integrate s ch).keepOf anyMem = s.keepOf anyMem := by
  simp [State.integrate, pendingK anyMem, tbSumK anyMem, wfK anyMem, keep_mk]

end Sys2Proof.Machine
end

