-- ==== Sys2Proof/Laws/KeptBusPrograms.lean ====
section
/-!
SUPPORT. What the functions of Machine/BusPrograms.lean keep.
-/

namespace Sys2Proof.Machine

set_option linter.unusedSimpArgs false

variable {anyMem : Bool}

@[simp] theorem keep_linSend (s : State) (ch : Chan) (bits : List Bool) (err : Byte) :
    (State.linSend s ch bits err).keepOf anyMem = s.keepOf anyMem := by
  simp [State.linSend, pendingK anyMem, tbSumK anyMem, wfK anyMem, keep_mk]

@[simp] theorem keep_linSleepFrame (s : State) (ch : Chan) :
    (State.linSleepFrame s ch).keepOf anyMem = s.keepOf anyMem := by
  simp [State.linSleepFrame, pendingK anyMem, tbSumK anyMem, wfK anyMem, keep_mk]

@[simp] theorem keep_execOnline (ch : Chan) (s : State) :
    outKeep anyMem (execOnline ch s) = some (s.keepOf anyMem) := by
  simp [execOnline, pendingK anyMem, tbSumK anyMem, wfK anyMem, keep_mk]

@[simp] theorem keep_execOffline (ch : Chan) (s : State) :
    outKeep anyMem (execOffline ch s) = some (s.keepOf anyMem) := by
  simp [execOffline, pendingK anyMem, tbSumK anyMem, wfK anyMem, keep_mk]

@[simp] theorem keep_execListen (ch : Chan) (s : State) :
    outKeep anyMem (execListen ch s) = some (s.keepOf anyMem) := by
  simp [execListen, pendingK anyMem, tbSumK anyMem, wfK anyMem, keep_mk]

@[simp] theorem keep_driveStandby (s : State) (ch : Chan) (normal : Bool) :
    (State.driveStandby s ch normal).keepOf anyMem = s.keepOf anyMem := by
  simp [State.driveStandby, pendingK anyMem, tbSumK anyMem, wfK anyMem, keep_mk]

@[simp] theorem keep_execSleep (ch : Chan) (s : State) :
    outKeep anyMem (execSleep ch s) = some (s.keepOf anyMem) := by
  simp [execSleep, pendingK anyMem, tbSumK anyMem, wfK anyMem, keep_mk]

@[simp] theorem keep_execWake (ch : Chan) (s : State) :
    outKeep anyMem (execWake ch s) = some (s.keepOf anyMem) := by
  simp [execWake, pendingK anyMem, tbSumK anyMem, wfK anyMem, keep_mk]

@[simp] theorem keep_execReadCounters (ch : Chan) (s : State) :
    outKeep anyMem (execReadCounters ch s) = some (s.keepOf anyMem) := by
  simp [execReadCounters, pendingK anyMem, tbSumK anyMem, wfK anyMem, keep_mk]

@[simp] theorem keep_execAbortTx (ch : Chan) (s : State) :
    outKeep anyMem (execAbortTx ch s) = some (s.keepOf anyMem) := by
  simp [execAbortTx, pendingK anyMem, tbSumK anyMem, wfK anyMem, keep_mk]

@[simp] theorem keep_execRecover (ch : Chan) (s : State) :
    outKeep anyMem (execRecover ch s) = some (s.keepOf anyMem) := by
  simp [execRecover, pendingK anyMem, tbSumK anyMem, wfK anyMem, keep_mk]

@[simp] theorem keep_linDeliver (s : State) (ch : Chan) (id : Nat) (n : Nat) (r : LinResponse) :
    (State.linDeliver s ch id n r).keepOf anyMem = s.keepOf anyMem := by
  simp [State.linDeliver, pendingK anyMem, tbSumK anyMem, wfK anyMem, keep_mk]

@[simp] theorem keep_linStart (s : State) (ch : Chan) (resp : Option LinResponse) (err : Byte) :
    (State.linStart s ch resp err).keepOf anyMem = s.keepOf anyMem := by
  unfold State.linStart
  dsimp only
  (repeat' split) <;> simp [pendingK anyMem, tbSumK anyMem, wfK anyMem, keep_mk]

@[simp] theorem keep_execLinFrameStart (x : LinStart) (s : State) :
    outKeep anyMem (execLinFrameStart x s) = some (s.keepOf anyMem) := by
  simp [execLinFrameStart, pendingK anyMem, tbSumK anyMem, wfK anyMem, keep_mk]

@[simp] theorem keep_linRespond (s : State) (ch : Chan) (pid : Byte) (inTime : Bool) (err : Byte) :
    (State.linRespond s ch pid inTime err).keepOf anyMem = s.keepOf anyMem := by
  unfold State.linRespond
  dsimp only
  (repeat' split) <;> simp [pendingK anyMem, tbSumK anyMem, wfK anyMem, keep_mk]

@[simp] theorem keep_linHeader (s : State) (ch : Chan) (pid : Byte) (x : LinHeard) :
    (State.linHeader s ch pid x).keepOf anyMem = s.keepOf anyMem := by
  unfold State.linHeader
  dsimp only
  (repeat' split) <;> simp [pendingK anyMem, tbSumK anyMem, wfK anyMem, keep_mk]

@[simp] theorem keep_execLinHeaderRx (ch : Chan) (pid : Byte) (x : LinHeard) (s : State) :
    outKeep anyMem (execLinHeaderRx ch pid x s) = some (s.keepOf anyMem) := by
  simp [execLinHeaderRx, pendingK anyMem, tbSumK anyMem, wfK anyMem, keep_mk]

@[simp] theorem keep_execLinResponseTimeout (ch : Chan) (s : State) :
    outKeep anyMem (execLinResponseTimeout ch s) = some (s.keepOf anyMem) := by
  simp [execLinResponseTimeout, pendingK anyMem, tbSumK anyMem, wfK anyMem, keep_mk]

@[simp] theorem keep_takeStamps (s : State) (ch : Chan) (lane : Nat) :
    (State.takeStamps s ch lane).keepOf anyMem = s.keepOf anyMem := by
  unfold State.takeStamps
  (repeat' split) <;> simp [pendingK anyMem, tbSumK anyMem, wfK anyMem, keep_mk]

@[simp] theorem keep_sentMessage (s0 : State) (ch : Chan) (lane : BitVec 2) (back : Nat) (cal : Nat) (pulses : List Nat) :
    (State.sentMessage s0 ch lane back cal pulses).keepOf anyMem = s0.keepOf anyMem := by
  unfold State.sentMessage
  dsimp only
  (repeat' split) <;> simp [pendingK anyMem, tbSumK anyMem, wfK anyMem, keep_mk]

@[simp] theorem keep_execSentMessage (ch : Chan) (lane : BitVec 2) (back : Nat) (cal : Nat) (pulses : List Nat) (s : State) :
    outKeep anyMem (execSentMessage ch lane back cal pulses s) = some (s.keepOf anyMem) := by
  simp [execSentMessage, pendingK anyMem, tbSumK anyMem, wfK anyMem, keep_mk]

@[simp] theorem keep_slowMessage (s : State) (ch : Chan) (lane : BitVec 2) (id : Byte) (data : BitVec 16) :
    (State.slowMessage s ch lane id data).keepOf anyMem = s.keepOf anyMem := by
  unfold State.slowMessage
  dsimp only
  (repeat' split) <;> simp [pendingK anyMem, tbSumK anyMem, wfK anyMem, keep_mk]

@[simp] theorem keep_execSentSlowMessage (ch : Chan) (lane : BitVec 2) (id : Byte) (data : BitVec 16) (s : State) :
    outKeep anyMem (execSentSlowMessage ch lane id data s) = some (s.keepOf anyMem) := by
  simp [execSentSlowMessage, pendingK anyMem, tbSumK anyMem, wfK anyMem, keep_mk]

@[simp] theorem keep_psi5Frame (s : State) (ch : Chan) (slot : BitVec 2) (start : Nat) (bits : List (Option Bool)) :
    (State.psi5Frame s ch slot start bits).keepOf anyMem = s.keepOf anyMem := by
  unfold State.psi5Frame
  (repeat' split) <;> simp [pendingK anyMem, tbSumK anyMem, wfK anyMem, keep_mk]

@[simp] theorem keep_execPsi5Frame (ch : Chan) (slot : BitVec 2) (x : Psi5Bits) (s : State) :
    outKeep anyMem (execPsi5Frame ch slot x s) = some (s.keepOf anyMem) := by
  simp [execPsi5Frame, pendingK anyMem, tbSumK anyMem, wfK anyMem, keep_mk]

@[simp] theorem keep_execPsi5SlotEnd (ch : Chan) (slot : BitVec 2) (s : State) :
    outKeep anyMem (execPsi5SlotEnd ch slot s) = some (s.keepOf anyMem) := by
  simp [execPsi5SlotEnd, pendingK anyMem, tbSumK anyMem, wfK anyMem, keep_mk]

@[simp] theorem keep_packetTo (s : State) (ch : Chan) (q : Qid) (x3 : List Word) :
    (State.packetTo s ch q x3).keepOf anyMem = s.keepOf anyMem := by
  induction x3 generalizing s ch q with
  | nil => simp [State.packetTo]
  | cons y r ih => simp only [State.packetTo]; (repeat' split) <;> simp [ih, pendingK anyMem, tbSumK anyMem, wfK anyMem, keep_mk]

@[simp] theorem keep_passGrid (s : State) (ch : Chan) (grid : List MiiGrid) :
    (State.passGrid s ch grid).keepOf anyMem = s.keepOf anyMem := by
  simp [State.passGrid, pendingK anyMem, tbSumK anyMem, wfK anyMem, keep_mk]

@[simp] theorem keep_driveNibble (s : State) (ch : Chan) (n : BitVec 4) (c : Nat) :
    (State.driveNibble s ch n c).keepOf anyMem = s.keepOf anyMem := by
  simp [State.driveNibble, pendingK anyMem, tbSumK anyMem, wfK anyMem, keep_mk]

@[simp] theorem keep_driveNibbles (s : State) (ch : Chan) (ns : List (BitVec 4)) (grid : List MiiGrid) :
    (State.driveNibbles s ch ns grid).keepOf anyMem = s.keepOf anyMem := by
  simp [State.driveNibbles, pendingK anyMem, tbSumK anyMem, wfK anyMem, keep_mk]

@[simp] theorem keep_t1sFailed (s : State) (ch : Chan) (errs : List Byte) :
    (State.t1sFailed s ch errs).keepOf anyMem = s.keepOf anyMem := by
  simp [State.t1sFailed, pendingK anyMem, tbSumK anyMem, wfK anyMem, keep_mk]

@[simp] theorem keep_t1sBeacon (s : State) (ch : Chan) :
    (State.t1sBeacon s ch).keepOf anyMem = s.keepOf anyMem := by
  simp [State.t1sBeacon, pendingK anyMem, tbSumK anyMem, wfK anyMem, keep_mk]

@[simp] theorem keep_t1sSend (s : State) (ch : Chan) (ws : List Word) (r : BusResult) (grid : List MiiGrid) :
    (State.t1sSend s ch ws r grid).keepOf anyMem = s.keepOf anyMem := by
  unfold State.t1sSend
  (repeat' split) <;> simp [pendingK anyMem, tbSumK anyMem, wfK anyMem, keep_mk]

@[simp] theorem keep_t1sTx (s0 : State) (ch : Chan) (r : BusResult) (grid : List MiiGrid) :
    (State.t1sTx s0 ch r grid).keepOf anyMem = s0.keepOf anyMem := by
  unfold State.t1sTx
  dsimp only
  (repeat' split) <;> simp [pendingK anyMem, tbSumK anyMem, wfK anyMem, keep_mk]

@[simp] theorem keep_execT1sTxFrame (ch : Chan) (x : T1sSent) (s : State) :
    outKeep anyMem (execT1sTxFrame ch x s) = some (s.keepOf anyMem) := by
  simp [execT1sTxFrame, pendingK anyMem, tbSumK anyMem, wfK anyMem, keep_mk]

@[simp] theorem keep_throughSink (s : State) (ch : Chan) (bytes : List Byte) :
    (State.throughSink s ch bytes).keepOf anyMem = s.keepOf anyMem := by
  unfold State.throughSink
  dsimp only
  (repeat' split) <;> simp [pendingK anyMem, tbSumK anyMem, wfK anyMem, keep_mk]

theorem keep_serviceDeliver (s t : State) (u : Tid) (q : Qid) (ws : List Word) (h : s.serviceDeliver u q ws = some t) :
    t.keepOf anyMem = s.keepOf anyMem := by
  induction ws generalizing s with
  | nil => simp only [State.serviceDeliver, Option.some.injEq] at h; rw [h]
  | cons w r ih =>
    simp only [State.serviceDeliver] at h
    split at h
    · rw [ih _ h]
      split <;> simp
    · cases h

@[simp] theorem keep_t1sRx (s : State) (ch : Chan) (dest : Qid) (back : Nat) (x : T1sHeard) :
    (s.t1sRx ch dest back x).keepOf anyMem = s.keepOf anyMem := by
  have h0 : (if x.beacon then s.setProg ch { s.prog ch with beaconAt := s.ns } else s).keepOf anyMem = s.keepOf anyMem := by
    split <;> simp
  unfold State.t1sRx
  dsimp only
  rw [← h0]
  generalize (if x.beacon then s.setProg ch { s.prog ch with beaconAt := s.ns } else s) = u
  repeat' split
  all_goals first
    | (simp; done)
    | (rename_i h; rw [keep_serviceDeliver _ _ _ _ _ h]; simp)

@[simp] theorem keep_execT1sRxFrame (ch : Chan) (dest : Qid) (back : Nat) (x : T1sHeard) (s : State) :
    outKeep anyMem (execT1sRxFrame ch dest back x s) = some (s.keepOf anyMem) := by
  unfold execT1sRxFrame
  (repeat' split) <;> simp [pendingK anyMem, tbSumK anyMem, wfK anyMem, keep_mk]

@[simp] theorem keep_execT1sBeaconMissing (ch : Chan) (s : State) :
    outKeep anyMem (execT1sBeaconMissing ch s) = some (s.keepOf anyMem) := by
  simp [execT1sBeaconMissing, pendingK anyMem, tbSumK anyMem, wfK anyMem, keep_mk]

@[simp] theorem keep_transfer (s : State) (ch : Chan) (lanes : List Nat) (f : State → List Word → State)
    (hf : ∀ t ws, (f t ws).keepOf anyMem = t.keepOf anyMem) : (s.transfer ch lanes f).keepOf anyMem = s.keepOf anyMem := by
  unfold State.transfer
  dsimp only
  repeat' split
  all_goals simp [hf]


@[simp] theorem keep_readBack (s : State) (ch : Chan) (ws : List Word) :
    (State.readBack s ch ws).keepOf anyMem = s.keepOf anyMem := by
  simp [State.readBack, pendingK anyMem, tbSumK anyMem, wfK anyMem, keep_mk]

@[simp] theorem keep_execMdioTransfer (ch : Chan) (rdata : BitVec 16) (s : State) :
    outKeep anyMem (execMdioTransfer ch rdata s) = some (s.keepOf anyMem) := by
  simp [execMdioTransfer, pendingK anyMem, tbSumK anyMem, wfK anyMem, keep_mk]

@[simp] theorem keep_spiWire (s : State) (ch : Chan) (ws : List Word) (rdata : List Word) :
    (State.spiWire s ch ws rdata).keepOf anyMem = s.keepOf anyMem := by
  simp [State.spiWire, pendingK anyMem, tbSumK anyMem, wfK anyMem, keep_mk]

@[simp] theorem keep_execSpiTransfer (ch : Chan) (rdata : List Word) (s : State) :
    outKeep anyMem (execSpiTransfer ch rdata s) = some (s.keepOf anyMem) := by
  simp [execSpiTransfer, pendingK anyMem, tbSumK anyMem, wfK anyMem, keep_mk]

@[simp] theorem keep_execTwsTransfer (ch : Chan) (r : BusResult) (rdata : List Byte) (s : State) :
    outKeep anyMem (execTwsTransfer ch r rdata s) = some (s.keepOf anyMem) := by
  unfold execTwsTransfer
  (repeat' split) <;> simp [pendingK anyMem, tbSumK anyMem, wfK anyMem, keep_mk]

@[simp] theorem keep_takeWord (s : State) (ch : Chan) :
    (State.takeWord s ch).2.keepOf anyMem = s.keepOf anyMem := by
  unfold State.takeWord
  (repeat' split) <;> simp [pendingK anyMem, tbSumK anyMem, wfK anyMem, keep_mk]

@[simp] theorem keep_uartSend (s : State) (ch : Chan) (w : Word) :
    (State.uartSend s ch w).keepOf anyMem = s.keepOf anyMem := by
  simp [State.uartSend, pendingK anyMem, tbSumK anyMem, wfK anyMem, keep_mk]

@[simp] theorem keep_uartTx (s : State) (ch : Chan) :
    (State.uartTx s ch).keepOf anyMem = s.keepOf anyMem := by
  unfold State.uartTx
  dsimp only
  (repeat' split) <;> simp [pendingK anyMem, tbSumK anyMem, wfK anyMem, keep_mk]

@[simp] theorem keep_execUartTx (ch : Chan) (s : State) :
    outKeep anyMem (execUartTx ch s) = some (s.keepOf anyMem) := by
  simp [execUartTx, pendingK anyMem, tbSumK anyMem, wfK anyMem, keep_mk]

@[simp] theorem keep_uartRx (s0 : State) (ch : Chan) (char : BitVec 9) (err : Byte) :
    (State.uartRx s0 ch char err).keepOf anyMem = s0.keepOf anyMem := by
  simp [State.uartRx, pendingK anyMem, tbSumK anyMem, wfK anyMem, keep_mk]

@[simp] theorem keep_execUartRx (ch : Chan) (char : BitVec 9) (err : Byte) (s : State) :
    outKeep anyMem (execUartRx ch char err s) = some (s.keepOf anyMem) := by
  simp [execUartRx, pendingK anyMem, tbSumK anyMem, wfK anyMem, keep_mk]

@[simp] theorem keep_pwmPull (s : State) (ch : Chan) :
    (State.pwmPull s ch).keepOf anyMem = s.keepOf anyMem := by
  simp [State.pwmPull, pendingK anyMem, tbSumK anyMem, wfK anyMem, keep_mk]

@[simp] theorem keep_pwmCycle (s : State) (ch : Chan) : (s.pwmCycle ch).keepOf anyMem = s.keepOf anyMem := by
  unfold State.pwmCycle
  split
  · rfl
  split
  · simp
  have h1 : ∀ b : Bool, (if b then s.pwmPull ch else s).keepOf anyMem = s.keepOf anyMem := fun b => by split <;> simp
  dsimp only
  rw [← h1 ((s.prog ch).pwmAt.all fun t => decide (t + optPeriod ch ≤ s.cycle))]
  generalize (if (s.prog ch).pwmAt.all fun t => decide (t + optPeriod ch ≤ s.cycle) then s.pwmPull ch else s) = u
  split
  · rfl
  · rw [keep_foldl]
    · simp
    · intro v l
      split
      · rfl
      · split <;> simp

@[simp] theorem keep_integrateAll (s : State) :
    (State.integrateAll s).keepOf anyMem = s.keepOf anyMem := by
  simp [State.integrateAll, pendingK anyMem, tbSumK anyMem, wfK anyMem, keep_mk]

@[simp] theorem keep_capturePush (s : State) (ch : Chan) (type : BitVec 4) (v : Word) :
    (State.capturePush s ch type v).keepOf anyMem = s.keepOf anyMem := by
  simp [State.capturePush, pendingK anyMem, tbSumK anyMem, wfK anyMem, keep_mk]

@[simp] theorem keep_hall (s : State) (ch : Chan) (h : BitVec 3) :
    (State.hall s ch h).keepOf anyMem = s.keepOf anyMem := by
  simp [State.hall, pendingK anyMem, tbSumK anyMem, wfK anyMem, keep_mk]

@[simp] theorem keep_execHallSectorChange (ch : Chan) (hall : BitVec 3) (s : State) :
    outKeep anyMem (execHallSectorChange ch hall s) = some (s.keepOf anyMem) := by
  simp [execHallSectorChange, pendingK anyMem, tbSumK anyMem, wfK anyMem, keep_mk]

@[simp] theorem keep_execZeroCrossing (ch : Chan) (lane : BitVec 2) (s : State) :
    outKeep anyMem (execZeroCrossing ch lane s) = some (s.keepOf anyMem) := by
  simp [execZeroCrossing, pendingK anyMem, tbSumK anyMem, wfK anyMem, keep_mk]

@[simp] theorem keep_quadStep (s : State) (ch : Chan) (a : Bool) (b : Bool) (z : Bool) :
    (State.quadStep s ch a b z).keepOf anyMem = s.keepOf anyMem := by
  simp [State.quadStep, pendingK anyMem, tbSumK anyMem, wfK anyMem, keep_mk]

@[simp] theorem keep_execQuadcapTransition (ch : Chan) (a : Bool) (b : Bool) (z : Bool) (s : State) :
    outKeep anyMem (execQuadcapTransition ch a b z s) = some (s.keepOf anyMem) := by
  simp [execQuadcapTransition, pendingK anyMem, tbSumK anyMem, wfK anyMem, keep_mk]

@[simp] theorem keep_writePartner (s : State) (t : Tid) (a : Nat) (key addr reply dest deadline : Word)
    (h : (s.keepOf anyMem).2.2 = true) : (s.writePartner t a key addr reply dest deadline).keepOf anyMem = s.keepOf anyMem := by
  unfold State.writePartner
  exact keep_foldl_wf _ _ _ h fun s x hs => by simp [hs]


@[simp] theorem keep_tableSession (s : State) (t : Tid) (b : BankId) (base : Word) (key : Word) (addr : Word) (reply : Word) (dest : Word) (deadline : Word) (h : (s.keepOf anyMem).2.2 = true) :
    (State.tableSession s t b base key addr reply dest deadline).keepOf anyMem = s.keepOf anyMem := by
  unfold State.tableSession
  dsimp only
  (repeat' split) <;> simp [pendingK anyMem, tbSumK anyMem, wfK anyMem, keep_mk, h, Prod.ext_iff]

@[simp] theorem keep_openSession (s : State) (t : Tid) (key addr reply dest deadline : Word) (h : (s.keepOf anyMem).2.2 = true) :
    (s.openSession t key addr reply dest deadline).keepOf anyMem = s.keepOf anyMem := by
  unfold State.openSession
  dsimp only
  repeat' split
  all_goals simp [h]


@[simp] theorem keep_execPartnerSessionOpen (t : Tid) (key : Word) (addr : Word) (reply : Word) (dest : Word) (deadline : Word) (s : State) (h : (s.keepOf anyMem).2.2 = true) :
    outKeep anyMem (execPartnerSessionOpen t key addr reply dest deadline s) = some (s.keepOf anyMem) := by
  simp [execPartnerSessionOpen, pendingK anyMem, tbSumK anyMem, wfK anyMem, keep_mk, h, Prod.ext_iff]

end Sys2Proof.Machine
end

