-- ==== Sys2Proof/Laws/KeptChainOps.lean ====
section
/-!
SUPPORT. What the functions of Machine/ChainOps.lean keep.
-/

namespace Sys2Proof.Machine

set_option linter.unusedSimpArgs false

variable {anyMem : Bool}

@[simp] theorem keep_slagFlit (s : State) (reason : BitVec 4) (f : Flit) :
    (State.slagFlit s reason f).keepOf anyMem = s.keepOf anyMem := by
  simp [State.slagFlit, pendingK anyMem, tbSumK anyMem, wfK anyMem, keep_mk]

@[simp] theorem keep_stopAge (s : State) (f : Flit) :
    (State.stopAge s f).keepOf anyMem = s.keepOf anyMem := by
  simp [State.stopAge, pendingK anyMem, tbSumK anyMem, wfK anyMem, keep_mk]

@[simp] theorem keep_stopHops (s : State) (f : Flit) :
    (State.stopHops s f).keepOf anyMem = s.keepOf anyMem := by
  simp [State.stopHops, pendingK anyMem, tbSumK anyMem, wfK anyMem, keep_mk]

@[simp] theorem keep_noRoute (s : State) (f : Flit) :
    (State.noRoute s f).keepOf anyMem = s.keepOf anyMem := by
  simp [State.noRoute, pendingK anyMem, tbSumK anyMem, wfK anyMem, keep_mk]

@[simp] theorem keep_deliverItem (s : State) (src : Node) (r : List Word) : ((State.deliverItem s src r).keepOf anyMem) = (s.keepOf anyMem) := by
  unfold State.deliverItem
  dsimp only
  generalize (if (r.getD 0 0).getLsbD 30 && (r.getD 0 0).getLsbD 29 then
      putBits (if (r.getD 0 0).getLsbD 30 then r.getD 1 0 else 0) 16 9 (s.fld F.qeQcfg_READER (recordQid r).toNat)
    else if (r.getD 0 0).getLsbD 30 then r.getD 1 0 else 0) = role
  have e := keep_push (anyMem := anyMem) s (recordQid r) (withSender (recordItem r) (senderRemote src)) ownerChain role
  revert e
  cases s.push (recordQid r) (withSender (recordItem r) (senderRemote src)) ownerChain role with
  | mk a s1 => intro e; cases a <;> simp at e ⊢ <;> exact e

@[simp] theorem keep_remoteWritesN (x0 : Nat) (x1 : State) (h : (x1.keepOf anyMem).2.2 = true) :
    (remoteWritesN x0 x1).keepOf anyMem = x1.keepOf anyMem := by
  induction x0 generalizing x1 with
  | zero => simp [remoteWritesN, h]
  | succ n ih => simp only [remoteWritesN]; (repeat' split) <;> simp [ih, pendingK anyMem, tbSumK anyMem, wfK anyMem, keep_mk, h, Prod.ext_iff]

@[simp] theorem keep_remoteWrites (s : State) (h : (s.keepOf anyMem).2.2 = true) :
    (State.remoteWrites s).keepOf anyMem = s.keepOf anyMem := by
  simp [State.remoteWrites, pendingK anyMem, tbSumK anyMem, wfK anyMem, keep_mk, h, Prod.ext_iff]

@[simp] theorem keep_deliver (s : State) (m : Parked) (h : (s.keepOf anyMem).2.2 = true) :
    (State.deliver s m).keepOf anyMem = s.keepOf anyMem := by
  simp [State.deliver, pendingK anyMem, tbSumK anyMem, wfK anyMem, keep_mk, h, Prod.ext_iff]

@[simp] theorem keep_toTunnel (s : State) (m : Parked) :
    (State.toTunnel s m).keepOf anyMem = s.keepOf anyMem := by
  unfold State.toTunnel
  dsimp only
  (repeat' split) <;> simp [pendingK anyMem, tbSumK anyMem, wfK anyMem, keep_mk]

@[simp] theorem keep_dispatch (s : State) (m : Parked) (h : (s.keepOf anyMem).2.2 = true) :
    (State.dispatch s m).keepOf anyMem = s.keepOf anyMem := by
  unfold State.dispatch
  (repeat' split) <;> simp [pendingK anyMem, tbSumK anyMem, wfK anyMem, keep_mk, h, Prod.ext_iff]

@[simp] theorem keep_forward (s : State) (f : Flit) (d : Nat) (place : Option (LaneId × BitVec 2)) (h : (s.keepOf anyMem).2.2 = true) :
    (State.forward s f d place).keepOf anyMem = s.keepOf anyMem := by
  simp [State.forward, pendingK anyMem, tbSumK anyMem, wfK anyMem, keep_mk, h, Prod.ext_iff]

@[simp] theorem keep_drainEgressN (departs : Bool) (x1 : Nat) (x2 : State) (h : (x2.keepOf anyMem).2.2 = true) :
    (drainEgressN departs x1 x2).keepOf anyMem = x2.keepOf anyMem := by
  induction x1 generalizing departs x2 with
  | zero => simp [drainEgressN, h]
  | succ n ih => simp only [drainEgressN]; (repeat' split) <;> simp [ih, pendingK anyMem, tbSumK anyMem, wfK anyMem, keep_mk, h, Prod.ext_iff]

@[simp] theorem keep_wakeEgress (s : State) :
    (State.wakeEgress s).keepOf anyMem = s.keepOf anyMem := by
  simp [State.wakeEgress, pendingK anyMem, tbSumK anyMem, wfK anyMem, keep_mk]

@[simp] theorem keep_drainEgress (s : State) (h : (s.keepOf anyMem).2.2 = true) :
    (State.drainEgress s).keepOf anyMem = s.keepOf anyMem := by
  simp [State.drainEgress, pendingK anyMem, tbSumK anyMem, wfK anyMem, keep_mk, h, Prod.ext_iff]

@[simp] theorem keep_egressPush (s : State) (d : Node) (q : Qid) (rchk : Bool) (rdr : Bool) (role : Word) (item : BitVec 64) (h : (s.keepOf anyMem).2.2 = true) :
    (State.egressPush s d q rchk rdr role item).2.keepOf anyMem = s.keepOf anyMem := by
  unfold State.egressPush
  (repeat' split) <;> simp [pendingK anyMem, tbSumK anyMem, wfK anyMem, keep_mk, h, Prod.ext_iff]

@[simp] theorem keep_closeRun (s : State) (h : (s.keepOf anyMem).2.2 = true) :
    (State.closeRun s).keepOf anyMem = s.keepOf anyMem := by
  unfold State.closeRun
  (repeat' split) <;> simp [pendingK anyMem, tbSumK anyMem, wfK anyMem, keep_mk, h, Prod.ext_iff]

@[simp] theorem keep_endRun (s : State) (c : CoreId) (h : (s.keepOf anyMem).2.2 = true) :
    (State.endRun s c).keepOf anyMem = s.keepOf anyMem := by
  simp [State.endRun, pendingK anyMem, tbSumK anyMem, wfK anyMem, keep_mk, h, Prod.ext_iff]

@[simp] theorem keep_chainStore (s : State) (c : CoreId) (d : Node) (i : Nat) (v : Word) (h : (s.keepOf anyMem).2.2 = true) :
    (State.chainStore s c d i v).keepOf anyMem = s.keepOf anyMem := by
  unfold State.chainStore
  (repeat' split) <;> simp [pendingK anyMem, tbSumK anyMem, wfK anyMem, keep_mk, h, Prod.ext_iff]

@[simp] theorem keep_snapshot (s : State) (n : BaseId) :
    (State.snapshot s n).2.keepOf anyMem = s.keepOf anyMem := by
  simp [State.snapshot, pendingK anyMem, tbSumK anyMem, wfK anyMem, keep_mk]

@[simp] theorem keep_copyStates (s : State) : ((State.copyStates s).2.keepOf anyMem) = (s.keepOf anyMem) := by
  unfold State.copyStates
  exact keep_foldl_snd _ _ ([], s) fun a n => by simp

@[simp] theorem keep_feedOne (s : State) :
    (State.feedOne s).keepOf anyMem = s.keepOf anyMem := by
  unfold State.feedOne
  dsimp only
  (repeat' split) <;> simp [pendingK anyMem, tbSumK anyMem, wfK anyMem, keep_mk]

@[simp] theorem keep_feedN (x0 : Nat) (x1 : State) :
    (feedN x0 x1).keepOf anyMem = x1.keepOf anyMem := by
  induction x0 generalizing x1 with
  | zero => simp [feedN]
  | succ n ih => simp only [feedN]; (repeat' split) <;> simp [ih, pendingK anyMem, tbSumK anyMem, wfK anyMem, keep_mk]

@[simp] theorem keep_feedCopy (s : State) :
    (State.feedCopy s).keepOf anyMem = s.keepOf anyMem := by
  simp [State.feedCopy, pendingK anyMem, tbSumK anyMem, wfK anyMem, keep_mk]

@[simp] theorem keep_drainAll (s : State) (h : (s.keepOf anyMem).2.2 = true) :
    (State.drainAll s).keepOf anyMem = s.keepOf anyMem := by
  simp [State.drainAll, pendingK anyMem, tbSumK anyMem, wfK anyMem, keep_mk, h, Prod.ext_iff]

@[simp] theorem keep_tryInit (s : State) (l : LaneId) :
    (State.tryInit s l).keepOf anyMem = s.keepOf anyMem := by
  simp [State.tryInit, pendingK anyMem, tbSumK anyMem, wfK anyMem, keep_mk]

@[simp] theorem keep_tryUp (s : State) (l : LaneId) (h : (s.keepOf anyMem).2.2 = true) :
    (State.tryUp s l).keepOf anyMem = s.keepOf anyMem := by
  simp [State.tryUp, pendingK anyMem, tbSumK anyMem, wfK anyMem, keep_mk, h, Prod.ext_iff]

@[simp] theorem keep_loseItems (s : State) (f : Flit) :
    (State.loseItems s f).keepOf anyMem = s.keepOf anyMem := by
  simp [State.loseItems, pendingK anyMem, tbSumK anyMem, wfK anyMem, keep_mk]

@[simp] theorem keep_forgetPlaces (s : State) (l : LaneId) :
    (State.forgetPlaces s l).keepOf anyMem = s.keepOf anyMem := by
  simp [State.forgetPlaces, pendingK anyMem, tbSumK anyMem, wfK anyMem, keep_mk]

@[simp] theorem keep_laneDown (s : State) (l : LaneId) (cause : Nat) (h : (s.keepOf anyMem).2.2 = true) :
    ((State.laneDown s l cause).keepOf anyMem) = (s.keepOf anyMem) := by
  unfold State.laneDown
  dsimp only
  split
  · rfl
  · simp
  · have c : ∀ (u : State) (fs : List Flit), ((fs.foldl (fun s f => s.loseItems f) u).keepOf anyMem) = (u.keepOf anyMem) := fun u fs =>
      keep_foldl _ _ _ fun s l => by simp
    have d : ∀ (u : State) (ms : List Parked), (u.keepOf anyMem) = (s.keepOf anyMem) →
        ((ms.foldl (fun s m => s.dispatch m) u).keepOf anyMem) = (s.keepOf anyMem) := fun u ms e => by
      rw [keep_foldl_wf _ _ _ (by rw [e]; exact h) (fun s x hx => by simp [hx])]; exact e
    apply d
    rw [c]
    simp [keep_mk, pendingK anyMem, tbSumK anyMem, wfK anyMem]

@[simp] theorem keep_takeLinks (s : State) (l : LaneId) (room : Nat) :
    (State.takeLinks s l room).2.keepOf anyMem = s.keepOf anyMem := by
  unfold State.takeLinks
  dsimp only
  (repeat' split) <;> simp [pendingK anyMem, tbSumK anyMem, wfK anyMem, keep_mk]

@[simp] theorem keep_departing (s : State) (f : Flit) :
    (State.departing s f).2.keepOf anyMem = s.keepOf anyMem := by
  unfold State.departing
  (repeat' split) <;> simp [pendingK anyMem, tbSumK anyMem, wfK anyMem, keep_mk]

@[simp] theorem keep_nextFlit (s : State) (l : LaneId) :
    (State.nextFlit s l).2.keepOf anyMem = s.keepOf anyMem := by
  unfold State.nextFlit
  dsimp only
  (repeat' split) <;> simp [pendingK anyMem, tbSumK anyMem, wfK anyMem, keep_mk]

@[simp] theorem keep_takeFlits (s : State) (l : LaneId) (n : Nat) : (s.takeFlits l n).2.keepOf anyMem = s.keepOf anyMem := by
  induction n generalizing s with
  | zero => rfl
  | succ n ih =>
    have h := keep_nextFlit (anyMem := anyMem) s l
    simp only [State.takeFlits]
    split <;> rename_i e <;> rw [e] at h
    · exact h
    · simpa [ih] using h

@[simp] theorem keep_dropAged (s : State) (l : LaneId) :
    (State.dropAged s l).keepOf anyMem = s.keepOf anyMem := by
  simp [State.dropAged, pendingK anyMem, tbSumK anyMem, wfK anyMem, keep_mk]

@[simp] theorem keep_laneCodeword (s : State) (l : LaneId) (k : Nat) (h : (s.keepOf anyMem).2.2 = true) :
    (State.laneCodeword s l k).keepOf anyMem = s.keepOf anyMem := by
  simp [State.laneCodeword, pendingK anyMem, tbSumK anyMem, wfK anyMem, keep_mk, h, Prod.ext_iff]

@[simp] theorem keep_chainTick (s : State) (h : (s.keepOf anyMem).2.2 = true) : s.chainTick.keepOf anyMem = s.keepOf anyMem := by
  have e : ∀ (n : Nat) (u : State), u.keepOf anyMem = s.keepOf anyMem → (drainEgressN true n u).keepOf anyMem = s.keepOf anyMem :=
    fun n u hu => by rw [keep_drainEgressN _ _ _ (by rw [hu]; exact h), hu]
  unfold State.chainTick
  dsimp only
  split
  · rfl
  · have hd := e s.closeRun.chain.egress.length s.closeRun (keep_closeRun _ h)
    rw [keep_feedCopy, keep_wakeEgress, keep_foldl_wf _ _ _ (by rw [hd]; exact h) (fun u l hu => keep_laneCodeword _ _ _ hu), hd]

@[simp] theorem keep_pairNotice (s : State) (code : Nat) :
    (State.pairNotice s code).keepOf anyMem = s.keepOf anyMem := by
  simp [State.pairNotice, pendingK anyMem, tbSumK anyMem, wfK anyMem, keep_mk]

@[simp] theorem keep_setDiverged (s : State) :
    (State.setDiverged s).keepOf anyMem = s.keepOf anyMem := by
  simp [State.setDiverged, pendingK anyMem, tbSumK anyMem, wfK anyMem, keep_mk]

end Sys2Proof.Machine
end

