-- ==== Sys2Proof/Laws/KeptChainControl.lean ====
section
/-!
SUPPORT. What the functions of Machine/ChainControl.lean keep.
-/

namespace Sys2Proof.Machine

set_option linter.unusedSimpArgs false

variable {anyMem : Bool}

@[simp] theorem keep_wrLctl (s : State) (w : Writer) (l : LaneId) (v : Word) (h : (s.keepOf anyMem).2.2 = true) :
    (State.wrLctl s w l v).keepOf anyMem = s.keepOf anyMem := by
  simp [State.wrLctl, pendingK anyMem, tbSumK anyMem, wfK anyMem, keep_mk, h, Prod.ext_iff]

@[simp] theorem keep_execLaneEnableWrite (w : Writer) (l : LaneId) (v : Word) (s : State) (h : (s.keepOf anyMem).2.2 = true) :
    outKeep anyMem (execLaneEnableWrite w l v s) = some (s.keepOf anyMem) := by
  simp [execLaneEnableWrite, pendingK anyMem, tbSumK anyMem, wfK anyMem, keep_mk, h, Prod.ext_iff]

@[simp] theorem keep_execLaneInit (l : LaneId) (s : State) :
    outKeep anyMem (execLaneInit l s) = some (s.keepOf anyMem) := by
  simp [execLaneInit, pendingK anyMem, tbSumK anyMem, wfK anyMem, keep_mk]

@[simp] theorem keep_execInitFlitTimer (l : LaneId) (s : State) :
    outKeep anyMem (execInitFlitTimer l s) = some (s.keepOf anyMem) := by
  simp [execInitFlitTimer, pendingK anyMem, tbSumK anyMem, wfK anyMem, keep_mk]

@[simp] theorem keep_initRx (s : State) (l : LaneId) (f : Flit) (h : (s.keepOf anyMem).2.2 = true) :
    (State.initRx s l f).keepOf anyMem = s.keepOf anyMem := by
  simp [State.initRx, pendingK anyMem, tbSumK anyMem, wfK anyMem, keep_mk, h, Prod.ext_iff]

@[simp] theorem keep_execLaneSignalLoss (l : LaneId) (s : State) (h : (s.keepOf anyMem).2.2 = true) :
    outKeep anyMem (execLaneSignalLoss l s) = some (s.keepOf anyMem) := by
  simp [execLaneSignalLoss, pendingK anyMem, tbSumK anyMem, wfK anyMem, keep_mk, h, Prod.ext_iff]

@[simp] theorem keep_execCodewordTimeout (l : LaneId) (s : State) (h : (s.keepOf anyMem).2.2 = true) :
    outKeep anyMem (execCodewordTimeout l s) = some (s.keepOf anyMem) := by
  simp [execCodewordTimeout, pendingK anyMem, tbSumK anyMem, wfK anyMem, keep_mk, h, Prod.ext_iff]

@[simp] theorem keep_execCodewordAlignmentLock (l : LaneId) (s : State) :
    outKeep anyMem (execCodewordAlignmentLock l s) = some (s.keepOf anyMem) := by
  simp [execCodewordAlignmentLock, pendingK anyMem, tbSumK anyMem, wfK anyMem, keep_mk]

@[simp] theorem keep_laneFault (s : State) (l : LaneId) (h : (s.keepOf anyMem).2.2 = true) :
    (State.laneFault s l).keepOf anyMem = s.keepOf anyMem := by
  simp [State.laneFault, pendingK anyMem, tbSumK anyMem, wfK anyMem, keep_mk, h, Prod.ext_iff]

@[simp] theorem keep_creditRx (s : State) (l : LaneId) (f : Flit) :
    (State.creditRx s l f).keepOf anyMem = s.keepOf anyMem := by
  simp [State.creditRx, pendingK anyMem, tbSumK anyMem, wfK anyMem, keep_mk]

@[simp] theorem keep_execProbeTimer (l : LaneId) (s : State) :
    outKeep anyMem (execProbeTimer l s) = some (s.keepOf anyMem) := by
  simp [execProbeTimer, pendingK anyMem, tbSumK anyMem, wfK anyMem, keep_mk]

@[simp] theorem keep_probeRx (s : State) (l : LaneId) (f : Flit) :
    (State.probeRx s l f).keepOf anyMem = s.keepOf anyMem := by
  simp [State.probeRx, pendingK anyMem, tbSumK anyMem, wfK anyMem, keep_mk]

@[simp] theorem keep_execTimeFlitTimer (s : State) :
    outKeep anyMem (execTimeFlitTimer s) = some (s.keepOf anyMem) := by
  simp [execTimeFlitTimer, pendingK anyMem, tbSumK anyMem, wfK anyMem, keep_mk]

@[simp] theorem keep_timeRx (s : State) (f : Flit) (d : Nat) :
    (State.timeRx s f d).keepOf anyMem = s.keepOf anyMem := by
  simp [State.timeRx, pendingK anyMem, tbSumK anyMem, wfK anyMem, keep_mk]

@[simp] theorem keep_execTunnelPoll (txCidx : BitVec 16) (rxPidx : BitVec 16) (s : State) :
    outKeep anyMem (execTunnelPoll txCidx rxPidx s) = some (s.keepOf anyMem) := by
  simp [execTunnelPoll, pendingK anyMem, tbSumK anyMem, wfK anyMem, keep_mk]

@[simp] theorem keep_closeEntry (s : State) :
    (State.closeEntry s).keepOf anyMem = s.keepOf anyMem := by
  unfold State.closeEntry
  (repeat' split) <;> simp [pendingK anyMem, tbSumK anyMem, wfK anyMem, keep_mk]

@[simp] theorem keep_execTunnelEntryClose (s : State) :
    outKeep anyMem (execTunnelEntryClose s) = some (s.keepOf anyMem) := by
  simp [execTunnelEntryClose, pendingK anyMem, tbSumK anyMem, wfK anyMem, keep_mk]

@[simp] theorem keep_tunnelResponse (s : State) (ok : Bool) :
    (State.tunnelResponse s ok).keepOf anyMem = s.keepOf anyMem := by
  unfold State.tunnelResponse
  (repeat' split) <;> simp [pendingK anyMem, tbSumK anyMem, wfK anyMem, keep_mk]

@[simp] theorem keep_execTunnelRingWriteResponse (ok : Bool) (s : State) :
    outKeep anyMem (execTunnelRingWriteResponse ok s) = some (s.keepOf anyMem) := by
  simp [execTunnelRingWriteResponse, pendingK anyMem, tbSumK anyMem, wfK anyMem, keep_mk]

@[simp] theorem keep_tunnelRx (s : State) (header : BitVec 64) (flits : List Flit) (h : (s.keepOf anyMem).2.2 = true) :
    ((State.tunnelRx s header flits).keepOf anyMem) = (s.keepOf anyMem) := by
  unfold State.tunnelRx
  dsimp only
  split
  · rfl
  · split
    · rw [keep_foldl_wf]
      · simp [keep_mk, pendingK anyMem, tbSumK anyMem, wfK anyMem]
      · simpa [keep_mk, pendingK anyMem, tbSumK anyMem, wfK anyMem] using h
      · intro s x hx
        split <;> simp [hx]
    · simp [keep_mk, pendingK anyMem, tbSumK anyMem, wfK anyMem]

@[simp] theorem keep_execTunnelRxEntry (header : BitVec 64) (flits : List Flit) (s : State) (h : (s.keepOf anyMem).2.2 = true) :
    outKeep anyMem (execTunnelRxEntry header flits s) = some (s.keepOf anyMem) := by
  simp [execTunnelRxEntry, pendingK anyMem, tbSumK anyMem, wfK anyMem, keep_mk, h, Prod.ext_iff]

@[simp] theorem keep_execLcntRead (l : LaneId) (s : State) :
    outKeep anyMem (execLcntRead l s) = some (s.keepOf anyMem) := by
  simp [execLcntRead, pendingK anyMem, tbSumK anyMem, wfK anyMem, keep_mk]

@[simp] theorem keep_execEgrRead (s : State) :
    outKeep anyMem (execEgrRead s) = some (s.keepOf anyMem) := by
  simp [execEgrRead, pendingK anyMem, tbSumK anyMem, wfK anyMem, keep_mk]

@[simp] theorem keep_execChnCntRead (s : State) :
    outKeep anyMem (execChnCntRead s) = some (s.keepOf anyMem) := by
  simp [execChnCntRead, pendingK anyMem, tbSumK anyMem, wfK anyMem, keep_mk]

@[simp] theorem keep_execTunstatRead (s : State) :
    outKeep anyMem (execTunstatRead s) = some (s.keepOf anyMem) := by
  simp [execTunstatRead, pendingK anyMem, tbSumK anyMem, wfK anyMem, keep_mk]

@[simp] theorem keep_wrTunnel (s : State) (w : Writer) (k : RegKind) (v : Word) :
    (State.wrTunnel s w k v).keepOf anyMem = s.keepOf anyMem := by
  simp [State.wrTunnel, pendingK anyMem, tbSumK anyMem, wfK anyMem, keep_mk]

@[simp] theorem keep_wrRoute (s : State) (w : Writer) (k : RegKind) (i : Nat) (v : Word) :
    (State.wrRoute s w k i v).keepOf anyMem = s.keepOf anyMem := by
  simp [State.wrRoute, pendingK anyMem, tbSumK anyMem, wfK anyMem, keep_mk]

end Sys2Proof.Machine
end

