-- ==== Sys2Proof/Laws/KeptMirrorControl.lean ====
section
/-!
SUPPORT. What the functions of Machine/MirrorControl.lean keep.
-/

namespace Sys2Proof.Machine

set_option linter.unusedSimpArgs false

variable {anyMem : Bool}

@[simp] theorem keep_holdPort (s : State) (p : Port) :
    (State.holdPort s p).keepOf anyMem = s.keepOf anyMem := by
  unfold State.holdPort
  (repeat' split) <;> simp [pendingK anyMem, tbSumK anyMem, wfK anyMem, keep_mk]

@[simp] theorem keep_refreshHold (s : State) :
    (State.refreshHold s).keepOf anyMem = s.keepOf anyMem := by
  simp [State.refreshHold, pendingK anyMem, tbSumK anyMem, wfK anyMem, keep_mk]

@[simp] theorem keep_releaseShadows (s : State) :
    (State.releaseShadows s).keepOf anyMem = s.keepOf anyMem := by
  simp [State.releaseShadows, pendingK anyMem, tbSumK anyMem, wfK anyMem, keep_mk]

@[simp] theorem keep_serveMirrored (s : State) : s.serveMirrored.keepOf anyMem = s.keepOf anyMem := by
  refine keep_foldl _ _ _ fun s kv => ?_
  split
  · split <;> simp
  · rfl

@[simp] theorem keep_setRole (s : State) (r : Role) :
    (State.setRole s r).keepOf anyMem = s.keepOf anyMem := by
  simp [State.setRole, pendingK anyMem, tbSumK anyMem, wfK anyMem, keep_mk]

@[simp] theorem keep_endPairing (s : State) :
    (State.endPairing s).keepOf anyMem = s.keepOf anyMem := by
  simp [State.endPairing, pendingK anyMem, tbSumK anyMem, wfK anyMem, keep_mk]

@[simp] theorem keep_becomeAlone (s : State) :
    (State.becomeAlone s).keepOf anyMem = s.keepOf anyMem := by
  simp [State.becomeAlone, pendingK anyMem, tbSumK anyMem, wfK anyMem, keep_mk]

@[simp] theorem keep_becomeHeld (s : State) :
    (State.becomeHeld s).keepOf anyMem = s.keepOf anyMem := by
  simp [State.becomeHeld, pendingK anyMem, tbSumK anyMem, wfK anyMem, keep_mk]

@[simp] theorem keep_stopShadows (s : State) :
    (State.stopShadows s).keepOf anyMem = s.keepOf anyMem := by
  simp [State.stopShadows, pendingK anyMem, tbSumK anyMem, wfK anyMem, keep_mk]

@[simp] theorem keep_diverge (s : State) :
    (State.diverge s).keepOf anyMem = s.keepOf anyMem := by
  simp [State.diverge, pendingK anyMem, tbSumK anyMem, wfK anyMem, keep_mk]

@[simp] theorem keep_heartbeat (s : State) :
    (State.heartbeat s).keepOf anyMem = s.keepOf anyMem := by
  unfold State.heartbeat
  dsimp only
  (repeat' split) <;> simp [pendingK anyMem, tbSumK anyMem, wfK anyMem, keep_mk]

@[simp] theorem keep_execHeartbeatTimer (s : State) :
    outKeep anyMem (execHeartbeatTimer s) = some (s.keepOf anyMem) := by
  simp [execHeartbeatTimer, pendingK anyMem, tbSumK anyMem, wfK anyMem, keep_mk]

@[simp] theorem keep_startCopy (s : State) :
    (State.startCopy s).keepOf anyMem = s.keepOf anyMem := by
  simp [State.startCopy, pendingK anyMem, tbSumK anyMem, wfK anyMem, keep_mk]

@[simp] theorem keep_startSync (s : State) :
    (State.startSync s).keepOf anyMem = s.keepOf anyMem := by
  simp [State.startSync, pendingK anyMem, tbSumK anyMem, wfK anyMem, keep_mk]

@[simp] theorem keep_countMissed (s : State) :
    (State.countMissed s).keepOf anyMem = s.keepOf anyMem := by
  simp [State.countMissed, pendingK anyMem, tbSumK anyMem, wfK anyMem, keep_mk]

@[simp] theorem keep_rankConflict (s : State) :
    (State.rankConflict s).keepOf anyMem = s.keepOf anyMem := by
  unfold State.rankConflict
  dsimp only
  (repeat' split) <;> simp [pendingK anyMem, tbSumK anyMem, wfK anyMem, keep_mk]

@[simp] theorem keep_joinBy (s : State) (role : Nat) :
    (State.joinBy s role).keepOf anyMem = s.keepOf anyMem := by
  unfold State.joinBy
  (repeat' split) <;> simp [pendingK anyMem, tbSumK anyMem, wfK anyMem, keep_mk]

@[simp] theorem keep_shiftSlaves (s : State) (d : ℚ) :
    (State.shiftSlaves s d).keepOf anyMem = s.keepOf anyMem := by
  simp [State.shiftSlaves, pendingK anyMem, tbSumK anyMem, wfK anyMem, keep_mk]

@[simp] theorem keep_heartbeatRx (s : State) (l : LaneId) (f : Flit) :
    (State.heartbeatRx s l f).keepOf anyMem = s.keepOf anyMem := by
  simp [State.heartbeatRx, pendingK anyMem, tbSumK anyMem, wfK anyMem, keep_mk]

@[simp] theorem keep_execJoinTimeout (s : State) :
    outKeep anyMem (execJoinTimeout s) = some (s.keepOf anyMem) := by
  simp [execJoinTimeout, pendingK anyMem, tbSumK anyMem, wfK anyMem, keep_mk]

@[simp] theorem keep_copyComplete (s : State) :
    (State.copyComplete s).keepOf anyMem = s.keepOf anyMem := by
  simp [State.copyComplete, pendingK anyMem, tbSumK anyMem, wfK anyMem, keep_mk]

@[simp] theorem keep_execMirrorCopyComplete (s : State) :
    outKeep anyMem (execMirrorCopyComplete s) = some (s.keepOf anyMem) := by
  simp [execMirrorCopyComplete, pendingK anyMem, tbSumK anyMem, wfK anyMem, keep_mk]

@[simp] theorem keep_mirrorReject (s : State) (q : Qid) (item : BitVec 64) :
    (State.mirrorReject s q item).keepOf anyMem = s.keepOf anyMem := by
  simp [State.mirrorReject, pendingK anyMem, tbSumK anyMem, wfK anyMem, keep_mk]

@[simp] theorem keep_mirrorPush (s : State) (q : Qid) (o : BitVec 12) (item : BitVec 64) :
    (State.mirrorPush s q o item).keepOf anyMem = s.keepOf anyMem := by
  unfold State.mirrorPush
  (repeat' split) <;> simp [pendingK anyMem, tbSumK anyMem, wfK anyMem, keep_mk]

@[simp] theorem keep_applyQueueRecord (s : State) (r : List Word) :
    (State.applyQueueRecord s r).keepOf anyMem = s.keepOf anyMem := by
  unfold State.applyQueueRecord
  dsimp only
  (repeat' split) <;> simp [pendingK anyMem, tbSumK anyMem, wfK anyMem, keep_mk]

@[simp] theorem keep_mirrorStore (s : State) (i : Nat) (mask : BitVec 4) (v : Word) (h : (s.keepOf anyMem).2.2 = true) :
    (State.mirrorStore s i mask v).keepOf anyMem = s.keepOf anyMem := by
  simp [State.mirrorStore, pendingK anyMem, tbSumK anyMem, wfK anyMem, keep_mk, h, Prod.ext_iff]

@[simp] theorem keep_applyWriteRecord (s : State) (r : List Word) (h : (s.keepOf anyMem).2.2 = true) :
    (State.applyWriteRecord s r).keepOf anyMem = s.keepOf anyMem := by
  simp [State.applyWriteRecord, pendingK anyMem, tbSumK anyMem, wfK anyMem, keep_mk, h, Prod.ext_iff]

@[simp] theorem keep_applySnapshot (s : State) (n : BaseId) (ws : List Word) :
    (State.applySnapshot s n ws).keepOf anyMem = s.keepOf anyMem := by
  simp [State.applySnapshot, pendingK anyMem, tbSumK anyMem, wfK anyMem, keep_mk]

@[simp] theorem keep_applyState (s : State) (sub : Nat) (ws : List Word) :
    (State.applyState s sub ws).keepOf anyMem = s.keepOf anyMem := by
  unfold State.applyState
  (repeat' split) <;> simp [pendingK anyMem, tbSumK anyMem, wfK anyMem, keep_mk]

@[simp] theorem keep_applyMirror (s : State) (f : Flit) (h : (s.keepOf anyMem).2.2 = true) : ((State.applyMirror s f).keepOf anyMem) = (s.keepOf anyMem) := by
  unfold State.applyMirror
  repeat' split
  · exact keep_foldl_wf _ _ _ h fun s x hx => by simp [hx]
  · exact keep_foldl_wf _ _ _ h fun s x hx => by simp [hx]
  · exact keep_foldl _ _ _ fun s x => by simp
  · simp

@[simp] theorem keep_applyEarlyN (x0 : Nat) (x1 : State) (h : (x1.keepOf anyMem).2.2 = true) :
    (applyEarlyN x0 x1).keepOf anyMem = x1.keepOf anyMem := by
  induction x0 generalizing x1 with
  | zero => simp [applyEarlyN, h]
  | succ n ih => simp only [applyEarlyN]; (repeat' split) <;> simp [ih, pendingK anyMem, tbSumK anyMem, wfK anyMem, keep_mk, h, Prod.ext_iff]

@[simp] theorem keep_mirrorRx (s : State) (l : LaneId) (f : Flit) (h : (s.keepOf anyMem).2.2 = true) :
    (State.mirrorRx s l f).keepOf anyMem = s.keepOf anyMem := by
  simp [State.mirrorRx, pendingK anyMem, tbSumK anyMem, wfK anyMem, keep_mk, h, Prod.ext_iff]

@[simp] theorem keep_mackRx (s : State) (l : LaneId) (f : Flit) :
    (State.mackRx s l f).keepOf anyMem = s.keepOf anyMem := by
  simp [State.mackRx, pendingK anyMem, tbSumK anyMem, wfK anyMem, keep_mk]

@[simp] theorem keep_sendSnapshots (s : State) :
    (State.sendSnapshots s).keepOf anyMem = s.keepOf anyMem := by
  simp [State.sendSnapshots, pendingK anyMem, tbSumK anyMem, wfK anyMem, keep_mk]

@[simp] theorem keep_execMirrorTbSnapshot (s : State) :
    outKeep anyMem (execMirrorTbSnapshot s) = some (s.keepOf anyMem) := by
  simp [execMirrorTbSnapshot, pendingK anyMem, tbSumK anyMem, wfK anyMem, keep_mk]

@[simp] theorem keep_wrMirCmd (s : State) (w : Writer) (v : Word) :
    (State.wrMirCmd s w v).keepOf anyMem = s.keepOf anyMem := by
  simp [State.wrMirCmd, pendingK anyMem, tbSumK anyMem, wfK anyMem, keep_mk]

@[simp] theorem keep_execMirKick (w : Writer) (s : State) :
    outKeep anyMem (execMirKick w s) = some (s.keepOf anyMem) := by
  simp [execMirKick, pendingK anyMem, tbSumK anyMem, wfK anyMem, keep_mk]

@[simp] theorem keep_execMirForce (w : Writer) (s : State) :
    outKeep anyMem (execMirForce w s) = some (s.keepOf anyMem) := by
  simp [execMirForce, pendingK anyMem, tbSumK anyMem, wfK anyMem, keep_mk]

@[simp] theorem keep_execKickTimeout (s : State) :
    outKeep anyMem (execKickTimeout s) = some (s.keepOf anyMem) := by
  simp [execKickTimeout, pendingK anyMem, tbSumK anyMem, wfK anyMem, keep_mk]

@[simp] theorem keep_guardTrips (s : State) :
    (State.guardTrips s).keepOf anyMem = s.keepOf anyMem := by
  simp [State.guardTrips, pendingK anyMem, tbSumK anyMem, wfK anyMem, keep_mk]

@[simp] theorem keep_execPadGuardTrip (s : State) :
    outKeep anyMem (execPadGuardTrip s) = some (s.keepOf anyMem) := by
  simp [execPadGuardTrip, pendingK anyMem, tbSumK anyMem, wfK anyMem, keep_mk]

@[simp] theorem keep_execPartnerSilence (s : State) :
    outKeep anyMem (execPartnerSilence s) = some (s.keepOf anyMem) := by
  simp [execPartnerSilence, pendingK anyMem, tbSumK anyMem, wfK anyMem, keep_mk]

@[simp] theorem keep_startGuard (s : State) (join : Bool) :
    (State.startGuard s join).keepOf anyMem = s.keepOf anyMem := by
  simp [State.startGuard, pendingK anyMem, tbSumK anyMem, wfK anyMem, keep_mk]

@[simp] theorem keep_testVerdict (s : State) (alive : Bool) :
    (State.testVerdict s alive).keepOf anyMem = s.keepOf anyMem := by
  unfold State.testVerdict
  (repeat' split) <;> simp [pendingK anyMem, tbSumK anyMem, wfK anyMem, keep_mk]

@[simp] theorem keep_execPartnerOkTestEnd (s : State) :
    outKeep anyMem (execPartnerOkTestEnd s) = some (s.keepOf anyMem) := by
  unfold execPartnerOkTestEnd
  (repeat' split) <;> simp [pendingK anyMem, tbSumK anyMem, wfK anyMem, keep_mk]

@[simp] theorem keep_resumeBase (s : State) (n : BaseId) :
    (State.resumeBase s n).keepOf anyMem = s.keepOf anyMem := by
  simp [State.resumeBase, pendingK anyMem, tbSumK anyMem, wfK anyMem, keep_mk]

@[simp] theorem keep_resumeTask (s : State) (k : TaskId) (ws : List Word) :
    (State.resumeTask s k ws).keepOf anyMem = s.keepOf anyMem := by
  simp [State.resumeTask, pendingK anyMem, tbSumK anyMem, wfK anyMem, keep_mk]

@[simp] theorem keep_takeOver (s : State) :
    (State.takeOver s).keepOf anyMem = s.keepOf anyMem := by
  unfold State.takeOver
  (repeat' split) <;> simp [pendingK anyMem, tbSumK anyMem, wfK anyMem, keep_mk]

@[simp] theorem keep_execTakeover (s : State) :
    outKeep anyMem (execTakeover s) = some (s.keepOf anyMem) := by
  simp [execTakeover, pendingK anyMem, tbSumK anyMem, wfK anyMem, keep_mk]

@[simp] theorem keep_execMirCntRead (s : State) :
    outKeep anyMem (execMirCntRead s) = some (s.keepOf anyMem) := by
  simp [execMirCntRead, pendingK anyMem, tbSumK anyMem, wfK anyMem, keep_mk]

@[simp] theorem keep_mirStatView (s : State) :
    (State.mirStatView s).2.keepOf anyMem = s.keepOf anyMem := by
  simp [State.mirStatView, pendingK anyMem, tbSumK anyMem, wfK anyMem, keep_mk]

@[simp] theorem keep_wrMirror (s : State) (w : Writer) (k : RegKind) (i : Nat) (v : Word) :
    (State.wrMirror s w k i v).keepOf anyMem = s.keepOf anyMem := by
  simp [State.wrMirror, pendingK anyMem, tbSumK anyMem, wfK anyMem, keep_mk]

@[simp] theorem keep_takeFlit (s : State) (l : LaneId) (f : Flit) (h : (s.keepOf anyMem).2.2 = true) :
    (State.takeFlit s l f).keepOf anyMem = s.keepOf anyMem := by
  unfold State.takeFlit
  (repeat' split) <;> simp [pendingK anyMem, tbSumK anyMem, wfK anyMem, keep_mk, h, Prod.ext_iff]

@[simp] theorem keep_rxFlit (s : State) (l : LaneId) (f : Flit) (h : (s.keepOf anyMem).2.2 = true) :
    (State.rxFlit s l f).keepOf anyMem = s.keepOf anyMem := by
  simp [State.rxFlit, pendingK anyMem, tbSumK anyMem, wfK anyMem, keep_mk, h, Prod.ext_iff]

@[simp] theorem keep_flitRx (s : State) (l : LaneId) (types : List (BitVec 4)) (f : Flit) (h : (s.keepOf anyMem).2.2 = true) :
    (State.flitRx s l types f).keepOf anyMem = s.keepOf anyMem := by
  simp [State.flitRx, pendingK anyMem, tbSumK anyMem, wfK anyMem, keep_mk, h, Prod.ext_iff]

@[simp] theorem keep_execInitFlitRx (l : LaneId) (f : Flit) (s : State) (h : (s.keepOf anyMem).2.2 = true) :
    outKeep anyMem (execInitFlitRx l f s) = some (s.keepOf anyMem) := by
  simp [execInitFlitRx, pendingK anyMem, tbSumK anyMem, wfK anyMem, keep_mk, h, Prod.ext_iff]

@[simp] theorem keep_execCreditRx (l : LaneId) (f : Flit) (s : State) (h : (s.keepOf anyMem).2.2 = true) :
    outKeep anyMem (execCreditRx l f s) = some (s.keepOf anyMem) := by
  simp [execCreditRx, pendingK anyMem, tbSumK anyMem, wfK anyMem, keep_mk, h, Prod.ext_iff]

@[simp] theorem keep_execItemsFlitRx (l : LaneId) (f : Flit) (s : State) (h : (s.keepOf anyMem).2.2 = true) :
    outKeep anyMem (execItemsFlitRx l f s) = some (s.keepOf anyMem) := by
  simp [execItemsFlitRx, pendingK anyMem, tbSumK anyMem, wfK anyMem, keep_mk, h, Prod.ext_iff]

@[simp] theorem keep_execRwriteRx (l : LaneId) (f : Flit) (s : State) (h : (s.keepOf anyMem).2.2 = true) :
    outKeep anyMem (execRwriteRx l f s) = some (s.keepOf anyMem) := by
  simp [execRwriteRx, pendingK anyMem, tbSumK anyMem, wfK anyMem, keep_mk, h, Prod.ext_iff]

@[simp] theorem keep_execProbeRx (l : LaneId) (f : Flit) (s : State) (h : (s.keepOf anyMem).2.2 = true) :
    outKeep anyMem (execProbeRx l f s) = some (s.keepOf anyMem) := by
  simp [execProbeRx, pendingK anyMem, tbSumK anyMem, wfK anyMem, keep_mk, h, Prod.ext_iff]

@[simp] theorem keep_execTimeFlitRx (l : LaneId) (f : Flit) (s : State) (h : (s.keepOf anyMem).2.2 = true) :
    outKeep anyMem (execTimeFlitRx l f s) = some (s.keepOf anyMem) := by
  simp [execTimeFlitRx, pendingK anyMem, tbSumK anyMem, wfK anyMem, keep_mk, h, Prod.ext_iff]

@[simp] theorem keep_execHeartbeatRx (l : LaneId) (f : Flit) (s : State) (h : (s.keepOf anyMem).2.2 = true) :
    outKeep anyMem (execHeartbeatRx l f s) = some (s.keepOf anyMem) := by
  simp [execHeartbeatRx, pendingK anyMem, tbSumK anyMem, wfK anyMem, keep_mk, h, Prod.ext_iff]

@[simp] theorem keep_execMirrorFlitRx (l : LaneId) (f : Flit) (s : State) (h : (s.keepOf anyMem).2.2 = true) :
    outKeep anyMem (execMirrorFlitRx l f s) = some (s.keepOf anyMem) := by
  simp [execMirrorFlitRx, pendingK anyMem, tbSumK anyMem, wfK anyMem, keep_mk, h, Prod.ext_iff]

@[simp] theorem keep_execMackRx (l : LaneId) (f : Flit) (s : State) (h : (s.keepOf anyMem).2.2 = true) :
    outKeep anyMem (execMackRx l f s) = some (s.keepOf anyMem) := by
  simp [execMackRx, pendingK anyMem, tbSumK anyMem, wfK anyMem, keep_mk, h, Prod.ext_iff]

@[simp] theorem keep_codewordRx (s : State) (l : LaneId) (cw : Codeword) (h : (s.keepOf anyMem).2.2 = true) :
    ((State.codewordRx s l cw).keepOf anyMem) = (s.keepOf anyMem) := by
  unfold State.codewordRx
  dsimp only
  split
  · rfl
  · cases cw with
    | uncorrectable => dsimp only; split <;> simp
    | decoded corrected seq ack flits =>
      dsimp only
      have r : ∀ (u : State) (f : Flit), (u.keepOf anyMem).2.2 = true →
          ((if !typeOk f then u.satAdd F.chnLcnt_UNCORR 1 l.toNat
            else if (f.type = tINIT) = ((u.lane l).st = .init) ∧ (u.lane l).st ≠ .down then u.rxFlit l f else u).keepOf anyMem) =
            (u.keepOf anyMem) := by
        intro u f hu
        split
        · simp
        · split <;> simp [hu]
      have e : ((if corrected then s.satAdd F.chnLcnt_CORR 1 l.toNat else s).keepOf anyMem) = (s.keepOf anyMem) := by split <;> simp
      split
      · rw [keep_foldl_wf]
        · simp [e]
        · simp [e, h]
        · intro u f hu
          split
          · exact r u f hu
          · rfl
      · split
        · rw [keep_foldl_wf _ _ _ (by simp [e, h]) (fun u f hu => r u f hu)]
          simp [e]
        · simp [e]

@[simp] theorem keep_execCodewordRx (l : LaneId) (cw : Codeword) (s : State) (h : (s.keepOf anyMem).2.2 = true) :
    outKeep anyMem (execCodewordRx l cw s) = some (s.keepOf anyMem) := by
  simp [execCodewordRx, pendingK anyMem, tbSumK anyMem, wfK anyMem, keep_mk, h, Prod.ext_iff]

end Sys2Proof.Machine
end

