-- ==== Sys2Proof/Laws/KeptSignalEngine.lean ====
section
/-!
SUPPORT. What the functions of Machine/SignalEngine.lean keep.
-/

namespace Sys2Proof.Machine

set_option linter.unusedSimpArgs false

variable {anyMem : Bool}

@[simp] theorem keep_setCached (s : State) (l : Nat) (x : Option CacheLine) :
    (State.setCached s l x).keepOf anyMem = s.keepOf anyMem := by
  simp [State.setCached, pendingK anyMem, tbSumK anyMem, wfK anyMem, keep_mk]

@[simp] theorem keep_sigCount (s : State) (k : Nat) :
    (State.sigCount s k).keepOf anyMem = s.keepOf anyMem := by
  simp [State.sigCount, pendingK anyMem, tbSumK anyMem, wfK anyMem, keep_mk]

@[simp] theorem keep_setWord3 (s : State) (i : Nat) (v : Word) :
    (State.setWord3 s i v).keepOf anyMem = s.keepOf anyMem := by
  unfold State.setWord3
  dsimp only
  (repeat' split) <;> simp [pendingK anyMem, tbSumK anyMem, wfK anyMem, keep_mk]

@[simp] theorem keep_writeBack (s : State) (l : Nat) (x : CacheLine) :
    (State.writeBack s l x).keepOf anyMem = s.keepOf anyMem := by
  simp [State.writeBack, pendingK anyMem, tbSumK anyMem, wfK anyMem, keep_mk]

@[simp] theorem keep_sigRead (s : State) (q : Qid) (n : Nat) (acc : List (BitVec 64)) :
    ((State.sigRead s q n acc).2.keepOf anyMem) = (s.keepOf anyMem) := by
  induction n generalizing s acc with
  | zero => rfl
  | succ n ih =>
    unfold State.sigRead
    have e : ((s.popItem q .signalEngine).2.keepOf anyMem) = (s.keepOf anyMem) := by simp
    revert e
    cases s.popItem q .signalEngine with
    | mk i s1 =>
      intro e
      cases i with
      | none => exact e
      | some x =>
        dsimp only at e ⊢
        split
        · exact e
        · rw [ih]; exact e

@[simp] theorem keep_replacePacket (s : State) (p : SigPacket) :
    (State.replacePacket s p).keepOf anyMem = s.keepOf anyMem := by
  simp [State.replacePacket, pendingK anyMem, tbSumK anyMem, wfK anyMem, keep_mk]

@[simp] theorem keep_dropPacket (s : State) (p : SigPacket) :
    (State.dropPacket s p).keepOf anyMem = s.keepOf anyMem := by
  simp [State.dropPacket, pendingK anyMem, tbSumK anyMem, wfK anyMem, keep_mk]

@[simp] theorem keep_storePart (s : State) (q : Qid) (items : List (BitVec 64)) :
    (State.storePart s q items).keepOf anyMem = s.keepOf anyMem := by
  unfold State.storePart
  (repeat' split) <;> simp [pendingK anyMem, tbSumK anyMem, wfK anyMem, keep_mk]

@[simp] theorem keep_readCandidate (s : State) (q : Qid) :
    (State.readCandidate s q).keepOf anyMem = s.keepOf anyMem := by
  unfold State.readCandidate
  (repeat' split) <;> simp [pendingK anyMem, tbSumK anyMem, wfK anyMem, keep_mk]

@[simp] theorem keep_execSigPacketRead (s : State) :
    outKeep anyMem (execSigPacketRead s) = some (s.keepOf anyMem) := by
  unfold execSigPacketRead
  (repeat' split) <;> simp [pendingK anyMem, tbSumK anyMem, wfK anyMem, keep_mk]

@[simp] theorem keep_noteLine (s : State) (p : SigPacket) (l : Nat) :
    (State.noteLine s p l).2.keepOf anyMem = s.keepOf anyMem := by
  unfold State.noteLine
  (repeat' split) <;> simp [pendingK anyMem, tbSumK anyMem, wfK anyMem, keep_mk]

@[simp] theorem keep_noteLines (s : State) (p : SigPacket) (ls : List Nat) : ((State.noteLines s p ls).2.keepOf anyMem) = (s.keepOf anyMem) :=
  keep_foldl_snd _ _ (p, s) fun a l => by simp

@[simp] theorem keep_gather (s : State) (items : List (BitVec 64)) (g : Gather) (r : RouteEntry) (last : Bool) :
    (State.gather s items g r last).2.keepOf anyMem = s.keepOf anyMem := by
  unfold State.gather
  (repeat' split) <;> simp [pendingK anyMem, tbSumK anyMem, wfK anyMem, keep_mk]

@[simp] theorem keep_sigSend (s : State) (dest : Word) (rchk : Bool) (epoch : BitVec 16) (item : BitVec 64) (h : (s.keepOf anyMem).2.2 = true) :
    (State.sigSend s dest rchk epoch item).2.keepOf anyMem = s.keepOf anyMem := by
  unfold State.sigSend
  dsimp only
  (repeat' split) <;> simp [pendingK anyMem, tbSumK anyMem, wfK anyMem, keep_mk, h, Prod.ext_iff]

@[simp] theorem keep_sigPush (s : State) (src : Qid) (dest : Word) (rchk : Bool) (epoch : BitVec 16) (item : BitVec 64) (h : (s.keepOf anyMem).2.2 = true) :
    (State.sigPush s src dest rchk epoch item).keepOf anyMem = s.keepOf anyMem := by
  unfold State.sigPush
  (repeat' split) <;> simp [pendingK anyMem, tbSumK anyMem, wfK anyMem, keep_mk, h, Prod.ext_iff]

@[simp] theorem keep_sigDrain (x0 : List SigOut) (x1 : State) (h : (x1.keepOf anyMem).2.2 = true) :
    (sigDrain x0 x1).keepOf anyMem = x1.keepOf anyMem := by
  induction x0 generalizing x1 with
  | nil => simp [sigDrain, h]
  | cons y r ih => simp only [sigDrain]; (repeat' split) <;> simp [ih, pendingK anyMem, tbSumK anyMem, wfK anyMem, keep_mk, h, Prod.ext_iff]

@[simp] theorem keep_drainSignal (s : State) (h : (s.keepOf anyMem).2.2 = true) :
    (State.drainSignal s).keepOf anyMem = s.keepOf anyMem := by
  simp [State.drainSignal, pendingK anyMem, tbSumK anyMem, wfK anyMem, keep_mk, h, Prod.ext_iff]

@[simp] theorem keep_forwardPacket (s : State) (p : SigPacket) (ch : Chan) (dest : Word) (prio : BitVec 4) (rchk : Bool)
    (epoch : BitVec 16) (h : (s.keepOf anyMem).2.2 = true) : ((State.forwardPacket s p ch dest prio rchk epoch).keepOf anyMem) = (s.keepOf anyMem) :=
  keep_foldl_wf _ _ _ h fun s w hs => by simp [hs]

@[simp] theorem keep_applyGroup (s : State) (p : SigPacket) (ch : Chan) (rs : List RouteEntry) (lastGroup : Bool) (h : (s.keepOf anyMem).2.2 = true) :
    ((State.applyGroup s p ch rs lastGroup).keepOf anyMem) = (s.keepOf anyMem) := by
  unfold State.applyGroup
  split
  · rfl
  · split
    · split <;> simp [h]
    · dsimp only
      generalize hg : List.foldl _ _ _ = g
      have e : (g.2.keepOf anyMem) = (s.keepOf anyMem) := by
        rw [← hg]; exact keep_foldl_snd _ _ (_, s) fun a ri => by simp
      repeat' split
      all_goals simp [e, h]

@[simp] theorem keep_noRouteYet (s : State) (p : SigPacket) :
    (State.noRouteYet s p).keepOf anyMem = s.keepOf anyMem := by
  simp [State.noRouteYet, pendingK anyMem, tbSumK anyMem, wfK anyMem, keep_mk]

@[simp] theorem keep_askFill (s : State) (l : Nat) :
    (State.askFill s l).2.keepOf anyMem = s.keepOf anyMem := by
  unfold State.askFill
  (repeat' split) <;> simp [pendingK anyMem, tbSumK anyMem, wfK anyMem, keep_mk]

@[simp] theorem keep_needLine (s : State) (p : SigPacket) (l : Nat) :
    (State.needLine s p l).keepOf anyMem = s.keepOf anyMem := by
  simp [State.needLine, pendingK anyMem, tbSumK anyMem, wfK anyMem, keep_mk]

@[simp] theorem keep_applyRoutes (s : State) (p : SigPacket) (ch : Chan) (first : Nat) (count : Nat) (x5 : Nat) (h : (s.keepOf anyMem).2.2 = true) :
    (State.applyRoutes s p ch first count x5).keepOf anyMem = s.keepOf anyMem := by
  induction x5 generalizing s p ch first count with
  | zero => simp [State.applyRoutes, h]
  | succ n ih => simp only [State.applyRoutes]; (repeat' split) <;> simp [ih, pendingK anyMem, tbSumK anyMem, wfK anyMem, keep_mk, h, Prod.ext_iff]

@[simp] theorem keep_unknownFrame (s : State) (p : SigPacket) (ch : Chan) (h : (s.keepOf anyMem).2.2 = true) :
    (State.unknownFrame s p ch).keepOf anyMem = s.keepOf anyMem := by
  unfold State.unknownFrame
  dsimp only
  (repeat' split) <;> simp [pendingK anyMem, tbSumK anyMem, wfK anyMem, keep_mk, h, Prod.ext_iff]

@[simp] theorem keep_frameFound (s : State) (p : SigPacket) (ch : Chan) (i : Nat) (copy : List Word) (h : (s.keepOf anyMem).2.2 = true) :
    (State.frameFound s p ch i copy).keepOf anyMem = s.keepOf anyMem := by
  simp [State.frameFound, pendingK anyMem, tbSumK anyMem, wfK anyMem, keep_mk, h, Prod.ext_iff]

@[simp] theorem keep_lookup (s : State) (p : SigPacket) (h : (s.keepOf anyMem).2.2 = true) :
    (State.lookup s p).keepOf anyMem = s.keepOf anyMem := by
  unfold State.lookup
  dsimp only
  (repeat' split) <;> simp [pendingK anyMem, tbSumK anyMem, wfK anyMem, keep_mk, h, Prod.ext_iff]

@[simp] theorem keep_execDirectoryLookup (q : Qid) (s : State) (h : (s.keepOf anyMem).2.2 = true) :
    outKeep anyMem (execDirectoryLookup q s) = some (s.keepOf anyMem) := by
  unfold execDirectoryLookup
  (repeat' split) <;> simp [pendingK anyMem, tbSumK anyMem, wfK anyMem, keep_mk, h, Prod.ext_iff]

@[simp] theorem keep_resumeLookups (s : State) (l : Nat) (h : (s.keepOf anyMem).2.2 = true) : ((State.resumeLookups s l).keepOf anyMem) = (s.keepOf anyMem) :=
  keep_foldl_wf _ _ _ h fun s p hs => by simp [hs]

@[simp] theorem keep_reissueFills (s : State) : ((State.reissueFills s).keepOf anyMem) = (s.keepOf anyMem) :=
  keep_foldl _ _ _ fun s p => by
    split
    · dsimp only; split <;> simp
    · rfl

theorem keep_installLine (s t : State) (l : Nat) (ws : List Word) (h : s.installLine l ws = some t) :
    t.keepOf anyMem = s.keepOf anyMem := by
  unfold State.installLine at h
  dsimp only at h
  repeat' split at h
  all_goals first
    | (cases h; done)
    | (cases h; simp)

@[simp] theorem keep_retryInstalls (s : State) (h : (s.keepOf anyMem).2.2 = true) : s.retryInstalls.keepOf anyMem = s.keepOf anyMem :=
  keep_foldl_wf _ _ _ h fun u f hu => by
    split
    · rfl
    · split
      · rfl
      · rename_i t e
        have k := keep_installLine (anyMem := anyMem) _ _ _ _ e
        have k2 : ({ t with fills := t.fills.erase f } : State).keepOf anyMem = u.keepOf anyMem := k
        rw [keep_resumeLookups _ _ (by rw [k2]; exact hu), k2]

@[simp] theorem keep_keepLine (s : State) (f : SigFill) (ws : List Word) : (s.keepLine f ws).keepOf anyMem = s.keepOf anyMem := by
  unfold State.keepLine
  split
  · rfl
  · split
    · rename_i e; exact keep_installLine _ _ _ _ e
    · rfl

@[simp] theorem keep_fillReturn (s : State) (l : Nat) (ok : Bool) (ws : List Word) (h : (s.keepOf anyMem).2.2 = true) :
    (State.fillReturn s l ok ws).keepOf anyMem = s.keepOf anyMem := by
  unfold State.fillReturn
  (repeat' split) <;> simp [pendingK anyMem, tbSumK anyMem, wfK anyMem, keep_mk, h, Prod.ext_iff]

@[simp] theorem keep_execDirectoryFillReturn (line : BitVec 21) (ok : Bool) (words : List Word) (s : State) (h : (s.keepOf anyMem).2.2 = true) :
    outKeep anyMem (execDirectoryFillReturn line ok words s) = some (s.keepOf anyMem) := by
  simp [execDirectoryFillReturn, pendingK anyMem, tbSumK anyMem, wfK anyMem, keep_mk, h, Prod.ext_iff]

@[simp] theorem keep_execDirectoryWriteBackResponse (line : BitVec 21) (x1 : Bool) (s : State) (h : (s.keepOf anyMem).2.2 = true) :
    outKeep anyMem (execDirectoryWriteBackResponse line x1 s) = some (s.keepOf anyMem) := by
  simp [execDirectoryWriteBackResponse, pendingK anyMem, tbSumK anyMem, wfK anyMem, keep_mk, h, Prod.ext_iff]

@[simp] theorem keep_wrSigInv (s : State) (w : Writer) (v : Word) :
    (State.wrSigInv s w v).keepOf anyMem = s.keepOf anyMem := by
  unfold State.wrSigInv
  dsimp only
  (repeat' split) <;> simp [pendingK anyMem, tbSumK anyMem, wfK anyMem, keep_mk]

@[simp] theorem keep_execDirectoryInvalidate (w : Writer) (line : BitVec 21) (s : State) :
    outKeep anyMem (execDirectoryInvalidate w line s) = some (s.keepOf anyMem) := by
  simp [execDirectoryInvalidate, pendingK anyMem, tbSumK anyMem, wfK anyMem, keep_mk]

@[simp] theorem keep_wrPwcmd (s : State) (w : Writer) (v : Word) :
    (State.wrPwcmd s w v).keepOf anyMem = s.keepOf anyMem := by
  unfold State.wrPwcmd
  dsimp only
  (repeat' split) <;> simp [pendingK anyMem, tbSumK anyMem, wfK anyMem, keep_mk]

@[simp] theorem keep_replacePinned (s : State) :
    (State.replacePinned s).keepOf anyMem = s.keepOf anyMem := by
  unfold State.replacePinned
  dsimp only
  (repeat' split) <;> simp [pendingK anyMem, tbSumK anyMem, wfK anyMem, keep_mk]

@[simp] theorem keep_execPinnedEntryReplace (w : Writer) (entry : BitVec 23) (s : State) :
    outKeep anyMem (execPinnedEntryReplace w entry s) = some (s.keepOf anyMem) := by
  simp [execPinnedEntryReplace, pendingK anyMem, tbSumK anyMem, wfK anyMem, keep_mk]

@[simp] theorem keep_directoryOff (s : State) :
    (State.directoryOff s).keepOf anyMem = s.keepOf anyMem := by
  simp [State.directoryOff, pendingK anyMem, tbSumK anyMem, wfK anyMem, keep_mk]

@[simp] theorem keep_wrSigCfg (s : State) (w : Writer) (v : Word) :
    (State.wrSigCfg s w v).keepOf anyMem = s.keepOf anyMem := by
  simp [State.wrSigCfg, pendingK anyMem, tbSumK anyMem, wfK anyMem, keep_mk]

@[simp] theorem keep_execDironWrite (w : Writer) (v : Word) (s : State) :
    outKeep anyMem (execDironWrite w v s) = some (s.keepOf anyMem) := by
  simp [execDironWrite, pendingK anyMem, tbSumK anyMem, wfK anyMem, keep_mk]

@[simp] theorem keep_wrSigSize (s : State) (w : Writer) (v : Word) :
    (State.wrSigSize s w v).keepOf anyMem = s.keepOf anyMem := by
  simp [State.wrSigSize, pendingK anyMem, tbSumK anyMem, wfK anyMem, keep_mk]

@[simp] theorem keep_execSigCntRead (k : BitVec 4) (s : State) :
    outKeep anyMem (execSigCntRead k s) = some (s.keepOf anyMem) := by
  simp [execSigCntRead, pendingK anyMem, tbSumK anyMem, wfK anyMem, keep_mk]

end Sys2Proof.Machine
end

