-- ==== Sys2Proof/Laws/KeptPowerControl.lean ====
section
/-!
SUPPORT. What the functions of Machine/PowerControl.lean keep.
-/

namespace Sys2Proof.Machine

set_option linter.unusedSimpArgs false

variable {anyMem : Bool}

@[simp] theorem keep_measure (s : State) (t : Tid) :
    (State.measure s t).keepOf anyMem = s.keepOf anyMem := by
  simp [State.measure, pendingK anyMem, tbSumK anyMem, wfK anyMem, keep_mk]

@[simp] theorem keep_takeEpoch (s : State) (h : HearthId) :
    (State.takeEpoch s h).keepOf anyMem = s.keepOf anyMem := by
  simp [State.takeEpoch, pendingK anyMem, tbSumK anyMem, wfK anyMem, keep_mk]

@[simp] theorem keep_showMeasures (s : State) (h : HearthId) (r : EpochEnd) :
    (State.showMeasures s h r).keepOf anyMem = s.keepOf anyMem := by
  simp [State.showMeasures, pendingK anyMem, tbSumK anyMem, wfK anyMem, keep_mk]

@[simp] theorem keep_epochEnd (s : State) (h : HearthId) :
    (State.epochEnd s h).keepOf anyMem = s.keepOf anyMem := by
  unfold State.epochEnd
  dsimp only
  (repeat' split) <;> simp [pendingK anyMem, tbSumK anyMem, wfK anyMem, keep_mk]

@[simp] theorem keep_execBellowsEpochEnd (h : HearthId) (s : State) :
    outKeep anyMem (execBellowsEpochEnd h s) = some (s.keepOf anyMem) := by
  simp [execBellowsEpochEnd, pendingK anyMem, tbSumK anyMem, wfK anyMem, keep_mk]

@[simp] theorem keep_setSlot (s : State) (c : CoreId) (n : Nat) (b : Nat) :
    (State.setSlot s c n b).keepOf anyMem = s.keepOf anyMem := by
  simp [State.setSlot, pendingK anyMem, tbSumK anyMem, wfK anyMem, keep_mk]

@[simp] theorem keep_applyMoves (s : State) (h : HearthId) (c : CoreId) (ms : List SlotMove) (at_ : Nat) :
    (State.applyMoves s h c ms at_).keepOf anyMem = s.keepOf anyMem := by
  simp [State.applyMoves, pendingK anyMem, tbSumK anyMem, wfK anyMem, keep_mk]

@[simp] theorem keep_startDrain (s : State) (d : Nat) (off : Bool) :
    (State.startDrain s d off).keepOf anyMem = s.keepOf anyMem := by
  simp [State.startDrain, pendingK anyMem, tbSumK anyMem, wfK anyMem, keep_mk]

@[simp] theorem keep_bellowsApply (s : State) (h : HearthId) :
    (State.bellowsApply s h).keepOf anyMem = s.keepOf anyMem := by
  unfold State.bellowsApply
  dsimp only
  (repeat' split) <;> simp [pendingK anyMem, tbSumK anyMem, wfK anyMem, keep_mk]

@[simp] theorem keep_execBellowsApply (h : HearthId) (s : State) :
    outKeep anyMem (execBellowsApply h s) = some (s.keepOf anyMem) := by
  simp [execBellowsApply, pendingK anyMem, tbSumK anyMem, wfK anyMem, keep_mk]

@[simp] theorem keep_execHstatRead (h : HearthId) (s : State) :
    outKeep anyMem (execHstatRead h s) = some (s.keepOf anyMem) := by
  simp [execHstatRead, pendingK anyMem, tbSumK anyMem, wfK anyMem, keep_mk]

@[simp] theorem keep_retireCore (s : State) (c : CoreId) :
    (State.retireCore s c).keepOf anyMem = s.keepOf anyMem := by
  simp [State.retireCore, pendingK anyMem, tbSumK anyMem, wfK anyMem, keep_mk]

@[simp] theorem keep_requestOn (s : State) (d : Nat) :
    (State.requestOn s d).keepOf anyMem = s.keepOf anyMem := by
  simp [State.requestOn, pendingK anyMem, tbSumK anyMem, wfK anyMem, keep_mk]

@[simp] theorem keep_requestLow (s : State) (d : Nat) (off : Bool) :
    (State.requestLow s d off).keepOf anyMem = s.keepOf anyMem := by
  simp [State.requestLow, pendingK anyMem, tbSumK anyMem, wfK anyMem, keep_mk]

@[simp] theorem keep_wrDreq (s : State) (w : Writer) (d : Nat) (v : Word) :
    (State.wrDreq s w d v).keepOf anyMem = s.keepOf anyMem := by
  unfold State.wrDreq
  (repeat' split) <;> simp [pendingK anyMem, tbSumK anyMem, wfK anyMem, keep_mk]

@[simp] theorem keep_execPowerRequestOn (w : Writer) (d : BitVec 5) (s : State) :
    outKeep anyMem (execPowerRequestOn w d s) = some (s.keepOf anyMem) := by
  simp [execPowerRequestOn, pendingK anyMem, tbSumK anyMem, wfK anyMem, keep_mk]

@[simp] theorem keep_execPowerRequestRetained (w : Writer) (d : BitVec 5) (s : State) :
    outKeep anyMem (execPowerRequestRetained w d s) = some (s.keepOf anyMem) := by
  simp [execPowerRequestRetained, pendingK anyMem, tbSumK anyMem, wfK anyMem, keep_mk]

@[simp] theorem keep_execPowerRequestOff (w : Writer) (d : BitVec 5) (s : State) :
    outKeep anyMem (execPowerRequestOff w d s) = some (s.keepOf anyMem) := by
  simp [execPowerRequestOff, pendingK anyMem, tbSumK anyMem, wfK anyMem, keep_mk]

@[simp] theorem keep_execDrainComplete (d : BitVec 5) (s : State) :
    outKeep anyMem (execDrainComplete d s) = some (s.keepOf anyMem) := by
  simp [execDrainComplete, pendingK anyMem, tbSumK anyMem, wfK anyMem, keep_mk]

@[simp] theorem keep_chainOff (s : State) (h : (s.keepOf anyMem).2.2 = true) : s.chainOff.keepOf anyMem = s.keepOf anyMem := by
  have h1 : (laneIds.foldl (fun s l => (s.laneDown l 2).setLane l { sig := ((s.laneDown l 2).lane l).sig }) s).keepOf anyMem =
      s.keepOf anyMem := keep_foldl_wf _ _ _ h fun s l hs => by simp [hs]
  unfold State.chainOff
  dsimp only
  rw [← h1]
  generalize laneIds.foldl _ s = u
  split
  · rfl
  · rename_i x _; exact keep_leavePlace (anyMem := anyMem) u x

@[simp] theorem keep_lowState (s : State) (d : Nat) (h : (s.keepOf anyMem).2.2 = true) :
    (State.lowState s d).keepOf anyMem = s.keepOf anyMem := by
  simp [State.lowState, pendingK anyMem, tbSumK anyMem, wfK anyMem, keep_mk, h, Prod.ext_iff]

@[simp] theorem keep_execDomainLowState (d : BitVec 5) (s : State) (h : (s.keepOf anyMem).2.2 = true) :
    outKeep anyMem (execDomainLowState d s) = some (s.keepOf anyMem) := by
  simp [execDomainLowState, pendingK anyMem, tbSumK anyMem, wfK anyMem, keep_mk, h, Prod.ext_iff]

@[simp] theorem keep_execDomainWake (d : BitVec 5) (cause : WakeCause) (s : State) :
    outKeep anyMem (execDomainWake d cause s) = some (s.keepOf anyMem) := by
  simp [execDomainWake, pendingK anyMem, tbSumK anyMem, wfK anyMem, keep_mk]

@[simp] theorem keep_deliverHeldWakes (s : State) (h : Nat) :
    (State.deliverHeldWakes s h).keepOf anyMem = s.keepOf anyMem := by
  simp [State.deliverHeldWakes, pendingK anyMem, tbSumK anyMem, wfK anyMem, keep_mk]

@[simp] theorem keep_releaseAllHeld (s : State) (k : Quadrant) (x2 : Nat) :
    (State.releaseAllHeld s k x2).keepOf anyMem = s.keepOf anyMem := by
  induction x2 generalizing s k with
  | zero => simp [State.releaseAllHeld]
  | succ n ih => simp only [State.releaseAllHeld]; (repeat' split) <;> simp [ih, pendingK anyMem, tbSumK anyMem, wfK anyMem, keep_mk]

@[simp] theorem keep_domainOn (s : State) (d : Nat) :
    (State.domainOn s d).keepOf anyMem = s.keepOf anyMem := by
  simp [State.domainOn, pendingK anyMem, tbSumK anyMem, wfK anyMem, keep_mk]

@[simp] theorem keep_execDomainOn (d : BitVec 5) (s : State) :
    outKeep anyMem (execDomainOn d s) = some (s.keepOf anyMem) := by
  simp [execDomainOn, pendingK anyMem, tbSumK anyMem, wfK anyMem, keep_mk]

@[simp] theorem keep_execPdAckRise (d : BitVec 5) (s : State) :
    outKeep anyMem (execPdAckRise d s) = some (s.keepOf anyMem) := by
  simp [execPdAckRise, pendingK anyMem, tbSumK anyMem, wfK anyMem, keep_mk]

@[simp] theorem keep_execPdAckFall (d : BitVec 5) (s : State) :
    outKeep anyMem (execPdAckFall d s) = some (s.keepOf anyMem) := by
  simp [execPdAckFall, pendingK anyMem, tbSumK anyMem, wfK anyMem, keep_mk]

@[simp] theorem keep_ageQueue (s0 : State) (limit : Nat) (q : Qid) :
    (State.ageQueue s0 limit q).keepOf anyMem = s0.keepOf anyMem := by
  simp [State.ageQueue, pendingK anyMem, tbSumK anyMem, wfK anyMem, keep_mk]

@[simp] theorem keep_ageCheck (s : State) :
    (State.ageCheck s).keepOf anyMem = s.keepOf anyMem := by
  simp [State.ageCheck, pendingK anyMem, tbSumK anyMem, wfK anyMem, keep_mk]

@[simp] theorem keep_execHeldItemAgeCheck (s : State) :
    outKeep anyMem (execHeldItemAgeCheck s) = some (s.keepOf anyMem) := by
  simp [execHeldItemAgeCheck, pendingK anyMem, tbSumK anyMem, wfK anyMem, keep_mk]

@[simp] theorem keep_execDstatRead (d : BitVec 5) (s : State) :
    outKeep anyMem (execDstatRead d s) = some (s.keepOf anyMem) := by
  simp [execDstatRead, pendingK anyMem, tbSumK anyMem, wfK anyMem, keep_mk]

@[simp] theorem keep_wrHcfg (s : State) (w : Writer) (h : HearthId) (v : Word) :
    (State.wrHcfg s w h v).keepOf anyMem = s.keepOf anyMem := by
  simp [State.wrHcfg, pendingK anyMem, tbSumK anyMem, wfK anyMem, keep_mk]

@[simp] theorem keep_wrPwr (s : State) (w : Writer) (k : RegKind) (d : Nat) (v : Word) :
    (State.wrPwr s w k d v).keepOf anyMem = s.keepOf anyMem := by
  simp [State.wrPwr, pendingK anyMem, tbSumK anyMem, wfK anyMem, keep_mk]

end Sys2Proof.Machine
end

