-- ==== Sys2Proof/Laws/KeptFaultControl.lean ====
section
/-!
SUPPORT. What the functions of Machine/FaultControl.lean keep.
-/

namespace Sys2Proof.Machine

set_option linter.unusedSimpArgs false

variable {anyMem : Bool}

@[simp] theorem keep_countEcc (s : State) (m : Nat) (corrected : Bool) :
    (State.countEcc s m corrected).keepOf anyMem = s.keepOf anyMem := by
  simp [State.countEcc, pendingK anyMem, tbSumK anyMem, wfK anyMem, keep_mk]

@[simp] theorem keep_alarm (s : State) (level : Nat) (cls : Nat) :
    (State.alarm s level cls).keepOf anyMem = s.keepOf anyMem := by
  simp [State.alarm, pendingK anyMem, tbSumK anyMem, wfK anyMem, keep_mk]

@[simp] theorem keep_faultActionNotice (s : State) (cls : BitVec 4) (act : BitVec 4) (x3 : BitVec 24) :
    (State.faultActionNotice s cls act x3).keepOf anyMem = s.keepOf anyMem := by
  simp [State.faultActionNotice, pendingK anyMem, tbSumK anyMem, wfK anyMem, keep_mk]

@[simp] theorem keep_retireLine (s : State) (m : Nat) (line : Nat) :
    (State.retireLine s m line).keepOf anyMem = s.keepOf anyMem := by
  unfold State.retireLine
  dsimp only
  (repeat' split) <;> simp [pendingK anyMem, tbSumK anyMem, wfK anyMem, keep_mk]

@[simp] theorem keep_loseHearth (s : State) (h : HearthId) :
    (State.loseHearth s h).keepOf anyMem = s.keepOf anyMem := by
  simp [State.loseHearth, pendingK anyMem, tbSumK anyMem, wfK anyMem, keep_mk]

@[simp] theorem keep_makeSafe (s : State) (ch : Chan) :
    (State.makeSafe s ch).keepOf anyMem = s.keepOf anyMem := by
  simp [State.makeSafe, pendingK anyMem, tbSumK anyMem, wfK anyMem, keep_mk]

/-- All of a list of channels are made safe. -/

theorem keep_safeAll (s : State) (l : List Nat) :
    ((l.foldl (fun s c => s.makeSafe (BitVec.ofNat 9 c)) s).keepOf anyMem) = (s.keepOf anyMem) := keep_foldl _ _ _ fun s c => by simp

@[simp] theorem keep_loseBlock (s : State) (cls : Nat) : ((State.loseBlock s cls).keepOf anyMem) = (s.keepOf anyMem) := by
  have e : ∀ u : State, (({ u with mirror := { u.mirror with stopped := true }, faults := { u.faults with block := true } } :
    State).keepOf anyMem) = (u.keepOf anyMem) := fun u => rfl
  unfold State.loseBlock
  rw [keep_alarm, e, keep_safeAll]
  exact keep_foldl _ _ _ fun s kv => by simp

@[simp] theorem keep_loseCore (s : State) (c : CoreId) (cls : Nat) :
    (State.loseCore s c cls).keepOf anyMem = s.keepOf anyMem := by
  simp [State.loseCore, pendingK anyMem, tbSumK anyMem, wfK anyMem, keep_mk]

@[simp] theorem keep_loseBank (s : State) (b : BankId) :
    (State.loseBank s b).keepOf anyMem = s.keepOf anyMem := by
  simp [State.loseBank, pendingK anyMem, tbSumK anyMem, wfK anyMem, keep_mk]

@[simp] theorem keep_dropWords (s : State) (ws : List QWord) :
    (State.dropWords s ws).keepOf anyMem = s.keepOf anyMem := by
  simp [State.dropWords, pendingK anyMem, tbSumK anyMem, wfK anyMem, keep_mk]

@[simp] theorem keep_dropNotices (s : State) (k : Quadrant) : ((State.dropNotices s k).keepOf anyMem) = (s.keepOf anyMem) := by
  refine keep_foldl _ _ _ fun s h => ?_
  repeat' split
  all_goals simp

@[simp] theorem keep_loseQuad (s : State) (k : Quadrant) :
    (State.loseQuad s k).keepOf anyMem = s.keepOf anyMem := by
  simp [State.loseQuad, pendingK anyMem, tbSumK anyMem, wfK anyMem, keep_mk]

@[simp] theorem keep_loseEngine (s : State) (e : EngineId) :
    (State.loseEngine s e).keepOf anyMem = s.keepOf anyMem := by
  simp [State.loseEngine, pendingK anyMem, tbSumK anyMem, wfK anyMem, keep_mk]

@[simp] theorem keep_loseRegion (s : State) (m : Nat) (cls : Nat) :
    (State.loseRegion s m cls).keepOf anyMem = s.keepOf anyMem := by
  simp [State.loseRegion, pendingK anyMem, tbSumK anyMem, wfK anyMem, keep_mk]

@[simp] theorem keep_actEffect (s : State) (cls : Nat) (act : Nat) (x3 : BitVec 24) (h : (s.keepOf anyMem).2.2 = true) :
    (State.actEffect s cls act x3).keepOf anyMem = s.keepOf anyMem := by
  unfold State.actEffect
  (repeat' split) <;> simp [pendingK anyMem, tbSumK anyMem, wfK anyMem, keep_mk, h, Prod.ext_iff]

@[simp] theorem keep_act (s : State) (cls : BitVec 4) (x2 : BitVec 24) (h : (s.keepOf anyMem).2.2 = true) :
    (State.act s cls x2).keepOf anyMem = s.keepOf anyMem := by
  simp [State.act, pendingK anyMem, tbSumK anyMem, wfK anyMem, keep_mk, h, Prod.ext_iff]

@[simp] theorem keep_track (s : State) (cls : BitVec 4) (x2 : BitVec 24) (h : (s.keepOf anyMem).2.2 = true) :
    (State.track s cls x2).keepOf anyMem = s.keepOf anyMem := by
  unfold State.track
  dsimp only
  (repeat' split) <;> simp [pendingK anyMem, tbSumK anyMem, wfK anyMem, keep_mk, h, Prod.ext_iff]

@[simp] theorem keep_countEvent (s : State) (cls : BitVec 4) (x2 : BitVec 24) (h : (s.keepOf anyMem).2.2 = true) :
    (State.countEvent s cls x2).keepOf anyMem = s.keepOf anyMem := by
  unfold State.countEvent
  dsimp only
  (repeat' split) <;> simp [pendingK anyMem, tbSumK anyMem, wfK anyMem, keep_mk, h, Prod.ext_iff]

@[simp] theorem keep_fetchFault (s : State) (e : EngineId) (line : Nat) :
    (State.fetchFault s e line).keepOf anyMem = s.keepOf anyMem := by
  unfold State.fetchFault
  (repeat' split) <;> simp [pendingK anyMem, tbSumK anyMem, wfK anyMem, keep_mk]

@[simp] theorem keep_errorFound (s : State) (m : Nat) (line : Nat) :
    (State.errorFound s m line).keepOf anyMem = s.keepOf anyMem := by
  simp [State.errorFound, pendingK anyMem, tbSumK anyMem, wfK anyMem, keep_mk]

@[simp] theorem keep_faultEvent (s : State) (cls : BitVec 4) (x2 : BitVec 24) (h : (s.keepOf anyMem).2.2 = true) :
    (State.faultEvent s cls x2).keepOf anyMem = s.keepOf anyMem := by
  simp [State.faultEvent, pendingK anyMem, tbSumK anyMem, wfK anyMem, keep_mk, h, Prod.ext_iff]

@[simp] theorem keep_execFaultEvent (cls : BitVec 4) (x1 : BitVec 24) (s : State) (h : (s.keepOf anyMem).2.2 = true) :
    outKeep anyMem (execFaultEvent cls x1 s) = some (s.keepOf anyMem) := by
  simp [execFaultEvent, pendingK anyMem, tbSumK anyMem, wfK anyMem, keep_mk, h, Prod.ext_iff]

@[simp] theorem keep_wrScfg (s : State) (w : Writer) (c : Nat) (v : Word) :
    (State.wrScfg s w c v).keepOf anyMem = s.keepOf anyMem := by
  simp [State.wrScfg, pendingK anyMem, tbSumK anyMem, wfK anyMem, keep_mk]

@[simp] theorem keep_wrInj (s : State) (w : Writer) (v : Word) (h : (s.keepOf anyMem).2.2 = true) :
    (State.wrInj s w v).keepOf anyMem = s.keepOf anyMem := by
  simp [State.wrInj, pendingK anyMem, tbSumK anyMem, wfK anyMem, keep_mk, h, Prod.ext_iff]

@[simp] theorem keep_execFaultInject (w : Writer) (cls : BitVec 4) (x2 : BitVec 24) (s : State) (h : (s.keepOf anyMem).2.2 = true) :
    outKeep anyMem (execFaultInject w cls x2 s) = some (s.keepOf anyMem) := by
  simp [execFaultInject, pendingK anyMem, tbSumK anyMem, wfK anyMem, keep_mk, h, Prod.ext_iff]

@[simp] theorem keep_execScntRead (cls : BitVec 4) (s : State) :
    outKeep anyMem (execScntRead cls s) = some (s.keepOf anyMem) := by
  simp [execScntRead, pendingK anyMem, tbSumK anyMem, wfK anyMem, keep_mk]

@[simp] theorem keep_execFltStatRead (s : State) :
    outKeep anyMem (execFltStatRead s) = some (s.keepOf anyMem) := by
  simp [execFltStatRead, pendingK anyMem, tbSumK anyMem, wfK anyMem, keep_mk]

end Sys2Proof.Machine
end

