-- ==== Sys2Proof/Laws/KeptEmberControl.lean ====
section
/-!
SUPPORT. What the functions of Machine/EmberControl.lean keep.
-/

namespace Sys2Proof.Machine

set_option linter.unusedSimpArgs false

variable {anyMem : Bool}

@[simp] theorem keep_timerSecond (s : State) :
    (State.timerSecond s).keepOf anyMem = s.keepOf anyMem := by
  simp [State.timerSecond, pendingK anyMem, tbSumK anyMem, wfK anyMem, keep_mk]

@[simp] theorem keep_calSecond (s : State) :
    (State.calSecond s).keepOf anyMem = s.keepOf anyMem := by
  simp [State.calSecond, pendingK anyMem, tbSumK anyMem, wfK anyMem, keep_mk]

@[simp] theorem keep_execCalendarSecond (s : State) :
    outKeep anyMem (execCalendarSecond s) = some (s.keepOf anyMem) := by
  simp [execCalendarSecond, pendingK anyMem, tbSumK anyMem, wfK anyMem, keep_mk]

@[simp] theorem keep_rejectSet (s : State) (code : Nat) :
    (State.rejectSet s code).keepOf anyMem = s.keepOf anyMem := by
  simp [State.rejectSet, pendingK anyMem, tbSumK anyMem, wfK anyMem, keep_mk]

@[simp] theorem keep_calSet (s : State) :
    (State.calSet s).keepOf anyMem = s.keepOf anyMem := by
  simp [State.calSet, pendingK anyMem, tbSumK anyMem, wfK anyMem, keep_mk]

@[simp] theorem keep_calApply (s : State) :
    (State.calApply s).keepOf anyMem = s.keepOf anyMem := by
  unfold State.calApply
  dsimp only
  (repeat' split) <;> simp [pendingK anyMem, tbSumK anyMem, wfK anyMem, keep_mk]

@[simp] theorem keep_execCalendarSetApply (s : State) :
    outKeep anyMem (execCalendarSetApply s) = some (s.keepOf anyMem) := by
  simp [execCalendarSetApply, pendingK anyMem, tbSumK anyMem, wfK anyMem, keep_mk]

@[simp] theorem keep_wrEmb (s : State) (w : Writer) (k : RegKind) (i : Nat) (v : Word) :
    (State.wrEmb s w k i v).keepOf anyMem = s.keepOf anyMem := by
  simp [State.wrEmb, pendingK anyMem, tbSumK anyMem, wfK anyMem, keep_mk]

@[simp] theorem keep_execCalendarSet (w : Writer) (s : State) :
    outKeep anyMem (execCalendarSet w s) = some (s.keepOf anyMem) := by
  simp [execCalendarSet, pendingK anyMem, tbSumK anyMem, wfK anyMem, keep_mk]

@[simp] theorem keep_embApply (s : State) (off : Nat) (v : Word) :
    (State.embApply s off v).keepOf anyMem = s.keepOf anyMem := by
  unfold State.embApply
  (repeat' split) <;> simp [pendingK anyMem, tbSumK anyMem, wfK anyMem, keep_mk]

@[simp] theorem keep_embWrites (s : State) :
    (State.embWrites s).keepOf anyMem = s.keepOf anyMem := by
  simp [State.embWrites, pendingK anyMem, tbSumK anyMem, wfK anyMem, keep_mk]

@[simp] theorem keep_wakePort (s : State) (p : Nat) (high : Bool) :
    (State.wakePort s p high).keepOf anyMem = s.keepOf anyMem := by
  simp [State.wakePort, pendingK anyMem, tbSumK anyMem, wfK anyMem, keep_mk]

@[simp] theorem keep_wakeSeen (s : State) (p : BitVec 5) :
    (State.wakeSeen s p).keepOf anyMem = s.keepOf anyMem := by
  simp [State.wakeSeen, pendingK anyMem, tbSumK anyMem, wfK anyMem, keep_mk]

@[simp] theorem keep_execWakeRecognised (p : BitVec 5) (s : State) :
    outKeep anyMem (execWakeRecognised p s) = some (s.keepOf anyMem) := by
  simp [execWakeRecognised, pendingK anyMem, tbSumK anyMem, wfK anyMem, keep_mk]

@[simp] theorem keep_timerFired (s : State) :
    (State.timerFired s).keepOf anyMem = s.keepOf anyMem := by
  simp [State.timerFired, pendingK anyMem, tbSumK anyMem, wfK anyMem, keep_mk]

@[simp] theorem keep_execWakeTimerFired (s : State) :
    outKeep anyMem (execWakeTimerFired s) = some (s.keepOf anyMem) := by
  simp [execWakeTimerFired, pendingK anyMem, tbSumK anyMem, wfK anyMem, keep_mk]

@[simp] theorem keep_embSettle (s : State) :
    (State.embSettle s).keepOf anyMem = s.keepOf anyMem := by
  simp [State.embSettle, pendingK anyMem, tbSumK anyMem, wfK anyMem, keep_mk]

@[simp] theorem keep_emberTick (s : State) (pins : BitVec 32) :
    (State.emberTick s pins).keepOf anyMem = s.keepOf anyMem := by
  simp [State.emberTick, pendingK anyMem, tbSumK anyMem, wfK anyMem, keep_mk]

@[simp] theorem keep_execEmberTick (pins : BitVec 32) (s : State) :
    outKeep anyMem (execEmberTick pins s) = some (s.keepOf anyMem) := by
  simp [execEmberTick, pendingK anyMem, tbSumK anyMem, wfK anyMem, keep_mk]

@[simp] theorem keep_execEmberClockStop (s : State) :
    outKeep anyMem (execEmberClockStop s) = some (s.keepOf anyMem) := by
  simp [execEmberClockStop, pendingK anyMem, tbSumK anyMem, wfK anyMem, keep_mk]

@[simp] theorem keep_emberLoss (s : State) :
    (State.emberLoss s).keepOf anyMem = s.keepOf anyMem := by
  simp [State.emberLoss, pendingK anyMem, tbSumK anyMem, wfK anyMem, keep_mk]

@[simp] theorem keep_sentinelCheck (s : State) :
    (State.sentinelCheck s).keepOf anyMem = s.keepOf anyMem := by
  simp [State.sentinelCheck, pendingK anyMem, tbSumK anyMem, wfK anyMem, keep_mk]

@[simp] theorem keep_execRetokFall (s : State) :
    outKeep anyMem (execRetokFall s) = some (s.keepOf anyMem) := by
  simp [execRetokFall, pendingK anyMem, tbSumK anyMem, wfK anyMem, keep_mk]

@[simp] theorem keep_execRetokRise (s : State) :
    outKeep anyMem (execRetokRise s) = some (s.keepOf anyMem) := by
  simp [execRetokRise, pendingK anyMem, tbSumK anyMem, wfK anyMem, keep_mk]

@[simp] theorem keep_readCal0 (s : State) (mst : Master) :
    (State.readCal0 s mst).keepOf anyMem = s.keepOf anyMem := by
  simp [State.readCal0, pendingK anyMem, tbSumK anyMem, wfK anyMem, keep_mk]

@[simp] theorem keep_execCal0Read (mst : Master) (s : State) :
    outKeep anyMem (execCal0Read mst s) = some (s.keepOf anyMem) := by
  simp [execCal0Read, pendingK anyMem, tbSumK anyMem, wfK anyMem, keep_mk]

end Sys2Proof.Machine
end

