-- ==== Sys2Proof/Laws/KeptBootOps.lean ====
section
/-!
SUPPORT. What the functions of Machine/BootOps.lean keep.
-/

namespace Sys2Proof.Machine

set_option linter.unusedSimpArgs false

variable {anyMem : Bool}

@[simp] theorem keep_bootFail (s : State) (err : Byte) (sec : Byte) :
    (State.bootFail s err sec).keepOf anyMem = s.keepOf anyMem := by
  simp [State.bootFail, pendingK anyMem, tbSumK anyMem, wfK anyMem, keep_mk]

@[simp] theorem keep_fillPools (s : State) :
    (State.fillPools s).keepOf anyMem = s.keepOf anyMem := by
  simp [State.fillPools, pendingK anyMem, tbSumK anyMem, wfK anyMem, keep_mk]

@[simp] theorem keep_resetThread (s : State) (t : Tid) :
    (State.resetThread s t).keepOf anyMem = s.keepOf anyMem := by
  simp [State.resetThread, pendingK anyMem, tbSumK anyMem, wfK anyMem, keep_mk]

@[simp] theorem keep_resetCore (s : State) (c : CoreId) (m : PredMode) :
    (State.resetCore s c m).keepOf anyMem = s.keepOf anyMem := by
  simp [State.resetCore, pendingK anyMem, tbSumK anyMem, wfK anyMem, keep_mk]

@[simp] theorem keep_blank (s : State) (c : Nat) : ((State.blank s c).keepOf anyMem) = (s.pending, (0, 0xAAAAAAAB), true) := by
  cases anyMem <;> rfl

@[simp] theorem keep_startRom (s : State) (straps : Byte) (hold : Bool) (lc : BitVec 3) :
    (State.startRom s straps hold lc).keepOf anyMem = s.keepOf anyMem := by
  simp [State.startRom, pendingK anyMem, tbSumK anyMem, wfK anyMem, keep_mk]

@[simp] theorem keep_execColdReset (straps : Byte) (hold : Bool) (lc : BitVec 3) (s : State) :
    outKeep anyMem (execColdReset straps hold lc s) = some (s.pending, (0, 0xAAAAAAAB), true) := by
  refine congrArg some ?_
  rw [keep_startRom, keep_sentinelCheck, keep_blank]

@[simp] theorem keep_pairDown (s : State) :
    (State.pairDown s).keepOf anyMem = s.keepOf anyMem := by
  simp [State.pairDown, pendingK anyMem, tbSumK anyMem, wfK anyMem, keep_mk]

@[simp] theorem keep_doReload (s : State) (source : Nat) (straps : Byte) (hold : Bool) (lc : BitVec 3) (h : (s.keepOf anyMem).2.2 = true) :
    (State.doReload s source straps hold lc).keepOf anyMem = s.keepOf anyMem := by
  simp [State.doReload, pendingK anyMem, tbSumK anyMem, wfK anyMem, keep_mk, h, Prod.ext_iff]

@[simp] theorem keep_releaseRel (s : State) (crit : Bool) (rest : Bool) :
    (State.releaseRel s crit rest).keepOf anyMem = s.keepOf anyMem := by
  simp [State.releaseRel, pendingK anyMem, tbSumK anyMem, wfK anyMem, keep_mk]

@[simp] theorem keep_tryGo (s : State) :
    (State.tryGo s).keepOf anyMem = s.keepOf anyMem := by
  simp [State.tryGo, pendingK anyMem, tbSumK anyMem, wfK anyMem, keep_mk]

@[simp] theorem keep_emptyQueues (s : State) :
    (State.emptyQueues s).keepOf anyMem = s.keepOf anyMem := by
  simp [State.emptyQueues, pendingK anyMem, tbSumK anyMem, wfK anyMem, keep_mk]

@[simp] theorem keep_dropDirectory (s : State) :
    (State.dropDirectory s).keepOf anyMem = s.keepOf anyMem := by
  simp [State.dropDirectory, pendingK anyMem, tbSumK anyMem, wfK anyMem, keep_mk]

@[simp] theorem keep_warmThreads (s : State) : ((State.warmThreads s).keepOf anyMem) = (s.keepOf anyMem) := by
  have a : ∀ (l : List Nat) (u : State), ((l.foldl (fun s n =>
    s.setThr (BitVec.ofNat 9 n) { (s.thr (BitVec.ofNat 9 n)).reset (BitVec.ofNat 9 n) with roleBusy := some (s.cycle + 1025) })
      u).keepOf anyMem) = (u.keepOf anyMem) := fun l u => keep_foldl _ _ _ fun s n => by simp
  have b : ∀ (l : List CoreId) (u : State), ((l.foldl (fun s c => s.resetCore c .service) u).keepOf anyMem) = (u.keepOf anyMem) := fun l u =>
      keep_foldl _ _ _ fun s n => by simp
  unfold State.warmThreads
  dsimp only
  rw [b, a]; rfl


@[simp] theorem keep_warmPins (s : State) : ((State.warmPins s).keepOf anyMem) = (s.keepOf anyMem) := by
  have e : ∀ (u : State) (m : SMap Task), (({ u with tasks := m } : State).keepOf anyMem) = (u.keepOf anyMem) := fun u m => rfl
  unfold State.warmPins
  rw [e, keep_safeAll]; rfl

@[simp] theorem keep_doWarm (s : State) :
    (State.doWarm s).keepOf anyMem = s.keepOf anyMem := by
  unfold State.doWarm
  dsimp only
  (repeat' split) <;> simp [pendingK anyMem, tbSumK anyMem, wfK anyMem, keep_mk]

@[simp] theorem keep_orphanNotices (s : State) (h : HearthId) : ((State.orphanNotices s h).keepOf anyMem) = (s.keepOf anyMem) := by
  refine keep_foldl _ _ _ fun s w => ?_
  split
  · rfl
  · split <;> simp

@[simp] theorem keep_clearHearth (s : State) (h : HearthId) :
    (State.clearHearth s h).keepOf anyMem = s.keepOf anyMem := by
  simp [State.clearHearth, pendingK anyMem, tbSumK anyMem, wfK anyMem, keep_mk]

@[simp] theorem keep_startHearth (s : State) (h : HearthId) (source : Nat) (hk : (s.keepOf anyMem).2.2 = true) :
    ((State.startHearth s h source).keepOf anyMem) = (s.keepOf anyMem) := by
  have b : ∀ (l : List CoreId) (u : State), ((l.foldl (fun s c => (threadsOf c).foldl (fun s t => s.resetThread t)
      (s.resetCore c .recovery)) u).keepOf anyMem) = (u.keepOf anyMem) := fun l u =>
    keep_foldl _ _ _ fun s c => by rw [keep_foldl _ _ _ fun s t => keep_resetThread s t]; simp
  have m : ∀ (u : State) lo hi, (u.keepOf anyMem) = (s.keepOf anyMem) →
      (({ u.clearHearth h with mem := clearRange u.mem lo hi } : State).keepOf anyMem) = (s.keepOf anyMem) := by
    intro u lo hi e
    have k := keep_mem (anyMem := anyMem) u _ (wf_clearRange u.mem lo hi) (by rw [e]; exact hk)
    exact Eq.trans (by rfl) (k.trans e)
  have e : ∀ (u : State) (x : Boot), (({ u with boot := x } : State).keepOf anyMem) = (u.keepOf anyMem) := fun u m => rfl
  unfold State.startHearth
  extract_lets s0 f s1 s2 sd lo c s3 s4 s5 s6 g
  have k1 : s1.keepOf anyMem = s.keepOf anyMem := by
    simp only [s1]; split
    · simp [s0]
    · exact Eq.trans (by rfl) (keep_wakeDomain (anyMem := anyMem) s h.toNat)
  have k2 : s2.keepOf anyMem = s.keepOf anyMem := (b _ _).trans k1
  have kd : sd.keepOf anyMem = s.keepOf anyMem := by simp only [sd]; split <;> simp [k2]
  have k3 : s3.keepOf anyMem = s.keepOf anyMem := m _ _ _ kd
  have k6 : s6.keepOf anyMem = s.keepOf anyMem := by simp only [s6, s5, s4, keep_setFld, keep_setReg, k3]
  rw [keep_orphanNotices]
  exact (e _ _).trans k6


@[simp] theorem keep_resetIgnored (s : State) :
    (State.resetIgnored s).keepOf anyMem = s.keepOf anyMem := by
  simp [State.resetIgnored, pendingK anyMem, tbSumK anyMem, wfK anyMem, keep_mk]

@[simp] theorem keep_settleReset (s : State) (h : (s.keepOf anyMem).2.2 = true) :
    (State.settleReset s).keepOf anyMem = s.keepOf anyMem := by
  unfold State.settleReset
  (repeat' split) <;> simp [pendingK anyMem, tbSumK anyMem, wfK anyMem, keep_mk, h, Prod.ext_iff]

@[simp] theorem keep_resetDue (s : State) (d : ResetDue) (h : (s.keepOf anyMem).2.2 = true) :
    (State.resetDue s d).keepOf anyMem = s.keepOf anyMem := by
  simp [State.resetDue, pendingK anyMem, tbSumK anyMem, wfK anyMem, keep_mk, h, Prod.ext_iff]

@[simp] theorem keep_requestReload (s : State) (source : Nat) (straps : Byte) (hold : Bool) (lc : BitVec 3) (h : (s.keepOf anyMem).2.2 = true) :
    (State.requestReload s source straps hold lc).keepOf anyMem = s.keepOf anyMem := by
  simp [State.requestReload, pendingK anyMem, tbSumK anyMem, wfK anyMem, keep_mk, h, Prod.ext_iff]

@[simp] theorem keep_requestWarm (s : State) (h : (s.keepOf anyMem).2.2 = true) :
    (State.requestWarm s).keepOf anyMem = s.keepOf anyMem := by
  simp [State.requestWarm, pendingK anyMem, tbSumK anyMem, wfK anyMem, keep_mk, h, Prod.ext_iff]

@[simp] theorem keep_requestHearth (s : State) (h : HearthId) (source : Nat) (hk : (s.keepOf anyMem).2.2 = true) :
    (State.requestHearth s h source).keepOf anyMem = s.keepOf anyMem := by
  simp [State.requestHearth, pendingK anyMem, tbSumK anyMem, wfK anyMem, keep_mk, hk, Prod.ext_iff]

@[simp] theorem keep_wrBootCtl (s : State) (w : Writer) (v : Word) (h : (s.keepOf anyMem).2.2 = true) :
    (State.wrBootCtl s w v).keepOf anyMem = s.keepOf anyMem := by
  unfold State.wrBootCtl
  (repeat' split) <;> simp [pendingK anyMem, tbSumK anyMem, wfK anyMem, keep_mk, h, Prod.ext_iff]

@[simp] theorem keep_execReload (src : ReloadSource) (straps : Byte) (hold : Bool) (lc : BitVec 3) (s : State) (h : (s.keepOf anyMem).2.2 = true) :
    outKeep anyMem (execReload src straps hold lc s) = some (s.keepOf anyMem) := by
  unfold execReload
  (repeat' split) <;> simp [pendingK anyMem, tbSumK anyMem, wfK anyMem, keep_mk, h, Prod.ext_iff]

@[simp] theorem keep_execWarmReset (w : Writer) (s : State) (h : (s.keepOf anyMem).2.2 = true) :
    outKeep anyMem (execWarmReset w s) = some (s.keepOf anyMem) := by
  simp [execWarmReset, pendingK anyMem, tbSumK anyMem, wfK anyMem, keep_mk, h, Prod.ext_iff]

@[simp] theorem keep_execHearthReset (w : Writer) (h : HearthId) (s : State) (hk : (s.keepOf anyMem).2.2 = true) :
    outKeep anyMem (execHearthReset w h s) = some (s.keepOf anyMem) := by
  simp [execHearthReset, pendingK anyMem, tbSumK anyMem, wfK anyMem, keep_mk, hk, Prod.ext_iff]

@[simp] theorem keep_execServiceReloadRequest (full32 : Bool) (v : Word) (straps : Byte) (hold : Bool) (lc : BitVec 3) (s : State) (h : (s.keepOf anyMem).2.2 = true) :
    outKeep anyMem (execServiceReloadRequest full32 v straps hold lc s) = some (s.keepOf anyMem) := by
  simp [execServiceReloadRequest, pendingK anyMem, tbSumK anyMem, wfK anyMem, keep_mk, h, Prod.ext_iff]

end Sys2Proof.Machine
end

