-- ==== Sys2Proof/Laws/KeptRegAccess.lean ====
section
/-!
SUPPORT. What the functions of Machine/RegAccess.lean keep.
-/

namespace Sys2Proof.Machine

set_option linter.unusedSimpArgs false

variable {anyMem : Bool}

@[simp] theorem keep_wrBlock (s : State) (w : Writer) (k : RegKind) (i : Nat) (j : Nat) (v : Word) :
    (State.wrBlock s w k i j v).keepOf anyMem = s.keepOf anyMem := by
  simp [State.wrBlock, pendingK anyMem, tbSumK anyMem, wfK anyMem, keep_mk]

@[simp] theorem keep_wrFlags (s : State) (w : Writer) (k : RegKind) (i : Nat) (j : Nat) (v : Word) :
    (State.wrFlags s w k i j v).keepOf anyMem = s.keepOf anyMem := by
  simp [State.wrFlags, pendingK anyMem, tbSumK anyMem, wfK anyMem, keep_mk]

@[simp] theorem keep_wrThrFlags (s : State) (w : Writer) (k : RegKind) (t : Tid) (v : Word) :
    (State.wrThrFlags s w k t v).keepOf anyMem = s.keepOf anyMem := by
  unfold State.wrThrFlags
  (repeat' split) <;> simp [pendingK anyMem, tbSumK anyMem, wfK anyMem, keep_mk]

@[simp] theorem keep_wrCoreUnit (s : State) (w : Writer) (k : RegKind) (i : Nat) (j : Nat) (v : Word) :
    (State.wrCoreUnit s w k i j v).keepOf anyMem = s.keepOf anyMem := by
  unfold State.wrCoreUnit
  (repeat' split) <;> simp [pendingK anyMem, tbSumK anyMem, wfK anyMem, keep_mk]

@[simp] theorem keep_wrMemUnit (s : State) (w : Writer) (k : RegKind) (i : Nat) (j : Nat) (v : Word) (h : (s.keepOf anyMem).2.2 = true) :
    (State.wrMemUnit s w k i j v).keepOf anyMem = s.keepOf anyMem := by
  unfold State.wrMemUnit
  (repeat' split) <;> simp [pendingK anyMem, tbSumK anyMem, wfK anyMem, keep_mk, h, Prod.ext_iff]

@[simp] theorem keep_wrQueueUnit (s : State) (w : Writer) (k : RegKind) (i : Nat) (j : Nat) (v : Word) :
    (State.wrQueueUnit s w k i j v).keepOf anyMem = s.keepOf anyMem := by
  unfold State.wrQueueUnit
  (repeat' split) <;> simp [pendingK anyMem, tbSumK anyMem, wfK anyMem, keep_mk]

@[simp] theorem keep_wrPinUnit (s : State) (w : Writer) (k : RegKind) (i : Nat) (j : Nat) (v : Word) :
    (State.wrPinUnit s w k i j v).keepOf anyMem = s.keepOf anyMem := by
  unfold State.wrPinUnit
  (repeat' split) <;> simp [pendingK anyMem, tbSumK anyMem, wfK anyMem, keep_mk]

@[simp] theorem keep_wrTimeUnit (s : State) (w : Writer) (k : RegKind) (i : Nat) (j : Nat) (v : Word) :
    (State.wrTimeUnit s w k i j v).keepOf anyMem = s.keepOf anyMem := by
  unfold State.wrTimeUnit
  (repeat' split) <;> simp [pendingK anyMem, tbSumK anyMem, wfK anyMem, keep_mk]

@[simp] theorem keep_wrSignalUnit (s : State) (w : Writer) (k : RegKind) (i : Nat) (j : Nat) (v : Word) :
    (State.wrSignalUnit s w k i j v).keepOf anyMem = s.keepOf anyMem := by
  unfold State.wrSignalUnit
  (repeat' split) <;> simp [pendingK anyMem, tbSumK anyMem, wfK anyMem, keep_mk]

@[simp] theorem keep_wrLinkUnit (s : State) (w : Writer) (k : RegKind) (i : Nat) (j : Nat) (v : Word) (h : (s.keepOf anyMem).2.2 = true) :
    (State.wrLinkUnit s w k i j v).keepOf anyMem = s.keepOf anyMem := by
  unfold State.wrLinkUnit
  (repeat' split) <;> simp [pendingK anyMem, tbSumK anyMem, wfK anyMem, keep_mk, h, Prod.ext_iff]

@[simp] theorem keep_wrWindow (s : State) (w : Writer) (k : RegKind) (i : Nat) (v : Word) :
    (State.wrWindow s w k i v).keepOf anyMem = s.keepOf anyMem := by
  simp [State.wrWindow, pendingK anyMem, tbSumK anyMem, wfK anyMem, keep_mk]

@[simp] theorem keep_wrHostUnit (s : State) (w : Writer) (k : RegKind) (i : Nat) (j : Nat) (v : Word) (h : (s.keepOf anyMem).2.2 = true) :
    (State.wrHostUnit s w k i j v).keepOf anyMem = s.keepOf anyMem := by
  unfold State.wrHostUnit
  (repeat' split) <;> simp [pendingK anyMem, tbSumK anyMem, wfK anyMem, keep_mk, h, Prod.ext_iff]

@[simp] theorem keep_wrKind (s : State) (w : Writer) (k : RegKind) (i : Nat) (j : Nat) (v : Word) (h : (s.keepOf anyMem).2.2 = true) :
    (State.wrKind s w k i j v).keepOf anyMem = s.keepOf anyMem := by
  simp [State.wrKind, pendingK anyMem, tbSumK anyMem, wfK anyMem, keep_mk, h, Prod.ext_iff]

@[simp] theorem keep_regWrite (s : State) (w : Writer) (off : Nat) (v : Word) (h : (s.keepOf anyMem).2.2 = true) :
    (State.regWrite s w off v).keepOf anyMem = s.keepOf anyMem := by
  unfold State.regWrite
  (repeat' split) <;> simp [pendingK anyMem, tbSumK anyMem, wfK anyMem, keep_mk, h, Prod.ext_iff]

@[simp] theorem keep_answered (s : State) (v : Word) :
    (State.answered s v).keepOf anyMem = s.keepOf anyMem := by
  simp [State.answered, pendingK anyMem, tbSumK anyMem, wfK anyMem, keep_mk]

@[simp] theorem keep_regPeek (s : State) (mst : Master) (k : RegKind) (i : Nat) (j : Nat) :
    (State.regPeek s mst k i j).keepOf anyMem = s.keepOf anyMem := by
  unfold State.regPeek
  (repeat' split) <;> simp [pendingK anyMem, tbSumK anyMem, wfK anyMem, keep_mk]

@[simp] theorem keep_readClears (s : State) (k : RegKind) (i : Nat) (j : Nat) :
    (State.readClears s k i j).keepOf anyMem = s.keepOf anyMem := by
  simp [State.readClears, pendingK anyMem, tbSumK anyMem, wfK anyMem, keep_mk]

@[simp] theorem keep_regRead (s : State) (mst : Master) (off : Nat) :
    (State.regRead s mst off).keepOf anyMem = s.keepOf anyMem := by
  unfold State.regRead
  (repeat' split) <;> simp [pendingK anyMem, tbSumK anyMem, wfK anyMem, keep_mk]

@[simp] theorem keep_execRegisterWrite (w : Writer) (off : BitVec 24) (v : Word) (s : State) (h : (s.keepOf anyMem).2.2 = true) :
    outKeep anyMem (execRegisterWrite w off v s) = some (s.keepOf anyMem) := by
  simp [execRegisterWrite, pendingK anyMem, tbSumK anyMem, wfK anyMem, keep_mk, h, Prod.ext_iff]

@[simp] theorem keep_execSwinCfgWrite (w : Writer) (k : BitVec 4) (v : Word) (s : State) :
    outKeep anyMem (execSwinCfgWrite w k v s) = some (s.keepOf anyMem) := by
  simp [execSwinCfgWrite, pendingK anyMem, tbSumK anyMem, wfK anyMem, keep_mk]

@[simp] theorem keep_hostPeek (s : State) (off : Nat) :
    (State.hostPeek s off).keepOf anyMem = s.keepOf anyMem := by
  unfold State.hostPeek
  (repeat' split) <;> simp [pendingK anyMem, tbSumK anyMem, wfK anyMem, keep_mk]

@[simp] theorem keep_hostPeek2 (s : State) (off : Nat) :
    (State.hostPeek2 s off).keepOf anyMem = s.keepOf anyMem := by
  simp [State.hostPeek2, pendingK anyMem, tbSumK anyMem, wfK anyMem, keep_mk]

@[simp] theorem keep_hostRead (s : State) (o : Nat) (two : Bool) :
    (State.hostRead s o two).keepOf anyMem = s.keepOf anyMem := by
  simp [State.hostRead, pendingK anyMem, tbSumK anyMem, wfK anyMem, keep_mk]

@[simp] theorem keep_execHostViewRead (off : BitVec 24) (two : Bool) (s : State) :
    outKeep anyMem (execHostViewRead off two s) = some (s.keepOf anyMem) := by
  unfold execHostViewRead
  dsimp only
  refine congrArg some ?_
  (repeat' split) <;> simp [pendingK anyMem, tbSumK anyMem, wfK anyMem, keep_mk]

@[simp] theorem keep_drainRegs (s : State) (h : (s.keepOf anyMem).2.2 = true) :
    (State.drainRegs s).keepOf anyMem = s.keepOf anyMem := by
  have e : ({ s with regWaits := [] } : State).keepOf anyMem = s.keepOf anyMem := rfl
  unfold State.drainRegs
  refine (keep_foldl_wf _ _ _ (e ▸ h) fun u x hu => ?_).trans e
  cases x.acc <;> simp [hu]

@[simp] theorem keep_execHostViewWrite (x0 : BitVec 24) (s : State) :
    outKeep anyMem (execHostViewWrite x0 s) = some (s.keepOf anyMem) := by
  simp [execHostViewWrite, pendingK anyMem, tbSumK anyMem, wfK anyMem, keep_mk]

@[simp] theorem keep_execHostUnmappedAccess (off : BitVec 24) (s : State) :
    outKeep anyMem (execHostUnmappedAccess off s) = some (s.keepOf anyMem) := by
  simp [execHostUnmappedAccess, pendingK anyMem, tbSumK anyMem, wfK anyMem, keep_mk]

@[simp] theorem keep_execVstatRead (s : State) :
    outKeep anyMem (execVstatRead s) = some (s.keepOf anyMem) := by
  simp [execVstatRead, pendingK anyMem, tbSumK anyMem, wfK anyMem, keep_mk]

@[simp] theorem keep_execHerrRead (s : State) :
    outKeep anyMem (execHerrRead s) = some (s.keepOf anyMem) := by
  simp [execHerrRead, pendingK anyMem, tbSumK anyMem, wfK anyMem, keep_mk]

@[simp] theorem keep_execServiceStatRead (s : State) :
    outKeep anyMem (execServiceStatRead s) = some (s.keepOf anyMem) := by
  simp [execServiceStatRead, pendingK anyMem, tbSumK anyMem, wfK anyMem, keep_mk]

@[simp] theorem keep_vectorAnswered (s : State) (v : Byte) (ok : Bool) :
    (State.vectorAnswered s v ok).keepOf anyMem = s.keepOf anyMem := by
  simp [State.vectorAnswered, pendingK anyMem, tbSumK anyMem, wfK anyMem, keep_mk]

@[simp] theorem keep_execVectorWriteResponse (v : Byte) (ok : Bool) (s : State) :
    outKeep anyMem (execVectorWriteResponse v ok s) = some (s.keepOf anyMem) := by
  simp [execVectorWriteResponse, pendingK anyMem, tbSumK anyMem, wfK anyMem, keep_mk]

@[simp] theorem keep_creditReturned (s : State) (p : FabricPort) :
    (State.creditReturned s p).keepOf anyMem = s.keepOf anyMem := by
  unfold State.creditReturned
  (repeat' split) <;> simp [pendingK anyMem, tbSumK anyMem, wfK anyMem, keep_mk]

@[simp] theorem keep_execFabricCreditReturn (p : FabricPort) (s : State) :
    outKeep anyMem (execFabricCreditReturn p s) = some (s.keepOf anyMem) := by
  simp [execFabricCreditReturn, pendingK anyMem, tbSumK anyMem, wfK anyMem, keep_mk]

@[simp] theorem keep_execIrqPulseEnd (k : BitVec 3) (s : State) :
    outKeep anyMem (execIrqPulseEnd k s) = some (s.keepOf anyMem) := by
  simp [execIrqPulseEnd, pendingK anyMem, tbSumK anyMem, wfK anyMem, keep_mk]

@[simp] theorem keep_readTime0l (s : State) (t : Tid) :
    (State.readTime0l s t).keepOf anyMem = s.keepOf anyMem := by
  simp [State.readTime0l, pendingK anyMem, tbSumK anyMem, wfK anyMem, keep_mk]

@[simp] theorem keep_execTime0lRead (t : Tid) (s : State) :
    outKeep anyMem (execTime0lRead t s) = some (s.keepOf anyMem) := by
  simp [execTime0lRead, pendingK anyMem, tbSumK anyMem, wfK anyMem, keep_mk]

end Sys2Proof.Machine
end

