-- ==== Sys2Proof/Laws/KeptBootImage.lean ====
section
/-!
SUPPORT. What the functions of Machine/BootImage.lean keep.
-/

namespace Sys2Proof.Machine

set_option linter.unusedSimpArgs false

variable {anyMem : Bool}

@[simp] theorem keep_recordWrite (s : State) (off : Nat) (v : Word) (h : (s.keepOf anyMem).2.2 = true) :
    (State.recordWrite s off v).keepOf anyMem = s.keepOf anyMem := by
  simp [State.recordWrite, pendingK anyMem, tbSumK anyMem, wfK anyMem, keep_mk, h, Prod.ext_iff]

@[simp] theorem keep_recordRun (s : State) (off : Nat) (x2 : List Word) (h : (s.keepOf anyMem).2.2 = true) :
    (State.recordRun s off x2).keepOf anyMem = s.keepOf anyMem := by
  induction x2 generalizing s off with
  | nil => simp [State.recordRun, h]
  | cons y r ih => simp only [State.recordRun]; (repeat' split) <;> simp [ih, pendingK anyMem, tbSumK anyMem, wfK anyMem, keep_mk, h, Prod.ext_iff]

@[simp] theorem keep_loadWordAt (s : State) (ty : Byte) (n i : Nat) (v : Word) (h : (s.keepOf anyMem).2.2 = true) :
    ((State.loadWordAt s ty n i v).keepOf anyMem) = (s.keepOf anyMem) := by
  unfold State.loadWordAt
  repeat' split
  · rfl
  · simp [h]
  · simp [h]


@[simp] theorem keep_loadRun (s : State) (ty : Byte) (n : Nat) (i : Nat) (x4 : List Word) (h : (s.keepOf anyMem).2.2 = true) :
    (State.loadRun s ty n i x4).keepOf anyMem = s.keepOf anyMem := by
  induction x4 generalizing s ty n i with
  | nil => simp [State.loadRun, h]
  | cons y r ih => simp only [State.loadRun]; (repeat' split) <;> simp [ih, pendingK anyMem, tbSumK anyMem, wfK anyMem, keep_mk, h, Prod.ext_iff]

@[simp] theorem keep_pinLine (s : State) (line : Nat) (ws : List Word) :
    (State.pinLine s line ws).keepOf anyMem = s.keepOf anyMem := by
  unfold State.pinLine
  dsimp only
  (repeat' split) <;> simp [pendingK anyMem, tbSumK anyMem, wfK anyMem, keep_mk]

/-- A record that has its effect keeps these. -/

theorem keep_billetRecord (s t : State) (ty : Byte) (n : Nat) (w0 : Word) (rest : List Word) (m : Nat)
    (h : (s.keepOf anyMem).2.2 = true) (e : s.billetRecord ty n w0 rest = some (m, t)) : (t.keepOf anyMem) = (s.keepOf anyMem) := by
  unfold State.billetRecord at e
  dsimp only at e
  repeat' split at e
  all_goals first
    | (cases e; done)
    | (cases e; simp [h])

@[simp] theorem keep_records (ty : Byte) (n : Nat) (x2 : Nat) (x3 : List Word) (x4 : State) (h : (x4.keepOf anyMem).2.2 = true) :
    ((State.records ty n x2 x3 x4).1.keepOf anyMem) = (x4.keepOf anyMem) := by
  induction x2 generalizing x3 x4 with
  | zero => cases x3 <;> rfl
  | succ k ih =>
    cases x3 with
    | nil => rfl
    | cons w r =>
      unfold State.records
      split
      · rfl
      · rename_i e
        have := keep_billetRecord (anyMem := anyMem) _ _ _ _ _ _ _ h e
        rw [ih _ _ (by rw [this]; exact h), this]

@[simp] theorem keep_loadSection (s : State) (e : SectEntry) (bytes : List Byte) (h : (s.keepOf anyMem).2.2 = true) :
    (State.loadSection s e bytes).1.keepOf anyMem = s.keepOf anyMem := by
  unfold State.loadSection
  (repeat' split) <;> simp [pendingK anyMem, tbSumK anyMem, wfK anyMem, keep_mk, h, Prod.ext_iff]

end Sys2Proof.Machine
end

