-- ==== Sys2Proof/Laws/KeptBootControl.lean ====
section
/-!
SUPPORT. What the functions of Machine/BootControl.lean keep.
-/

namespace Sys2Proof.Machine

set_option linter.unusedSimpArgs false

variable {anyMem : Bool}

@[simp] theorem keep_selectCopy (s : State) (b : Bool) (c : Word × Nat × List SectEntry) (bytes : List Byte) :
    (State.selectCopy s b c bytes).keepOf anyMem = s.keepOf anyMem := by
  simp [State.selectCopy, pendingK anyMem, tbSumK anyMem, wfK anyMem, keep_mk]

@[simp] theorem keep_headersRead (s : State) (a : List Byte) (b : List Byte) :
    (State.headersRead s a b).keepOf anyMem = s.keepOf anyMem := by
  unfold State.headersRead
  dsimp only
  (repeat' split) <;> simp [pendingK anyMem, tbSumK anyMem, wfK anyMem, keep_mk]

@[simp] theorem keep_execBilletHeadersRead (copyA : List Byte) (copyB : List Byte) (s : State) :
    outKeep anyMem (execBilletHeadersRead copyA copyB s) = some (s.keepOf anyMem) := by
  simp [execBilletHeadersRead, pendingK anyMem, tbSumK anyMem, wfK anyMem, keep_mk]

@[simp] theorem keep_sectionFails (s : State) (err : Byte) (h : (s.keepOf anyMem).2.2 = true) :
    (State.sectionFails s err).keepOf anyMem = s.keepOf anyMem := by
  simp [State.sectionFails, pendingK anyMem, tbSumK anyMem, wfK anyMem, keep_mk, h, Prod.ext_iff]

@[simp] theorem keep_sectionDone (s : State) (e : SectEntry) (bytes : List Byte) :
    (State.sectionDone s e bytes).keepOf anyMem = s.keepOf anyMem := by
  simp [State.sectionDone, pendingK anyMem, tbSumK anyMem, wfK anyMem, keep_mk]

@[simp] theorem keep_sectionArrives (s : State) (gap : List Byte) (bytes : List Byte) (h : (s.keepOf anyMem).2.2 = true) :
    (State.sectionArrives s gap bytes).keepOf anyMem = s.keepOf anyMem := by
  unfold State.sectionArrives
  (repeat' split) <;> simp [pendingK anyMem, tbSumK anyMem, wfK anyMem, keep_mk, h, Prod.ext_iff]

@[simp] theorem keep_execSectionLoaded (gap : List Byte) (bytes : List Byte) (s : State) (h : (s.keepOf anyMem).2.2 = true) :
    outKeep anyMem (execSectionLoaded gap bytes s) = some (s.keepOf anyMem) := by
  simp [execSectionLoaded, pendingK anyMem, tbSumK anyMem, wfK anyMem, keep_mk, h, Prod.ext_iff]

@[simp] theorem keep_execFlashTimeout (s : State) :
    outKeep anyMem (execFlashTimeout s) = some (s.keepOf anyMem) := by
  simp [execFlashTimeout, pendingK anyMem, tbSumK anyMem, wfK anyMem, keep_mk]

@[simp] theorem keep_execCriticalRelease (s : State) :
    outKeep anyMem (execCriticalRelease s) = some (s.keepOf anyMem) := by
  simp [execCriticalRelease, pendingK anyMem, tbSumK anyMem, wfK anyMem, keep_mk]

@[simp] theorem keep_putDigest (s : State) (ws : List Word) :
    (State.putDigest s ws).keepOf anyMem = s.keepOf anyMem := by
  simp [State.putDigest, pendingK anyMem, tbSumK anyMem, wfK anyMem, keep_mk]

@[simp] theorem keep_execDigestValid (tail : List Byte) (s : State) :
    outKeep anyMem (execDigestValid tail s) = some (s.keepOf anyMem) := by
  simp [execDigestValid, pendingK anyMem, tbSumK anyMem, wfK anyMem, keep_mk]

@[simp] theorem keep_execBootGo (s : State) :
    outKeep anyMem (execBootGo s) = some (s.keepOf anyMem) := by
  simp [execBootGo, pendingK anyMem, tbSumK anyMem, wfK anyMem, keep_mk]

@[simp] theorem keep_sealFails (s : State) (n : Nat) :
    (State.sealFails s n).keepOf anyMem = s.keepOf anyMem := by
  simp [State.sealFails, pendingK anyMem, tbSumK anyMem, wfK anyMem, keep_mk]

@[simp] theorem keep_startBases (s : State) :
    (State.startBases s).keepOf anyMem = s.keepOf anyMem := by
  simp [State.startBases, pendingK anyMem, tbSumK anyMem, wfK anyMem, keep_mk]

@[simp] theorem keep_endStartup (s : State) :
    (State.endStartup s).keepOf anyMem = s.keepOf anyMem := by
  simp [State.endStartup, pendingK anyMem, tbSumK anyMem, wfK anyMem, keep_mk]

@[simp] theorem keep_sealed_ (s : State) :
    (State.sealed_ s).keepOf anyMem = s.keepOf anyMem := by
  simp [State.sealed_, pendingK anyMem, tbSumK anyMem, wfK anyMem, keep_mk]

@[simp] theorem keep_execSeal (s : State) :
    outKeep anyMem (execSeal s) = some (s.keepOf anyMem) := by
  unfold execSeal
  (repeat' split) <;> simp [pendingK anyMem, tbSumK anyMem, wfK anyMem, keep_mk]

@[simp] theorem keep_reloadCores (s : State) (x1 : List ((Nat × SectEntry) × List Byte)) (h : (s.keepOf anyMem).2.2 = true) :
    (State.reloadCores s x1).1.keepOf anyMem = s.keepOf anyMem := by
  induction x1 generalizing s with
  | nil => simp [State.reloadCores, h]
  | cons y r ih => simp only [State.reloadCores]; (repeat' split) <;> simp [ih, pendingK anyMem, tbSumK anyMem, wfK anyMem, keep_mk, h, Prod.ext_iff]

@[simp] theorem keep_hearthBack (s : State) (h : HearthId) :
    (State.hearthBack s h).keepOf anyMem = s.keepOf anyMem := by
  simp [State.hearthBack, pendingK anyMem, tbSumK anyMem, wfK anyMem, keep_mk]

@[simp] theorem keep_hearthRead (s : State) (h : HearthId) (sections : List (List Byte)) (hk : (s.keepOf anyMem).2.2 = true) :
    (State.hearthRead s h sections).keepOf anyMem = s.keepOf anyMem := by
  unfold State.hearthRead
  dsimp only
  (repeat' split) <;> simp [pendingK anyMem, tbSumK anyMem, wfK anyMem, keep_mk, hk, Prod.ext_iff]

@[simp] theorem keep_execHearthResetComplete (sections : List (List Byte)) (s : State) (h : (s.keepOf anyMem).2.2 = true) :
    outKeep anyMem (execHearthResetComplete sections s) = some (s.keepOf anyMem) := by
  unfold execHearthResetComplete
  (repeat' split) <;> simp [pendingK anyMem, tbSumK anyMem, wfK anyMem, keep_mk, h, Prod.ext_iff]

end Sys2Proof.Machine
end

