-- ==== Sys2Proof/Laws/KeptIssue.lean ====
section
/-!
SUPPORT. What the functions of Machine/Issue.lean keep.
-/

namespace Sys2Proof.Machine

set_option linter.unusedSimpArgs false

variable {anyMem : Bool}

@[simp] theorem keep_retire (s : State) (t : Tid) :
    (State.retire s t).keepOf anyMem = s.keepOf anyMem := by
  simp [State.retire, pendingK anyMem, tbSumK anyMem, wfK anyMem, keep_mk]

@[simp] theorem keep_issuing (s : State) (t : Tid) :
    (State.issuing s t).keepOf anyMem = s.keepOf anyMem := by
  simp [State.issuing, pendingK anyMem, tbSumK anyMem, wfK anyMem, keep_mk]

@[simp] theorem keep_issue (s : State) (t : Tid) (legal : Bool) (regs : BitVec 4) (far stall : Bool) (f : State → State)
    (hf : ((f (s.issuing t)).keepOf anyMem) = (s.keepOf anyMem)) : ((State.issue s t legal regs far stall f).keepOf anyMem) = (s.keepOf anyMem) := by
  unfold State.issue
  dsimp only
  repeat' split
  all_goals first
    | exact hf
    | simp

@[simp] theorem keep_squashes (s : State) (t : Tid) (limit : Nat) :
    (State.squashes s t limit).keepOf anyMem = s.keepOf anyMem := by
  simp [State.squashes, pendingK anyMem, tbSumK anyMem, wfK anyMem, keep_mk]

@[simp] theorem keep_reissued (s : State) (t : Tid) :
    (State.reissued s t).keepOf anyMem = s.keepOf anyMem := by
  simp [State.reissued, pendingK anyMem, tbSumK anyMem, wfK anyMem, keep_mk]

@[simp] theorem keep_endRunAhead (s : State) (t : Tid) :
    (State.endRunAhead s t).keepOf anyMem = s.keepOf anyMem := by
  simp [State.endRunAhead, pendingK anyMem, tbSumK anyMem, wfK anyMem, keep_mk]

@[simp] theorem keep_whenOn (s : State) (d : Nat) (f : State → Tried × State) (h1 : ((f s).2.keepOf anyMem) = (s.keepOf anyMem))
    (h2 : ((f (s.wakeDomain d)).2.keepOf anyMem) = (s.keepOf anyMem)) : ((State.whenOn s d f).2.keepOf anyMem) = (s.keepOf anyMem) := by
  unfold State.whenOn
  repeat' split
  · exact h1
  · exact h2
  · simp

@[simp] theorem keep_readControl (s : State) (c : CoreId) (off : Nat) :
    (State.readControl s c off).2.keepOf anyMem = s.keepOf anyMem := by
  simp [State.readControl, pendingK anyMem, tbSumK anyMem, wfK anyMem, keep_mk]

@[simp] theorem keep_bankLoad (s : State) (t : Tid) (e : FarEntry) (b : BankId) (w : Word) :
    (State.bankLoad s t e b w).2.keepOf anyMem = s.keepOf anyMem := by
  unfold State.bankLoad
  dsimp only
  (repeat' split) <;> simp [pendingK anyMem, tbSumK anyMem, wfK anyMem, keep_mk]

@[simp] theorem keep_tryLoad (s : State) (t : Tid) (e : FarEntry) (size : Nat) :
    (State.tryLoad s t e size).2.keepOf anyMem = s.keepOf anyMem := by
  unfold State.tryLoad
  dsimp only
  split
  · rfl
  · split
    · apply keep_whenOn <;> (intros; split <;> simp)
    · split
      · split <;> simp
      all_goals simp
    · split
      · apply keep_whenOn <;> simp
      · simp
    · split <;> simp
    · rfl

@[simp] theorem keep_writeLock (s : State) (t : Tid) (g : Nat) (v : Word) (h : (s.keepOf anyMem).2.2 = true) :
    (State.writeLock s t g v).keepOf anyMem = s.keepOf anyMem := by
  simp [State.writeLock, pendingK anyMem, tbSumK anyMem, wfK anyMem, keep_mk, h, Prod.ext_iff]

@[simp] theorem keep_takeWatch (s : State) (t : Tid) (g : Nat) (old : Word) :
    (State.takeWatch s t g old).2.keepOf anyMem = s.keepOf anyMem := by
  unfold State.takeWatch
  (repeat' split) <;> simp [pendingK anyMem, tbSumK anyMem, wfK anyMem, keep_mk]

@[simp] theorem keep_lockWord (s : State) (t : Tid) (e : FarEntry) (g : Nat) (live : Bool) (h : (s.keepOf anyMem).2.2 = true) :
    (State.lockWord s t e g live).2.keepOf anyMem = s.keepOf anyMem := by
  unfold State.lockWord
  dsimp only
  (repeat' split) <;> simp [pendingK anyMem, tbSumK anyMem, wfK anyMem, keep_mk, h, Prod.ext_iff]

@[simp] theorem keep_tryLock (s : State) (t : Tid) (e : FarEntry) (h : (s.keepOf anyMem).2.2 = true) :
    (State.tryLock s t e).2.keepOf anyMem = s.keepOf anyMem := by
  unfold State.tryLock
  dsimp only
  (repeat' split) <;> simp [pendingK anyMem, tbSumK anyMem, wfK anyMem, keep_mk, h, Prod.ext_iff]

@[simp] theorem keep_tryRead (s : State) (t : Tid) (e : FarEntry) : ((State.tryRead s t e).2.keepOf anyMem) = (s.keepOf anyMem) := by
  have g : ∀ (u : State) (q : Qid), ((if !u.mayRead t q then (Tried.done (.fault 0x05), u)
    else if u.bit F.qeQcfg_MIRRORED q.toNat && !u.mirrorRoom then (.wait, u)
    else match u.popItem q (.thread t) with
      | (some i, s1) => (.done (.item (itemPayload i.1) (itemTag i.1)), s1)
      | (none, s1) =>
        if e.blocking then (.slept, s1.putToSleep t .sleepQueue (.read q)) else (.done .empty, s1)).2.keepOf anyMem) = (u.keepOf anyMem) := by
    intro u q
    have k := keep_popItem (anyMem := anyMem) u q (.thread t)
    revert k
    cases u.popItem q (.thread t) with
    | mk i s1 =>
      intro k
      dsimp only at k
      cases i <;> dsimp only <;> (repeat' split) <;> simp [k]
  unfold State.tryRead
  dsimp only
  split
  · rfl
  · refine keep_whenOn _ _ _ (g _ _) ?_
    exact (g _ _).trans (by simp)

@[simp] theorem keep_tryPush (s : State) (t : Tid) (e : FarEntry) (end_ : Bool) (h : (s.keepOf anyMem).2.2 = true) :
    ((State.tryPush s t e end_).2.keepOf anyMem) = (s.keepOf anyMem) := by
  unfold State.tryPush
  dsimp only
  generalize s.queueNamed (queueOperand (e.addr.setWidth 23)) e.x = nq
  generalize mkItem end_ (queueOperand (e.addr.setWidth 23)).prio (queueOperand (e.addr.setWidth 23)).kind (senderThread t) e.a = item
  split
  · have k := keep_egressPush (anyMem := anyMem) s nq.1 nq.2 true false e.y item h
    revert k
    cases s.egressPush nq.1 nq.2 true false e.y item with
    | mk b s1 =>
      intro k
      cases b <;> dsimp only at k ⊢
      · split <;> simp [k]
      · exact k
  · have k := keep_push (anyMem := anyMem) s nq.2 item (ownerThread t) e.y
    revert k
    cases s.push nq.2 item (ownerThread t) e.y with
    | mk a s1 =>
      intro k
      dsimp only at k
      cases a <;> dsimp only <;> (repeat' split) <;> simp [k]

@[simp] theorem keep_tryFar (s : State) (t : Tid) (e : FarEntry) (h : (s.keepOf anyMem).2.2 = true) :
    (State.tryFar s t e).2.keepOf anyMem = s.keepOf anyMem := by
  unfold State.tryFar
  (repeat' split) <;> simp [pendingK anyMem, tbSumK anyMem, wfK anyMem, keep_mk, h, Prod.ext_iff]

@[simp] theorem keep_addFar (s : State) (t : Tid) (e : FarEntry) :
    (State.addFar s t e).keepOf anyMem = s.keepOf anyMem := by
  simp [State.addFar, pendingK anyMem, tbSumK anyMem, wfK anyMem, keep_mk]

@[simp] theorem keep_passFar (s : State) (t : Tid) (e : FarEntry) :
    (State.passFar s t e).keepOf anyMem = s.keepOf anyMem := by
  simp [State.passFar, pendingK anyMem, tbSumK anyMem, wfK anyMem, keep_mk]

@[simp] theorem keep_startFar (s : State) (t : Tid) (e : FarEntry) (h : (s.keepOf anyMem).2.2 = true) :
    (State.startFar s t e).keepOf anyMem = s.keepOf anyMem := by
  unfold State.startFar
  (repeat' split)
  all_goals first
    | (simp [pendingK anyMem, tbSumK anyMem, wfK anyMem, keep_mk, h, Prod.ext_iff]; done)
    | (rename_i hp; have e := congrArg (fun p => p.2.keepOf anyMem) hp; simp [keep_control] at e; simp [← e, pendingK anyMem, tbSumK anyMem, wfK anyMem, keep_mk, h, Prod.ext_iff]; done)
    | (rename_i hp; have e := congrArg (fun p => p.1.keepOf anyMem) hp; simp [keep_control] at e; simp [← e, pendingK anyMem, tbSumK anyMem, wfK anyMem, keep_mk, h, Prod.ext_iff]; done)

@[simp] theorem keep_startBlocking (s : State) (t : Tid) (e : FarEntry) (h : (s.keepOf anyMem).2.2 = true) :
    (State.startBlocking s t e).keepOf anyMem = s.keepOf anyMem := by
  unfold State.startBlocking
  (repeat' split)
  all_goals first
    | (simp [pendingK anyMem, tbSumK anyMem, wfK anyMem, keep_mk, h, Prod.ext_iff]; done)
    | (rename_i hp; have e := congrArg (fun p => p.2.keepOf anyMem) hp; simp [keep_control] at e; simp [← e, pendingK anyMem, tbSumK anyMem, wfK anyMem, keep_mk, h, Prod.ext_iff]; done)
    | (rename_i hp; have e := congrArg (fun p => p.1.keepOf anyMem) hp; simp [keep_control] at e; simp [← e, pendingK anyMem, tbSumK anyMem, wfK anyMem, keep_mk, h, Prod.ext_iff]; done)

@[simp] theorem keep_deliverFar (s : State) (t : Tid) (e : FarEntry) (r : FarResp) :
    (State.deliverFar s t e r).keepOf anyMem = s.keepOf anyMem := by
  unfold State.deliverFar
  (repeat' split) <;> simp [pendingK anyMem, tbSumK anyMem, wfK anyMem, keep_mk]

@[simp] theorem keep_dropRequest (s : State) (p : SmReq → Bool) :
    (State.dropRequest s p).keepOf anyMem = s.keepOf anyMem := by
  simp [State.dropRequest, pendingK anyMem, tbSumK anyMem, wfK anyMem, keep_mk]

@[simp] theorem keep_orphanResponse (s : State) (t : Tid) :
    (State.orphanResponse s t).keepOf anyMem = s.keepOf anyMem := by
  simp [State.orphanResponse, pendingK anyMem, tbSumK anyMem, wfK anyMem, keep_mk]

@[simp] theorem keep_smLoaded (s : State) (t : Tid) (e : FarEntry) (op : VOp) (stat : BitVec 2) (data : Word) :
    (State.smLoaded s t e op stat data).keepOf anyMem = s.keepOf anyMem := by
  simp [State.smLoaded, pendingK anyMem, tbSumK anyMem, wfK anyMem, keep_mk]

@[simp] theorem keep_retryFar (s : State) (t : Tid) (e : FarEntry) (h : (s.keepOf anyMem).2.2 = true) :
    (State.retryFar s t e).keepOf anyMem = s.keepOf anyMem := by
  unfold State.retryFar
  (repeat' split)
  all_goals first
    | (simp [pendingK anyMem, tbSumK anyMem, wfK anyMem, keep_mk, h, Prod.ext_iff]; done)
    | (rename_i hp; have e := congrArg (fun p => p.2.keepOf anyMem) hp; simp [keep_control] at e; simp [← e, pendingK anyMem, tbSumK anyMem, wfK anyMem, keep_mk, h, Prod.ext_iff]; done)
    | (rename_i hp; have e := congrArg (fun p => p.1.keepOf anyMem) hp; simp [keep_control] at e; simp [← e, pendingK anyMem, tbSumK anyMem, wfK anyMem, keep_mk, h, Prod.ext_iff]; done)

@[simp] theorem keep_farComplete (s : State) (t : Tid) (idx : Nat) (stat : BitVec 2) (data : Word) (h : (s.keepOf anyMem).2.2 = true) :
    (State.farComplete s t idx stat data).keepOf anyMem = s.keepOf anyMem := by
  unfold State.farComplete
  dsimp only
  (repeat' split) <;> simp [pendingK anyMem, tbSumK anyMem, wfK anyMem, keep_mk, h, Prod.ext_iff]

@[simp] theorem keep_execFarAccessCompletion (t : Tid) (idx : Nat) (stat : BitVec 2) (data : Word) (s : State) (h : (s.keepOf anyMem).2.2 = true) :
    outKeep anyMem (execFarAccessCompletion t idx stat data s) = some (s.keepOf anyMem) := by
  simp [execFarAccessCompletion, pendingK anyMem, tbSumK anyMem, wfK anyMem, keep_mk, h, Prod.ext_iff]

@[simp] theorem keep_runAheadFill (s : State) (t : Tid) (m : BitVec 3) (o : BitVec 23) : ((State.runAheadFill s t m o).keepOf anyMem) = (s.keepOf anyMem) := by
  unfold State.runAheadFill
  dsimp only
  repeat' split
  all_goals first
    | rfl
    | skip
  rename_i r e
  have k : (r.2.keepOf anyMem) = (s.keepOf anyMem) := by
    unfold State.runAheadData at e
    dsimp only at e
    repeat' split at e
    all_goals first
      | (cases e; done)
      | (cases e; first | rfl | simp)
  simp [k]

@[simp] theorem keep_execRunAheadLoad (t : Tid) (m : BitVec 3) (o : BitVec 23) (s : State) :
    outKeep anyMem (execRunAheadLoad t m o s) = some (s.keepOf anyMem) := by
  simp [execRunAheadLoad, pendingK anyMem, tbSumK anyMem, wfK anyMem, keep_mk]

@[simp] theorem keep_execRunAheadEntryExpiry (t : Tid) (idx : Nat) (s : State) :
    outKeep anyMem (execRunAheadEntryExpiry t idx s) = some (s.keepOf anyMem) := by
  unfold execRunAheadEntryExpiry
  (repeat' split) <;> simp [pendingK anyMem, tbSumK anyMem, wfK anyMem, keep_mk]

end Sys2Proof.Machine
end

