-- ==== Sys2Proof/Laws/KeptLoadStore.lean ====
section
/-!
SUPPORT. What the functions of Machine/LoadStore.lean keep.
-/

namespace Sys2Proof.Machine

set_option linter.unusedSimpArgs false

variable {anyMem : Bool}

@[simp] theorem keep_sysRead (s : State) (t : Tid) (n : Nat) :
    (State.sysRead s t n).2.keepOf anyMem = s.keepOf anyMem := by
  unfold State.sysRead
  (repeat' split) <;> simp [pendingK anyMem, tbSumK anyMem, wfK anyMem, keep_mk]

@[simp] theorem keep_sysWrite (s : State) (t : Tid) (n : Nat) (v : Word) :
    (State.sysWrite s t n v).keepOf anyMem = s.keepOf anyMem := by
  unfold State.sysWrite
  (repeat' split) <;> simp [pendingK anyMem, tbSumK anyMem, wfK anyMem, keep_mk]

@[simp] theorem keep_finishValue (s : State) (t : Tid) (op : VOp) (v : Word) :
    (State.finishValue s t op v).keepOf anyMem = s.keepOf anyMem := by
  simp [State.finishValue, pendingK anyMem, tbSumK anyMem, wfK anyMem, keep_mk]

@[simp] theorem keep_loadOperand (s : State) (t : Tid) (op : VOp) (ea : Word) (h : (s.keepOf anyMem).2.2 = true) :
    (State.loadOperand s t op ea).keepOf anyMem = s.keepOf anyMem := by
  unfold State.loadOperand
  dsimp only
  (repeat' split) <;> simp [pendingK anyMem, tbSumK anyMem, wfK anyMem, keep_mk, h, Prod.ext_iff]

@[simp] theorem keep_runValue (s : State) (t : Tid) (op : VOp) (m : BitVec 3) (o : BitVec 23) (h : (s.keepOf anyMem).2.2 = true) :
    (State.runValue s t op m o).keepOf anyMem = s.keepOf anyMem := by
  unfold State.runValue
  (repeat' split) <;> simp [pendingK anyMem, tbSumK anyMem, wfK anyMem, keep_mk, h, Prod.ext_iff]

@[simp] theorem keep_valueInstr (s : State) (t : Tid) (op : VOp) (m : BitVec 3) (o : BitVec 23) (h : (s.keepOf anyMem).2.2 = true) :
    (State.valueInstr s t op m o).keepOf anyMem = s.keepOf anyMem := by
  simp [State.valueInstr, pendingK anyMem, tbSumK anyMem, wfK anyMem, keep_mk, h, Prod.ext_iff]

@[simp] theorem keep_execLdA (t : Tid) (m : BitVec 3) (o : BitVec 23) (s : State) (h : (s.keepOf anyMem).2.2 = true) :
    outKeep anyMem (execLdA t m o s) = some (s.keepOf anyMem) := by
  simp [execLdA, pendingK anyMem, tbSumK anyMem, wfK anyMem, keep_mk, h, Prod.ext_iff]

@[simp] theorem keep_execLdX (t : Tid) (m : BitVec 3) (o : BitVec 23) (s : State) (h : (s.keepOf anyMem).2.2 = true) :
    outKeep anyMem (execLdX t m o s) = some (s.keepOf anyMem) := by
  simp [execLdX, pendingK anyMem, tbSumK anyMem, wfK anyMem, keep_mk, h, Prod.ext_iff]

@[simp] theorem keep_execLdY (t : Tid) (m : BitVec 3) (o : BitVec 23) (s : State) (h : (s.keepOf anyMem).2.2 = true) :
    outKeep anyMem (execLdY t m o s) = some (s.keepOf anyMem) := by
  simp [execLdY, pendingK anyMem, tbSumK anyMem, wfK anyMem, keep_mk, h, Prod.ext_iff]

@[simp] theorem keep_execLdBu (t : Tid) (m : BitVec 3) (o : BitVec 23) (s : State) (h : (s.keepOf anyMem).2.2 = true) :
    outKeep anyMem (execLdBu t m o s) = some (s.keepOf anyMem) := by
  simp [execLdBu, pendingK anyMem, tbSumK anyMem, wfK anyMem, keep_mk, h, Prod.ext_iff]

@[simp] theorem keep_execLdHu (t : Tid) (m : BitVec 3) (o : BitVec 23) (s : State) (h : (s.keepOf anyMem).2.2 = true) :
    outKeep anyMem (execLdHu t m o s) = some (s.keepOf anyMem) := by
  simp [execLdHu, pendingK anyMem, tbSumK anyMem, wfK anyMem, keep_mk, h, Prod.ext_iff]

@[simp] theorem keep_execAdd (t : Tid) (m : BitVec 3) (o : BitVec 23) (s : State) (h : (s.keepOf anyMem).2.2 = true) :
    outKeep anyMem (execAdd t m o s) = some (s.keepOf anyMem) := by
  simp [execAdd, pendingK anyMem, tbSumK anyMem, wfK anyMem, keep_mk, h, Prod.ext_iff]

@[simp] theorem keep_execAddc (t : Tid) (m : BitVec 3) (o : BitVec 23) (s : State) (h : (s.keepOf anyMem).2.2 = true) :
    outKeep anyMem (execAddc t m o s) = some (s.keepOf anyMem) := by
  simp [execAddc, pendingK anyMem, tbSumK anyMem, wfK anyMem, keep_mk, h, Prod.ext_iff]

@[simp] theorem keep_execSub (t : Tid) (m : BitVec 3) (o : BitVec 23) (s : State) (h : (s.keepOf anyMem).2.2 = true) :
    outKeep anyMem (execSub t m o s) = some (s.keepOf anyMem) := by
  simp [execSub, pendingK anyMem, tbSumK anyMem, wfK anyMem, keep_mk, h, Prod.ext_iff]

@[simp] theorem keep_execSubb (t : Tid) (m : BitVec 3) (o : BitVec 23) (s : State) (h : (s.keepOf anyMem).2.2 = true) :
    outKeep anyMem (execSubb t m o s) = some (s.keepOf anyMem) := by
  simp [execSubb, pendingK anyMem, tbSumK anyMem, wfK anyMem, keep_mk, h, Prod.ext_iff]

@[simp] theorem keep_execAnd (t : Tid) (m : BitVec 3) (o : BitVec 23) (s : State) (h : (s.keepOf anyMem).2.2 = true) :
    outKeep anyMem (execAnd t m o s) = some (s.keepOf anyMem) := by
  simp [execAnd, pendingK anyMem, tbSumK anyMem, wfK anyMem, keep_mk, h, Prod.ext_iff]

@[simp] theorem keep_execOr (t : Tid) (m : BitVec 3) (o : BitVec 23) (s : State) (h : (s.keepOf anyMem).2.2 = true) :
    outKeep anyMem (execOr t m o s) = some (s.keepOf anyMem) := by
  simp [execOr, pendingK anyMem, tbSumK anyMem, wfK anyMem, keep_mk, h, Prod.ext_iff]

@[simp] theorem keep_execXor (t : Tid) (m : BitVec 3) (o : BitVec 23) (s : State) (h : (s.keepOf anyMem).2.2 = true) :
    outKeep anyMem (execXor t m o s) = some (s.keepOf anyMem) := by
  simp [execXor, pendingK anyMem, tbSumK anyMem, wfK anyMem, keep_mk, h, Prod.ext_iff]

@[simp] theorem keep_execCmp (t : Tid) (m : BitVec 3) (o : BitVec 23) (s : State) (h : (s.keepOf anyMem).2.2 = true) :
    outKeep anyMem (execCmp t m o s) = some (s.keepOf anyMem) := by
  simp [execCmp, pendingK anyMem, tbSumK anyMem, wfK anyMem, keep_mk, h, Prod.ext_iff]

@[simp] theorem keep_execTst (t : Tid) (m : BitVec 3) (o : BitVec 23) (s : State) (h : (s.keepOf anyMem).2.2 = true) :
    outKeep anyMem (execTst t m o s) = some (s.keepOf anyMem) := by
  simp [execTst, pendingK anyMem, tbSumK anyMem, wfK anyMem, keep_mk, h, Prod.ext_iff]

@[simp] theorem keep_execShl (t : Tid) (m : BitVec 3) (o : BitVec 23) (s : State) (h : (s.keepOf anyMem).2.2 = true) :
    outKeep anyMem (execShl t m o s) = some (s.keepOf anyMem) := by
  simp [execShl, pendingK anyMem, tbSumK anyMem, wfK anyMem, keep_mk, h, Prod.ext_iff]

@[simp] theorem keep_execShr (t : Tid) (m : BitVec 3) (o : BitVec 23) (s : State) (h : (s.keepOf anyMem).2.2 = true) :
    outKeep anyMem (execShr t m o s) = some (s.keepOf anyMem) := by
  simp [execShr, pendingK anyMem, tbSumK anyMem, wfK anyMem, keep_mk, h, Prod.ext_iff]

@[simp] theorem keep_execSar (t : Tid) (m : BitVec 3) (o : BitVec 23) (s : State) (h : (s.keepOf anyMem).2.2 = true) :
    outKeep anyMem (execSar t m o s) = some (s.keepOf anyMem) := by
  simp [execSar, pendingK anyMem, tbSumK anyMem, wfK anyMem, keep_mk, h, Prod.ext_iff]

@[simp] theorem keep_execRol (t : Tid) (m : BitVec 3) (o : BitVec 23) (s : State) (h : (s.keepOf anyMem).2.2 = true) :
    outKeep anyMem (execRol t m o s) = some (s.keepOf anyMem) := by
  simp [execRol, pendingK anyMem, tbSumK anyMem, wfK anyMem, keep_mk, h, Prod.ext_iff]

@[simp] theorem keep_execMul (t : Tid) (m : BitVec 3) (o : BitVec 23) (s : State) (h : (s.keepOf anyMem).2.2 = true) :
    outKeep anyMem (execMul t m o s) = some (s.keepOf anyMem) := by
  simp [execMul, pendingK anyMem, tbSumK anyMem, wfK anyMem, keep_mk, h, Prod.ext_iff]

@[simp] theorem keep_execMulh (t : Tid) (m : BitVec 3) (o : BitVec 23) (s : State) (h : (s.keepOf anyMem).2.2 = true) :
    outKeep anyMem (execMulh t m o s) = some (s.keepOf anyMem) := by
  simp [execMulh, pendingK anyMem, tbSumK anyMem, wfK anyMem, keep_mk, h, Prod.ext_iff]

@[simp] theorem keep_execDiv (t : Tid) (m : BitVec 3) (o : BitVec 23) (s : State) (h : (s.keepOf anyMem).2.2 = true) :
    outKeep anyMem (execDiv t m o s) = some (s.keepOf anyMem) := by
  simp [execDiv, pendingK anyMem, tbSumK anyMem, wfK anyMem, keep_mk, h, Prod.ext_iff]

@[simp] theorem keep_execDivu (t : Tid) (m : BitVec 3) (o : BitVec 23) (s : State) (h : (s.keepOf anyMem).2.2 = true) :
    outKeep anyMem (execDivu t m o s) = some (s.keepOf anyMem) := by
  simp [execDivu, pendingK anyMem, tbSumK anyMem, wfK anyMem, keep_mk, h, Prod.ext_iff]

@[simp] theorem keep_execRem (t : Tid) (m : BitVec 3) (o : BitVec 23) (s : State) (h : (s.keepOf anyMem).2.2 = true) :
    outKeep anyMem (execRem t m o s) = some (s.keepOf anyMem) := by
  simp [execRem, pendingK anyMem, tbSumK anyMem, wfK anyMem, keep_mk, h, Prod.ext_iff]

@[simp] theorem keep_execRemu (t : Tid) (m : BitVec 3) (o : BitVec 23) (s : State) (h : (s.keepOf anyMem).2.2 = true) :
    outKeep anyMem (execRemu t m o s) = some (s.keepOf anyMem) := by
  simp [execRemu, pendingK anyMem, tbSumK anyMem, wfK anyMem, keep_mk, h, Prod.ext_iff]

@[simp] theorem keep_execFadd (t : Tid) (m : BitVec 3) (o : BitVec 23) (s : State) (h : (s.keepOf anyMem).2.2 = true) :
    outKeep anyMem (execFadd t m o s) = some (s.keepOf anyMem) := by
  simp [execFadd, pendingK anyMem, tbSumK anyMem, wfK anyMem, keep_mk, h, Prod.ext_iff]

@[simp] theorem keep_execFsub (t : Tid) (m : BitVec 3) (o : BitVec 23) (s : State) (h : (s.keepOf anyMem).2.2 = true) :
    outKeep anyMem (execFsub t m o s) = some (s.keepOf anyMem) := by
  simp [execFsub, pendingK anyMem, tbSumK anyMem, wfK anyMem, keep_mk, h, Prod.ext_iff]

@[simp] theorem keep_execFmul (t : Tid) (m : BitVec 3) (o : BitVec 23) (s : State) (h : (s.keepOf anyMem).2.2 = true) :
    outKeep anyMem (execFmul t m o s) = some (s.keepOf anyMem) := by
  simp [execFmul, pendingK anyMem, tbSumK anyMem, wfK anyMem, keep_mk, h, Prod.ext_iff]

@[simp] theorem keep_execFdiv (t : Tid) (m : BitVec 3) (o : BitVec 23) (s : State) (h : (s.keepOf anyMem).2.2 = true) :
    outKeep anyMem (execFdiv t m o s) = some (s.keepOf anyMem) := by
  simp [execFdiv, pendingK anyMem, tbSumK anyMem, wfK anyMem, keep_mk, h, Prod.ext_iff]

@[simp] theorem keep_execFsqrt (t : Tid) (m : BitVec 3) (o : BitVec 23) (s : State) (h : (s.keepOf anyMem).2.2 = true) :
    outKeep anyMem (execFsqrt t m o s) = some (s.keepOf anyMem) := by
  simp [execFsqrt, pendingK anyMem, tbSumK anyMem, wfK anyMem, keep_mk, h, Prod.ext_iff]

@[simp] theorem keep_execFcmp (t : Tid) (m : BitVec 3) (o : BitVec 23) (s : State) (h : (s.keepOf anyMem).2.2 = true) :
    outKeep anyMem (execFcmp t m o s) = some (s.keepOf anyMem) := by
  simp [execFcmp, pendingK anyMem, tbSumK anyMem, wfK anyMem, keep_mk, h, Prod.ext_iff]

@[simp] theorem keep_execAddX (t : Tid) (m : BitVec 3) (o : BitVec 23) (s : State) (h : (s.keepOf anyMem).2.2 = true) :
    outKeep anyMem (execAddX t m o s) = some (s.keepOf anyMem) := by
  simp [execAddX, pendingK anyMem, tbSumK anyMem, wfK anyMem, keep_mk, h, Prod.ext_iff]

@[simp] theorem keep_execAddY (t : Tid) (m : BitVec 3) (o : BitVec 23) (s : State) (h : (s.keepOf anyMem).2.2 = true) :
    outKeep anyMem (execAddY t m o s) = some (s.keepOf anyMem) := by
  simp [execAddY, pendingK anyMem, tbSumK anyMem, wfK anyMem, keep_mk, h, Prod.ext_iff]

@[simp] theorem keep_execCmpX (t : Tid) (m : BitVec 3) (o : BitVec 23) (s : State) (h : (s.keepOf anyMem).2.2 = true) :
    outKeep anyMem (execCmpX t m o s) = some (s.keepOf anyMem) := by
  simp [execCmpX, pendingK anyMem, tbSumK anyMem, wfK anyMem, keep_mk, h, Prod.ext_iff]

@[simp] theorem keep_execCmpY (t : Tid) (m : BitVec 3) (o : BitVec 23) (s : State) (h : (s.keepOf anyMem).2.2 = true) :
    outKeep anyMem (execCmpY t m o s) = some (s.keepOf anyMem) := by
  simp [execCmpY, pendingK anyMem, tbSumK anyMem, wfK anyMem, keep_mk, h, Prod.ext_iff]

@[simp] theorem keep_storeOperand (s : State) (t : Tid) (op : StOp) (ea : Word) :
    (State.storeOperand s t op ea).keepOf anyMem = s.keepOf anyMem := by
  unfold State.storeOperand
  dsimp only
  (repeat' split) <;> simp [pendingK anyMem, tbSumK anyMem, wfK anyMem, keep_mk]

@[simp] theorem keep_runStore (s : State) (t : Tid) (op : StOp) (m : BitVec 3) (o : BitVec 23) :
    (State.runStore s t op m o).keepOf anyMem = s.keepOf anyMem := by
  unfold State.runStore
  (repeat' split) <;> simp [pendingK anyMem, tbSumK anyMem, wfK anyMem, keep_mk]

@[simp] theorem keep_storeInstr (s : State) (t : Tid) (op : StOp) (m : BitVec 3) (o : BitVec 23) :
    (State.storeInstr s t op m o).keepOf anyMem = s.keepOf anyMem := by
  simp [State.storeInstr, pendingK anyMem, tbSumK anyMem, wfK anyMem, keep_mk]

@[simp] theorem keep_execStA (t : Tid) (m : BitVec 3) (o : BitVec 23) (s : State) :
    outKeep anyMem (execStA t m o s) = some (s.keepOf anyMem) := by
  simp [execStA, pendingK anyMem, tbSumK anyMem, wfK anyMem, keep_mk]

@[simp] theorem keep_execStX (t : Tid) (m : BitVec 3) (o : BitVec 23) (s : State) :
    outKeep anyMem (execStX t m o s) = some (s.keepOf anyMem) := by
  simp [execStX, pendingK anyMem, tbSumK anyMem, wfK anyMem, keep_mk]

@[simp] theorem keep_execStY (t : Tid) (m : BitVec 3) (o : BitVec 23) (s : State) :
    outKeep anyMem (execStY t m o s) = some (s.keepOf anyMem) := by
  simp [execStY, pendingK anyMem, tbSumK anyMem, wfK anyMem, keep_mk]

@[simp] theorem keep_execStB (t : Tid) (m : BitVec 3) (o : BitVec 23) (s : State) :
    outKeep anyMem (execStB t m o s) = some (s.keepOf anyMem) := by
  simp [execStB, pendingK anyMem, tbSumK anyMem, wfK anyMem, keep_mk]

@[simp] theorem keep_execStH (t : Tid) (m : BitVec 3) (o : BitVec 23) (s : State) :
    outKeep anyMem (execStH t m o s) = some (s.keepOf anyMem) := by
  simp [execStH, pendingK anyMem, tbSumK anyMem, wfK anyMem, keep_mk]

@[simp] theorem keep_finishA (s : State) (t : Tid) (v : Word) :
    (State.finishA s t v).keepOf anyMem = s.keepOf anyMem := by
  simp [State.finishA, pendingK anyMem, tbSumK anyMem, wfK anyMem, keep_mk]

@[simp] theorem keep_execLea (t : Tid) (m : BitVec 3) (o : BitVec 23) (s : State) :
    outKeep anyMem (execLea t m o s) = some (s.keepOf anyMem) := by
  simp [execLea, pendingK anyMem, tbSumK anyMem, wfK anyMem, keep_mk]

@[simp] theorem keep_execLdhi (t : Tid) (m : BitVec 3) (o : BitVec 23) (s : State) :
    outKeep anyMem (execLdhi t m o s) = some (s.keepOf anyMem) := by
  simp [execLdhi, pendingK anyMem, tbSumK anyMem, wfK anyMem, keep_mk]

end Sys2Proof.Machine
end

