-- ==== Sys2Proof/Laws/KeptQueueLock.lean ====
section
/-!
SUPPORT. What the functions of Machine/QueueLock.lean keep.
-/

namespace Sys2Proof.Machine

set_option linter.unusedSimpArgs false

variable {anyMem : Bool}

@[simp] theorem keep_queueInstr (s : State) (t : Tid) (op : FarOp) (read : Bool) (blocking : Bool) (m : BitVec 3) (o : BitVec 23) (h : (s.keepOf anyMem).2.2 = true) :
    (State.queueInstr s t op read blocking m o).keepOf anyMem = s.keepOf anyMem := by
  simp [State.queueInstr, pendingK anyMem, tbSumK anyMem, wfK anyMem, keep_mk, h, Prod.ext_iff]

@[simp] theorem keep_execLdq (t : Tid) (m : BitVec 3) (o : BitVec 23) (s : State) (h : (s.keepOf anyMem).2.2 = true) :
    outKeep anyMem (execLdq t m o s) = some (s.keepOf anyMem) := by
  simp [execLdq, pendingK anyMem, tbSumK anyMem, wfK anyMem, keep_mk, h, Prod.ext_iff]

@[simp] theorem keep_execLdw (t : Tid) (m : BitVec 3) (o : BitVec 23) (s : State) (h : (s.keepOf anyMem).2.2 = true) :
    outKeep anyMem (execLdw t m o s) = some (s.keepOf anyMem) := by
  simp [execLdw, pendingK anyMem, tbSumK anyMem, wfK anyMem, keep_mk, h, Prod.ext_iff]

@[simp] theorem keep_execStq (t : Tid) (m : BitVec 3) (o : BitVec 23) (s : State) (h : (s.keepOf anyMem).2.2 = true) :
    outKeep anyMem (execStq t m o s) = some (s.keepOf anyMem) := by
  simp [execStq, pendingK anyMem, tbSumK anyMem, wfK anyMem, keep_mk, h, Prod.ext_iff]

@[simp] theorem keep_execStqe (t : Tid) (m : BitVec 3) (o : BitVec 23) (s : State) (h : (s.keepOf anyMem).2.2 = true) :
    outKeep anyMem (execStqe t m o s) = some (s.keepOf anyMem) := by
  simp [execStqe, pendingK anyMem, tbSumK anyMem, wfK anyMem, keep_mk, h, Prod.ext_iff]

@[simp] theorem keep_execStw (t : Tid) (m : BitVec 3) (o : BitVec 23) (s : State) (h : (s.keepOf anyMem).2.2 = true) :
    outKeep anyMem (execStw t m o s) = some (s.keepOf anyMem) := by
  simp [execStw, pendingK anyMem, tbSumK anyMem, wfK anyMem, keep_mk, h, Prod.ext_iff]

@[simp] theorem keep_execStwe (t : Tid) (m : BitVec 3) (o : BitVec 23) (s : State) (h : (s.keepOf anyMem).2.2 = true) :
    outKeep anyMem (execStwe t m o s) = some (s.keepOf anyMem) := by
  simp [execStwe, pendingK anyMem, tbSumK anyMem, wfK anyMem, keep_mk, h, Prod.ext_iff]

@[simp] theorem keep_lockInstr (s : State) (t : Tid) (op : FarOp) (m : BitVec 3) (o : BitVec 23) (h : (s.keepOf anyMem).2.2 = true) :
    (State.lockInstr s t op m o).keepOf anyMem = s.keepOf anyMem := by
  unfold State.lockInstr
  (repeat' split)
  all_goals first
    | (simp [pendingK anyMem, tbSumK anyMem, wfK anyMem, keep_mk, h, Prod.ext_iff]; done)
    | (apply keep_pinLane <;> intros <;> (try dsimp only) <;> (repeat' split) <;> (first | assumption | (simp_all [pendingK anyMem, tbSumK anyMem, wfK anyMem, keep_mk, h, Prod.ext_iff]; done) | simp [pendingK anyMem, tbSumK anyMem, wfK anyMem, keep_mk, h, Prod.ext_iff]))
    | (apply keep_pinAlu <;> intros <;> (try dsimp only) <;> (repeat' split) <;> (first | assumption | (simp_all [pendingK anyMem, tbSumK anyMem, wfK anyMem, keep_mk, h, Prod.ext_iff]; done) | simp [pendingK anyMem, tbSumK anyMem, wfK anyMem, keep_mk, h, Prod.ext_iff]))
    | (apply keep_pin <;> intros <;> (try dsimp only) <;> (repeat' split) <;> (first | assumption | (simp_all [pendingK anyMem, tbSumK anyMem, wfK anyMem, keep_mk, h, Prod.ext_iff]; done) | simp [pendingK anyMem, tbSumK anyMem, wfK anyMem, keep_mk, h, Prod.ext_iff]))
    | (apply keep_access <;> intros <;> (try dsimp only) <;> (repeat' split) <;> (first | assumption | (simp_all [pendingK anyMem, tbSumK anyMem, wfK anyMem, keep_mk, h, Prod.ext_iff]; done) | simp [pendingK anyMem, tbSumK anyMem, wfK anyMem, keep_mk, h, Prod.ext_iff]))
    | (apply keep_atDomain <;> intros <;> (try dsimp only) <;> (repeat' split) <;> (first | assumption | (simp_all [pendingK anyMem, tbSumK anyMem, wfK anyMem, keep_mk, h, Prod.ext_iff]; done) | simp [pendingK anyMem, tbSumK anyMem, wfK anyMem, keep_mk, h, Prod.ext_iff]))
    | (apply keep_issue <;> intros <;> (try dsimp only) <;> (repeat' split) <;> (first | assumption | (simp_all [pendingK anyMem, tbSumK anyMem, wfK anyMem, keep_mk, h, Prod.ext_iff]; done) | simp [pendingK anyMem, tbSumK anyMem, wfK anyMem, keep_mk, h, Prod.ext_iff]))
    | (apply keep_control <;> intros <;> (try dsimp only) <;> (repeat' split) <;> (first | assumption | (simp_all [pendingK anyMem, tbSumK anyMem, wfK anyMem, keep_mk, h, Prod.ext_iff]; done) | simp [pendingK anyMem, tbSumK anyMem, wfK anyMem, keep_mk, h, Prod.ext_iff]))

@[simp] theorem keep_execCas (t : Tid) (m : BitVec 3) (o : BitVec 23) (s : State) (h : (s.keepOf anyMem).2.2 = true) :
    outKeep anyMem (execCas t m o s) = some (s.keepOf anyMem) := by
  simp [execCas, pendingK anyMem, tbSumK anyMem, wfK anyMem, keep_mk, h, Prod.ext_iff]

@[simp] theorem keep_execSwap (t : Tid) (m : BitVec 3) (o : BitVec 23) (s : State) (h : (s.keepOf anyMem).2.2 = true) :
    outKeep anyMem (execSwap t m o s) = some (s.keepOf anyMem) := by
  simp [execSwap, pendingK anyMem, tbSumK anyMem, wfK anyMem, keep_mk, h, Prod.ext_iff]

@[simp] theorem keep_execWaitev (t : Tid) (m : BitVec 3) (o : BitVec 23) (s : State) (h : (s.keepOf anyMem).2.2 = true) :
    outKeep anyMem (execWaitev t m o s) = some (s.keepOf anyMem) := by
  simp [execWaitev, pendingK anyMem, tbSumK anyMem, wfK anyMem, keep_mk, h, Prod.ext_iff]

end Sys2Proof.Machine
end

