-- ==== Sys2Proof/Laws/KeptBranch.lean ====
section
/-!
SUPPORT. What the functions of Machine/Branch.lean keep.
-/

namespace Sys2Proof.Machine

set_option linter.unusedSimpArgs false

variable {anyMem : Bool}

@[simp] theorem keep_trainPred (s : State) (t : Tid) (pc : Word) (taken : Bool) :
    (State.trainPred s t pc taken).keepOf anyMem = s.keepOf anyMem := by
  simp [State.trainPred, pendingK anyMem, tbSumK anyMem, wfK anyMem, keep_mk]

@[simp] theorem keep_mispredict (s : State) (t : Tid) (annul : Bool) (predicted : Bool) :
    (State.mispredict s t annul predicted).keepOf anyMem = s.keepOf anyMem := by
  simp [State.mispredict, pendingK anyMem, tbSumK anyMem, wfK anyMem, keep_mk]

@[simp] theorem keep_takeBranch (s : State) (t : Tid) (annul : Bool) (taken : Bool) (target : Word) (path : Option (Word × Nat)) :
    (State.takeBranch s t annul taken target path).keepOf anyMem = s.keepOf anyMem := by
  simp [State.takeBranch, pendingK anyMem, tbSumK anyMem, wfK anyMem, keep_mk]

@[simp] theorem keep_resolveBranch (s : State) (t : Tid) (annul : Bool) (taken : Bool) (back : Bool) (target : Word) :
    (State.resolveBranch s t annul taken back target).keepOf anyMem = s.keepOf anyMem := by
  simp [State.resolveBranch, pendingK anyMem, tbSumK anyMem, wfK anyMem, keep_mk]

@[simp] theorem keep_execGoCc (t : Tid) (annul : Bool) (cond : BitVec 4) (disp : BitVec 21) (s : State) :
    outKeep anyMem (execGoCc t annul cond disp s) = some (s.keepOf anyMem) := by
  simp [execGoCc, pendingK anyMem, tbSumK anyMem, wfK anyMem, keep_mk]

@[simp] theorem keep_execGol (t : Tid) (annul : Bool) (cond : BitVec 4) (disp : BitVec 21) (s : State) :
    outKeep anyMem (execGol t annul cond disp s) = some (s.keepOf anyMem) := by
  simp [execGol, pendingK anyMem, tbSumK anyMem, wfK anyMem, keep_mk]

@[simp] theorem keep_execGoi (t : Tid) (m : BitVec 3) (o : BitVec 23) (s : State) :
    outKeep anyMem (execGoi t m o s) = some (s.keepOf anyMem) := by
  refine congrArg some (keep_issue _ _ _ _ _ _ _ ?_)
  dsimp only
  split <;> simp

@[simp] theorem keep_compareBranch (s : State) (t : Tid) (annul : Bool) (rel : BitVec 3) (a : Word) (b : Word) (disp : BitVec 14) :
    (State.compareBranch s t annul rel a b disp).keepOf anyMem = s.keepOf anyMem := by
  simp [State.compareBranch, pendingK anyMem, tbSumK anyMem, wfK anyMem, keep_mk]

@[simp] theorem keep_execCgoA (t : Tid) (annul : Bool) (rel : BitVec 3) (src : Bool) (imm : BitVec 7) (disp : BitVec 14) (s : State) :
    outKeep anyMem (execCgoA t annul rel src imm disp s) = some (s.keepOf anyMem) := by
  simp [execCgoA, pendingK anyMem, tbSumK anyMem, wfK anyMem, keep_mk]

@[simp] theorem keep_execCgoX (t : Tid) (annul : Bool) (rel : BitVec 3) (src : Bool) (imm : BitVec 7) (disp : BitVec 14) (s : State) :
    outKeep anyMem (execCgoX t annul rel src imm disp s) = some (s.keepOf anyMem) := by
  simp [execCgoX, pendingK anyMem, tbSumK anyMem, wfK anyMem, keep_mk]

@[simp] theorem keep_fenceWaits (s : State) (t : Tid) (scope : BitVec 2) (seq : Nat) :
    (State.fenceWaits s t scope seq).keepOf anyMem = s.keepOf anyMem := by
  simp [State.fenceWaits, pendingK anyMem, tbSumK anyMem, wfK anyMem, keep_mk]

@[simp] theorem keep_fence (s : State) (t : Tid) (scope : BitVec 2) :
    (State.fence s t scope).keepOf anyMem = s.keepOf anyMem := by
  unfold State.fence
  (repeat' split) <;> simp [pendingK anyMem, tbSumK anyMem, wfK anyMem, keep_mk]

@[simp] theorem keep_execFenceC (t : Tid) (s : State) :
    outKeep anyMem (execFenceC t s) = some (s.keepOf anyMem) := by
  simp [execFenceC, pendingK anyMem, tbSumK anyMem, wfK anyMem, keep_mk]

@[simp] theorem keep_execFenceH (t : Tid) (s : State) :
    outKeep anyMem (execFenceH t s) = some (s.keepOf anyMem) := by
  simp [execFenceH, pendingK anyMem, tbSumK anyMem, wfK anyMem, keep_mk]

@[simp] theorem keep_execFenceS (t : Tid) (s : State) :
    outKeep anyMem (execFenceS t s) = some (s.keepOf anyMem) := by
  simp [execFenceS, pendingK anyMem, tbSumK anyMem, wfK anyMem, keep_mk]

@[simp] theorem keep_execMsync (t : Tid) (s : State) :
    outKeep anyMem (execMsync t s) = some (s.keepOf anyMem) := by
  simp [execMsync, pendingK anyMem, tbSumK anyMem, wfK anyMem, keep_mk]

@[simp] theorem keep_execHalt (t : Tid) (s : State) :
    outKeep anyMem (execHalt t s) = some (s.keepOf anyMem) := by
  simp [execHalt, pendingK anyMem, tbSumK anyMem, wfK anyMem, keep_mk]

@[simp] theorem keep_execIllegalInstruction (t : Tid) (w : Word) (s : State) :
    outKeep anyMem (execIllegalInstruction t w s) = some (s.keepOf anyMem) := by
  simp [execIllegalInstruction, pendingK anyMem, tbSumK anyMem, wfK anyMem, keep_mk]

@[simp] theorem keep_regInstr (s : State) (t : Tid) (regs : BitVec 4) (f : Thread → Thread) :
    (State.regInstr s t regs f).keepOf anyMem = s.keepOf anyMem := by
  simp [State.regInstr, pendingK anyMem, tbSumK anyMem, wfK anyMem, keep_mk]

@[simp] theorem keep_execNop (t : Tid) (s : State) :
    outKeep anyMem (execNop t s) = some (s.keepOf anyMem) := by
  simp [execNop, pendingK anyMem, tbSumK anyMem, wfK anyMem, keep_mk]

@[simp] theorem keep_execNeg (t : Tid) (s : State) :
    outKeep anyMem (execNeg t s) = some (s.keepOf anyMem) := by
  simp [execNeg, pendingK anyMem, tbSumK anyMem, wfK anyMem, keep_mk]

@[simp] theorem keep_execNot (t : Tid) (s : State) :
    outKeep anyMem (execNot t s) = some (s.keepOf anyMem) := by
  simp [execNot, pendingK anyMem, tbSumK anyMem, wfK anyMem, keep_mk]

@[simp] theorem keep_execMvXa (t : Tid) (s : State) :
    outKeep anyMem (execMvXa t s) = some (s.keepOf anyMem) := by
  simp [execMvXa, pendingK anyMem, tbSumK anyMem, wfK anyMem, keep_mk]

@[simp] theorem keep_execMvYa (t : Tid) (s : State) :
    outKeep anyMem (execMvYa t s) = some (s.keepOf anyMem) := by
  simp [execMvYa, pendingK anyMem, tbSumK anyMem, wfK anyMem, keep_mk]

@[simp] theorem keep_execMvAx (t : Tid) (s : State) :
    outKeep anyMem (execMvAx t s) = some (s.keepOf anyMem) := by
  simp [execMvAx, pendingK anyMem, tbSumK anyMem, wfK anyMem, keep_mk]

@[simp] theorem keep_execMvAy (t : Tid) (s : State) :
    outKeep anyMem (execMvAy t s) = some (s.keepOf anyMem) := by
  simp [execMvAy, pendingK anyMem, tbSumK anyMem, wfK anyMem, keep_mk]

@[simp] theorem keep_execMvYx (t : Tid) (s : State) :
    outKeep anyMem (execMvYx t s) = some (s.keepOf anyMem) := by
  simp [execMvYx, pendingK anyMem, tbSumK anyMem, wfK anyMem, keep_mk]

@[simp] theorem keep_execMvXy (t : Tid) (s : State) :
    outKeep anyMem (execMvXy t s) = some (s.keepOf anyMem) := by
  simp [execMvXy, pendingK anyMem, tbSumK anyMem, wfK anyMem, keep_mk]

@[simp] theorem keep_execClz (t : Tid) (s : State) :
    outKeep anyMem (execClz t s) = some (s.keepOf anyMem) := by
  simp [execClz, pendingK anyMem, tbSumK anyMem, wfK anyMem, keep_mk]

@[simp] theorem keep_execFneg (t : Tid) (s : State) :
    outKeep anyMem (execFneg t s) = some (s.keepOf anyMem) := by
  simp [execFneg, pendingK anyMem, tbSumK anyMem, wfK anyMem, keep_mk]

@[simp] theorem keep_execFabs (t : Tid) (s : State) :
    outKeep anyMem (execFabs t s) = some (s.keepOf anyMem) := by
  simp [execFabs, pendingK anyMem, tbSumK anyMem, wfK anyMem, keep_mk]

@[simp] theorem keep_execFtoi (t : Tid) (s : State) :
    outKeep anyMem (execFtoi t s) = some (s.keepOf anyMem) := by
  simp [execFtoi, pendingK anyMem, tbSumK anyMem, wfK anyMem, keep_mk]

@[simp] theorem keep_execFtou (t : Tid) (s : State) :
    outKeep anyMem (execFtou t s) = some (s.keepOf anyMem) := by
  simp [execFtou, pendingK anyMem, tbSumK anyMem, wfK anyMem, keep_mk]

@[simp] theorem keep_execItof (t : Tid) (s : State) :
    outKeep anyMem (execItof t s) = some (s.keepOf anyMem) := by
  simp [execItof, pendingK anyMem, tbSumK anyMem, wfK anyMem, keep_mk]

@[simp] theorem keep_execUtof (t : Tid) (s : State) :
    outKeep anyMem (execUtof t s) = some (s.keepOf anyMem) := by
  simp [execUtof, pendingK anyMem, tbSumK anyMem, wfK anyMem, keep_mk]

end Sys2Proof.Machine
end

