-- ==== Sys2Proof/Laws/KeptStoreBuffer.lean ====
section
/-!
SUPPORT. What the functions of Machine/StoreBuffer.lean keep.
-/

namespace Sys2Proof.Machine

set_option linter.unusedSimpArgs false

variable {anyMem : Bool}

@[simp] theorem keep_entryLeaves (s : State) (c : CoreId) (idx : Nat) :
    (State.entryLeaves s c idx).keepOf anyMem = s.keepOf anyMem := by
  unfold State.entryLeaves
  (repeat' split) <;> simp [pendingK anyMem, tbSumK anyMem, wfK anyMem, keep_mk]

@[simp] theorem keep_execStoreBufferEntryLeave (c : CoreId) (idx : Nat) (s : State) :
    outKeep anyMem (execStoreBufferEntryLeave c idx s) = some (s.keepOf anyMem) := by
  simp [execStoreBufferEntryLeave, pendingK anyMem, tbSumK anyMem, wfK anyMem, keep_mk]

@[simp] theorem keep_dropInflight (s : State) (c : CoreId) (idx : Nat) :
    (State.dropInflight s c idx).keepOf anyMem = s.keepOf anyMem := by
  simp [State.dropInflight, pendingK anyMem, tbSumK anyMem, wfK anyMem, keep_mk]

@[simp] theorem keep_bankStore (s : State) (c : CoreId) (idx : Nat) (b : BankId) (e : SbEntry) (h : (s.keepOf anyMem).2.2 = true) :
    (State.bankStore s c idx b e).keepOf anyMem = s.keepOf anyMem := by
  unfold State.bankStore
  (repeat' split) <;> simp [pendingK anyMem, tbSumK anyMem, wfK anyMem, keep_mk, h, Prod.ext_iff]

@[simp] theorem keep_controlStore (s : State) (e : SbEntry) (off : Nat) (h : (s.keepOf anyMem).2.2 = true) :
    (State.controlStore s e off).keepOf anyMem = s.keepOf anyMem := by
  simp [State.controlStore, pendingK anyMem, tbSumK anyMem, wfK anyMem, keep_mk, h, Prod.ext_iff]

@[simp] theorem keep_coreStore (s : State) (c : CoreId) (c' : CoreId) (idx : Nat) (g : Nat) (e : SbEntry) (h : (s.keepOf anyMem).2.2 = true) :
    (State.coreStore s c c' idx g e).keepOf anyMem = s.keepOf anyMem := by
  simp [State.coreStore, pendingK anyMem, tbSumK anyMem, wfK anyMem, keep_mk, h, Prod.ext_iff]

@[simp] theorem keep_performStore (s0 : State) (c : CoreId) (idx : Nat) (e : SbEntry) (h : (s0.keepOf anyMem).2.2 = true) :
    (State.performStore s0 c idx e).keepOf anyMem = s0.keepOf anyMem := by
  unfold State.performStore
  (repeat' split) <;> simp [pendingK anyMem, tbSumK anyMem, wfK anyMem, keep_mk, h, Prod.ext_iff]

@[simp] theorem keep_storeAcked (s : State) (c : CoreId) (idx : Nat) (h : (s.keepOf anyMem).2.2 = true) :
    (State.storeAcked s c idx).keepOf anyMem = s.keepOf anyMem := by
  unfold State.storeAcked
  (repeat' split) <;> simp [pendingK anyMem, tbSumK anyMem, wfK anyMem, keep_mk, h, Prod.ext_iff]

@[simp] theorem keep_execStoreAcknowledged (c : CoreId) (idx : Nat) (s : State) (h : (s.keepOf anyMem).2.2 = true) :
    outKeep anyMem (execStoreAcknowledged c idx s) = some (s.keepOf anyMem) := by
  simp [execStoreAcknowledged, pendingK anyMem, tbSumK anyMem, wfK anyMem, keep_mk, h, Prod.ext_iff]

@[simp] theorem keep_storeRefused (s : State) (c : CoreId) (idx : Nat) (stat : BitVec 2) :
    (State.storeRefused s c idx stat).keepOf anyMem = s.keepOf anyMem := by
  unfold State.storeRefused
  (repeat' split) <;> simp [pendingK anyMem, tbSumK anyMem, wfK anyMem, keep_mk]

@[simp] theorem keep_execLateStoreFault (c : CoreId) (idx : Nat) (stat : BitVec 2) (s : State) :
    outKeep anyMem (execLateStoreFault c idx stat s) = some (s.keepOf anyMem) := by
  simp [execLateStoreFault, pendingK anyMem, tbSumK anyMem, wfK anyMem, keep_mk]

end Sys2Proof.Machine
end

