-- ==== Sys2Proof/Laws/KeptBankEvents.lean ====
section
/-!
SUPPORT. What the functions of Machine/BankEvents.lean keep.
-/

namespace Sys2Proof.Machine

set_option linter.unusedSimpArgs false

variable {anyMem : Bool}

@[simp] theorem keep_performFar (s : State) (t : Tid) (e : FarEntry) (h : (s.keepOf anyMem).2.2 = true) :
    (State.performFar s t e).keepOf anyMem = s.keepOf anyMem := by
  unfold State.performFar
  (repeat' split)
  all_goals first
    | (simp [pendingK anyMem, tbSumK anyMem, wfK anyMem, keep_mk, h, Prod.ext_iff]; done)
    | (rename_i hp; have e := congrArg (fun p => p.2.keepOf anyMem) hp; simp [keep_control] at e; simp [← e, pendingK anyMem, tbSumK anyMem, wfK anyMem, keep_mk, h, Prod.ext_iff]; done)
    | (rename_i hp; have e := congrArg (fun p => p.1.keepOf anyMem) hp; simp [keep_control] at e; simp [← e, pendingK anyMem, tbSumK anyMem, wfK anyMem, keep_mk, h, Prod.ext_iff]; done)

@[simp] theorem keep_serveReq (s : State) (b : BankId) (w : BankWait) (h : (s.keepOf anyMem).2.2 = true) :
    (State.serveReq s b w).keepOf anyMem = s.keepOf anyMem := by
  unfold State.serveReq
  (repeat' split) <;> simp [pendingK anyMem, tbSumK anyMem, wfK anyMem, keep_mk, h, Prod.ext_iff]

@[simp] theorem keep_serveBank (s : State) (b : BankId) (x2 : Nat) (h : (s.keepOf anyMem).2.2 = true) :
    (State.serveBank s b x2).keepOf anyMem = s.keepOf anyMem := by
  induction x2 generalizing s b with
  | zero => simp [State.serveBank, h]
  | succ n ih => simp only [State.serveBank]; (repeat' split) <;> simp [ih, pendingK anyMem, tbSumK anyMem, wfK anyMem, keep_mk, h, Prod.ext_iff]

@[simp] theorem keep_serveWaiting (s : State) (b : BankId) (h : (s.keepOf anyMem).2.2 = true) :
    (State.serveWaiting s b).keepOf anyMem = s.keepOf anyMem := by
  simp [State.serveWaiting, pendingK anyMem, tbSumK anyMem, wfK anyMem, keep_mk, h, Prod.ext_iff]

@[simp] theorem keep_execHandoverComplete (b : BankId) (s : State) (h : (s.keepOf anyMem).2.2 = true) :
    outKeep anyMem (execHandoverComplete b s) = some (s.keepOf anyMem) := by
  simp [execHandoverComplete, pendingK anyMem, tbSumK anyMem, wfK anyMem, keep_mk, h, Prod.ext_iff]

@[simp] theorem keep_execWipeComplete (b : BankId) (s : State) (h : (s.keepOf anyMem).2.2 = true) :
    outKeep anyMem (execWipeComplete b s) = some (s.keepOf anyMem) := by
  simp [execWipeComplete, pendingK anyMem, tbSumK anyMem, wfK anyMem, keep_mk, h, Prod.ext_iff]

@[simp] theorem keep_execBankWakeComplete (b : BankId) (s : State) (h : (s.keepOf anyMem).2.2 = true) :
    outKeep anyMem (execBankWakeComplete b s) = some (s.keepOf anyMem) := by
  simp [execBankWakeComplete, pendingK anyMem, tbSumK anyMem, wfK anyMem, keep_mk, h, Prod.ext_iff]

end Sys2Proof.Machine
end

