-- ==== Sys2Proof/Laws/KeptClock.lean ====
section
/-!
SUPPORT. What the functions of Machine/Clock.lean keep.
-/

namespace Sys2Proof.Machine

set_option linter.unusedSimpArgs false

variable {anyMem : Bool}

@[simp] theorem keep_countIdle (s : State) :
    (State.countIdle s).keepOf anyMem = s.keepOf anyMem := by
  simp [State.countIdle, pendingK anyMem, tbSumK anyMem, wfK anyMem, keep_mk]

@[simp] theorem keep_countIssue (s : State) :
    (State.countIssue s).keepOf anyMem = s.keepOf anyMem := by
  simp [State.countIssue, pendingK anyMem, tbSumK anyMem, wfK anyMem, keep_mk]

@[simp] theorem keep_frameBoundary (s : State) : ((State.frameBoundary s).keepOf anyMem) = (s.keepOf anyMem) := by
  have e : ∀ (u : State) (l : List Nat), ((l.foldl (fun s i =>
    match (s.core (BitVec.ofNat 5 i)).nospecNext with
    | none => s
    | some b => (s.setFld F.sltCtl_NOSPEC b.toNat i).setCore (BitVec.ofNat 5 i)
        { s.core (BitVec.ofNat 5 i) with nospecNext := none }) u).keepOf anyMem) = (u.keepOf anyMem) := fun u l =>
    keep_foldl _ _ _ fun s i => by split <;> simp
  have g : ∀ (u : State) (l : List Nat), ((l.foldl (fun s i => s.snapTable (BitVec.ofNat 5 i)) u).keepOf anyMem) =
      (u.keepOf anyMem) := fun u l => keep_foldl _ _ _ fun s i => by simp
  unfold State.frameBoundary
  exact (e _ _).trans ((g _ _).trans rfl)


@[simp] theorem keep_snapEngines (s : State) :
    (State.snapEngines s).keepOf anyMem = s.keepOf anyMem := by
  simp [State.snapEngines, pendingK anyMem, tbSumK anyMem, wfK anyMem, keep_mk]

@[simp] theorem keep_endEpoch (s : State) :
    (State.endEpoch s).keepOf anyMem = s.keepOf anyMem := by
  simp [State.endEpoch, pendingK anyMem, tbSumK anyMem, wfK anyMem, keep_mk]

@[simp] theorem keep_advance (s : State) :
    ((State.advance s).keepOf anyMem) =
      (s.pending, (s.tbSum + s.incNow.setWidth 80, s.reg .tbT0inc), anyMem || Memory.wf s.mem) := by
  unfold State.advance
  extract_lets s1 s2
  have k2 : s2.keepOf anyMem = s1.keepOf anyMem := by
    simp only [s2]; split
    · rw [keep_snapEngines]
    · rfl
  split
  · rw [keep_frameBoundary, k2]; rfl
  · rw [k2]; rfl


@[simp] theorem keep_sendWaiting (s : State) :
    (State.sendWaiting s).keepOf anyMem = s.keepOf anyMem := by
  simp [State.sendWaiting, pendingK anyMem, tbSumK anyMem, wfK anyMem, keep_mk]

@[simp] theorem keep_memoryTick (s : State) (h : (s.keepOf anyMem).2.2 = true) :
    (State.memoryTick s).keepOf anyMem = s.keepOf anyMem := by
  have e : ∀ (u : State) (m : SMap Bank), (({ u with banks := m } : State).keepOf anyMem) = (u.keepOf anyMem) := fun u m => rfl
  unfold State.memoryTick
  dsimp only
  rw [e]
  exact keep_foldl_wf _ _ _ h fun s i hs => by simp [hs]


@[simp] theorem keep_resume (s : State) (h : (s.keepOf anyMem).2.2 = true) :
    (State.resume s).keepOf anyMem = s.keepOf anyMem := by
  unfold State.resume
  simp [h]

/-- What a cycle keeps, but for the increment of the next one. -/
theorem keep_tick (s : State) (h : (s.keepOf anyMem).2.2 = true) : ∃ w,
    ((State.tick s).keepOf anyMem) = (s.pending, (s.tbSum + s.incNow.setWidth 80, w), anyMem || Memory.wf s.mem) := by
  have k : s.countIdle.countIssue.endEpoch.readbackAll.integrateAll.endQueues.keepOf anyMem = s.keepOf anyMem := by simp
  obtain ⟨k1, k2⟩ := Prod.ext_iff.mp k
  obtain ⟨k2, k3⟩ := Prod.ext_iff.mp k2
  obtain ⟨k2, k4⟩ := Prod.ext_iff.mp k2
  unfold State.tick
  generalize s.countIdle.countIssue.endEpoch.readbackAll.integrateAll.endQueues = u at *
  refine ⟨u.reg .tbT0inc, ?_⟩
  have e := keep_advance (anyMem := anyMem) u
  simp only [State.keepOf] at k1 k2 k3 k4
  rw [k1, k2, k3, k4] at e
  have w : (u.advance.keepOf anyMem).2.2 = true := (Prod.ext_iff.mp (Prod.ext_iff.mp e).2).2.trans h
  rw [← e]
  generalize u.advance = v at w ⊢
  have w1 : (v.arriveAll.memoryTick.sendWaiting.keepOf anyMem) = v.keepOf anyMem := by simp [w]
  have w2 : v.arriveAll.memoryTick.sendWaiting.resume.keepOf anyMem = v.keepOf anyMem := by
    rw [keep_resume _ (by rw [w1]; exact w), w1]
  have w3 : v.arriveAll.memoryTick.sendWaiting.resume.chainTick.keepOf anyMem = v.keepOf anyMem := by
    rw [keep_chainTick _ (by rw [w2]; exact w), w2]
  rw [keep_settleReset _ (by rw [keep_countMissed, w3]; exact w), keep_countMissed, w3]

end Sys2Proof.Machine
end

