-- ==== Sys2Proof/Tests/Slice0.lean ====
section
/-!
SUPPORT. Tests on fixed values: the spec's worked examples and tables, an ill-formed command for each check, and for each
statement of the obligations concrete states and operands that meet its hypotheses (the theorems named test_met_...).
-/

open Sys2Proof Sys2Proof.Machine

namespace Sys2Proof.Tests

set_option Elab.async false

/-- What f shows of the state a command leads to. -/
def after {α : Type} (c : Instr) (s : State) (f : State → α) : Option α :=
  match exec c s with
  | .next t => some (f t)
  | _ => none

/-- A running thread at word 0x100. -/
def runner : Thread := { st := .running, pc := 0x100 }

/-- The reset state with thread 0 as given. -/
def with0 (th : Thread) : State := State.reset.setThr 0 th

/-- The reset state after the seal. -/
def sealed : State := { State.reset with boot := { State.reset.boot with seald := true, stage := .run } }

def af (t : State) : Word × Word := ((t.thr 0).a, (t.thr 0).f)

/-! ## Well-formed commands: one command for each check that the check refuses -/

def flit0 : Flit := ⟨1, 8, 0, 5, 0, 6, 0, 0, List.replicate 12 0⟩
def flitBad : Flit := { flit0 with body := [] }

theorem test_wf_domains :
    [Instr.powerRequestOn .debug 22, .powerRequestRetained .debug 22, .powerRequestOff .debug 23, .drainComplete 24,
      .domainLowState 25, .domainWake 26 .item, .domainOn 27, .pdAckRise 28, .pdAckFall 29, .dstatRead 30].all
      (fun c => !c.wellFormed) = true := by decide
theorem test_wf_flits :
    [Instr.initFlitRx 0 flitBad, .codewordRx 0 (.decoded false 0 0 [flitBad]), .codewordRx 0 (.decoded false 0 0 (List.replicate 11 flit0)),
      .creditRx 0 { flit0 with hops := 17 }, .itemsFlitRx 0 flitBad, .rwriteRx 0 flitBad, .probeRx 0 flitBad,
      .timeFlitRx 0 flitBad, .tunnelRxEntry 0 (List.replicate 32 flit0), .heartbeatRx 0 flitBad, .mirrorFlitRx 0 flitBad,
      .mackRx 0 flitBad].all (fun c => !c.wellFormed) = true := by decide
theorem test_wf_lengths :
    [Instr.memConfRead 0 0x20, .memConfRead 0 0x2C, .farAccessCompletion 0 4 0 0, .runAheadEntryExpiry 0 2,
      .storeBufferEntryLeave 0 64, .directoryFillReturn 0 true []].all
      (fun c => !c.wellFormed) = true := by decide
theorem test_wf_bytes : (Instr.t1sRxFrame 0 0 0 ⟨false, List.replicate 3061 0, [], false⟩).wellFormed = false ∧
    (Instr.billetHeadersRead (List.replicate 0x800001 0) []).wellFormed = false ∧
    (Instr.billetHeadersRead [] (List.replicate 0x800001 0)).wellFormed = false := by
  simp only [Instr.wellFormed, List.length_replicate]; decide
theorem test_wf_accepts :
    [Instr.powerRequestOn .debug 21, .creditRx 0 flit0, .memConfRead 0 0x2B, .memConfRead 0 0x1F, .farAccessCompletion 0 3 0 0,
      .codewordRx 0 (.decoded false 0 0 [flit0]), .tunnelRxEntry 0 [flit0]].all Instr.wellFormed = true := by decide
/-- No row of the table gives bits, so no word spells a command. -/
theorem test_no_word : decodeTableWord 32 0xAF002141 = none := by decide

/-! ## Thread instructions -/

/-- The words of the worked example of chapter 03, and the encodings that R74 and R105 name. -/
theorem test_words : [0xAF002141, 0x34800005, 0xB304E150, 0xCC1FFFFD, 0x10800005, 0xBB04E150].all wordOk = true ∧
    [0x00000000, 0xFFFFFFFF, 0xEC000000, 0xF0000000, 0xF4000000, 0x37000000].any wordOk = false := by decide
/-- The words of the worked examples of chapters 03 and 08, read as their tables write them. -/
theorem test_thread_words : decodeThreadWord 0x105 0xAF002141 = .ldw 0x105 6 0x2141 ∧ decodeThreadWord 0x105 0x34800005 = .add 0x105 1 5 ∧
    decodeThreadWord 0x105 0xB304E150 = .stq 0x105 6 0x04E150 ∧ decodeThreadWord 0x105 0xCC1FFFFD = .goCc 0x105 false 0 0x1FFFFD ∧
    decodeThreadWord 0x105 0x10800005 = .stA 0x105 1 5 ∧ decodeThreadWord 0x105 0xBB04E150 = .stw 0x105 6 0x04E150 ∧
    decodeThreadWord 0x105 0xEC000000 = .illegalInstruction 0x105 0xEC000000 := ⟨rfl, rfl, rfl, rfl, rfl, rfl, rfl⟩
theorem test_pin_words : decodePinWord 9 0x60800000 = .pull 9 1 false ∧ decodePinWord 9 0x54000000 = .rdc 9 0 ∧
    decodePinWord 9 0x0C010800 = .peAdd 9 0 0 true 0x800 ∧ decodePinWord 9 0x068024F8 = .movi 9 5 0x24F8 ∧
    decodePinWord 9 0x06810001 = .movh 9 5 1 ∧ decodePinWord 9 0x09800000 = .mov 9 3 0 ∧ decodePinWord 9 0x41890002 = .drive 9 3 0 9 2 ∧
    decodePinWord 9 0x0D900000 = .peAdd 9 3 1 false 0 ∧ decodePinWord 9 0x62020000 = .tpull 9 4 false ∧
    decodePinWord 9 0x2C01003D = .br 9 1 0 0x3D ∧ decodePinWord 9 0 = .peIllegal 9 0 :=
  ⟨rfl, rfl, rfl, rfl, rfl, rfl, rfl, rfl, rfl, rfl, rfl⟩
/-- A legal word of each set, and one that no instruction has. -/
theorem test_met_words : wordOk 0xAF002141 = true ∧ encodeThreadWord (.ldw 0x105 6 0x2141) = some 0xAF002141 ∧
    pinWordOk 0x62020000 = true ∧ encodePinWord (.tpull 9 4 false) = some 0x62020000 ∧ pinWordOk 0xFFFFFFFF = false :=
  ⟨by decide, rfl, by decide, rfl, by decide⟩
/-- The fields of the same words, as the operand and branch rules read them (R71, R72, R85). -/
theorem test_word_fields : operandOf runner 1 5 = some (.mem 0x14) ∧
    (queueOperand (BitVec.ofNat 23 0x04E150)).qid = 0x2150 ∧ (queueOperand (BitVec.ofNat 23 0x04E150)).prio = 3 ∧
    (queueOperand (BitVec.ofNat 23 0x04E150)).kind = 1 ∧ (queueOperand 0x2141).ind = false := by decide
/-- GO 0x0400 at 0x040C (chapter 03): the slot is next, and the branch goes to 0x0400. -/
theorem test_go : after (.goCc 0 false 0 0x1FFFFD) (with0 { runner with pc := 0x40C })
    (fun t => ((t.thr 0).pc, (t.thr 0).slot)) = some (0x410, some ⟨true, false, 0x400, 0x414⟩) := by decide

theorem test_add_wraps : after (.add 0 0 1) (with0 { runner with a := 0xFFFFFFFF }) af = some (0, 6) := by decide
theorem test_sub_overflow : after (.sub 0 0 1) (with0 { runner with a := 0x80000000 }) af = some (0x7FFFFFFF, 0x403) := by decide
/-- R110: NEG of 0x80000000: N and V, not Z and not C, and OF. -/
theorem test_neg : after (.neg 0) (with0 { runner with a := 0x80000000 }) af = some (0x80000000, 0x409) := by decide
/-- The rows of the table of R111, for A = 0x80000001. -/
theorem test_shifts :
    let at_ := fun (c : Instr) => after c (with0 { runner with a := 0x80000001 }) (fun t => ((t.thr 0).a, (t.thr 0).f.getLsbD 1))
    at_ (.shl 0 0 1) = some (2, true) ∧ at_ (.shl 0 0 32) = some (0, true) ∧ at_ (.shl 0 0 33) = some (0, false) ∧
    at_ (.shr 0 0 1) = some (0x40000000, true) ∧ at_ (.shr 0 0 32) = some (0, true) ∧ at_ (.shr 0 0 (-1)) = some (0, false) ∧
    at_ (.sar 0 0 1) = some (0xC0000000, true) ∧ at_ (.sar 0 0 32) = some (0xFFFFFFFF, true) ∧
    at_ (.sar 0 0 33) = some (0xFFFFFFFF, false) ∧ at_ (.rol 0 0 32) = some (0x80000001, true) ∧
    at_ (.rol 0 0 33) = some (3, true) := by decide
/-- The ratio of chapter 04: 1,000,000 by 37. -/
theorem test_div : after (.div 0 0 37) (with0 { runner with a := 1000000 }) af = some (27027, 0) ∧
    after (.rem 0 0 37) (with0 { runner with a := 1000000 }) af = some (1, 0) := by decide
/-- The last worked example of chapter 04: FLAGS reads 0x00080108 after FDIV 1.0 by +0 and DIV 1 by 0. -/
theorem test_divides_by_zero : fdiv 0 0x3F800000 0 = (0x7F800000, 0x80000) ∧
    after (.div 0 0 0) (with0 { runner with a := 1, f := 0x80000 }) af = some (0xFFFFFFFF, 0x00080108) := by decide
/-- The subnormal product of chapter 04, exact and without a flag. -/
theorem test_fmul_subnormal : fmul 0 0x00800000 0x3F000000 = (0x00400000, 0) := by decide
/-- R113, R114: the special cases of binary32, and a sum that is exact. -/
theorem test_float_cases : fadd 0 0x7F800000 0xFF800000 = (0x7FC00000, 0x100000) ∧ fadd 0 0x3F800000 0x40000000 = (0x40400000, 0) ∧
    fmul 0 0 0x7F800000 = (0x7FC00000, 0x100000) ∧ fsqrt 0 0x40800000 = (0x40000000, 0) ∧
    fsqrt 0 0xBF800000 = (0x7FC00000, 0x100000) := by decide
/-- R115: conversions out of range saturate with IV and NV. -/
theorem test_conversions : fToInt 0 0x4F000000 (-(2 ^ 31)) (2 ^ 31 - 1) = (0x7FFFFFFF, 0x100200) ∧
    fToInt 0 0xBF800000 0 (2 ^ 32 - 1) = (0, 0x100200) ∧ fToInt 0 0x7FC00000 0 (2 ^ 32 - 1) = (0, 0x100200) := by decide
theorem test_clz : after (.clz 0) (with0 { runner with a := 1 }) af = some (31, 0) := by decide
theorem test_ldhi : after (.ldhi 0 0 3) (with0 runner) af = some (0x600, 0) := by decide
theorem test_store_buffer : after (.stB 0 0x1 5) (with0 { runner with a := 0xAB }) (fun t => (t.core 0).sbuf.map fun e => (e.addr, e.mask)) =
    some [(0x01000014, 1)] := by decide
theorem test_misaligned : after (.ldA 0 2 1) (with0 runner) (fun t => (t.thr 0).pendFault.map fun f => f.code) = some (some 2) := by
  decide

/-! ## Hypotheses met: threads -/

/-- Thread 0 with queue 0x0005 of its own block to read, and words in memory. -/
def near : State := { with0 { runner with a := 10, x := 4, y := 8 } with mem := [(0x01000014, 0x2A)] }

theorem runner_issues (r : BitVec 4) : near.issues 0 r := by
  refine ⟨by decide, by decide, by decide, ?_⟩
  have h : (near.thr 0).pendingRegs = 0 := by decide
  rw [h]; simp

/-- Both forms of an operand: the least immediate, and the word at offset 0x14 of the own core. -/
theorem test_met_operands : near.issuesWith 0 .add 0 0x400000 0xFFC00000 ∧ near.issuesWith 0 .ldA 1 5 0x2A ∧
    near.issuesWith 0 .ldBu 1 5 0x2A ∧ near.issuesWith 0 .ldHu 1 5 0x2A := by
  refine ⟨⟨runner_issues _, Or.inl (by decide)⟩, ?_, ?_, ?_⟩
  all_goals exact ⟨runner_issues _, Or.inr ⟨0x14, 0x01000014, by decide, by decide, by decide, ⟨by decide, by decide, by decide, by decide⟩,
    by decide⟩⟩
/-- The same, word by word of R76: every value instruction issues with an operand. -/
theorem test_met_value_instructions : ∀ op : VOp, op.narrow = false → near.issuesWith 0 op 0 5 5 := by
  intro op h; exact ⟨runner_issues _, Or.inl ⟨rfl, h, by decide⟩⟩
theorem test_met_float : fIsNan 0x7FC00000 = true ∧ fIsSnan 0x7F800001 = true ∧ fIsInf 0xFF800000 = true ∧ fIsZero 0x80000000 = true ∧
    fIsNan 0x3F800000 = false ∧ fIsInf 0x3F800000 = false ∧ fIsZero 0x3F800000 = false ∧
    (0xBF800000 : Word).getLsbD 31 = true ∧ fIsZero 0xBF800000 = false := by decide
/-- A load from the first word of bank 0, owned by core 0 after reset. -/
theorem test_met_far_load : near.issues 0 (valueRegs .ldA 5 0x400000) ∧ operandOf (near.thr 0) 5 0x400000 = some (.mem 0x02000000) ∧
    regionOf (coreOf 0) 0x02000000 = .bank 0 0x02000000 ∧ near.quiet 0 ∧ near.secure 0 = false ∧ (near.bank 0).ret = .active ∧
    (near.bank 0).ho = none ∧ (near.bank 0).owner = masterCore (coreOf 0) ∧ (near.bank 0).waiting = [] ∧
    near.badWord 0x02000000 = false ∧ (near.thr 0).path = none :=
  ⟨runner_issues _, by decide, by decide, ⟨by decide, by decide, by decide, by decide⟩, by decide, by decide, by decide, by decide, by decide,
    by decide, by decide⟩
/-- The load runs: the value waits in the far-access entry, and its delivery writes A. -/
theorem test_far_load : after (.ldA 0 5 0x400000) near (fun t => (t.thr 0).far.map fun e => e.resp) = some [some (.value 0)] ∧
    after (.farAccessCompletion 0 0 0 0) (with0 { runner with a := 9, far := [⟨.value .ldA, 0, 0, 0, 0, 0, 0, 1, false, false, some (.value 7)⟩] })
      (fun t => ((t.thr 0).a, (t.thr 0).far)) = some (7, []) := by decide
theorem test_met_delivery : ∃ (s : State) (e : FarEntry) (r : FarResp), (s.thr 0).far[0]? = some e ∧ (s.thr 0).pendFault = none ∧
    e.resp = some r ∧ e.op = .value .ldA ∧ r = .value 7 :=
  ⟨with0 { runner with far := [⟨.value .ldA, 0, 0, 0, 0, 0, 0, 1, false, false, some (.value 7)⟩] }, _, _, rfl, rfl, rfl, rfl, rfl⟩
/-- A store to the own core, aligned for every width, and one aligned for a halfword alone. -/
theorem test_met_stores : operandOf (near.thr 0) 1 5 = some (.mem 0x14) ∧ operandOf (near.thr 0) 2 2 = some (.mem 6) ∧
    (∃ d g, regionOf (coreOf 0) 0x14 = .core d g) ∧ (∃ b g, regionOf (coreOf 0) 0x027FFFFC = .bank b g) ∧ (near.thr 0).far = [] ∧
    ((near.core (coreOf 0)).sbuf.filter fun e => e.t == 0).length < 4 ∧ (6 : Word).toNat % 2 = 0 :=
  ⟨by decide, by decide, ⟨0, 0x01000014, by decide⟩, ⟨15, 0x027FFFFC, by decide⟩, by decide, by decide, by decide⟩
/-- The four issues that the statements of stores and faults speak of. -/
theorem test_met_issues : near.issues 0 (storeRegs .stA 1 5) ∧ near.issues 0 (storeRegs .stH 2 1) ∧ near.issues 0 (valueRegs .ldA 2 1) ∧
    near.issues 0 (sbA ||| sbF) ∧ near.quiet 0 ∧ operandOf (near.thr 0) 2 1 = some (.mem 5) ∧
    (near.thr 0).reissueLimit = 0 :=
  ⟨runner_issues _, runner_issues _, runner_issues _, runner_issues _, ⟨by decide, by decide, by decide, by decide⟩, by decide, by decide⟩
theorem test_met_illegal_words : bitsOf 0xEC000000 26 6 = 0x3B ∧ bitsOf 0xFFFFFFFF 26 6 = 0x3F := by decide
/-- R99: the low half of TIME0 answers TB0[31:0] and latches its high half; QT, TID and FLAGS. -/
theorem test_system_reads :
    after (.ldA 0 7 0x10) { with0 runner with tbSum := 0x11223344556677889999#80 }
      (fun t => ((t.thr 0).a, (t.thr 0).timeH)) = some (0x55667788, 0x11223344) ∧
    after (.ldA 0x23 7 8) (State.reset.setThr 0x23 runner) (fun t => (t.thr 0x23).a) = some 0x23 := by decide

/-- Queue 0x0005 on, read by thread 0, with one item of PRIO 3; queue 0x0006 on and of depth 1. -/
def queued : State :=
  (((near.setReg .qeQcfg 0x80000000 5).setFld F.qeQcfg_EN 1 5).setFld F.qeQcfg_EN 1 6).setQueue 5
    { words := [⟨mkItem true 3 1 7 0xBEEF, 0, false, none, 0⟩] }

theorem test_met_queue_read : queued.issues 0 (queueRegs 5 true) ∧ (queueOperand 5).ind = false ∧ (queueOperand 5).kind = 0 ∧
    queued.mayRead 0 5 = true ∧ queued.bit F.qeQcfg_MIRRORED 5 = false ∧ (queued.dom (16 + (quadrantOf 5).toNat)).st = .on ∧
    (queued.thr 0).far = [] ∧ (queued.core (coreOf 0)).sbuf = [] ∧ (queued.core (coreOf 0)).inflight = [] ∧
    (let u := (queued.issuing 0).setThr 0 { queued.thr 0 with runAhead := [] }
     (u.popItem 5 (.thread 0)).1.isSome = true ∧ ((u.setQueue 5 {}).popItem 5 (.thread 0)).1.isSome = false ∧
       (((u.setQueue 5 {}).popItem 5 (.thread 0)).2.thr 0).st = .running) := by
  refine ⟨⟨by decide, by decide, by decide, ?_⟩, by decide, by decide, by decide, by decide, by decide, by decide, by decide, by decide, ?_⟩
  · decide
  · decide +kernel
/-- LDQ takes the item; a second read finds none (R86). -/
theorem test_ldq : after (.ldq 0 6 5) queued (fun t => ((t.thr 0).far.map fun e => e.resp, (t.queue 5).words)) =
    some ([some (.item 0xBEEF (mkItem true 3 1 7 0 |>.extractLsb' 32 32))], []) := by decide
/-- An LDW with no item sleeps (R86); a push to a queue that is off is refused and the instruction goes on (R203). -/
theorem test_ldw_sleeps : after (.ldw 0 6 5) (queued.setQueue 5 {}) (fun t => ((t.thr 0).st, (t.thr 0).sleep)) =
    some (.sleepQueue, .read 5) := by decide
theorem test_stq_refused : after (.stq 0 6 9) queued (fun t => (t.thr 0).far.map fun e => e.resp) = some [some (.pushed 2)] := by decide

/-! ## Hypotheses met: locks, branches, fences, registers -/

theorem test_met_locks : operandOf (near.thr 0) 1 5 = some (.mem 0x14) ∧ regionOf (coreOf 0) 0x14 = .core (coreOf 0) 0x01000014 ∧
    near.issues 0 (lockRegs .cas 1) ∧ near.issues 0 (lockRegs .waitev 1) ∧ (near.dom (coreDomain (coreOf 0))).st = .on ∧
    (near.thr 0).revoked = [] ∧ near.badWord 0x01000014 = false ∧ memWord near.mem 0x01000014 = 0x2A ∧
    (((near.issuing 0).setThr 0 { near.thr 0 with runAhead := [] }).flushWord (coreOf 0) 0x01000014).watches.length < 4096 :=
  ⟨by decide, by decide, runner_issues _, runner_issues _, by decide, by decide, by decide, by decide, by decide⟩
/-- CAS: equal, the word takes X and Z is owed; SWAP; WAITEV on a word that differs is done, on one that is equal sleeps. -/
theorem test_cas : after (.cas 0 1 5) (near.setThr 0 { runner with a := 0x2A, x := 7 })
    (fun t => (memWord t.mem 0x01000014, (t.thr 0).far.map fun e => e.resp)) = some (7, [some (.cas 0x2A true 0)]) ∧
    after (.cas 0 1 5) near (fun t => (memWord t.mem 0x01000014, (t.thr 0).far.map fun e => e.resp)) =
      some (0x2A, [some (.cas 0x2A false 0)]) := by decide
theorem test_waitev : after (.waitev 0 1 5) (near.setThr 0 { runner with a := 0x2A }) (fun t => ((t.thr 0).st, t.watches.length)) =
    some (.sleepLock, 1) ∧ after (.waitev 0 1 5) near (fun t => (t.thr 0).far.map fun e => e.resp) =
    some [some (.waitev false 3)] := by decide
theorem test_swap : after (.swap 0 1 5) near (fun t => memWord t.mem 0x01000014) = some 10 := by decide

theorem test_met_branches : (near.thr 0).slot = none ∧ near.issues 0 (sbX ||| sbY) ∧ near.issues 0 sbY ∧
    operandOf (near.thr 0) 0 0x10 = some (.imm 0x10) ∧ operandOf (near.thr 0) 1 4 = some (.mem 0x10) ∧ (0x10 : Word).toNat % 4 = 0 :=
  ⟨by decide, runner_issues _, runner_issues _, by decide, by decide, by decide⟩
theorem test_met_slots : ((with0 { runner with slot := some ⟨true, true, 0x200, 0x108⟩ }).thr 0).slot = some ⟨true, true, 0x200, 0x108⟩ ∧
    (with0 { runner with slot := some ⟨true, true, 0x200, 0x108⟩ }).issues 0 0 ∧
    (with0 { runner with slot := some ⟨false, false, 0x200, 0x108⟩ }).issues 0 0 ∧
    (with0 { runner with slot := some ⟨false, true, 0x200, 0x108⟩ }).ready 0 = true := by
  refine ⟨by decide, ⟨by decide, by decide, by decide, by decide⟩, ⟨by decide, by decide, by decide, by decide⟩, by decide⟩
/-- A delay slot runs and PC goes to the target; an annulled one is discarded (R46, R47). -/
theorem test_slot : after (.addX 0 0 1) (with0 { runner with slot := some ⟨true, false, 0x200, 0x108⟩ }) (fun t => ((t.thr 0).pc, (t.thr 0).x)) =
    some (0x200, 1) ∧ after (.addX 0 0 1) (with0 { runner with slot := some ⟨false, true, 0x200, 0x108⟩ })
      (fun t => ((t.thr 0).pc, (t.thr 0).x)) = some (0x108, 0) := by decide
theorem test_cgo : after (.cgoX 0 true 2 false 0x7F 2) (with0 { runner with x := 0xFFFFFFFE }) (fun t => ((t.thr 0).slot)) =
    some (some ⟨true, true, 0x108, 0x108⟩) := by decide

theorem test_met_fences : near.issues 0 0 ∧ (near.thr 0).fence = none ∧ near.quiet 0 ∧ near.pairing = false ∧ (near.thr 0).slot = none ∧
    wordOk 0 = false ∧ (near.thr 0).pendFault = none ∧
    ((with0 { runner with fence := some (1, 3) }).thr 0).fence = some (1, 3) ∧ (with0 { runner with fence := some (1, 3) }).quiet 0 ∧
    (with0 { runner with far := [⟨.queueRead, 5, 0, 0, 0, 0, 0, 1, false, true, none⟩] }).issues 0 0 :=
  ⟨runner_issues _, by decide, ⟨by decide, by decide, by decide, by decide⟩, by decide, by decide, by decide, by decide, by decide,
    ⟨by decide, by decide, by decide, by decide⟩, ⟨by decide, by decide, by decide, by decide⟩⟩
theorem test_fence_waits : after (.fenceS 0) (with0 { runner with far := [⟨.queueRead, 5, 0, 0, 0, 0, 0, 1, false, true, none⟩] })
    (fun t => ((t.thr 0).fence, (t.thr 0).pc)) = some (some (2, 1), 0x100) := by decide
theorem test_halt : after (.halt 0) (with0 runner) (fun t => (t.thr 0).halting) = some (some 0x100) ∧
    after (.haltComplete 0) (with0 { runner with halting := some 0x100 }) (fun t => ((t.thr 0).st, (t.thr 0).pc)) = some (.halted, 0x104) := by
  decide

/-- The numbers that the conversions treat apart. -/
theorem test_met_conversions : ∀ a ∈ [(0x7FC00000 : Word), 0xFF800000, 0x3FC00000],
    (with0 { runner with a := a }).issues 0 (sbA ||| sbF) ∧ ((with0 { runner with a := a }).thr 0).a = a := by
  intro a h
  simp only [List.mem_cons, List.not_mem_nil, or_false] at h
  rcases h with rfl | rfl | rfl <;> exact ⟨⟨by decide, by decide, by decide, by decide⟩, by decide⟩
/-- Counter and status registers (their statements have bounds on the indices, and a domain that is on). -/
theorem test_met_counters : (masterHost).toNat < 44 ∧ (1 : BitVec 4).toNat ≤ 9 ∧ (10 : BitVec 4).toNat ≤ 10 ∧ (11 : BitVec 4).toNat < 12 ∧
    (State.reset.dom 20).st = .on ∧ (State.reset.regWaits.any fun x => x.d == 20) = false ∧ (1 : BaseId) ≠ 0 := by
  decide
theorem test_counter_read : after .lckCntRead (State.reset.setReg .lckCnt 0x12345678) (fun t => (t.answer, t.reg .lckCnt)) =
    some (0x12345678, 0) := by decide
theorem test_cerr_read : after (.cerrRead 0x1FF) (State.reset.setReg .peCerr 0x21ABCDEF 63 7)
    (fun t => (t.answer, t.reg .peCerr 63 7)) = some (0x21ABCDEF, 0x21000000) := by decide

theorem test_met_register_access : ({ sealed with soc := { sealed.soc with lc := 6 } }).soc.lc ∈ ([1, 2, 6] : List (BitVec 3)) ∧
    ({ sealed with soc := { sealed.soc with lc := 3 } }).soc.lc ∉ ([1, 2, 6] : List (BitVec 3)) ∧ sealed.boot.seald = true ∧
    State.reset.boot.seald = false := by decide
theorem test_met_offsets : locate 0x3FFFFC = none ∧ isBlock (.thread 0) = true ∧ isBlock (.thread 0x1FF) = false ∧
    isBlock .debug = true := by decide
/-- The window of the worked example of chapter 19, written word by word, takes its EN. -/
def window2 : State :=
  ((sealed.setReg .hstSbase 0x40000000 2).setReg .hstPbasel 0x30000000 2).setReg .hstPbaseh 8 2
theorem test_window : after (.swinCfgWrite (.thread 0) 2 0x8000211C) window2 (fun t => (t.fld F.hstCfg_EN 2, t.fld F.hstCfg_LOG2 2)) =
    some (1, 28) ∧ after (.swinCfgWrite (.thread 0) 2 0x8000211F) window2 (fun t => t.fld F.hstCfg_EN 2) = some 0 := by decide
theorem test_met_window :
    let base := 65536 * (window2.fld F.hstSbase_BASE 2)
    let phys := 2 ^ 32 * (window2.fld F.hstPbaseh_ADDR 2) + 65536 * (window2.fld F.hstPbasel_ADDR 2)
    base = 0x40000000 ∧ phys = 0x830000000 ∧ base % 2 ^ 28 = 0 ∧ phys % 2 ^ 28 = 0 ∧ ((0x8000210F : Word).extractLsb' 0 5).toNat < 16 ∧
    (0x8000211C : Word).getLsbD 31 = true ∧ (0x0000211C : Word).getLsbD 31 = false ∧ window2.fld F.hstCfg_EN 2 = 0 ∧
    (window2.setFld F.hstCfg_EN 1 2).fld F.hstCfg_EN 2 = 1 := by decide
theorem test_authority : after (.registerWrite (.thread 5) 0x1C1008 1) sealed (fun t => (t.thr 5).pendFault.map fun f => f.code) =
    after (.swinCfgWrite (.thread 5) 0 1) sealed (fun t => (t.thr 5).pendFault.map fun f => f.code) := by decide

/-- A store buffered at core 0, one that has left it for the own core, and one for bank 0, which core 1 does not own. -/
def entry0 (a : Nat) : SbEntry := { addr := a, mask := 0xF, data := 7, t := 0x10, pc := 4, closed := false, seq := 1 }
def stored : State := ((sealed.setCore 0 { sbuf := [entry0 0x01000020], inflight := [entry0 0x01000020] }).setCore 1
  { inflight := [entry0 0x02000000] }).setThr 0x10 runner
theorem test_met_stores_reach : (stored.core 0).sbuf[0]? = some (entry0 0x01000020) ∧ (stored.core 0).inflight[0]? = some (entry0 0x01000020) ∧
    (∀ p ∈ (stored.core 0).inflight.take 0, controllerOf p.addr ≠ controllerOf 0x01000020) ∧
    regionOf 0 (BitVec.ofNat 32 0x01000020) = .core 0 0x01000020 ∧ (stored.dom (coreDomain 0)).st = .on ∧
    (stored.chain.rwOpen.any fun r => r.1 == 0) = false ∧ (entry0 0x01000020).dev = false ∧
    regionOf 1 (BitVec.ofNat 32 0x02000000) = .bank 0 0x02000000 ∧ (stored.core 1).inflight[0]? = some (entry0 0x02000000) ∧
    stored.storeCheck 1 0 (entry0 0x02000000) = .refuse := by decide
theorem test_store_acknowledged : after (.storeAcknowledged 0 0) stored (fun t => (memWord t.mem 0x01000020, (t.core 0).inflight)) =
    some (7, []) := by decide
theorem test_late_fault : after (.lateStoreFault 1 0 0) stored (fun t => ((t.thr 0x10).pendFault.map fun f => f.code, (t.core 1).inflight)) =
    some (some 7, []) := by decide

/-! ## Hypotheses met: cores, threads, tongs, banks -/

/-- Thread 0 owns slots 0 and 1, and stalls on a far load of bank 0 that X waits for. -/
def ahead : State := ((State.reset.setReg .sltAct 0x80800000 0 0).setCore 0 { loaded := true }).setThr 0
  { runner with far := [⟨.value .ldX, 0x02000000, 0x100, 0, 0, 0, 0, 1, false, true, none⟩] }
theorem test_met_run_ahead : (ahead.thr 0).st = .running ∧ ahead.ready 0 = true ∧ ahead.specCapable (coreOf 0) 0 = true ∧
    ahead.stalledOnLoad 0 = true ∧ ahead.noDeviceOut 0 = true ∧ (ahead.thr 0).pendingRegs &&& modeReads 1 = 0 ∧
    (ahead.thr 0).runAhead.length < 2 ∧ operandOf (ahead.thr 0) 1 5 = some (.mem 0x14) ∧
    regionOf (coreOf 0) 0x14 = .core 0 0x01000014 ∧ (ahead.dom (coreDomain 0)).st = .on ∧ ahead.badWord 0x01000014 = false ∧
    (ahead.thr 0).runAhead = [] := by decide
theorem test_run_ahead : after (.runAheadLoad 0 1 5) ahead (fun t => ((t.thr 0).runAhead.map fun r => r.addr, (t.core 0).unseen)) =
      some ([0x01000014], 1) ∧
    after (.runAheadEntryExpiry 0 0) { (State.reset.setThr 0 { runner with runAhead := [⟨8, 0, 0⟩] }) with cycle := 256 }
      (fun t => (t.thr 0).runAhead) = some [] ∧
    after (.runAheadEntryExpiry 0 0) { (State.reset.setThr 0 { runner with runAhead := [⟨8, 0, 0⟩] }) with cycle := 255 }
      (fun t => (t.thr 0).runAhead.length) = some 1 := by decide
theorem test_met_slots_and_modes : overCore (.thread 0) 0 = true ∧ overCore (.thread 1) 0 = false ∧ slotWordOk 0x80010F00 = true ∧ slotWordOk 0x81000000 = false ∧
    Writer.thread 0 ≠ .boot ∧ (State.reset.core 0).commitAt = none ∧
    ((State.reset.setCore 0 { snap := some [] }).core 0).snap = some [] ∧ ((State.reset.setCore 0 { mode := .recovery }).core 0).mode = .recovery ∧
    ((State.reset.setCore 0 { commitAt := some 30 }).core 0).commitAt = some 30 ∧ (30 + 2 + 31) / 32 * 32 = 32 ∧
    (State.reset.core 0).mode ≠ .test ∧ ((State.reset.setCore 0 { mode := .test }).core 0).mode = .test := by decide
/-- The table is taken at the first frame boundary at least two cycles on and copied; a later write stays for the next copy (R35). -/
theorem test_slot_copy :
    (({ (State.reset.setReg .sltTab 0x0F000000 0 7).setCore 0 { commitAt := some 30 } with cycle := 32 }.snapTable 0).core 0).snap =
      some [0, 0, 0, 0, 0, 0, 0, 0x0F000000] ∧
    ({ State.reset.setCore 0 { commitAt := some 31 } with cycle := 63 }.snapTable 0).core 0 = { commitAt := some 31 } ∧
    after (.slotTableCopy 0) ((State.reset.setReg .sltTab 0x0A000000 0 0).setCore 0 { snap := some [0x0F000000], wrote := true })
      (fun t => (t.reg .sltAct 0 0, t.fld F.sltCtl_DIRTY 0, (t.core 0).loaded)) = some (0x0F000000, 1, true) := by decide

/-- A sleep whose delay slot was stopped: STOPPING ends although the slot is still there (R126). -/
theorem test_met_stopped_slot :
    let x := (State.reset.setThr 5 { runner with st := .stopping, slot := some ⟨true, false, 0x200, 0x108⟩, slotSlept := true }).thr 5
    x.st = .stopping ∧ x.slotSlept = true ∧ x.far = [] ∧ x.pendFault = none ∧ x.halting = none := by decide
def inState (st : ThreadState) : State := State.reset.setThr 5 { runner with st := st, sleep := if st = .sleepQueue then .read 5 else .awake }
theorem test_met_life_cycle : overCore (.thread 0) (coreOf 5) = true ∧ (State.reset.dom (coreDomain (coreOf 5))).st = .on ∧ State.reset.regWaits = [] ∧
    (State.reset.thr 5).st = .unreleased ∧ State.reset.coreRetired (coreOf 5) = false ∧ State.reset.runBarred = false ∧ State.reset.beginPair.shadowHeld 5 = false ∧
    (State.reset.setFld F.mirShd_THREADS 0x20 0).beginPair.shadowHeld 5 = true ∧ ((inState .running).thr 5).st = .running ∧
    ((inState .sleepQueue).thr 5).st = .sleepQueue ∧ Writer.thread 0 ≠ .thread 5 ∧ ((inState .stopping).thr 5).st = .stopping ∧
    ((inState .stopping).thr 5).far = [] ∧ ((inState .stopping).thr 5).slot = none ∧ ((inState .stopping).thr 5).halting = none ∧ ((inState .stopping).thr 5).pendFault = none ∧
    faultReceiver 5 = some 0 := by decide
theorem test_release_and_stop : after (.threadRelease (.thread 0) 5) State.reset (fun t => (t.thr 5).st) = some .running ∧
    after (.threadStop (.thread 0) 5) (inState .running) (fun t => (t.thr 5).st) = some .stopping ∧
    after (.threadStop (.thread 0) 5) (inState .sleepQueue) (fun t => (t.thr 5).sleep) = some .awake ∧
    after (.threadStopped 5) (inState .stopping) (fun t => (t.thr 5).st) = some .stopped := by decide

/-- Thread 0x11, a fault pending, and the fault queue 7 of its master's core. -/
def faulting : State := ((State.reset.setFld F.thrFq_QID 7 1).setFld F.qeQcfg_EN 1 7).setThr 0x11
  { runner with pendFault := some ⟨2, some 0x100, 0x40, 1⟩ }
theorem test_met_faults : (0x11 : Tid).toNat % 16 ≠ 0 ∧ (0x1F0 : Tid).toNat % 16 = 0 ∧ (0x1F0 : Tid).toNat % 64 ≠ 0 ∧ (0x1C0 : Tid).toNat % 64 = 0 ∧
    (faulting.thr 0x11).pendFault = some ⟨2, some 0x100, 0x40, 1⟩ ∧ (∀ e ∈ (faulting.thr 0x11).far, 1 ≤ e.seq) ∧
    ((State.reset.setHeldNotice (.thread 5) (some ⟨7, 0, 0⟩)).heldNotice (.thread 5)) = some ⟨7, 0, 0⟩ ∧
    (State.reset.quad (quadrantOf 7)).lost = false := by decide
/-- R25: the receivers of a thread, a master and a supervisor. -/
theorem test_receivers : faultReceiver 0x1FF = some 0x1F0 ∧ faultReceiver 0x1F0 = some 0x1C0 ∧ faultReceiver 0x1C0 = some 0 ∧
    faultReceiver 0 = none := by decide
/-- The fault settles; without room in the fault queue its notice is held (R129, R130). -/
theorem test_thread_fault : after (.threadFault 0x11) faulting (fun t => ((t.thr 0x11).st, (t.thr 0x11).faultCode, (t.thr 0x11).notice.isSome)) =
    some (.faulted, 2, true) := by decide
/-- With room in the queue the held notice enters it. -/
def room : State := ((faulting.setFld F.qeQcfg_DEPTH 4 7).setQuad 0 { free := 8 }).setHeldNotice (.thread 0x11) (some ⟨7, 0x80000000, 0⟩)
theorem test_met_held_notice : ((room.wakeQuad 7).tryNotice 7 0x80000000 0).isSome = true := by decide
theorem test_held_notice : after (.noticeHeldPush (.thread 0x11)) room (fun t => ((t.queue 7).depth, (t.thr 0x11).notice)) = some (1, none) := by
  decide

theorem test_met_setup : (State.reset.thr 5).st = .unreleased ∧ (State.reset.thr 5).roleBusy = none ∧ overCore (.thread 0) (coreOf 5) = true ∧ Writer.thread 0 ≠ .boot ∧
    ((State.reset.setThr 5 { roleBusy := some 1 }).thr 5).roleBusy = some 1 ∧
    ((inState .running).thr 5).st = .running := by decide
theorem test_setup : after (.thrStateWrite (.thread 0) 5 .pc 0x203) State.reset (fun t => (t.thr 5).pc) = some 0x200 ∧
    after (.thrStateWrite (.thread 0) 5 .tp 0xFFFFFFFF) State.reset (fun t => (t.thr 5).tp) = some 0x3F000 ∧
    after (.roleReassign (.thread 0) 5 0x12340000) State.reset (fun t => ((t.thr 5).service, (t.thr 5).epoch)) = some (0x1234, 1) ∧
    after (.thrStateWrite (.thread 0) 5 .a 1) (inState .running) (fun t => (t.thr 5).wign) = some true ∧
    after (.rolebusyClear 5) { State.reset.setThr 5 { roleBusy := some 1 } with cycle := 1025 } (fun t => (t.thr 5).roleBusy) = some none := by
  decide

/-- Thread 5 waits at word 0x01000020, woken; thread 6 waits for a word that thread 7 owns. -/
def waiting : State :=
  let s := (inState .sleepLock).setThr 6 { runner with st := .sleepLock, prio := 9 }
  { s.setThr 7 runner with watches := [⟨5, 0x01000020, true, false⟩, ⟨6, 0x01000024, false, true⟩]
                           mem := [(0x01000026, 0xC0), (0x01000027, 0x03)] }
theorem test_met_tongs : waiting.nextWoken = some ⟨5, 0x01000020, true, false⟩ ∧ (waiting.dom (coreDomain (coreOf 5))).st = .on ∧
    (waiting.thr 5).st = .sleepLock ∧ waiting.watches.find? (fun x => x.t == 6 && x.chain) = some ⟨6, 0x01000024, false, true⟩ ∧
    (memWord waiting.mem 0x01000024).getLsbD 22 = true ∧ (memWord waiting.mem 0x01000024).extractLsb' 23 9 = 7 ∧
    (memWord waiting.mem 0x01000028).getLsbD 22 = false ∧ (waiting.thr 7).revoked.length < 4 := by decide
theorem test_met_force : ownSet (.thread 0) 0 = true ∧ overCore (.thread 0) (coreOf 7) = true ∧ waiting.regWaits = [] ∧ (waiting.core 0).release = none ∧
    (waiting.setFld F.lckFaddr_ADDR 0x400009 0).fld F.lckFaddr_ADDR 0 * 4 = 0x01000024 := by decide
theorem test_tongs : after .watchWake waiting (fun t => ((t.thr 5).st, (t.thr 5).f, t.watches.length)) = some (.running, 4, 1) ∧
    after (.inheritanceChain 6) waiting (fun t => (t.thr 7).effective) = some 9 ∧
    after (.forceRelease (.thread 0) 0 7) (waiting.setFld F.lckFaddr_ADDR 0x400009 0)
      (fun t => (memWord t.mem 0x01000024, (t.thr 7).revoked)) = some (0, [0x01000024]) := by decide

/-- Bank 1 belongs to core 4; bank 2 hands over; bank 3 is retained; bank 4 is SECURE and wiped. -/
def banks : State :=
  { (((((sealed.setBank 1 { owner := 4 }).setBank 2 { owner := 4, ho := some ⟨5, false, 9⟩ }).setBank 3 { ret := .retained }).setFld F.memBcfg_MODE 1
    4).setBank 4 { wiping := some 3 }) with cycle := 10 }
theorem test_met_banks : banks.boot.seald = true ∧ banks.secure 4 = true ∧ (banks.bank 4).wiping.isSome = true ∧
    (banks.bank 3).ret = .retained ∧ (banks.bank 2).ho = some ⟨5, false, 9⟩ ∧ (banks.bank 1).ho = none ∧ (banks.bank 1).ret = .active := by decide
/-- The word in bank 3, which is retained, and in bank 1, which core 4 owns, and in the own memory of core 0. -/
theorem test_met_force_at_banks :
    let at_ := fun (bank : Nat) => (banks.setFld F.lckFaddr_ADDR (0x800000 + bank * 0x20000) 0).setFld F.lckFstat_BUSY 1 0
    let asks := fun (bank : Nat) => ((at_ bank).setCore 0 { release := some (7, 0x02000000 + bank * 0x80000) })
    (at_ 3).fld F.lckFaddr_ADDR 0 * 4 = 0x02180000 ∧ bankOf? 0x02180000 = some 3 ∧ bankOf? 0x02080000 = some 1 ∧
    (asks 3).bankAskWrite 3 (masterCore 0) (.release 0) false = .wait ∧ (asks 1).bankAskWrite 1 (masterCore 0) (.release 0) false = .refuse ∧
    (banks.core 0).release = none ∧ (banks.dom (coreDomain 0)).st = .on := by decide
theorem test_force_waits : after (.forceRelease (.thread 0) 0 7) (banks.setFld F.lckFaddr_ADDR 0x860000 0)
      (fun t => (t.fld F.lckFstat_BUSY 0, (t.bank 3).waiting.length, (t.bank 3).ret)) = some (1, 1, .waking) ∧
    after (.forceRelease (.thread 0) 0 7) (banks.setFld F.lckFaddr_ADDR 0x820000 0)
      (fun t => (t.fld F.lckFstat_BUSY 0, t.fld F.lckFstat_RESULT 0)) = some (0, 1) := by decide

theorem test_bank_answers : banks.bankCheck 4 0 = .zero ∧ banks.bankCheck 3 0 = .wait ∧ banks.bankCheck 2 5 = .wait ∧
    banks.bankCheck 2 4 = .refuse ∧ banks.bankCheck 1 4 = .ok ∧ banks.bankCheck 1 5 = .refuse := by decide
/-- Accesses at bank 2 of its old owner, core 4: one that left before the handover, one that comes now; one of the new owner. -/
def asking : State :=
  (banks.setThr 0x40 { runner with far := [⟨.value .ldA, 0x02100000, 0, 0, 0, 0, 0, 1, false, false, none⟩] }).setBank 2
    { banks.bank 2 with waiting := [⟨.far 0x40 1, 4, true⟩] }
theorem test_met_asks : asking.aheadOf 2 (.far 0x40 1) = [] ∧ (asking.bank 2).markedOld (.far 0x40 1) = true ∧
    asking.aheadOf 2 (.store 5 3) ≠ [] ∧ banks.aheadOf 2 (.store 5 3) = [] ∧ (banks.bank 2).markedOld (.store 5 3) = false ∧
    (banks.bank 1).grants = [] ∧ ((banks.setBank 1 { owner := 4, grants := [5, 6] }).bank 1).grants.length = 2 := by decide
theorem test_asks : asking.bankAsk 2 4 (.far 0x40 1) false = .ok ∧ banks.bankAsk 2 5 (.store 5 3) false = .wait ∧
    banks.bankAsk 2 4 (.store 4 3) false = .refuse ∧ banks.bankAsk 2 4 (.store 4 3) true = .ok ∧ asking.bankAsk 2 4 (.store 4 3) true = .wait ∧
    ((banks.setBank 1 { owner := 4, grants := [5, 6] }).bankGrant 1 4 (.store 4 3)).fld F.memConf_CYCLES 1 4 = 2 := by decide
theorem test_met_handover : banks.overBank (.thread 0x40) 1 = true ∧ badOwner 0x28 = false ∧ badOwner 0x2B = true ∧ badOwner 0x3F = false ∧
    banks.secure 1 = false ∧ (0x28 : Master) ≠ (banks.bank 1).owner ∧ (banks.ownerOf 1).toNat < 32 ∧ banks.oldEntries 2 = 0 ∧
    (banks.bank 2).wiping = none ∧ (9 < banks.cycle) ∧ banks.faults.banks.contains 2 = false := by decide
theorem test_handover : after (.handover (.thread 0x40) 1 false 0x28) banks (fun t => (t.bank 1).ho) = some (some ⟨0x28, false, 10⟩) ∧
    after (.handoverComplete 2) banks (fun t => ((t.bank 2).owner, (t.bank 2).ho)) = some (5, none) := by decide
theorem test_met_wipe : ∀ h ∈ [(none : Option Handover), some ⟨5, true, 9⟩],
    let s := { banks.setBank 5 { wiping := some 0, ho := h } with cycle := 8192 }
    (s.bank 5).wiping = some 0 ∧ (s.bank 5).ret = .active ∧ 0 + 8192 ≤ s.cycle ∧ (s.bank 5).ho = h := by decide
def retaining (r : RetState) : State :=
  { (banks.setFld F.memRet_REQ 1 5).setBank 5 { ret := r } with cycle := 256, tbSum := 0x2EE000000000 }
theorem test_met_retention : ((retaining .active).bank 5).ret = .active ∧ (retaining .active).bit F.memRet_REQ 5 = true ∧
    ((retaining .active).bank 5).lastAccess + 256 ≤ (retaining .active).cycle ∧ (retaining .active).bankBusy 5 = false ∧
    ((retaining .entering).bank 5).ret = .entering ∧ ((retaining .waking).bank 5).ret = .waking ∧
    ((retaining .waking).bank 5).wiping = none ∧
    banks.overBank (.thread 0) 3 = true ∧ (banks.bank 3).ret = .retained ∧ State.reset.soc.lc ≠ 3 :=
  ⟨by decide, by decide, Nat.le_of_eq rfl, by rfl, by decide, by decide, by decide, by decide, by decide, by decide⟩
theorem test_met_wake_time : ((retaining .waking).bank 5).retAt + 12000 ≤ (retaining .waking).ns := by
  have h : (retaining .waking).ns = 12000 := by rfl
  rw [h]; decide
theorem test_retention : after (.bankWake 3) banks (fun t => ((t.bank 3).ret, t.fld F.memRet_WAKES 3)) = some (.waking, 1) ∧
    after .tamper banks (fun t => t.soc.tamper) = some true := by decide +kernel

/-! ## Hypotheses met: queues -/

/-- Queue 5 of depth 4, on, with room in its quadrant and a quota of 4 for thread 1. -/
def pushable : State :=
  (((sealed.setFld F.qeQcfg_EN 1 5).setFld F.qeQcfg_DEPTH 4 5).setFld F.qeOwnlim_QUOTA 4 1).setQuad 0 { free := 8 }
theorem test_met_push : pushable.queueUp 5 = true ∧ pushable.queueUp 6 = false ∧ pushable.holdDomain 5 = some 0 ∧
    (pushable.dom 0).st = .on ∧ (pushable.queue 5).depth < pushable.fld F.qeQcfg_DEPTH 5 ∧ pushable.pool 1 (quadrantOf 5) = .shared ∧
    pushable.pool 2 (quadrantOf 5) = .over ∧ (pushable.setQuad 0 {}).pool 1 (quadrantOf 5) = .poolFull ∧
    ((pushable.setQuad 0 {}).setQuad 0 { claims := [⟨1, 0⟩] }).pool 1 (quadrantOf 5) = .claim ∧
    (pushable.setFld F.qeOwnlim_FLOOR 1 1).pool 1 (quadrantOf 5) = .floor := by decide
/-- The answers to a push of thread 1: room, no depth, no slot, no quota, a disabled queue, a stale role with a slag queue. -/
def pusher : State := pushable.setThr 1 runner
theorem test_met_thread_push :
    let u := (pusher.issuing 1).setThr 1 { pusher.thr 1 with runAhead := [] }
    let i := mkItem false 0 0 1 0
    let slag := ((u.setFld F.qeQcfg_ROLECHK 1 5).setFld F.qeQcfg_EN 1 0x3FFF).setFld F.qeQcfg_DEPTH 4 0x3FFF
    (pusher.quad 0).held = [] ∧ (pusher.thr 1).far = [] ∧ (pusher.dom (16 + (quadrantOf 5).toNat)).st = .on ∧
    pusher.issues 1 (queueRegs 5 false) ∧ (u.pushItem 5 i 1 0).1 = .ok ∧ ((u.setFld F.qeQcfg_DEPTH 0 5).pushItem 5 i 1 0).1 = .full ∧
    ((u.setQuad 0 {}).pushItem 5 i 1 0).1 = .poolFull ∧ ((u.setFld F.qeOwnlim_QUOTA 0 1).pushItem 5 i 1 0).1 = .over ∧
    ((u.setFld F.qeQcfg_EN 0 5).pushItem 5 i 1 0).1 = .disabled ∧ (slag.pushItem 5 i 1 7).1 = .slagged := by
  refine ⟨by decide, by decide, by decide, ⟨by decide, by decide, by decide, by decide⟩, ?_⟩
  decide +kernel
theorem test_push_decisions : pushable.decidePush 5 0 1 0 = .accept .shared ∧ pushable.decidePush 5 0 2 0 = .over ∧
    pushable.decidePush 6 0 1 0 = .disabled ∧ (pushable.setFld F.qeQcfg_DEPTH 0 5).decidePush 5 0 1 0 = .full ∧
    (pushable.setFld F.qeQcfg_ROLECHK 1 5).decidePush 5 0 1 7 = .stale ∧
    ((pushable.setDom 0 { st := .retained })).decidePush 5 0 1 0 = .powerDown := by decide
def item3 (p : BitVec 4) (v : Word) : QWord := ⟨mkItem true p 0 1 v, 1, false, none, 0⟩
theorem test_met_read : pushable.packetMode 5 = false ∧ pushable.standbyRefuses 5 = false ∧
    bestWord [item3 1 0xA, item3 2 0xB, item3 2 0xC] = some (item3 2 0xB) ∧
    (pushable.qcycOf 5).closed = false ∧
    (bestWord ((pushable.setQueue 5 { words := [item3 2 0xB] }).queue 5 |>.words.filter fun x => decide (x.cand ≤ pushable.cycSeq))).isSome = true := by decide

/-- Thread 3 sleeps in a read of queue 5; the channel and thread lists are those of the statements. -/
def sleepers : State :=
  let s := (pushable.setThr 3 { runner with st := .sleepQueue, sleep := .read 5 }).setThr 4
    { runner with st := .sleepQueue, sleep := .pushDepth 5 }
  (s.setQueue 5 { notices := [3], served := [⟨4, 1⟩] }).setQuad 0
    { free := 8, claims := [⟨4, 1⟩], held := [⟨5, mkItem true 0 0 0 0, 0x802, 0⟩] }
theorem test_met_wakes : (sleepers.queue 5).notices = [3] ∧ (sleepers.dom (hearthOf 3).toNat).st = .on ∧ (sleepers.dom (hearthOf (BitVec.ofNat 9 (4 : BitVec 12).toNat)).toNat).st = .on ∧
    (sleepers.thr 3).sleep = .read 5 ∧ (sleepers.thr 3).st = .sleepQueue ∧ (sleepers.queue 5).served = [⟨4, 1⟩] ∧
    (4 : BitVec 12).toNat < 0x200 ∧ (sleepers.quad 0).claims.find? sleepers.claimWaits = some ⟨4, 1⟩ ∧
    (sleepers.dom (16 + (0 : Quadrant).toNat)).st = .on ∧ 0x400 ≤ (0x802 : BitVec 12).toNat := by decide
theorem test_met_held_push : ((sleepers.quad 0).arb.choose (fun h : HeldPush => requesterOf h.owner) (sleepers.readyHeld 0)).1 =
    some ⟨5, mkItem true 0 0 0 0, 0x802, 0⟩ ∧ sleepers.assemblyUsed 0 < 256 ∧
    ((sleepers.setQuad 0 { sleepers.quad 0 with held := [] }).pushItem 5 (mkItem true 0 0 0 0) 0x802 0).1 = .ok := by decide +kernel
/-- The rotation of R393: of two requesters of populations 1 and 1 the one that did not win last time enters next. -/
theorem test_rotation :
    let held := [(⟨5, mkItem true 0 0 0 0, 1, 0⟩ : HeldPush), ⟨5, mkItem true 0 0 0 0, 2, 0⟩]
    let next := fun (a : Arbiter) => a.choose (fun h : HeldPush => requesterOf h.owner) held
    (next {}).1.map (fun h => h.owner) = some 1 ∧ (next (next {}).2).1.map (fun h => h.owner) = some 2 ∧
    (next (next (next {}).2).2).1.map (fun h => h.owner) = some 1 := by decide +kernel
theorem test_wakes : after (.wakeNotice 5) sleepers (fun t => (t.thr 3).st) = some .running ∧
    after (.depthWaiterServe 5) sleepers (fun t => (t.thr 4).st) = some .running ∧
    after (.slotClaimRetry 0) sleepers (fun t => (t.thr 4).st) = some .running := by decide
theorem test_met_queue_writes : pushable.overQueue (.thread 0) 5 = true ∧ qcfgOk 0 = true ∧ qcfgOk 0x07000000 = false ∧
    (pushable.setFld F.qeQcfg_MIRRORED 1 5).mirrorRoom = true ∧ pushable.regWaits = [] ∧
    overOwner (.thread 0) 0x400 = true ∧ overOwner (.thread 0x10) 0x1F = true ∧ overOwner (.thread 0x10) 0x200 = false := by decide

/-- Queue 5 takes host pushes on page 0 and feeds ring 2 (16 entries). -/
def rings : State :=
  let s := ((pushable.setFld F.qeQcfg_HOSTPUSH 1 5).setFld F.qeOwnlim_QUOTA 4 0x400).setFld F.ringCfg_EN 1 2
  ((s.setFld F.ringCfg_QID 5 2).setFld F.ringCfg_LOG2SIZE 4 2).setFld F.qeQcfg_RKIND 4 5
theorem test_met_doorbell : rings.bit F.qeQcfg_HOSTPUSH 5 = true ∧ rings.bit F.qeQcfg_HOSTPUSH 6 = false ∧
    rings.decidePush 5 (mkItem true 0 0 (BitVec.ofNat 22 0x80000) 9) 0x400 0 = .accept .shared ∧ rings.ringOfQueue 5 = some 2 ∧
    (0xFFFF : Word).toNat < 2 ^ 16 := by decide +kernel
theorem test_doorbell : after (.doorbellPushe 5 true 9) rings (fun t => (t.queue 5).words.map fun w => itemPayload w.item) = some [9] ∧
    after (.doorbellPush 5 false 9) rings (fun t => (t.queue 5).drops) = some 1 := by decide +kernel
def moving : State := rings.setQueue 5 { words := [item3 1 0xA, item3 2 0xB] }
theorem test_met_mover : moving.bit F.ringCfg_EN 2 = true ∧ (moving.ring 2).stopped = false ∧ (moving.ring 2).batch = [] ∧ (moving.ring 2).leaving = [] ∧
    (moving.dom (16 + (quadrantOf 5).toNat)).st = .on ∧
    moving.fld F.qeQcfg_RKIND 5 = 4 ∧ moving.ringUsed 2 < moving.ringSize 2 ∧
    (moving.peekItems 5 (min 16 (moving.ringSize 2 - moving.ringUsed 2))).length = 2 ∧
    (moving.setFld F.ringIdx_PIDX 16 2).ringSize 2 ≤ (moving.setFld F.ringIdx_PIDX 16 2).ringUsed 2 := by decide +kernel
theorem test_mover : after (.hostMoverBatch 2) moving (fun t => ((t.ring 2).batch.map fun w => itemPayload w.item)) = some [0xB, 0xA] := by
  decide +kernel
/-- The responses of a batch of two, the first good, the second good or bad. -/
def batched : State :=
  let s := moving.setRing 2 { batch := [item3 2 0xB, item3 1 0xA], answered := 0 }
  { s with soc := { s.soc with reqs := [.descriptor 2 0 [], .descriptor 2 16 []] } }
theorem test_met_responses : batched.ringReq 2 = some (.descriptor 2 0 []) ∧ (batched.ring 2).batch[(batched.ring 2).answered]? = some (item3 2 0xB) ∧
    (batched.ring 2).answered + 1 < (batched.ring 2).batch.length ∧ (batched.ring 2).batch ≠ [] ∧ (batched.ring 2).leaving = [] ∧
    (let one := batched.setRing 2 { batch := [item3 2 0xB] }
     (({ one with soc := { one.soc with reqs := [] } }.removeWord (BitVec.ofNat 14 (one.fld F.ringCfg_QID 2)) (item3 2 0xB)).ring 2).batch.length =
       (one.ring 2).answered + 1 ∧ (one.ring 2).stopped = false) := by decide
theorem test_met_ring_enable : isBlock (.thread 0) = true ∧ 4 ≤ F.ringCfg_LOG2SIZE.get 0xA0000000 ∧ F.ringCfg_EN.get 0xA0000000 = 1 ∧
    State.reset.bit F.ringCfg_EN 2 = false := by decide

/-! ## Hypotheses met: pin engines -/

/-- Channel 1 runs at PC 5; lane 0 is port 7, bound to it. -/
def pins : State :=
  let s := ((sealed.setReg .peCsa 0x01010101 0 0).setChan 1 { st := .run, pc := 5, d := [(1, 0x80000001), (2, 3)] }).setChFld F.peWrap_WRAPT 9 1
  ((s.setChReg .peLanes 0x87 1).setFld F.pePad_BV 1 7).setFld F.pePad_BOUND 1 7
theorem test_met_channel_runs : pins.pinRuns 1 ∧ pins.laneOf 1 0 = some 7 ∧ pins.laneOf 1 1 = none ∧ pins.binder 7 = some 1 ∧
    pins.binder 8 = none ∧ pins.pinOperandIs 1 2 false 0 true 3 ∧ pins.pinOperandIs 1 0 true 0xFFFF true 0xFFFFFFFF ∧
    pins.pinOperandIs 1 0 true 0xFFFF false 0xFFFF := by
  refine ⟨⟨by decide, Or.inr (by decide)⟩, by decide, by decide, by decide, by decide, Or.inr (by decide), Or.inl (by decide),
    Or.inl (by decide)⟩
theorem test_met_wrap_end : (pins.setChan 1 { pins.chan 1 with pc := 9 }).pinRuns 1 ∧
    ((pins.setChan 1 { pins.chan 1 with pc := 0x3FF }).chan 1).pc = 0x3FF ∧ pins.chFld F.peWrap_WRAPT 1 ≠ 0x3FF :=
  ⟨⟨by decide, Or.inl (by decide)⟩, by decide, by decide⟩
theorem test_pin_arithmetic : after (.peAdd 1 1 1 false 0) pins (fun t => (((t.chan 1).reg 1), (t.chan 1).c, (t.chan 1).pc)) = some (2, true, 6) ∧
    after (.peSub 1 2 0 true 5) pins (fun t => (((t.chan 1).reg 2), (t.chan 1).c)) = some (0xFFFFFFFE, false) ∧
    after (.peShr 1 1 0 true 32) pins (fun t => (((t.chan 1).reg 1), (t.chan 1).c, (t.chan 1).z)) = some (0, true, true) := by decide
theorem test_pin_wraps : after (.movi 1 3 0x1234) (pins.setChan 1 { pins.chan 1 with pc := 9 }) (fun t => ((t.chan 1).pc, (t.chan 1).reg 3)) =
    some (0, 0x1234) := by decide
theorem test_pin_branch : after (.djnz 1 2 0x20) pins (fun t => ((t.chan 1).pc, (t.chan 1).reg 2)) = some (0x20, 2) ∧
    after (.br 1 2 0 0x30) pins (fun t => (t.chan 1).pc) = some 0x30 ∧
    after (.waitt 1 2) pins (fun t => (t.chan 1).st) = some .wait := by decide
theorem test_met_reached : reached (2 ^ 32 - 1 + 4) 3 = true ∧ reached (2 ^ 32 - 1 + 3) 3 = false ∧ reached (2 ^ 32 - 1 + 0) 3 = false := by
  decide +kernel
theorem test_met_channel_control : overEngine (.thread 0) 0 = true ∧ peSlotsOk 0x01020384 = true ∧ peSlotsOk 0x08000000 = false ∧
    (pins.engine 0).commitAt = none ∧ pins.controls (.thread 0) 1 = true ∧ pins.runBarred = false ∧ (sealed.chan 1).st = .off ∧
    ((pins.setChan 1 { st := .latched }).chan 1).st = .latched ∧ overHearth (.thread 0) (groupOf 7) = true ∧
    ({ pins with faults := { pins.faults with hearths := [0] } }).orphaned 1 = true ∧ pins.chFld F.peCcfg_ORPHAN 1 = 0 ∧
    (pins.chan 1).staged = [] ∧ (pins.chan 1).pushHold = [] ∧
    ((pins.setChan 1 { st := .wait, pushHold := [(5, 0)] }).chan 1).pushHold ≠ [] ∧ ((sealed.setEngine 0 { snap := some [0] }).engine 0).snap = some [0] ∧
    sealed.binder 7 = none ∧ Writer.thread 0 ≠ .boot := by decide
theorem test_channel_control : after (.start (.thread 0) 1) (pins.setChan 1 { st := .halted, z := true }) (fun t => ((t.chan 1).st, (t.chan 1).z)) =
    some (.run, false) ∧ after (.stop (.thread 0) 1) pins (fun t => (t.chan 1).st) = some .off ∧
    after (.safe (.thread 0) 1) pins (fun t => (t.chan 1).st) = some .safe ∧
    after (.unlatch (.thread 0) 1) (pins.setChan 1 { st := .latched }) (fun t => (t.chan 1).st) = some .safe := by decide
theorem test_channel_copy :
    (({ (sealed.setReg .peCst 0x01 0 3).setEngine 0 { commitAt := some 14 } with cycle := 16 }.snapSlots 0).engine 0).snap = some [0, 0, 0, 1] ∧
    ({ sealed.setEngine 0 { commitAt := some 15 } with cycle := 16 }.snapSlots 0).engine 0 = { commitAt := some 15 } ∧
    after (.channelTableCopy 0) (sealed.setEngine 0 { snap := some [0, 0, 0, 1], wrote := true })
      (fun t => (t.reg .peCsa 0 3, t.fld F.peEctl_DIRTY 0)) = some (1, 1) := by decide
theorem test_pin_faults : after (.sample 1 0 1) pins (fun t => ((t.chan 1).st, t.chFld F.peCerr_CODE 1)) = some (.safe, 0x21) ∧
    after (.peIllegal 1 0) pins (fun t => t.chFld F.peCerr_CODE 1) = some 0x20 := by decide +kernel

theorem test_met_lane : pins.groupUp 1 = true ∧ (pins.setDom 8 { st := .off }).groupUp 7 = false ∧
    pins.chFld F.peCcfg_VOTE 1 = 0 ∧ (pins.setChFld F.peCcfg_VOTE 1 1).chFld F.peCcfg_VOTE 1 = 1 ∧
    (pins.port 7).ts = [] ∧ smGet none (pins.chan 1).timed 0 = none ∧ pins.fld F.peFence_FENCED 7 = 0 ∧ (pins.chan 1).st ≠ .safe ∧
    (pins.port 7).lastAt < 0 + 1 ∧ reached 5 5 = true ∧ reached 4 5 = false := by decide
/-- DRIVE of lane 0 in the same cycle (R254); a timed one waits for its cycle. -/
theorem test_drive : after (.drive 1 0 0 0 3) pins (fun t => ((t.port 7).out, (t.port 7).oe)) = some (true, true) ∧
    after (.drive 1 2 0 8 3) pins (fun t => smGet none (t.chan 1).timed 0) = some (some ⟨3, true, true⟩) ∧
    after (.timedDriveDue 1 0) { pins.setChan 1 { pins.chan 1 with timed := [(0, some ⟨3, true, true⟩)] } with cycle := 3 }
      (fun t => (t.port 7).out) = some true := by decide
theorem test_tstamp : after (.tstamp 1 3 0 true true) (pins.setPort 7 { ts := [⟨true, 0x112233445566⟩] })
    (fun t => ((t.chan 1).reg 3, (t.chan 1).c, (t.port 7).ts)) = some (0x33445566, true, []) ∧
    after (.tstamp 1 3 0 false false) (pins.setPort 7 { ts := [⟨true, 0x112233445566⟩] }) (fun t => (t.chan 1).reg 3) = some 0x11223344 := by decide

/-- Sources and sinks of channel 1: source 0 queue 5 with an item, sink 0 queue 6. -/
def fed : State :=
  let s := ((((pins.setChFld F.peQsrc_EN0 1 1).setChFld F.peQsrc_SRC0 5 1).setChFld F.peQsnk_EN0 1 1).setChFld F.peQsnk_SNK0 6 1).setFld
    F.qeQcfg_EN 1 5
  let t := ((s.setFld F.qeQcfg_EN 1 6).setFld F.qeQcfg_DEPTH 2 6).setFld F.qeOwnlim_QUOTA 2 0x201
  ((t.setFld F.qeQcfg_RKIND 2 5).setFld F.qeQcfg_READER 1 5).setQuad 0 { free := 2 } |>.setQueue 5 { words := [item3 3 0x77] }
theorem test_met_pulls : fed.sourceOf 1 false = some 5 ∧ fed.sourceOf 1 true = none ∧ (fed.dom (16 + (quadrantOf 5).toNat)).st = .on ∧
    (fed.popItem 5 (.channel 1)).1.map (fun x => itemPayload x.1) = some 0x77 ∧
    ((fed.setQueue 5 {}).popItem 5 (.channel 1)).1 = none ∧ fed.sinkOf 1 false = some 6 ∧ (fed.quad (quadrantOf 6)).held = [] := by
  decide +kernel
theorem test_met_push_answers :
    (fed.push 6 (mkItem true 0 0 0x40001 0) 0x201 0).1 = .ok ∧ ((fed.setFld F.qeQcfg_EN 0 6).push 6 0 0x201 0).1 = .disabled ∧
    ((fed.setFld F.qeQcfg_DEPTH 0 6).push 6 0 0x201 0).1 = .full := by decide +kernel
theorem test_pull : after (.pull 1 4 false) fed (fun t => ((t.chan 1).reg 4, (t.queue 5).words)) = some (0x77, []) ∧
    after (.pull 1 4 false) (fed.setQueue 5 {}) (fun t => (t.chan 1).st) = some .stallPull ∧
    after (.pull 1 4 true) fed (fun t => t.chFld F.peCerr_CODE 1) = some 0x22 ∧
    after (.push 1 2 false true 3 1) fed (fun t => (t.queue 6).words.map fun w => itemPayload w.item) = some [3] := by decide +kernel
theorem test_met_bit_unit : (1 : BitVec 6).toNat ≤ 32 ∧ (32 : BitVec 6).toNat ≤ 32 ∧ (pins.setChFld F.peBitcfg_TXEN 1 1).chFld F.peBitcfg_TXEN 1 = 1 ∧
    pins.chFld F.peBitcfg_TXEN 1 = 0 ∧ (pins.setChFld F.peBitcfg_RXEN 1 1).chFld F.peBitcfg_RXEN 1 = 1 ∧
    (pins.chan 1).bu.tx.length < 2 ∧ (1 : BitVec 6).toNat ≤ [true].length := by decide
theorem test_shift_registers : after (.shtx 1 2 3) (pins.setChFld F.peBitcfg_TXEN 1 1) (fun t => (t.chan 1).bu.tx) = some [[false, true, true]] ∧
    after (.shrx 1 3 2) ((pins.setChFld F.peBitcfg_RXEN 1 1).setChan 1 { pins.chan 1 with bu := { rx := [true, false, true] } })
      (fun t => ((t.chan 1).reg 3, (t.chan 1).bu.rx)) = some (2, [true]) := by decide

/-- An edge of port 8, which no channel binds, with every edge stamped; a readback run; a bit unit with all of its times due. -/
theorem test_met_pin_events :
    let s := { (pins.setFld F.peTscfg_EDGES 3 8).setFld F.peRbk_MODE 1 7 |>.setFld F.peRbk_FILT 2 7 with cycle := 9 }
    (s.port 8).inp ≠ true ∧ s.binder 8 = none ∧ s.fld F.peTscfg_EDGES 8 = 3 ∧ (s.port 8).ts.length < 4 ∧ s.fld F.peRbk_MODE 7 ≠ 0 ∧
    0 < s.fld F.peRbk_FILT 7 ∧ s.fld F.peRbk_FILT 7 ≤ ((s.setPort 7 { rbRun := 2 }).port 7).rbRun ∧ (s.port 7).rbFired = false := by decide
def action0 : Action := { base := 0, kind := 0, late := 0, keepPos := false, trig := false, ch := 1, lane := 0, out := true, oe := true, prio := 0,
                          ikind := 0, target := 0, param := 0, qn := false, ln := false, tag := 0, poster := 0, ahead := false }
def due : State :=
  let u : BitUnit := { nextAt := some 8, sampled := false, tx := [[true, false]] }
  { (pins.setChan 1 { pins.chan 1 with staged := [⟨action0, 4, 0, false, false, 0, 0⟩], bu := u }).setChFld F.peBitcfg_EN 1 1 with cycle := 1200 }
theorem test_met_due : (due.chan 1).staged = [⟨action0, 4, 0, false, false, 0, 0⟩] ∧ (due.chan 1).pushHold = [] ∧ 4 ≤ due.cycle ∧
    due.chFld F.peBitcfg_EN 1 = 1 ∧ (due.chan 1).bu.nextAt = some 8 ∧ (due.chan 1).bu.stNext = [] ∧ (due.chan 1).bu.setNext = none ∧
    4 + (due.setChFld F.peCcfg_VOTE 1 1).chFld F.peVote_WINDOW 1 < due.cycle ∧
    (due.chan 1).bu.bitStart + (due.bitTiming 1).2 ≤ due.cycle ∧ due.laneOf 1 (due.chFld F.peBitcfg_TXL 1) = some 7 ∧
    due.fld F.peStuff_MODE 7 = 0 := by decide
theorem test_staged : after (.stagedActionDue 1) due (fun t => ((t.port 7).out, (t.chan 1).staged)) = some (true, []) := by decide +kernel
theorem test_edge : after (.portEdge 8 true) (pins.setFld F.peTscfg_EDGES 3 8) (fun t => (t.port 8).ts.length) = some 1 := by decide +kernel

/-! ## Hypotheses met: bus programs -/

/-- Channel 1 runs a program: source 0 queue 5, source 1 queue 7 with a control item, sinks queues 6 and 8. -/
def program (p : Prog) (k : BitVec 4) : State :=
  let s := ((fed.setChFld F.peQsrc_EN1 1 1).setChFld F.peQsrc_SRC1 7 1).setFld F.qeQcfg_EN 1 7
  let t := ((((s.setFld F.qeQcfg_RKIND 2 7).setFld F.qeQcfg_READER 1 7).setChFld F.peQsnk_EN1 1 1).setChFld F.peQsnk_SNK1 8 1).setFld F.qeQcfg_EN 1 8
  ((t.setFld F.qeQcfg_DEPTH 4 8).setQueue 7 { words := [⟨mkItem true 0 k 1 0, 1, false, none, 0⟩] }).setProg 1 p
theorem test_met_control : (program {} 1).chExecutes 1 = true ∧ (program {} 1).sourceOf 1 true = some 7 ∧
    ((program {} 1).popItem 7 (.channel 1)).1.map (fun i => (itemKind i.1).toNat) = some 1 ∧ (program {} 1).sinkOf 1 true = some 8 ∧
    ((program { state := 3, recovering := true } 1).prog 1).state = 3 ∧ ((program { state := 3, recovering := true } 1).prog 1).recovering = true := by
  decide +kernel
/-- A command that must wait for a frame boundary; a header whose bit time is the option's own, and one out of its range. -/
theorem test_met_boundary : ((program { state := 1, frame := [0] } 2).prog 1).frame ≠ [] ∧
    ((program { state := 1, frame := [0] } 2).popItem 7 (.channel 1)).1.map (fun i => (itemKind i.1).toNat) = some 2 ∧
    128 ≤ ((program { state := 3, busFree := 128 } 1).prog 1).busFree := by decide +kernel
theorem test_met_header (ch : Chan) : 86 * optBit ch ≤ 100 * optBit ch ∧ 100 * optBit ch ≤ 114 * optBit ch ∧
    114 * optBit ch < 100 * (2 * optBit ch + 1) := by omega
theorem test_control : after (.listen 1) (program {} 3) (fun t => ((t.prog 1).state, (t.queue 7).words)) = some (4, []) ∧
    after (.readCounters 1) (program { state := 1, errs := 5, tec := 3 } 6) (fun t => ((t.prog 1).errs, (t.queue 8).words.length)) =
      some (0, 1) ∧
    after (.busOffRecovery 1) (program { state := 3, recovering := true, tec := 256, busFree := 128 } 1) (fun t => ((t.prog 1).state, (t.prog 1).tec)) =
      some (1, 0) := by decide +kernel
/-- A packet at source 0, its last word with END. -/
def packet (ws : List Word) : State :=
  (program { state := 1 } 1).setQueue 5 { words := ws.zipIdx.map fun x =>
    ⟨mkItem (x.2 + 1 == ws.length) 0 0 1 x.1, 1, false, none, 0⟩ }
theorem test_met_frames : (packet []).chExecutes 1 = true ∧ ((packet []).prog 1).state = 1 ∧ ((packet []).prog 1).waitIdle = false ∧
    ((packet []).prog 1).frame = [] ∧ ((packet []).prog 1).tries = 0 ∧ ((packet []).chan 1).pushHold = [] ∧ (packet []).laneOf 1 0 = some 7 ∧
    (packet []).fld F.peTscfg_OVF 7 = 0 ∧ ((packet []).setFld F.peTscfg_OVF 1 7).fld F.peTscfg_OVF 7 = 1 ∧
    ((packet []).takePacket 1 false).1 = [] ∧ ((packet [0x77]).takePacket 1 false).1 = [0x77] ∧
    ((packet [0x403, 1]).takePacket 1 false).1 = [0x403, 1] ∧ ((packet [0x77]).takeWord 1).1 = some 0x77 ∧
    ((packet []).takeWord 1).1 = none ∧ (packet []).midPacket 1 = false := by decide +kernel
/-- Well-formed frames and ill-formed ones: a LIN header alone and a whole frame, a CAN frame of 8 bytes, T1S frames. -/
theorem test_met_frame_words : linFrameOk [0x800] = true ∧ linFrameOk [0] = false ∧ linFrameOk [0x403, 1] = true ∧ bitsOf 0x403 0 6 = 3 ∧
    canFrameOk [0] = false ∧ canFrameOk (canFrameWords ⟨0, 5, 0, 0, [], 0, []⟩ 0) = true ∧
    t1sFrameOk ([60, 0] ++ List.replicate 15 0) = true ∧ t1sFrameOk ([59, 0] ++ List.replicate 15 0) = false ∧
    fcsOk (afterSfd []) = false ∧
    (∃ ns : List (BitVec 4), fcsOk (afterSfd ns) = true ∧ ns.length ≤ 16 * 9) := by
  refine ⟨by decide +kernel, by decide +kernel, by decide +kernel, by decide +kernel, by decide +kernel, by decide +kernel, by decide +kernel,
    by decide +kernel, by decide +kernel, t1sPreamble ++ nibblesOf (List.replicate 60 0 ++ fcsOf (List.replicate 60 0)), ?_, ?_⟩
  all_goals decide +kernel
theorem test_fcs : fcsOk (List.replicate 64 0) = false := by decide +kernel
theorem test_quadrature : after (.quadcapTransition 1 true false false) (program { state := 1 } 1) (fun t => (t.prog 1).count) = some 1 ∧
    after (.quadcapTransition 1 true true false) (program { state := 1 } 1) (fun t => (t.prog 1).count) = some 0 := by decide +kernel
def canFrame0 : CanFrame := ⟨0, 5, 0, 0, [1], 40, []⟩
theorem test_can_receive_error : after (.canRxFrame 1 canFrame0 (.error 4 false)) (program { state := 1, rec_ := 127 } 1) (fun t =>
      ((t.prog 1).rec_, (t.prog 1).errs, (t.prog 1).state)) = some (128, 1, 2) ∧
    after (.canRxFrame 1 canFrame0 .complete) (program { state := 2, rec_ := 128 } 1) (fun t => ((t.prog 1).rec_, (t.prog 1).state)) =
      some (127, 1) ∧
    after (.canRxFrame 1 canFrame0 (.cut 2)) (program { state := 1 } 1) (fun t => (t.queue 6).words.length) = some 2 := by decide +kernel
/-- Word 0 of thread 0's page names the table at bank 0, empty or with the entries given. -/
def tableWith (cells : List Host.Cell) : State := { sealed.setThr 0 runner with mem := (0x01000003, 2) :: cells }
def taken : List Host.Cell := (List.range 8).map fun i => (0x02000006 + 32 * i, 8)
theorem test_met_session : (tableWith []).loadWord 0 (coreMemBase 0) = 0x02000000 ∧ bankOf? 0x02000000 = some 0 ∧
    (tableWith []).bankCheck 0 (masterCore (coreOf 0)) = .ok ∧ ((tableWith []).thr 0).st = .running ∧ ((tableWith []).bank 0).ret = .active ∧
    ((tableWith []).setBank 0 { ret := .retained }).bank 0 = { ret := .retained } ∧
    (tableWith []).findPartner 0 0x02000000 0 0 = none ∧ (tableWith []).freePartner 0 0x02000000 0 0 = some 0x02000000 ∧
    (tableWith taken).findPartner 0 0x02000000 0 0 = some 0x02000000 ∧ (tableWith taken).findPartner 0 0x02000000 0x00100000 0 = none ∧
    (tableWith taken).freePartner 0 0x02000000 0x00100000 0 = none ∧
    (tableWith []).badWord 0x01000000 = false ∧ (tableWith []).mirrorRefuses 0 = false ∧ (tableWith []).entryBuffered 0 0x02000000 = false ∧
    (((tableWith []).setCore 0 { sbuf := [entry0 0x02000004] })).entryBuffered 0 0x02000000 = true ∧
    (tableWith []).bankAsk 0 0 (.table 0) false = .ok ∧ ((tableWith []).setBank 0 { ret := .retained }).bankAsk 0 0 (.table 0) false = .wait ∧
    ((tableWith []).setBank 0 { owner := 4 }).bankAsk 0 0 (.table 0) false = .refuse ∧
    (memWord (tableWith [(0x02000002, 0xC0), (0x02000003, 0x03)]).mem 0x02000000).getLsbD 22 = true ∧
    (memWord (tableWith [(0x02000002, 0xC0), (0x02000003, 0x03)]).mem 0x02000000).extractLsb' 23 9 = 7 := by decide +kernel
/-- R299: the words of a new entry, and its lock word free again. -/
theorem test_session : after (.partnerSessionOpen 0 0 0x12000 5 6 7) (tableWith []) (fun t =>
      (List.range 8).map fun i => memWord t.mem (0x02000000 + 32 * 18 + 4 * i)) = some [0, 0x80000, 0x12000, 5, 0, 6, 7, 0] := by decide +kernel

/-! ## Hypotheses met: time, actions, tasks, events -/

/-- Base 1 an ANGLE base that runs at 0, base 2 a NET base; reference 0 of base 1 reads captures from queue 5. -/
def bases : State :=
  let s := ((sealed.setFld F.tbCfg_EN 1 1).setFld F.tbCfg_KIND 1 1).setBase 1 { st := .locked }
  let t := ((s.setFld F.tbCfg_EN 1 2).setFld F.tbCfg_KIND 0 2).setBase 2 { st := .locked }
  let u := ((t.setFld F.tbRefcfg_V 1 1 0).setFld F.tbRefcfg_SRC 2 1 0).setFld F.tbRefarg_ARG 5 1 0
  (u.setFld F.qeQcfg_RKIND 3 5).setQueue 5 { words := [item3 1 0] }
theorem test_met_references : sealed.cycle % 16 = 0 ∧ ({ sealed with cycle := 17 }).cycle % 16 ≠ 0 ∧ sealed.baseOn 1 = false ∧
    sealed.baseOn 15 = false ∧ bases.baseOn 1 = true ∧ bases.refFld F.tbRefcfg_V 1 0 = 1 ∧ bases.refFld F.tbRefcfg_SRC 1 0 = 2 ∧
    bases.faults.sigLost = false ∧ (bases.dom 20).st = .on ∧ (bases.dom (16 + (quadrantOf 5).toNat)).st = .on ∧ bases.fld F.qeQcfg_RKIND 5 = 3 ∧
    (bases.readPacket 5 .signalEngine (bases.queue 5).depth []).1.length = 1 ∧ bases.slaved 1 = false ∧ bases.isNet 1 = false ∧
    bases.noneValid 1 = true ∧ (bases.base 1).st = .locked ∧ (bases.base 1).back = false := by decide +kernel
theorem test_met_net : bases.baseOn 2 = true ∧ bases.slaved 2 = false ∧ bases.refValid 2 (bases.base 2).sel = false ∧ bases.isNet 2 = true ∧
    (1 : BaseId) ≠ 0 ∧ (bases.setFld F.tbRefstat_EXCL 1 1 0).refFld F.tbRefstat_EXCL 1 0 = 1 ∧
    F.tbRefstat_EXCL.get ((bases.setFld F.tbRefstat_EXCL 1 1 0).setNow .tbRefstat 1 0) = 0 ∧
    (ratMod (bases.baseNow 1) (bases.ringOf 1)).floor < 2 ^ 32 ∧ (bases.base 1).zeroLap = none ∧ (bases.base 1).back = false ∧
    ((bases.setBase 1 { bases.base 1 with zeroLap := some 0 }).base 1).zeroLap = some (bases.baseNow 1 / (bases.ringOf 1 : Rat)).floor := by decide +kernel
/-- A capture packet of two items: a HALL capture of a reference of its kind (R307, R308). -/
def captured : State := bases.setQueue 5 { words := [⟨mkItem false 0 0 1 7, 1, false, none, 0⟩, ⟨mkItem true 0 1 1 3, 1, false, none, 0⟩] }
theorem test_met_capture : (captured.readPacket 5 .signalEngine (captured.queue 5).depth []).1.map itemKind = [0, 1] ∧
    (captured.refFld F.tbRefcfg_CAPT 1 0) = 0 ∧ captured.fld F.qeQcfg_RKIND 5 = 3 ∧
    ((capturePos (captured.ref 1 0) 0 (captured.refFld F.tbRefcfg_LANE 1 0) 3).map Option.isSome) = some true := by decide +kernel
theorem test_references : after (.referenceLost 2) bases (fun t => ((t.base 2).st, t.fld F.tbStat_REFLOST 2)) = some (.holdover, 1) ∧
    after (.stillTimeout 1) bases (fun t => (t.base 1).st) = some .still ∧
    after (.capturePacket 1 0) bases (fun t => t.fld F.tbRefstat_ERR 1 0) = some 1 ∧
    after (.timePortWord 7 true true) bases (fun t => (t.soc.ntTime, t.soc.ntStep)) = some (7, true) := by decide +kernel
theorem test_met_time_reads : ((ratMod (bases.baseNow 1) (bases.ringOf 1)).floor.toNat : Rat) = ratMod (bases.baseNow 1) (bases.ringOf 1) ∧
    bases.ns / 2 ^ bases.fld F.tbMon_WLOG 1 ≤ (bases.base 1).lastWin ∧
    ((bases.setBase 1 { st := .locked, va := 1 / 2 }).baseNow 1).den = 2 ∧ bases.cycle < (bases.base 1).lastSlew + 1024 ∧
    (bases.base 1).lastSlew + 1024 ≤ ({ bases with cycle := 1024 }).cycle ∧
    basePhiAt false { st := .locked, phi := 1 } 0 ≠ 0 := by decide +kernel
theorem test_met_windows :
    let s := { bases.setBase 1 { st := .acquire } with tbSum := 0x100000000 }
    s.baseOn 1 = true ∧ (s.base 1).lastWin < s.ns / 2 ^ s.fld F.tbMon_WLOG 1 ∧ (s.base 1).st = .acquire := by decide +kernel
/-- A window in which the rate leaves its range: its verdict drops the reference where one bad window suffices. -/
def badWindow : State :=
  let s := ((bases.setFld F.tbMon_N 1 1).setFld F.tbMon_M 1 1).setFld F.tbRange_RMIN 1 1
  { s.setRef 1 0 { obs := some (1000, 0), winFirst := some (0, 0) } with tbSum := 0x3E800000000 }
theorem test_met_bad_window : badWindow.isNet 1 = false ∧ badWindow.windowBad 1 0 = true ∧ badWindow.fld F.tbMon_N 1 = 1 ∧
    badWindow.fld F.tbMon_M 1 = 1 ∧ (badWindow.base 1).sel = 0 := by decide +kernel
theorem test_time_reads : after (.time0lRead 3) { sealed with tbSum := 0x11223344556677889999#80 } (fun t => (t.answer, (t.thr 3).timeH)) =
    some (0x55667788, 0x11223344) ∧
    after (.tbPortlRead 0) ((sealed.setReg .tbPortl 7).setReg .tbPorth 9) (fun t => (t.answer, smGet 0 t.latches 48)) =
      some (7, 9) := by decide +kernel

/-- Thread 0 posts to channel 0, lane 0, at TB0 = 0x10000. -/
def posting : State :=
  let s := ((sealed.setReg .taP0 0 0).setReg .taP1 0x10000 0).setChReg .peLanes 0x80 0
  s.setFld F.taHor_H 1000 0
theorem test_met_posts : posting.mirrorsChan 0 = false ∧ posting.mayPost 0 0 = true ∧ posting.mayPost 0x1F 0 = false ∧
    ((posting.setReg .taP4 0 0).badPost 0 ((posting.setReg .taP4 0 0).postedAction 0)) = false ∧
    ((posting.setReg .taP4 0x00010000 0).badPost 0 ((posting.setReg .taP4 0x00010000 0).postedAction 0)) = true ∧
    posting.passed 0 (posting.postedAction 0).x = false ∧ (posting.withinHorizon 0 (posting.postedAction 0).x).isSome = true ∧
    ((posting.setFld F.taHor_H 0 0).withinHorizon 0 (posting.postedAction 0).x) = none ∧ posting.pend.length < 8192 ∧
    ({ posting with tbSum := 0x200000000 }).passed 0 (posting.postedAction 0).x = true ∧
    (posting.chan 0).staged = [] ∧ posting.arrivals = [] ∧ posting.regWaits = [] ∧
    ((posting.setChan 0 { staged := List.replicate 64 ⟨action0, 4, 0, false, false, 0, 0⟩ }).chan 0).staged.length = 64 ∧
    posting.chFld F.peCcfg_VOTE 0 = 0 ∧ (posting.setChFld F.peCcfg_VOTE 1 0).chFld F.peCcfg_VOTE 0 = 1 ∧
    ((posting.setReg .taP0 0x00800000 0).postedAction 0).late = 1 ∧
    (posting.setReg .taP0 0x00800000 0).badPost 0 ((posting.setReg .taP0 0x00800000 0).postedAction 0) = false ∧ action0.trig = false := by decide +kernel
theorem test_met_full_store : 8192 ≤ ({ posting with pend := List.replicate 8192 action0 }).pend.length := by
  show 8192 ≤ (List.replicate 8192 action0).length
  rw [List.length_replicate]
theorem test_post : after (.post 0 0) posting (fun t => ((t.chan 0).staged.length, t.fld F.taPstat_RESULT 0)) = some (1, 0) ∧
    after (.post 0 0) (posting.setFld F.taHor_H 0 0) (fun t => (t.pend.length, t.fld F.taPstat_RESULT 0)) = some (1, 1) ∧
    after (.post 0x1F 0) posting (fun t => t.fld F.taPstat_RESULT 0x1F) = some 5 ∧
    after (.post 0 0x00010000) posting (fun t => t.fld F.taPstat_RESULT 0) = some 4 := by decide +kernel
/-- The generation of base 1 changed in cycle 10; channel 1 has an action of the old one, due in cycle 40 or in cycle 11. -/
def quenching (due : Nat) : State :=
  { (bases.setBase 1 { st := .locked, gen := 1, quenches := [(10, 1)] }).setChan 1
      { staged := [⟨{ action0 with base := 1 }, due, 0, false, false, 0, 0⟩] } with cycle := 12 }
theorem test_met_quench : (bases.base 1).quenches = [] ∧ ((quenching 40).base 1).quenches = [(10, 1)] ∧ 10 + 2 ≤ (quenching 40).cycle ∧
    ({ quenching 40 with cycle := 11 }).cycle < 10 + 2 ∧ (quenching 40).arrivals = [] ∧
    (∀ kv ∈ (quenching 40).channels, ∀ x ∈ kv.2.staged, x.act.qn = false) ∧ (quenching 40).quenched 1 10 1 ⟨{ action0 with base := 1 }, 40, 0, false, false, 0, 0⟩ = true ∧
    (bases.base 1).recompAt = none := by decide +kernel
/-- The action is withdrawn, unless it was due before the withdrawal reached its executor (R340), and recomputed (R341). -/
theorem test_quench : after (.quench 1) (quenching 40) (fun t => ((t.chan 1).staged.length, (t.base 1).recomp.length, (t.base 1).recompAt)) =
      some (0, 1, some 10) ∧
    after (.quench 1) (quenching 11) (fun t => ((t.chan 1).staged.length, (t.base 1).recomp.length)) = some (1, 0) := by decide +kernel
theorem test_met_recompute :
    let s := { bases.setBase 1 { st := .locked, recompAt := some 10, recomp := [⟨{ action0 with base := 1 }, 40, 0, false, false, 0, 0⟩] } with cycle := 13 }
    (s.base 1).recompAt = some 10 ∧ 10 + 3 ≤ s.cycle ∧ (s.base 1).recompStep ≠ s.cycle + 1 ∧ (s.base 1).recomp.length = 1 ∧
    ({ s with cycle := 12 }).cycle < 10 + 3 := by decide +kernel
theorem test_met_pass : posting.passDone ≠ posting.cycle / 1024 + 1 ∧ ({ posting with passDone := 1 }).passDone = posting.cycle / 1024 + 1 ∧
    posting.pend = [] ∧ ({ posting with pend := [action0] }).pend = [action0] ∧ (∀ kv ∈ posting.channels, kv.2.staged = []) := by decide +kernel

/-- Task 7 of core 0 with period 2^20 of TB0, and its job due; a fire for channel 3's trigger. -/
def tasks : State :=
  let x : Task := { cfg := 0x80002000, per := 0x100000, nextR := 0 }
  { (sealed.setFld F.tskSel_TASK 7 0).setTask 7 x with fires := [⟨3, true, 5, 0, 0⟩, ⟨4, false, 5, 0, 0⟩, ⟨0x200, true, 5, 0, 0⟩, ⟨0xFE0, true, 5, 0, 0⟩] }
theorem test_met_tasks : tasks.mirrorsTask 7 = false ∧ tasks.regWaits = [] ∧ (tasks.task 7).held = none ∧ (7 : TaskId) = BitVec.ofNat 12 (tasks.fld F.tskSel_TASK 0) ∧
    tasks.overTask (.thread 0) 0 = true ∧ F.tskCfg_S.get 0x80002000 ≤ 32 ∧ F.tskCfg_M.get 0x80002000 ≠ 0 ∧
    ((tasks.setTask 7 {}).task 7).enabled = false ∧ (tasks.task 7).enabled = true ∧ tasks.periodOk (tasks.task 7) = true ∧
    tasks.periodOk {} = false ∧ 0 < (tasks.task 7).per.toNat ∧ (tasks.task 7).running = false ∧ tasks.stages 0 = true ∧
    tasks.baseDisabled 0 = false ∧ tasks.wraps 0 = false ∧ tasks.passed 0 ((tasks.task 7).nextR : Int) = true ∧
    tasks.ringMod 0 ((tasks.task 7).nextR - tasks.gridPoint (tasks.task 7) (tasks.task 7).k) = 0 ∧ F.tskCfg_RELQ.get 0x80002000 = 0 := by
  decide +kernel
theorem test_task_release : after (.taskRelease 7) tasks (fun t => ((t.task 7).jobs, (t.task 7).onGrid)) = some (1, true) ∧
    after (.taskDone (.thread 0) 7) (tasks.setTask 7 { tasks.task 7 with running := true }) (fun t => (t.task 7).running) = some false := by
  decide +kernel
theorem test_met_fires : tasks.fires.find? (fun f => f.input == 3 && decide (f.due ≤ tasks.cycle)) = some ⟨3, true, 5, 0, 0⟩ ∧
    tasks.fires.find? (fun f => f.input == 4 && decide (f.due ≤ tasks.cycle)) = some ⟨4, false, 5, 0, 0⟩ ∧ tasks.fires.find? (fun f => f.input == 0x200 && decide (f.due ≤ tasks.cycle)) = some ⟨0x200, true, 5, 0, 0⟩ ∧
    (∀ f ∈ tasks.fires, f.input ≠ 9) ∧ (0xFE0 : BitVec 12).toNat ∉ tasks.wokeNow ∧ 0xFE0 ∈ ({ tasks with wokeNow := [0xFE0] }).wokeNow ∧ smGet none tasks.evmHeld 0x200 = none := by decide
theorem test_fires : after (.eventFire 3) tasks (fun t => ((t.chan 3).trig, t.fires.length)) = some (true, 3) ∧
    after (.eventFire 4) tasks (fun t => (t.chan 4).trig) = some false ∧
    after (.eventFire 3) (tasks.setChan 3 { trig := true }) (fun t => t.fld F.evmOvrcnt_COUNT) = some 1 ∧
    after (.eventFire 0xFE0) (tasks.setDom 0 { st := .retained }) (fun t => (t.dom 0).st) = some .waking := by decide +kernel

/-! ## Hypotheses met: signal engine, bellows, power -/

/-- A word as channel 3 pushes it, KIND 1. -/
def canWord (v : Word) : BitVec 64 := mkItem true 0 1 (BitVec.ofNat 22 (2 ^ 18 + 3)) v
/-- Queue 5 offers the engine a packet; the store holds one of queue 6 that is accepted and one of queue 7 that is not. -/
def held6 : SigPacket := { id := 1, q := 6, items := [canWord 9], whole := true, started := true, lines := [], frame := none, next := 0
                           key := some (3, 0), waiting := none }
def held7 : SigPacket := { id := 2, q := 7, items := [0], whole := true, started := false, lines := [], frame := none, next := 0, waiting := none }
def signals : State :=
  let s := ((sealed.setFld F.qeQcfg_RKIND 3 5).setQueue 5 { words := [⟨canWord 9, 1, false, none, 0⟩] }).setFld F.sigChc_OKKIND 2 3
  { s with sigPackets := [held6, held7] }
theorem test_met_signal_read : signals.nextOffer = some 5 ∧ sealed.nextOffer = none ∧ (signals.dom 20).st = .on ∧
    signals.faults.sigLost = false ∧ signals.captureEntry 5 = none ∧ signals.partRead = none ∧
    (signals.dom (16 + (quadrantOf 5).toNat)).st = .on ∧ (signals.sigRead 5 (min (signals.queue 5).depth (16384 - signals.storeUse)) []).1 = [canWord 9] := by decide +kernel
theorem test_met_lookup : signals.sigPackets.find? (fun p => p.q == 6) = some held6 ∧
    signals.packetKey [canWord 9] = some (3, 0) ∧ signals.sigPackets.find? (fun p => p.q == 7) = some held7 ∧
    signals.packetKey [0] = none ∧ signals.cached (homeLine (signals.fld F.sigCfg_BLOG) 3 0 % 2 ^ signals.fld F.sigCfg_BLOG) = none ∧
    signals.fld F.sigCfg_DIRON = 0 ∧ signals.fills = [] ∧ signals.writeBacks = [] ∧ signals.regWaits = [] ∧ signals.pinWrite = none ∧
    (signals.setFld F.sigCfg_DIRON 1).fld F.sigCfg_DIRON = 1 := by decide +kernel
theorem test_signal : after .sigPacketRead signals (fun t => (t.sigPackets.length, (t.queue 5).words)) = some (3, []) ∧
    after (.directoryLookup 7) signals (fun t => (t.sigPackets.length, t.fld F.sigCnt_COUNT 8)) = some (1, 1) ∧
    after (.directoryLookup 6) (signals.setFld F.sigCfg_DIRON 1) (fun t => t.fills.map fun f => f.line) = some [0] := by decide +kernel
/-- R361: the home line by the multiplicative hash, here of channel 1 and key 0 in a directory of 2^8 lines. -/
theorem test_home_line : homeLine 8 1 0 = (2 ^ 23 * 0x9E3779B1 % 2 ^ 32) / 2 ^ 24 ∧ homeLine 0 1 0 = 0 := by decide +kernel
def filling : State :=
  { sealed with fills := [⟨5, true, false, 0, none⟩], writeBacks := [6], cache := [(7, some ⟨List.replicate 16 0, true, false, 0⟩),
    (8, some ⟨List.replicate 16 0, false, false, 0⟩)] }
theorem test_met_fills : filling.fills = [⟨5, true, false, 0, none⟩] ∧ (List.replicate 16 (0 : Word)).length = 16 ∧ filling.sigPackets = [] ∧
    (6 : BitVec 21).toNat ∈ filling.writeBacks ∧ isBlock (.thread 0) = true ∧ sealed.fills = [] ∧
    (smGet none filling.cache 8).isSome = true ∧ (smGet none filling.cache 9) = none ∧ F.sigCfg_BLOG.get 0x54000000 = 21 ∧
    (signals.setFld F.sigCfg_DIRON 1 |>.store (.thread 0) .sigCfg 0).fld F.sigCfg_DIRON = 0 := by decide +kernel
theorem test_met_replacement :
    let s := { filling with pinWrite := some ⟨28, [1, 2, 3, 4], 16⟩, cycle := 16 }
    s.pinWrite.isSome = true ∧ 16 ≤ s.cycle ∧ (smGet none s.cache (28 / 4)).map (fun x => x.pinned) = some true ∧
      (s.replacePinned.cached 7).map (fun x => x.words.take 5) = some [1, 2, 3, 4, 0] := by decide +kernel
theorem test_fill : after (.directoryFillReturn 5 true (List.replicate 16 1)) filling (fun t => ((t.cached 5).map fun x => x.words.length, t.fills.length)) =
    some (some 16, 0) ∧ after (.directoryInvalidate (.thread 0) 8) { filling with fills := [] } (fun t => (t.cached 8).isSome) = some false ∧
    after (.directoryInvalidate (.thread 0) 7) { filling with fills := [] } (fun t => (t.cached 7).isSome) = some true ∧
    after (.pinnedEntryReplace (.thread 0) 36) filling (fun t => t.fld F.sigStat_PWERR) = some 1 := by decide +kernel

theorem test_met_bellows :
    let s := { sealed.setHearth 1 { due := some 600 } with cycle := 65536 }
    sealed.cycle < 65536 * ((sealed.hearth 0).epoch + 1) ∧ 65536 * ((s.hearth 0).epoch + 1) ≤ s.cycle ∧ (s.hearth 0).due = none ∧
    (s.hearth 1).due = some 600 ∧ 600 ≤ s.cycle ∧ (s.hearth 1).moves = [] ∧ (s.hearth 1).retain = false ∧ sealed.fld F.sltCtl_DIRTY 0 = 0 ∧
    sealed.fld F.sltCtl_PEND 0 = 0 ∧ (sealed.setFld F.sltCtl_PEND 1 0).fld F.sltCtl_PEND 0 ≠ 0 ∧ sealed.nowFixed 0 3 = false ∧ (sealed.setFld F.belTbnd_MAXSLOTS 8 3).moveStands 0 ⟨0, 4, 3, none⟩ = true ∧
    sealed.moveStands 0 ⟨0, 4, 3, none⟩ = false ∧ (s.hearth 1).ended = none ∧
    ((s.setHearth 1 { ended := some ⟨[], [], true, []⟩ }).hearth 1).ended = some ⟨[], [], true, []⟩ ∧ (sealed.core 0).snapAt ≠ 65536 ∧
    ((sealed.setCore 0 { snapAt := 65536 }).core 0).snapAt = 65536 ∧ sealed.coreRetired 0 = false ∧ 128 ≤ sealed.slotEntry 0 0 + 128 ∧
    sealed.nowFixed 0 (BitVec.ofNat 4 (sealed.slotEntry 0 0)) = false := by decide +kernel
/-- A move takes its entry, and none is taken where the core's table was copied at the same boundary (R36, R389). -/
theorem test_moves : (((sealed.setFld F.belTbnd_MAXSLOTS 8 3).applyMoves 0 0 [⟨0, 4, 3, none⟩] 65536).slotEntry 0 4) % 128 = 3 ∧
    ((sealed.setCore 0 { snapAt := 65536 }).applyMoves 0 0 [⟨0, 4, 3, none⟩] 65536).reg .belHstat = 0x01000000 := by decide +kernel
theorem test_bellows : after (.bellowsEpochEnd 0) { sealed.setThr 5 { runner with issued := 9, waited := 3 } with cycle := 65536 }
    (fun t => (t.fld F.belTiss_ISSUE 5, t.fld F.belTwait_WAIT 5, (t.thr 5).issued)) = some (9, 3, 0) := by decide +kernel

def powered (st : DomState) : State := { sealed.setDom 3 { st := st } with cycle := 64, tbSum := 0x2EE000000000 }
theorem test_met_power : ((powered .off).dom 3).st = .off ∧ ((powered .on).dom 3).st = .on ∧ (powered .on).refusesLow 3 = false ∧
    ((powered .on).setThr 0xC0 runner).refusesLow 3 = true ∧ ((powered .draining).dom 3).st = .draining ∧ (powered .draining).drained 3 = true ∧ sealed.drained 20 = true ∧
    ((powered .entering).dom 3).since + 64 ≤ (powered .entering).cycle ∧ ((powered .entering).dom 3).off = false ∧
    ((powered .waking).dom 3).ackFell = none ∧ ((powered .waking).dom 3).pdAck = false ∧
    ((powered .waking).dom 3).since + 12000 ≤ (powered .waking).ns ∧ sealed.refusesLow 21 = false ∧
    (sealed.dom 21).st = .on ∧ (1 : Nat) % 1024 ≠ 0 ∧ sealed.cycle % 1024 = 0 := by decide +kernel
theorem test_power : after (.powerRequestRetained (.thread 0) 3) (powered .on) (fun t => (t.dom 3).st) = some .draining ∧
    after (.powerRequestRetained (.thread 0) 3) ((powered .on).setThr 0xC0 runner) (fun t => t.fld F.pwrDstat_DENIED 3) = some 1 ∧
    after (.drainComplete 3) (powered .draining) (fun t => (t.dom 3).st) = some .entering ∧
    after (.domainLowState 3) (powered .entering) (fun t => ((t.dom 3).st, (t.dom 3).pdReq)) = some (.retained, true) ∧
    after (.domainOn 3) (powered .waking) (fun t => (t.dom 3).st) = some .on := by decide +kernel

/-! ## Hypotheses met: chain and mirror -/

/-- Lane 0 in a state, enabled, with the node's number loaded and codewords seen. -/
def laned (x : Lane) : State := (((sealed.setFld F.chnLctl_EN 1 0).setFld F.blkNodeid_LOADED 1).setFld F.blkNodeid_BLOCK 5).setLane 0 x
def late (s : State) : State := { s with tbSum := 0x271000000000 }
theorem test_met_lanes : F.chnLctl_EN.get ((sealed.store (.thread 0) .chnLctl 0x80000000 0).reg .chnLctl 0) = 1 ∧
    F.chnLctl_EN.get ((sealed.store (.thread 0) .chnLctl 0 0).reg .chnLctl 0) = 0 ∧ ((laned {}).lane 0).st = .down ∧
    (laned {}).fld F.chnLctl_EN 0 = 1 ∧ (laned {}).fld F.blkNodeid_LOADED = 1 ∧ ((laned {}).lane 0).faultDown = false ∧
    ((laned {}).dom 21).st = .on ∧ ((laned { st := .init }).lane 0).st = .init ∧ ((late (laned { st := .init })).lane 0).lastInit + 1000 ≤ (late sealed).ns ∧
    ((laned { st := .init, sentReady := true, gotReady := true }).lane 0).sentReady = true ∧ ((laned { st := .up }).lane 0).st = .up ∧
    (laned {}).ns < ((laned {}).lane 0).lastCw + 10000 ∧ ((laned { st := .up, lock := true }).lane 0).lock = true ∧
    (3 : BitVec 10).toNat ≠ ((laned { st := .up, lock := true }).lane 0).rxNext := by decide +kernel
theorem test_met_codeword_timeout : ((late (laned { st := .init })).lane 0).lastCw + 10000 ≤ (late (laned { st := .init })).ns := by
  decide +kernel
theorem test_lanes : after (.laneInit 0) (laned {}) (fun t => ((t.lane 0).st, (t.lane 0).sig)) = some (.init, true) ∧
    after (.laneSignalLoss 0) (laned { st := .up, sig := true }) (fun t => ((t.lane 0).st, t.fld F.chnLstat_CAUSE 0)) = some (.down, 2) ∧
    after (.initFlitRx 0 { flit0 with type := 14, vc := 0, h2 := 0x80000007 }) (laned { st := .init }) (fun t => ((t.lane 0).gotReady, (t.lane 0).peer)) =
      some (true, 7) ∧
    after (.codewordRx 0 .uncorrectable) (laned { st := .init, lock := true }) (fun t => t.fld F.chnLcnt_UNCORR 0) = some 1 := by decide +kernel

def up : State := laned { st := .up, credits := [4, 8, 8, 8] }
theorem test_met_flits : (up.lane 0).st = .up ∧ { flit0 with dest := up.node }.dest = up.node ∧ flit0.type = 8 ∧ flit0.vc = 1 ∧ flit0.dest = up.node ∧
    { flit0 with dest := 9 }.dest ≠ up.node ∧ (∀ n ∈ baseIds, up.baseOn n = false) := by decide +kernel
theorem test_met_written_words : { flit0 with type := 9, h3 := 0x00300000 }.runWords.length = 2 ∧ up.upLanes 15 = [0] ∧
    { flit0 with type := 13, vc := 0 }.h2 = 0 ∧ (up.lane 0).probeAt ≠ some 0 := by decide +kernel
theorem test_met_probe_time : (({ up with tbSum := 0xF424000000000 }).lane 0).lastProbe + 1000000 ≤ ({ up with tbSum := 0xF424000000000 }).ns := by
  decide +kernel
theorem test_met_forward : { flit0 with dest := 9 }.hops ≠ 16 ∧ ({ flit0 with dest := 9 }.aged 0).expired = false ∧ { flit0 with hops := 16 }.hops = 16 := by
  decide +kernel
theorem test_met_time_flits :
    let s := { ((bases.setFld F.chnTcfg_EN 1).setFld F.chnTcfg_TB 2).setFld F.chnTcfg_PERIOD 0 with cycle := 3 }
    s.fld F.chnTcfg_EN = 1 ∧ s.isNet 2 = true ∧ (s.base 2).st = .locked ∧ s.chain.lastTime + 1000 * (s.fld F.chnTcfg_PERIOD) ≤ s.ns ∧
    (∀ k ∈ laneIds, (s.lane k).st ≠ .up) ∧ sealed.fld F.chnTcfg_EN = 0 := by decide +kernel
theorem test_flits : after (.creditRx 0 { flit0 with type := 15, vc := 0, h2 := 0x01020304 }) up (fun t => (t.lane 0).credits.length) = some 4 ∧
    after (.itemsFlitRx 0 { flit0 with vc := 0 }) up (fun t => t.fld F.chnLcnt_UNCORR 0) = some 1 ∧
    after (.rwriteRx 0 { flit0 with type := 9, dest := 9, hops := 16 }) up (fun t => t.fld F.chnCnt_HOP) = some 1 := by decide +kernel

/-- The tunnel on, its TX ring empty; one entry gathered for node 9 and older than 2 us. -/
def tunnel : State :=
  let s := ((sealed.setFld F.chnTuncfg_EN 1).setFld F.blkNodeid_LOADED 1).setFld F.chnTuncfg_TXLOG 4
  { s with tbSum := 0xBB800000000, chain := { s.chain with tun := [⟨9, 0, [⟨flit0, 3000, none⟩]⟩], rxPidx := 1 } }
theorem test_met_tunnel : tunnel.fld F.chnTuncfg_EN = 1 ∧ tunnel.fld F.blkNodeid_LOADED = 1 ∧ tunnel.chain.tunStopped = false ∧ tunnel.chain.lastPoll + 1000 ≤ tunnel.ns ∧
    tunnel.ns = 3000 ∧ tunnel.chain.tun = [⟨9, 0, [⟨flit0, tunnel.ns, none⟩]⟩] ∧ 0 + 2000 ≤ tunnel.ns ∧ flit0.age.toNat < 4000 ∧
    tunnel.txUsed < tunnel.txSize ∧ tunnel.chain.rxCidx ≠ tunnel.chain.rxPidx ∧ sealed.chain.tun = [] := by decide +kernel
theorem test_met_tunnel_response : ∃ r : SmReq, ({ sealed with soc := { sealed.soc with reqs := [r] } }).soc.reqs.find? SmReq.isTunnel = some r ∧
    r.isTunnelEntry = true := ⟨.tunnel 0 [0, 0], by decide, by decide⟩
theorem test_met_tunnel_entries : tunnelEntryOk 0 [] = false ∧ tunnelEntryOk 0x10800000 [flit0] = true := by decide +kernel
theorem test_tunnel : after (.tunnelPoll 7 9) tunnel (fun t => (t.chain.txCidx, t.chain.rxPidx)) = some (7, 9) ∧
    after .tunnelEntryClose tunnel (fun t => (t.chain.tun.length, t.soc.held.length)) = some (0, 1) ∧
    after (.tunnelRxEntry 0 []) tunnel (fun t => t.fld F.chnTunstat_BAD) = some 1 := by decide +kernel

def paired (m : Mirror) : State := { sealed with mirror := m, tbSum := 0x7D0000000000 }
theorem test_met_mirror : (paired { begun := true }).mirror.lastHbSent + 8000 ≤ (paired {}).ns ∧ sealed.fld F.mirCfg_EN = 0 ∧
    (paired { role := .primary }).mirror.lastHbRx + 32000 ≤ (paired {}).ns ∧ (paired { role := .joining }).mirror.heard = false ∧
    ((paired {}).setFld F.mirTim_JOINTO 0).mirror.joinAt + 1000000 * (((paired {}).setFld F.mirTim_JOINTO 0).fld F.mirTim_JOINTO) ≤ (paired {}).ns ∧
    isBlock (.thread 0) = true ∧ (paired { role := .held }).mirror.guardAt = none ∧ (sealed.setFld F.mirCfg_KICKEN 1).fld F.mirCfg_KICKEN = 1 ∧
    (paired { armed := true }).mirror.guard = false ∧ (0 : Nat) + 2000 ≤ (paired { testAt := some 0 }).ns ∧
    (0 : Nat) + 10000 ≤ (paired { guardAt := some 0 }).ns ∧ (paired { guardAt := some 0 }).mirror.snaps = [] ∧
    (paired { role := .syncing }).mirror.copying = false ∧ (paired { role := .syncing, based := true }).mirror.early = [] ∧
    (let m : Mirror := { role := .alone, copying := true, copyEnd := true }
     (paired m).mirror.egress = [] ∧ (paired m).mirror.acked = (paired m).mirror.sent ∧ m.silent = false ∧ m.copied = true) ∧
    0 ∈ ((up.setLane 0 { st := .up }).setFld F.mirCfg_LANES 3).mirrorLanes ∧ sealed.pairing = false ∧ sealed.applying = false ∧
    flit0.src.toNat = (sealed.setFld F.mirCfg_PARTNER 6).fld F.mirCfg_PARTNER ∧ ((5 : BitVec 20) - 4).toNat < 2 ^ 19 ∧
    2 ^ 19 ≤ ((4 : BitVec 20) - 5).toNat := by decide +kernel
theorem test_mirror : after .heartbeatTimer (paired { begun := true }) (fun t => (t.mirror.hbgen, t.mirror.armed)) = some (1, true) ∧
    after .partnerSilence (paired { role := .primary }) (fun t => (t.mirror.silent, t.mirror.testAt)) = some (true, some 32000) ∧
    after .mirrorCopyComplete (paired { role := .syncing, based := true }) (fun t => t.mirror.role) = some .standby := by decide +kernel

/-! ## Hypotheses met: faults, resets, start-up, ember, ports -/

/-- Class 3 acts at the third event of 10 ms; one event of port 300 is tracked since 12.1 ms (the example of chapter 15). -/
def tracked : State :=
  let s := (((sealed.setFld F.fltScfg_THRESH 3 3).setFld F.fltScfg_WINDOW 10000 3).setFld F.fltScfg_ACTION 3 3)
  { s with tbSum := 0xBB800000 <<< 24, faults := { s.faults with track := [⟨3, 300, 2, 0x500000⟩] } }
theorem test_met_fault_events : (3 : BitVec 4).toNat ≤ 11 ∧ isBlock (.thread 0) = true ∧ isBlock (.thread 9) = false ∧
    tracked.outOfService 3 300 = false ∧ tracked.fld F.fltScfg_THRESH 3 = 3 ∧
    (tracked.faults.track.find? fun e => e.cls == 3 && e.inst == 300) = some ⟨3, 300, 2, 0x500000⟩ ∧
    (tracked.faults.track.find? fun e => e.cls == 3 && e.inst == 301) = none ∧ tracked.faults.track.length < 256 ∧
    64 ≤ ({ sealed with faults := { sealed.faults with lines := (List.range 64).map fun i => (0x21, i) } }).spares 0x21 ∧
    4 ≤ ({ sealed with faults := { sealed.faults with lines := (List.range 4).map fun i => (0x40, i) } }).spares 0x40 ∧
    16 ≤ ({ sealed with faults := { sealed.faults with lines := (List.range 16).map fun i => (0x35, i) } }).spares 0x35 := by decide +kernel
theorem test_met_out_of_service : (sealed.setFld F.peFence_FENCED 1 300).outOfService 3 300 = true := by decide +kernel
/-- The third event in the window fences the port; an event of another port is tracked. -/
theorem test_fault_event : after (.faultEvent 3 300) tracked (fun t => (t.fld F.peFence_FENCED 300, t.fld F.fltScnt_ACTIONS 3)) = some (1, 1) ∧
    after (.faultEvent 3 301) tracked (fun t => (t.faults.track.length, t.fld F.fltScnt_EVENTS 3)) = some (2, 1) := by decide +kernel

theorem test_met_resets : (sealed.soc.reqs = []) ∧ sealed.fld F.fltAlm_FATAL = 0 ∧ sealed.boot.hearth = none ∧ (1 : HearthId) ≠ 0 ∧
    State.reset.boot.seald = false ∧ (sealed.setFld F.fltAlm_FATAL 1).fld F.fltAlm_FATAL = 1 ∧ sealed.reloading = false ∧
    ({ sealed.setFld F.bootCause_KIND 1 with boot := { sealed.boot with stage := .critical } }).reloading = true ∧ sealed.fld F.hstSvccfg_RLDEN = 0 ∧
    (sealed.setFld F.hstSvccfg_RLDEN 1).fld F.hstSvccfg_RLDEN = 1 ∧ (3 : BitVec 3) ≠ 1 := by decide +kernel
theorem test_resets : after (.coldReset 0 true 6) (sealed.setThr 3 runner) (fun t => ((t.thr 3).st, t.boot.stage, t.boot.hold, t.tbSum)) =
    some (.unreleased, .rom, true, 0) ∧
    after (.coldReset 0 false 7) sealed (fun t => (t.boot.stage, t.boot.err)) = some (.failed, 6) ∧
    after (.reload (.bootCtl (.thread 0)) 0 false 1) sealed (fun t => (t.fld F.bootCause_KIND, t.fld F.bootCause_RELOADS)) = some (1, 1) ∧
    after (.hearthReset (.thread 0) 1) { sealed with mem := [(0x01100000, 7), (0x01200000, 8)] } (fun t => (t.mem, (t.core 4).mode)) =
      some ([(0x01200000, 8)], .recovery) := by decide +kernel
/-- R465: a warm reset before the seal is ignored and sets HERR. -/
theorem test_warm_reset : after (.warmReset (.thread 0)) State.reset (fun t => t.fld F.bootHstat_HERR) = some 1 ∧
    after (.hearthReset (.thread 0) 0) sealed (fun t => t.fld F.bootHstat_HERR) = some 1 := by decide +kernel

/-- R470: the check value of CRC-32C over the nine ASCII bytes; FIPS 180-4's example of SHA-256 over "abc" (R480). -/
theorem test_crc32c : crc32c [0x31, 0x32, 0x33, 0x34, 0x35, 0x36, 0x37, 0x38, 0x39] = 0xE3069283 := by decide +kernel
theorem test_sha256 : sha256 [0x61, 0x62, 0x63] = [0xBA7816BF, 0x8F01CFEA, 0x414140DE, 0x5DAE2223, 0xB00361A3, 0x96177A9C, 0xB410FF61, 0xF20015AD] := by
  decide +kernel

def bytesOf (ws : List Word) : List Byte :=
  (ws.map fun w => [w.extractLsb' 0 8, w.extractLsb' 8 8, w.extractLsb' 16 8, w.extractLsb' 24 8]).flatten
/-- The header and table of a copy of three sections (BLOCK, CORE 0 critical and released, SEAL), its CRCs by hand. -/
def copyOf (seq hcrc : Word) : List Byte :=
  bytesOf ([0x59505842, 0x00020000, seq, 260, 3, 0, 0, 0, 0, 0, 0, 0, 0, 0, 0xE06F528C, hcrc] ++
    [0x03000001, 0x80, 4, 0x48674BC7, 0x03000003, 0xC0, 4, 0x48674BC7, 0x0000000D, 0x100, 4, 0x48674BC7])
def copy1 : List Byte := copyOf 1 0x48B7A1E6
def copy2 : List Byte := copyOf 2 0xA1E8CAE9
theorem test_met_copies : (parseCopy copy1).map (fun x => (x.1, x.2.1, x.2.2.length)) = some (1, 260, 3) ∧
    (parseCopy copy2).map (fun x => x.1) = some 2 ∧ parseCopy [] = none ∧ parseCopy (copyOf 3 0) = none ∧
    1 ≤ ((2 : Word) - 1).toNat ∧ ((2 : Word) - 1).toNat < 2 ^ 31 ∧ ¬ (1 ≤ ((1 : Word) - 1).toNat) ∧
    260 ≤ 2 ^ (21 + (State.reset.reg .bootStrap).toNat % 8) ∧ State.reset.boot.excluded = none ∧ State.reset.boot.stage = .rom ∧
    State.reset.fld F.bootCause_SOURCE ≠ 4 := by decide +kernel
theorem test_selection : after (.billetHeadersRead copy1 copy2) State.reset (fun t => (t.boot.copyB, t.boot.stage)) = some (true, .critical) ∧
    after (.billetHeadersRead copy2 copy1) State.reset (fun t => t.boot.copyB) = some false ∧
    after (.billetHeadersRead copy1 copy1) State.reset (fun t => t.boot.copyB) = some false ∧
    after (.billetHeadersRead [] copy1) State.reset (fun t => t.boot.copyB) = some true ∧
    after (.billetHeadersRead [] []) State.reset (fun t => (t.boot.stage, t.boot.err)) = some (.failed, 1) := by decide +kernel

/-- The last section of a load, and one more to come. -/
def loading (e : SectEntry) : State := { State.reset with boot := { State.reset.boot with stage := .rest, table := [e], total := 4 } }
def sealEntry (crc : Word) : SectEntry := { flags := 0, inst := 0, type := 0x0D, offset := 0, length := 4, crc := crc }
theorem test_met_sections : (loading (sealEntry 0x48674BC7)).boot.table[(loading (sealEntry 0x48674BC7)).boot.next]? = some (sealEntry 0x48674BC7) ∧
    (loading (sealEntry 0)).boot.stage = .rest ∧ (loading (sealEntry 0)).soc.due = none ∧ crc32c [0, 0, 0, 0] = 0x48674BC7 ∧
    ((loading (sealEntry 0)).loadSection (sealEntry 0) [0, 0, 0, 0]).2 = true ∧
    ((loading (sealEntry 0)).loadSection { sealEntry 0 with type := 0x0E } [0, 0, 0, 0]).2 = false := by decide +kernel
theorem test_section : after (.sectionLoaded [] [0, 0, 0, 0]) (loading (sealEntry 0x48674BC7)) (fun t => (t.boot.stage, t.boot.next)) =
    some (.sealing, 1) ∧
    after (.sectionLoaded [] [0, 0, 0, 0]) { loading (sealEntry 1) with boot := { (loading (sealEntry 1)).boot with excluded := some true } }
      (fun t => (t.boot.stage, t.boot.err)) = some (.failed, 2) := by decide +kernel
def criticalDone : State := { State.reset with boot := { State.reset.boot with stage := .rest, critDone := true, hold := false } }
theorem test_met_releases : criticalDone.boot.critDone = true ∧ criticalDone.boot.hold = false ∧ criticalDone.boot.released = false ∧
    criticalDone.boot.stage = .rest := by decide
theorem test_met_digest :
    let s := { loading (sealEntry 0) with boot := { (loading (sealEntry 0)).boot with next := 1, stream := [1, 2, 3] } }
    s.boot.table ≠ [] ∧ s.boot.next = s.boot.table.length ∧ s.boot.dvalid = false ∧ s.boot.stage = .rest ∧
    s.boot.stream.length + [(4 : Byte)].length = s.boot.total := by decide
/-- A state about to seal: its SEAL section holds the marker and the number of sections before it. -/
def sealing (ws : List Word) (hold : Bool) : State :=
  { State.reset with boot := { State.reset.boot with stage := .sealing, released := true, hold := hold, table := [sealEntry 0], sealWords := ws } }
theorem test_met_seal_fails : (sealing [] false).sealCheck.isSome = true := by decide +kernel
theorem test_met_seal_good : (sealing [0x4C414553, 0] true).sealCheck = none := by decide +kernel
theorem test_met_go : ({ sealing [] true with boot := { (sealing [] true).boot with dvalid := true, stage := .hold } }).boot.dvalid = true ∧
    (sealing [] true).boot.hold = true ∧ (sealing [] true).soc.due = none ∧ (sealing [] true).boot.stage = .sealing := by decide
def resetting : State :=
  { sealed with boot := { sealed.boot with hearth := some 0, table := [{ sealEntry 0x48674BC7 with type := 0x03, flags := 3 }] } }
theorem test_met_hearth : resetting.boot.hearth = some 0 ∧ (resetting.dom (0 : HearthId).toNat).st = .on ∧
    (resetting.coreSections 0).map (fun x => x.2.length) = [[(0 : Byte), 0, 0, 0]].map List.length ∧
    ((resetting.setDom 0 { st := .off }).dom 0).st ≠ .on := by decide +kernel

/-! ## Ember -/

/-- 2100-02-28 23:59:59 (the example of chapter 17), with the next second due. -/
def feb2100 : State :=
  { sealed with ember := { sealed.ember with year := 2100, month := 2, day := 28, hour := 23, min := 59, sec := 59, sub := 32767, valid := true
                                             secDue := true } }
theorem test_met_calendar : feb2100.ember.secDue = true ∧ feb2100.ember.setDue = false ∧ feb2100.ember.day = lastDay 2100 2 ∧
    feb2100.ember.month < 12 ∧ sealed.ember.secDue = false ∧ (sealed.setFld F.embWtimer_COUNT 1).fld F.embWtimer_COUNT ≠ 0 ∧
    (masterHost).toNat < 44 ∧ feb2100.embLatest .embSet0 = 0 ∧ isBlock (.thread 0) = true ∧ feb2100.ember.setPend = none ∧
    ({ feb2100.ember with setPend := some (0, 1, 2) }).setPend = some (0, 1, 2) := by decide +kernel
theorem test_calendar : after .calendarSecond feb2100 (fun t => (t.ember.year, t.ember.month, t.ember.day, t.ember.hour, t.ember.sub)) =
    some (2100, 3, 1, 0, 0) ∧ lastDay 2100 2 = 28 ∧ lastDay 2000 2 = 29 ∧ dayOfWeek 36583 = 7 ∧ dayOfWeek 36584 = 1 := by decide +kernel
/-- Setting 2100-02-29 12:00:00 is rejected with REASON DAY; 2100-02-28 is taken. -/
theorem test_calendar_set :
    let set := fun (v : Word) => (sealed.setReg .embSet0 0x000C0000).setReg .embSet1 v
    after (.calendarSet (.thread 0)) (set 0x0834021D) (fun t => t.fld F.embCalerr_REASON) = some 3 ∧
    after (.calendarSet (.thread 0)) (set 0x0834021C) (fun t => (t.fld F.embCalerr_PEND, t.ember.setPend.isSome)) = some (1, true) := by
  decide +kernel
theorem test_met_ember : feb2100.ember.wakeDue = [] ∧ feb2100.ember.timerDue = false ∧ feb2100.ember.writes = [] ∧ sealed.ember.secDue = false ∧
    (1 : BitVec 32).getLsbD 0 = true ∧ smGet 0 sealed.ember.filt 0 = 0 ∧
    ((sealed.setFld F.embWcfg_MODE 2 0).setFld F.embWcfg_FILT 1 0).fld F.embWcfg_MODE 0 = 2 ∧
    ({ sealed.ember with wakeDue := [3] }).wakeDue.contains 3 = true ∧ sealed.ns < sealed.ember.lastTick + 1000000 := by decide +kernel
theorem test_ember : after (.emberTick 0) { sealed with ember := { sealed.ember with valid := true, sub := 5 } } (fun t => t.ember.sub) = some 6 ∧
    after (.emberTick 1) ((sealed.setFld F.embWcfg_MODE 2 0).setFld F.embWcfg_FILT 1 0) (fun t => t.ember.wakeDue) = some [0] ∧
    after (.wakeRecognised 3) { sealed with ember := { sealed.ember with wakeDue := [3] } } (fun t => (t.reg .embWstat).getLsbD 3) = some true := by
  decide +kernel

/-! ## Ports -/

theorem test_met_ports : (0x3FFFF8 : BitVec 24).toNat % 8 = 0 ∧ (0x3FFFFC : BitVec 24).toNat % 8 ≠ 0 ∧ (0x801000 : Nat) ≤ (0x801000 : BitVec 24).toNat ∧
    sealed.soc.htOwed = 0 ∧ ({ sealed.soc with htOwed := 1, dpOwed := 1 }).htOwed = 1 ∧ sealed.soc.held = [] ∧
    ({ sealed.soc with held := [.fill 0 0] }).held = [.fill 0 0] ∧ (SmReq.fill 0 0).beats ≤ sealed.soc.smCredits + 1 ∧
    sealed.soc.roomFor (.fill 0 0) = true ∧ sealed.soc.due = none ∧
    (let k := { sealed.soc with held := [.fill 0 0, .fill 1 64] }
     (k.arb.choose SmReq.requester k.ready).1 = some (.fill 0 0) ∧ (SmReq.fill 0 0).beats = k.smCredits + 1) ∧ sealed.soc.raised = [] ∧
    sealed.fld F.hstVctl_EN 3 = 0 ∧ ((sealed.setFld F.hstVctl_EN 1 3).fld F.hstVctl_EN 3 = 1) ∧ sealed.fld F.hstVctl_WIRED 3 = 0 ∧
    (sealed.setFld F.hstVctl_WIRED 1 3).fld F.hstVctl_WIRED 3 = 1 ∧ smGet 0 sealed.soc.irq 3 ≤ sealed.cycle ∧
    sealed.cycle < smGet 0 ({ sealed.soc with irq := [(3, 64)] }).irq 3 := by decide +kernel
theorem test_met_vector : ∃ u x y z, ([SmReq.vector u x y z].any fun r => match r with | .vector v _ _ _ => v == u | _ => false) = true :=
  ⟨3, 0, 0, 0, by decide⟩
theorem test_host_view : after (.hostViewRead 0x1C1008 false) (sealed.setReg .hstVdata 0x1234) (fun t => t.answer) = some 0x1234 ∧
    after (.hostViewRead 0x3FFFFC true) sealed (fun t => t.fld F.hstHerr_ERR) = some 1 ∧
    after (.hostViewWrite 0) sealed (fun t => t.fld F.hstHerr_ERR) = some 1 := by decide +kernel

/-- SAFE_ALM shows an alarm of its level, PARTNER_OK out an armed guard, and a wired vector pulls its line for 64 cycles (R438, R461, R525). -/
theorem test_outputs : (sealed.alarm 2 5).safeAlm 1 = (true, false) ∧ sealed.safeAlm 1 = (false, true) ∧
    ({ sealed with mirror := { armed := true, begun := true } }).partnerOkOut = true ∧ sealed.partnerOkOut = false ∧
    (let s := ((sealed.setFld F.hstVctl_EN 1 3).setFld F.hstVctl_WIRED 1 3).setFld F.hstVctl_LINE 6 3
     (s.vector 3).irqLine 6 = true ∧ (s.vector 3).irqLine 5 = false ∧ ({ s.vector 3 with cycle := 64 }).irqLine 6 = false) := by decide +kernel

/-! ## The whole block -/

theorem test_met_memory : State.reset.memOk ∧ ({ sealed with mem := [(5, 1)] }).memOk ∧ State.reset.pending = [] := by
  exact ⟨show Memory.wf _ = true by decide, show Memory.wf _ = true by decide, by decide⟩
/-- The step takes the front of the queue; on an empty queue a cycle of the block passes. -/
theorem test_step : (match step { sealed with pending := [.tamper, .bootGo] } with | .next t => (t.soc.tamper, t.pending) | _ => (false, [])) =
    (true, [.bootGo]) ∧ (match step sealed with | .next t => (t.cycle, t.tbSum) | _ => (0, 0)) = (1, 0xAAAAAAAB) := by decide +kernel
theorem test_met_whole : (∃ t, step State.reset = .next t) ∧ (∃ t, exec .tamper State.reset = .next t) ∧
    ∀ straps hold lc, Instr.tamper ≠ .coldReset straps hold lc := ⟨⟨_, rfl⟩, ⟨_, rfl⟩, by simp⟩

end Sys2Proof.Tests
end

/-!
PROOFS. Reset values, register reads, stores on their way to memory, and a register write behind one that waits.
-/

namespace Sys2Proof.Machine

/-! ## The state after reset (R8) -/

/-- Settles O57: every part of the reset state is given by its definition. -/
theorem resetValues : Obligations.ResetValues := by
  unfold Obligations.ResetValues
  refine ⟨rfl, rfl, by decide, rfl, rfl, fun t => rfl, fun ch => rfl, fun q => rfl, rfl, rfl, fun t => ⟨rfl, rfl, rfl, rfl⟩,
    fun ch => rfl, by decide⟩

/-! ## Reads of counter and status registers (R9, R10) -/

/-- A read of register k shows the bits `shown`, and of these clears the bits `cleared`. -/
abbrev RegKind.readMasks (k : RegKind) (shown cleared : Word) : Prop :=
  k.desc.fits = true ∧ (∀ i < 32, shown.getLsbD i = k.desc.shows i) ∧ k.desc.rcMask = cleared ∧ cleared &&& shown = cleared

/-- The state after a read of instance (i, j) of a register has answered a word and cleared the bits `cleared`, but for
what the running cycle has set or counted there (R10). -/
def State.afterRead (s : State) (k : RegKind) (i j : Nat) (cleared answer : Word) : State :=
  { s.setReg k ((s.reg k i j &&& ~~~cleared) ||| (s.setNow k i j &&& cleared)) i j with
    cycEv := smSet none s.cycEv (regOff k i j)
      ((smGet none s.cycEv (regOff k i j)).map fun p => (p.1 &&& ~~~cleared, p.2))
    answer := answer.setWidth 64 }

@[simp] theorem reg_afterRead (s : State) (k : RegKind) (i j : Nat) (cleared answer : Word) :
    (s.afterRead k i j cleared answer).reg k i j =
      (s.reg k i j &&& ~~~cleared) ||| (s.setNow k i j &&& cleared) :=
  reg_setReg_same ..

theorem takeRc_zero (k : RegKind) (w : Word) : takeRc k w 0 = w &&& ~~~k.desc.rcMask := by simp [takeRc]

theorem readOut_eq_afterRead (s : State) {k : RegKind} {cleared : Word} (h : k.desc.rcMask = cleared) (i j : Nat)
    (view : Word) : s.readOut k i j view =
      s.afterRead k i j cleared ((view &&& ~~~cleared) ||| (s.atStart k i j &&& cleared)) := by
  subst h
  simp only [State.readOut, takeRc_zero]
  rfl

/-- A mask over the bits shown passes through the replacement of bits that are shown. -/
theorem replace_bits_and (v a cleared shown : Word) (h : cleared &&& shown = cleared) :
    (v &&& shown &&& ~~~cleared) ||| (a &&& cleared) = ((v &&& ~~~cleared) ||| (a &&& cleared)) &&& shown := by
  have hv : v &&& shown &&& ~~~cleared = v &&& ~~~cleared &&& shown := by ac_rfl
  rw [BitVec.and_or_distrib_right, BitVec.and_assoc a, h, hv]

/-- The replaced bits are those of the second word. -/
theorem replaced_bits (v a cleared : Word) : ((v &&& ~~~cleared) ||| (a &&& cleared)) &&& cleared = a &&& cleared := by
  have hv : v &&& ~~~cleared &&& cleared = v &&& (cleared &&& ~~~cleared) := by ac_rfl
  rw [BitVec.and_or_distrib_right, hv, BitVec.and_assoc a, BitVec.and_self]
  simp

theorem readStored_eq_afterRead (s : State) {k : RegKind} {shown cleared : Word} (h : k.readMasks shown cleared)
    (i j : Nat) : s.readStored k i j = s.afterRead k i j cleared
      (((s.reg k i j &&& ~~~cleared) ||| (s.atStart k i j &&& cleared)) &&& shown) := by
  obtain ⟨hfits, hshown, hrc, hsub⟩ := h
  rw [State.readStored, readOut_eq_afterRead s hrc, visible_mask _ _ _ hfits hshown, replace_bits_and _ _ _ _ hsub]

/-- A read of stored fields, as what a command answers. -/
theorem next_readStored (s : State) {k : RegKind} {shown cleared : Word} (h : k.readMasks shown cleared) (i j : Nat) :
    (.next (s.readStored k i j) : Out) = .next (s.afterRead k i j cleared
      (((s.reg k i j &&& ~~~cleared) ||| (s.atStart k i j &&& cleared)) &&& shown)) :=
  congrArg _ (readStored_eq_afterRead s h i j)

/-- A read of a view that hides no field, as what a command answers. -/
theorem next_readOut (s : State) {k : RegKind} {cleared : Word} (h : k.desc.rcMask = cleared) (i j : Nat) (view : Word) :
    (.next (s.readOut k i j view) : Out) =
      .next (s.afterRead k i j cleared ((view &&& ~~~cleared) ||| (s.atStart k i j &&& cleared))) :=
  congrArg _ (readOut_eq_afterRead s h i j view)

/-- A read of a view of the fields alone, as what a command answers. -/
theorem next_readOut_visible (s : State) {k : RegKind} {shown cleared : Word} (h : k.readMasks shown cleared) (i j : Nat)
    (view : Word) : (.next (s.readOut k i j (visible k.desc view)) : Out) =
      .next (s.afterRead k i j cleared ((view &&& shown &&& ~~~cleared) ||| (s.atStart k i j &&& cleared))) := by
  obtain ⟨hfits, hshown, hrc, -⟩ := h
  rw [next_readOut s hrc, visible_mask _ _ _ hfits hshown]

theorem toNat_engineOf (ch : Chan) : (engineOf ch).toNat = ch.toNat / 8 := by
  have := ch.isLt
  simp only [engineOf, BitVec.extractLsb'_toNat, Nat.shiftRight_eq_div_pow]
  omega

theorem toNat_contextOf (ch : Chan) : (contextOf ch).toNat = ch.toNat % 8 := by
  simp [contextOf, BitVec.extractLsb'_toNat]

/-- A field is 0 exactly when no bit of its mask is set. -/
theorem bitsOf_eq_zero_iff (w mask : Word) (lo len : Nat)
    (hm : ∀ i < 32, mask.getLsbD i = (decide (lo ≤ i) && decide (i < lo + len))) : bitsOf w lo len = 0 ↔ w &&& mask = 0 := by
  constructor
  · intro h
    apply BitVec.eq_of_getLsbD_eq
    intro i hi
    have hb := testBit_bitsOf w lo len (i - lo)
    rw [h, Nat.zero_testBit] at hb
    rw [BitVec.getLsbD_and, hm i hi]
    by_cases hr : lo ≤ i ∧ i < lo + len
    · rw [Nat.add_sub_cancel' hr.1, decide_eq_true (by omega), Bool.true_and] at hb
      simp [← hb]
    · simpa using fun _ h1 => by omega
  · intro h
    apply Nat.eq_of_testBit_eq
    intro i
    rw [testBit_bitsOf, Nat.zero_testBit]
    by_cases hi : i < len ∧ lo + i < 32
    · have hb : (w &&& mask).getLsbD (lo + i) = false := by simp [h]
      rw [BitVec.getLsbD_and, hm _ hi.2, decide_eq_true (by omega), decide_eq_true (by omega)] at hb
      simpa using fun _ => hb
    · simpa using fun h1 => BitVec.getLsbD_of_ge _ _ (by omega)

/-- VALID of MEM.NOWN after a read stands for what the running cycle has counted (R197). -/
theorem validKept_afterRead (s : State) (b : BankId) (answer : Word) :
    (s.afterRead .memNown b.toNat 0 0xFFFF0000 answer).validKept b =
      (s.afterRead .memNown b.toNat 0 0xFFFF0000 answer).setFld F.memNown_VALID
        (if s.setNow .memNown b.toNat 0 &&& 0xFFFF0000 = 0 then 0 else 1) b.toNat := by
  have hz := bitsOf_eq_zero_iff ((s.afterRead .memNown b.toNat 0 0xFFFF0000 answer).reg .memNown b.toNat 0)
    0xFFFF0000 16 16 (by decide)
  rw [reg_afterRead, replaced_bits] at hz
  have hc : (s.afterRead .memNown b.toNat 0 0xFFFF0000 answer).fld F.memNown_COUNT b.toNat = 0 ↔
      s.setNow .memNown b.toNat 0 &&& 0xFFFF0000 = 0 := by
    rw [← hz, ← reg_afterRead s .memNown b.toNat 0 _ answer]
    rfl
  by_cases hs : s.setNow .memNown b.toNat 0 &&& 0xFFFF0000 = 0
  · rw [State.validKept, hc.mpr hs, if_pos hs]
    rfl
  · rw [State.validKept, decide_eq_true (Nat.pos_of_ne_zero (mt hc.mp hs)), if_neg hs]
    rfl

/-- Settles O16: every read of stored fields is `State.readStored`, whose masks the register's table gives; the other reads
are `State.readOut` of their view. -/
theorem counterAndStatusReads : Obligations.CounterAndStatusReads := by
  unfold Obligations.CounterAndStatusReads
  refine ⟨fun s => ?_, fun s => ?_⟩
  · refine ⟨fun c => ⟨?_, ?_, ?_, ?_⟩, fun b m hm => ?conf, fun r h1 h9 => ?slag, fun hon hw k hk => ?sig,
      fun k hk => ?scnt, fun e => ?_, fun ch => ?cerr, fun h => ?_, fun l => ?_, ?_, ?_, ?_, ?_, ?_, ?_, ?_, ?_, ?_⟩
    case conf => exact (congrArg _ (if_pos hm)).trans (next_readStored s (by decide) b.toNat m.toNat)
    case slag => exact (congrArg _ (if_pos ⟨h1, h9⟩)).trans (next_readStored s (by decide) (r.toNat - 1) 0)
    case sig =>
      exact (congrArg _ ((if_pos hk).trans (regAtDomain_takes s 20 _ _ ⟨hon, hw⟩))).trans
        (next_readStored s (by decide) k.toNat 0)
    case scnt => exact (congrArg _ (if_pos hk)).trans (next_readStored s (by decide) k.toNat 0)
    case cerr =>
      rw [← toNat_engineOf, ← toNat_contextOf]
      exact next_readStored s (by decide) (engineOf ch).toNat (contextOf ch).toNat
    all_goals exact next_readStored s (by decide) _ _
  · refine ⟨rfl, fun b => ?ret, fun b => ?nown, rfl, ?tunstat, ?fltStat, fun d => ?dstat, fun n j hn => ?refstat,
      fun n hn => ?win⟩
    case ret => exact next_readOut s (by decide) b.toNat 0 (s.retView b)
    case nown =>
      have hm : RegKind.memNown.readMasks 0xFFFF007F 0xFFFF0000 := by decide
      obtain ⟨hfits, hshown, hrc, -⟩ := hm
      show Host.Outcome.next ((s.readOut .memNown b.toNat 0 (visible _ _)).validKept b) = _
      rw [readOut_eq_afterRead s hrc, visible_mask _ _ _ hfits hshown, validKept_afterRead]
      rfl
    case tunstat => exact next_readOut s (by decide) 0 0 s.tunstatView
    case fltStat => exact next_readOut s (by decide) 0 0 s.fltStatView
    case dstat => exact next_readOut s (by decide) d.toNat 0 (s.dstatView d.toNat)
    case refstat =>
      show Host.Outcome.next (s.readOut .tbRefstat _ _ (visible _ (s.refstatView n j))) = _
      rw [State.refstatView, if_neg hn]
      exact next_readOut_visible s (by decide) n.toNat j.toNat _
    case win =>
      show Host.Outcome.next (s.readOut .tbWin _ _ (visible _ (s.tbWinView n))) = _
      rw [State.tbWinView, if_neg hn]
      exact next_readOut_visible s (by decide) n.toNat 0 _

/-! ## Bytes of a masked write (R6) -/

theorem memByte_memSetByte (m : List Host.Cell) (a x : Nat) (b : Byte) :
    memByte (memSetByte m a b) x = if x = a then b else memByte m x := smGet_smSet ..

theorem byteOf_eq_extractLsb' (v : Word) (i : Nat) : byteOf v i = v.extractLsb' (8 * i) 8 := by
  apply BitVec.eq_of_toNat_eq
  simp [byteOf, BitVec.extractLsb'_toNat, Nat.shiftRight_eq_div_pow]

/-- One byte of a masked write. -/
theorem memByte_ite_memSetByte (sel : Bool) (m : List Host.Cell) (a x : Nat) (b : Byte) :
    memByte (if sel then memSetByte m a b else m) x = if x = a ∧ sel = true then b else memByte m x := by
  cases sel
  · simp
  · simp [memByte_memSetByte]

theorem memByte_memSetMasked (m : List Host.Cell) (a x : Nat) (mask : BitVec 4) (v : Word) :
    memByte (memSetMasked m a mask v) x =
      if a ≤ x ∧ x < a + 4 ∧ mask.getLsbD (x - a) = true then v.extractLsb' (8 * (x - a)) 8 else memByte m x := by
  simp only [memSetMasked, memByte_ite_memSetByte, byteOf_eq_extractLsb']
  by_cases hx : a ≤ x ∧ x < a + 4
  · obtain ⟨n, rfl⟩ := Nat.exists_eq_add_of_le hx.1
    have hn : n < 4 := by omega
    interval_cases n <;> simp
  · have hne : x ≠ a ∧ x ≠ a + 1 ∧ x ≠ a + 2 ∧ x ≠ a + 3 := by omega
    obtain ⟨h0, h1, h2, h3⟩ := hne
    simp only [h0, h1, h2, h3, false_and, if_false]
    rw [if_neg fun h => hx ⟨h.1, h.2.1⟩]

/-! ## Stores on their way (R168, R183, R188) -/

theorem entryLeaves_of_normal (s : State) (c : CoreId) (idx : Nat) (e : SbEntry) (he : (s.core c).sbuf[idx]? = some e)
    (hdev : e.dev = false) (ha : e.addr < 0x10000000)
    (hold : ∀ p ∈ (s.core c).sbuf.take idx, controllerOf p.addr ≠ controllerOf e.addr) :
    s.entryLeaves c idx = s.setCore c { s.core c with sbuf := (s.core c).sbuf.eraseIdx idx
                                                      inflight := (s.core c).inflight ++ [e] } := by
  have hmay : s.mayLeave c idx e = true := by
    simpa [State.mayLeave, hdev] using hold
  simp [State.entryLeaves, he, hmay, Nat.not_le.mpr ha]

theorem storeTurn_of_block (s : State) (c : CoreId) (idx : Nat) (e : SbEntry) (ha : e.addr < 0x10000000)
    (hold : ∀ p ∈ (s.core c).inflight.take idx, controllerOf p.addr ≠ controllerOf e.addr) :
    s.storeTurn c idx e = true := by
  simpa [State.storeTurn, Nat.not_le.mpr ha] using hold

theorem storeAcked_of_turn (s : State) (c : CoreId) (idx : Nat) (e : SbEntry) (he : (s.core c).inflight[idx]? = some e)
    (ht : s.storeTurn c idx e = true) : s.storeAcked c idx = s.performStore c idx e := by
  simp [State.storeAcked, he, ht]

/-- With no run of core c open, a store of it finds the chain as it is. -/
theorem endRun_of_closed (s : State) (c : CoreId) (h : (s.chain.rwOpen.any fun r => r.1 == c) = false) :
    s.endRun c = s := by
  simp [State.endRun, h]

theorem coreStore_of_on (s : State) (c d : CoreId) (idx g : Nat) (e : SbEntry) (h : (s.dom (coreDomain d)).st = .on) :
    s.coreStore c d idx g e = (s.dropInflight c idx).performWrite g e.mask e.data := by
  simp [State.coreStore, h, atDomain_on]

theorem performStore_core (s : State) (c d : CoreId) (idx g : Nat) (e : SbEntry)
    (hrun : (s.chain.rwOpen.any fun r => r.1 == c) = false) (hr : regionOf c (BitVec.ofNat 32 e.addr) = .core d g)
    (hon : (s.dom (coreDomain d)).st = .on) :
    s.performStore c idx e = (s.dropInflight c idx).performWrite g e.mask e.data := by
  simp only [State.performStore, endRun_of_closed s c hrun, ite_self, hr]
  exact coreStore_of_on s c d idx g e hon

theorem performStore_bank (s : State) (c : CoreId) (idx : Nat) (b : BankId) (g : Nat) (e : SbEntry)
    (hrun : (s.chain.rwOpen.any fun r => r.1 == c) = false) (hr : regionOf c (BitVec.ofNat 32 e.addr) = .bank b g) :
    s.performStore c idx e = s.bankStore c idx b e := by
  simp only [State.performStore, endRun_of_closed s c hrun, ite_self, hr]

theorem bankStore_of_refuse (s : State) (c : CoreId) (idx : Nat) (b : BankId) (e : SbEntry)
    (h : s.storeCheck c b e = .refuse) : s.bankStore c idx b e = s.bankLeaves b (.store c e.seq) := by
  simp [State.bankStore, h]

theorem storeRefused_of_refuse (s : State) (c : CoreId) (idx : Nat) (stat : BitVec 2) (e : SbEntry) (b : BankId) (g : Nat)
    (he : (s.core c).inflight[idx]? = some e) (ht : s.storeTurn c idx e = true)
    (hr : regionOf c (BitVec.ofNat 32 e.addr) = .bank b g) (h : s.storeCheck c b e = .refuse) :
    s.storeRefused c idx stat =
      ((s.dropInflight c idx).bankRefuses b (masterCore c) (.store c e.seq)).lateFault e.t 0x07 e.pc e.seq := by
  simp [State.storeRefused, he, ht, hr, h]

/-- Settles O18: the bytes of a masked write, then each store command by the spec of the operation it performs. -/
theorem storesReachMemory : Obligations.StoresReachMemory := by
  unfold Obligations.StoresReachMemory
  refine ⟨memByte_memSetMasked, fun s c idx e => ⟨fun he hdev ha hold => ?_, fun he ha hrun hold => ?_⟩⟩
  · exact congrArg _ (entryLeaves_of_normal s c idx e he hdev ha hold)
  · have ht := storeTurn_of_block s c idx e ha hold
    have hack := storeAcked_of_turn s c idx e he ht
    refine ⟨fun d g hr hon => ?_, fun b g hr href => ⟨?_, ?_⟩⟩
    · exact congrArg _ (hack.trans (performStore_core s c d idx g e hrun hr hon))
    · exact congrArg _ (hack.trans ((performStore_bank s c idx b g e hrun hr).trans (bankStore_of_refuse s c idx b e href)))
    · exact congrArg _ (storeRefused_of_refuse s c idx 0 e b g he ht hr href)

/-! ## A register write behind an earlier one of its writer (R435) -/

/-- While a write of w waits for a place in the mirror egress, the next write of w waits behind it, whatever register it
names. -/
theorem regAtMirror_behind (s : State) {w : Writer} {o : Nat} {u : Word} (h : ⟨mirrorPlace, .write w o u⟩ ∈ s.regWaits)
    (waits : Bool) (off : Nat) (v : Word) (f : State → State) :
    s.regAtMirror waits w off v f = { s with regWaits := s.regWaits ++ [⟨mirrorPlace, .write w off v⟩] } := by
  refine if_pos (Bool.or_eq_true_iff.mpr (.inr (List.any_eq_true.mpr ⟨_, h, ?_⟩)))
  simp

theorem regWrite_behind (s : State) {w : Writer} {o : Nat} {u : Word} (h : ⟨mirrorPlace, .write w o u⟩ ∈ s.regWaits)
    {off : Nat} (hl : (locate off).isSome = true) (hd : accessDomain true off = none) (v : Word) :
    s.regWrite w off v = { s with regWaits := s.regWaits ++ [⟨mirrorPlace, .write w off v⟩] } := by
  obtain ⟨⟨k, i, j⟩, hk⟩ := Option.isSome_iff_exists.mp hl
  simp only [State.regWrite, hk, hd]
  exact regAtMirror_behind s h _ _ _ _

/-- A primary with queue 0 mirrored, whose mirror egress has no place left for a queue record (R435). -/
def egressFull : State :=
  { State.reset.setFld F.qeQcfg_MIRRORED 1 0 with
    mirror := { role := .primary, egress := List.replicate 112 ⟨0, 0, 0, 0, 0, 0, 0, 0, []⟩ } }

/-- The same block with a flush of queue 0 by thread 0 held for its record's place. -/
def flushHeld : State :=
  { egressFull with regWaits := [⟨mirrorPlace, .write (.thread 0) (regOff .qeFlush 0 0) 0x80000000⟩] }

/-- The model itself brings the block from `egressFull` to `flushHeld`, by thread 0's flush of queue 0. -/
theorem queueFlush_egressFull : exec (.queueFlush (.thread 0) 0) egressFull = .next flushHeld := by
  rfl

/-- Refutes O17: a write by a thread whose earlier write waits for a place in the mirror egress does not reach its register
but waits behind it (`State.regAtMirror`, R435), which the statement does not except. -/
theorem not_registerAccess : ¬ Obligations.RegisterAccess := by
  unfold Obligations.RegisterAccess
  rintro ⟨-, h⟩
  obtain ⟨-, hvdata, -, -⟩ := h flushHeld 1
  obtain ⟨hwrite, -, -⟩ := hvdata 0
  have hwaits : exec (.registerWrite (.thread 0) 0x1C1008 1) flushHeld = .next { flushHeld with
      regWaits := flushHeld.regWaits ++ [⟨mirrorPlace, .write (.thread 0) 0x1C1008 1⟩] } :=
    congrArg _ (regWrite_behind flushHeld (List.mem_singleton_self _) (off := 0x1C1008) (by decide) (by decide) 1)
  have hregs := congrArg State.regWaits (Host.Outcome.next.inj (hwaits.symm.trans hwrite))
  exact absurd (congrArg List.length hregs) (by decide)

end Sys2Proof.Machine

/-!
PROOFS. Who receives a thread's fault, the fault that settles, and the held notice that is pushed.
-/

namespace Sys2Proof.Machine

/-! ## The receiver of a thread's fault (R24, R25) -/

theorem toNat_append_zero {w v : Nat} (x : BitVec w) : (x ++ (0 : BitVec v)).toNat = x.toNat * 2 ^ v := by
  simp [BitVec.toNat_append, Nat.shiftLeft_eq]

theorem coreOf_toNat (t : Tid) : (coreOf t).toNat = t.toNat / 16 := by
  have ht : t.toNat < 512 := t.isLt
  rw [coreOf, BitVec.extractLsb'_toNat, Nat.shiftRight_eq_div_pow]
  omega

theorem hearthOf_toNat (t : Tid) : (hearthOf t).toNat = t.toNat / 64 := by
  have ht : t.toNat < 512 := t.isLt
  rw [hearthOf, BitVec.extractLsb'_toNat, Nat.shiftRight_eq_div_pow]
  omega

theorem masterOf_coreOf_toNat (t : Tid) : (masterOf (coreOf t)).toNat = t.toNat / 16 * 16 := by
  rw [← coreOf_toNat]
  exact toNat_append_zero _

theorem supervisorOf_hearthOf_toNat (t : Tid) : (supervisorOf (hearthOf t)).toNat = 64 * (t.toNat / 64) := by
  rw [← hearthOf_toNat, Nat.mul_comm]
  exact toNat_append_zero _

theorem masterOf_coreOf_eq_ofNat (t : Tid) : masterOf (coreOf t) = BitVec.ofNat 9 (t.toNat / 16 * 16) := by
  rw [← masterOf_coreOf_toNat, BitVec.ofNat_toNat, BitVec.setWidth_eq]

theorem supervisorOf_hearthOf_eq_ofNat (t : Tid) : supervisorOf (hearthOf t) = BitVec.ofNat 9 (64 * (t.toNat / 64)) := by
  rw [← supervisorOf_hearthOf_toNat, BitVec.ofNat_toNat, BitVec.setWidth_eq]

theorem eq_masterOf_iff (t : Tid) : t = masterOf (coreOf t) ↔ t.toNat % 16 = 0 := by
  rw [← BitVec.toNat_inj, masterOf_coreOf_toNat]
  omega

theorem eq_supervisorOf_iff (t : Tid) : t = supervisorOf (hearthOf t) ↔ t.toNat % 64 = 0 := by
  rw [← BitVec.toNat_inj, supervisorOf_hearthOf_toNat]
  omega

/-- A thread that is not a master reports to its core's master. -/
theorem faultReceiver_of_not_master {t : Tid} (h : t.toNat % 16 ≠ 0) :
    faultReceiver t = some (BitVec.ofNat 9 (t.toNat / 16 * 16)) := by
  rw [faultReceiver, if_pos (mt (eq_masterOf_iff t).mp h), masterOf_coreOf_eq_ofNat]

/-- A master that is not a supervisor reports to its hearth's supervisor. -/
theorem faultReceiver_of_master {t : Tid} (hm : t.toNat % 16 = 0) (hs : t.toNat % 64 ≠ 0) :
    faultReceiver t = some (BitVec.ofNat 9 (64 * (t.toNat / 64))) := by
  rw [faultReceiver, if_neg (not_not.mpr ((eq_masterOf_iff t).mpr hm)), if_pos (mt (eq_supervisorOf_iff t).mp hs),
    supervisorOf_hearthOf_eq_ofNat]

/-- A supervisor reports to the block supervisor. -/
theorem faultReceiver_of_supervisor {t : Tid} (hs : t.toNat % 64 = 0) (h0 : t ≠ 0) : faultReceiver t = some 0 := by
  have hm : t.toNat % 16 = 0 := by omega
  rw [faultReceiver, if_neg (not_not.mpr ((eq_masterOf_iff t).mpr hm)),
    if_neg (not_not.mpr ((eq_supervisorOf_iff t).mpr hs)), if_pos (show t ≠ blockSupervisor from h0), blockSupervisor]

theorem faultReceiver_zero : faultReceiver 0 = none := by decide

/-! ## A fault that settles, and a held notice that is pushed (R45, R128 to R130) -/

/-- The state in which a fault of known PC leaves thread t, before its notice. -/
def State.settleFault (s : State) (t : Tid) (f : PendFault) (pc : Word) : State :=
  let s1 := (s.noteEvent F.thrFault_VALID 1 t.toNat).dropSleep t
  s1.setThr t { s1.thr t with
    st := .faulted, pc := pc, faultCode := f.code, faultValid := true, pendFault := none, halting := none,
    far := [], slot := none, slotSlept := false, fence := none, sleep := .awake, runAhead := [] }

/-- With no far access older than the pending fault, the fault settles and its notice follows. -/
theorem faultDone_of_pending (s : State) (t : Tid) {f : PendFault} {pc : Word} (hf : (s.thr t).pendFault = some f)
    (hpc : f.pc = some pc) (hfar : ∀ e ∈ (s.thr t).far, f.seq ≤ e.seq) :
    s.faultDone t = (s.settleFault t f pc).faultNotice t f.code f.npc := by
  have hold : ((s.thr t).far.any fun e => decide (e.seq < f.seq)) = false := by simpa using hfar
  simp only [State.faultDone, hf, hold, hpc, Option.getD_some, Bool.false_eq_true, if_false, State.settleFault]

/-- A held notice that its queue can take gives up its place among the waiters and is held no more. -/
theorem noticeRetry_of_room (s : State) (h : Holder) {n : HeldNotice} {u : State} (hn : s.heldNotice h = some n)
    (hlost : (s.quad (quadrantOf n.q)).lost = false) (hu : (s.wakeQuad n.q).tryNotice n.q n.item n.wait = some u) :
    s.noticeRetry h = (u.leavePlace n).setHeldNotice h none := by
  simp only [State.noticeRetry, hn, hlost, hu, Bool.false_eq_true, if_false]

/-- Settles O21: the receivers by the multiples of 16 and 64 that name masters and supervisors, then the two commands by
the spec of the operation each performs. -/
theorem threadFaultsAndNotices : Obligations.ThreadFaultsAndNotices := by
  unfold Obligations.ThreadFaultsAndNotices
  refine ⟨fun t => ⟨faultReceiver_of_not_master, faultReceiver_of_master, faultReceiver_of_supervisor,
    faultReceiver_zero⟩, fun s => ⟨fun t f pc hf hpc hfar => ?_, fun h n u hn hlost hu => ?_⟩⟩
  · exact congrArg _ (faultDone_of_pending s t hf hpc hfar)
  · exact congrArg _ (noticeRetry_of_room s h hn hlost hu)

end Sys2Proof.Machine

/-!
PROOFS. What a far access writes at its delivery, run-ahead entries, slot-table commits and prediction modes, and the
reset request that is ignored.
-/

namespace Sys2Proof.Machine

/-! ## Delivery of a far access (R43, R76, R85 to R88) -/

/-- Data without an error is delivered as it was found. -/
theorem uncorrectable_zero (t : Tid) (e : FarEntry) (r : FarResp) : uncorrectable t e r 0 = r := by
  unfold uncorrectable
  split
  case h_5 => cases r <;> rfl
  all_goals rfl

/-- With no fault pending, an entry whose response stands is delivered. -/
theorem farComplete_of_resp (s : State) (t : Tid) (idx : Nat) (data : Word) {e : FarEntry} {r : FarResp}
    (he : (s.thr t).far[idx]? = some e) (hf : (s.thr t).pendFault = none) (hr : e.resp = some r) :
    s.farComplete t idx 0 data = s.deliverFar t e r := by
  have hkept : (s.thr t).discardsEntry e = false := by simp [Thread.discardsEntry, hf]
  simp only [State.farComplete, he, hkept, hr, uncorrectable_zero, Bool.false_eq_true, if_false]

/-- A response other than a fault is written, and a blocking instruction retires with it. -/
theorem deliverFar_of_not_fault (s : State) (t : Tid) (e : FarEntry) {r : FarResp} (h : ∀ code, r ≠ .fault code) :
    s.deliverFar t e r =
      let x := r.write e { s.thr t with far := (s.thr t).far.erase e }
      s.setThr t (if e.blocking then x.retire else x) := by
  cases r
  case fault code => exact absurd rfl (h code)
  all_goals rfl

/-- Settles O7: the entry is delivered, and `FarResp.write` says what each response writes. -/
theorem farAccessDelivery : Obligations.FarAccessDelivery := by
  unfold Obligations.FarAccessDelivery
  intro s t idx e r data th after he hf hr
  have written : (∀ code, r ≠ .fault code) →
      exec (.farAccessCompletion t idx 0 data) s = .next (after (r.write e th)) := fun h =>
    congrArg _ ((farComplete_of_resp s t idx data he hf hr).trans (deliverFar_of_not_fault s t e h))
  refine ⟨fun op w hop hv => ?value, fun p tag hv => ?_, fun hv => ?_, fun q hv => ?_, fun old z l hv => ?_,
    fun old hv => ?_, fun z l hv => ?_⟩
  case value =>
    subst hv
    have hw : (FarResp.value w).write e th = applyOp op e.a e.x e.y e.rm th w := by simp [FarResp.write, hop]
    rw [written (by simp), hw]
  all_goals
    subst hv
    exact written (by simp)

/-! ## Run-ahead entries (R57, R58) -/

theorem wordKey_of_core {c d : CoreId} {ea : Word} {g : Nat} (h : regionOf c ea = .core d g) :
    wordKey c ea = g / 4 * 4 := by
  simp [wordKey, h]

/-- A good word of a core-local memory whose domain is ON answers a run-ahead load, which changes nothing there. -/
theorem runAheadData_of_core (s : State) (t : Tid) {ea : Word} {d : CoreId} {g : Nat}
    (hr : regionOf (coreOf t) ea = .core d g) (hon : (s.dom (coreDomain d)).st = .on) (hb : s.badWord g = false) :
    s.runAheadData t ea = some (s.loadWord (coreOf t) g, s) := by
  simp [State.runAheadData, hr, hon, hb]

/-- What `State.runAheadFill` asks of a thread before its address is known. -/
def State.mayRunAhead (s : State) (t : Tid) (m : BitVec 3) : Bool :=
  (s.thr t).st == .running && s.ready t && s.specCapable (coreOf t) (t.toNat % 16) && s.stalledOnLoad t &&
    s.noDeviceOut t && (s.thr t).pendingRegs &&& modeReads m == 0 && decide ((s.thr t).runAhead.length < 2)

/-- A word that no entry holds yet and that answers without effect fills an entry, in a slot that counts as used. -/
theorem runAheadFill_of_data (s : State) (t : Tid) (m : BitVec 3) (o : BitVec 23) {ea v : Word}
    (hmay : s.mayRunAhead t m = true) (hop : operandOf (s.thr t) m o = some (.mem ea))
    (hnew : ((s.thr t).runAhead.any fun r => r.addr == wordKey (coreOf t) ea) = false)
    (hdata : s.runAheadData t ea = some (v, s)) :
    s.runAheadFill t m o =
      (s.setThr t { s.thr t with runAhead := (s.thr t).runAhead ++ [⟨wordKey (coreOf t) ea, v, s.cycle⟩] }).setCore
        (coreOf t) { s.core (coreOf t) with unseen := (s.core (coreOf t)).unseen + 1 } := by
  unfold State.mayRunAhead at hmay
  simp only [State.runAheadFill, hop, hmay, hnew, hdata, Bool.not_true, Bool.or_self, Bool.false_eq_true, if_false,
    core_setThr]

theorem execRunAheadEntryExpiry_of_due (s : State) (t : Tid) {idx : Nat} {r : RunAhead}
    (hr : (s.thr t).runAhead[idx]? = some r) (hdue : r.filled + 256 ≤ s.cycle) :
    execRunAheadEntryExpiry t idx s = .next (s.setThr t { s.thr t with runAhead := (s.thr t).runAhead.erase r }) := by
  simp [execRunAheadEntryExpiry, hr, Nat.not_lt.mpr hdue]

/-! ## Slot tables (R35, R59 to R62) -/

/-- An access by a writer other than the boot unit comes to the same as one that would do the same to this state. -/
theorem access_congr {s : State} {w : Writer} {f g : State → State} (h : f s = g s) : s.access w f = s.access w g := by
  cases w <;> simp [State.access, h]

/-- A register access that its domain takes, made by a writer. -/
theorem access_regAtDomain_takes (s : State) (w : Writer) {d : Nat} (a : RegAcc) (f : State → State) (h : s.takes d) :
    (s.access w fun s => s.regAtDomain d a f) = s.access w fun _ => f s :=
  access_congr (regAtDomain_takes s d a f h)

/-- A command's write of SLT.TAB marks the pending table as written. -/
theorem wrSltTab_of_over (s : State) {w : Writer} (c : CoreId) (wi : Nat) {v : Word} (ho : overCore w c = true)
    (hw : w ≠ .boot) (hv : slotWordOk v = true) :
    s.wrSltTab w c wi v =
      ((s.setReg .sltTab v c.toNat wi).setCore c { s.core c with wrote := true }).setFld F.sltCtl_DIRTY 1 c.toNat := by
  cases w
  case boot => exact absurd rfl hw
  all_goals simp [State.wrSltTab, ho, hv]

/-- SLT.CTL written with COMMIT while no commit waits: NOSPEC as written and the commit both wait for their boundary. -/
theorem wrSltCtl_commit (s : State) {w : Writer} (c : CoreId) {v : Word} (ho : overCore w c = true) (hw : w ≠ .boot)
    (hc : F.sltCtl_COMMIT.get v = 1) (hx : (s.core c).commitAt = none) :
    s.wrSltCtl w c v = (s.setCore c { s.core c with
      nospecNext := some (F.sltCtl_NOSPEC.get v == 1), commitAt := some s.cycle }).setFld F.sltCtl_PEND 1 c.toNat := by
  cases w
  case boot => exact absurd rfl hw
  all_goals simp [State.wrSltCtl, ho, hc, hx]

/-- The word of a commit holds COMMIT and the NOSPEC it keeps. -/
theorem commitWord_fields (keep : Bool) :
    F.sltCtl_COMMIT.get (F.sltCtl_NOSPEC.put 1 keep.toNat) = 1 ∧
      (F.sltCtl_NOSPEC.get (F.sltCtl_NOSPEC.put 1 keep.toNat) == 1) = keep := by
  cases keep <;> decide

theorem execSltCommit_eq (w : Writer) (c : CoreId) (s : State) :
    execSltCommit w c s =
      let v := F.sltCtl_NOSPEC.put 1 ((s.core c).nospecNext.getD (s.bit F.sltCtl_NOSPEC c.toNat)).toNat
      .next (s.access w fun s => s.regAtDomain (coreDomain c) (.write w (regOff .sltCtl c.toNat 0) v) fun s =>
        s.wrSltCtl w c v) := by
  unfold execSltCommit
  cases (s.core c).nospecNext <;> rfl

theorem snapTable_of_due (s : State) (c : CoreId) {g : Nat} (hg : (s.core c).commitAt = some g)
    (hdue : boundaryAfter g 32 ≤ s.cycle) :
    s.snapTable c = s.setCore c { s.core c with
      commitAt := none, snap := some (s.pendingTable c), wrote := false, snapAt := s.cycle } := by
  simp [State.snapTable, hg, Nat.not_lt.mpr hdue]

theorem copyTable_of_snap (s : State) (c : CoreId) {ws : List Word} (h : (s.core c).snap = some ws) :
    s.copyTable c =
      ((((List.range 8).foldl (fun u i => u.setReg .sltAct (ws.getD i 0) c.toNat i) s).setCore c
        { s.core c with snap := none, loaded := true }).setFld F.sltCtl_PEND (s.core c).commitAt.isSome.toNat c.toNat).setFld
          F.sltCtl_DIRTY (s.core c).wrote.toNat c.toNat := by
  simp only [State.copyTable, h]

/-! ## Prediction modes (R49, R63) -/

/-- LEAVE in RECOVERY: OFF is written and the core is in SERVICE. -/
theorem wrSltPred_leave (s : State) {w : Writer} (c : CoreId) {v : Word} (ho : overCore w c = true) (hw : w ≠ .boot)
    (hl : F.sltPred_LEAVE.get v = 1) (hm : (s.core c).mode = .recovery) :
    s.wrSltPred w c v =
      (s.setFld F.sltPred_OFF (F.sltPred_OFF.get v) c.toNat).setCore c { s.core c with mode := .service } := by
  simp [State.wrSltPred, ho, hl, hw, hm]

/-- The word of a LEAVE holds LEAVE and the OFF that stands. -/
theorem leaveWord_fields (w : Word) :
    F.sltPred_LEAVE.get (F.sltPred_LEAVE.put w 1) = 1 ∧ F.sltPred_OFF.get (F.sltPred_LEAVE.put w 1) = F.sltPred_OFF.get w :=
  ⟨bitsOf_putBits_same w 12 1 1 (by decide), bitsOf_putBits_other w 12 1 1 16 16 (by decide) (by decide)⟩

theorem builtIn_start (s : State) (c : CoreId) (h : (s.core c).mode ≠ .test) :
    s.builtIn c true = s.setCore c { s.core c with mode := .test, modeBefore := (s.core c).mode, table := [] } := by
  simp [State.builtIn, h]

theorem builtIn_end (s : State) (c : CoreId) (h : (s.core c).mode = .test) :
    s.builtIn c false = s.setCore c { s.core c with
      mode := (s.core c).modeBefore, table := if (s.core c).modeBefore = .service then (s.core c).table else [] } := by
  simp [State.builtIn, h]

/-- Settles O19: a run-ahead load of a core-local word and the expiry of an entry, then each command of slot tables and
modes by the spec of the register write or operation it performs. -/
theorem runAheadSlotsAndModes : Obligations.RunAheadSlotsAndModes := by
  unfold Obligations.RunAheadSlotsAndModes
  refine ⟨fun s t => ⟨?load, fun idx r hr hdue => execRunAheadEntryExpiry_of_due s t hr hdue⟩,
    fun s w c => ⟨fun htakes ho hw => ⟨fun wi v hv => ?tab, fun hx => ?commit, fun hm => ?leave⟩,
      fun g hg hdue => snapTable_of_due s c hg hdue, fun ws hws => congrArg _ (copyTable_of_snap s c hws),
      fun hm => congrArg _ (builtIn_start s c hm), fun hm => congrArg _ (builtIn_end s c hm)⟩⟩
  case load =>
    intro m o ea d g hst hready hspec hstall hdev hregs hlen hop hr hon hb hnew
    have hmay : s.mayRunAhead t m = true := by
      simp [State.mayRunAhead, hst, hready, hspec, hstall, hdev, hregs, hlen]
    rw [← wordKey_of_core hr] at hnew ⊢
    exact congrArg _ (runAheadFill_of_data s t m o hmay hop (by simpa using hnew) (runAheadData_of_core s t hr hon hb))
  case tab =>
    exact congrArg _ ((access_regAtDomain_takes s w _ _ htakes).trans
      (access_congr (wrSltTab_of_over s c wi.toNat ho hw hv)))
  case commit =>
    obtain ⟨hcommit, hkeep⟩ := commitWord_fields ((s.core c).nospecNext.getD (s.bit F.sltCtl_NOSPEC c.toNat))
    have hwr := wrSltCtl_commit s c ho hw hcommit hx
    rw [hkeep] at hwr
    exact (execSltCommit_eq w c s).trans
      (congrArg _ ((access_regAtDomain_takes s w _ _ htakes).trans (access_congr hwr)))
  case leave =>
    obtain ⟨hleave, hoff⟩ := leaveWord_fields (s.reg .sltPred c.toNat)
    have hwr := wrSltPred_leave s c ho hw hleave hm
    rw [hoff] at hwr
    exact congrArg _ ((access_regAtDomain_takes s w _ _ htakes).trans (access_congr hwr))

/-! ## A reset request that is ignored (R10, R465) -/

theorem wrBootCtl_warm (s : State) {w : Writer} (hw : isBlock w = true) : s.wrBootCtl w 0x40000000 = s.requestWarm := by
  rw [State.wrBootCtl, hw]
  rfl

/-- A warm reset without the seal or with a FATAL alarm raises HERR as an event of the running cycle. -/
theorem warmReset_ignored (s : State) {w : Writer} (hw : isBlock w = true) (h : s.resetsOpen = false) :
    exec (.warmReset w) s = .next (s.access w fun s => s.raise F.bootHstat_HERR) := by
  have hreq : s.requestWarm = s.raise F.bootHstat_HERR := by simp [State.requestWarm, h, State.resetIgnored]
  exact congrArg Host.Outcome.next (access_congr ((wrBootCtl_warm s hw).trans hreq))

/-- A flag that an event sets stands among the events of the running cycle (R10). -/
theorem raise_noted (s : State) (f : Fld) (i j : Nat) :
    (smGet none (s.raise f i j).cycEv (regOff f.kind i j)).isSome = true := by
  simp [State.raise, State.noteEvent, State.noteAt]

/-- Refutes O50: a warm reset that is ignored, as of thread 0 in the state after cold reset, sets HERR as an event of its
cycle, which a clear of that cycle leaves (R10); the statement's `State.setFld` sets the bit and notes no event. -/
theorem not_warmAndHearthReset : ¬ Obligations.WarmAndHearthReset := by
  unfold Obligations.WarmAndHearthReset
  intro h
  obtain ⟨hignored, -⟩ := h State.reset (.thread 0) rfl
  obtain ⟨hwarm, -⟩ := hignored (.inl rfl)
  have hraise := warmReset_ignored State.reset (w := .thread 0) rfl rfl
  have hstate : State.reset.raise F.bootHstat_HERR = State.reset.setFld F.bootHstat_HERR 1 :=
    Host.Outcome.next.inj (hraise.symm.trans hwarm)
  have hnoted := raise_noted State.reset F.bootHstat_HERR 0 0
  rw [hstate] at hnoted
  exact absurd hnoted (by decide)

end Sys2Proof.Machine

/-!
PROOFS. Operands and flags of threads, sums, differences and comparisons, binary32 arithmetic.
-/

namespace Sys2Proof.Machine

/-! ## Bits of F (R78, R98) -/

theorem getLsbD_putFlag (f : Word) (k i : Nat) (b : Bool) (hi : i < 32) :
    (putFlag f k b).getLsbD i = if i = k then b else f.getLsbD i := by
  have hm : (BitVec.ofNat 32 (2 ^ k)).getLsbD i = decide (i = k) := by
    rw [BitVec.getLsbD_ofNat, Nat.testBit_two_pow]
    simp [hi, eq_comm]
  cases b
  · simp only [putFlag, Bool.false_eq_true, if_false, BitVec.getLsbD_and, BitVec.getLsbD_not, hm, hi]
    by_cases h : i = k <;> simp [h]
  · simp only [putFlag, if_true, BitVec.getLsbD_or, hm]
    by_cases h : i = k <;> simp [h]

theorem getLsbD_stick (f : Word) (k i : Nat) (b : Bool) (hi : i < 32) :
    (stick f k b).getLsbD i = if i = k then f.getLsbD k || b else f.getLsbD i := by
  cases b
  · by_cases h : i = k <;> simp [stick, h]
  · simp only [stick, if_true, getLsbD_putFlag f k i true hi, Bool.or_true]

theorem getLsbD_setNZ (f r : Word) (i : Nat) (hi : i < 32) :
    (setNZ f r).getLsbD i = if i = 3 then r.getLsbD 31 else if i = 2 then r == 0 else f.getLsbD i := by
  rw [setNZ, getLsbD_putFlag _ _ _ _ hi, getLsbD_putFlag _ _ _ _ hi]
  simp only [flagZ, flagN]
  by_cases h2 : i = 2 <;> simp [h2]

theorem getLsbD_setV (f : Word) (b : Bool) (i : Nat) (hi : i < 32) :
    (setV f b).getLsbD i = if i = 0 then b else if i = 10 then f.getLsbD 10 || b else f.getLsbD i := by
  rw [setV, getLsbD_stick _ _ _ _ hi, getLsbD_putFlag _ _ _ _ (by decide),
    getLsbD_putFlag _ _ _ _ hi]
  by_cases h10 : i = 10
  · subst h10; rfl
  · rw [if_neg (show i ≠ stickyOF from h10), if_neg h10]; rfl

/-- Settles O1: the operand of each mode by the mode's number, and the bits of F by the bits of `putFlag` and `stick`. -/
theorem operandsAndFlags : Obligations.OperandsAndFlags := by
  unfold Obligations.OperandsAndFlags
  refine ⟨fun th o => ⟨rfl, fun h => ?_, fun h => ?_, rfl, rfl, rfl, fun h => ?_, ?_, rfl, fun h => ?_, fun h => ?_⟩,
    fun f r b i k hi _ => ⟨getLsbD_setNZ f r i hi, getLsbD_setV f b i hi, getLsbD_putFlag f k i b hi,
      getLsbD_stick f k i b hi, rfl, rfl, rfl, rfl, rfl, rfl, rfl⟩⟩
  · simp [operandOf, h, Nat.mul_comm]
  · simp [operandOf, Nat.not_lt.mpr h]
  · exact if_neg h
  · simp [operandOf, Nat.mul_comm]
  · simp [operandOf, h]
  · simp [operandOf, Nat.not_lt.mpr h]

/-! ## Value instructions (R76, R78, R107) -/

/-- A value instruction that issues with an operand, as what its command answers. -/
theorem next_valueInstr {s : State} {t : Tid} {op : VOp} {m : BitVec 3} {o : BitVec 23} {v : Word}
    (h : s.issuesWith t op m o v) :
    (.next (s.valueInstr t op m o) : Out) = .next (s.afterInstr t
      (applyOp op (s.thr t).a (s.thr t).x (s.thr t).y (s.thr t).rm (s.thr t) v)) :=
  congrArg _ (valueInstr_runs s t op m o v h)

/-- A true result differs from its word, read as signed, exactly when it does not fit. -/
theorem ne_toInt_ofInt_iff (x : Int) : x ≠ (BitVec.ofInt 32 x).toInt ↔ ¬ (-(2 ^ 31) ≤ x ∧ x < 2 ^ 31) := by
  rw [BitVec.toInt_ofInt, Int.bmod_def]
  omega

theorem addFlags_eq (f a b : Word) (c : Bool) :
    addFlags f a b c =
      (a + b + BitVec.ofNat 32 c.toNat,
        setV (putFlag (setNZ f (a + b + BitVec.ofNat 32 c.toNat)) flagC (decide (2 ^ 32 ≤ a.toNat + b.toNat + c.toNat)))
          (decide (¬ (-(2 ^ 31) ≤ a.toInt + b.toInt + c.toNat ∧ a.toInt + b.toInt + c.toNat < 2 ^ 31)))) := by
  have hn : BitVec.ofNat 32 (a.toNat + b.toNat + c.toNat) = a + b + BitVec.ofNat 32 c.toNat := by
    simp [BitVec.ofNat_add]
  have hi : a + b + BitVec.ofNat 32 c.toNat = BitVec.ofInt 32 (a.toInt + b.toInt + c.toNat) := by
    simp [BitVec.ofInt_add]
  have hv := ne_toInt_ofInt_iff (a.toInt + b.toInt + c.toNat)
  rw [← hi] at hv
  simp only [addFlags, hn, hv]

theorem subFlags_eq (f a b : Word) (c : Bool) :
    subFlags f a b c =
      (a - b - BitVec.ofNat 32 c.toNat,
        setV (putFlag (setNZ f (a - b - BitVec.ofNat 32 c.toNat)) flagC (decide (b.toNat + c.toNat ≤ a.toNat)))
          (decide (¬ (-(2 ^ 31) ≤ a.toInt - b.toInt - c.toNat ∧ a.toInt - b.toInt - c.toNat < 2 ^ 31)))) := by
  have hn : BitVec.ofNat 32 (2 ^ 33 + a.toNat - b.toNat - c.toNat) = a - b - BitVec.ofNat 32 c.toNat := by
    have := c.toNat_le
    bv_omega
  have hi : a - b - BitVec.ofNat 32 c.toNat = BitVec.ofInt 32 (a.toInt - b.toInt - c.toNat) := by
    simp [Int.sub_eq_add_neg, BitVec.ofInt_add, BitVec.ofInt_neg, BitVec.sub_eq_add_neg]
  have hv := ne_toInt_ofInt_iff (a.toInt - b.toInt - c.toNat)
  rw [← hi] at hv
  simp only [subFlags, hn, hv]

theorem toNat_not (b : Bool) : (!b).toNat = 1 - b.toNat := by cases b <;> rfl

/-- Settles O2: each instruction is a value instruction, whose sums and differences `addFlags_eq` and `subFlags_eq` give. -/
theorem addSubCompare : Obligations.AddSubCompare := by
  unfold Obligations.AddSubCompare
  intro s t m o v th plus minus cin
  have hplus (a : Word) (c : Bool) : addFlags (s.thr t).f a v c = plus a c.toNat := addFlags_eq th.f a v c
  have hminus (a : Word) (c : Bool) : subFlags (s.thr t).f a v c = minus a c.toNat := subFlags_eq th.f a v c
  have hborrow : (!hasFlag (s.thr t).f flagC).toNat = 1 - cin := toNat_not _
  refine ⟨fun h => ?_, fun h => ?_, fun h => ?_, fun h => ?_, fun h => ?_, fun h => ?_, fun h => ?_,
    fun h => next_valueInstr h, fun h => next_valueInstr h⟩
  all_goals
    refine (next_valueInstr h).trans ?_
    simp only [applyOp, hplus, hminus, hborrow]
    rfl

/-- Settles O4: the five operations and the comparison are value instructions. -/
theorem floatArithmetic : Obligations.FloatArithmetic := by
  unfold Obligations.FloatArithmetic
  exact fun s t m o v => ⟨fun h => next_valueInstr h, fun h => next_valueInstr h, fun h => next_valueInstr h,
    fun h => next_valueInstr h, fun h => next_valueInstr h, fun h => next_valueInstr h⟩

end Sys2Proof.Machine

/-!
PROOFS. Loads, stores, address instructions and system registers of threads, and misaligned accesses.
-/

namespace Sys2Proof.Machine

/-! ## Loads (R43, R76, R165, R166) -/

theorem toNat_takeData_lt (ea w : Word) (size : Nat) : (takeData ea size w).toNat < 2 ^ (8 * size) := by
  rw [takeData, BitVec.toNat_ofNat]
  exact (Nat.mod_le _ _).trans_lt (Nat.mod_lt _ (by positivity))

/-- The operand of a narrow load fits in the bytes it reads. -/
theorem issuesWith_narrow_lt {s : State} {t : Tid} {op : VOp} {m : BitVec 3} {o : BitVec 23} {v : Word}
    (hn : op.narrow = true) (h : s.issuesWith t op m o v) : v.toNat < 2 ^ (8 * op.size) := by
  obtain ⟨-, ⟨-, hwide, -⟩ | ⟨ea, g, -, -, -, -, -, rfl⟩⟩ := h
  · exact absurd hn (by simp [hwide])
  · exact toNat_takeData_lt _ _ _

/-- A mask of the low bits leaves a word that fits in them. -/
theorem and_mask_of_lt {v mask : Word} {n : Nat} (hmask : mask.toNat = 2 ^ n - 1) (h : v.toNat < 2 ^ n) : v &&& mask = v := by
  apply BitVec.eq_of_toNat_eq
  rw [BitVec.toNat_and, hmask, Nat.and_two_pow_sub_one_eq_mod, Nat.mod_eq_of_lt h]

/-- A quiet thread finds no value of a load without an access. -/
theorem heldValue_of_quiet {s : State} {t : Tid} (hq : s.quiet t) (ea : Word) (op : VOp) : s.heldValue t ea op.size = none := by
  obtain ⟨-, hrun, hbuf, -⟩ := hq
  have hmask : ((0 : BitVec 4) &&& byteMask ea op.size == byteMask ea op.size) = false := by
    simpa using (byteMask_ne ea op).symm
  simp only [State.heldValue, State.runAheadHit, hrun, hbuf, heldMask, List.find?_nil, Option.map_none, List.foldl_nil, hmask,
    Bool.false_eq_true, if_false, ite_self]

theorem loadWord_of_quiet {s : State} {t : Tid} (hq : s.quiet t) (g : Nat) :
    s.loadWord (coreOf t) g = memWord s.mem (g / 4 * 4) := by
  obtain ⟨-, -, hbuf, hfly⟩ := hq
  simp [State.loadWord, hbuf, hfly, overlay]

theorem quiet_issuing {s : State} {t : Tid} (h : s.quiet t) : (s.issuing t).quiet t := h

theorem bankCheck_of_owned {s : State} {b : BankId} {m : Master} (hsec : s.secure b = false)
    (hret : (s.bank b).ret = .active) (hho : (s.bank b).ho = none) (hown : (s.bank b).owner = m) :
    s.bankCheck b m = .ok := by
  simp [State.bankCheck, hsec, hret, hho, State.ownerOf, hown]

/-- A bank out of retention and handover answers its owner, with nothing waiting there. -/
theorem bankAsk_of_owned {s : State} {b : BankId} {m : Master} (r : BankReq) (left : Bool) (hsec : s.secure b = false)
    (hret : (s.bank b).ret = .active) (hho : (s.bank b).ho = none) (hown : (s.bank b).owner = m)
    (hwait : (s.bank b).waiting = []) : s.bankAsk b m r left = .ok := by
  simp [State.bankAsk, bankCheck_of_owned hsec hret hho hown, hret, hho, State.aheadOf, hwait]

@[simp] theorem thr_touchBank (s : State) (b : BankId) (t : Tid) : (s.touchBank b).thr t = s.thr t := by
  simp only [State.touchBank]
  split <;> rfl

@[simp] theorem thr_bankGrant (s : State) (b : BankId) (m : Master) (r : BankReq) (t : Tid) :
    (s.bankGrant b m r).thr t = s.thr t := by
  rw [State.bankGrant, apply_ite (fun u => State.thr u t), thr_satAdd, ite_self, thr_setBank, thr_touchBank]

/-- A load of an owned bank by a thread with no branch to resolve is performed. -/
theorem tryLoad_of_owned {s : State} {t : Tid} {e : FarEntry} {b : BankId} {g : Nat} (op : VOp) (hq : s.quiet t)
    (hr : regionOf (coreOf t) e.addr = .bank b g) (hsec : s.secure b = false)
    (hret : (s.bank b).ret = .active) (hho : (s.bank b).ho = none) (hown : (s.bank b).owner = masterCore (coreOf t))
    (hwait : (s.bank b).waiting = []) (hbad : s.badWord g = false) (hpath : (s.thr t).path = none) :
    s.tryLoad t e op.size =
      (.done (.value (takeData e.addr op.size (memWord s.mem (g / 4 * 4)))),
        s.bankGrant b (masterCore (coreOf t)) (.far t e.seq)) := by
  have hask := bankAsk_of_owned (.far t e.seq) false hsec hret hho hown hwait
  simp [State.tryLoad, heldValue_of_quiet hq, hr, hask, hbad, loadWord_of_quiet hq, State.bankLoad, Thread.onPath, hpath]

/-- The access answers when the thread starts it: the entry it takes holds the answer. -/
theorem startFar_of_done {s u : State} {t : Tid} {e : FarEntry} {r : FarResp} (h : s.tryFar t e = (.done r, u)) :
    s.startFar t e = u.passFar t { e with resp := some r } := by
  simp only [State.startFar, h]

/-- A load of an owned bank takes a far-access entry with the bank's answer, and the thread goes on. -/
theorem loadOperand_of_owned {s : State} {t : Tid} {ea : Word} {b : BankId} {g : Nat} (op : VOp) (hq : s.quiet t)
    (hal : ea.toNat % op.size = 0)
    (hr : regionOf (coreOf t) ea = .bank b g) (hsec : s.secure b = false)
    (hret : (s.bank b).ret = .active) (hho : (s.bank b).ho = none) (hown : (s.bank b).owner = masterCore (coreOf t))
    (hwait : (s.bank b).waiting = []) (hbad : s.badWord g = false) (hpath : (s.thr t).path = none) :
    s.loadOperand t op ea =
      (s.bankGrant b (masterCore (coreOf t)) (.far t s.seq)).passFar t { s.newEntry t (.value op) ea false with
        resp := some (.value (takeData ea op.size (memWord s.mem (g / 4 * 4)))) } := by
  have htry : s.tryFar t (s.newEntry t (.value op) ea false) =
      (.done (.value (takeData ea op.size (memWord s.mem (g / 4 * 4)))),
        s.bankGrant b (masterCore (coreOf t)) (.far t s.seq)) := by
    have hload := tryLoad_of_owned (e := s.newEntry t (.value op) ea false) op hq hr hsec hret hho hown hwait hbad hpath
    have hsend : s.maySend t (s.newEntry t (.value op) ea false) = true := by
      simp [State.maySend, State.newEntry, State.isDevice, hr, quiet_loads _ _ _ _ _ hq]
    rw [State.tryFar, hsend, Bool.not_true, Bool.and_false]
    exact hload
  rw [State.loadOperand, State.loadFault]
  simp [aligned, hal, hr, isOwn, State.isDevice, heldValue_of_quiet hq, startFar_of_done htry]

/-- A value instruction of a quiet thread with an operand in memory issues, and makes its access. -/
theorem valueInstr_of_mem {s : State} {t : Tid} {op : VOp} {m : BitVec 3} {o : BitVec 23} {ea : Word}
    (hi : s.issues t (valueRegs op m o)) (hop : operandOf (s.thr t) m o = some (.mem ea)) (hq : s.quiet t) :
    s.valueInstr t op m o =
      (if (s.issuing t).cancelsEarly (coreOf t) ea true then (s.issuing t).reissued t else s.issuing t).loadOperand t op ea := by
  have hstall : s.valueStalls t op m o = false := by
    simp [State.valueStalls, hop, quiet_loads s t ea op.size (s.seq + 1) hq]
  obtain ⟨hfar, -⟩ := hq
  rw [State.valueInstr, issue_runs _ _ _ _ _ _ _ hi (by simp [valueLegal, hop]) (by simp [hfar]) hstall]
  simp [State.runValue, hop]

/-- Settles O6: a value instruction writes its operand, whose narrow forms fit in their bytes; a load of an owned bank is
answered when it starts. -/
theorem loadsNearAndFar : Obligations.LoadsNearAndFar := by
  unfold Obligations.LoadsNearAndFar
  refine ⟨fun s t m o v => ⟨fun h => next_valueInstr h, fun h => next_valueInstr h, fun h => next_valueInstr h,
    fun h => ?byte, fun h => ?half⟩, fun s t m o ea b g hi hop hr hal hq hsec hret hho hown hwait hbad hpath => ?far⟩
  case byte =>
    have hv : v.toNat < 2 ^ 8 := issuesWith_narrow_lt rfl h
    refine ⟨(next_valueInstr h).trans ?_, hv⟩
    simp only [applyOp, and_mask_of_lt (n := 8) (mask := 0xFF) rfl hv]
  case half =>
    have hv : v.toNat < 2 ^ 16 := issuesWith_narrow_lt rfl h
    refine ⟨(next_valueInstr h).trans ?_, hv⟩
    simp only [applyOp, and_mask_of_lt (n := 16) (mask := 0xFFFF) rfl hv]
  case far =>
    have hearly : (s.issuing t).cancelsEarly (coreOf t) ea true = false := by
      have hcheck : (s.issuing t).bankCheck b (masterCore (coreOf t)) = .ok := bankCheck_of_owned hsec hret hho hown
      have hact : ((s.issuing t).bank b).ret = .active := hret
      simp [State.cancelsEarly, hr, hact, hcheck]
    have hrun := valueInstr_of_mem hi hop hq
    have hload := loadOperand_of_owned .ldA (quiet_issuing hq) hal hr hsec hret hho hown hwait hbad hpath
    rw [hearly, if_neg Bool.false_ne_true, hload] at hrun
    refine ⟨_, rfl, (congrArg Host.Outcome.next hrun).trans ?_⟩
    obtain ⟨hfar, -⟩ := hq
    simp [State.passFar, hfar, State.newEntry]
    rfl

/-! ## Stores (R76, R168, R181) -/

/-- An address of user memory: of core-local memory or of a shared bank, at global address g. -/
def userPlace (c : CoreId) (ea : Word) (g : Nat) : Prop :=
  (∃ d, regionOf c ea = .core d g) ∨ ∃ b, regionOf c ea = .bank b g

section UserPlace

variable {c : CoreId} {ea : Word} {g : Nat} (h : userPlace c ea g)
include h

theorem wordKey_of_userPlace : wordKey c ea = g / 4 * 4 := by
  rcases h with ⟨d, h⟩ | ⟨b, h⟩ <;> simp [wordKey, h]

theorem isDevice_of_userPlace (s : State) : s.isDevice c ea = false := by
  rcases h with ⟨d, h⟩ | ⟨b, h⟩ <;> simp [State.isDevice, h]

theorem storePhys_of_userPlace (s : State) : s.storePhys c ea = (0, {}) := by
  rcases h with ⟨d, h⟩ | ⟨b, h⟩ <;> simp [State.storePhys, h]

theorem storeFault_of_userPlace (s : State) (size : Nat) :
    s.storeFault c ea size = if aligned ea size then none else some 0x02 := by
  rcases h with ⟨d, h⟩ | ⟨b, h⟩ <;> cases ha : aligned ea size <;> simp [State.storeFault, h, ha]

theorem cancelsEarly_store_of_userPlace (s : State) : s.cancelsEarly c ea false = false := by
  rcases h with ⟨d, h⟩ | ⟨b, h⟩ <;> simp [State.cancelsEarly, h]

end UserPlace

/-- A store whose operand is in memory issues once its thread has room in the store buffer, and makes its access. -/
theorem storeInstr_of_mem {s : State} {t : Tid} {op : StOp} {m : BitVec 3} {o : BitVec 23} {ea : Word}
    (hi : s.issues t (storeRegs op m o)) (hop : operandOf (s.thr t) m o = some (.mem ea)) (hfar : (s.thr t).far = [])
    (hroom : s.storesHeld t < 4) :
    s.storeInstr t op m o =
      (if (s.issuing t).cancelsEarly (coreOf t) ea false then (s.issuing t).reissued t else s.issuing t).storeOperand t op ea := by
  have hstall : s.storeStalls t m o = false := by
    simp [State.storeStalls, hop, Thread.unsentAt, Thread.olderFar, hfar, Nat.not_le.mpr hroom]
  rw [State.storeInstr, issue_runs _ _ _ _ _ _ _ hi (by simp [storeLegal, hop]) (by simp) hstall]
  simp [State.runStore, hop]

/-- An aligned store to user memory enters the store buffer, and the thread goes on. -/
theorem storeInstr_of_user {s : State} {t : Tid} {op : StOp} {m : BitVec 3} {o : BitVec 23} {ea : Word} {g : Nat}
    (hop : operandOf (s.thr t) m o = some (.mem ea)) (hplace : userPlace (coreOf t) ea g) (hfar : (s.thr t).far = [])
    (hroom : s.storesHeld t < 4) (hi : s.issues t (storeRegs op m o)) (hal : ea.toNat % op.size = 0) :
    s.storeInstr t op m o =
      (((s.issuing t).dropRunAhead (coreOf t) (g / 4 * 4)).enterStore t (g / 4 * 4) (byteMask ea op.size)
        (placeData ea (op.data (s.thr t))) ((s.thr t).pc.extractLsb' 2 16) false
        (s.leavesLate (coreOf t) (g / 4 * 4)) 0 {}).retire t := by
  have halign : aligned ea op.size = true := by simp [aligned, hal]
  rw [storeInstr_of_mem hi hop hfar hroom, cancelsEarly_store_of_userPlace hplace, if_neg Bool.false_ne_true,
    State.storeOperand, storeFault_of_userPlace hplace, if_pos halign, isDevice_of_userPlace hplace,
    storePhys_of_userPlace hplace, wordKey_of_userPlace hplace]
  rfl

theorem placeData_eq_shiftLeft (ea v : Word) : placeData ea v = v <<< (8 * (ea.toNat % 4)) := by
  apply BitVec.eq_of_toNat_eq
  simp [placeData, Nat.shiftLeft_eq]

theorem placeData_of_aligned {ea : Word} (h : ea.toNat % 4 = 0) (v : Word) : placeData ea v = v := by
  simp [placeData, h]

/-- Settles O8: every store to user memory enters the buffer, with its data in the lanes of its address. -/
theorem storesEnterTheBuffer : Obligations.StoresEnterTheBuffer := by
  unfold Obligations.StoresEnterTheBuffer
  intro s t m o ea g th c enter hop hplace hfar hroom
  have store {op : StOp} (hi : s.issues t (storeRegs op m o)) (hal : ea.toNat % op.size = 0) :=
    storeInstr_of_user hop hplace hfar hroom hi hal
  have whole (hal : ea.toNat % 4 = 0) (v : Word) : enter 0xF (placeData ea v) = enter 0xF v := by
    rw [placeData_of_aligned hal]
  have lanes (mask : BitVec 4) (v : Word) : enter mask (placeData ea v) = enter mask (v <<< (8 * (ea.toNat % 4))) := by
    rw [placeData_eq_shiftLeft]
  exact ⟨fun hi hal => congrArg _ ((store hi hal).trans (whole hal th.a)),
    fun hi hal => congrArg _ ((store hi hal).trans (whole hal th.x)),
    fun hi hal => congrArg _ ((store hi hal).trans (whole hal th.y)),
    fun hi => congrArg _ ((store hi (Nat.mod_one _)).trans (lanes _ th.a)),
    fun hi hal => congrArg _ ((store hi hal).trans (lanes _ th.a))⟩

/-! ## Misaligned accesses (R75, R105) -/

/-- An instruction of a ready thread that faults leaves its fault pending at its PC. -/
theorem threadFault_issuing {s : State} {t : Tid} (h : s.ready t = true) (code : Byte) :
    (s.issuing t).threadFault t code =
      (s.issuing t).setThr t { s.thr t with
        pendFault := some ⟨code, some (s.thr t).pc, (s.thr t).pc.extractLsb' 2 16, s.seq + 1⟩ } := by
  have hnone : (s.thr t).pendFault = none := by
    simp only [State.ready, Bool.and_eq_true, Option.isNone_iff_eq_none] at h
    exact h.1.1.1.2
  simp [State.threadFault, hnone]

/-- With no branch before it to resolve, no instruction is issued again. -/
theorem reissued_of_limit {s : State} {t : Tid} (h : (s.thr t).reissueLimit = 0) : s.reissued t = s := by
  simp [State.reissued, h]

theorem loadOperand_misaligned {s : State} {t : Tid} {op : VOp} {ea : Word} (h : ea.toNat % op.size ≠ 0) :
    s.loadOperand t op ea = s.threadFault t 0x02 := by
  simp [State.loadOperand, State.loadFault, aligned, h]

theorem storeOperand_misaligned {s : State} {t : Tid} {op : StOp} {ea : Word} (h : ea.toNat % op.size ≠ 0) :
    s.storeOperand t op ea = s.threadFault t 0x02 := by
  simp [State.storeOperand, State.storeFault, aligned, h]

theorem storesHeld_of_quiet {s : State} {t : Tid} (h : s.quiet t) : s.storesHeld t < 4 := by
  obtain ⟨-, -, hbuf, -⟩ := h
  simp [State.storesHeld, hbuf]

theorem valueInstr_misaligned {s : State} {t : Tid} {op : VOp} {m : BitVec 3} {o : BitVec 23} {ea : Word}
    (hop : operandOf (s.thr t) m o = some (.mem ea)) (hq : s.quiet t) (hlim : (s.thr t).reissueLimit = 0)
    (hi : s.issues t (valueRegs op m o)) (hal : ea.toNat % op.size ≠ 0) :
    s.valueInstr t op m o = (s.issuing t).threadFault t 0x02 := by
  rw [valueInstr_of_mem hi hop hq, reissued_of_limit (s := s.issuing t) hlim, ite_self, loadOperand_misaligned hal]

theorem storeInstr_misaligned {s : State} {t : Tid} {op : StOp} {m : BitVec 3} {o : BitVec 23} {ea : Word}
    (hop : operandOf (s.thr t) m o = some (.mem ea)) (hq : s.quiet t) (hlim : (s.thr t).reissueLimit = 0)
    (hi : s.issues t (storeRegs op m o)) (hal : ea.toNat % op.size ≠ 0) :
    s.storeInstr t op m o = (s.issuing t).threadFault t 0x02 := by
  rw [storeInstr_of_mem hi hop hq.1 (storesHeld_of_quiet hq), reissued_of_limit (s := s.issuing t) hlim, ite_self,
    storeOperand_misaligned hal]

/-! ## Addresses and system registers (R76, R91 to R99) -/

theorem execLea_of_mem {s : State} {t : Tid} {m : BitVec 3} {o : BitVec 23} {ea : Word}
    (hop : operandOf (s.thr t) m o = some (.mem ea)) (hi : s.issues t (sbA ||| modeReads m)) :
    execLea t m o s = .next (s.afterInstr t { s.thr t with a := ea }) := by
  rw [execLea, issue_runs _ _ _ _ _ _ _ hi (by simp [addressLegal, hop]) (by simp) rfl]
  simp [eaOf, hop, State.finishA, State.afterInstr]

theorem append_zero_eq_mul (o : BitVec 23) : o ++ (0 : BitVec 9) = BitVec.ofNat 32 (512 * o.toNat) := by
  apply BitVec.eq_of_toNat_eq
  have := o.isLt
  rw [toNat_append_zero, BitVec.toNat_ofNat]
  omega

/-- A thread that may issue with more registers may issue with some of them. -/
theorem issues_mono {s : State} {t : Tid} {regs fewer : BitVec 4} (h : s.issues t regs) (hsub : fewer &&& regs = fewer) :
    s.issues t fewer := by
  obtain ⟨hready, hdisc, hpc, hregs⟩ := h
  refine ⟨hready, hdisc, hpc, ?_⟩
  rw [← hsub, BitVec.and_comm fewer, ← BitVec.and_assoc, hregs]
  exact BitVec.zero_and

theorem valueInstr_of_sys {s : State} {t : Tid} {m : BitVec 3} {o : BitVec 23} {n : Nat}
    (hop : operandOf (s.thr t) m o = some (.sys n)) (hk : sysKnown n = true) (hfar : (s.thr t).far = [])
    (hi : s.issues t (valueRegs .ldA m o)) :
    s.valueInstr t .ldA m o = ((s.issuing t).sysRead t n).2.finishValue t .ldA ((s.issuing t).sysRead t n).1 := by
  rw [State.valueInstr, issue_runs _ _ _ _ _ _ _ hi (by simp [valueLegal, hop, hk]) (by simp [hfar])
    (by simp [State.valueStalls, hop])]
  simp [State.runValue, hop]

theorem storeInstr_of_sys {s : State} {t : Tid} {m : BitVec 3} {o : BitVec 23} {n : Nat}
    (hop : operandOf (s.thr t) m o = some (.sys n)) (hk : sysKnown n = true) (hi : s.issues t (storeRegs .stA m o)) :
    s.storeInstr t .stA m o = ((s.issuing t).sysWrite t n (s.thr t).a).retire t := by
  rw [State.storeInstr, issue_runs _ _ _ _ _ _ _ hi (by simp [storeLegal, hop, hk]) (by simp)
    (by simp [State.storeStalls, hop])]
  simp [State.runStore, hop]

/-- Settles O10: LEA and LDHI, then each read and write of a system register. -/
theorem addressAndSystemInstructions : Obligations.AddressAndSystemInstructions := by
  unfold Obligations.AddressAndSystemInstructions
  refine ⟨fun s t m o => ⟨fun ea hop hi => execLea_of_mem hop hi, fun hi => ?hi⟩, fun s t => ?sys⟩
  case hi =>
    rw [← append_zero_eq_mul]
    exact congrArg _ (issue_runs s t _ _ _ _ _ hi rfl (by simp) rfl)
  case sys =>
    intro th hi hq
    obtain ⟨hfar, -⟩ := hq
    have read (o : BitVec 23) {n : Nat} (hop : operandOf (s.thr t) 7 o = some (.sys n)) (hk : sysKnown n = true)
        (hregs : valueRegs .ldA 7 o &&& (sbA ||| sbF) = valueRegs .ldA 7 o) :=
      valueInstr_of_sys hop hk hfar (issues_mono hi hregs)
    have write (o : BitVec 23) {n : Nat} (hop : operandOf (s.thr t) 7 o = some (.sys n)) (hk : sysKnown n = true)
        (hregs : storeRegs .stA 7 o &&& (sbA ||| sbF) = storeRegs .stA 7 o) :=
      storeInstr_of_sys hop hk (issues_mono hi hregs)
    refine ⟨?_, ?_, ?_, ?_, ?_, ?_, ?_, ?_⟩
    · exact congrArg _ (read 0x08 rfl rfl rfl)
    · exact congrArg _ (read 0x0C rfl rfl rfl)
    · exact congrArg _ (read 0x0D rfl rfl rfl)
    · exact congrArg _ (read 0x0F rfl rfl rfl)
    · exact congrArg _ (read 0x11 rfl rfl rfl)
    · refine congrArg _ ((read 0x10 (n := 0x10) rfl rfl rfl).trans ?_)
      simp only [State.sysRead, State.finishValue, applyOp, thr_setThr_same]
      rfl
    · refine congrArg _ ((write 0x0F (n := 0x0F) rfl rfl rfl).trans ?_)
      simp only [State.sysWrite, State.retire, thr_issuing, thr_setThr_same]
      rfl
    · refine congrArg _ ((write 0x0E (n := 0x0E) rfl rfl rfl).trans ?_)
      simp only [State.sysWrite, State.retire, thr_issuing, thr_setThr_same]
      rfl

end Sys2Proof.Machine

/-!
PROOFS. Instruction words of threads: what they spell, and back.
-/

namespace Sys2Proof.Machine

/-! ## Words and their fields (R70) -/

theorem bitsOf_eq_extractLsb' (w : Word) (lo len : Nat) : bitsOf w lo len = (w.extractLsb' lo len).toNat := by
  simp [bitsOf, BitVec.extractLsb'_toNat, Nat.shiftRight_eq_div_pow]

theorem ofBool_getLsbD {n : Nat} (w : BitVec n) (i : Nat) : BitVec.ofBool (w.getLsbD i) = w.extractLsb' i 1 := by
  apply BitVec.eq_of_getLsbD_eq
  intro j hj
  obtain rfl : j = 0 := by omega
  simp

theorem extractLsb'_append_high {n k : Nat} (x : BitVec n) (y : BitVec k) {start : Nat} (j len : Nat) (h : start = k + j) :
    (x ++ y).extractLsb' start len = x.extractLsb' j len := by
  subst h
  rw [BitVec.extractLsb'_append_eq_of_le (Nat.le_add_right k j), Nat.add_sub_cancel_left]

theorem getLsbD_append_high {n k : Nat} (x : BitVec n) (y : BitVec k) {i : Nat} (j : Nat) (h : i = k + j) :
    (x ++ y).getLsbD i = x.getLsbD j := by
  subst h
  simp [BitVec.getLsbD_append]

theorem getLsbD_append_ofBool {n : Nat} (x : BitVec n) (b : Bool) : (x ++ BitVec.ofBool b).getLsbD 0 = b := by
  rw [BitVec.getLsbD_append, if_pos Nat.zero_lt_one]
  simp

theorem memFormat_fields (op : BitVec 6) (m : BitVec 3) (o : BitVec 23) :
    let w := memFormat op m o
    w.extractLsb' 26 6 = op ∧ w.extractLsb' 23 3 = m ∧ w.extractLsb' 0 23 = o :=
  ⟨(extractLsb'_append_high (op ++ m) o 3 6 rfl).trans BitVec.extractLsb'_append_eq_left,
    (extractLsb'_append_high (op ++ m) o 0 3 rfl).trans BitVec.extractLsb'_append_eq_right, BitVec.extractLsb'_append_eq_right⟩

theorem branchWord_fields (op : BitVec 6) (annul : Bool) (cond : BitVec 4) (disp : BitVec 21) :
    let w := branchWord op annul cond disp
    w.extractLsb' 26 6 = op ∧ w.getLsbD 25 = annul ∧ w.extractLsb' 21 4 = cond ∧ w.extractLsb' 0 21 = disp :=
  ⟨(extractLsb'_append_high _ disp 5 6 rfl).trans
      ((extractLsb'_append_high (op ++ BitVec.ofBool annul) cond 1 6 rfl).trans BitVec.extractLsb'_append_eq_left),
    (getLsbD_append_high _ disp 4 rfl).trans
      ((getLsbD_append_high (op ++ BitVec.ofBool annul) cond 0 rfl).trans (getLsbD_append_ofBool op annul)),
    (extractLsb'_append_high (op ++ BitVec.ofBool annul ++ cond) disp 0 4 rfl).trans BitVec.extractLsb'_append_eq_right,
    BitVec.extractLsb'_append_eq_right⟩

theorem compareWord_fields (op : BitVec 6) (annul : Bool) (rel : BitVec 3) (src : Bool) (imm : BitVec 7) (disp : BitVec 14) :
    let w := compareWord op annul rel src imm disp
    w.extractLsb' 26 6 = op ∧ w.getLsbD 25 = annul ∧ w.extractLsb' 22 3 = rel ∧ w.getLsbD 21 = src ∧
      w.extractLsb' 14 7 = imm ∧ w.extractLsb' 0 14 = disp :=
  ⟨(extractLsb'_append_high _ disp 12 6 rfl).trans ((extractLsb'_append_high _ imm 5 6 rfl).trans
      ((extractLsb'_append_high _ (BitVec.ofBool src) 4 6 rfl).trans
        ((extractLsb'_append_high (op ++ BitVec.ofBool annul) rel 1 6 rfl).trans BitVec.extractLsb'_append_eq_left))),
    (getLsbD_append_high _ disp 11 rfl).trans ((getLsbD_append_high _ imm 4 rfl).trans
      ((getLsbD_append_high _ (BitVec.ofBool src) 3 rfl).trans
        ((getLsbD_append_high (op ++ BitVec.ofBool annul) rel 0 rfl).trans (getLsbD_append_ofBool op annul)))),
    (extractLsb'_append_high _ disp 8 3 rfl).trans ((extractLsb'_append_high _ imm 1 3 rfl).trans
      ((extractLsb'_append_high (op ++ BitVec.ofBool annul ++ rel) (BitVec.ofBool src) 0 3 rfl).trans
        BitVec.extractLsb'_append_eq_right)),
    (getLsbD_append_high _ disp 7 rfl).trans
      ((getLsbD_append_high (op ++ BitVec.ofBool annul ++ rel ++ BitVec.ofBool src) imm 0 rfl).trans
        (getLsbD_append_ofBool (op ++ BitVec.ofBool annul ++ rel) src)),
    (extractLsb'_append_high (op ++ BitVec.ofBool annul ++ rel ++ BitVec.ofBool src ++ imm) disp 0 7 rfl).trans
      BitVec.extractLsb'_append_eq_right,
    BitVec.extractLsb'_append_eq_right⟩

theorem extractLsb'_join {n : Nat} (w : BitVec n) (lo len hi len' : Nat) (h : hi = lo + len) :
    w.extractLsb' hi len' ++ w.extractLsb' lo len = w.extractLsb' lo (len' + len) :=
  BitVec.extractLsb'_append_extractLsb'_eq_extractLsb' h

theorem memFormat_of_fields (w : Word) :
    memFormat (w.extractLsb' 26 6) (w.extractLsb' 23 3) (w.extractLsb' 0 23) = w := by
  rw [memFormat, extractLsb'_join w 23 3 26 6 rfl, extractLsb'_join w 0 23 23 (6 + 3) rfl]
  exact BitVec.extractLsb'_eq_self

theorem branchWord_of_fields (w : Word) :
    branchWord (w.extractLsb' 26 6) (w.getLsbD 25) (w.extractLsb' 21 4) (w.extractLsb' 0 21) = w := by
  rw [branchWord, ofBool_getLsbD, extractLsb'_join w 25 1 26 6 rfl, extractLsb'_join w 21 4 25 (6 + 1) rfl,
    extractLsb'_join w 0 21 21 (6 + 1 + 4) rfl]
  exact BitVec.extractLsb'_eq_self

theorem compareWord_of_fields (w : Word) :
    compareWord (w.extractLsb' 26 6) (w.getLsbD 25) (w.extractLsb' 22 3) (w.getLsbD 21) (w.extractLsb' 14 7)
      (w.extractLsb' 0 14) = w := by
  rw [compareWord, ofBool_getLsbD, ofBool_getLsbD, extractLsb'_join w 25 1 26 6 rfl,
    extractLsb'_join w 22 3 25 (6 + 1) rfl, extractLsb'_join w 21 1 22 (6 + 1 + 3) rfl,
    extractLsb'_join w 14 7 21 (6 + 1 + 3 + 1) rfl, extractLsb'_join w 0 14 14 (6 + 1 + 3 + 1 + 7) rfl]
  exact BitVec.extractLsb'_eq_self

/-! ## Thread instruction words (R70, R76, R77, R89) -/

/-- Opcodes of the branch formats spell nothing in the memory/ALU format. -/
theorem decodeMem_of_branch (t : Tid) (m : BitVec 3) (o : BitVec 23) {op : Nat}
    (h : op = 0x33 ∨ op = 0x34 ∨ op = 0x36 ∨ op = 0x37) : decodeMem t op m o = none := by
  rcases h with rfl | rfl | rfl | rfl <;> simp [decodeMem, decodeControl]

/-- A word of the memory/ALU format spells what its fields do. -/
theorem decodeThreadWord_memFormat {t : Tid} {op : BitVec 6} {m : BitVec 3} {o : BitVec 23} {i : Instr}
    (h : decodeMem t op.toNat m o = some i) : decodeThreadWord t (memFormat op m o) = i := by
  obtain ⟨hop, hm, ho⟩ := memFormat_fields op m o
  have hnot : ∀ n, n = 0x33 ∨ n = 0x34 ∨ n = 0x36 ∨ n = 0x37 → op.toNat ≠ n := fun n hn e => by
    rw [e, decodeMem_of_branch t m o hn] at h
    cases h
  simp only [decodeThreadWord, hop, hm, ho]
  split
  · exact absurd ‹_› (hnot _ (by simp))
  · exact absurd ‹_› (hnot _ (by simp))
  · exact absurd ‹_› (hnot _ (by simp))
  · exact absurd ‹_› (hnot _ (by simp))
  · simp [h]

theorem decodeThreadWord_goCc (t : Tid) (annul : Bool) (cond : BitVec 4) (disp : BitVec 21) :
    decodeThreadWord t (branchWord 0x33 annul cond disp) = .goCc t annul cond disp := by
  obtain ⟨hop, ha, hc, hd⟩ := branchWord_fields 0x33 annul cond disp
  simp only [decodeThreadWord, hop, ha, hc, hd]
  rfl

theorem decodeThreadWord_gol (t : Tid) (annul : Bool) (cond : BitVec 4) (disp : BitVec 21) :
    decodeThreadWord t (branchWord 0x34 annul cond disp) = .gol t annul cond disp := by
  obtain ⟨hop, ha, hc, hd⟩ := branchWord_fields 0x34 annul cond disp
  simp only [decodeThreadWord, hop, ha, hc, hd]
  rfl

theorem decodeThreadWord_cgoA (t : Tid) (annul : Bool) (rel : BitVec 3) (src : Bool) (imm : BitVec 7) (disp : BitVec 14) :
    decodeThreadWord t (compareWord 0x36 annul rel src imm disp) = .cgoA t annul rel src imm disp := by
  obtain ⟨hop, ha, hr, hs, hi, hd⟩ := compareWord_fields 0x36 annul rel src imm disp
  simp only [decodeThreadWord, hop, ha, hr, hs, hi, hd]
  rfl

theorem decodeThreadWord_cgoX (t : Tid) (annul : Bool) (rel : BitVec 3) (src : Bool) (imm : BitVec 7) (disp : BitVec 14) :
    decodeThreadWord t (compareWord 0x37 annul rel src imm disp) = .cgoX t annul rel src imm disp := by
  obtain ⟨hop, ha, hr, hs, hi, hd⟩ := compareWord_fields 0x37 annul rel src imm disp
  simp only [decodeThreadWord, hop, ha, hr, hs, hi, hd]
  rfl

/-- The word of a thread instruction spells it: one word per branch of the encoder. -/
theorem decodeThreadWord_of_encode {i : Instr} {w : Word} (h : encodeThreadWord i = some w) :
    ∃ t, decodeThreadWord t w = i := by
  unfold encodeThreadWord at h
  split at h
  all_goals cases h
  case h_73 => exact ⟨_, decodeThreadWord_goCc ..⟩
  case h_74 => exact ⟨_, decodeThreadWord_gol ..⟩
  case h_75 => exact ⟨_, decodeThreadWord_cgoA ..⟩
  case h_76 => exact ⟨_, decodeThreadWord_cgoX ..⟩
  all_goals exact ⟨_, decodeThreadWord_memFormat rfl⟩

theorem encodeThreadWord_of_decodeReg {t : Tid} {f : Nat} {i : Instr} (h : decodeReg t f = some i) :
    encodeThreadWord i = some (memFormat 0x3E 0 (BitVec.ofNat 23 f)) := by
  unfold decodeReg at h
  split at h <;> cases h <;> rfl

theorem encodeThreadWord_of_decodeFence {t : Tid} {f : Nat} {i : Instr} (h : decodeFence t f = some i) :
    encodeThreadWord i = some (memFormat 0x38 0 (BitVec.ofNat 23 f)) := by
  unfold decodeFence at h
  split at h <;> cases h <;> rfl

theorem encodeThreadWord_of_decodeControl {t : Tid} {op : Nat} {o : BitVec 23} {i : Instr}
    (h : decodeControl t op o = some i) : encodeThreadWord i = some (memFormat (BitVec.ofNat 6 op) 0 o) := by
  unfold decodeControl at h
  split at h
  case h_1 => simpa using encodeThreadWord_of_decodeFence h
  case h_2 =>
    obtain ⟨rfl, hi⟩ := Option.ite_none_right_eq_some.mp h
    cases hi
    rfl
  case h_3 =>
    obtain ⟨rfl, hi⟩ := Option.ite_none_right_eq_some.mp h
    cases hi
    rfl
  case h_4 => simpa using encodeThreadWord_of_decodeReg h
  case h_5 => cases h

/-- What an opcode and its fields spell is written as the word of the memory/ALU format with these fields. -/
theorem encodeThreadWord_of_decodeMem {t : Tid} {op : Nat} {m : BitVec 3} {o : BitVec 23} {i : Instr}
    (h : decodeMem t op m o = some i) : encodeThreadWord i = some (memFormat (BitVec.ofNat 6 op) m o) := by
  unfold decodeMem at h
  split at h
  case h_52 =>
    obtain ⟨rfl, hi⟩ := Option.ite_none_right_eq_some.mp h
    exact encodeThreadWord_of_decodeControl hi
  all_goals cases h; rfl

theorem decodeReg_isSome (t : Tid) {f : Nat} (h : f ≤ 9 ∨ 0x10 ≤ f ∧ f ≤ 0x15) : (decodeReg t f).isSome = true := by
  rcases h with h | ⟨h1, h2⟩ <;> interval_cases f <;> rfl

theorem decodeFence_isSome (t : Tid) {f : Nat} (h : f < 3) : (decodeFence t f).isSome = true := by
  interval_cases f <;> rfl

/-- A well-formed word of the control class spells an instruction. -/
theorem decodeControl_isSome (t : Tid) {op m : Nat} {o : BitVec 23} (hop : op = 0x38 ∨ op = 0x39 ∨ op = 0x3A ∨ op = 0x3E)
    (h : memoryWordOk op m o.toNat = true) : m = 0 ∧ (decodeControl t op o).isSome = true := by
  rcases hop with rfl | rfl | rfl | rfl <;> simp [memoryWordOk] at h
  · exact ⟨h.1, decodeFence_isSome t h.2⟩
  · obtain rfl : o = 0 := BitVec.eq_of_toNat_eq h.2
    exact ⟨h.1, rfl⟩
  · obtain rfl : o = 0 := BitVec.eq_of_toNat_eq h.2
    exact ⟨h.1, rfl⟩
  · exact ⟨h.1, decodeReg_isSome t h.2⟩

/-- The opcodes of the branch formats, and those that no instruction has. -/
def notMemory (op : Nat) : Prop :=
  op = 0 ∨ op = 0x33 ∨ op = 0x34 ∨ op = 0x36 ∨ op = 0x37 ∨ op = 0x3B ∨ op = 0x3C ∨ op = 0x3D ∨ op = 0x3F

/-- A well-formed word of the memory/ALU format spells an instruction. -/
theorem decodeMem_isSome (t : Tid) {op : Nat} {m : BitVec 3} {o : BitVec 23} (hop : op < 64) (hmem : ¬ notMemory op)
    (h : memoryWordOk op m.toNat o.toNat = true) : (decodeMem t op m o).isSome = true := by
  unfold notMemory at hmem
  unfold decodeMem
  split
  case h_52 =>
    have hctl : op = 0x38 ∨ op = 0x39 ∨ op = 0x3A ∨ op = 0x3E := by grind
    obtain ⟨hm, hsome⟩ := decodeControl_isSome t hctl h
    obtain rfl : m = 0 := BitVec.eq_of_toNat_eq hm
    rwa [if_pos rfl]
  all_goals rfl

/-- The fields of a word in the memory/ALU format, when it is well formed there. -/
theorem encodeThreadWord_of_wordOk_memory {t : Tid} {w : Word} (hmem : ¬ notMemory (w.extractLsb' 26 6).toNat)
    (h : wordOk w = true) : encodeThreadWord (decodeThreadWord t w) = some w := by
  have hok : memoryWordOk (w.extractLsb' 26 6).toNat (w.extractLsb' 23 3).toNat (w.extractLsb' 0 23).toNat = true := by
    simp only [wordOk, bitsOf_eq_extractLsb'] at h
    unfold notMemory at hmem
    grind
  obtain ⟨i, hi⟩ := Option.isSome_iff_exists.mp (decodeMem_isSome t (w.extractLsb' 26 6).isLt hmem hok)
  have hdec := decodeThreadWord_memFormat hi
  have henc := encodeThreadWord_of_decodeMem hi
  rw [BitVec.ofNat_toNat, BitVec.setWidth_eq] at henc
  rw [memFormat_of_fields] at hdec henc
  rw [hdec, henc]

/-- No opcode without an instruction is well formed. -/
theorem wordOk_of_no_opcode {w : Word} (h : bitsOf w 26 6 ∈ [0x00, 0x3B, 0x3C, 0x3D, 0x3F]) : wordOk w = false := by
  simp only [List.mem_cons, List.not_mem_nil, or_false] at h
  rcases h with h | h | h | h | h <;> simp [wordOk, h]

/-- A well-formed word is the word of the instruction it spells. -/
theorem encodeThreadWord_of_wordOk (t : Tid) {w : Word} (h : wordOk w = true) :
    encodeThreadWord (decodeThreadWord t w) = some w := by
  by_cases hmem : notMemory (w.extractLsb' 26 6).toNat
  · have hop (n : Nat) (hn : (w.extractLsb' 26 6).toNat = n) : w.extractLsb' 26 6 = BitVec.ofNat 6 n := by
      rw [← hn, BitVec.ofNat_toNat, BitVec.setWidth_eq]
    have hbranch := branchWord_of_fields w
    have hcompare := compareWord_of_fields w
    have hnone (hn : bitsOf w 26 6 ∈ [0x00, 0x3B, 0x3C, 0x3D, 0x3F]) : False :=
      absurd h (by simp [wordOk_of_no_opcode hn])
    rw [bitsOf_eq_extractLsb'] at hnone
    rcases hmem with hn | hn | hn | hn | hn | hn | hn | hn | hn
    case inr.inl =>
      rw [hop _ hn] at hbranch
      simp only [decodeThreadWord, hn]
      exact congrArg some hbranch
    case inr.inr.inl =>
      rw [hop _ hn] at hbranch
      simp only [decodeThreadWord, hn]
      exact congrArg some hbranch
    case inr.inr.inr.inl =>
      rw [hop _ hn] at hcompare
      simp only [decodeThreadWord, hn]
      exact congrArg some hcompare
    case inr.inr.inr.inr.inl =>
      rw [hop _ hn] at hcompare
      simp only [decodeThreadWord, hn]
      exact congrArg some hcompare
    all_goals exact (hnone (by simp [hn])).elim
  · exact encodeThreadWord_of_wordOk_memory hmem h

end Sys2Proof.Machine

/-!
PROOFS. Pin-engine words: what they spell, and back; the faults of misaligned accesses.
-/

namespace Sys2Proof.Machine

/-! ## Pin-engine words (R247 to R251) -/

theorem pinFields_pinWord (op : BitVec 6) (dd ds : BitVec 3) (f : BitVec 4) (imm : BitVec 16) :
    pinFields (pinWord op dd ds f imm) = ⟨op.toNat, dd, ds, f, imm⟩ := by
  have hop : (pinWord op dd ds f imm).extractLsb' 26 6 = op :=
    (extractLsb'_append_high _ imm 10 6 rfl).trans ((extractLsb'_append_high _ f 6 6 rfl).trans
      ((extractLsb'_append_high (op ++ dd) ds 3 6 rfl).trans BitVec.extractLsb'_append_eq_left))
  have hdd : (pinWord op dd ds f imm).extractLsb' 23 3 = dd :=
    (extractLsb'_append_high _ imm 7 3 rfl).trans ((extractLsb'_append_high _ f 3 3 rfl).trans
      ((extractLsb'_append_high (op ++ dd) ds 0 3 rfl).trans BitVec.extractLsb'_append_eq_right))
  have hds : (pinWord op dd ds f imm).extractLsb' 20 3 = ds :=
    (extractLsb'_append_high _ imm 4 3 rfl).trans
      ((extractLsb'_append_high (op ++ dd ++ ds) f 0 3 rfl).trans BitVec.extractLsb'_append_eq_right)
  have hf : (pinWord op dd ds f imm).extractLsb' 16 4 = f :=
    (extractLsb'_append_high (op ++ dd ++ ds ++ f) imm 0 4 rfl).trans BitVec.extractLsb'_append_eq_right
  have himm : (pinWord op dd ds f imm).extractLsb' 0 16 = imm := BitVec.extractLsb'_append_eq_right
  simp only [pinFields, hop, hdd, hds, hf, himm]

theorem pinWord_of_pinFields (w : Word) :
    pinWord (BitVec.ofNat 6 (pinFields w).op) (pinFields w).dd (pinFields w).ds (pinFields w).f (pinFields w).imm = w := by
  simp only [pinFields, BitVec.ofNat_toNat, BitVec.setWidth_eq]
  rw [pinWord, extractLsb'_join w 23 3 26 6 rfl, extractLsb'_join w 20 3 23 (6 + 3) rfl,
    extractLsb'_join w 16 4 20 (6 + 3 + 3) rfl, extractLsb'_join w 0 16 16 (6 + 3 + 3 + 4) rfl]
  exact BitVec.extractLsb'_eq_self

theorem onlyIf_eq_some {b : Bool} {i j : Instr} : onlyIf b i = some j ↔ b = true ∧ i = j := by
  cases b <;> simp [onlyIf]

/-! The parts of the fields F and IMM as the encoder lays them out. -/

theorem target_fields (x : BitVec 10) : BitVec.extractLsb' (n := 16) 10 6 ((0 : BitVec 6) ++ x) = 0 ∧
    BitVec.extractLsb' (n := 16) 0 10 ((0 : BitVec 6) ++ x) = x :=
  ⟨BitVec.extractLsb'_append_eq_left, BitVec.extractLsb'_append_eq_right⟩

theorem pair_fields (x : BitVec 2) : BitVec.extractLsb' (n := 16) 2 14 ((0 : BitVec 14) ++ x) = 0 ∧
    BitVec.extractLsb' (n := 16) 0 2 ((0 : BitVec 14) ++ x) = x :=
  ⟨BitVec.extractLsb'_append_eq_left, BitVec.extractLsb'_append_eq_right⟩

theorem count_fields (x : BitVec 6) : BitVec.extractLsb' (n := 16) 6 10 ((0 : BitVec 10) ++ x) = 0 ∧
    BitVec.extractLsb' (n := 16) 0 6 ((0 : BitVec 10) ++ x) = x :=
  ⟨BitVec.extractLsb'_append_eq_left, BitVec.extractLsb'_append_eq_right⟩

theorem tag_fields (kind prio : BitVec 4) : BitVec.extractLsb' (n := 16) 8 8 ((0 : BitVec 8) ++ kind ++ prio) = 0 ∧
    BitVec.extractLsb' (n := 16) 0 4 ((0 : BitVec 8) ++ kind ++ prio) = prio ∧
    BitVec.extractLsb' (n := 16) 4 4 ((0 : BitVec 8) ++ kind ++ prio) = kind :=
  ⟨(extractLsb'_append_high _ prio 4 8 rfl).trans BitVec.extractLsb'_append_eq_left, BitVec.extractLsb'_append_eq_right,
    (extractLsb'_append_high ((0 : BitVec 8) ++ kind) prio 0 4 rfl).trans BitVec.extractLsb'_append_eq_right⟩

theorem assist_fields (lane : BitVec 2) (rest : BitVec 14) : BitVec.extractLsb' (n := 16) 14 2 (lane ++ rest) = lane ∧
    BitVec.extractLsb' (n := 16) 0 14 (lane ++ rest) = rest :=
  ⟨BitVec.extractLsb'_append_eq_left, BitVec.extractLsb'_append_eq_right⟩

theorem hsync_fields (x : BitVec 2) : BitVec.extractLsb' (n := 14) 2 12 ((0 : BitVec 12) ++ x) = 0 ∧
    BitVec.extractLsb' (n := 14) 0 2 ((0 : BitVec 12) ++ x) = x :=
  ⟨BitVec.extractLsb'_append_eq_left, BitVec.extractLsb'_append_eq_right⟩

theorem stmode_fields (n : BitVec 4) (m : BitVec 2) :
    BitVec.extractLsb' (n := 14) 8 6 ((0 : BitVec 6) ++ n ++ (0 : BitVec 2) ++ m) = 0 ∧
    BitVec.extractLsb' (n := 14) 2 2 ((0 : BitVec 6) ++ n ++ (0 : BitVec 2) ++ m) = 0 ∧
    BitVec.extractLsb' (n := 14) 0 2 ((0 : BitVec 6) ++ n ++ (0 : BitVec 2) ++ m) = m ∧
    BitVec.extractLsb' (n := 14) 4 4 ((0 : BitVec 6) ++ n ++ (0 : BitVec 2) ++ m) = n := by
  revert n m
  decide

theorem bit_fields (b : Bool) : BitVec.extractLsb' (n := 14) 1 13 ((0 : BitVec 13) ++ BitVec.ofBool b) = 0 ∧
    BitVec.getLsbD (w := 14) ((0 : BitVec 13) ++ BitVec.ofBool b) 0 = b := by
  revert b
  decide

theorem tstamp_fields (pop low : Bool) :
    BitVec.extractLsb' (n := 16) 2 14 ((0 : BitVec 14) ++ BitVec.ofBool pop ++ BitVec.ofBool low) = 0 ∧
    BitVec.getLsbD (w := 16) ((0 : BitVec 14) ++ BitVec.ofBool pop ++ BitVec.ofBool low) 0 = low ∧
    BitVec.getLsbD (w := 16) ((0 : BitVec 14) ++ BitVec.ofBool pop ++ BitVec.ofBool low) 1 = pop := by
  revert pop low
  decide

/-- F with one bit in use, and the same with the bit of TPULL. -/
theorem flag_fields (b : Bool) : BitVec.extractLsb' (n := 4) 1 3 ((0 : BitVec 3) ++ BitVec.ofBool b) = 0 ∧
    BitVec.extractLsb' (n := 4) 2 2 ((0 : BitVec 3) ++ BitVec.ofBool b) = 0 ∧
    BitVec.getLsbD (w := 4) ((0 : BitVec 3) ++ BitVec.ofBool b) 0 = b ∧
    BitVec.getLsbD (w := 4) ((0 : BitVec 3) ++ BitVec.ofBool b) 1 = false ∧
    BitVec.extractLsb' (n := 4) 2 2 ((1 : BitVec 3) ++ BitVec.ofBool b) = 0 ∧
    BitVec.getLsbD (w := 4) ((1 : BitVec 3) ++ BitVec.ofBool b) 0 = b ∧
    BitVec.getLsbD (w := 4) ((1 : BitVec 3) ++ BitVec.ofBool b) 1 = true := by
  revert b
  decide

theorem lane_fields (l : BitVec 2) : BitVec.extractLsb' (n := 4) 2 2 ((0 : BitVec 2) ++ l) = 0 ∧
    BitVec.extractLsb' (n := 4) 0 2 ((0 : BitVec 2) ++ l) = l :=
  ⟨BitVec.extractLsb'_append_eq_left, BitVec.extractLsb'_append_eq_right⟩

theorem waite_fields (timed : Bool) (l : BitVec 2) :
    BitVec.getLsbD (w := 4) (BitVec.ofBool timed ++ (0 : BitVec 1) ++ l) 2 = false ∧
    BitVec.getLsbD (w := 4) (BitVec.ofBool timed ++ (0 : BitVec 1) ++ l) 3 = timed ∧
    BitVec.extractLsb' (n := 4) 0 2 (BitVec.ofBool timed ++ (0 : BitVec 1) ++ l) = l := by
  revert timed l
  decide

theorem push_fields (e s : Bool) :
    BitVec.extractLsb' (n := 4) 2 2 ((0 : BitVec 2) ++ BitVec.ofBool e ++ BitVec.ofBool s) = 0 ∧
    BitVec.getLsbD (w := 4) ((0 : BitVec 2) ++ BitVec.ofBool e ++ BitVec.ofBool s) 0 = s ∧
    BitVec.getLsbD (w := 4) ((0 : BitVec 2) ++ BitVec.ofBool e ++ BitVec.ofBool s) 1 = e := by
  revert e s
  decide

/-- The word of a pin-engine instruction spells it: one word per branch of the encoder. -/
theorem decodePinWord_of_encode {i : Instr} {w : Word} (h : encodePinWord i = some w) :
    ∃ ch, decodePinWord ch w = i := by
  unfold encodePinWord at h
  split at h
  all_goals cases h
  all_goals
    simp only [assistWord, decodePinWord, pinFields_pinWord, BitVec.reduceToNat, decodePin, decodeAssist, target_fields,
      pair_fields, count_fields, tag_fields, assist_fields, hsync_fields, stmode_fields, bit_fields, tstamp_fields,
      flag_fields, lane_fields, waite_fields, push_fields]
    exact ⟨_, rfl⟩

/-! The same parts put together again: what a legal word leaves out is 0. -/

theorem target_join {x : BitVec 16} (h : x.extractLsb' 10 6 = 0) : (0 : BitVec 6) ++ x.extractLsb' 0 10 = x := by
  rw [← h]
  exact BitVec.extractLsb'_append_extractLsb' (w := 6) (len := 10)

theorem pair_join {x : BitVec 16} (h : x.extractLsb' 2 14 = 0) : (0 : BitVec 14) ++ x.extractLsb' 0 2 = x := by
  rw [← h]
  exact BitVec.extractLsb'_append_extractLsb' (w := 14) (len := 2)

theorem count_join {x : BitVec 16} (h : x.extractLsb' 6 10 = 0) : (0 : BitVec 10) ++ x.extractLsb' 0 6 = x := by
  rw [← h]
  exact BitVec.extractLsb'_append_extractLsb' (w := 10) (len := 6)

theorem tag_join {x : BitVec 16} (h : x.extractLsb' 8 8 = 0) :
    (0 : BitVec 8) ++ x.extractLsb' 4 4 ++ x.extractLsb' 0 4 = x := by
  rw [← h, extractLsb'_join x 4 4 8 8 rfl, extractLsb'_join x 0 4 4 (8 + 4) rfl]
  exact BitVec.extractLsb'_eq_self

theorem tstamp_join {x : BitVec 16} (h : x.extractLsb' 2 14 = 0) :
    (0 : BitVec 14) ++ BitVec.ofBool (x.getLsbD 1) ++ BitVec.ofBool (x.getLsbD 0) = x := by
  rw [← h, ofBool_getLsbD, ofBool_getLsbD, extractLsb'_join x 1 1 2 14 rfl, extractLsb'_join x 0 1 1 (14 + 1) rfl]
  exact BitVec.extractLsb'_eq_self

theorem assist_join (x : BitVec 16) : x.extractLsb' 14 2 ++ x.extractLsb' 0 14 = x :=
  BitVec.extractLsb'_append_extractLsb' (w := 2) (len := 14)

theorem hsync_join {x : BitVec 14} (h : x.extractLsb' 2 12 = 0) : (0 : BitVec 12) ++ x.extractLsb' 0 2 = x := by
  rw [← h]
  exact BitVec.extractLsb'_append_extractLsb' (w := 12) (len := 2)

theorem bit_join {x : BitVec 14} (h : x.extractLsb' 1 13 = 0) : (0 : BitVec 13) ++ BitVec.ofBool (x.getLsbD 0) = x := by
  rw [← h, ofBool_getLsbD]
  exact BitVec.extractLsb'_append_extractLsb' (w := 13) (len := 1)

theorem stmode_join {x : BitVec 14} (hhigh : x.extractLsb' 8 6 = 0) (hmid : x.extractLsb' 2 2 = 0) :
    (0 : BitVec 6) ++ x.extractLsb' 4 4 ++ (0 : BitVec 2) ++ x.extractLsb' 0 2 = x := by
  rw [← hhigh, ← hmid, extractLsb'_join x 4 4 8 6 rfl, extractLsb'_join x 2 2 4 (6 + 4) rfl,
    extractLsb'_join x 0 2 2 (6 + 4 + 2) rfl]
  exact BitVec.extractLsb'_eq_self

theorem flag_join : ∀ {x : BitVec 4}, x.extractLsb' 1 3 = 0 → (0 : BitVec 3) ++ BitVec.ofBool (x.getLsbD 0) = x := by
  decide

theorem pull_join : ∀ {x : BitVec 4}, x.extractLsb' 2 2 = 0 → x.getLsbD 1 = false →
    (0 : BitVec 3) ++ BitVec.ofBool (x.getLsbD 0) = x := by
  decide

theorem tpull_join : ∀ {x : BitVec 4}, x.extractLsb' 2 2 = 0 → x.getLsbD 1 = true →
    (1 : BitVec 3) ++ BitVec.ofBool (x.getLsbD 0) = x := by
  decide

theorem lane_join {x : BitVec 4} (h : x.extractLsb' 2 2 = 0) : (0 : BitVec 2) ++ x.extractLsb' 0 2 = x := by
  rw [← h]
  exact BitVec.extractLsb'_append_extractLsb' (w := 2) (len := 2)

theorem push_join : ∀ {x : BitVec 4}, x.extractLsb' 2 2 = 0 →
    (0 : BitVec 2) ++ BitVec.ofBool (x.getLsbD 1) ++ BitVec.ofBool (x.getLsbD 0) = x := by
  decide

theorem waite_join : ∀ {x : BitVec 4}, x.getLsbD 2 = false →
    BitVec.ofBool (x.getLsbD 3) ++ (0 : BitVec 1) ++ x.extractLsb' 0 2 = x := by
  decide

/-- What an assist function's fields spell is written as the word with these fields. -/
theorem encodePinWord_of_decodeAssist {ch : Chan} {op : Nat} {dd ds : BitVec 3} {f : BitVec 4} {imm : BitVec 16} {i : Instr}
    (h : decodeAssist ch ⟨op, dd, ds, f, imm⟩ = some i) : encodePinWord i = some (pinWord 0x1E dd ds f imm) := by
  obtain ⟨lane, rest, rfl⟩ : ∃ (lane : BitVec 2) (rest : BitVec 14), imm = lane ++ rest :=
    ⟨_, _, (assist_join imm).symm⟩
  have hf (n : Nat) (hn : f.toNat = n) : f = BitVec.ofNat 4 n := by rw [← hn, BitVec.ofNat_toNat, BitVec.setWidth_eq]
  simp only [decodeAssist, assist_fields] at h
  split at h
  case isTrue => cases h
  rename_i hds
  split at h
  case h_11 => cases h
  all_goals
    rename_i hfn
    obtain ⟨hc, rfl⟩ := onlyIf_eq_some.mp h
    simp only [Bool.and_eq_true, beq_iff_eq, not_not, ne_eq] at hc hds
    simp only [encodePinWord, assistWord, hf _ hfn, hds, hc, stmode_join, hsync_join, bit_join]
    rfl

/-- What the fields of a pin-engine word spell is written as the word with these fields. -/
theorem encodePinWord_of_decodePin {ch : Chan} {op : Nat} {dd ds : BitVec 3} {f : BitVec 4} {imm : BitVec 16} {i : Instr}
    (h : decodePin ch ⟨op, dd, ds, f, imm⟩ = some i) :
    encodePinWord i = some (pinWord (BitVec.ofNat 6 op) dd ds f imm) := by
  unfold decodePin at h
  dsimp only at h
  split at h
  case h_28 => cases h
  case h_24 => exact encodePinWord_of_decodeAssist h
  case h_1 =>
    split at h
    case isTrue hf =>
      obtain ⟨hc, rfl⟩ := onlyIf_eq_some.mp h
      simp only [beq_iff_eq] at hc
      simp only [encodePinWord, hf, hc]
      rfl
    split at h
    case isTrue hf =>
      obtain ⟨hc, rfl⟩ := onlyIf_eq_some.mp h
      simp only [beq_iff_eq] at hc
      simp only [encodePinWord, hf, hc]
      rfl
    cases h
  case h_19 =>
    split at h
    case isTrue hf =>
      obtain ⟨hc, rfl⟩ := onlyIf_eq_some.mp h
      simp only [Bool.and_eq_true, beq_iff_eq] at hc
      simp only [encodePinWord, hf, hc, tpull_join]
      rfl
    case isFalse hf =>
      obtain ⟨hc, rfl⟩ := onlyIf_eq_some.mp h
      simp only [Bool.and_eq_true, beq_iff_eq] at hc
      simp only [Bool.not_eq_true] at hf
      simp only [encodePinWord, hf, hc, pull_join]
      rfl
  all_goals
    obtain ⟨hc, rfl⟩ := onlyIf_eq_some.mp h
    simp only [Bool.and_eq_true, beq_iff_eq, Bool.not_eq_true'] at hc
    simp only [encodePinWord, hc, target_join, pair_join, count_join, tag_join, tstamp_join, flag_join, lane_join,
      push_join, waite_join]
    rfl

theorem isSome_onlyIf (b : Bool) (i : Instr) : (onlyIf b i).isSome = b := by
  cases b <;> rfl

/-- Whether fields spell an instruction does not turn on the channel it is for. -/
theorem isSome_decodePin (ch : Chan) (p : PinFields) : (decodePin ch p).isSome = (decodePin 0 p).isSome := by
  have hassist (p : PinFields) : (decodeAssist ch p).isSome = (decodeAssist 0 p).isSome := by
    simp only [decodeAssist]
    split
    · rfl
    · split <;> simp only [isSome_onlyIf]
  unfold decodePin
  dsimp only
  split
  case h_24 => exact hassist p
  all_goals simp only [isSome_onlyIf, apply_ite Option.isSome]

/-- A legal pin-engine word spells an instruction, and no other word spells it. -/
theorem encodePinWord_of_pinWordOk (ch : Chan) {w : Word} (h : pinWordOk w = true) :
    encodePinWord (decodePinWord ch w) = some w := by
  have hsome : (decodePin ch (pinFields w)).isSome := by
    obtain ⟨i, hi, -⟩ := (Option.any_eq_true _ _).mp h
    rw [isSome_decodePin, hi, Option.isSome_some]
  obtain ⟨i, hi⟩ := Option.isSome_iff_exists.mp hsome
  rw [decodePinWord, hi, Option.getD_some]
  exact (encodePinWord_of_decodePin hi).trans (congrArg some (pinWord_of_pinFields w))

/-- Settles O9: the address check comes before any access; the decoders and encoders are tables that invert each other. -/
theorem instructionFaults : Obligations.InstructionFaults := by
  unfold Obligations.InstructionFaults
  refine ⟨?_, fun w => wordOk_of_no_opcode, fun i w => decodeThreadWord_of_encode, fun t w => encodeThreadWord_of_wordOk t,
    fun i w => decodePinWord_of_encode, fun ch w => encodePinWord_of_pinWordOk ch⟩
  intro s t m o ea th fault hop hq hlim
  refine ⟨fun hi hal => ?_, fun hi hal => ?_, fun hi hal => ?_, fun hi hal => ?_⟩
  · exact congrArg _ ((valueInstr_misaligned hop hq hlim hi hal).trans (threadFault_issuing hi.1 _))
  · exact congrArg _ ((valueInstr_misaligned hop hq hlim hi hal).trans (threadFault_issuing hi.1 _))
  · exact congrArg _ ((storeInstr_misaligned hop hq hlim hi hal).trans (threadFault_issuing hi.1 _))
  · exact congrArg _ ((storeInstr_misaligned hop hq hlim hi hal).trans (threadFault_issuing hi.1 _))

end Sys2Proof.Machine

/-!
PROOFS. A reload that is requested while one runs.
-/

namespace Sys2Proof.Machine

theorem requestReload_of_reloading {s : State} (h : s.reloading = true) (source : Nat) (straps : Byte) (hold : Bool)
    (lc : BitVec 3) : s.requestReload source straps hold lc = s.raise F.bootHstat_HERR := by
  rw [State.requestReload, if_pos h, State.resetIgnored]

/-- The state after cold reset with a reload that waits for a response of the system master port. -/
def resetReloadDue : State := { State.reset with soc := { State.reset.soc with due := some (.reload 0 0 false 1) } }

theorem resetReloadDue_reloading : resetReloadDue.reloading = true := rfl

/-- Refutes O49: a request for a reload while one is due sets HERR as an event of its cycle, which a clear of that cycle
leaves (R10); the statement's `State.setFld` sets the bit and notes no event. -/
theorem not_coldResetAndReload : ¬ Obligations.ColdResetAndReload := by
  unfold Obligations.ColdResetAndReload
  intro h
  obtain ⟨-, hrequests⟩ := h
  obtain ⟨-, -, -, -, -, -, -, -, hsource⟩ := hrequests resetReloadDue 0 false 1
  obtain ⟨hignored, -, -⟩ := hsource 0 (by decide)
  have hstate : resetReloadDue.raise F.bootHstat_HERR = resetReloadDue.setFld F.bootHstat_HERR 1 :=
    (requestReload_of_reloading resetReloadDue_reloading 0 0 false 1).symm.trans (hignored resetReloadDue_reloading)
  have hnoted := raise_noted resetReloadDue F.bootHstat_HERR 0 0
  rw [hstate] at hnoted
  exact absurd hnoted (by decide)

end Sys2Proof.Machine

/-!
PROOFS. Branches and delay slots of threads.
-/

namespace Sys2Proof.Machine

/-! ## Conditions (R80, R81) -/

/-- The conditions of GO.cc as a table. -/
theorem condHolds_eq (f : Word) (k : BitVec 4) :
    condHolds f k = [true, f.getLsbD 2, !f.getLsbD 2, f.getLsbD 3, !f.getLsbD 3, f.getLsbD 1, !f.getLsbD 1, f.getLsbD 0,
      !f.getLsbD 0, f.getLsbD 1 && !f.getLsbD 2, !f.getLsbD 1 || f.getLsbD 2, f.getLsbD 3 == f.getLsbD 0,
      f.getLsbD 3 != f.getLsbD 0, !f.getLsbD 2 && (f.getLsbD 3 == f.getLsbD 0), f.getLsbD 2 || (f.getLsbD 3 != f.getLsbD 0),
      false].getD k.toNat false := by
  obtain ⟨n, hn⟩ := k
  interval_cases n <;> rfl

/-- The relations of CGO.A and CGO.X as a table. -/
theorem relHolds_eq (a b : Word) (k : BitVec 3) :
    relHolds k a b = [a == b, a != b, a.slt b, b.sle a, a.ult b, b.ule a, a.getLsbD (b.toNat % 32),
      !a.getLsbD (b.toNat % 32)].getD k.toNat false := by
  obtain ⟨n, hn⟩ := k
  interval_cases n <;> rfl

/-! ## Branches (R46, R83) -/

/-- A branch instruction outside a delay slot issues with the registers that it reads. -/
theorem issue_branch {s : State} {t : Tid} {legal : Bool} {regs : BitVec 4} {f : State → State}
    (hslot : (s.thr t).slot = none) (hi : s.issues t regs) (hl : legal = true) :
    s.issue t ((s.thr t).outsideSlot && legal) regs false false f = f (s.issuing t) :=
  issue_runs s t _ regs false false f hi (by simp [Thread.outsideSlot, hslot, hl]) (by simp) rfl

/-! ## Delay slots (R46, R47) -/

/-- The slot of an untaken annulling branch is discarded, whatever instruction stands in it. -/
theorem issue_discards {s : State} {t : Tid} {legal : Bool} {regs : BitVec 4} {far stall : Bool} {f : State → State}
    (hr : s.ready t = true) (hd : (s.thr t).discards = true) :
    s.issue t legal regs far stall f = (s.issuing t).setThr t (s.thr t).retire := by
  simp only [State.issue, hr, hd, Bool.not_true, Bool.false_eq_true, if_false, if_true]
  rfl

theorem retire_of_slot {th : Thread} {d : DelaySlot} (h : th.slot = some d) :
    th.retire = { th with pc := if d.taken then d.target else d.next, slot := none, slotSlept := false } := by
  rw [Thread.retire, h]

theorem discards_of_slot {th : Thread} {d : DelaySlot} (h : th.slot = some d) : th.discards = (d.annul && !d.taken) := by
  rw [Thread.discards, h]

/-- Settles O13: a branch resolves by `State.resolveBranch`; the next instruction takes PC to the outcome in the slot. -/
theorem branchesAndDelaySlots : Obligations.BranchesAndDelaySlots := by
  unfold Obligations.BranchesAndDelaySlots
  refine ⟨⟨condHolds_eq, fun a b k => relHolds_eq a b k⟩, ?_, ?_⟩
  · intro s t annul th capable slot branch target hslot
    refine ⟨fun cond disp hc hi => ?_, fun disp hi => ?_, fun m o ea hi hop hal => ?_, fun rel imm disp => ?_⟩
    · exact congrArg _ (issue_branch hslot hi (bne_iff_ne.mpr hc))
    · exact congrArg _ (issue_branch hslot hi rfl)
    · have hlegal : addressLegal (s.thr t) m o = true := by rw [addressLegal, hop]
      have hea : eaOf (s.thr t) m o = ea := by rw [eaOf, hop]
      refine congrArg _ ((issue_branch hslot hi hlegal).trans ?_)
      simp only [thr_issuing, hea, aligned, hal, beq_self_eq_true, Bool.not_true, Bool.false_eq_true, if_false]
      rfl
    · intro go
      refine ⟨fun hi => ?_, fun hi => ?_, fun hi => ?_, fun hi => ?_⟩
      · exact congrArg _ (issue_branch hslot hi rfl)
      · exact congrArg _ (issue_branch hslot hi rfl)
      · exact congrArg _ (issue_branch hslot hi rfl)
      · exact congrArg _ (issue_branch hslot hi rfl)
  · intro s t target next annul th at_
    refine ⟨fun hs hi => ?_, fun hs hi => ?_, fun hs hr => ?_⟩
    · exact congrArg _ ((issue_runs s t _ _ _ _ _ hi rfl (by simp) rfl).trans
        (congrArg ((s.issuing t).setThr t) (retire_of_slot hs)))
    · exact congrArg _ ((issue_runs s t _ _ _ _ _ hi rfl (by simp) rfl).trans
        (congrArg ((s.issuing t).setThr t) (retire_of_slot hs)))
    · have hd : (s.thr t).discards = true := discards_of_slot hs
      have hslot : (s.issuing t).setThr t (s.thr t).retire = at_ next := congrArg _ (retire_of_slot hs)
      refine ⟨?_, fun m o => ?_, fun m o => ?_, fun m o => ?_⟩
      · exact congrArg _ ((issue_discards hr hd).trans hslot)
      · exact congrArg _ ((issue_discards hr hd).trans hslot)
      · exact congrArg _ ((issue_discards hr hd).trans hslot)
      · exact congrArg _ ((issue_discards hr hd).trans hslot)

end Sys2Proof.Machine

/-!
PROOFS. Queue instructions of threads at a queue of their own block.
-/

namespace Sys2Proof.Machine

/-! ## The access of a queue instruction (R85 to R87, R185) -/

theorem queueOperand_setWidth (o : BitVec 23) : queueOperand ((o.setWidth 32).setWidth 23) = queueOperand o := by
  rw [BitVec.setWidth_setWidth_of_le _ (by decide), BitVec.setWidth_eq]

/-- A queue operand names no shared bank. -/
theorem waitsAtBank_operand (s : State) (t : Tid) (o : BitVec 23) (e : FarEntry) (ha : e.addr = o.setWidth 32) :
    s.waitsAtBank t e = false := by
  have hlow : e.addr.toNat < 0x02000000 := by
    rw [ha, BitVec.toNat_setWidth]
    omega
  have hbank (b : BankId) (g : Nat) : regionOf (coreOf t) e.addr ≠ .bank b g := by
    unfold regionOf
    grind
  unfold State.waitsAtBank
  split
  · exact absurd ‹_› (hbank _ _)
  · rfl

/-- The thread and its core have nothing on its way: a device access may be made at once. -/
def State.idleFar (s : State) (t : Tid) : Prop :=
  (s.thr t).far = [] ∧ (s.core (coreOf t)).sbuf = [] ∧ (s.core (coreOf t)).inflight = []

theorem deviceBefore_of_idleFar {s : State} {t : Tid} (h : s.idleFar t) (seq : Nat) : s.deviceBefore t seq = false := by
  obtain ⟨hfar, hbuf, hfly⟩ := h
  simp [State.deviceBefore, Thread.olderFar, State.olderStores, hfar, hbuf, hfly]

theorem maySend_read {s : State} {t : Tid} (h : s.idleFar t) {e : FarEntry} (hop : e.op = .queueRead) :
    s.maySend t e = true := by
  have hdev := deviceBefore_of_idleFar h e.seq
  obtain ⟨hfar, -, -⟩ := h
  simp [State.maySend, hop, hdev, Thread.olderFar, hfar]

theorem maySend_push {s : State} {t : Tid} (h : s.idleFar t) {e : FarEntry} {end_ : Bool} (hop : e.op = .queuePush end_) :
    s.maySend t e = true := by
  have hdev := deviceBefore_of_idleFar h e.seq
  obtain ⟨hfar, hbuf, hfly⟩ := h
  simp [State.maySend, hop, hdev, Thread.olderFar, State.olderStores, hfar, hbuf, hfly]

theorem whenOn_of_on {s : State} {d : Nat} (h : (s.dom d).st = .on) (f : State → Tried × State) : s.whenOn d f = f s := by
  rw [State.whenOn, h, if_pos (by decide)]

theorem coverPush_of_ne {s : State} {t : Tid} {q : Qid} {a : PushAns} (h : a ≠ .ok) : s.coverPush t q a = s := by
  simp [State.coverPush, h]

theorem startBlocking_of_done {s x : State} {t : Tid} {e : FarEntry} {r : FarResp} (h : s.tryFar t e = (.done r, x)) :
    s.startBlocking t e = x.addFar t { e with resp := some r } := by
  simp only [State.startBlocking, h]

theorem startBlocking_of_slept {s x : State} {t : Tid} {e : FarEntry} (h : s.tryFar t e = (.slept, x)) :
    s.startBlocking t e = x := by
  simp only [State.startBlocking, h]

/-- The entry that an instruction of a thread takes as it issues, with what has answered it. -/
def State.issueEntry (s : State) (t : Tid) (op : FarOp) (addr : Word) (blocking : Bool) (r : Option FarResp) : FarEntry :=
  ⟨op, addr, (s.thr t).pc, (s.thr t).a, (s.thr t).x, (s.thr t).y, (s.thr t).rm, s.seq + 1, blocking, false, r⟩

theorem newEntry_begun (s : State) (t : Tid) (op : FarOp) (addr : Word) (blocking : Bool) :
    ((s.issuing t).endRunAhead t).newEntry t op addr blocking = s.issueEntry t op addr blocking none := by
  simp [State.newEntry, State.endRunAhead, State.issueEntry]

theorem idleFar_begun {s : State} {t : Tid} (h : s.idleFar t) : ((s.issuing t).endRunAhead t).idleFar t := by
  obtain ⟨hfar, hbuf, hfly⟩ := h
  refine ⟨?_, hbuf, hfly⟩
  simp [State.endRunAhead, hfar]

/-! ## Queue reads (R85, R87) -/

theorem tryRead_item {s x : State} {t : Tid} {e : FarEntry} {q : Qid} {i : BitVec 64} {w : QWord}
    (hq : s.queueNamed (queueOperand (e.addr.setWidth 23)) e.x = (s.node, q))
    (hon : (s.dom (quadDomain (quadrantOf q))).st = .on)
    (hmay : s.mayRead t q = true) (hmir : s.bit F.qeQcfg_MIRRORED q.toNat = false)
    (hpop : s.popItem q (.thread t) = (some (i, w), x)) :
    s.tryRead t e = (.done (.item (itemPayload i) (itemTag i)), x) := by
  simp [State.tryRead, hq, whenOn_of_on hon, hmay, hmir, hpop]

theorem tryRead_none {s x : State} {t : Tid} {e : FarEntry} {q : Qid}
    (hq : s.queueNamed (queueOperand (e.addr.setWidth 23)) e.x = (s.node, q))
    (hon : (s.dom (quadDomain (quadrantOf q))).st = .on)
    (hmay : s.mayRead t q = true) (hmir : s.bit F.qeQcfg_MIRRORED q.toNat = false)
    (hpop : s.popItem q (.thread t) = (none, x)) :
    s.tryRead t e = if e.blocking then (.slept, x.putToSleep t .sleepQueue (.read q)) else (.done .empty, x) := by
  simp [State.tryRead, hq, whenOn_of_on hon, hmay, hmir, hpop]

/-! ## Pushes (R86, R87, R202) -/

/-- A push at a queue whose quadrant is on and holds nothing of the owner is decided there. -/
theorem push_of_on {s : State} {q : Qid} {o : BitVec 12}
    (hheld : (s.quad (quadrantOf q)).held.any (fun h => h.owner == o) = false)
    (hon : (s.dom (quadDomain (quadrantOf q))).st = .on) (item : BitVec 64) (role : Word) :
    s.push q item o role = s.pushItem q item o role := by
  simp only [State.push, hheld, hon, Bool.false_eq_true, if_false, if_true]

/-- The item that a push instruction sends. -/
def FarEntry.pushed (e : FarEntry) (t : Tid) (end_ : Bool) : BitVec 64 :=
  let o := queueOperand (e.addr.setWidth 23)
  mkItem end_ o.prio o.kind (senderThread t) e.a

/-- A decided push answers its status, or the thread of a blocking one sleeps for what refused it. -/
theorem tryPush_of_push {s x : State} {t : Tid} {e : FarEntry} {q : Qid} {end_ : Bool} {a : PushAns}
    (hq : s.queueNamed (queueOperand (e.addr.setWidth 23)) e.x = (s.node, q))
    (hpush : s.push q (e.pushed t end_) (ownerThread t) e.y = (a, x)) (hlater : a ≠ .later) (hheld : a ≠ .held) :
    s.tryPush t e end_ =
      if e.blocking && (a == .full || a == .poolFull || a == .over) then (.slept, x.pushSleep t q a)
      else (.done (.pushed a.code), (if e.blocking then x.dropWaiter (ownerThread t) else x).coverPush t q a) := by
  rw [FarEntry.pushed] at hpush
  simp only [State.tryPush, hq, hpush, ne_eq, not_true_eq_false, if_false]

/-! ## Queue instructions -/

/-- A thread with nothing on its way runs a queue instruction on a queue of its own block in a quadrant that is on. -/
def State.queueReady (s : State) (t : Tid) (o : BitVec 23) : Prop :=
  s.idleFar t ∧ (queueOperand o).ind = false ∧ (s.dom (quadDomain (quadrantOf (queueOperand o).qid))).st = .on

theorem queueInstr_runs {s : State} {t : Tid} {o : BitVec 23} {read : Bool} (op : FarOp) (blocking : Bool)
    (hfar : (s.thr t).far = []) (hi : s.issues t (queueRegs o read)) (hl : queueLegal 6 o read = true) :
    s.queueInstr t op read blocking 6 o =
      (let u := (s.issuing t).endRunAhead t
       let e := u.newEntry t op (o.setWidth 32) blocking
       if blocking then u.startBlocking t e else u.startFar t e) := by
  rw [State.queueInstr, issue_runs _ _ _ _ _ _ _ hi hl (by simp [hfar]) rfl]

theorem queueNamed_entry {s : State} {o : BitVec 23} (hind : (queueOperand o).ind = false) (x : Word) :
    s.queueNamed (queueOperand ((o.setWidth 32).setWidth 23)) x = (s.node, (queueOperand o).qid) := by
  rw [queueOperand_setWidth, State.queueNamed, hind, if_neg Bool.false_ne_true]

theorem tryFar_read {s : State} {t : Tid} {o : BitVec 23} {e : FarEntry} (h : s.idleFar t) (ha : e.addr = o.setWidth 32)
    (hop : e.op = .queueRead) : s.tryFar t e = s.tryRead t e := by
  simp only [State.tryFar, waitsAtBank_operand s t o e ha, maySend_read h hop, hop]
  rfl

theorem tryFar_push {s : State} {t : Tid} {o : BitVec 23} {e : FarEntry} {end_ : Bool} (h : s.idleFar t)
    (ha : e.addr = o.setWidth 32) (hop : e.op = .queuePush end_) : s.tryFar t e = s.tryPush t e end_ := by
  simp only [State.tryFar, waitsAtBank_operand s t o e ha, maySend_push h hop, hop]
  rfl

/-- A queue instruction that is answered at its issue. -/
theorem queueInstr_of_done {s x : State} {t : Tid} {o : BitVec 23} {op : FarOp} {read blocking : Bool} {r : FarResp}
    (hfar : (s.thr t).far = []) (hi : s.issues t (queueRegs o read)) (hl : queueLegal 6 o read = true)
    (htry : ((s.issuing t).endRunAhead t).tryFar t (s.issueEntry t op (o.setWidth 32) blocking none) = (.done r, x)) :
    s.queueInstr t op read blocking 6 o =
      if blocking then x.addFar t (s.issueEntry t op (o.setWidth 32) true (some r))
      else x.passFar t (s.issueEntry t op (o.setWidth 32) false (some r)) := by
  simp only [queueInstr_runs op blocking hfar hi hl, newEntry_begun, startFar_of_done htry, startBlocking_of_done htry]
  cases blocking <;> rfl

/-- A blocking queue instruction whose thread falls asleep at its issue. -/
theorem queueInstr_of_slept {s x : State} {t : Tid} {o : BitVec 23} {op : FarOp} {read : Bool}
    (hfar : (s.thr t).far = []) (hi : s.issues t (queueRegs o read)) (hl : queueLegal 6 o read = true)
    (htry : ((s.issuing t).endRunAhead t).tryFar t (s.issueEntry t op (o.setWidth 32) true none) = (.slept, x)) :
    s.queueInstr t op read true 6 o = x := by
  simp only [queueInstr_runs op true hfar hi hl, newEntry_begun, startBlocking_of_slept htry, if_true]

theorem putToSleep_running {s : State} {t : Tid} (h : (s.thr t).st = .running) (st : ThreadState) (why : Sleep) :
    s.putToSleep t st why = s.bump.setThr t { s.thr t with st := st, sleep := why, sleepSeq := s.seq + 1 } := by
  have hst : ((s.bump.thr t).st == ThreadState.stopping) = false := by
    rw [show s.bump.thr t = s.thr t from rfl, h]
    rfl
  simp only [State.putToSleep, hst, Bool.false_eq_true, if_false]
  rfl

theorem queueLegal_read {o : BitVec 23} (hind : (queueOperand o).ind = false) (hkind : (queueOperand o).kind = 0)
    (hprio : (queueOperand o).prio = 0) : queueLegal 6 o true = true := by
  simp [queueLegal, hind, hkind, hprio]

theorem queueLegal_push {o : BitVec 23} (hind : (queueOperand o).ind = false) : queueLegal 6 o false = true := by
  simp [queueLegal, hind]

/-- A push instruction's own issue decides its push. -/
theorem tryFar_begun_push {s x : State} {t : Tid} {o : BitVec 23} (h : s.queueReady t o) (end_ blocking : Bool) {a : PushAns}
    (hfree : (s.quad (quadrantOf (queueOperand o).qid)).held.any (fun h => h.owner == ownerThread t) = false)
    (hpush : ((s.issuing t).endRunAhead t).pushItem (queueOperand o).qid (mkItem end_ (queueOperand o).prio (queueOperand o).kind
      (senderThread t) (s.thr t).a) (ownerThread t) (s.thr t).y = (a, x)) (hlater : a ≠ .later) (hheld : a ≠ .held) :
    ((s.issuing t).endRunAhead t).tryFar t (s.issueEntry t (.queuePush end_) (o.setWidth 32) blocking none) =
      if blocking && (a == .full || a == .poolFull || a == .over) then (.slept, x.pushSleep t (queueOperand o).qid a)
      else (.done (.pushed a.code),
        (if blocking then x.dropWaiter (ownerThread t) else x).coverPush t (queueOperand o).qid a) := by
  obtain ⟨hidle, hind, hon⟩ := h
  rw [tryFar_push (idleFar_begun hidle) rfl rfl]
  refine tryPush_of_push (queueNamed_entry hind _) ?_ hlater hheld
  have hitem : (s.issueEntry t (.queuePush end_) (o.setWidth 32) blocking none).pushed t end_ =
      mkItem end_ (queueOperand o).prio (queueOperand o).kind (senderThread t) (s.thr t).a := by
    rw [FarEntry.pushed, State.issueEntry, queueOperand_setWidth]
  rw [push_of_on (s := (s.issuing t).endRunAhead t) hfree hon, hitem]
  exact hpush

/-- A push instruction whose push is answered. -/
theorem queueInstr_push_answered {s x : State} {t : Tid} {o : BitVec 23} (h : s.queueReady t o) (end_ blocking : Bool)
    {a : PushAns} (hi : s.issues t (queueRegs o false))
    (hfree : (s.quad (quadrantOf (queueOperand o).qid)).held.any (fun h => h.owner == ownerThread t) = false)
    (hpush : ((s.issuing t).endRunAhead t).pushItem (queueOperand o).qid (mkItem end_ (queueOperand o).prio (queueOperand o).kind
      (senderThread t) (s.thr t).a) (ownerThread t) (s.thr t).y = (a, x))
    (ha : a ∈ [.ok, .slagged, .disabled] ∨ blocking = false ∧ a ∈ [.full, .poolFull, .over]) :
    s.queueInstr t (.queuePush end_) false blocking 6 o =
      let u := (if blocking then x.dropWaiter (ownerThread t) else x).coverPush t (queueOperand o).qid a
      if blocking then u.addFar t (s.issueEntry t (.queuePush end_) (o.setWidth 32) true (some (.pushed a.code)))
      else u.passFar t (s.issueEntry t (.queuePush end_) (o.setWidth 32) false (some (.pushed a.code))) := by
  have hdone : (blocking && (a == .full || a == .poolFull || a == .over)) = false := by
    obtain ha | ⟨rfl, -⟩ := ha
    · fin_cases ha <;> exact Bool.and_false _
    · rfl
  have hne : a ≠ .later ∧ a ≠ .held := by
    obtain ha | ⟨-, ha⟩ := ha <;> fin_cases ha <;> decide
  obtain ⟨hlater, hheld⟩ := hne
  have ⟨⟨hfar, _, _⟩, hind, _⟩ := h
  refine queueInstr_of_done hfar hi (queueLegal_push hind) ?_
  rw [tryFar_begun_push h end_ blocking hfree hpush hlater hheld, hdone]
  rfl

/-- A push instruction whose push stores nothing, and which does not wait. -/
theorem queueInstr_push_refused {s x : State} {t : Tid} {o : BitVec 23} (h : s.queueReady t o) (end_ blocking : Bool)
    {a : PushAns} (hi : s.issues t (queueRegs o false))
    (hfree : (s.quad (quadrantOf (queueOperand o).qid)).held.any (fun h => h.owner == ownerThread t) = false)
    (hpush : ((s.issuing t).endRunAhead t).pushItem (queueOperand o).qid (mkItem end_ (queueOperand o).prio (queueOperand o).kind
      (senderThread t) (s.thr t).a) (ownerThread t) (s.thr t).y = (a, x))
    (ha : a ∈ [.slagged, .disabled] ∨ blocking = false ∧ a ∈ [.full, .poolFull, .over]) :
    s.queueInstr t (.queuePush end_) false blocking 6 o =
      if blocking then (x.dropWaiter (ownerThread t)).addFar t
        (s.issueEntry t (.queuePush end_) (o.setWidth 32) true (some (.pushed a.code)))
      else x.passFar t (s.issueEntry t (.queuePush end_) (o.setWidth 32) false (some (.pushed a.code))) := by
  have hne : a ≠ .ok := by
    obtain ha | ⟨-, ha⟩ := ha <;> fin_cases ha <;> decide
  rw [queueInstr_push_answered h end_ blocking hi hfree hpush (ha.imp_left (List.mem_cons_of_mem _)), coverPush_of_ne hne]
  cases blocking <;> rfl

theorem refused_code {a : PushAns} {code : BitVec 4}
    (h : (a, code) ∈ [(PushAns.full, (2 : BitVec 4)), (.poolFull, 3), (.over, 4)]) :
    a ∈ [PushAns.full, .poolFull, .over] ∧ a.code = code := by
  fin_cases h <;> exact ⟨by decide, rfl⟩

theorem diverted_code {a : PushAns} {code : BitVec 4} (h : (a, code) ∈ [(PushAns.slagged, (0 : BitVec 4)), (.disabled, 2)]) :
    a ∈ [PushAns.slagged, .disabled] ∧ a.code = code := by
  fin_cases h <;> exact ⟨by decide, rfl⟩

/-- A blocking push instruction whose push is refused. -/
theorem queueInstr_push_sleeps {s x : State} {t : Tid} {o : BitVec 23} (h : s.queueReady t o) (end_ : Bool)
    {a : PushAns} (hi : s.issues t (queueRegs o false))
    (hfree : (s.quad (quadrantOf (queueOperand o).qid)).held.any (fun h => h.owner == ownerThread t) = false)
    (hpush : ((s.issuing t).endRunAhead t).pushItem (queueOperand o).qid (mkItem end_ (queueOperand o).prio (queueOperand o).kind
      (senderThread t) (s.thr t).a) (ownerThread t) (s.thr t).y = (a, x))
    (ha : a ∈ [.full, .poolFull, .over]) :
    s.queueInstr t (.queuePush end_) false true 6 o = x.pushSleep t (queueOperand o).qid a := by
  have ⟨⟨hfar, _, _⟩, hind, _⟩ := h
  refine queueInstr_of_slept hfar hi (queueLegal_push hind) ?_
  rw [tryFar_begun_push h end_ true hfree hpush (by rintro rfl; simp at ha) (by rintro rfl; simp at ha)]
  fin_cases ha <;> rfl

/-- Settles O11: the instruction's own issue makes its access, and the queue's answer stands in its entry. -/
theorem queueInstructions : Obligations.QueueInstructions := by
  unfold Obligations.QueueInstructions
  intro s t o th q u entry pass stay item hfar hbuf hfly hind hon
  have hready : s.queueReady t o := ⟨⟨hfar, hbuf, hfly⟩, hind, hon⟩
  refine ⟨fun hi hkind hprio hmay hmir => ⟨fun i w x hpop => ?_, fun x hpop => ?_⟩, fun hi hfree => ⟨fun x hpush => ?_,
    fun x hpush => ?_, fun a code x ha => ⟨fun hpush => ?_, fun hpush => ?_⟩, fun a code x ha hpush => ?_⟩⟩
  · have hread (blocking : Bool) := (tryFar_read (idleFar_begun ⟨hfar, hbuf, hfly⟩)
      (e := s.issueEntry t .queueRead (o.setWidth 32) blocking none) rfl rfl).trans
        (tryRead_item (queueNamed_entry hind _) hon hmay hmir hpop)
    have hl := queueLegal_read hind hkind hprio
    exact ⟨congrArg _ (queueInstr_of_done hfar hi hl (hread false)), congrArg _ (queueInstr_of_done hfar hi hl (hread true))⟩
  · have hread (blocking : Bool) := (tryFar_read (idleFar_begun ⟨hfar, hbuf, hfly⟩)
      (e := s.issueEntry t .queueRead (o.setWidth 32) blocking none) rfl rfl).trans
        (tryRead_none (queueNamed_entry hind _) hon hmay hmir hpop)
    have hl := queueLegal_read hind hkind hprio
    exact ⟨congrArg _ (queueInstr_of_done hfar hi hl (hread false)), fun hrun =>
      congrArg _ ((queueInstr_of_slept hfar hi hl (hread true)).trans (putToSleep_running hrun _ _))⟩
  · exact ⟨congrArg _ (queueInstr_push_answered hready false false hi hfree hpush (.inl (by simp))),
      congrArg _ (queueInstr_push_answered hready false true hi hfree hpush (.inl (by simp)))⟩
  · exact ⟨congrArg _ (queueInstr_push_answered hready true false hi hfree hpush (.inl (by simp))),
      congrArg _ (queueInstr_push_answered hready true true hi hfree hpush (.inl (by simp)))⟩
  · obtain ⟨hmem, hcode⟩ := refused_code ha
    subst hcode
    exact ⟨congrArg _ (queueInstr_push_refused hready false false hi hfree hpush (.inr ⟨rfl, hmem⟩)),
      congrArg _ (queueInstr_push_sleeps hready false hi hfree hpush hmem)⟩
  · obtain ⟨hmem, hcode⟩ := refused_code ha
    subst hcode
    exact ⟨congrArg _ (queueInstr_push_refused hready true false hi hfree hpush (.inr ⟨rfl, hmem⟩)),
      congrArg _ (queueInstr_push_sleeps hready true hi hfree hpush hmem)⟩
  · obtain ⟨hmem, hcode⟩ := diverted_code ha
    subst hcode
    exact ⟨congrArg _ (queueInstr_push_refused hready false false hi hfree hpush (.inl hmem)),
      congrArg _ (queueInstr_push_refused hready false true hi hfree hpush (.inl hmem))⟩

end Sys2Proof.Machine

/-!
PROOFS. Lock instructions of threads on a word of the own core-local memory.
-/

namespace Sys2Proof.Machine

/-! ## The access of a lock instruction (R136, R138, R139) -/

/-- A lock's access may be made once nothing else of the thread is on its way. -/
theorem maySend_lock {s : State} {t : Tid} (hfar : (s.thr t).far = []) {e : FarEntry} (hop : e.op ∈ [.cas, .swap, .waitev]) :
    s.maySend t e = true := by
  have hnone : (s.thr t).unsentAt (coreOf t) (wordKey (coreOf t) e.addr) e.seq false = false := by
    simp [Thread.unsentAt, Thread.olderFar, hfar]
  unfold State.maySend
  split
  · simp [*] at hop
  · simp [*] at hop
  · simp [*] at hop
  · simp [Thread.olderFar, hfar, hnone]

/-- A lock of a word of the own core-local memory is one access. -/
theorem tryFar_lock {s : State} {t : Tid} (hfar : (s.thr t).far = []) {e : FarEntry} (hop : e.op ∈ [.cas, .swap, .waitev])
    {g : Nat} (hr : regionOf (coreOf t) e.addr = .core (coreOf t) g) (hon : (s.dom (coreDomain (coreOf t))).st = .on) :
    s.tryFar t e = s.lockWord t e g true := by
  have hlock : s.tryFar t e = s.tryLock t e := by
    unfold State.tryFar
    rw [maySend_lock hfar hop, Bool.not_true, Bool.and_false, if_neg Bool.false_ne_true]
    split
    · simp [*] at hop
    · simp [*] at hop
    · simp [*] at hop
    · rfl
  rw [hlock, State.tryLock, hr]
  exact whenOn_of_on hon _

/-- Core-local memory is not mirrored. -/
theorem mirroredAt_of_coreMem (s : State) {g : Nat} (h : g < 0x01800000) : s.mirroredAt g = false := by
  have hbank : bankOf? g = none := by
    rw [bankOf?, if_neg (by omega)]
  rw [State.mirroredAt, hbank]

theorem writeLock_of_coreMem (s : State) (t : Tid) {g : Nat} (h : g < 0x01800000) (v : Word) :
    s.writeLock t g v = (s.performWrite g 0xF v).dropRunAhead (coreOf t) g := by
  simp only [State.writeLock, State.writeMirrored, mirroredAt_of_coreMem _ h, Bool.false_eq_true, if_false]

theorem far_begun {s : State} {t : Tid} (h : (s.thr t).far = []) : (((s.issuing t).endRunAhead t).thr t).far = [] := by
  simp [State.endRunAhead, h]

section
variable {s u : State} {t : Tid} {e : FarEntry} {g : Nat}

/-- The word's own stores are performed first; the word stands for what they leave. -/
theorem lockWord_cas (hop : e.op = .cas) (hbad : s.badWord g = false) (hu : s.flushWord (coreOf t) g = u)
    (hrev : (u.thr t).revoked = []) :
    s.lockWord t e g true = if memWord u.mem g = e.a then (.done (.cas (memWord u.mem g) true 0), u.writeLock t g e.x)
      else (.done (.cas (memWord u.mem g) false 0), u) := by
  simp [State.lockWord, hop, hbad, hu, hrev]

theorem lockWord_swap (hop : e.op = .swap) (hbad : s.badWord g = false) (hu : s.flushWord (coreOf t) g = u) :
    s.lockWord t e g true = (.done (.swap (memWord u.mem g)), u.writeLock t g e.a) := by
  simp [State.lockWord, hop, hbad, hu]

theorem lockWord_waitev (hop : e.op = .waitev) (hbad : s.badWord g = false) (hu : s.flushWord (coreOf t) g = u) :
    s.lockWord t e g true = if memWord u.mem g = e.a then u.takeWatch t g (memWord u.mem g)
      else (.done (.waitev false 3), u) := by
  simp [State.lockWord, hop, hbad, hu]

end

/-! ## Lock instructions -/

/-- A lock instruction on an aligned word of the own core-local memory makes its access at its issue. -/
theorem lockInstr_runs {s : State} {t : Tid} {op : FarOp} {m : BitVec 3} {o : BitVec 23} {ea : Word} {g : Nat}
    (hop : operandOf (s.thr t) m o = some (.mem ea)) (hr : regionOf (coreOf t) ea = .core (coreOf t) g)
    (hal : ea.toNat % 4 = 0) (hfar : (s.thr t).far = []) (hi : s.issues t (lockRegs op m)) :
    s.lockInstr t op m o =
      (let u := (s.issuing t).endRunAhead t
       if op == .waitev then u.startBlocking t (s.issueEntry t op ea true none)
       else u.startFar t (s.issueEntry t op ea false none)) := by
  have hlegal : addressLegal (s.thr t) m o = true := by rw [addressLegal, hop]
  have hea : eaOf (s.thr t) m o = ea := by rw [eaOf, hop]
  have hfault : lockFault (coreOf t) ea = none := by simp [lockFault, aligned, hal, hr]
  rw [State.lockInstr, issue_runs _ _ _ _ _ _ _ hi hlegal (by simp [hfar]) rfl]
  simp only [thr_issuing, hea, hfault, newEntry_begun]
  cases op == .waitev <;> rfl

/-- A lock instruction that its word answers at its issue. -/
theorem lockInstr_of_done {s x : State} {t : Tid} {op : FarOp} {m : BitVec 3} {o : BitVec 23} {ea : Word} {g : Nat} {r : FarResp}
    (hop : operandOf (s.thr t) m o = some (.mem ea)) (hr : regionOf (coreOf t) ea = .core (coreOf t) g)
    (hal : ea.toNat % 4 = 0) (hfar : (s.thr t).far = []) (hon : (s.dom (coreDomain (coreOf t))).st = .on)
    (hi : s.issues t (lockRegs op m)) (hlock : op ∈ [.cas, .swap, .waitev])
    (hword : ((s.issuing t).endRunAhead t).lockWord t (s.issueEntry t op ea (op == .waitev) none) g true = (.done r, x)) :
    s.lockInstr t op m o = if op == .waitev then x.addFar t (s.issueEntry t op ea true (some r))
      else x.passFar t (s.issueEntry t op ea false (some r)) := by
  have htry := (tryFar_lock (far_begun hfar) (e := s.issueEntry t op ea (op == .waitev) none) hlock hr hon).trans hword
  rw [lockInstr_runs hop hr hal hfar hi]
  cases hwait : op == .waitev with
  | true =>
    rw [hwait] at htry
    exact startBlocking_of_done htry
  | false =>
    rw [hwait] at htry
    exact startFar_of_done htry

/-- WAITEV on a word that equals A takes a watch, and the thread sleeps. -/
theorem takeWatch_running {s : State} {t : Tid} (hrun : (s.thr t).st = .running) (hroom : s.watches.length < 4096) (g : Nat)
    (old : Word) :
    s.takeWatch t g old = (.slept,
      (({ s with watches := s.watches ++ [Watch.mk t g false (wordOwned old)] }).setFld F.lckWatch_HIGH
        (max (s.fld F.lckWatch_HIGH) (s.watches.length + 1))).putToSleep t .sleepLock (.lock g)) := by
  have hst : ((s.thr t).st == ThreadState.stopping) = false := by rw [hrun]; rfl
  simp only [State.takeWatch, hst, Bool.false_eq_true, if_false, hroom, if_true, List.length_append, List.length_singleton]
  rfl

/-- Settles O12: one access to the word at the issue, after the core's own stores of it. -/
theorem lockInstructions : Obligations.LockInstructions := by
  unfold Obligations.LockInstructions
  intro s t m o ea g th c u old entry pass wrote hop hr hal hfar hon hrev hurev hg hbad
  have hbad' : ((s.issuing t).endRunAhead t).badWord g = false := hbad
  have hflush : ((s.issuing t).endRunAhead t).flushWord c g = u := rfl
  have hwrite (v : Word) : u.writeLock t g v = wrote v := writeLock_of_coreMem u t hg v
  have hcas := lockWord_cas (e := s.issueEntry t .cas ea false none) rfl hbad' hflush hurev
  have hwaitev := lockWord_waitev (e := s.issueEntry t .waitev ea true none) rfl hbad' hflush
  refine ⟨fun hi heq => ?_, fun hi hne => ?_, fun hi => ?_, fun hi heq hrun hroom => ?_, fun hi hne => ?_⟩
  · have hdone := (hcas.trans (if_pos heq)).trans (congrArg (Prod.mk _) (hwrite _))
    exact congrArg _ (lockInstr_of_done hop hr hal hfar hon hi (by simp) hdone)
  · exact congrArg _ (lockInstr_of_done hop hr hal hfar hon hi (by simp) (hcas.trans (if_neg hne)))
  · have hswap := lockWord_swap (e := s.issueEntry t .swap ea false none) rfl hbad' hflush
    have hdone := hswap.trans (congrArg (Prod.mk _) (hwrite _))
    exact congrArg _ (lockInstr_of_done hop hr hal hfar hon hi (by simp) hdone)
  · have hslept := (hwaitev.trans (if_pos heq)).trans (takeWatch_running hrun hroom g _)
    have htry := (tryFar_lock (far_begun hfar) (e := s.issueEntry t .waitev ea true none) (show FarOp.waitev ∈ [.cas, .swap, .waitev] by simp) hr hon).trans hslept
    exact congrArg _ ((lockInstr_runs hop hr hal hfar hi).trans (startBlocking_of_slept htry))
  · exact congrArg _ (lockInstr_of_done hop hr hal hfar hon hi (by simp) (hwaitev.trans (if_neg hne)))

end Sys2Proof.Machine

/-!
PROOFS. Latched reads of times, estimation windows and the slewed correction.
-/

namespace Sys2Proof.Machine

/-! ## Latched reads (R99, R324, R328) -/

theorem extractLsb'_tb0 (s : State) {lo : Nat} (h : lo + 32 ≤ 64) :
    s.tb0.extractLsb' lo 32 = s.tbSum.extractLsb' (16 + lo) 32 := by
  apply BitVec.eq_of_getLsbD_eq
  intro i hi
  have hlow : lo + i < 64 := by omega
  simp [State.tb0, hi, hlow, Nat.add_assoc]

/-- A read of the value latches the high half under the master's key of the base. -/
theorem latchKey_vall (m : Master) (n : BaseId) : latchKey m 0 n = 256 * m.toNat + n.toNat := by
  simp [latchKey]

theorem readVall_of_whole {s : State} (m : Master) {n : BaseId}
    (h : ((ratMod (s.baseNow n) (s.ringOf n)).floor.toNat : Rat) = ratMod (s.baseNow n) (s.ringOf n)) :
    s.readVall m n =
      { s with
        answer := ((BitVec.ofNat 64 (ratMod (s.baseNow n) (s.ringOf n)).floor.toNat).extractLsb' 0 32).setWidth 64
        latches := smSet 0 s.latches (256 * m.toNat + n.toNat)
          ((BitVec.ofNat 64 (ratMod (s.baseNow n) (s.ringOf n)).floor.toNat).extractLsb' 32 32) } := by
  simp only [State.readVall, State.baseWord, h, if_true, State.readPair, latchKey_vall]

theorem readVall_of_fraction {s : State} (m : Master) {n : BaseId}
    (h : ((ratMod (s.baseNow n) (s.ringOf n)).floor.toNat : Rat) ≠ ratMod (s.baseNow n) (s.ringOf n)) :
    s.readVall m n =
      ({ s with fresh := s.fresh + 1 }).readPair m 0 n (BitVec.ofNat 64 (if Config.roundUp s.fresh = true then
        ((ratMod (s.baseNow n) (s.ringOf n)).floor.toNat + 1) % s.ringOf n else (ratMod (s.baseNow n) (s.ringOf n)).floor.toNat)) := by
  simp only [State.readVall, State.baseWord, h, if_false]
  rfl

/-! ## Estimation windows (R316 to R318) -/

/-- The newest verdict is bad, and one bad verdict suffices. -/
theorem drifted_of_one {s : State} {n : BaseId} (hN : s.fld F.tbMon_N n.toNat = 1) (hM : s.fld F.tbMon_M n.toNat = 1)
    (h : (s.base n).hist.getLsbD 0 = true) : s.drifted n = true := by
  simp [State.drifted, hN, hM, h]

/-- A bad window excludes a drifted reference of a base that follows no network. -/
theorem verdict_bad {s : State} {n : BaseId} (hnet : s.isNet n = false) (hbad : s.windowBad n (s.base n).sel = true)
    (hN : s.fld F.tbMon_N n.toNat = 1) (hM : s.fld F.tbMon_M n.toNat = 1) :
    s.verdict n = (((((s.setBase n { s.base n with hist := (s.base n).hist * 2 ||| 1 }).raise F.tbStat_DRIFT n.toNat).raise
      F.tbRefstat_EXCL n.toNat (s.base n).sel.toNat).pulse (0xA10 + n.toNat)).leaveReference n) := by
  have hrate : s.netRate n = s := by rw [State.netRate, hnet, Bool.not_false, if_pos rfl]
  have hdrift : (s.setBase n { s.base n with hist := (s.base n).hist * 2 ||| 1 }).drifted n = true := by
    refine drifted_of_one hN hM ?_
    simp
  simp only [State.verdict, hrate, hbad, if_true, hdrift, Bool.and_self]

/-- Nothing of a window is evaluated before it has ended. -/
theorem windowEnd_early {s : State} {n : BaseId} (h : s.ns / 2 ^ s.fld F.tbMon_WLOG n.toNat ≤ (s.base n).lastWin) :
    s.windowEnd n = s := by
  have hnow : s.windowNow n ≤ (s.base n).lastWin := h
  simp only [State.windowEnd, hnow, decide_true, Bool.or_true, if_true]

/-- A window that ends without a selected reference begins the next one. -/
theorem windowEnd_unlocked {s : State} {n : BaseId} (hon : s.baseOn n = true)
    (h : (s.base n).lastWin < s.ns / 2 ^ s.fld F.tbMon_WLOG n.toNat) (hst : (s.base n).st = .acquire ∨ (s.base n).st = .still) :
    s.windowEnd n = refIds.foldl
      (fun u j => (u.setRef n j { u.ref n j with winFirst := (u.ref n j).obs }).applyRefWrites n j)
      (s.setBase n { s.base n with lastWin := (s.base n).lastWin + 1 }) := by
  have hnow : ¬ s.windowNow n ≤ (s.base n).lastWin := Nat.not_le.mpr h
  have hidle : ((s.base n).st == .locked || (s.base n).st == .holdover) = false := by
    obtain hst | hst := hst <;> rw [hst] <;> rfl
  simp only [State.windowEnd, hon, hnow, decide_false, Bool.not_true, Bool.or_self, Bool.false_eq_true, if_false, hidle]

/-! ## The slewed correction (R322) -/

theorem ratMax_ratMin_bounds (x q : Rat) {d : Rat} (hd : 0 ≤ d) :
    ratMax (x - d) (ratMin (x + d) q) ≤ x + d ∧ x - d ≤ ratMax (x - d) (ratMin (x + d) q) := by
  unfold ratMax ratMin
  constructor <;> split_ifs <;> linarith

theorem slew_early {s : State} {n : BaseId} (h : s.cycle < (s.base n).lastSlew + 1024) : s.slew n = s := by
  simp only [State.slew, h, decide_true, Bool.or_true, if_true]

theorem slew_unlocked {s : State} {n : BaseId} (hon : s.baseOn n = true) (hsl : s.slaved n = false)
    (hdue : (s.base n).lastSlew + 1024 ≤ s.cycle) (hst : (s.base n).st ≠ .locked) :
    s.slew n = s.setBase n { s.base n with lastSlew := s.cycle } := by
  have hre : (s.setBase n { s.base n with lastSlew := s.cycle }).reanchor n = s.setBase n { s.base n with lastSlew := s.cycle } := by
    simp only [State.reanchor, base_setBase_same]
  simp [State.slew, hon, hsl, Nat.not_lt.mpr hdue, hre, hst]

/-- The largest step of the correction in 1,024 cycles. -/
def State.slewStep (s : State) (n : BaseId) : Rat :=
  1024 * ((s.fld F.tbServo_SLEW n.toNat : Nat) / 1000000) * (s.incNow.toNat : Nat) / (4294967296 * 1000000000)

theorem slewStep_nonneg (s : State) (n : BaseId) : 0 ≤ s.slewStep n := by
  unfold State.slewStep
  positivity

/-- A locked base as a slew anchors it at now, its phase not yet 0. -/
def State.slewAnchor (s : State) (n : BaseId) : Base :=
  { s.base n with
    lastSlew := s.cycle, va := baseValueAt (s.isNet n) (s.base n) s.tbRat, ta := s.tbRat,
    phi := basePhiAt (s.isNet n) (s.base n) s.tbRat }

theorem base_reanchor {s : State} {n : BaseId} {b : Base} (hb : s.base n = b) (hst : b.st = .locked)
    (hphi : basePhiAt (s.isNet n) b s.tbRat ≠ 0) :
    (s.reanchor n).base n =
      { b with va := baseValueAt (s.isNet n) b s.tbRat, ta := s.tbRat, phi := basePhiAt (s.isNet n) b s.tbRat } := by
  subst hb
  unfold State.reanchor
  dsimp only
  split
  · rw [base_setBase_same, if_neg hphi]
  · exact absurd hst ‹_›

theorem reanchor_slewAnchor {s : State} {n : BaseId} (hst : (s.base n).st = .locked)
    (hphi : basePhiAt (s.isNet n) (s.base n) s.tbRat ≠ 0) :
    ((s.setBase n { s.base n with lastSlew := s.cycle }).reanchor n).base n = s.slewAnchor n :=
  base_reanchor (base_setBase_same s n _) hst hphi

/-- The correction of a locked base with a phase left moves toward its target by the step at most. -/
theorem slew_locked {s : State} {n : BaseId} (hon : s.baseOn n = true) (hsl : s.slaved n = false)
    (hdue : (s.base n).lastSlew + 1024 ≤ s.cycle) (hst : (s.base n).st = .locked)
    (hphi : basePhiAt (s.isNet n) (s.base n) s.tbRat ≠ 0) :
    ∃ q : Rat, (s.slew n).base n = { s.slewAnchor n with
        corr := ratMax ((s.base n).corr - s.slewStep n) (ratMin ((s.base n).corr + s.slewStep n) q) } := by
  have hgo : ((s.slewAnchor n).st != .locked || decide ((s.slewAnchor n).phi = 0)) = false := by
    simp [State.slewAnchor, hst, hphi]
  simp only [State.slew, hon, hsl, Nat.not_lt.mpr hdue, decide_false, Bool.not_true, Bool.or_self, Bool.false_eq_true, if_false,
    reanchor_slewAnchor hst hphi, hgo, base_setBase_same]
  exact ⟨_, rfl⟩

/-- Settles O39: reads latch by `State.readPair`; a slew anchors the base and clamps its correction's step. -/
theorem timeReadsAndSlewing : Obligations.TimeReadsAndSlewing := by
  unfold Obligations.TimeReadsAndSlewing
  intro s m n b latched v
  refine ⟨?_, ?_, ?_, ?_, ?_, ?_, ?_, ?_, ?_⟩
  · exact fun hv => congrArg Host.Outcome.next (readVall_of_whole m hv)
  · exact fun hv => congrArg Host.Outcome.next (readVall_of_fraction m hv)
  · rfl
  · intro t
    refine congrArg Host.Outcome.next ?_
    rw [State.readTime0l, extractLsb'_tb0 s (lo := 32) (by decide), extractLsb'_tb0 s (lo := 0) (by decide)]
    rfl
  · exact fun h => congrArg Host.Outcome.next (windowEnd_early h)
  · intro hon h hst
    have hend := windowEnd_unlocked hon h hst
    exact congrArg Host.Outcome.next hend
  · intro hnet hbad hN hM
    exact verdict_bad hnet hbad hN hM
  · exact fun h => congrArg _ (slew_early h)
  · intro hon hsl hdue
    refine ⟨fun hst => congrArg _ (slew_unlocked hon hsl hdue hst), ?_⟩
    intro hst hphi d
    obtain ⟨q, hb⟩ := slew_locked hon hsl hdue hst hphi
    obtain ⟨hupper, hlower⟩ := ratMax_ratMin_bounds b.corr q (slewStep_nonneg s n)
    refine ⟨_, rfl, ?_⟩
    rw [hb]
    exact ⟨hupper, hlower, rfl, rfl⟩

end Sys2Proof.Machine

/-!
PROOFS. Values of binary32, cutting and rounding, and the conversions to integers.
-/

namespace Sys2Proof.Machine

/-! ## Values of binary32 (R112) -/

/-- 1 with a sign. -/
def signInt (neg : Bool) : ℤ := if neg then -1 else 1

/-- The number that a finite binary32 word stands for. -/
def f32Value (w : Word) : ℚ :=
  signInt (fSign w) * (if fExp w = 0 then (fFrac w : ℚ) * 2 ^ (-149 : ℤ) else (2 ^ 23 + fFrac w : ℚ) * 2 ^ ((fExp w : ℤ) - 150))

/-- v is x rounded to an integer in the direction that SR.RM names (R97). -/
def RoundsTo (rm : BitVec 2) (x : ℚ) (v : ℤ) : Prop :=
  if rm = 0 then |x - v| ≤ 1 / 2 ∧ (|x - v| = 1 / 2 → v % 2 = 0)
  else if rm = 1 then |x - v| < 1 ∧ |(v : ℚ)| ≤ |x|
  else if rm = 2 then x ≤ v ∧ v < x + 1
  else v ≤ x ∧ x < v + 1

theorem fExp_eq (w : Word) : fExp w = (w.extractLsb' 23 8).toNat := bitsOf_eq_extractLsb' w 23 8

theorem fFrac_eq (w : Word) : fFrac w = (w.extractLsb' 0 23).toNat := bitsOf_eq_extractLsb' w 0 23

theorem f32Value_eq_fParts (w : Word) : f32Value w = signInt (fSign w) * ((fParts w).1 * 2 ^ (fParts w).2) := by
  unfold f32Value fParts
  split
  · rfl
  · push_cast
    ring

theorem signInt_cases (neg : Bool) : signInt neg = 1 ∨ signInt neg = -1 := by
  cases neg
  · exact .inl rfl
  · exact .inr rfl

/-! ## Cutting and rounding (R112, R115) -/

/-- A cut splits the quantity into a whole number of quanta and a remainder below one. -/
theorem cutAt_spec (m : Nat) (e q : Int) :
    ∃ half : Nat, 0 < half ∧ (cutAt m e q).2.1 < 2 * half ∧ ((cutAt m e q).2.1 = 0 ∨ (cutAt m e q).2.2 = half) ∧
      (m : ℚ) * 2 ^ (e - q) = (cutAt m e q).1 + (cutAt m e q).2.1 / (2 * half) := by
  unfold cutAt
  split
  case isTrue h =>
    obtain ⟨k, hk⟩ := Int.eq_ofNat_of_zero_le (Int.sub_nonneg.mpr h)
    exact ⟨1, by simp, by simp, .inl rfl, by simp [hk]⟩
  case isFalse h =>
    obtain ⟨k, hk⟩ : ∃ k : Nat, q - e = k + 1 := ⟨(q - e - 1).toNat, by omega⟩
    have hk' : (q - e).toNat = k + 1 := by omega
    have he : e - q = -((k + 1 : Nat) : ℤ) := by push_cast; omega
    have hm := Nat.div_add_mod m (2 ^ (k + 1))
    refine ⟨2 ^ k, by positivity, ?_, .inr ?_, ?_⟩
    · simp only [hk', ← pow_succ']
      exact Nat.mod_lt _ (by positivity)
    · simp [hk']
    · simp only [hk', he, zpow_neg, zpow_natCast]
      have hq : (m : ℚ) = 2 ^ (k + 1) * (m / 2 ^ (k + 1) : Nat) + (m % 2 ^ (k + 1) : Nat) := by exact_mod_cast hm.symm
      have hp : (2 : ℚ) ^ (k + 1) ≠ 0 := by positivity
      push_cast
      rw [← pow_succ', eq_comm]
      field_simp
      linarith [hq]

theorem roundsUp_exact (rm : BitVec 2) (sign : Bool) (n half : Nat) : roundsUp rm sign n 0 half false = false := by
  unfold roundsUp
  split <;> simp
  omega

/-- Rounding to nearest: up beyond the middle, and in the middle from an odd number. -/
theorem roundsTo_nearest {sign : Bool} {n : Nat} {r : ℚ} (hr : 0 ≤ r) (hr1 : r < 1) (up : Bool)
    (hup : up = true → 1 / 2 < r ∨ (r = 1 / 2 ∧ n % 2 = 1)) (hdown : up = false → r < 1 / 2 ∨ (r = 1 / 2 ∧ n % 2 = 0)) :
    RoundsTo 0 (signInt sign * (n + r)) (signInt sign * (n + up.toNat)) := by
  have habs : |(signInt sign * (n + r) - (signInt sign * (n + up.toNat) : ℤ) : ℚ)| = |r - up.toNat| := by
    obtain h | h := signInt_cases sign <;> rw [h] <;> push_cast
    · congr 1; ring
    · rw [← abs_neg]; congr 1; ring
  have hodd (k : ℤ) (hk : k % 2 = 0) : (signInt sign * k) % 2 = 0 := by
    obtain h | h := signInt_cases sign <;> rw [h] <;> omega
  rw [RoundsTo, if_pos rfl, habs]
  cases up with
  | true =>
    have hmid := hup rfl
    rw [Bool.toNat_true, Nat.cast_one, abs_of_neg (by linarith)]
    refine ⟨by rcases hmid with h | ⟨h, -⟩ <;> linarith, fun heq => hodd _ ?_⟩
    obtain h | ⟨-, h⟩ := hmid
    · linarith
    · push_cast; omega
  | false =>
    have hmid := hdown rfl
    rw [Bool.toNat_false, Nat.cast_zero, sub_zero, abs_of_nonneg hr]
    refine ⟨by rcases hmid with h | ⟨h, -⟩ <;> linarith, fun heq => hodd _ ?_⟩
    obtain h | ⟨-, h⟩ := hmid
    · linarith
    · push_cast; omega

/-- Rounding toward zero drops the remainder. -/
theorem roundsTo_zero {sign : Bool} {n : Nat} {r : ℚ} (hr : 0 ≤ r) (hr1 : r < 1) :
    RoundsTo 1 (signInt sign * (n + r)) (signInt sign * n) := by
  have hn : (0 : ℚ) ≤ n := Nat.cast_nonneg n
  rw [RoundsTo, if_neg (by decide), if_pos rfl]
  obtain h | h := signInt_cases sign <;> rw [h] <;> push_cast
  · refine ⟨?_, ?_⟩
    · rw [abs_lt]
      constructor <;> linarith
    · rw [one_mul, one_mul, abs_of_nonneg hn, abs_of_nonneg (by linarith)]
      linarith
  · refine ⟨?_, ?_⟩
    · rw [abs_lt]
      constructor <;> linarith
    · rw [neg_one_mul, neg_one_mul, abs_neg, abs_neg, abs_of_nonneg hn, abs_of_nonneg (by linarith)]
      linarith

/-- Rounding up takes the next magnitude of what is above zero and not whole. -/
theorem roundsTo_up {sign : Bool} {n : Nat} {r : ℚ} (hr : 0 ≤ r) (hr1 : r < 1) :
    RoundsTo 2 (signInt sign * (n + r)) (signInt sign * (n + (decide (r ≠ 0) && !sign).toNat)) := by
  rw [RoundsTo, if_neg (by decide), if_neg (by decide), if_pos rfl]
  rcases hr.eq_or_lt with rfl | hpos
  · simp
  · cases sign <;> simp [signInt, hpos.ne'] <;> constructor <;> linarith

/-- Rounding down takes the next magnitude of what is below zero and not whole. -/
theorem roundsTo_down {sign : Bool} {n : Nat} {r : ℚ} (hr : 0 ≤ r) (hr1 : r < 1) :
    RoundsTo 3 (signInt sign * (n + r)) (signInt sign * (n + (decide (r ≠ 0) && sign).toNat)) := by
  rw [RoundsTo, if_neg (by decide), if_neg (by decide), if_neg (by decide)]
  rcases hr.eq_or_lt with rfl | hpos
  · simp
  · cases sign <;> simp [signInt, hpos.ne'] <;> constructor <;> linarith

/-- Rounding in magnitude rounds the signed quantity as SR.RM says. -/
theorem roundsUp_rounds (rm : BitVec 2) (sign : Bool) (n : Nat) {rem half : Nat} (hh : 0 < half) (hr : rem < 2 * half) :
    RoundsTo rm (signInt sign * (n + rem / (2 * half))) (signInt sign * (n + (roundsUp rm sign n rem half false).toNat)) := by
  have hhalf : (0 : ℚ) < 2 * half := by positivity
  have hr0 : (0 : ℚ) ≤ rem / (2 * half) := by positivity
  have hr1 : (rem : ℚ) / (2 * half) < 1 := by
    rw [div_lt_one hhalf]
    exact_mod_cast hr
  have hne : decide ((rem : ℚ) / (2 * half) ≠ 0) = (rem != 0) := by
    rw [Bool.eq_iff_iff]
    simp [hh.ne']
  obtain ⟨⟨k, hk⟩⟩ := rm
  interval_cases k
  · have hlt : (rem : ℚ) / (2 * half) < 1 / 2 ↔ rem < half := by
      rw [div_lt_iff₀ hhalf, ← mul_assoc, div_mul_cancel₀ _ two_ne_zero, one_mul, Nat.cast_lt]
    have heq : (rem : ℚ) / (2 * half) = 1 / 2 ↔ rem = half := by
      rw [div_eq_iff hhalf.ne', ← mul_assoc, div_mul_cancel₀ _ two_ne_zero, one_mul, Nat.cast_inj]
    have hgt : 1 / 2 < (rem : ℚ) / (2 * half) ↔ half < rem := by
      rw [← not_le, le_iff_lt_or_eq, hlt, heq]
      omega
    refine roundsTo_nearest hr0 hr1 _ (fun hup => ?_) (fun hdown => ?_)
    · rw [hgt, heq]
      simp [roundsUp] at hup
      omega
    · rw [hlt, heq]
      simp [roundsUp] at hdown
      omega
  · simpa [roundsUp] using roundsTo_zero (sign := sign) (n := n) hr0 hr1
  · have h := roundsTo_up (sign := sign) (n := n) hr0 hr1
    rw [hne] at h
    simpa [roundsUp] using h
  · have h := roundsTo_down (sign := sign) (n := n) hr0 hr1
    rw [hne] at h
    simpa [roundsUp] using h

/-- m * 2^e cut at 2^q and rounded, in units of 2^q. -/
def roundAt (rm : BitVec 2) (sign : Bool) (m : Nat) (e q : Int) : Nat :=
  let c := cutAt m e q
  c.1 + (roundsUp rm sign c.1 c.2.1 c.2.2 false).toNat

/-- Cutting and rounding rounds the signed quantity as SR.RM says. -/
theorem roundAt_rounds (rm : BitVec 2) (sign : Bool) (m : Nat) (e q : Int) :
    RoundsTo rm (signInt sign * (m * 2 ^ (e - q))) (signInt sign * roundAt rm sign m e q) := by
  obtain ⟨half, hhalf, hlt, hsame, hvalue⟩ := cutAt_spec m e q
  have hup : roundsUp rm sign (cutAt m e q).1 (cutAt m e q).2.1 (cutAt m e q).2.2 false =
      roundsUp rm sign (cutAt m e q).1 (cutAt m e q).2.1 half false := by
    obtain hzero | hmid := hsame
    · rw [hzero, roundsUp_exact, roundsUp_exact]
    · rw [hmid]
  have hrounds := roundsUp_rounds rm sign (cutAt m e q).1 hhalf hlt
  rw [roundAt, hvalue, hup]
  exact_mod_cast hrounds

/-- What is rounded is the quantity itself exactly when nothing is cut off. -/
theorem roundAt_exact_iff (rm : BitVec 2) (sign : Bool) (m : Nat) (e q : Int) :
    (cutAt m e q).2.1 = 0 ↔ (roundAt rm sign m e q : ℚ) = m * 2 ^ (e - q) := by
  obtain ⟨half, hhalf, hlt, -, hvalue⟩ := cutAt_spec m e q
  have hpos : (0 : ℚ) < 2 * half := by positivity
  rw [hvalue, roundAt]
  refine ⟨fun hzero => ?_, fun heq => ?_⟩
  · simp [hzero, roundsUp_exact]
  · have hrem : ((cutAt m e q).2.1 : ℚ) =
        (roundsUp rm sign (cutAt m e q).1 (cutAt m e q).2.1 (cutAt m e q).2.2 false).toNat * (2 * half) := by
      rw [← div_eq_iff hpos.ne']
      push_cast at heq
      linarith
    have hnat : (cutAt m e q).2.1 =
        (roundsUp rm sign (cutAt m e q).1 (cutAt m e q).2.1 (cutAt m e q).2.2 false).toNat * (2 * half) := by
      exact_mod_cast hrem
    cases hup : roundsUp rm sign (cutAt m e q).1 (cutAt m e q).2.1 (cutAt m e q).2.2 false <;> rw [hup] at hnat
    · simpa using hnat
    · simp at hnat
      omega

/-! ## From binary32 to integers (R115) -/

/-- A finite binary32 value rounded to an integer. -/
def fRounded (rm : BitVec 2) (a : Word) : ℤ := signInt (fSign a) * roundAt rm (fSign a) (fParts a).1 (fParts a).2 0

theorem fRounded_rounds (rm : BitVec 2) (a : Word) : RoundsTo rm (f32Value a) (fRounded rm a) := by
  have h := roundAt_rounds rm (fSign a) (fParts a).1 (fParts a).2 0
  rwa [sub_zero, ← f32Value_eq_fParts] at h

theorem fRounded_exact_iff (rm : BitVec 2) (a : Word) :
    (cutAt (fParts a).1 (fParts a).2 0).2.1 = 0 ↔ (fRounded rm a : ℚ) = f32Value a := by
  rw [roundAt_exact_iff rm (fSign a), sub_zero, f32Value_eq_fParts, fRounded]
  obtain h | h := signInt_cases (fSign a) <;> simp [h]

/-- IV and NV, the flags of a conversion out of range. -/
theorem outOfRange_flags : mask1 stickyIV ||| mask1 stickyNV = 0x00100200 := rfl

theorem fToInt_finite (rm : BitVec 2) {a : Word} (h : fExp a ≠ 255) (lo hi : Int) :
    fToInt rm a lo hi = if hi < fRounded rm a then (BitVec.ofInt 32 hi, 0x00100200)
      else if fRounded rm a < lo then (BitVec.ofInt 32 lo, 0x00100200)
      else (BitVec.ofInt 32 (fRounded rm a), if decide ((fRounded rm a : ℚ) = f32Value a) then 0 else 0x00010000) := by
  have hnan : fIsNan a = false := by simp [fIsNan, h]
  have hinf : fIsInf a = false := by simp [fIsInf, h]
  have hv : (if fSign a then -(roundAt rm (fSign a) (fParts a).1 (fParts a).2 0 : ℤ) else
      (roundAt rm (fSign a) (fParts a).1 (fParts a).2 0 : ℤ)) = fRounded rm a := by
    rw [fRounded, signInt]
    split_ifs <;> ring
  have hx := fRounded_exact_iff rm a
  rw [roundAt] at hv
  simp only [fToInt, hnan, hinf, Bool.false_eq_true, if_false, outOfRange_flags, hv, hx, decide_eq_true_eq]
  rfl

theorem fToInt_nan (rm : BitVec 2) {a : Word} (hexp : fExp a = 255) (hfrac : fFrac a ≠ 0) (lo hi : Int) :
    fToInt rm a lo hi = (0, 0x00100200) := by
  have hnan : fIsNan a = true := by simp [fIsNan, hexp, hfrac]
  rw [fToInt, hnan, if_pos rfl]
  rfl

theorem fToInt_inf (rm : BitVec 2) {a : Word} (hexp : fExp a = 255) (hfrac : fFrac a = 0) (lo hi : Int) :
    fToInt rm a lo hi = (BitVec.ofInt 32 (if fSign a then lo else hi), 0x00100200) := by
  have hnan : fIsNan a = false := by simp [fIsNan, hfrac]
  have hinf : fIsInf a = true := by simp [fIsInf, hexp, hfrac]
  simp only [fToInt, hnan, hinf, Bool.false_eq_true, if_false, if_true, outOfRange_flags]

end Sys2Proof.Machine

/-!
PROOFS. Conversions of integers to binary32.
-/

namespace Sys2Proof.Machine

/-! ## From integers to binary32 (R112, R116) -/

/-- An integer is itself rounded, in every direction. -/
theorem roundsTo_self (rm : BitVec 2) (v : ℤ) : RoundsTo rm v v := by
  unfold RoundsTo
  split_ifs
  · simp
  · simp
  · simp
  · simp

/-- A rounded quantity stands between the integers that the quantity stands between. -/
theorem roundAt_bounds (rm : BitVec 2) (sign : Bool) {m : Nat} {e q : Int} {lo hi : Nat} (hlo : (lo : ℚ) ≤ m * 2 ^ (e - q))
    (hhi : (m : ℚ) * 2 ^ (e - q) < hi) : lo ≤ roundAt rm sign m e q ∧ roundAt rm sign m e q ≤ hi := by
  obtain ⟨half, hhalf, hlt, -, hvalue⟩ := cutAt_spec m e q
  have hhalf' : (0 : ℚ) < 2 * half := by positivity
  have hr0 : (0 : ℚ) ≤ (cutAt m e q).2.1 / (2 * half) := by positivity
  have hr1 : ((cutAt m e q).2.1 : ℚ) / (2 * half) < 1 := by
    rw [div_lt_one hhalf']
    exact_mod_cast hlt
  have hlo' : lo < (cutAt m e q).1 + 1 := by
    have : (lo : ℚ) < (cutAt m e q).1 + 1 := by linarith
    exact_mod_cast this
  have hhi' : (cutAt m e q).1 < hi := by
    have : ((cutAt m e q).1 : ℚ) < hi := by linarith
    exact_mod_cast this
  have hup := Bool.toNat_le (roundsUp rm sign (cutAt m e q).1 (cutAt m e q).2.1 (cutAt m e q).2.2 false)
  rw [roundAt]
  omega

/-- n quanta of 2^q, with the exponent and the fraction of binary32. -/
def packed (n : Nat) (q : Int) : Nat :=
  if n = 2 ^ 24 then 2 ^ 23 * (q + 151).toNat else 2 ^ 23 * (q + 150).toNat + (n - 2 ^ 23)

theorem fields_fSigned (sign : Bool) {e f : Nat} (he : e < 256) (hf : f < 2 ^ 23) :
    fSign (fSigned sign (2 ^ 23 * e + f)) = sign ∧ fExp (fSigned sign (2 ^ 23 * e + f)) = e ∧
      fFrac (fSigned sign (2 ^ 23 * e + f)) = f := by
  have hnat : (fSigned sign (2 ^ 23 * e + f)).toNat = 2 ^ 23 * e + f + (if sign then 2 ^ 31 else 0) := by
    rw [fSigned, BitVec.toNat_ofNat, Nat.mod_eq_of_lt]
    split_ifs <;> omega
  refine ⟨?_, ?_, ?_⟩
  · rw [fSign, BitVec.getLsbD, Nat.testBit_eq_decide_div_mod_eq, hnat]
    cases sign <;> simp <;> omega
  · rw [fExp, bitsOf, hnat]
    split_ifs <;> omega
  · rw [fFrac, bitsOf, hnat]
    split_ifs <;> omega

theorem f32Value_fSigned (sign : Bool) {e f : Nat} (h0 : 0 < e) (he : e < 256) (hf : f < 2 ^ 23) :
    f32Value (fSigned sign (2 ^ 23 * e + f)) = signInt sign * ((2 ^ 23 + f) * 2 ^ ((e : ℤ) - 150)) := by
  obtain ⟨hsign, hexp, hfrac⟩ := fields_fSigned sign he hf
  rw [f32Value, hsign, hexp, hfrac, if_neg h0.ne']

/-- A packed number of 24 bits is a finite word of that value. -/
theorem packed_spec (sign : Bool) {n : Nat} {q : Int} (hlo : 2 ^ 23 ≤ n) (hhi : n ≤ 2 ^ 24) (hq : -149 ≤ q) (hq' : q ≤ 103) :
    fExp (fSigned sign (packed n q)) ≠ 255 ∧ f32Value (fSigned sign (packed n q)) = signInt sign * (n * 2 ^ q) := by
  obtain ⟨k, hk⟩ : ∃ k : Nat, q + 150 = k := ⟨(q + 150).toNat, by omega⟩
  rw [packed]
  split_ifs with htop
  · have hk1 : (q + 151).toNat = k + 1 := by omega
    have hqk : ((k + 1 : Nat) : ℤ) - 150 = q + 1 := by omega
    rw [hk1]
    obtain ⟨-, hexp, -⟩ := fields_fSigned sign (e := k + 1) (f := 0) (by omega) (by decide)
    have hvalue := f32Value_fSigned sign (e := k + 1) (f := 0) (by omega) (by omega) (by decide)
    rw [Nat.add_zero] at hexp hvalue
    refine ⟨by omega, ?_⟩
    rw [hvalue, hqk, htop, zpow_add_one₀ two_ne_zero]
    push_cast
    ring
  · have hk0 : (q + 150).toNat = k := by omega
    have hqk : (k : ℤ) - 150 = q := by omega
    rw [hk0]
    obtain ⟨-, hexp, -⟩ := fields_fSigned sign (e := k) (f := n - 2 ^ 23) (by omega) (by omega)
    refine ⟨by omega, ?_⟩
    rw [f32Value_fSigned sign (by omega) (by omega) (by omega), hqk, Nat.cast_sub hlo]
    push_cast
    ring

/-- The exponent of the last of the 24 bits that an integer is rounded to. -/
def intQuantum (m : Nat) : Int := m.log2 - 23

/-- A whole number other than 0 has 24 bits in units of its quantum. -/
theorem quantum_bounds {m : Nat} (h : m ≠ 0) :
    ((2 ^ 23 : Nat) : ℚ) ≤ m * 2 ^ (0 - intQuantum m) ∧ (m : ℚ) * 2 ^ (0 - intQuantum m) < (2 ^ 24 : Nat) := by
  have hpow : (2 : ℚ) ^ (0 - intQuantum m) = 2 ^ 23 / 2 ^ m.log2 := by
    rw [intQuantum, show (0 : ℤ) - ((m.log2 : ℤ) - 23) = ((23 : Nat) : ℤ) - (m.log2 : ℤ) by push_cast; ring,
      zpow_sub₀ two_ne_zero, zpow_natCast, zpow_natCast]
  have hlo : (2 : ℚ) ^ m.log2 ≤ m := by exact_mod_cast Nat.log2_self_le h
  have hhi : (m : ℚ) < 2 ^ (m.log2 + 1) := by exact_mod_cast Nat.lt_log2_self
  have hp : (0 : ℚ) < 2 ^ m.log2 := by positivity
  rw [hpow, mul_div_assoc', le_div_iff₀ hp, div_lt_iff₀ hp]
  rw [pow_succ] at hhi
  push_cast
  constructor <;> linarith

/-- A whole number below 2^32 rounds to 24 bits, without overflow or underflow. -/
theorem fRound_int (rm : BitVec 2) (sign : Bool) {m : Nat} (h0 : m ≠ 0) (h : m < 2 ^ 32) :
    fRound rm sign m 0 false = (fSigned sign (packed (roundAt rm sign m 0 (intQuantum m)) (intQuantum m)),
      if (cutAt m 0 (intQuantum m)).2.1 = 0 then 0 else 0x00010000) := by
  have hlog : m.log2 < 32 := (Nat.log2_lt h0).mpr h
  have htop : (0 : ℤ) + bitLen m - 1 = m.log2 := by
    rw [bitLen, if_neg h0]
    push_cast
    ring
  have hq : max ((m.log2 : ℤ) - 23) (-149) = intQuantum m := by
    rw [intQuantum, max_eq_left (by omega)]
  have htiny : (decide ((m.log2 : ℤ) < -127)) = false ∧ (decide ((m.log2 : ℤ) = -127)) = false := by
    constructor <;> simp
  obtain ⟨htiny, htiny'⟩ := htiny
  obtain ⟨hlo, hhi⟩ := quantum_bounds h0
  obtain ⟨hlo, hhi⟩ := roundAt_bounds rm sign hlo hhi
  have hsmall : intQuantum m < 104 := by
    rw [intQuantum]
    omega
  have hn : (cutAt m 0 (intQuantum m)).1 + (roundsUp rm sign (cutAt m 0 (intQuantum m)).1 (cutAt m 0 (intQuantum m)).2.1
      (cutAt m 0 (intQuantum m)).2.2 false).toNat = roundAt rm sign m 0 (intQuantum m) := rfl
  simp only [fRound, htop, hq, hn, htiny, htiny', Bool.or_false, Bool.false_and, Bool.and_false, Bool.false_eq_true, if_false]
  have hover : ¬ (2 ^ 23 ≤ (if roundAt rm sign m 0 (intQuantum m) = 2 ^ 24 then 2 ^ 23 else roundAt rm sign m 0 (intQuantum m)) ∧
      105 ≤ (if roundAt rm sign m 0 (intQuantum m) = 2 ^ 24 then intQuantum m + 1 else intQuantum m)) := by
    split_ifs <;> omega
  rw [if_neg hover]
  refine Prod.ext (congrArg (fSigned sign) ?_) ?_
  · rw [packed]
    by_cases h24 : roundAt rm sign m 0 (intQuantum m) = 2 ^ 24
    · simp only [if_pos h24, lt_irrefl, if_false, Nat.sub_self, Nat.add_zero, add_assoc]
      rfl
    · simp only [if_neg h24, if_neg (Nat.not_lt.mpr hlo)]
  · by_cases hrem : (cutAt m 0 (intQuantum m)).2.1 = 0
    · simp [hrem]
    · simp [hrem, mask1, stickyNX]

theorem signInt_natAbs (v : ℤ) : signInt (decide (v < 0)) * (v.natAbs : ℤ) = v := by
  rw [signInt]
  split_ifs with h <;> simp at h <;> omega

theorem fOfInt_zero (rm : BitVec 2) : fOfInt rm 0 = (0, 0) := rfl

theorem f32Value_zero : f32Value 0 = 0 := by
  have hexp : fExp 0 = 0 := rfl
  have hfrac : fFrac 0 = 0 := rfl
  rw [f32Value, hexp, hfrac]
  simp

/-- The binary32 word of an integer other than 0. -/
theorem fOfInt_nonzero (rm : BitVec 2) {v : ℤ} (h0 : v ≠ 0) (hv : v.natAbs < 2 ^ 32) :
    fOfInt rm v = (fSigned (decide (v < 0)) (packed (roundAt rm (decide (v < 0)) v.natAbs 0 (intQuantum v.natAbs))
      (intQuantum v.natAbs)), if (cutAt v.natAbs 0 (intQuantum v.natAbs)).2.1 = 0 then 0 else 0x00010000) := by
  rw [fOfInt, if_neg h0, fRound_int rm _ (Int.natAbs_ne_zero.mpr h0) hv]

/-- The word of an integer other than 0 is finite, and stands for its 24 rounded bits. -/
theorem f32Value_fOfInt (rm : BitVec 2) {v : ℤ} (h0 : v ≠ 0) (hv : v.natAbs < 2 ^ 32) :
    fExp (fOfInt rm v).1 ≠ 255 ∧ f32Value (fOfInt rm v).1 = signInt (decide (v < 0)) *
      (roundAt rm (decide (v < 0)) v.natAbs 0 (intQuantum v.natAbs) * 2 ^ intQuantum v.natAbs) := by
  have hlog : v.natAbs.log2 < 32 := (Nat.log2_lt (Int.natAbs_ne_zero.mpr h0)).mpr hv
  obtain ⟨hlo, hhi⟩ := quantum_bounds (Int.natAbs_ne_zero.mpr h0)
  obtain ⟨hlo, hhi⟩ := roundAt_bounds rm (decide (v < 0)) hlo hhi
  rw [fOfInt_nonzero rm h0 hv]
  exact packed_spec _ hlo hhi (by rw [intQuantum]; omega) (by rw [intQuantum]; omega)

theorem cast_signInt_natAbs (v : ℤ) : (signInt (decide (v < 0)) : ℚ) * v.natAbs = v := by
  rw [← Int.cast_natCast v.natAbs, ← Int.cast_mul, signInt_natAbs]

/-- Nothing of an integer is cut off exactly when its word stands for it. -/
theorem cutAt_zero_iff_fOfInt (rm : BitVec 2) {v : ℤ} (h0 : v ≠ 0) (hv : v.natAbs < 2 ^ 32) :
    (cutAt v.natAbs 0 (intQuantum v.natAbs)).2.1 = 0 ↔ f32Value (fOfInt rm v).1 = v := by
  obtain ⟨-, hvalue⟩ := f32Value_fOfInt rm h0 hv
  have hp : (2 : ℚ) ^ intQuantum v.natAbs ≠ 0 := by positivity
  have hsign : (signInt (decide (v < 0)) : ℚ) ≠ 0 := by
    obtain h | h := signInt_cases (decide (v < 0)) <;> rw [h] <;> norm_num
  have hv' : (v : ℚ) = signInt (decide (v < 0)) * (v.natAbs * 2 ^ (0 - intQuantum v.natAbs) * 2 ^ intQuantum v.natAbs) := by
    rw [mul_assoc, ← zpow_add₀ two_ne_zero, sub_add_cancel, zpow_zero, mul_one, cast_signInt_natAbs]
  rw [roundAt_exact_iff rm (decide (v < 0)), hvalue]
  conv_rhs => rhs; rw [hv']
  rw [mul_right_inj' hsign, mul_left_inj' hp]

/-- What the conversion of an integer answers: the integer rounded to 24 bits, and NX when that is another number. -/
theorem fOfInt_spec (rm : BitVec 2) {v : ℤ} (hv : v.natAbs < 2 ^ 32) :
    fExp (fOfInt rm v).1 ≠ 255 ∧ (v = 0 → (fOfInt rm v).1 = 0) ∧
      (∃ (n : ℤ) (q : ℕ), |v| < 2 ^ (24 + q) ∧ (q = 0 ∨ 2 ^ (23 + q) ≤ |v|) ∧ RoundsTo rm ((v : ℚ) / 2 ^ q) n ∧
        f32Value (fOfInt rm v).1 = (n : ℚ) * 2 ^ q) ∧
      (fOfInt rm v).2 = if decide (f32Value (fOfInt rm v).1 = v) then 0 else 0x00010000 := by
  by_cases h0 : v = 0
  · subst h0
    rw [fOfInt_zero, f32Value_zero]
    refine ⟨by decide, fun _ => rfl, ⟨0, 0, by simp, .inl rfl, ?_, by simp⟩, by simp⟩
    simpa using roundsTo_self rm 0
  obtain ⟨hfin, hvalue⟩ := f32Value_fOfInt rm h0 hv
  have hexact := cutAt_zero_iff_fOfInt rm h0 hv
  refine ⟨hfin, fun h => absurd h h0, ?_, ?_⟩
  · have habs : |v| = (v.natAbs : ℤ) := Int.abs_eq_natAbs v
    have hm := Int.natAbs_ne_zero.mpr h0
    by_cases hlog : v.natAbs.log2 ≤ 23
    · have hcut : (cutAt v.natAbs 0 (intQuantum v.natAbs)).2.1 = 0 := by
        rw [cutAt, if_pos (by rw [intQuantum]; omega)]
      refine ⟨v, 0, ?_, .inl rfl, by simpa using roundsTo_self rm v, by simpa using hexact.mp hcut⟩
      rw [habs]
      exact_mod_cast (Nat.log2_lt hm).mp (by omega)
    · obtain ⟨k, hk⟩ := Nat.exists_eq_add_of_lt (Nat.lt_of_not_le hlog)
      have hq : intQuantum v.natAbs = ((k + 1 : Nat) : ℤ) := by
        rw [intQuantum]
        omega
      have hrounds := roundAt_rounds rm (decide (v < 0)) v.natAbs 0 (intQuantum v.natAbs)
      rw [hq, zero_sub, zpow_neg, zpow_natCast, ← mul_assoc, cast_signInt_natAbs, ← div_eq_mul_inv] at hrounds
      rw [hq] at hvalue
      refine ⟨_, k + 1, ?_, .inr ?_, hrounds, ?_⟩
      · rw [habs]
        exact_mod_cast (Nat.log2_lt hm).mp (by omega)
      · rw [habs]
        exact_mod_cast (Nat.le_log2 hm).mp (by omega)
      · rw [hvalue, zpow_natCast]
        push_cast
        ring
  · rw [fOfInt_nonzero rm h0 hv] at hexact ⊢
    simp only [hexact, decide_eq_true_eq]

end Sys2Proof.Machine

/-!
PROOFS. Register moves, leading zeros, sign operations and conversions as instructions.
-/

namespace Sys2Proof.Machine

/-! ## Register instructions (R77, R78, R110) -/

/-- A register instruction that issues. -/
theorem regInstr_runs {s : State} {t : Tid} {regs : BitVec 4} (f : Thread → Thread) (hi : s.issues t regs) :
    s.regInstr t regs f = s.afterInstr t (f (s.thr t)) :=
  issue_runs s t _ _ _ _ _ hi rfl (by simp) rfl

/-- The difference from zero. -/
theorem subFlags_zero (f a : Word) :
    subFlags f 0 a false = (-a, setV (putFlag (setNZ f (-a)) flagC (a == 0)) (a == 0x80000000)) := by
  have hr : (0 : Word) - a - BitVec.ofNat 32 false.toNat = -a := by simp
  have hc : decide (a.toNat + false.toNat ≤ (0 : Word).toNat) = (a == 0) := by
    rw [Bool.eq_iff_iff, decide_eq_true_eq, beq_iff_eq]
    simp only [Bool.toNat_false]
    bv_omega
  have hv : decide (¬ (-(2 ^ 31) ≤ (0 : Word).toInt - a.toInt - false.toNat ∧ (0 : Word).toInt - a.toInt - false.toNat < 2 ^ 31)) =
      (a == 0x80000000) := by
    rw [Bool.eq_iff_iff, decide_eq_true_eq, beq_iff_eq]
    have hint := BitVec.toInt_eq_toNat_cond a
    have hzero : (0 : Word).toInt = 0 := rfl
    have hmin : (0x80000000 : Word).toNat = 2147483648 := rfl
    rw [hzero, ← BitVec.toNat_inj, hmin, Bool.toNat_false]
    have := a.isLt
    omega
  rw [subFlags_eq, hr, hc, hv]

/-- Leading zeros counted over the lowest k bits. -/
theorem clz_upto (a : Word) (k : Nat) (hk : k ≤ 32) :
    ∃ n, (List.range k).foldl (fun n i => if a.getLsbD i then 31 - i else n) 32 = n ∧
      ((n = 32 ∧ ∀ j < k, a.getLsbD j = false) ∨
        ∃ i < k, n = 31 - i ∧ a.getLsbD i = true ∧ ∀ j, i < j → j < k → a.getLsbD j = false) := by
  induction k with
  | zero => exact ⟨32, rfl, .inl ⟨rfl, by simp⟩⟩
  | succ k ih =>
    obtain ⟨n, hn, hcount⟩ := ih (by omega)
    rw [List.range_succ, List.foldl_append, hn, List.foldl_cons, List.foldl_nil]
    refine ⟨_, rfl, ?_⟩
    cases hbit : a.getLsbD k with
    | true => exact .inr ⟨k, by omega, rfl, hbit, fun j hj hj' => by omega⟩
    | false =>
      have hnext (j : Nat) (hj : j < k → a.getLsbD j = false) (hj' : j < k + 1) : a.getLsbD j = false := by
        rcases Nat.lt_succ_iff_lt_or_eq.mp hj' with h | rfl
        · exact hj h
        · exact hbit
      obtain ⟨hn, hzero⟩ | ⟨i, hi, hn, hset, hzero⟩ := hcount
      · exact .inl ⟨hn, fun j => hnext j (hzero j)⟩
      · exact .inr ⟨i, by omega, hn, hset, fun j hj => hnext j (hzero j hj)⟩

theorem clz_spec (a : Word) : clz a ≤ 32 ∧ (∀ i, i < clz a → a.getLsbD (31 - i) = false) ∧
    (clz a < 32 → a.getLsbD (31 - clz a) = true) := by
  obtain ⟨n, hn, ⟨rfl, hzero⟩ | ⟨k, hk, rfl, hset, hzero⟩⟩ := clz_upto a 32 le_rfl
  · rw [clz, hn]
    exact ⟨le_rfl, fun i hi => hzero _ (by omega), fun h => absurd h (lt_irrefl _)⟩
  · rw [clz, hn]
    refine ⟨by omega, fun i hi => hzero _ (by omega) (by omega), fun _ => ?_⟩
    rwa [Nat.sub_sub_self (by omega)]

/-- Settles O15: conversions round by `fRounded_rounds` and `fOfInt_spec`; the others write what their command names. -/
theorem registerGroupAndConversions : Obligations.RegisterGroupAndConversions := by
  unfold Obligations.RegisterGroupAndConversions
  refine ⟨?_, ?_⟩
  · intro s t th negf
    refine ⟨fun hi => ⟨?_, congrArg _ (regInstr_runs _ hi), clz th.a, ?_⟩,
      fun hi => ⟨congrArg _ (regInstr_runs _ hi), congrArg _ (regInstr_runs _ hi)⟩,
      fun hi => ⟨congrArg _ (regInstr_runs _ hi), congrArg _ (regInstr_runs _ hi)⟩,
      fun hi => ⟨congrArg _ (regInstr_runs _ hi), congrArg _ (regInstr_runs _ hi)⟩,
      fun hi => ⟨congrArg _ (regInstr_runs _ hi), congrArg _ (regInstr_runs _ hi)⟩⟩
    · refine congrArg _ ((regInstr_runs _ hi).trans ?_)
      rw [subFlags_zero]
      rfl
    · obtain ⟨hle, hzero, hset⟩ := clz_spec th.a
      exact ⟨hle, hzero, hset, congrArg _ (regInstr_runs _ hi)⟩
  · intro s t hi th after out nx expo frac value rounds float
    have hexpo (w : Word) : expo w = fExp w := (fExp_eq w).symm
    have hfrac (w : Word) : frac w = fFrac w := (fFrac_eq w).symm
    have hvalue (w : Word) : value w = f32Value w := by
      rw [f32Value, fExp_eq, fFrac_eq, signInt, apply_ite (Int.cast (R := ℚ)), Int.cast_neg, Int.cast_one]
      rfl
    have hftoi : exec (.ftoi t) s = .next (s.afterInstr t (th.setSticky (fToInt th.rm th.a (-2 ^ 31) (2 ^ 31 - 1)))) :=
      congrArg _ (regInstr_runs _ hi)
    have hftou : exec (.ftou t) s = .next (s.afterInstr t (th.setSticky (fToInt th.rm th.a 0 (2 ^ 32 - 1)))) :=
      congrArg _ (regInstr_runs _ hi)
    have hof (v : ℤ) (hv : v.natAbs < 2 ^ 32) : float v (fOfInt th.rm v).1 ∧
        (fOfInt th.rm v).2 = nx (decide (value (fOfInt th.rm v).1 = v)) := by
      obtain ⟨hfin, hzero, ⟨n, q, hlt, hge, hrounds, hval⟩, hflags⟩ := fOfInt_spec th.rm hv
      exact ⟨⟨hexpo _ ▸ hfin, hzero, n, q, hlt, hge, hrounds, (hvalue _).trans hval⟩, hvalue _ ▸ hflags⟩
    refine ⟨fun he hf => ?_, fun he hf => ?_, fun he => ?_, ?_, ?_⟩
    · rw [hexpo] at he
      rw [hfrac] at hf
      rw [hftoi, hftou, fToInt_nan _ he hf, fToInt_nan _ he hf]
      exact ⟨rfl, rfl⟩
    · rw [hexpo] at he
      rw [hfrac] at hf
      rw [hftoi, hftou, fToInt_inf _ he hf, fToInt_inf _ he hf]
      cases hsign : th.a.getLsbD 31 with
      | true => simp only [fSign, hsign, if_true]; exact ⟨rfl, rfl⟩
      | false => simp only [fSign, hsign, Bool.false_eq_true, if_false]; exact ⟨rfl, rfl⟩
    · rw [hexpo] at he
      have htopI : (2 ^ 31 - 1 : ℤ) < fRounded th.rm th.a ↔ 2 ^ 31 ≤ fRounded th.rm th.a := by omega
      have htopU : (2 ^ 32 - 1 : ℤ) < fRounded th.rm th.a ↔ 2 ^ 32 ≤ fRounded th.rm th.a := by omega
      refine ⟨fRounded th.rm th.a, (hvalue th.a).symm ▸ fRounded_rounds th.rm th.a, ?_, ?_⟩
      · rw [hftoi, fToInt_finite _ he, hvalue]
        simp only [htopI]
        split
        · rfl
        · split <;> rfl
      · rw [hftou, fToInt_finite _ he, hvalue]
        simp only [htopU]
        split
        · rfl
        · split <;> rfl
    · have hlt : th.a.toInt.natAbs < 2 ^ 32 := by
        have := BitVec.toInt_lt (x := th.a)
        have := BitVec.le_toInt th.a
        omega
      obtain ⟨hfloat, hflags⟩ := hof _ hlt
      refine ⟨_, hfloat, (congrArg _ (regInstr_runs _ hi)).trans ?_⟩
      rw [← hflags]
      rfl
    · obtain ⟨hfloat, hflags⟩ := hof (th.a.toNat : ℤ) (by have := th.a.isLt; omega)
      refine ⟨_, hfloat, (congrArg _ (regInstr_runs _ hi)).trans ?_⟩
      rw [Int.cast_natCast] at hflags
      rw [← hflags]
      rfl

end Sys2Proof.Machine

/-!
PROOFS. Logic, shifts, products and quotients of threads.
-/

namespace Sys2Proof.Machine

/-! ## Shifts by the full unsigned amount (R111) -/

theorem shlRes_eq (a : Word) (k : Nat) : shlRes a k = (a <<< k, decide (1 ≤ k ∧ k ≤ 32) && a.getLsbD (32 - k)) := by
  have hshift : BitVec.ofNat 32 (a.toNat * 2 ^ k) = a <<< k := BitVec.eq_of_toNat_eq (by simp [Nat.shiftLeft_eq])
  rw [shlRes, hshift]
  split_ifs with h0 h32
  · simp [h0]
  · rw [decide_eq_true ⟨Nat.one_le_iff_ne_zero.mpr h0, h32⟩, Bool.true_and]
  · rw [BitVec.shiftLeft_eq_zero (by omega), decide_eq_false (fun h => h32 h.2), Bool.false_and]
    rfl

theorem shrRes_eq (a : Word) (k : Nat) : shrRes a k = (a >>> k, decide (1 ≤ k ∧ k ≤ 32) && a.getLsbD (k - 1)) := by
  have hshift : BitVec.ofNat 32 (a.toNat / 2 ^ k) = a >>> k := by
    rw [← Nat.shiftRight_eq_div_pow, ← BitVec.toNat_ushiftRight, BitVec.ofNat_toNat, BitVec.setWidth_eq]
  rw [shrRes, hshift]
  split_ifs with h0 h32
  · simp [h0]
  · rw [decide_eq_true ⟨Nat.one_le_iff_ne_zero.mpr h0, h32⟩, Bool.true_and]
  · rw [BitVec.ushiftRight_eq_zero (by omega), decide_eq_false (fun h => h32 h.2), Bool.false_and]
    rfl

/-- From 32 on, an arithmetic right shift leaves copies of the sign. -/
theorem sshiftRight_of_le (a : Word) {k : Nat} (hk : 32 ≤ k) : a.sshiftRight k = a.sshiftRight 32 := by
  refine BitVec.eq_of_getLsbD_eq fun i hi => ?_
  rw [BitVec.getLsbD_sshiftRight, BitVec.getLsbD_sshiftRight, if_neg (by omega), if_neg (by omega)]

theorem sarRes_eq (a : Word) (k : Nat) :
    sarRes a k = (a.sshiftRight k, decide (1 ≤ k ∧ k ≤ 32) && a.getLsbD (k - 1)) := by
  rw [sarRes]
  split_ifs with h0 h32
  · simp [h0]
  · rw [decide_eq_true ⟨Nat.one_le_iff_ne_zero.mpr h0, h32⟩, Bool.true_and]
  · rw [sshiftRight_of_le a (by omega : 32 ≤ k), decide_eq_false (fun h => h32 h.2), Bool.false_and]

theorem rolRes_eq (a : Word) (k : Nat) : rolRes a k = (a.rotateLeft k, (a.rotateLeft k).getLsbD 0) := by
  rw [rolRes, BitVec.rotateLeft_mod_eq_rotateLeft]

/-! ## Products and quotients (R107 to R109) -/

theorem ofInt_toInt_mul (a b : Word) : BitVec.ofInt 32 (a.toInt * b.toInt) = a * b := by
  rw [BitVec.ofInt_mul, BitVec.ofInt_toInt, BitVec.ofInt_toInt]

theorem ofInt_tdiv (a b : Word) : BitVec.ofInt 32 (a.toInt.tdiv b.toInt) = a.sdiv b := by
  refine BitVec.eq_of_toInt_eq ?_
  rw [BitVec.toInt_ofInt, BitVec.toInt_sdiv]

theorem ofInt_tmod (a b : Word) : BitVec.ofInt 32 (a.toInt.tmod b.toInt) = a.srem b := by
  rw [← BitVec.toInt_srem, BitVec.ofInt_toInt]

/-- A signed division: the results of a zero divisor, else quotient and remainder, which overflow for -2^31 / -1 alone. -/
theorem divSigned_eq (a b : Word) :
    divSigned a b = if b = 0 then (0xFFFFFFFF, a, false)
      else (a.sdiv b, a.srem b, decide (a = 0x80000000 ∧ b = 0xFFFFFFFF)) := by
  rw [divSigned, ofInt_tdiv, ofInt_tmod]
  by_cases hovf : a = 0x80000000 ∧ b = 0xFFFFFFFF
  · obtain ⟨rfl, rfl⟩ := hovf
    decide
  · have hovf' : ¬ (decide (a = 0x80000000) && decide (b = 0xFFFFFFFF)) = true := by simpa using hovf
    rw [if_neg hovf', decide_eq_false hovf]

theorem divUnsigned_eq (a b : Word) : divUnsigned a b = if b = 0 then (0xFFFFFFFF, a) else (a / b, a % b) := by
  have hdiv : BitVec.ofNat 32 (a.toNat / b.toNat) = a / b := by
    rw [← BitVec.toNat_udiv, BitVec.ofNat_toNat, BitVec.setWidth_eq]
  have hmod : BitVec.ofNat 32 (a.toNat % b.toNat) = a % b := by
    rw [← BitVec.toNat_umod, BitVec.ofNat_toNat, BitVec.setWidth_eq]
  rw [divUnsigned, hdiv, hmod]

/-- A zero divisor has the dividend as its unsigned remainder, with no case of its own. -/
theorem divUnsigned_snd (a b : Word) : (divUnsigned a b).2 = a % b := by
  rw [divUnsigned_eq]
  split_ifs with h0
  · rw [h0]
    exact BitVec.umod_zero.symm
  · rfl

/-- Settles O3: each instruction is a value instruction, whose result the equation of its shift, product or quotient gives. -/
theorem logicShiftsProductsQuotients : Obligations.LogicShiftsProductsQuotients := by
  unfold Obligations.LogicShiftsProductsQuotients
  refine ⟨?_, ?_⟩
  · intro s t m o v th k logic shift
    refine ⟨fun h => next_valueInstr h, fun h => next_valueInstr h, fun h => next_valueInstr h, fun h => next_valueInstr h,
      fun h => ?_, fun h => ?_, fun h => ?_, fun h => ?_⟩
    all_goals
      refine (next_valueInstr h).trans ?_
      simp only [applyOp, shlRes_eq, shrRes_eq, sarRes_eq, rolRes_eq]
      rfl
  · intro s t m o v th p ovf done divided
    have hp : BitVec.ofInt 32 p = th.a * v := ofInt_toInt_mul th.a v
    refine ⟨fun h => ?_, fun h => next_valueInstr h, fun h => ?_, fun h => ?_, fun h => ?_, fun h => ?_⟩
    · have hexec : exec (.mul t m o) s = .next (done (BitVec.ofInt 32 p)
          (setV (setNZ th.f (BitVec.ofInt 32 p)) (decide (p ≠ (BitVec.ofInt 32 p).toInt)))) := next_valueInstr h
      rw [hexec, decide_eq_decide.mpr (ne_toInt_ofInt_iff p), hp]
    · have hexec : exec (.div t m o) s = .next (divided (divSigned th.a v).1 (divSigned th.a v).2.2) := next_valueInstr h
      rw [hexec, divSigned_eq]
      split_ifs <;> rfl
    · have hexec : exec (.divu t m o) s = .next (divided (divUnsigned th.a v).1 false) := next_valueInstr h
      rw [hexec, divUnsigned_eq]
      split_ifs <;> rfl
    · have hexec : exec (.rem t m o) s = .next (divided (divSigned th.a v).2.1 (divSigned th.a v).2.2) := next_valueInstr h
      rw [hexec, divSigned_eq]
      split_ifs <;> rfl
    · have hexec : exec (.remu t m o) s = .next (divided (divUnsigned th.a v).2 false) := next_valueInstr h
      rw [hexec, divUnsigned_snd]
      rfl

end Sys2Proof.Machine

/-!
PROOFS. Special values of binary32 arithmetic, and the four outcomes of FCMP.
-/

namespace Sys2Proof.Machine

/-! ## Classes of binary32 words (R112) -/

theorem fIsInf_iff {w : Word} : fIsInf w = true ↔ fExp w = 255 ∧ fFrac w = 0 := by
  rw [fIsInf, Bool.and_eq_true, beq_iff_eq, beq_iff_eq]

theorem fIsZero_iff {w : Word} : fIsZero w = true ↔ fExp w = 0 ∧ fFrac w = 0 := by
  rw [fIsZero, Bool.and_eq_true, beq_iff_eq, beq_iff_eq]

theorem fIsNan_of_fIsInf {w : Word} (h : fIsInf w = true) : fIsNan w = false := by
  obtain ⟨-, hfrac⟩ := fIsInf_iff.mp h
  simp [fIsNan, hfrac]

theorem fIsNan_of_fIsZero {w : Word} (h : fIsZero w = true) : fIsNan w = false := by
  obtain ⟨-, hfrac⟩ := fIsZero_iff.mp h
  simp [fIsNan, hfrac]

theorem fIsInf_of_fIsZero {w : Word} (h : fIsZero w = true) : fIsInf w = false := by
  obtain ⟨hexp, -⟩ := fIsZero_iff.mp h
  simp [fIsInf, hexp]

theorem fIsSnan_of_not_fIsNan {w : Word} (h : fIsNan w = false) : fIsSnan w = false := by
  rw [fIsSnan, h, Bool.false_and]

/-- The sign is no part of exponent and fraction. -/
theorem fIsNan_xor_sign (w : Word) : fIsNan (w ^^^ 0x80000000) = fIsNan w := by
  have hexp : fExp (w ^^^ 0x80000000) = fExp w := by
    rw [fExp_eq, fExp_eq, BitVec.extractLsb'_xor]
    exact congrArg BitVec.toNat (BitVec.xor_zero ..)
  have hfrac : fFrac (w ^^^ 0x80000000) = fFrac w := by
    rw [fFrac_eq, fFrac_eq, BitVec.extractLsb'_xor]
    exact congrArg BitVec.toNat (BitVec.xor_zero ..)
  rw [fIsNan, hexp, hfrac, fIsNan]

/-! ## NaN operands (R113) -/

/-- NV for two operands. -/
theorem nanFlags_eq (a b : Word) :
    nanFlags a b = if fIsSnan a || fIsSnan b then BitVec.ofNat 32 (2 ^ 20) else 0 := rfl

theorem fadd_nan (rm : BitVec 2) {a b : Word} (h : (fIsNan a || fIsNan b) = true) : fadd rm a b = (fNan, nanFlags a b) := by
  rw [fadd, if_pos h]

/-- A difference takes its NaNs as its operands are, before the sign of the second changes. -/
theorem fsub_nan (rm : BitVec 2) {a b : Word} (h : (fIsNan a || fIsNan b) = true) : fsub rm a b = (fNan, nanFlags a b) := by
  cases hb : fIsNan b with
  | true => rw [fsub, hb, if_pos rfl]
  | false =>
    have hb' : fIsNan (b ^^^ 0x80000000) = false := (fIsNan_xor_sign b).trans hb
    have hflags : nanFlags a (b ^^^ 0x80000000) = nanFlags a b := by
      rw [nanFlags, nanFlags, fIsSnan_of_not_fIsNan hb, fIsSnan_of_not_fIsNan hb']
    rw [fsub, hb, if_neg Bool.false_ne_true, fadd_nan rm (by rwa [hb', ← hb]), hflags]

theorem fmul_nan (rm : BitVec 2) {a b : Word} (h : (fIsNan a || fIsNan b) = true) : fmul rm a b = (fNan, nanFlags a b) := by
  rw [fmul, if_pos h]

theorem fdiv_nan (rm : BitVec 2) {a b : Word} (h : (fIsNan a || fIsNan b) = true) : fdiv rm a b = (fNan, nanFlags a b) := by
  rw [fdiv, if_pos h]

theorem fsqrt_nan (rm : BitVec 2) {b : Word} (h : fIsNan b = true) : fsqrt rm b = (fNan, nanFlags b b) := by
  rw [fsqrt, if_pos h]

/-! ## Infinities and zeros (R114) -/

theorem fadd_inf_inf (rm : BitVec 2) {a b : Word} (ha : fIsInf a = true) (hb : fIsInf b = true) :
    fadd rm a b = if fSign a != fSign b then (fNan, mask1 stickyNV) else (a, 0) := by
  simp [fadd, fIsNan_of_fIsInf ha, fIsNan_of_fIsInf hb, ha, hb]

theorem fmul_inf_zero (rm : BitVec 2) {a b : Word} (ha : fIsInf a = true) (hb : fIsZero b = true) :
    fmul rm a b = (fNan, mask1 stickyNV) := by
  simp [fmul, fIsNan_of_fIsInf ha, fIsNan_of_fIsZero hb, ha, hb]

theorem fmul_zero_inf (rm : BitVec 2) {a b : Word} (ha : fIsZero a = true) (hb : fIsInf b = true) :
    fmul rm a b = (fNan, mask1 stickyNV) := by
  simp [fmul, fIsNan_of_fIsZero ha, fIsNan_of_fIsInf hb, ha, hb]

theorem fdiv_inf_inf (rm : BitVec 2) {a b : Word} (ha : fIsInf a = true) (hb : fIsInf b = true) :
    fdiv rm a b = (fNan, mask1 stickyNV) := by
  simp [fdiv, fIsNan_of_fIsInf ha, fIsNan_of_fIsInf hb, ha, hb]

/-- A finite dividend over zero: no number for a zero dividend, else an infinity. -/
theorem fdiv_by_zero (rm : BitVec 2) {a b : Word} (hnan : fIsNan a = false) (hinf : fIsInf a = false)
    (hb : fIsZero b = true) :
    fdiv rm a b = if fIsZero a then (fNan, mask1 stickyNV) else (fInf (fSign a != fSign b), mask1 stickyDZF) := by
  simp [fdiv, hnan, hinf, fIsNan_of_fIsZero hb, fIsInf_of_fIsZero hb, hb]

theorem fsqrt_zero (rm : BitVec 2) {b : Word} (h : fIsZero b = true) : fsqrt rm b = (b, 0) := by
  simp [fsqrt, fIsNan_of_fIsZero h, h]

theorem fsqrt_neg (rm : BitVec 2) {b : Word} (hnan : fIsNan b = false) (hzero : fIsZero b = false)
    (hsign : fSign b = true) : fsqrt rm b = (fNan, mask1 stickyNV) := by
  simp [fsqrt, hnan, hzero, hsign]

theorem fInf_eq (neg : Bool) : fInf neg = if neg then 0xFF800000 else 0x7F800000 := by
  cases neg <;> rfl

/-! ## FCMP (R79) -/

/-- NV of two operands is bit 20. -/
theorem getLsbD_nanFlags (a b : Word) (i : Nat) :
    (nanFlags a b).getLsbD i = (decide (i = 20) && (fIsSnan a || fIsSnan b)) := by
  have hm : (BitVec.ofNat 32 (2 ^ 20)).getLsbD i = decide (i = 20) := by
    rw [BitVec.getLsbD_ofNat, Nat.testBit_two_pow]
    by_cases h : i = 20 <;> simp [h, eq_comm]
  rw [nanFlags_eq]
  cases fIsSnan a || fIsSnan b with
  | true => rw [if_pos rfl, hm, Bool.and_true]
  | false => simp

/-- The bits of F after a comparison. -/
theorem getLsbD_fcmpFlags (f a b : Word) {i : Nat} (hi : i < 32) :
    (fcmpFlags f a b).getLsbD i =
      ((if i = 0 then fIsNan a || fIsNan b
        else if i = 1 then !(fIsNan a || fIsNan b) && decide (fKey b < fKey a)
        else if i = 3 then !(fIsNan a || fIsNan b) && decide (fKey a < fKey b)
        else if i = 2 then !(fIsNan a || fIsNan b) && decide (fKey a = fKey b)
        else f.getLsbD i) || (decide (i = 20) && (fIsSnan a || fIsSnan b))) := by
  simp only [fcmpFlags, BitVec.getLsbD_or, getLsbD_putFlag _ _ _ _ hi, getLsbD_nanFlags]
  rfl

/-- Of unordered, above, equal and below, exactly one holds. -/
theorem one_outcome (un : Bool) (x y : ℤ) :
    un.toNat + (!un && decide (y < x)).toNat + (!un && decide (x = y)).toNat + (!un && decide (x < y)).toNat = 1 := by
  cases un with
  | true => rfl
  | false =>
    rcases lt_trichotomy x y with h | h | h
    · simp [h, h.ne, h.not_gt]
    · simp [h]
    · simp [h, h.ne', h.not_gt]

/-- Settles O5: each special value is a branch of its operation; FCMP writes four bits of F and adds NV. -/
theorem floatSpecialValues : Obligations.FloatSpecialValues := by
  unfold Obligations.FloatSpecialValues
  refine ⟨?_, ?_⟩
  · intro rm a b nv sign inf
    refine ⟨fun h => ⟨fadd_nan rm h, fsub_nan rm h, fmul_nan rm h, fdiv_nan rm h⟩, fun h => ?_,
      fun ha hb => fadd_inf_inf rm ha hb, fun ha hb => ⟨fmul_inf_zero rm ha hb, fmul_zero_inf rm hb ha⟩,
      fun ha hb => ?_, fun ha hb => fdiv_inf_inf rm ha hb, fun hnan hinf ha hb => ?_,
      fun hnan hzero hsign => fsqrt_neg rm hnan hzero hsign, fun h => fsqrt_zero rm h⟩
    · rw [fsqrt_nan rm h, nanFlags, Bool.or_self]
      rfl
    · rw [fdiv_by_zero rm (fIsNan_of_fIsZero ha) (fIsInf_of_fIsZero ha) hb, if_pos ha]
      rfl
    · rw [fdiv_by_zero rm hnan hinf hb, if_neg (by simp [ha]), fInf_eq]
      rfl
  · intro f a b r un
    have hun : r.getLsbD 0 = un := (getLsbD_fcmpFlags f a b (by decide)).trans (by simp [un])
    have heq : r.getLsbD 2 = (!un && decide (fKey a = fKey b)) :=
      (getLsbD_fcmpFlags f a b (by decide)).trans (by simp [un])
    have hlt : r.getLsbD 3 = (!un && decide (fKey a < fKey b)) :=
      (getLsbD_fcmpFlags f a b (by decide)).trans (by simp [un])
    have hgt : r.getLsbD 1 = (!un && decide (fKey b < fKey a)) :=
      (getLsbD_fcmpFlags f a b (by decide)).trans (by simp [un])
    refine ⟨hun, heq, hlt, hgt, ?_, fun i h4 hi => ?_⟩
    · rw [hun, hgt, heq, hlt]
      exact one_outcome un (fKey a) (fKey b)
    · rw [getLsbD_fcmpFlags f a b hi, if_neg (by omega), if_neg (by omega), if_neg (by omega), if_neg (by omega)]

end Sys2Proof.Machine

/-!
PROOFS. The life cycle of a thread, its setup registers and role, and the tongs.
-/

namespace Sys2Proof.Machine

/-- A command that is a register access by a writer does what the access does to this state, at a domain that takes it. -/
theorem next_access_takes {s u : State} {d : Nat} {f : State → State} (w : Writer) (a : RegAcc) (htakes : s.takes d)
    (h : f s = u) : (.next (s.access w fun s => s.regAtDomain d a f) : Out) = .next (s.access w fun _ => u) :=
  congrArg _ ((access_regAtDomain_takes s w a f htakes).trans (access_congr h))

/-! ## Release, STOP and HALT (R122, R125 to R127, R390) -/

theorem settled_iff {x : ThreadState} : x.settled = true ↔ x ∈ [.unreleased, .stopped, .halted, .faulted] := by
  cases x <;> decide

theorem settled_eq_false_iff {x : ThreadState} :
    x.settled = false ↔ x ∉ [.unreleased, .stopped, .halted, .faulted] := by
  rw [← settled_iff, Bool.not_eq_true]

theorem asleep_iff {x : ThreadState} : x.asleep = true ↔ x ∈ [.sleepQueue, .sleepLock] := by
  cases x <;> decide

section
variable {s : State} {w : Writer} {t : Tid}

/-- A settled thread of a core in service that no shadow role holds back starts. -/
theorem release_of_free (hst : (s.thr t).st.settled = true) (hcore : s.coreRetired (coreOf t) = false)
    (hrun : s.runBarred = false) (hfree : s.beginPair.shadowHeld t = false) :
    s.release t = s.beginPair.startThread t := by
  simp [State.release, hst, hcore, hrun, hfree]

/-- The release of a shadow thread is remembered until its role allows it (R429). -/
theorem release_of_shadow (hst : (s.thr t).st.settled = true) (hcore : s.coreRetired (coreOf t) = false)
    (hrun : s.runBarred = false) (hheld : s.beginPair.shadowHeld t = true) :
    s.release t = s.beginPair.setThr t { s.beginPair.thr t with relPend := true } := by
  simp [State.release, hst, hcore, hrun, hheld]

theorem stopThread_of_running (hst : (s.thr t).st = .running) :
    s.stopThread t = (s.dropClaims (ownerThread t)).setThr t
      { (s.dropClaims (ownerThread t)).thr t with st := .stopping, runAhead := [] } := by
  simp [State.stopThread, hst]

/-- A sleep is cancelled, and a delay slot that slept is done with (R126). -/
theorem stopThread_of_asleep (hst : (s.thr t).st.asleep = true) :
    s.stopThread t = (s.dropSleep t).setThr t
      { (s.dropSleep t).thr t with
          st := .stopping, sleep := .awake, slotSlept := ((s.dropSleep t).thr t).slot.isSome } := by
  have hrun : (s.thr t).st ≠ .running := fun h => by simp [h, ThreadState.asleep] at hst
  simp [State.stopThread, hst, hrun]

theorem wrThrCtl_release (ho : overCore w (coreOf t) = true) : s.wrThrCtl w t 1 = s.release t := by
  rw [State.wrThrCtl, ho]
  rfl

/-- A thread's STOP of itself is ignored; any other writer's stops it. -/
theorem wrThrCtl_stop (ho : overCore w (coreOf t) = true) (hw : w ≠ .thread t) : s.wrThrCtl w t 2 = s.stopThread t := by
  rw [State.wrThrCtl, ho]
  exact if_neg hw

/-- STOPPING ends once nothing older is out and no delay slot is owed. -/
theorem stopped_of_done {th : Thread} (hst : th.st = .stopping) (hfar : th.far = []) (hfault : th.pendFault = none)
    (hhalt : th.halting = none) (hslot : th.slot = none ∨ th.slotSlept = true) : th.stopped = true := by
  simpa [Thread.stopped, hst, hfar, hfault, hhalt] using hslot

/-- The state in which the HALT at address a leaves thread t, before its notice. -/
def State.settleHalt (s : State) (t : Tid) (a : Word) : State :=
  s.setThr t { s.thr t with st := .halted, pc := a + 4, halting := none, slot := none }

section
variable {a : Word} (hhalt : (s.thr t).halting = some a) (hfar : (s.thr t).far = [])
  (hfault : (s.thr t).pendFault = none) (hst : (s.thr t).st = .running)
include hhalt hfar hfault hst

/-- A HALT of a running thread ends when no far access is out. -/
theorem haltDone_silent (hnote : (s.thr t).hnote = false) : s.haltDone t = s.settleHalt t a := by
  simp [State.haltDone, hhalt, hfar, hfault, hst, hnote, ThreadState.settled, State.settleHalt]

/-- With HNOTE its receiver is told of the HALT (R129). -/
theorem haltDone_notice {r : Tid} (hnote : (s.thr t).hnote = true) (hr : faultReceiver t = some r) :
    s.haltDone t = (s.settleHalt t a).notice (.thread t) ((s.settleHalt t a).faultQueue (coreOf r).toNat)
      (mkItem true 15 2 (senderThread t) ((a.extractLsb' 2 16).setWidth 32)) := by
  simp [State.haltDone, hhalt, hfar, hfault, hst, hnote, hr, ThreadState.settled, State.settleHalt]
end
end

/-- Settles O20: release and STOP are writes of THR.CTL by a writer with authority over the core. -/
theorem threadLifeCycle : Obligations.ThreadLifeCycle := by
  unfold Obligations.ThreadLifeCycle
  intro s w t th
  refine ⟨fun ho htakes => ⟨fun hst hcore hrun hfree => ?start, fun hst hcore hrun hheld => ?held,
    fun hst hw => ?stop, fun hst hw => ?cancel⟩, fun hst hfar hfault hhalt hslot => ?stopped,
    fun a hhalt hfar hfault hst => ⟨fun hnote => ?halt, fun r hnote hr => ?notice⟩⟩
  case start =>
    have hrelease := release_of_free (settled_iff.mpr hst) hcore hrun hfree
    exact next_access_takes w _ htakes ((wrThrCtl_release ho).trans hrelease)
  case held =>
    have hrelease := release_of_shadow (settled_iff.mpr hst) hcore hrun hheld
    exact next_access_takes w _ htakes ((wrThrCtl_release ho).trans hrelease)
  case stop => exact next_access_takes w _ htakes ((wrThrCtl_stop ho hw).trans (stopThread_of_running hst))
  case cancel =>
    have hcancel := stopThread_of_asleep (asleep_iff.mpr hst)
    exact next_access_takes w _ htakes ((wrThrCtl_stop ho hw).trans hcancel)
  case stopped => exact congrArg _ (if_pos (stopped_of_done hst hfar hfault hhalt hslot))
  case halt => exact congrArg _ (haltDone_silent hhalt hfar hfault hst hnote)
  case notice => exact congrArg _ (haltDone_notice hhalt hfar hfault hst hnote hr)

/-! ## Setup registers, THR.CFG and roles (R124, R132, R133, R135) -/

section
variable {s : State} {w : Writer} {t : Tid} {v : Word}

/-- A setup write to a thread that has not settled is ignored and noted in WIGN. -/
theorem wrThr_of_live (ho : overCore w (coreOf t) = true) (hst : (s.thr t).st.settled = false) (r : ThrReg) :
    s.wrThr w t r v = (s.noteEvent F.thrStat_WIGN 1 t.toNat).setThr t { s.thr t with wign := true } := by
  simp [State.wrThr, ho, hst]

section
variable (ho : overCore w (coreOf t) = true) (hst : (s.thr t).st.settled = true)
include ho hst

theorem wrThr_a : s.wrThr w t .a v = s.setThr t { s.thr t with a := v } := by simp [State.wrThr, ho, hst]

theorem wrThr_x : s.wrThr w t .x v = s.setThr t { s.thr t with x := v } := by simp [State.wrThr, ho, hst]

theorem wrThr_y : s.wrThr w t .y v = s.setThr t { s.thr t with y := v } := by simp [State.wrThr, ho, hst]

variable (hw : w ≠ .boot)
include hw

/-- Only a record of the boot unit sets the entry PC of the image beside PC. -/
theorem wrThr_pc : s.wrThr w t .pc v =
    s.setThr t { s.thr t with pc := v &&& 0xFFFFFFFC, slot := none, slotSlept := false, path := none } := by
  simp [State.wrThr, ho, hst, hw]

theorem wrThr_tp : s.wrThr w t .tp v = s.setThr t { s.thr t with tp := v &&& 0x3F000 } := by
  simp [State.wrThr, ho, hst, hw]

theorem wrThr_role : s.wrThr w t .role v = s.reassign t (v.extractLsb' 16 16) := by
  cases w
  case boot => exact absurd rfl hw
  all_goals simp [State.wrThr, ho, hst]
end

theorem reassign_of_idle (h : (s.thr t).roleBusy = none) (service : BitVec 16) : s.reassign t service =
    (s.setThr t { s.thr t with service := service, epoch := (s.thr t).epoch + 1 }).purgeRole t (s.cycle + 1) := by
  simp [State.reassign, h]

theorem reassign_of_busy (h : (s.thr t).roleBusy ≠ none) (service : BitVec 16) : s.reassign t service =
    (s.noteEvent F.thrStat_ROLEREJ 1 t.toNat).setThr t { s.thr t with roleRej := true } := by
  simp [State.reassign, Option.isSome_iff_ne_none.mpr h]

/-- THR.CFG may be written at any time; CLASS waits for the frame boundary (R31, R124). -/
theorem wrThrCfg_of_over (ho : overCore w (coreOf t) = true) (hw : w ≠ .boot) : s.wrThrCfg w t v =
    s.setThr t { s.thr t with hnote := v.getLsbD 9, prio := v.extractLsb' 0 4, clsNext := some (v.getLsbD 8) } := by
  cases w
  case boot => exact absurd rfl hw
  all_goals simp [State.wrThrCfg, ho]

/-- A purge holds ROLEBUSY until it has ended, and 1,024 cycles at least. -/
theorem roleBusy_purgeRole (s : State) (t : Tid) (e : Nat) :
    ((s.purgeRole t e).thr t).roleBusy = some (max (s.purgeEnds t e) (e + 1024)) := by
  simp [State.purgeRole]

theorem exec_rolebusyClear {e : Nat} (h : (s.thr t).roleBusy = some e) : exec (.rolebusyClear t) s =
    .next (if s.cycle < e then s else s.setThr t { s.thr t with roleBusy := none }) := by
  change execRolebusyClear t s = _
  rw [execRolebusyClear, h]
end

/-- Settles O22: each setup register as `State.wrThr` writes it; a SERVICE write purges the role's queues. -/
theorem threadSetup : Obligations.ThreadSetup := by
  unfold Obligations.ThreadSetup
  intro s w t v th named roled
  refine ⟨fun ho htakes hw => ⟨fun hst => ?settled, fun hst r => ?live, ?cfg⟩,
    roleBusy_purgeRole named t (s.cycle + 1), fun e he => ⟨fun hdue => ?clear, fun hearly => ?keep⟩⟩
  case settled =>
    have hset := settled_iff.mpr hst
    have hrole := wrThr_role (v := v) ho hset hw
    refine ⟨next_access_takes w _ htakes (wrThr_pc ho hset hw), next_access_takes w _ htakes (wrThr_a ho hset),
      next_access_takes w _ htakes (wrThr_x ho hset), next_access_takes w _ htakes (wrThr_y ho hset),
      next_access_takes w _ htakes (wrThr_tp ho hset hw), fun hidle => ?_, fun hbusy => ?_⟩
    · have hre := hrole.trans (reassign_of_idle hidle _)
      exact ⟨next_access_takes w _ htakes hre, next_access_takes w _ htakes hre⟩
    · exact next_access_takes w _ htakes (hrole.trans (reassign_of_busy hbusy _))
  case live => exact next_access_takes w _ htakes (wrThr_of_live ho (settled_eq_false_iff.mpr hst) r)
  case cfg => exact next_access_takes w _ htakes (wrThrCfg_of_over ho hw)
  case clear => rw [exec_rolebusyClear he, if_neg (Nat.not_lt.mpr hdue)]
  case keep => rw [exec_rolebusyClear he, if_pos hearly]

/-! ## Tongs (R138 to R147, R157, R158) -/

theorem walk_of_unowned {s : State} {addr : Nat} (h : (memWord s.mem addr).getLsbD 22 = false) (waiter : Tid)
    (p : BitVec 4) (start n : Nat) : s.walk waiter p start addr n = s := by
  have hfree : s.ownerAt addr = none := by rw [State.ownerAt, wordOwned, h]; rfl
  cases n <;> simp [State.walk, hfree]

/-- The first waiting watch of a WAITEV begins its walk, unless it has been woken. -/
theorem exec_inheritanceChain {s : State} {t : Tid} {w : Watch}
    (h : s.watches.find? (fun x => x.t == t && x.chain) = some w) :
    let u := { s with watches := s.watches.map fun x => if x = w then { x with chain := false } else x }
    exec (.inheritanceChain t) s = .next (if w.woken then u else u.walk t (s.thr t).effective w.addr w.addr 4) := by
  change execInheritanceChain t s = _
  rw [execInheritanceChain, h]
  rfl

/-- The WAITEV that is woken next completes with Z set, at its thread's hearth (R139). -/
theorem exec_watchWake {s : State} {w : Watch} (hw : s.nextWoken = some w)
    (hon : (s.dom (coreDomain (coreOf w.t))).st = .on) (hst : (s.thr w.t).st = .sleepLock) :
    exec .watchWake s = .next (({ s with watches := s.watches.erase w }).setThr w.t
      ({ s.thr w.t with st := .running, sleep := .awake, lst := 0, f := putFlag (s.thr w.t).f flagZ true }).retire) := by
  change execWatchWake s = _
  simp only [execWatchWake, hw, atDomain_on s _ _ hon]
  exact congrArg _ (if_pos hst)

theorem lockAddrOk_of_coreMem {a : Nat} (hlo : 0x01000000 ≤ a) (hhi : a < 0x01800000) : lockAddrOk a = true := by
  simp [lockAddrOk, hlo, hhi]

theorem lockAddrOk_of_bank {a : Nat} (hlo : 0x02000000 ≤ a) (hhi : a < 0x02800000) : lockAddrOk a = true := by
  simp [lockAddrOk, hlo, hhi]

/-- The word of a force release holds GO and the owner. -/
theorem fcmdWord_fields (owner : Tid) :
    F.lckFcmd_GO.get (F.lckFcmd_GO.put (owner.setWidth 32) 1) = 1 ∧
      BitVec.ofNat 9 (F.lckFcmd_OWNER.get (F.lckFcmd_GO.put (owner.setWidth 32) 1)) = owner := by
  refine ⟨bitsOf_putBits_same _ 31 1 1 (by decide), ?_⟩
  have howner : F.lckFcmd_OWNER.get (F.lckFcmd_GO.put (owner.setWidth 32) 1) = bitsOf (owner.setWidth 32) 0 9 :=
    bitsOf_putBits_other _ 31 1 1 0 9 (by decide) (by decide)
  rw [howner, bitsOf_eq_extractLsb', ← BitVec.setWidth_eq_extractLsb' (by decide),
    BitVec.setWidth_setWidth_of_le _ (by decide), BitVec.setWidth_eq, BitVec.ofNat_toNat, BitVec.setWidth_eq]

/-- The force release of word a from its owner is in progress in core c's set: BUSY stands. -/
def State.releasing (s : State) (c : CoreId) (owner : Tid) (a : Nat) : State :=
  (s.setFld F.lckFstat_BUSY 1 c.toNat).setCore c { s.core c with release := some (owner, a) }

section
variable {s : State} {w : Writer} {c : CoreId} {owner : Tid}

theorem wrFcmd_go (hset : ownSet w c = true) (hidle : (s.core c).release = none) :
    s.wrFcmd w c (F.lckFcmd_GO.put (owner.setWidth 32) 1) = s.forceRelease w c owner := by
  obtain ⟨hgo, howner⟩ := fcmdWord_fields owner
  simp [State.wrFcmd, hset, hidle, hgo, howner]

/-- A force release of a lock address from a thread in the writer's authority begins (R157). -/
theorem forceRelease_begins (haddr : lockAddrOk (s.fld F.lckFaddr_ADDR c.toNat * 4) = true)
    (ho : overCore w (coreOf owner) = true) :
    s.forceRelease w c owner = (s.releasing c owner (s.fld F.lckFaddr_ADDR c.toNat * 4)).tryRelease c := by
  simp only [State.forceRelease, haddr, ho, Bool.not_true, Bool.false_eq_true, if_false]
  rfl

variable {a : Nat}

theorem release_releasing (s : State) (c : CoreId) (owner : Tid) (a : Nat) :
    ((s.releasing c owner a).core c).release = some (owner, a) := by
  simp [State.releasing]

/-- The word's owner loses it, and is told by a revocation record (R146, R147). -/
theorem releaseWord_of_owned (hword : a < 0x01800000) (howned : (memWord s.mem a).getLsbD 22 = true)
    (howner : (memWord s.mem a).extractLsb' 23 9 = owner) (hroom : (s.thr owner).revoked.length < 4) :
    s.releaseWord c owner a = ((s.performWrite a 0xF 0).setThr owner
      { s.thr owner with revoked := (s.thr owner).revoked ++ [a] }).releaseEnds c 0 := by
  have hat : s.ownerAt a = some owner := by simp [State.ownerAt, wordOwned, wordOwner, howned, howner]
  have hplain : s.writeMirrored a 0xF 0 = s.performWrite a 0xF 0 := by
    simp only [State.writeMirrored, mirroredAt_of_coreMem _ hword, Bool.false_eq_true, if_false]
  simp only [State.releaseWord, hat, hplain, Nat.not_le.mpr hroom, ne_eq, not_true, if_false]
  rfl

theorem tryRelease_coreMem (hhi : a < 0x01800000)
    (hon : (s.dom (coreDomain (BitVec.ofNat 5 ((a - 0x01000000) / 0x40000)))).st = .on) :
    (s.releasing c owner a).tryRelease c = (s.releasing c owner a).releaseWord c owner a := by
  have hbank : bankOf? a = none := by
    rw [bankOf?, if_neg (by omega)]
  simp only [State.tryRelease, release_releasing, hbank]
  exact atDomain_on _ _ _ hon

theorem tryRelease_bank_waits {b : BankId} (hb : bankOf? a = some b)
    (hask : (s.releasing c owner a).bankAskWrite b (masterCore c) (.release c) false = .wait) :
    (s.releasing c owner a).tryRelease c = (s.releasing c owner a).bankWaits b (masterCore c) (.release c) := by
  simp only [State.tryRelease, release_releasing, hb, hask]

theorem tryRelease_bank_refused {b : BankId} (hb : bankOf? a = some b)
    (hask : (s.releasing c owner a).bankAskWrite b (masterCore c) (.release c) false = .refuse) :
    (s.releasing c owner a).tryRelease c =
      ((s.releasing c owner a).bankRefuses b (masterCore c) (.release c)).releaseEnds c 1 := by
  simp only [State.tryRelease, release_releasing, hb, hask]
end

/-- Settles O23: woken watches and chains by their first watch, the raises that stand by `State.reaches`; a force release
begins as `State.releasing`, and `State.tryRelease` says how it goes on. -/
theorem tongs : Obligations.Tongs := by
  unfold Obligations.Tongs
  refine fun s => ⟨fun w hw hon hst => exec_watchWake hw hon hst, fun t w hw => ?chain, ⟨_, rfl, rfl⟩,
    fun w c owner => ?release⟩
  case chain =>
    intro f u
    have hwalk : w.woken = false → exec (.inheritanceChain t) s = .next (u.walk t (s.thr t).effective w.addr w.addr 4) :=
      fun hwoken => (exec_inheritanceChain hw).trans (congrArg _ (if_neg (by simp [hwoken])))
    exact ⟨fun hwoken => (exec_inheritanceChain hw).trans (congrArg _ (if_pos hwoken)), hwalk,
      fun hwoken hfree => (hwalk hwoken).trans (congrArg _ (walk_of_unowned (s := u) hfree ..))⟩
  case release =>
    intro a u ends hset htakes ho hidle
    have hbegins : lockAddrOk a = true →
        s.wrFcmd w c (F.lckFcmd_GO.put (owner.setWidth 32) 1) = (s.releasing c owner a).tryRelease c :=
      fun h => (wrFcmd_go hset hidle).trans (forceRelease_begins h ho)
    refine ⟨fun hlo hhi hon howned howner hroom => ?_, fun b hb hlo hhi => ⟨fun hask => ?_, fun hask => ?_⟩⟩
    · have htry := tryRelease_coreMem (c := c) (owner := owner) hhi hon
      have hword := releaseWord_of_owned (s := s.releasing c owner a) (c := c) hhi howned howner hroom
      exact next_access_takes w _ htakes ((hbegins (lockAddrOk_of_coreMem hlo hhi)).trans (htry.trans hword))
    · have hwaits := tryRelease_bank_waits hb hask
      exact next_access_takes w _ htakes ((hbegins (lockAddrOk_of_bank hlo hhi)).trans hwaits)
    · have hrefused := tryRelease_bank_refused hb hask
      exact next_access_takes w _ htakes ((hbegins (lockAddrOk_of_bank hlo hhi)).trans hrefused)

end Sys2Proof.Machine

/-!
PROOFS. Fences, MSYNC, HALT and illegal words.
-/

namespace Sys2Proof.Machine

section
variable {s : State} {t : Tid}

/-! ## What a fence waits for (R188) -/

/-- A fence of any scope waits for nothing when nothing of its thread and its core's buffer is on its way. -/
theorem fenceHolds_of_quiet (h : s.quiet t) (scope : BitVec 2) (seq : Nat) : s.fenceHolds t scope seq = true := by
  obtain ⟨hfar, -, hbuf, hfly⟩ := h
  simp only [State.fenceHolds, hfar, hbuf, hfly, List.append_nil, List.filter_nil, List.isEmpty_nil, Bool.true_and]
  split <;> rfl

/-- A fence of any scope waits for the far accesses of its thread. -/
theorem fenceHolds_of_far (h : (s.thr t).far ≠ []) (scope : BitVec 2) (seq : Nat) : s.fenceHolds t scope seq = false := by
  rw [State.fenceHolds, List.isEmpty_eq_false_iff.mpr h, Bool.false_and]

/-! ## Fences (R188) -/

theorem quiet_begun (h : s.quiet t) : ((s.issuing t).endRunAhead t).quiet t := by
  obtain ⟨hfar, -, hbuf, hfly⟩ := h
  refine ⟨?_, ?_, hbuf, hfly⟩ <;> simp [State.endRunAhead, hfar]

/-- The run-ahead entries end with a fence or MSYNC, and the thread goes on (R58). -/
theorem retire_begun (s : State) (t : Tid) :
    ((s.issuing t).endRunAhead t).retire t = s.afterInstr t { s.thr t with runAhead := [] } := by
  simp [State.endRunAhead, State.retire, State.afterInstr]

/-- They end with a fence that is held, too. -/
theorem hold_begun (s : State) (t : Tid) (fence : Option (BitVec 2 × Nat)) :
    ((s.issuing t).endRunAhead t).setThr t { ((s.issuing t).endRunAhead t).thr t with fence := fence } =
      (s.issuing t).setThr t { s.thr t with runAhead := [], fence := fence } := by
  simp [State.endRunAhead]

/-- A fence that issues completes at once or is held, as its conditions are then. -/
theorem fence_issues (hi : s.issues t 0) (hnone : (s.thr t).fence = none) (scope : BitVec 2) :
    s.fence t scope =
      if ((s.issuing t).endRunAhead t).fenceHolds t scope (s.seq + 1) then s.afterInstr t { s.thr t with runAhead := [] }
      else (s.issuing t).setThr t { s.thr t with runAhead := [], fence := some (scope, s.seq + 1) } := by
  simp only [State.fence, hnone, issue_runs s t true 0 false false _ hi rfl (by simp) rfl, retire_begun, hold_begun]
  rfl

theorem fence_of_quiet (hi : s.issues t 0) (hnone : (s.thr t).fence = none) (hq : s.quiet t) (scope : BitVec 2) :
    s.fence t scope = s.afterInstr t { s.thr t with runAhead := [] } := by
  rw [fence_issues hi hnone, if_pos (fenceHolds_of_quiet (quiet_begun hq) ..)]

theorem fence_of_far (hi : s.issues t 0) (hnone : (s.thr t).fence = none) (hfar : (s.thr t).far ≠ []) (scope : BitVec 2) :
    s.fence t scope = (s.issuing t).setThr t { s.thr t with runAhead := [], fence := some (scope, s.seq + 1) } := by
  have hbegun : (((s.issuing t).endRunAhead t).thr t).far ≠ [] := by simpa [State.endRunAhead] using hfar
  rw [fence_issues hi hnone, fenceHolds_of_far hbegun, if_neg Bool.false_ne_true]

/-- A held fence of a running thread completes, whatever fence its command names. -/
theorem fence_of_held {held : BitVec 2 × Nat} (hheld : (s.thr t).fence = some held) (hst : (s.thr t).st = .running)
    (hfault : (s.thr t).pendFault = none) (hq : s.quiet t) (scope : BitVec 2) :
    s.fence t scope = s.setThr t { s.thr t with fence := none }.retire := by
  have hholds := fenceHolds_of_quiet hq held.1 held.2
  simp [State.fence, hheld, State.fenceWaits, hst, hfault, hholds]

/-! ## MSYNC and illegal words (R105, R190) -/

/-- Without a pair there is no partner to acknowledge anything. -/
theorem mirrorSynced_of_unpaired (h : s.pairing = false) : s.mirrorSynced t = true := by
  rw [State.mirrorSynced, h]
  rfl

/-- A word that is no well-formed instruction faults where it would issue. -/
theorem issue_illegal {regs : BitVec 4} {far stall : Bool} {f : State → State} (hi : s.issues t regs) :
    s.issue t false regs far stall f = (s.issuing t).threadFault t 0x01 := by
  obtain ⟨hready, hkept, hpc, -⟩ := hi
  simp [State.issue, hready, hkept, Nat.not_le.mpr hpc]
end

/-- Settles O14: a fence that issues finds its conditions as `State.fenceHolds` says, and one that is held asks again. -/
theorem fencesAndHalt : Obligations.FencesAndHalt := by
  unfold Obligations.FencesAndHalt
  intro s t th
  refine ⟨fun hi hnone hq => ?quiet, fun e rest hi hnone hfar => ?far, fun k n hheld hst hfault hq => ?held,
    fun hi hsynced => ?msync, fun hpair => mirrorSynced_of_unpaired hpair, fun hi hslot => ?halt,
    fun w hi hword hfault => ?illegal, fun hi => congrArg _ (regInstr_runs (fun th => th) hi)⟩
  case quiet =>
    have hfence (scope : BitVec 2) := fence_of_quiet hi hnone hq scope
    exact ⟨congrArg _ (hfence 0), congrArg _ (hfence 1), congrArg _ (hfence 2)⟩
  case far =>
    have hfence (scope : BitVec 2) := fence_of_far hi hnone (hfar ▸ List.cons_ne_nil e rest) scope
    exact ⟨congrArg _ (hfence 0), congrArg _ (hfence 1), congrArg _ (hfence 2)⟩
  case held =>
    have hfence (scope : BitVec 2) := fence_of_held hheld hst hfault hq scope
    exact ⟨congrArg _ (hfence 0), congrArg _ (hfence 1), congrArg _ (hfence 2)⟩
  case msync =>
    have hruns := issue_runs s t true 0 false (!s.mirrorSynced t) (fun s => (s.endRunAhead t).retire t) hi rfl (by simp)
      (by rw [hsynced]; rfl)
    exact congrArg _ (hruns.trans (retire_begun s t))
  case halt =>
    have hlegal : (s.thr t).outsideSlot = true := Option.isNone_iff_eq_none.mpr hslot
    exact congrArg _ (issue_runs s t _ 0 false false _ hi hlegal (by simp) rfl)
  case illegal =>
    have hword' : ¬ wordOk w = true := by simp [hword]
    exact congrArg _ ((if_neg hword').trans ((issue_illegal hi).trans (threadFault_issuing hi.1 0x01)))

end Sys2Proof.Machine

/-!
PROOFS. Shared banks: retention, and the conflict cycles of a bank in handover.
-/

namespace Sys2Proof.Machine

/-- A command that is an access by a writer does what the access does to this state. -/
theorem next_access {s u : State} {f : State → State} (w : Writer) (h : f s = u) :
    (.next (s.access w f) : Out) = .next (s.access w fun _ => u) := congrArg _ (access_congr h)

section
variable {s : State} {b : BankId}

/-! ## Accesses to a retained bank, and MEM.RET (R174, R175, R194) -/

/-- An access to a retained bank begins its wake, which is counted. -/
theorem touchBank_of_retained (h : (s.bank b).ret = .retained) :
    s.touchBank b = (s.setBank b { s.bank b with ret := .waking, retAt := s.ns, lastAccess := s.cycle }).satAdd
      F.memRet_WAKES 1 b.toNat := by
  simp [State.touchBank, Bank.woken, h]

/-- An access to a bank that enters retention aborts the entry. -/
theorem touchBank_of_entering (h : (s.bank b).ret = .entering) :
    s.touchBank b = s.setBank b { s.bank b with ret := .active, lastAccess := s.cycle } := by
  simp [State.touchBank, Bank.woken, h]

theorem exec_bankWake (h : (s.bank b).ret ∈ [.retained, .entering]) : exec (.bankWake b) s = .next (s.touchBank b) := by
  change execBankWake b s = _
  rw [execBankWake]
  rcases List.mem_pair.mp h with hret | hret <;> rw [hret]

theorem bitsOf_one (w : Word) (i : Nat) : bitsOf w i 1 = (w.getLsbD i).toNat := by
  rw [bitsOf_eq_extractLsb', ← ofBool_getLsbD, BitVec.toNat_ofBool]

/-- A write of MEM.RET sets REQ; REQ = 0 wakes a retained bank. -/
theorem wrRet_of_over {w : Writer} (ho : s.overBank w b = true) (v : Word) :
    s.wrRet w b v =
      if v.getLsbD 0 = false ∧ (s.bank b).ret = .retained then
        (s.setFld F.memRet_REQ 0 b.toNat).setBank b { s.bank b with ret := .waking, retAt := s.ns }
      else s.setFld F.memRet_REQ (v.getLsbD 0).toNat b.toNat := by
  have hreq : F.memRet_REQ.get v = (v.getLsbD 0).toNat := bitsOf_one v 0
  rw [State.wrRet, ho, hreq]
  cases v.getLsbD 0 <;> simp
end

/-! ## Tamper, the life-cycle state and retention (R172 to R175, R540) -/

/-- Settles O25: a wipe of the SECURE banks is `State.wipeSecure`; each step of retention is a branch of its command. -/
theorem bankRetentionAndTamper : Obligations.BankRetentionAndTamper := by
  unfold Obligations.BankRetentionAndTamper
  intro s secured
  refine ⟨fun h => ?tamper, rfl, fun lc h => congrArg _ (if_neg h), fun b => ?retention⟩
  case tamper => exact congrArg _ (if_neg (by simp [h]))
  case retention =>
    intro x n
    refine ⟨fun hreq hret hidle hbusy => ?entry, fun hret hdue => ?reached, fun hret => ?wake, fun hret => ?abort,
      fun hret hdue hwipe => ?woken, fun w v ho => ⟨fun h => ?request, fun hv hret => ?release⟩⟩
    case entry => exact congrArg _ (if_pos (by simp [hreq, hret, hidle, hbusy, x, n]))
    case reached => exact congrArg _ (if_pos (by simp [hret, hdue, x]))
    case wake => exact (exec_bankWake (List.mem_pair.mpr (.inl hret))).trans (congrArg _ (touchBank_of_retained hret))
    case abort => exact (exec_bankWake (List.mem_pair.mpr (.inr hret))).trans (congrArg _ (touchBank_of_entering hret))
    case woken =>
      have hwoken : ((s.bank b).ret == .waking && decide ((s.bank b).retAt + 12000 ≤ s.ns)) = true :=
        Bool.and_eq_true_iff.mpr ⟨beq_iff_eq.mpr hret, decide_eq_true hdue⟩
      have hnone : (if (s.bank b).wiping.isSome then some s.cycle else none) = none := by rw [hwipe]; rfl
      refine congrArg _ ((if_pos hwoken).trans ?_)
      rw [hnone]
    case request =>
      have hkept : ¬ (v.getLsbD 0 = false ∧ (s.bank b).ret = .retained) := by
        rintro ⟨hv, hret⟩
        exact h.elim (fun hset => Bool.false_ne_true (hv.symm.trans hset)) (· hret)
      exact next_access w ((wrRet_of_over ho v).trans (if_neg hkept))
    case release => exact next_access w ((wrRet_of_over ho v).trans (if_pos ⟨hv, hret⟩))

/-! ## Conflict cycles (R178) -/

theorem bank_touchBank (s : State) (b : BankId) : (s.touchBank b).bank b = (s.bank b).woken s.cycle s.ns := by
  rw [State.touchBank, apply_ite (fun u => State.bank u b), bank_satAdd, ite_self, bank_setBank_same]

theorem ho_woken (x : Bank) (cycle ns : Nat) : (x.woken cycle ns).ho = x.ho := by
  rw [Bank.woken]
  split <;> rfl

/-- In a handover a grant counts no conflict cycle, and is not noted among those that count. -/
theorem bankGrant_of_handover {s : State} {b : BankId} (h : (s.bank b).ho.isSome = true) (m : Master) (r : BankReq) :
    s.bankGrant b m r = (s.touchBank b).setBank b { (s.touchBank b).bank b with
      waiting := ((s.touchBank b).bank b).waiting.filter fun w => w.req != r && s.reqLive w } := by
  have hho : ((s.touchBank b).bank b).ho.isNone = false := by
    rw [bank_touchBank, ho_woken, ← Option.not_isSome, h]
    rfl
  simp [State.bankGrant, hho]

/-- A sealed block whose bank 1 is handed from core 4 to core 5, and has been granted to core 5 in this cycle. -/
def bankHandingOver : State :=
  { State.reset with boot := { State.reset.boot with seald := true } }.setBank 1
    { owner := 4, ho := some ⟨5, false, 0⟩, grants := [5] }

/-- Refutes O24: a grant during a handover counts no conflict cycles (R178), while the statement counts the grants of
others before it whether or not the bank is handed over. -/
theorem not_bankAnswersHandoverAndWipe : ¬ Obligations.BankAnswersHandoverAndWipe := by
  unfold Obligations.BankAnswersHandoverAndWipe
  intro h
  obtain ⟨hanswers, -⟩ := h
  obtain ⟨-, -, -, hasks⟩ := hanswers bankHandingOver 1 4 rfl
  obtain ⟨-, -, -, -, hcounts⟩ := hasks (.store 4 0)
  have hgrant := (bankGrant_of_handover (s := bankHandingOver) (b := 1) rfl 4 (.store 4 0)).symm.trans (hcounts (by decide))
  -- CYCLES stays 0 on the left, as the model has it, and is 1 on the right, as the statement would have it.
  have hconf := congrArg (fun u => u.fld F.memConf_CYCLES 1 4) hgrant
  exact absurd hconf (by decide)

end Sys2Proof.Machine

/-!
PROOFS. The decision of a push step by step, the places of an item, and the word that a read takes.
-/

namespace Sys2Proof.Machine

/-! ## The decision of a push (R203, R213, R217, R219, R400, R559) -/

/-- What a push is told when the pool has answered it. -/
def PoolAns.decision : PoolAns → PushDec
  | .over => .over
  | .poolFull => .poolFull
  | a => .accept a

section
variable {s : State} {q : Qid} {item : BitVec 64} {o : BitVec 12} {role : Word}

theorem overLimit_iff : s.overLimit q item = true ↔ ∃ d, s.holdDomain q = some d ∧ (s.dom d).st ≠ .on ∧
    s.isWakeItem d item = false ∧ s.fld F.pwrHold_LIMIT d ≤ s.heldCount d := by
  unfold State.overLimit
  cases s.holdDomain q with
  | none => simp
  | some d => simp [and_assoc]

theorem roleCheck_of_not (h : ¬ (s.bit F.qeQcfg_ROLECHK q.toNat = true ∧ s.roleOk q role = false)) :
    (s.bit F.qeQcfg_ROLECHK q.toNat && !s.roleOk q role) = false := by
  simpa using h

theorem decidePush_of_down (h : s.queueUp q = false) : s.decidePush q item o role = .disabled := by
  simp [State.decidePush, h]

section
variable (hup : s.queueUp q = true)
include hup

theorem decidePush_of_stale (hrole : s.bit F.qeQcfg_ROLECHK q.toNat = true ∧ s.roleOk q role = false) :
    s.decidePush q item o role = .stale := by
  simp [State.decidePush, hup, hrole]

variable (hrole : ¬ (s.bit F.qeQcfg_ROLECHK q.toNat = true ∧ s.roleOk q role = false))
include hrole

theorem decidePush_of_overLimit (hheld : s.overLimit q item = true) : s.decidePush q item o role = .powerDown := by
  simp [State.decidePush, hup, roleCheck_of_not hrole, hheld]

variable (hheld : ¬ s.overLimit q item = true)
include hheld

theorem decidePush_of_full (hdepth : s.fld F.qeQcfg_DEPTH q.toNat ≤ (s.queue q).depth) :
    s.decidePush q item o role = .full := by
  simp [State.decidePush, hup, roleCheck_of_not hrole, hheld, Nat.lt_succ_of_le hdepth]

/-- Past every check of the queue the pool decides. -/
theorem decidePush_of_room (hdepth : (s.queue q).depth < s.fld F.qeQcfg_DEPTH q.toNat) :
    s.decidePush q item o role = (s.pool o (quadrantOf q)).decision := by
  simp only [State.decidePush, hup, roleCheck_of_not hrole, hheld, Nat.not_lt.mpr hdepth, Bool.not_true,
    Bool.false_eq_true, if_false]
  cases s.pool o (quadrantOf q) <;> rfl
end
end

/-! ## The places of an item (R200) -/

/-- The places from 54 on stand above SENDER and payload. -/
theorem extractLsb'_above_sender {n : Nat} (x : BitVec n) (sd : BitVec 22) (v : Word) (j len : Nat) :
    (x ++ sd ++ v).extractLsb' (54 + j) len = x.extractLsb' j len :=
  (extractLsb'_append_high (x ++ sd) v (22 + j) len (by omega)).trans (extractLsb'_append_high x sd j len rfl)

/-- The places from 62 on hold the flags. -/
theorem getLsbD_mkItem_flags (e : Bool) (p k : BitVec 4) (sd : BitVec 22) (v : Word) (j : Nat) :
    (mkItem e p k sd v).getLsbD (62 + j) = ((1 : BitVec 1) ++ BitVec.ofBool e).getLsbD j :=
  (getLsbD_append_high _ v (30 + j) (by omega)).trans ((getLsbD_append_high _ sd (8 + j) (by omega)).trans
    ((getLsbD_append_high _ k (4 + j) (by omega)).trans (getLsbD_append_high _ p j rfl)))

/-- Each part of an item reads back from its place. -/
theorem mkItem_fields (e : Bool) (p k : BitVec 4) (sd : BitVec 22) (v : Word) :
    let i := mkItem e p k sd v
    i.getLsbD 63 = true ∧ itemEnd i = e ∧ itemPrio i = p ∧ itemKind i = k ∧ itemSender i = sd ∧ itemPayload i = v :=
  ⟨(getLsbD_mkItem_flags e p k sd v 1).trans (getLsbD_append_high 1 (BitVec.ofBool e) 0 rfl),
    (getLsbD_mkItem_flags e p k sd v 0).trans (getLsbD_append_ofBool 1 e),
    (extractLsb'_above_sender _ sd v 4 4).trans
      ((extractLsb'_append_high (1 ++ BitVec.ofBool e ++ p) k 0 4 rfl).trans BitVec.extractLsb'_append_eq_right),
    (extractLsb'_above_sender _ sd v 0 4).trans BitVec.extractLsb'_append_eq_right,
    (extractLsb'_append_high (1 ++ BitVec.ofBool e ++ p ++ k ++ sd) v 0 22 rfl).trans BitVec.extractLsb'_append_eq_right,
    BitVec.extractLsb'_append_eq_right⟩

/-! ## The word that a read takes (R204, R212) -/

/-- w is the first word of the highest PRIO in a list. -/
def firstBest (ws : List QWord) (w : QWord) : Prop :=
  ∃ before after, ws = before ++ w :: after ∧
    (∀ x ∈ before, itemPrio x.item < itemPrio w.item) ∧ (∀ x ∈ after, itemPrio x.item ≤ itemPrio w.item)

/-- A word at the end of a list takes over when its PRIO is higher than that of the best before it. -/
theorem firstBest_concat {ws : List QWord} {v : QWord} (h : firstBest ws v) (w : QWord) :
    firstBest (ws ++ [w]) (if itemPrio v.item < itemPrio w.item then w else v) := by
  obtain ⟨before, after, rfl, hbefore, hafter⟩ := h
  split_ifs with hlt
  · refine ⟨before ++ v :: after, [], rfl, fun x hx => ?_, by simp⟩
    rcases List.mem_append.mp hx with hx | hx
    · exact BitVec.lt_trans (hbefore x hx) hlt
    · rcases List.mem_cons.mp hx with rfl | hx
      · exact hlt
      · exact BitVec.lt_def.mpr (lt_of_le_of_lt (BitVec.le_def.mp (hafter x hx)) (BitVec.lt_def.mp hlt))
  · refine ⟨before, after ++ [w], by simp, hbefore, fun x hx => ?_⟩
    rcases List.mem_append.mp hx with hx | hx
    · exact hafter x hx
    · rw [List.mem_singleton.mp hx]
      exact BitVec.not_lt.mp hlt

theorem bestWord_concat {ws : List QWord} {v : QWord} (h : bestWord ws = some v) (w : QWord) :
    bestWord (ws ++ [w]) = some (if itemPrio v.item < itemPrio w.item then w else v) := by
  unfold bestWord at h ⊢
  rw [List.foldl_append, h, apply_ite some]
  rfl

theorem firstBest_bestWord (ws : List QWord) (h : ws ≠ []) : ∃ w, bestWord ws = some w ∧ firstBest ws w := by
  induction ws using List.reverseRecOn with
  | nil => exact absurd rfl h
  | append_singleton ws w ih =>
    by_cases hws : ws = []
    · subst hws
      exact ⟨w, rfl, [], [], rfl, by simp, by simp⟩
    · obtain ⟨v, hv, hbest⟩ := ih hws
      exact ⟨_, bestWord_concat hv w, firstBest_concat hbest w⟩

theorem queue_touchQueue (s : State) (q u : Qid) : (s.touchQueue q).queue u = s.queue u := by
  unfold State.touchQueue
  split <;> rfl

theorem reg_touchQueue (s : State) (q : Qid) (k : RegKind) (i j : Nat) : (s.touchQueue q).reg k i j = s.reg k i j := by
  unfold State.touchQueue
  split <;> rfl

theorem packetMode_touchQueue (s : State) (q u : Qid) : (s.touchQueue q).packetMode u = s.packetMode u := by
  simp only [State.packetMode, State.bit, State.fld, reg_touchQueue]

/-- A read of a word-mode queue takes the best of the words stored before the cycle. -/
theorem popItem_of_bestWord {s : State} {q : Qid} {w : QWord} (r : Reader) (hmode : s.packetMode q = false)
    (hmirror : s.standbyRefuses q = false) (hclosed : (s.qcycOf q).closed = false)
    (hbest : bestWord ((s.queue q).words.filter fun x => decide (x.cand ≤ s.cycSeq)) = some w) :
    s.popItem q r = (some (w.item, w),
      ((s.touchQueue q).setQueue q { s.queue q with words := (s.queue q).words.erase w }).afterPop q w) := by
  simp only [State.popItem, State.popAny, State.popUpTo, hmirror, hclosed, packetMode_touchQueue, hmode,
    queue_touchQueue, hbest, Bool.false_eq_true, if_false]

/-- Settles O26: each step of R559 is a branch of `State.decidePush`; the best word of a list is its first of the highest
PRIO, and a read takes it. -/
theorem pushAndReadOrder : Obligations.PushAndReadOrder := by
  unfold Obligations.PushAndReadOrder
  refine ⟨fun s q item o role => ?_, mkItem_fields, fun ws hws => ?_, fun s q r w => popItem_of_bestWord r⟩
  · intro n ans roleFails held
    have hlimit : s.overLimit q item = true ↔ held := overLimit_iff
    refine ⟨decidePush_of_down, decidePush_of_stale, fun hup hrole hheld => ?_, fun hup hrole hheld => ?_,
      fun hup hrole hheld hdepth => ?_⟩
    · exact decidePush_of_overLimit hup hrole (hlimit.mpr hheld)
    · exact decidePush_of_full hup hrole (mt hlimit.mp hheld)
    · have hpool : ans = (s.pool o (quadrantOf q)).decision := decidePush_of_room hup hrole (mt hlimit.mp hheld) hdepth
      refine ⟨fun h => ?_, fun h => ?_, fun a ha h => ?_⟩
      · rw [hpool, h]; rfl
      · rw [hpool, h]; rfl
      · rw [hpool, h]
        fin_cases ha <;> rfl
  · obtain ⟨w, hw, before, after, hsplit, hbefore, hafter⟩ := firstBest_bestWord ws hws
    exact ⟨before, w, after, hw, hsplit, hbefore, hafter⟩

end Sys2Proof.Machine

/-!
PROOFS. Waiters of queues that try again, the word that enters from a push port, and writes of a queue's configuration, of
a quota and of FLUSH.
-/

namespace Sys2Proof.Machine

/-! ## Wake notices, depth waiters and claimed slots (R208, R216, R560) -/

theorem hearthOfCore_coreOf (t : Tid) : hearthOfCore (coreOf t) = hearthOf t := by
  have := t.isLt
  apply BitVec.eq_of_toNat_eq
  rw [hearthOfCore, BitVec.extractLsb'_toNat, coreOf_toNat, hearthOf_toNat, Nat.shiftRight_eq_div_pow]
  omega

/-- A thread asleep at a queue, of a hearth that is ON, wakes with its instruction still to issue. -/
theorem wakeThread_of_on {s : State} {t : Tid} (hon : (s.dom (hearthOf t).toNat).st = .on)
    (hst : (s.thr t).st = .sleepQueue) :
    s.wakeThread t = s.setThr t { s.thr t with st := .running, sleep := .awake } := by
  simp [State.wakeThread, State.rouse, hon, hst, ThreadState.asleep]

theorem deliverWake_of_on {s : State} {q : Qid} {t : Tid} {rest : List Tid} (hnote : (s.queue q).notices = t :: rest)
    (hon : (s.dom (hearthOf t).toNat).st = .on) (hsleep : (s.thr t).sleep = .read q) :
    s.deliverWake q = (s.setQueue q { s.queue q with notices := rest }).wakeThread t := by
  simp [State.deliverWake, coreDomain, hearthOfCore_coreOf, hnote, hon, hsleep]

/-- The waiter of a thread wakes it. -/
theorem retryOwner_of_thread {s : State} {o : BitVec 12} (h : o.toNat < 0x200) :
    s.retryOwner o = s.wakeThread (BitVec.ofNat 9 o.toNat) := if_pos h

theorem exec_depthWaiterServe {s : State} {q : Qid} {w : Waiter} {rest : List Waiter}
    (hserved : (s.queue q).served = w :: rest) :
    exec (.depthWaiterServe q) s = .next ((s.setQueue q { s.queue q with served := rest }).retryOwner w.owner) := by
  change execDepthWaiterServe q s = _
  rw [execDepthWaiterServe, hserved]

theorem exec_slotClaimRetry {s : State} {k : Quadrant} {w : Waiter}
    (hclaim : (s.quad k).claims.find? s.claimWaits = some w) :
    exec (.slotClaimRetry k) s = .next (s.retryOwner w.owner) := by
  change execSlotClaimRetry k s = _
  rw [execSlotClaimRetry, hclaim]

/-! ## Words held at a push port (R207, R391) -/

/-- A stored word of a host page or a unit owes nobody an answer. -/
theorem heldAnswered_ok (s : State) {h : HeldPush} (ho : 0x400 ≤ h.owner.toNat) : s.heldAnswered h .ok = s := by
  have hthread : ¬ h.owner.toNat < 0x200 := by omega
  have hchannel : ¬ h.owner.toNat < 0x400 := by omega
  simp [State.heldAnswered, hthread, hchannel]

/-- The held word that the port grants enters its queue. -/
theorem heldRelease_of_ok {s u : State} {k : Quadrant} {h : HeldPush} {a : Arbiter} (hon : (s.dom (16 + k.toNat)).st = .on)
    (hgrant : (s.quad k).arb.choose (fun h => requesterOf h.owner) (s.readyHeld k) = (some h, a))
    (hpush : (s.setQuad k { s.quad k with held := (s.quad k).held.erase h, arb := a }).pushItem h.q h.item h.owner h.role =
      (.ok, u)) : s.heldRelease k = u.heldAnswered h .ok := by
  have hup : s.domainUp (quadDomain k) = true := by simp [State.domainUp, quadDomain, hon]
  simp only [State.heldRelease, hup, hgrant, hpush, Bool.not_true, Bool.false_eq_true, if_false]

theorem mem_of_mem_firstOfEach {α : Type} {f : α → ArbNode} {x : α} {xs : List α} {seen : List ArbNode}
    (h : x ∈ firstOfEach f xs seen) : x ∈ xs := by
  induction xs generalizing seen with
  | nil => exact h
  | cons y ys ih =>
    rw [firstOfEach] at h
    split at h
    · exact List.mem_cons_of_mem _ (ih h)
    · rcases List.mem_cons.mp h with rfl | h
      · exact List.mem_cons_self
      · exact List.mem_cons_of_mem _ (ih h)

/-- A word that may enter is held, and an assembly entry is free if it needs one. -/
theorem held_of_mem_readyHeld {s : State} {k : Quadrant} {h : HeldPush} (hmem : h ∈ s.readyHeld k) :
    h ∈ (s.quad k).held ∧ (s.needsAssembly h.q h.item = true → s.assemblyUsed k < 256) := by
  obtain ⟨hfirst, hcan⟩ := List.mem_filter.mp hmem
  obtain ⟨hentry, -⟩ := Bool.and_eq_true_iff.mp hcan
  refine ⟨mem_of_mem_firstOfEach hfirst, fun hneeds => ?_⟩
  simpa [hneeds] using hentry

/-! ## Writes of a queue's configuration, of a quota and of FLUSH (R203, R209 to R212, R217, R218, R225, R560) -/

theorem wrQcfg_of_over {s : State} {w : Writer} {q : Qid} {v : Word} (ho : s.overQueue w q = true) (hv : qcfgOk v = true) :
    s.wrQcfg w q v =
      if s.queueUp q && !(s.store w .qeQcfg v q.toNat).queueUp q then (s.store w .qeQcfg v q.toNat).disableQueue q
      else s.store w .qeQcfg v q.toNat := by
  simp [State.wrQcfg, ho, hv]

theorem wrOwnlim_of_over {s : State} {w : Writer} {o : BitVec 12} {v : Word} (ho : overOwner w o = true) (hw : w ≠ .boot) :
    let u := (s.store w .qeOwnlim v o.toNat).setOwner o { s.owner o with limited := true }
    s.wrOwnlim w o v = if u.isOver o && !s.isOver o then (u.sleepOver o).overNotice o else u.wakeOver o := by
  simp [State.wrOwnlim, ho, hw]

/-- The word of a flush says GO and names its queue. -/
theorem flushWord_fields (q : Qid) :
    F.qeFlush_GO.get (F.qeFlush_GO.put (q.setWidth 32) 1) = 1 ∧
      BitVec.ofNat 14 (F.qeFlush_QID.get (F.qeFlush_GO.put (q.setWidth 32) 1)) = q := by
  refine ⟨bitsOf_putBits_same _ 31 1 1 (by decide), ?_⟩
  have hqid : F.qeFlush_QID.get (F.qeFlush_GO.put (q.setWidth 32) 1) = q.toNat := by
    refine (bitsOf_putBits_other _ 31 1 1 0 14 (by decide) (.inl (by decide))).trans ?_
    rw [bitsOf_eq_extractLsb', BitVec.extractLsb'_setWidth_of_le (by decide), BitVec.extractLsb'_eq_self]
  rw [hqid, BitVec.ofNat_toNat, BitVec.setWidth_eq]

/-- With room for its record and no access waiting for a place, a write acts at once. -/
theorem regAtMirror_of_room {s : State} (h : ∀ x ∈ s.regWaits, x.d ≠ mirrorPlace) (w : Writer) (off : Nat) (v : Word)
    (f : State → State) : s.regAtMirror false w off v f = f s := by
  refine if_neg ?_
  rw [Bool.false_or, List.any_eq_true]
  rintro ⟨x, hx, hplace⟩
  obtain ⟨hd, -⟩ := Bool.and_eq_true_iff.mp hplace
  exact h x hx (beq_iff_eq.mp hd)

theorem exec_queueFlush {s : State} {w : Writer} {q : Qid} (ho : s.overQueue w q = true)
    (hroom : s.bit F.qeQcfg_MIRRORED q.toNat = true → s.mirrorRoom = true)
    (hwaits : ∀ x ∈ s.regWaits, x.d ≠ mirrorPlace) :
    exec (.queueFlush w q) s = .next (s.access w fun _ => s.flushQueue q) := by
  obtain ⟨hgo, hqid⟩ := flushWord_fields q
  have hfree : s.flushWaits w (F.qeFlush_GO.put (q.setWidth 32) 1) = false := by
    simp only [State.flushWaits, hgo, hqid, ho]
    simpa using hroom
  refine next_access w ?_
  rw [hfree, regAtMirror_of_room hwaits, State.wrFlush, hqid, hgo, ho]
  rfl

/-- Settles O27: each waiter's command wakes its thread; a held word enters by `State.heldRelease`; the writes act on this
state, a flush by `State.emptyUpTo` with the moment at which the cycle began. -/
theorem queueWaitersAndConfiguration : Obligations.QueueWaitersAndConfiguration := by
  unfold Obligations.QueueWaitersAndConfiguration
  refine ⟨fun s => ⟨fun q t rest hnote hon hsleep hst => ?wake, fun q w rest hserved ho hon hst => ?serve,
    fun k w hclaim ho hon hst => ?claim, fun k h a u hon hgrant hpush ho => ?enter, fun k h => held_of_mem_readyHeld⟩,
    fun s w v => ⟨fun q ho hv => ?config, fun o ho hw => ?quota, fun q ho hroom hwaits => ?flush⟩⟩
  case wake => exact congrArg _ ((deliverWake_of_on hnote hon hsleep).trans (wakeThread_of_on hon hst))
  case serve =>
    rw [exec_depthWaiterServe hserved, retryOwner_of_thread ho]
    exact congrArg _ (wakeThread_of_on hon hst)
  case claim => rw [exec_slotClaimRetry hclaim, retryOwner_of_thread ho, wakeThread_of_on hon hst]
  case enter =>
    have hrelease := (heldRelease_of_ok hon hgrant hpush).trans (heldAnswered_ok u ho)
    exact congrArg (fun u => Host.Outcome.next (u.retryHolders k)) hrelease
  case config =>
    refine next_access w ((wrQcfg_of_over ho hv).trans ?_)
    simp only [Bool.and_eq_true, Bool.not_eq_true']
    rfl
  case quota => exact next_access w (wrOwnlim_of_over ho hw)
  case flush =>
    refine (exec_queueFlush ho hroom hwaits).trans ?_
    simp only [State.flushQueue, State.emptyUpTo, ← decide_not, Nat.not_lt]
    rfl

end Sys2Proof.Machine

/-!
PROOFS. Host pushes through doorbells, and host rings with their mover.
-/

namespace Sys2Proof.Machine

/-! ## Doorbells (R222, R226, R227) -/

theorem doorbellPage_lt (q : Qid) : doorbellPage q < 1024 := by
  have := q.isLt
  rw [doorbellPage]
  omega

theorem senderHost_doorbellPage (q : Qid) : senderHost (doorbellPage q) = BitVec.ofNat 22 (2 ^ 19 + q.toNat / 16) := by
  rw [senderHost, Nat.mod_eq_of_lt (doorbellPage_lt q)]
  rfl

theorem ownerHost_doorbellPage (q : Qid) : ownerHost (doorbellPage q) = BitVec.ofNat 12 (0x400 + q.toNat / 16) := by
  rw [ownerHost, Nat.mod_eq_of_lt (doorbellPage_lt q)]
  rfl

/-- The item of a host push: PRIO, KIND and payload as the host wrote them, from the host page of the queue's doorbell. -/
def doorbellItem (q : Qid) (end_ : Bool) (data : BitVec 64) : BitVec 64 :=
  mkItem end_ (itemPrio data) (itemKind data) (BitVec.ofNat 22 (2 ^ 19 + q.toNat / 16)) (itemPayload data)

section
variable (s : State) (q : Qid) (data : BitVec 64)

/-- A push that is not whole, or not allowed, is counted. -/
theorem doorbell_counted {full : Bool} (h : full = false ∨ s.bit F.qeQcfg_HOSTPUSH q.toNat = false) (end_ : Bool) :
    s.doorbell q full end_ data = s.countDoorbell q := by
  refine if_pos ?_
  rcases h with h | h <;> simp [h]

/-- A whole push that is allowed is made by the host page's owner, and counted unless it is stored or waits at the port. -/
theorem doorbell_whole (h : s.bit F.qeQcfg_HOSTPUSH q.toNat = true) (end_ : Bool) :
    let r := s.pushOrSlag q (doorbellItem q end_ data) (BitVec.ofNat 12 (0x400 + q.toNat / 16)) 0
    s.doorbell q true end_ data = if r.1 ∈ [.ok, .held, .later] then r.2 else r.2.countDoorbell q := by
  rw [doorbellItem, ← senderHost_doorbellPage, ← ownerHost_doorbellPage]
  simp only [State.doorbell, h, Bool.not_true, Bool.or_self, Bool.false_eq_true, if_false]
  generalize s.pushOrSlag q _ _ 0 = r
  obtain ⟨a, u⟩ := r
  cases a <;> rfl

/-- Both doorbell pushes answer the host once the doorbell has acted. -/
theorem exec_doorbell {full : Bool} {u : Bool → State} (h : ∀ end_, s.doorbell q full end_ data = u end_) :
    exec (.doorbellPush q full data) s = .next (u false).hostReply ∧
      exec (.doorbellPushe q full data) s = .next (u true).hostReply := by
  rw [← h false, ← h true]
  exact ⟨rfl, rfl⟩
end

/-- CIDX goes to the ring bound to the queue, which is full no more once it has room. -/
theorem exec_doorbellCidx {s : State} {q : Qid} {v : Word} {r : Nat} (hv : v.toNat < 2 ^ 16)
    (hr : s.ringOfQueue q = some r) :
    let u := s.setFld F.ringIdx_CIDX v.toNat r
    exec (.doorbellCidx q v) s =
      .next (if u.ringUsed r < u.ringSize r then u.setFld F.ringStat_FULL 0 r else u).hostReply := by
  have hlow : v.toNat / 65536 = 0 := Nat.div_eq_of_lt hv
  change execDoorbellCidx q v s = _
  simp only [execDoorbellCidx, hlow, hr, ne_eq, not_true_eq_false, if_false]

/-! ## Host mover (R223, R224) -/

section
variable {s : State} {r : BitVec 10}

/-- The mover of ring r is idle and not stopped, and its queue is one of a host ring. -/
def State.moverIdle (s : State) (r : BitVec 10) : Prop :=
  s.bit F.ringCfg_EN r.toNat = true ∧ (s.ring r).stopped = false ∧ (s.ring r).batch = [] ∧ (s.ring r).leaving = [] ∧
    s.fld F.qeQcfg_RKIND (BitVec.ofNat 14 (s.fld F.ringCfg_QID r.toNat)).toNat = 4

/-- The items that the mover takes of its queue: at most 16, as far as the ring has room. -/
def State.moverItems (s : State) (r : BitVec 10) : List (BitVec 64 × QWord) :=
  s.peekItems (BitVec.ofNat 14 (s.fld F.ringCfg_QID r.toNat)) (min 16 (s.ringSize r.toNat - s.ringUsed r.toNat))

/-- The mover takes a batch of items, and sends one descriptor for each. -/
def State.sendBatch (s : State) (r : BitVec 10) (items : List (BitVec 64 × QWord)) : State :=
  let q := BitVec.ofNat 14 (s.fld F.ringCfg_QID r.toNat)
  (((List.range items.length).zip items).map fun ji => s.descriptorOf r q ji.1 ji.2.1).foldl
    (fun u d => u.smRequest d) (s.setRing r { s.ring r with batch := items.map fun i => i.2, answered := 0 })

/-- An idle mover marks a full ring, and takes items as far as another has room. -/
theorem moverBatch_of_idle (h : s.moverIdle r) :
    s.moverBatch r =
      if s.ringSize r.toNat - s.ringUsed r.toNat = 0 then s.setFld F.ringStat_FULL 1 r.toNat
      else if (s.moverItems r).isEmpty then s
      else s.sendBatch r (s.moverItems r) := by
  obtain ⟨hen, hstop, hbatch, hleave, hkind⟩ := h
  refine if_neg ?_
  simp only [hen, hstop, hbatch, hleave, hkind]
  decide

theorem moverBatch_full (h : s.moverIdle r) (hfull : s.ringSize r.toNat ≤ s.ringUsed r.toNat) :
    s.moverBatch r = s.setFld F.ringStat_FULL 1 r.toNat :=
  (moverBatch_of_idle h).trans (if_pos (Nat.sub_eq_zero_of_le hfull))

theorem moverBatch_room (h : s.moverIdle r) (hroom : s.ringUsed r.toNat < s.ringSize r.toNat)
    (hitems : s.moverItems r ≠ []) :
    s.moverBatch r = s.sendBatch r (s.moverItems r) := by
  rw [moverBatch_of_idle h, if_neg (Nat.sub_ne_zero_of_lt hroom), if_neg (by simpa using hitems)]

/-- With its quadrant on, the mover acts at once. -/
theorem exec_hostMoverBatch
    (hon : (s.dom (16 + (quadrantOf (BitVec.ofNat 14 (s.fld F.ringCfg_QID r.toNat))).toNat)).st = .on) :
    exec (.hostMoverBatch r) s = .next (s.moverBatch r) := congrArg _ (atDomain_on s _ _ hon)

/-! ## Responses to the mover (R224) -/

theorem ring_raise (f : Fld) (i j : Nat) (n : BitVec 10) : (s.raise f i j).ring n = s.ring n := rfl

/-- A written word leaves its queue at once when none waits before it and its record has a place. -/
theorem leaveQueue_of_room {q : Qid} (hq : BitVec.ofNat 14 (s.fld F.ringCfg_QID r.toNat) = q)
    (hleave : (s.ring r).leaving = [])
    (hroom : s.bit F.qeQcfg_MIRRORED q.toNat = true → s.mirrorRoom = true) (w : QWord) :
    s.leaveQueue r w = s.removeWord q w := by
  subst hq
  refine if_neg ?_
  simpa [hleave] using hroom

section
variable {u : State} {d : SmReq} {a : Nat} {bytes : List Word} {w : QWord}
  (hu : { s with soc := { s.soc with reqs := s.soc.reqs.erase d } } = u)
  (hreq : s.ringReq r = some d) (hd : d = .descriptor r a bytes) (hw : (u.ring r).batch[(u.ring r).answered]? = some w)
include hu hreq hd hw

/-- A failed response before the last stops the mover with WERR. -/
theorem moverResponse_failed (hmore : (u.ring r).answered + 1 < (u.ring r).batch.length) :
    s.moverResponse r false = (u.raise F.ringStat_WERR r.toNat).setRing r
      { u.ring r with answered := (u.ring r).answered + 1, stopped := true } := by
  subst hd
  simp only [State.moverResponse, hreq, hu, hw, Bool.false_eq_true, if_false, ring_raise, hmore, if_true, Bool.not_false,
    Bool.or_true]

/-- The last response without an error: the word leaves its queue, and the batch is done. -/
theorem moverResponse_last {q : Qid} (hq : BitVec.ofNat 14 (u.fld F.ringCfg_QID r.toNat) = q)
    (hleave : (u.ring r).leaving = [])
    (hroom : u.bit F.qeQcfg_MIRRORED q.toNat = true → u.mirrorRoom = true)
    (hlast : ((u.removeWord q w).ring r).batch.length = (u.ring r).answered + 1) (hstop : (u.ring r).stopped = false) :
    s.moverResponse r true = ((u.removeWord q w).setRing r
      { (u.removeWord q w).ring r with answered := (u.ring r).answered + 1, stopped := false }).batchDone r := by
  subst hd
  simp only [State.moverResponse, hreq, hu, hw, if_true, leaveQueue_of_room hq hleave hroom, hlast, lt_irrefl, if_false,
    hstop, Bool.not_true, Bool.or_false, Bool.false_eq_true]
end

/-! ## Enabling a ring (R236) -/

theorem ring_store (w : Writer) (k : RegKind) (v : Word) (i j : Nat) (u : BitVec 10) :
    (s.store w k v i j).ring u = s.ring u := by
  cases w <;> rfl

/-- EN from 0 to 1 starts the ring with PIDX at CIDX and PHASE 1. -/
theorem wrRingCfg_enables {w : Writer} {v : Word} (hw : isBlock w = true) (hsize : 4 ≤ F.ringCfg_LOG2SIZE.get v)
    (hset : F.ringCfg_EN.get v = 1) (hclear : s.bit F.ringCfg_EN r.toNat = false) :
    let u := (s.store w .ringCfg v r.toNat).setRing r { s.ring r with stopped := false }
    s.wrRingCfg w r v =
      ((u.setFld F.ringIdx_PIDX (u.fld F.ringIdx_CIDX r.toNat) r.toNat).setFld F.ringStat_FULL 0 r.toNat).setRing r
        { s.ring r with stopped := false, phase := true } := by
  simp [State.wrRingCfg, hw, Nat.not_lt.mpr hsize, hset, hclear, ring_store]
end

/-- Settles O28: a doorbell counts a push or makes it; the mover's batch, its responses and the ring's start are the
branches of `State.moverBatch`, `State.moverResponse` and `State.wrRingCfg`. -/
theorem doorbellsAndRings : Obligations.DoorbellsAndRings := by
  unfold Obligations.DoorbellsAndRings
  refine ⟨fun s q data => ?doorbell, fun s r => ?ring⟩
  case doorbell =>
    intro page counted item whole
    have hcounted {full : Bool} (h : full = false ∨ s.bit F.qeQcfg_HOSTPUSH q.toNat = false) :
        exec (.doorbellPush q full data) s = .next counted ∧ exec (.doorbellPushe q full data) s = .next counted :=
      exec_doorbell s q data (doorbell_counted s q data h)
    obtain ⟨hpush, hpushe⟩ := hcounted (.inl rfl)
    exact ⟨fun h => exec_doorbell s q data (u := whole) (doorbell_whole s q data h), fun h => hcounted (.inr h), hpush,
      hpushe, fun v r hv hr => exec_doorbellCidx hv hr, rfl⟩
  case ring =>
    intro n x q
    refine ⟨fun hen hstop hbatch hleave hkind hon => ?batch, fun d a bytes w hreq hd => ?response, fun _ => rfl,
      fun w v hw _ hsize hset hclear => next_access w (wrRingCfg_enables hw hsize hset hclear)⟩
    case batch =>
      have hidle : s.moverIdle r := ⟨hen, hstop, hbatch, hleave, hkind⟩
      refine ⟨fun hfull => ?_, fun items hroom hitems hsome => ?_⟩
      · exact (exec_hostMoverBatch hon).trans (congrArg _ (moverBatch_full hidle hfull))
      · subst hitems
        exact (exec_hostMoverBatch hon).trans (congrArg _ (moverBatch_room hidle hroom hsome))
    case response =>
      intro u hw
      refine ⟨fun hmore => ?_, fun hleave hroom hlast hstop => ?_⟩
      · exact congrArg _ (moverResponse_failed rfl hreq hd hw hmore)
      · exact congrArg _ (moverResponse_last rfl hreq hd hw rfl hleave hroom hlast hstop)

end Sys2Proof.Machine

/-!
PROOFS. What a pin channel's instruction comes to: its operand, its lane, the channel it leaves and its next PC.
-/

namespace Sys2Proof.Machine

/-! ## The next PC (R246) -/

/-- Channel ch does not stand at the end of its program memory. -/
def State.pinContinues (s : State) (ch : Chan) : Prop :=
  (s.chan ch).pc.toNat = s.chFld F.peWrap_WRAPT ch ∨ (s.chan ch).pc ≠ 0x3FF

/-- Standing at the end is decided by the channel's PC and its WRAP register alone. -/
theorem pinContinues_congr {s u : State} {ch : Chan} (h : s.pinContinues ch) (hpc : (u.chan ch).pc = (s.chan ch).pc)
    (hregs : u.regs = s.regs) : u.pinContinues ch := by
  have hwrap : u.chFld F.peWrap_WRAPT ch = s.chFld F.peWrap_WRAPT ch := by
    simp only [State.chFld, State.fld, State.reg, State.regAt, hregs]
  rwa [State.pinContinues, hpc, hwrap]

section
variable {s : State} {ch : Chan}

theorem chNext_of_continues (h : s.pinContinues ch) : s.chNext ch = s.afterPin ch (s.chan ch) := by
  have hnext : nextPc (s.chReg .peWrap ch) (s.chan ch).pc = some (s.pinNext ch) := by
    show (if (s.chan ch).pc.toNat = s.chFld F.peWrap_WRAPT ch then some _ else _) = some (ite _ _ _)
    split_ifs with hwrap hend
    · rfl
    · exact absurd hend (h.resolve_left hwrap)
    · rfl
  rw [State.chNext, hnext]
  rfl

/-- At the end of the program memory an instruction that completes faults (R246, R251). -/
theorem chNext_at_end (hpc : (s.chan ch).pc = 0x3FF) (hwrap : s.chFld F.peWrap_WRAPT ch ≠ 0x3FF) :
    s.chNext ch = s.chFault ch 0x24 := by
  have hnext : nextPc (s.chReg .peWrap ch) (s.chan ch).pc = none := by
    rw [hpc]
    exact if_neg (Ne.symm hwrap)
  rw [State.chNext, hnext]
  rfl

/-- An instruction that leaves its channel as x, at its own PC. -/
theorem chNext_setChan (h : s.pinContinues ch) {x : Channel} (hpc : x.pc = (s.chan ch).pc) :
    (s.setChan ch x).chNext ch = s.afterPin ch x := by
  have hnext : (s.setChan ch x).pinNext ch = s.pinNext ch := by
    rw [State.pinNext, chan_setChan_same, hpc]
    rfl
  have hcont : (s.setChan ch x).pinContinues ch := pinContinues_congr h (by rw [chan_setChan_same, hpc]) rfl
  rw [chNext_of_continues hcont, State.afterPin, hnext, chan_setChan_same, setChan_setChan]
  rfl

theorem pinSet_eq (h : s.pinContinues ch) (dd : BitVec 3) (v : Word) :
    s.pinSet ch dd v = s.afterPin ch ((s.chan ch).setReg dd v) := chNext_setChan h rfl

theorem pinSetZ_eq (h : s.pinContinues ch) (dd : BitVec 3) (v : Word) (z : Bool) :
    s.pinSetZ ch dd v z = s.afterPin ch { (s.chan ch).setReg dd v with z := z } := chNext_setChan h rfl

theorem pinSetZC_eq (h : s.pinContinues ch) (dd : BitVec 3) (v : Word) (z c : Bool) :
    s.pinSetZC ch dd v z c = s.afterPin ch { (s.chan ch).setReg dd v with z := z, c := c } := chNext_setChan h rfl

/-! ## Instructions of a channel that executes (R242, R248, R251) -/

theorem next_pin {f : State → State} {u : State} (h : s.chExecutes ch = true) (hf : f s = u) :
    (.next (s.pin ch f) : Out) = .next u := congrArg _ ((if_pos h).trans hf)

theorem next_pinLane {lane : BitVec 2} {p : Port} {f : State → Port → State} {u : State} (h : s.chExecutes ch = true)
    (hl : s.laneOf ch lane.toNat = some p) (hf : f s p = u) :
    (.next (s.pin ch fun s => s.pinLane ch lane f) : Out) = .next u := by
  refine next_pin h ?_
  rw [State.pinLane, hl]
  exact hf

theorem pinB_of_operand {ds : BitVec 3} {useImm : Bool} {imm : BitVec 16} {signed : Bool} {b : Word}
    (h : s.pinOperandIs ch ds useImm imm signed b) : s.pinB ch ds useImm imm signed = some b := by
  obtain ⟨rfl, rfl, rfl⟩ | ⟨rfl, rfl, rfl⟩ := h <;> rfl

theorem next_pinAlu {dd ds : BitVec 3} {useImm : Bool} {imm : BitVec 16} {signed : Bool} {b : Word}
    {f : State → Word → Word → State} {u : State} (h : s.chExecutes ch = true)
    (ho : s.pinOperandIs ch ds useImm imm signed b) (hf : f s ((s.chan ch).reg dd) b = u) :
    (.next (s.pin ch fun s => s.pinAlu ch dd ds useImm imm signed f) : Out) = .next u := by
  refine next_pin h ?_
  rw [State.pinAlu, pinB_of_operand ho]
  exact hf

end

/-! ## Moves, sums, logic, shifts and comparisons (R245 to R248) -/

theorem reg_setReg_channel (x : Channel) (dd : BitVec 3) (v : Word) (d : BitVec 3) :
    (x.setReg dd v).reg d = if d = dd then v else x.reg d := by
  simp only [Channel.reg, Channel.setReg, smGet_smSet, BitVec.toNat_inj]

theorem sub_beq_zero (a b : Word) : (a - b == 0) = (a == b) :=
  Bool.eq_iff_iff.mpr (beq_iff_eq.trans (sub_eq_zero.trans beq_iff_eq.symm))

/-- Settles O30: each instruction writes its register and flags and goes on (`pinSet_eq`, `pinSetZ_eq`, `pinSetZC_eq`). -/
theorem pinArithmetic : Obligations.PinArithmetic := by
  unfold Obligations.PinArithmetic
  intro s ch dd ds useImm imm b x a k sets withC hruns
  obtain ⟨hexec, hcont⟩ := hruns
  refine ⟨reg_setReg_channel x dd, next_pin hexec (pinSet_eq hcont _ _), next_pin hexec (pinSet_eq hcont _ _),
    next_pin hexec (pinSet_eq hcont _ _), fun ho => ⟨?add, ?sub, ?cmp⟩, fun ho => ⟨?and, ?or, ?xor, ?shl, ?shr⟩⟩
  case add => exact next_pinAlu hexec ho (pinSetZC_eq hcont _ _ _ _)
  case sub => exact next_pinAlu hexec ho (pinSetZC_eq hcont _ _ _ _)
  case cmp => exact next_pinAlu hexec ho ((pinSetZC_eq hcont _ _ _ _).trans (by rw [sub_beq_zero]))
  case and => exact next_pinAlu hexec ho (pinSetZ_eq hcont _ _ _)
  case or => exact next_pinAlu hexec ho (pinSetZ_eq hcont _ _ _)
  case xor => exact next_pinAlu hexec ho (pinSetZ_eq hcont _ _ _)
  case shl => exact next_pinAlu hexec ho ((pinSetZC_eq hcont _ _ _ _).trans (by rw [shlRes_eq]))
  case shr => exact next_pinAlu hexec ho ((pinSetZC_eq hcont _ _ _ _).trans (by rw [shrRes_eq]))

end Sys2Proof.Machine

/-!
PROOFS. Branches, waits, the end of a pin channel's program and its faults.
-/

namespace Sys2Proof.Machine

/-! ## Branches (R246, R249) -/

/-- An instruction of channel ch branches to a target when b holds, and goes on otherwise. -/
def State.chBranchIf (s : State) (ch : Chan) (target : BitVec 10) (b : Bool) : State :=
  if b then s.chBranch ch target else s.chNext ch

section
variable {s : State} {ch : Chan} {target : BitVec 10}

theorem chBranchIf_eq (h : s.pinContinues ch) (b : Bool) : s.chBranchIf ch target b =
    if b then s.setChan ch { s.chan ch with st := .run, pc := target } else s.afterPin ch (s.chan ch) := by
  rw [State.chBranchIf, chNext_of_continues h]
  rfl

/-- A lane condition looks at the port that the lane binds. -/
theorem brRun_lane {dd : BitVec 3} {p : Port} (hdd : dd.toNat < 4) (hl : s.laneOf ch dd.toNat = some p) :
    s.brRun ch 5 dd target = s.chBranchIf ch target (s.delivered p) ∧
      s.brRun ch 6 dd target = s.chBranchIf ch target (!s.delivered p) ∧
      s.brRun ch 7 dd target = (s.setPort p { s.port p with diff := false }).chBranchIf ch target (s.port p).diff := by
  have hbit : dd.getLsbD 2 = false := Nat.testBit_lt_two_pow hdd
  have hlane : (dd.setWidth 2).toNat = dd.toNat := Nat.mod_eq_of_lt hdd
  have hbound (g : State → Port → State) :
      (if dd.getLsbD 2 then s.chFault ch peIllegalCode else s.pinLane ch (dd.setWidth 2) g) = g s p := by
    rw [hbit, State.pinLane, hlane, hl]
    rfl
  exact ⟨hbound _, hbound _, hbound _⟩

theorem brRun_illegal {f : BitVec 4} (h : 10 ≤ f.toNat) (dd : BitVec 3) :
    s.brRun ch f dd target = s.chFault ch 0x20 := by
  obtain ⟨n, hn⟩ := Nat.exists_eq_add_of_le' h
  rw [State.brRun, hn]
  rfl

/-- DJNZ branches while the register it has counted down is not 0. -/
theorem djnz_eq (h : s.pinContinues ch) (dd : BitVec 3) :
    let u := s.setChan ch ((s.chan ch).setReg dd ((s.chan ch).reg dd - 1))
    (if s.pinReg ch dd - 1 ≠ 0 then u.chBranch ch target else u.chNext ch) =
      if (s.chan ch).reg dd - 1 != 0 then u.setChan ch { u.chan ch with st := .run, pc := target }
      else u.afterPin ch (u.chan ch) := by
  intro u
  have hcont : u.pinContinues ch := pinContinues_congr h (by rw [chan_setChan_same]; rfl) rfl
  rw [← chBranchIf_eq hcont, State.chBranchIf]
  simp only [bne_iff_ne]
  rfl

end

/-- Settles O31: a branch is `State.chBranchIf` of its condition; every other instruction completes, waits or faults. -/
theorem pinControlFlow : Obligations.PinControlFlow := by
  unfold Obligations.PinControlFlow
  intro s ch dd target x branch hexec
  refine ⟨?runs, fun hruns => ?wrap, ?halt, fun w hw => ?illegal, fun f hf => ?branchIllegal, fun lane hl => ?unbound,
    fun hpc hwrap => ?pcEnd⟩
  case runs =>
    rintro ⟨-, hcont⟩
    have hplain (b : Bool) : s.chBranchIf ch target b = branch s b := chBranchIf_eq hcont b
    refine ⟨?plain, fun p hdd hl => ?lanes, ?djnz, ?evt, ?rdc, ?tag, fun hnow => ?reached,
      fun hnot => ?waits⟩
    case plain =>
      exact ⟨next_pin hexec (hplain true), next_pin hexec (hplain x.z), next_pin hexec (hplain (!x.z)),
        next_pin hexec (hplain x.c), next_pin hexec (hplain (!x.c)),
        next_pin hexec (hplain (x.bu.stuffErr || x.bu.underrun || x.bu.overrun)),
        next_pin hexec (hplain x.bu.tx.isEmpty)⟩
    case lanes =>
      obtain ⟨hone, hzero, hdiff⟩ := brRun_lane (target := target) hdd hl
      refine ⟨next_pin hexec (hone.trans (hplain _)), next_pin hexec (hzero.trans (hplain _)), next_pin hexec (hdiff.trans ?_)⟩
      exact chBranchIf_eq (s := s.setPort p _) hcont _
    case djnz => exact next_pin hexec (djnz_eq hcont dd)
    case evt => exact next_pin hexec (chNext_of_continues (s := s.pulse _) hcont)
    case rdc => exact next_pin hexec (pinSet_eq hcont _ _)
    case tag => exact next_pin hexec (pinSet_eq hcont _ _)
    case reached => exact next_pin hexec ((if_pos hnow).trans (chNext_of_continues hcont))
    case waits => exact next_pin hexec (if_neg (Bool.eq_false_iff.mp hnot))
  case wrap =>
    obtain ⟨-, hcont⟩ := hruns
    exact next_pin hexec (chNext_of_continues hcont)
  case halt => exact next_pin hexec rfl
  case illegal =>
    refine congrArg _ ((if_neg (Bool.eq_false_iff.mp hw)).trans ?_)
    exact if_pos hexec
  case branchIllegal => exact next_pin hexec (brRun_illegal hf dd)
  case unbound =>
    refine next_pin hexec ?_
    rw [State.pinLane, hl]
    rfl
  case pcEnd =>
    refine next_pin hexec (chNext_at_end ?_ hwrap)
    rw [chan_setChan_same]
    exact hpc

end Sys2Proof.Machine

/-!
PROOFS. What a pin channel's instructions do on a lane that it binds: drives, samples, edges, timestamps and CRC registers.
-/

namespace Sys2Proof.Machine

section
variable {s : State} {ch : Chan}

/-! ## Flags of a channel's registers, and its safe states (R242) -/

theorem chBit_of_zero {f : Fld} (h : s.chFld f ch = 0) : s.chBit f ch = false := bne_eq_false_iff_eq.mpr h

theorem chBit_of_one {f : Fld} (h : s.chFld f ch = 1) : s.chBit f ch = true :=
  bne_iff_ne.mpr fun h0 => Nat.one_ne_zero (h.symm.trans h0)

theorem isSafe_eq_false_iff {x : ChState} : x.isSafe = false ↔ x ∉ [.safe, .latched] := by
  cases x <;> decide

/-- A field that an instruction does not use holds 0 (R251). -/
theorem unused_field {used : Bool} {v : BitVec 3} (h : used = true ∨ v = 0) : (!used && v != 0) = false := by
  obtain rfl | rfl := h
  · rfl
  · exact Bool.and_false _

/-! ## The writers of a port (R255, R256) -/

/-- The first writer of a cycle has its level at an unfenced port of a channel that is not at its safe states. -/
theorem writeLane_first {p : Port} {lane c : Nat} (hl : s.laneOf ch lane = some p)
    (hfence : s.fld F.peFence_FENCED p.toNat = 0) (hst : (s.chan ch).st ∉ [.safe, .latched])
    (hvote : s.chFld F.peCcfg_VOTE ch = 0) (hfirst : (s.port p).lastAt < c + 1) (rank : Nat) (out oe : Bool) :
    s.writeLane ch lane rank out oe c =
      if (s.port p).guard && oe then (s.portWrite p rank out oe c).chSatAdd F.peCerr_COLL 1 ch
      else s.portWrite p rank out oe c := by
  have hopen : s.bit F.peFence_FENCED p.toNat = false := bne_eq_false_iff_eq.mpr hfence
  simp only [State.writeLane, hl, hopen, isSafe_eq_false_iff.mpr hst, chBit_of_zero hvote, hfirst.not_gt, hfirst.ne,
    beq_eq_false_iff_ne.mpr hfirst.ne, Bool.false_and, Bool.or_false, decide_false, Bool.false_eq_true, if_false]

theorem portWrite_levels (p : Port) (rank : Nat) (out oe : Bool) (c : Nat) :
    ((s.portWrite p rank out oe c).port p).out = out ∧ ((s.portWrite p rank out oe c).port p).oe = oe := by
  simp [State.portWrite, State.drivePort]

theorem port_portWrite_ne {p q : Port} (h : q ≠ p) (rank : Nat) (out oe : Bool) (c : Nat) :
    (s.portWrite p rank out oe c).port q = s.port q := by
  simp only [State.portWrite, State.drivePort, port_setPort_ne _ _ _ _ h]

theorem channels_portWrite (p : Port) (rank : Nat) (out oe : Bool) (c : Nat) :
    (s.portWrite p rank out oe c).channels = s.channels := by
  simp only [State.portWrite, State.drivePort, channels_setPort]

theorem regs_portWrite (p : Port) (rank : Nat) (out oe : Bool) (c : Nat) :
    (s.portWrite p rank out oe c).regs = s.regs := by
  simp only [State.portWrite, State.drivePort, regs_setPort]

/-! ## DRIVE (R254) -/

/-- Field F of a DRIVE holds its lane in bits [1:0], the source of its level in bit 2 and whether it is timed in bit 3. -/
theorem driveField_parts : ∀ lane : BitVec 2,
    (∀ f ∈ [lane.setWidth 4, lane.setWidth 4 + 4, lane.setWidth 4 + 8, lane.setWidth 4 + 12], f.setWidth 2 = lane) ∧
      (lane.setWidth 4).getLsbD 3 = false ∧ (lane.setWidth 4 + 4).getLsbD 3 = false ∧
      (lane.setWidth 4 + 8).getLsbD 3 = true ∧ (lane.setWidth 4 + 12).getLsbD 3 = true ∧
      (lane.setWidth 4).getLsbD 2 = false ∧ (lane.setWidth 4 + 4).getLsbD 2 = true ∧
      (lane.setWidth 4 + 8).getLsbD 2 = false ∧ (lane.setWidth 4 + 12).getLsbD 2 = true := by decide

/-- A DRIVE on a bound lane gives the port OUT and OE; it is timed or untimed. -/
def State.drives (s : State) (ch : Chan) (dd ds : BitVec 3) (f : BitVec 4) (imm : BitVec 2) (lane : BitVec 2) (timed : Bool)
    (out oe : Bool) : Prop :=
  f.setWidth 2 = lane ∧ f.getLsbD 3 = timed ∧ s.driveLevels ch dd ds f imm = some (out, oe)

theorem driveLevels_imm {dd : BitVec 3} {f : BitVec 4} (hsrc : f.getLsbD 2 = false) (hdd : f.getLsbD 3 = true ∨ dd = 0)
    (imm : BitVec 2) : s.driveLevels ch dd 0 f imm = some (imm.getLsbD 0, imm.getLsbD 1) := by
  rw [State.driveLevels, unused_field hdd, hsrc]
  rfl

theorem driveLevels_reg {dd : BitVec 3} {f : BitVec 4} (hsrc : f.getLsbD 2 = true) (hdd : f.getLsbD 3 = true ∨ dd = 0)
    (ds : BitVec 3) : s.driveLevels ch dd ds f 0 = some (((s.chan ch).reg ds).getLsbD 0, true) := by
  rw [State.driveLevels, unused_field hdd, hsrc]
  rfl

theorem drives_now_imm (lane imm : BitVec 2) :
    s.drives ch 0 0 (lane.setWidth 4) imm lane false (imm.getLsbD 0) (imm.getLsbD 1) := by
  obtain ⟨hlane, htimed, -, -, -, hsrc, -⟩ := driveField_parts lane
  exact ⟨hlane _ (by simp), htimed, driveLevels_imm hsrc (.inr rfl) imm⟩

theorem drives_now_reg (lane : BitVec 2) (ds : BitVec 3) :
    s.drives ch 0 ds (lane.setWidth 4 + 4) 0 lane false (((s.chan ch).reg ds).getLsbD 0) true := by
  obtain ⟨hlane, -, htimed, -, -, -, hsrc, -⟩ := driveField_parts lane
  exact ⟨hlane _ (by simp), htimed, driveLevels_reg hsrc (.inr rfl) ds⟩

theorem drives_timed {f : BitVec 4} {src : BitVec 3} {imm lane : BitVec 2} {out oe : Bool} (dd : BitVec 3)
    (h : (f = lane.setWidth 4 + 8 ∧ src = 0 ∧ out = imm.getLsbD 0 ∧ oe = imm.getLsbD 1) ∨
      (f = lane.setWidth 4 + 12 ∧ imm = 0 ∧ out = ((s.chan ch).reg src).getLsbD 0 ∧ oe = true)) :
    s.drives ch dd src f imm lane true out oe := by
  obtain ⟨hlane, -, -, himm, hreg, -, -, himmSrc, hregSrc⟩ := driveField_parts lane
  obtain ⟨rfl, rfl, rfl, rfl⟩ | ⟨rfl, rfl, rfl, rfl⟩ := h
  · exact ⟨hlane _ (by simp), himm, driveLevels_imm himmSrc (.inl himm) imm⟩
  · exact ⟨hlane _ (by simp), hreg, driveLevels_reg hregSrc (.inl hreg) src⟩

section
variable {dd ds : BitVec 3} {f : BitVec 4} {imm lane : BitVec 2} {p : Port} {timed out oe : Bool}

/-- A VOTE channel drives no lane by its program; any other drives at once, or pends when its lane has none pending. -/
theorem driveRun_of_drives (hl : s.laneOf ch lane.toNat = some p) (h : s.drives ch dd ds f imm lane timed out oe) :
    s.driveRun ch dd ds f imm =
      if s.chBit F.peCcfg_VOTE ch then (s.chSatAdd F.peCerr_DISC 1 ch).chNext ch
      else if timed then
        if (smGet none (s.chan ch).timed lane.toNat).isSome then s.chWait ch .wait
        else s.pendDrive ch lane.toNat ((s.chan ch).reg dd) out oe
      else s.driveNow ch lane.toNat out oe := by
  obtain ⟨rfl, rfl, hv⟩ := h
  simp only [State.driveRun, hv, State.pinLane, hl]
  rfl

theorem driveRun_vote (hl : s.laneOf ch lane.toNat = some p) (h : s.drives ch dd ds f imm lane timed out oe)
    (hvote : s.chFld F.peCcfg_VOTE ch = 1) :
    s.driveRun ch dd ds f imm = (s.chSatAdd F.peCerr_DISC 1 ch).chNext ch :=
  (driveRun_of_drives hl h).trans (if_pos (chBit_of_one hvote))

theorem driveRun_now (hl : s.laneOf ch lane.toNat = some p) (h : s.drives ch dd ds f imm lane false out oe)
    (hvote : s.chFld F.peCcfg_VOTE ch = 0) : s.driveRun ch dd ds f imm = s.driveNow ch lane.toNat out oe :=
  (driveRun_of_drives hl h).trans ((if_neg (Bool.eq_false_iff.mp (chBit_of_zero hvote))).trans (if_neg Bool.false_ne_true))

theorem driveRun_timed (hl : s.laneOf ch lane.toNat = some p) (h : s.drives ch dd ds f imm lane true out oe)
    (hvote : s.chFld F.peCcfg_VOTE ch = 0) :
    s.driveRun ch dd ds f imm =
      if (smGet none (s.chan ch).timed lane.toNat).isSome then s.chWait ch .wait
      else s.pendDrive ch lane.toNat ((s.chan ch).reg dd) out oe :=
  (driveRun_of_drives hl h).trans ((if_neg (Bool.eq_false_iff.mp (chBit_of_zero hvote))).trans (if_pos rfl))

end

theorem pendDrive_ahead (h : s.pinContinues ch) {t : Word} (ht : reached s.cycle t = false) (lane : Nat) (out oe : Bool) :
    s.pendDrive ch lane t out oe =
      s.afterPin ch { s.chan ch with timed := smSet none (s.chan ch).timed lane (some ⟨t, out, oe⟩) } := by
  rw [State.pendDrive, ht]
  exact chNext_setChan h rfl

theorem exec_timedDriveDue {lane : BitVec 2} {td : TimedDrive} (hup : s.groupUp ch = true)
    (htd : smGet none (s.chan ch).timed lane.toNat = some td) (hdue : reached s.cycle td.at_ = true) :
    exec (.timedDriveDue ch lane) s = .next
      ((s.setChan ch { s.chan ch with timed := smSet none (s.chan ch).timed lane.toNat none }).writeLane ch lane.toNat 4
        td.out td.oe s.cycle) := by
  change execTimedDriveDue ch lane s = _
  simp only [execTimedDriveDue, htd, hup, hdue, Bool.and_self, if_true]

/-! ## Edges and timestamps (R257, R258) -/

section
variable {lane : BitVec 2} {p : Port}

/-- WAITE at a bound lane: an entry of the timestamp queue ends it, or DS when it is timed. -/
theorem waiteRun_bound {timed : Bool} {ds : BitVec 3} (hl : s.laneOf ch lane.toNat = some p) (hds : timed = true ∨ ds = 0) :
    s.waiteRun ch lane timed ds =
      if (s.port p).ts ≠ [] then (s.setChan ch { s.chan ch with z := false }).chNext ch
      else if timed && reached (2 ^ 32 - 1 + s.cycle) ((s.chan ch).reg ds) then
        (s.setChan ch { s.chan ch with z := true }).chNext ch
      else s.chWait ch .wait := by
  simp only [State.waiteRun, unused_field hds, State.pinLane, hl, Bool.false_eq_true, if_false, Bool.not_eq_true',
    List.isEmpty_eq_false_iff]
  rfl

theorem tstampRun_empty (h : s.pinContinues ch) (hl : s.laneOf ch lane.toNat = some p) (hts : (s.port p).ts = [])
    (dd : BitVec 3) (lowWord pop : Bool) :
    s.tstampRun ch dd lane lowWord pop = s.afterPin ch { (s.chan ch).setReg dd 0 with z := true } := by
  simp only [State.tstampRun, State.pinLane, hl, hts]
  exact pinSetZ_eq h _ _ _

/-- TSTAMP shows the head of the timestamp queue, and removes it when it is told to. -/
theorem tstampRun_head (h : s.pinContinues ch) (hl : s.laneOf ch lane.toNat = some p) {e : TsEntry} {rest : List TsEntry}
    (hts : (s.port p).ts = e :: rest) (dd : BitVec 3) (lowWord pop : Bool) :
    s.tstampRun ch dd lane lowWord pop =
      (if pop then s.setPort p { s.port p with ts := rest } else s).afterPin ch
        { (s.chan ch).setReg dd (if lowWord then e.tb.extractLsb' 0 32 else e.tb.extractLsb' 16 32) with
          z := false, c := e.rising } := by
  simp only [State.tstampRun, State.pinLane, hl, hts]
  cases pop
  · exact pinSetZC_eq h _ _ _ _
  · exact pinSetZC_eq (s := s.setPort p _) h _ _ _ _

end
end

/-- Settles O32: each instruction on its lane by the equation of its operation, each level by `writeLane_first`. -/
theorem pinLaneInstructions : Obligations.PinLaneInstructions := by
  unfold Obligations.PinLaneInstructions
  intro s ch dd ds lane p x y l timed after
  refine ⟨?instructions, fun td hup htd hdue => exec_timedDriveDue hup htd hdue, fun rank out oe c hl hfence hst hvote hfirst =>
    ?level⟩
  case instructions =>
    rintro ⟨hexec, hcont⟩ hl
    refine ⟨fun imm hvote => ⟨?imm, ?reg, fun f src im out oe h => ?timed⟩, fun imm hvote => ?vote, ?sample,
      fun hts => ?edge, fun hts => ?noEdge, fun hts hnow => ?expired, fun lowWord pop hts => ?empty,
      fun lowWord e rest hts => ?head, ?rdca, ?rdcb, ?stcnt, ?crci, ?tsclr, fun mode n => ?stmode⟩
    case imm => exact next_pin hexec (driveRun_now hl (drives_now_imm lane imm) hvote)
    case reg => exact next_pin hexec (driveRun_now hl (drives_now_reg lane ds) hvote)
    case timed =>
      have hrun := driveRun_timed hl (drives_timed dd h) hvote
      refine ⟨fun hsome => ?_, fun hnone hahead => ?_, fun hnone hpast => ?_⟩
      · exact next_pin hexec (hrun.trans (if_pos hsome))
      · have hfree : ¬ timed.isSome = true := by rw [hnone]; exact Bool.false_ne_true
        exact next_pin hexec ((hrun.trans (if_neg hfree)).trans (pendDrive_ahead hcont hahead l out oe))
      · have hfree : ¬ timed.isSome = true := by rw [hnone]; exact Bool.false_ne_true
        exact next_pin hexec ((hrun.trans (if_neg hfree)).trans (if_pos hpast))
    case vote => exact next_pin hexec (driveRun_vote hl (drives_now_imm lane imm) hvote)
    case sample => exact next_pinLane hexec hl (pinSetZ_eq hcont _ _ _)
    case edge =>
      exact next_pin hexec ((waiteRun_bound hl (.inr rfl)).trans ((if_pos hts).trans (chNext_setChan hcont rfl)))
    case noEdge => exact next_pin hexec ((waiteRun_bound hl (.inr rfl)).trans (if_neg (not_not.mpr hts)))
    case expired =>
      exact next_pin hexec ((waiteRun_bound hl (.inl rfl)).trans ((if_neg (not_not.mpr hts)).trans
        ((if_pos hnow).trans (chNext_setChan hcont rfl))))
    case empty => exact next_pin hexec (tstampRun_empty hcont hl hts dd lowWord pop)
    case head =>
      exact ⟨next_pin hexec (tstampRun_head hcont hl hts dd lowWord false),
        next_pin hexec (tstampRun_head hcont hl hts dd lowWord true)⟩
    case rdca => exact next_pinLane hexec hl (pinSet_eq hcont _ _)
    case rdcb => exact next_pinLane hexec hl (pinSet_eq hcont _ _)
    case stcnt => exact next_pinLane hexec hl (pinSet_eq hcont _ _)
    case crci => exact next_pinLane hexec hl (chNext_of_continues (s := s.setPort p _) hcont)
    case tsclr => exact next_pinLane hexec hl (chNext_of_continues (s := s.setPort p _) hcont)
    case stmode => exact next_pinLane hexec hl (chNext_setChan hcont rfl)
  case level =>
    intro t
    obtain ⟨hout, hoe⟩ := portWrite_levels (s := s) p rank out oe c
    exact ⟨writeLane_first hl hfence hst hvote hfirst rank out oe, hout, hoe,
      fun q hq => port_portWrite_ne hq rank out oe c, channels_portWrite p rank out oe c, regs_portWrite p rank out oe c⟩

end Sys2Proof.Machine

/-!
PROOFS. Pulls and pushes of a pin channel, and the instructions of its bit unit.
-/

namespace Sys2Proof.Machine

section
variable {s : State} {ch : Chan} {k : Bool} {q : Qid}

/-! ## Pulls (R252) -/

/-- A read of a source whose quadrant is on takes the queue's item at once. -/
theorem chPull_of_on (hon : (s.dom (quadDomain (quadrantOf q))).st = .on) :
    s.chPull ch q = ((s.popItem q (.channel ch)).1.map fun x => x.1, (s.popItem q (.channel ch)).2) := by
  simp only [State.chPull, hon, if_true]

/-- PULL and TPULL take an item into DD and QTAG; TPULL clears Z. -/
theorem pullRun_item {u : State} {i : BitVec 64} {w : QWord} (hsrc : s.sourceOf ch k = some q)
    (hon : (s.dom (quadDomain (quadrantOf q))).st = .on) (hpop : s.popItem q (.channel ch) = (some (i, w), u))
    (dd : BitVec 3) (try_ : Bool) :
    let got := { (u.chan ch).setReg dd (itemPayload i) with qtag := itemTag i }
    s.pullRun ch dd k try_ = (u.setChan ch (if try_ then { got with z := false } else got)).chNext ch := by
  simp only [State.pullRun, hsrc, chPull_of_on hon, hpop, Option.map_some]

/-- With no item PULL stalls, and TPULL sets Z. -/
theorem pullRun_none {u : State} (hsrc : s.sourceOf ch k = some q)
    (hon : (s.dom (quadDomain (quadrantOf q))).st = .on) (hpop : s.popItem q (.channel ch) = (none, u))
    (dd : BitVec 3) (try_ : Bool) :
    s.pullRun ch dd k try_ = if try_ then (u.setChan ch { u.chan ch with z := true }).chNext ch
      else u.chWait ch .stallPull := by
  simp only [State.pullRun, hsrc, chPull_of_on hon, hpop, Option.map_none]

theorem pullRun_unbound (hsrc : s.sourceOf ch k = none) (dd : BitVec 3) (try_ : Bool) :
    s.pullRun ch dd k try_ = s.chFault ch 0x22 := by
  rw [State.pullRun, hsrc]
  rfl

/-! ## Pushes (R203, R216, R252) -/

section
variable {dd : BitVec 3} {fin : Bool} {prio kind : BitVec 4} {a : PushAns} {u : State}
  (hsnk : s.sinkOf ch k = some q) (hfree : ∀ h ∈ (s.quad (quadrantOf q)).held, h.owner ≠ ownerChannel ch)
  (hpush : s.push q (mkItem fin prio kind (senderChannel ch) ((s.chan ch).reg dd)) (ownerChannel ch) 0 = (a, u))
include hfree

/-- Nothing of the channel is held at the push port of its sink. -/
theorem held_any_eq_false : ((s.quad (quadrantOf q)).held.any fun h => h.owner == ownerChannel ch) = false := by
  simpa using hfree

include hsnk hpush

/-- PUSH completes once its item is stored, or sent to the slag queue. -/
theorem pushRun_done (ha : a ∈ [.ok, .slagged]) : s.pushRun ch dd k fin prio kind = (u.chNext ch).chPushDone ch := by
  simp only [State.pushRun, hsnk, held_any_eq_false hfree, State.pinReg, hpush, Bool.false_eq_true, if_false]
  fin_cases ha <;> rfl

/-- A disabled queue sends the item to the slag queue (R203). -/
theorem pushRun_disabled (ha : a = .disabled) :
    s.pushRun ch dd k fin prio kind =
      ((u.slagLocal slagPoolFull q (mkItem fin prio kind (senderChannel ch) ((s.chan ch).reg dd))).chNext ch).chPushDone ch := by
  simp only [State.pushRun, hsnk, held_any_eq_false hfree, State.pinReg, hpush, ha, Bool.false_eq_true, if_false]

/-- A refused PUSH stalls, and waits where its refusal says. -/
theorem pushRun_refused (ha : a ∈ [.full, .poolFull, .over, .held, .later]) :
    s.pushRun ch dd k fin prio kind = (u.waitFor q (ownerChannel ch) a).chWait ch .stallPush := by
  simp only [State.pushRun, hsnk, held_any_eq_false hfree, State.pinReg, hpush, Bool.false_eq_true, if_false]
  fin_cases ha <;> rfl

end

/-! ## Shift buffers of the bit unit (R262, R264) -/

section
variable {n : BitVec 6} (hlo : 1 ≤ n.toNat) (hhi : n.toNat ≤ 32)
include hlo hhi

/-- A shift instruction names 1 to 32 bits. -/
theorem shift_count : (decide (n = 0) || decide (32 < n.toNat)) = false := by
  have hne : n ≠ 0 := fun h => absurd hlo (by rw [h]; decide)
  rw [decide_eq_false hne, decide_eq_false hhi.not_gt, Bool.or_self]

theorem shtxRun_off (hoff : s.chFld F.peBitcfg_TXEN ch = 0) (ds : BitVec 3) : s.shtxRun ch ds n = s.chFault ch 0x23 := by
  rw [State.shtxRun, shift_count hlo hhi, chBit_of_zero hoff]
  rfl

/-- SHTX queues its bits while fewer than two transmit words are held, and waits otherwise. -/
theorem shtxRun_on (hon : s.chFld F.peBitcfg_TXEN ch = 1) (ds : BitVec 3) :
    let x := s.chan ch
    s.shtxRun ch ds n = if 2 ≤ x.bu.tx.length then s.chWait ch .wait
      else (s.setChan ch { x with bu := { x.bu with
        tx := x.bu.tx ++ [sendBits (x.reg ds) n.toNat (s.chBit F.peBitcfg_LSBF ch)] } }).chNext ch := by
  rw [State.shtxRun, shift_count hlo hhi, chBit_of_one hon]
  rfl

theorem shrxRun_off (hoff : s.chFld F.peBitcfg_RXEN ch = 0) (dd : BitVec 3) : s.shrxRun ch dd n = s.chFault ch 0x23 := by
  rw [State.shrxRun, shift_count hlo hhi, chBit_of_zero hoff]
  rfl

/-- SHRX takes the oldest received bits once enough are held, and waits before. -/
theorem shrxRun_on (hon : s.chFld F.peBitcfg_RXEN ch = 1) (dd : BitVec 3) :
    let x := s.chan ch
    s.shrxRun ch dd n = if x.bu.rx.length < n.toNat then s.chWait ch .wait
      else (s.setChan ch { x with bu := { x.bu with rx := x.bu.rx.drop n.toNat } }).pinSet ch dd
        (gatherBits (x.bu.rx.take n.toNat) (s.chBit F.peBitcfg_LSBF ch)) := by
  rw [State.shrxRun, shift_count hlo hhi, chBit_of_one hon]
  rfl

end

/-- An instruction that changes the bit unit and writes a register. -/
theorem pinSet_setBitUnit (h : s.pinContinues ch) (b : BitUnit) (dd : BitVec 3) (v : Word) :
    (s.setChan ch { s.chan ch with bu := b }).pinSet ch dd v =
      s.afterPin ch { (s.chan ch).setReg dd v with bu := b } := by
  rw [State.pinSet, chan_setChan_same, setChan_setChan]
  exact chNext_setChan h rfl

end

/-- Settles O33: a pull by what its source's queue gives, a push by the queue's answer, and each instruction of the bit
unit by the equation of its operation. -/
theorem pinQueuesAndBitUnit : Obligations.PinQueuesAndBitUnit := by
  unfold Obligations.PinQueuesAndBitUnit
  intro s ch dd k q n x b hruns
  obtain ⟨hexec, hcont⟩ := hruns
  refine ⟨fun hsrc hon => ⟨fun i w u hpop => ?item, fun u hpop => ?noItem⟩, fun hsrc => ?noSource,
    fun hsnk hfree fin prio kind => ?push, fun hlo hhi => ⟨fun hon => ?send, fun hon => ?receive, fun hoff => ?sendOff,
    fun hoff => ?receiveOff⟩, ?bset, fun kind => ?hsync, ?ben, ?bstat⟩
  case item =>
    exact ⟨next_pin hexec (pullRun_item hsrc hon hpop dd false), next_pin hexec (pullRun_item hsrc hon hpop dd true)⟩
  case noItem =>
    exact ⟨next_pin hexec (pullRun_none hsrc hon hpop dd false), next_pin hexec (pullRun_none hsrc hon hpop dd true)⟩
  case noSource =>
    exact ⟨next_pin hexec (pullRun_unbound hsrc dd false), next_pin hexec (pullRun_unbound hsrc dd true)⟩
  case push =>
    exact ⟨fun ha => next_pin hexec (pushRun_done hsnk hfree rfl ha),
      fun ha => next_pin hexec (pushRun_disabled hsnk hfree rfl ha),
      fun ha => next_pin hexec (pushRun_refused hsnk hfree rfl ha)⟩
  case send =>
    have hrun := shtxRun_on hlo hhi hon dd
    exact ⟨fun hroom => next_pin hexec ((hrun.trans (if_neg hroom.not_ge)).trans (chNext_setChan hcont rfl)),
      fun hfull => next_pin hexec (hrun.trans (if_pos hfull))⟩
  case receive =>
    have hrun := shrxRun_on hlo hhi hon dd
    exact ⟨fun hheld => next_pin hexec ((hrun.trans (if_neg hheld.not_gt)).trans (pinSet_setBitUnit hcont _ dd _)),
      fun hfew => next_pin hexec (hrun.trans (if_pos hfew))⟩
  case sendOff => exact next_pin hexec (shtxRun_off hlo hhi hoff dd)
  case receiveOff => exact next_pin hexec (shrxRun_off hlo hhi hoff dd)
  case bset => exact next_pin hexec (chNext_setChan hcont rfl)
  case hsync => exact next_pin hexec (chNext_setChan hcont rfl)
  case ben => exact next_pin hexec rfl
  case bstat => exact next_pin hexec (pinSet_setBitUnit hcont _ dd _)

end Sys2Proof.Machine

/-!
PROOFS. Control of the pin engines: channel slot tables, channel commands, program words and port fences.
-/

namespace Sys2Proof.Machine

section
variable {s : State} {w : Writer} {e : EngineId} {ch : Chan}

/-! ## Channel slot tables and program words (R240, R274) -/

theorem wrCst_of_over (ho : overEngine w e = true) (hw : w ≠ .boot) {v : Word} (hv : peSlotsOk v = true) (wi : Nat) :
    s.wrCst w e wi v = ((s.setReg .peCst v e.toNat wi).setEngine e { s.engine e with wrote := true }).setFld
      F.peEctl_DIRTY 1 e.toNat := by
  simp only [State.wrCst, ho, hv, Bool.not_true, Bool.false_eq_true, if_false, engine_setReg]

theorem wrEctl_commit (ho : overEngine w e = true) (hnone : (s.engine e).commitAt = none) :
    s.wrEctl w e 1 = (s.setEngine e { s.engine e with commitAt := some s.cycle }).setFld F.peEctl_PEND 1 e.toNat := by
  have hcommit : ¬ (decide (F.peEctl_COMMIT.get 1 = 0) || (s.engine e).commitAt.isSome) = true := by
    rw [hnone]
    decide
  simp only [State.wrEctl, ho, Bool.not_true, Bool.false_eq_true, if_false, if_neg hcommit]

theorem snapSlots_of_due {g : Nat} (hg : (s.engine e).commitAt = some g) (hdue : boundaryAfter g 16 ≤ s.cycle) :
    s.snapSlots e = s.setEngine e { commitAt := none, snap := some (s.pendingSlots e), wrote := false } := by
  simp only [State.snapSlots, hg, if_neg hdue.not_gt]

theorem copySlots_of_snap {ws : List Word} (h : (s.engine e).snap = some ws) :
    s.copySlots e = ((([0, 1, 2, 3].foldl (fun u i => u.setReg .peCsa (ws.getD i 0) e.toNat i) s).setEngine e
      { s.engine e with snap := none }).setFld F.peEctl_PEND (s.engine e).commitAt.isSome.toNat e.toNat).setFld
      F.peEctl_DIRTY (s.engine e).wrote.toNat e.toNat := by
  simp only [State.copySlots, h]

theorem wrPmdata_of_over (ho : overEngine w e = true) (v : Word) :
    s.wrPmdata w e v = ({ s with pmem := smSet 0 s.pmem (1024 * e.toNat + s.fld F.pePmaddr_ADDR e.toNat) v }).setFld
      F.pePmaddr_ADDR ((s.fld F.pePmaddr_ADDR e.toNat + 1) % 1024) e.toNat := by
  simp only [State.wrPmdata, ho, Bool.not_true, Bool.false_eq_true, if_false]

/-! ## Channel commands (R244) -/

/-- A controller's write of PE.CCTL is its command; UNLATCH is the block supervisor's alone. -/
theorem wrCctl_of_controls (hc : s.controls w ch = true) :
    s.wrCctl w ch 1 = s.chStart ch ∧ s.wrCctl w ch 2 = s.chStop ch ∧ s.wrCctl w ch 4 = s.chSafe ch ∧
      (isBlock w = true → s.wrCctl w ch 8 = s.chUnlatch ch) := by
  have hcommand (v : Word) : s.wrCctl w ch v = match bitsOf v 0 4 with
      | 1 => s.chStart ch
      | 2 => s.chStop ch
      | 4 => s.chSafe ch
      | 8 => if isBlock w then s.chUnlatch ch else s.authorityFault w
      | _ => s := by
    rw [State.wrCctl, hc]
    rfl
  exact ⟨hcommand 1, hcommand 2, hcommand 4, fun hb => (hcommand 8).trans (if_pos hb)⟩

theorem active_iff {x : ChState} : x.active = true ↔ x ∈ [.run, .wait, .stallPull, .stallPush] := by
  cases x <;> decide

theorem chStart_of_idle (hst : (s.chan ch).st ∈ [.off, .halted, .safe]) (hrun : s.runBarred = false) :
    s.chStart ch = (s.engineBack ch).setChan ch { s.chan ch with
      st := .run, d := [], z := false, c := false, qtag := 0, trig := false, prog := Prog.initial ch
      pc := BitVec.ofNat 10 (s.chFld F.peCcfg_ENTRY ch), bu := { (s.chan ch).bu with tx := [], rx := [] } } := by
  have hidle : ((s.chan ch).st == .off || (s.chan ch).st == .halted || (s.chan ch).st == .safe) = true := by
    generalize (s.chan ch).st = st at hst ⊢
    fin_cases hst <;> rfl
  rw [State.chStart, hidle, hrun]
  rfl

/-- STOP gives up the place of a stalled push, but not of one that the push holder keeps trying. -/
theorem chStop_of_active (hst : (s.chan ch).st ∈ [.run, .wait, .stallPull, .stallPush]) :
    let u := (s.setChan ch { s.chan ch with st := .off, bu := { (s.chan ch).bu with nextAt := none, hsArm := 0 } }).setChFld
      F.peBitcfg_EN 0 ch
    s.chStop ch = if (s.chan ch).pushHold = [] then u.dropWaiter (ownerChannel ch) else u := by
  intro u
  simp only [State.chStop, active_iff.mpr hst, if_true, List.isEmpty_iff]
  rfl

/-! ## Port fences (R271) -/

section
variable {p : Port}

/-- Who binds a port is told by its PE.PAD register alone. -/
theorem binder_congr {u : State} (h : u.reg .pePad p.toNat 0 = s.reg .pePad p.toNat 0) : u.binder p = s.binder p := by
  have hfld (f : Fld) (hk : f.kind = .pePad) : u.fld f p.toNat = s.fld f p.toNat := by
    simp only [State.fld, hk, h]
  unfold State.binder State.bit
  rw [hfld F.pePad_BV rfl, hfld F.pePad_BOUND rfl]

/-- Two registers of one port stand at two offsets. -/
theorem regOff_pePad_ne {k : RegKind} (hstride : k.desc.stride = RegKind.pePad.desc.stride)
    (hbase : k.desc.base ≠ RegKind.pePad.desc.base) (i : Nat) : regOff .pePad i 0 ≠ regOff k i 0 := by
  simp only [regOff, hstride, Nat.mul_zero]
  omega

theorem binder_setFld {f : Fld} (hstride : f.kind.desc.stride = RegKind.pePad.desc.stride)
    (hbase : f.kind.desc.base ≠ RegKind.pePad.desc.base) (v : Nat) : (s.setFld f v p.toNat).binder p = s.binder p :=
  binder_congr (reg_setReg_ne _ _ _ _ _ _ _ _ (regOff_pePad_ne hstride hbase p.toNat))

theorem binder_portWrite (rank : Nat) (out oe : Bool) (c : Nat) : (s.portWrite p rank out oe c).binder p = s.binder p := by
  refine binder_congr ?_
  simp only [State.reg, State.regAt, regs_portWrite]

/-- At a port that no channel binds the safe state is a plain write of rank 2: nobody is there to count what it displaces. -/
theorem safePort_unbound (h : s.binder p = none) (c : Nat) : ∃ out oe, s.safePort p c = s.portWrite p 2 out oe c := by
  have hdisplaced (v : Bool × Bool) : s.displaced p v = s := by
    simp only [State.displaced, h]
  simp only [State.safePort, hdisplaced, ite_self, h]
  exact ⟨_, _, rfl⟩

theorem fencePort_unbound (h : s.binder p = none) (cause : Nat) :
    let u := (s.setFld F.peFence_FENCED 1 p.toNat).setFld F.peFence_CAUSE cause p.toNat
    s.fencePort p cause = u.safePort p (u.cycle + 1) := by
  intro u
  have hbinder : u.binder p = none :=
    (binder_setFld rfl (by decide) cause).trans ((binder_setFld rfl (by decide) 1).trans h)
  obtain ⟨out, oe, hsafe⟩ := safePort_unbound hbinder (u.cycle + 1)
  have hnobody : (u.safePort p (u.cycle + 1)).binder p = none := by
    rw [hsafe, binder_portWrite, hbinder]
  show (match (u.safePort p (u.cycle + 1)).binder p with
    | some ch => _
    | none => u.safePort p (u.cycle + 1)) = _
  rw [hnobody]

/-- The two commands of PE.FENCE. -/
theorem wrFence_of_over (ho : overHearth w (groupOf p) = true) :
    s.wrFence w p 0x20000000 = s.fencePort p 2 ∧ s.wrFence w p 0x40000000 = s.setFld F.peFence_FENCED 0 p.toNat := by
  have hset : portRegOk .peFence 0x20000000 = true ∧ F.peFence_SET.get 0x20000000 = 1 := by decide
  have hclear : portRegOk .peFence 0x40000000 = true ∧ F.peFence_SET.get 0x40000000 ≠ 1 ∧
      F.peFence_CLEAR.get 0x40000000 = 1 := by decide
  obtain ⟨hsetOk, hsetBit⟩ := hset
  obtain ⟨hclearOk, hnotSet, hclearBit⟩ := hclear
  constructor
  · rw [State.wrFence, ho, hsetOk, hsetBit]
    rfl
  · rw [State.wrFence, ho, hclearOk, if_neg hnotSet, hclearBit]
    rfl

end
end

/-- Settles O29: every command is the write of its register by a writer that may make it (`next_access`). -/
theorem channelControl : Obligations.ChannelControl := by
  unfold Obligations.ChannelControl
  intro s w e ch v n x
  refine ⟨fun ho hw => ⟨fun wi hv => ?slot, fun hnone => ?commit, ?program⟩, fun g hg hdue => snapSlots_of_due hg hdue,
    fun ws hws => congrArg _ (copySlots_of_snap hws), fun hc => ?commands, fun p ho => ⟨fun hnone => ?fence, ?clear⟩,
    fun horphan hpolicy hdry hst => ?dry⟩
  case slot => exact next_access w (wrCst_of_over ho hw hv wi.toNat)
  case commit => exact next_access w (wrEctl_commit ho hnone)
  case program => exact next_access w (wrPmdata_of_over ho v)
  case commands =>
    obtain ⟨hstart, hstop, hsafe, hunlatch⟩ := wrCctl_of_controls hc
    refine ⟨fun hst hrun => ?_, fun hst hhold => ?_, fun hst hhold => ?_, fun hst => ?_, fun hb hst => ?_⟩
    · exact next_access w (hstart.trans (chStart_of_idle hst hrun))
    · exact next_access w (hstop.trans ((chStop_of_active hst).trans (if_neg hhold)))
    · exact next_access w (hstop.trans ((chStop_of_active hst).trans (if_pos hhold)))
    · exact next_access w (hsafe.trans (if_neg hst))
    · exact next_access w ((hunlatch hb).trans (if_pos hst))
  case fence =>
    obtain ⟨hset, -⟩ := wrFence_of_over (s := s) ho
    exact next_access w (hset.trans (fencePort_unbound hnone 2))
  case clear =>
    obtain ⟨-, hclear⟩ := wrFence_of_over (s := s) ho
    exact next_access w hclear
  case dry =>
    refine congrArg _ (if_pos ?_)
    rw [horphan, chBit_of_zero hpolicy, isSafe_eq_false_iff.mpr hst, show (s.chan ch).staged = [] from hdry]
    rfl

end Sys2Proof.Machine

/-!
PROOFS. What happens at the pins: edges, readback mismatches, staged actions, vote windows and the bit unit.
-/

namespace Sys2Proof.Machine

section
variable {s : State} {ch : Chan} {p : Port}

/-! ## Edges (R258, R401) -/

/-- PE.TSCFG.EDGES of a port selects an edge (R258). -/
def State.stamps (s : State) (p : Port) (level : Bool) : Prop :=
  let e := s.fld F.peTscfg_EDGES p.toNat
  e = 3 ∨ (e = 1 ∧ level = false) ∨ (e = 2 ∧ level = true)

/-- A synchronised level that differs from the port's, as the port and its history show it. -/
def State.showLevel (s : State) (p : Port) (level : Bool) : State :=
  s.setPort p { s.port p with
    inp := level
    hist := recordPin (s.port p).hist ⟨s.cycle, (s.resolved p).1, (s.resolved p).2, level⟩ }

theorem ts_showLevel (level : Bool) : ((s.showLevel p level).port p).ts = (s.port p).ts := by
  rw [State.showLevel, port_setPort_same]

theorem stamps_iff {level : Bool} : (s.fld F.peTscfg_EDGES p.toNat = 3 || (s.fld F.peTscfg_EDGES p.toNat = 1 && !level) ||
    (s.fld F.peTscfg_EDGES p.toNat = 2 && level)) = true ↔ s.stamps p level := by
  simp [State.stamps, or_assoc]

theorem stampEdge_skipped {level : Bool} (h : ¬ s.stamps p level) : s.stampEdge p level = s := if_neg (mt stamps_iff.mp h)

/-- A selected edge is stamped with TB0 less two increments (log entry 36), or lost when four entries are held. -/
theorem stampEdge_selected {level : Bool} (h : s.stamps p level) :
    s.stampEdge p level = if 4 ≤ (s.port p).ts.length then s.raise F.peTscfg_OVF p.toNat
      else s.setPort p { s.port p with ts := (s.port p).ts ++ [⟨level,
        (s.tbSum - (s.reg .tbT0inc).setWidth 80 - (s.reg .tbT0inc).setWidth 80).extractLsb' 16 48⟩] } :=
  if_pos (stamps_iff.mpr h)

theorem binder_raise {f : Fld} (hstride : f.kind.desc.stride = RegKind.pePad.desc.stride)
    (hbase : f.kind.desc.base ≠ RegKind.pePad.desc.base) : (s.raise f p.toNat).binder p = s.binder p :=
  binder_setFld hstride hbase 1

/-- Stamping an edge binds no port. -/
theorem binder_stampEdge (level : Bool) : (s.stampEdge p level).binder p = s.binder p := by
  by_cases h : s.stamps p level
  · rw [stampEdge_selected h]
    split_ifs
    · exact binder_raise rfl (by decide)
    · rfl
  · rw [stampEdge_skipped h]

theorem edge_same {level : Bool} (h : (s.port p).inp = level) : s.edge p level = s := if_pos h

/-- In a group whose domain is not up an edge changes the pin alone. -/
theorem edge_down {level : Bool} (h : (s.port p).inp ≠ level) (hdown : s.groupUp p = false) :
    s.edge p level = s.showLevel p level := by
  have hretained : (!s.groupUp p) = true := by rw [hdown]; rfl
  exact (if_neg h).trans (if_pos hretained)

/-- At a port that no channel binds an edge is stamped and pulses its event source. -/
theorem edge_unbound {level : Bool} (h : (s.port p).inp ≠ level) (hup : s.groupUp p = true) (hnone : s.binder p = none) :
    s.edge p level =
      ((s.showLevel p level).stampEdge p level).pulse (if level then p.toNat else 0x200 + p.toNat) := by
  have hpowered : ¬ (!s.groupUp p) = true := by rw [hup]; exact Bool.false_ne_true
  have hnobody : ((s.showLevel p level).stampEdge p level).binder p = none := (binder_stampEdge level).trans hnone
  refine (if_neg h).trans ((if_neg hpowered).trans ?_)
  dsimp only
  split
  · rfl
  next hbound => exact absurd (hnobody.symm.trans hbound) (Option.some_ne_none _).symm

/-! ## Readback and votes (R261, R269) -/

theorem exec_readbackMismatch (hup : s.groupUp p = true) (hmode : s.fld F.peRbk_MODE p.toNat ≠ 0)
    (hfilt : 0 < s.fld F.peRbk_FILT p.toNat) (hrun : s.fld F.peRbk_FILT p.toNat ≤ (s.port p).rbRun)
    (hfired : (s.port p).rbFired = false) :
    exec (.readbackMismatch p) s = .next ((s.setPort p { s.port p with rbFired := true }).detect 3 p.toNat) := by
  refine congrArg _ (if_pos ?_)
  simp [hup, hmode, hfilt, hrun, hfired]

/-- A staged DRIVE or PULSE that no partner has joined is withdrawn when its window has passed. -/
theorem expireVotes_single {a : Staged} (hvote : s.chFld F.peCcfg_VOTE ch = 1) (hstaged : (s.chan ch).staged = [a])
    (hpair : a.pair = 0) (hending : a.ending = false) (hkind : a.act.kind = 0 ∨ a.act.kind = 1)
    (hold : a.deadline + s.chFld F.peVote_WINDOW ch < s.cycle) :
    s.expireVotes ch = (s.setChan ch { s.chan ch with staged := [] }).detect 4 ch.toNat := by
  have hdrives : a.act.drives = true := by
    obtain hk | hk := hkind <;> simp [Action.drives, hk, kDrive, kPulse]
  simp [State.expireVotes, chBit_of_one hvote, hstaged, Staged.votes, hdrives, hending, hpair, hold]

/-! ## Staged actions (R265) -/

theorem exec_stagedActionDue (hup : s.groupUp ch = true) : exec (.stagedActionDue ch) s = .next (s.runDue ch) := by
  change execStagedActionDue ch s = _
  rw [execStagedActionDue, if_pos hup]

/-- A lone DRIVE, neither voted nor armed, that is due. -/
def State.dueDrive (s : State) (ch : Chan) (a : Staged) : Prop :=
  a.act.ch = ch ∧ a.act.kind = kDrive ∧ a.act.trig = false ∧ a.ending = false ∧ a.pair = 0 ∧
    s.chFld F.peCcfg_VOTE ch = 0 ∧ a.deadline ≤ s.cycle

theorem isDue_of_dueDrive {a : Staged} (h : s.dueDrive ch a) : s.isDue a = true := by
  obtain ⟨rfl, -, htrig, -, -, hvote, hdue⟩ := h
  simp [State.isDue, htrig, chBit_of_zero hvote, hdue]

theorem drives_of_dueDrive {a : Staged} (h : s.dueDrive ch a) : a.act.drives = true ∧ a.act.emits = false := by
  obtain ⟨-, hkind, -⟩ := h
  rw [Action.drives, Action.emits, hkind]
  decide

/-- A DRIVE that executes leaves its queue and gives its lane a level with rank 3. -/
theorem runPins_dueDrive {a : Staged} (h : s.dueDrive ch a) (hstaged : (s.chan ch).staged = [a]) :
    s.runPins ch [a] = (s.setChan ch { s.chan ch with staged := [] }).writeLane ch a.act.lane.toNat 3 a.act.out a.act.oe
      s.cycle := by
  obtain ⟨-, hemits⟩ := drives_of_dueDrive h
  obtain ⟨rfl, hkind, -, hending, hpair, -, -⟩ := h
  have hempty : s.unstagePair a = s.setChan a.act.ch { s.chan a.act.ch with staged := [] } := by
    simp [State.unstagePair, State.unstage, hpair, hstaged]
  simp [State.runPins, hpair, hempty, State.perform, State.markEmit, State.muted, hemits, hending, hkind]

@[simp] theorem chan_chSatAdd (f : Fld) (n : Nat) (c u : Chan) : (s.chSatAdd f n c).chan u = s.chan u := rfl

theorem chan_portWrite (rank : Nat) (out oe : Bool) (c : Nat) (u : Chan) : (s.portWrite p rank out oe c).chan u = s.chan u := by
  simp only [State.portWrite, State.drivePort, chan_setPort]

/-- A writer of a lane changes no channel. -/
theorem chan_writeLane (lane rank : Nat) (out oe : Bool) (c : Nat) (u : Chan) :
    (s.writeLane ch lane rank out oe c).chan u = s.chan u := by
  unfold State.writeLane
  dsimp only
  split
  · rfl
  · simp only [apply_ite (fun v => State.chan v u), chan_chSatAdd, chan_portWrite, ite_self]

/-- The executor does what is due at the pins, and with nothing left in the queue no more. -/
theorem runDue_dueDrive {a : Staged} (h : s.dueDrive ch a) (hstaged : (s.chan ch).staged = [a])
    (hhold : (s.chan ch).pushHold = []) :
    let v := (s.setChan ch { s.chan ch with staged := [] }).writeLane ch a.act.lane.toNat 3 a.act.out a.act.oe s.cycle
    s.runDue ch = v.setChan ch (v.chan ch) := by
  intro v
  have hretry : s.retryHolder ch = s := by
    rw [State.retryHolder, hhold]
    rfl
  obtain ⟨hdrives, -⟩ := drives_of_dueDrive h
  have hpins : s.runPins ch ((s.chan ch).staged.filter fun x => (x.act.drives || x.ending) && s.isDue x) = v := by
    rw [hstaged, List.filter_cons_of_pos (by rw [hdrives, isDue_of_dueDrive h]; rfl)]
    exact runPins_dueDrive h hstaged
  have hleft : (v.chan ch).staged = [] := by
    rw [chan_writeLane, chan_setChan_same]
  have hsame : { v.chan ch with staged := [] } = v.chan ch := by rw [← hleft]
  simp only [State.runDue, hretry, hpins, hleft, List.map_nil, chan_setChan_same, List.find?_nil, hsame, ite_self]

/-! ## The bit unit (R260, R262, R264) -/

theorem stuffDue_off (n run : Nat) : stuffDue 0 n run = false := rfl

/-- The bit that begins at a boundary in cycle m, with PERIOD in 1/256 cycles: n bits last floor(n × PERIOD). -/
def BitUnit.nextBit (b : BitUnit) (m per : Nat) : BitUnit :=
  { b with bitStart := m, bits := b.bits + 1
           nextAt := some (m + ((b.bits + 1) * per / 256 - (b.bits + 1 - 1) * per / 256))
           sampled := false, hadSync := b.syncNow, syncNow := false }

/-- A boundary for which no change of mode or timing waits. -/
theorem boundary_of_due {m : Nat} (hnext : (s.chan ch).bu.nextAt = some m) (hdue : m ≤ s.cycle)
    (hmodes : (s.chan ch).bu.stNext = []) (hset : (s.chan ch).bu.setNext = none) :
    s.boundary ch = (s.setChan ch { s.chan ch with
      bu := (s.chan ch).bu.nextBit m (s.bitTiming ch).1 }).sendBoundary ch := by
  have hkept : { (s.chan ch).bu with stNext := [] } = (s.chan ch).bu := by rw [← hmodes]
  have hchanges : s.boundaryChanges ch = s.setChan ch (s.chan ch) := by
    simp only [State.boundaryChanges, hset, hmodes, List.foldl_nil, List.any_nil, Bool.false_eq_true, if_false]
    rw [← hset, hkept]
  have htiming : (s.setChan ch (s.chan ch)).bitTiming ch = s.bitTiming ch := by
    rw [State.bitTiming, chan_setChan_same]
    rfl
  simp only [State.boundary, hnext, if_neg hdue.not_gt, hchanges, htiming, chan_setChan_same, setChan_setChan]
  rfl

theorem sendBoundary_off (h : s.chFld F.peBitcfg_TXEN ch = 0) : s.sendBoundary ch = s := by
  rw [State.sendBoundary, chBit_of_zero h]
  rfl

section
variable (hon : s.chFld F.peBitcfg_TXEN ch = 1) (hl : s.laneOf ch (s.chFld F.peBitcfg_TXL ch) = some p)
  (hmode : s.fld F.peStuff_MODE p.toNat = 0)
include hon hl hmode

theorem sendBoundary_empty (htx : (s.chan ch).bu.tx = []) :
    s.sendBoundary ch = s.setChan ch { s.chan ch with bu := { (s.chan ch).bu with underrun := true } } := by
  simp only [State.sendBoundary, chBit_of_one hon, hl, State.stuffOf, hmode, stuffDue_off, htx, nextTxBit, Bool.not_true,
    Bool.false_eq_true, if_false]

theorem sendBoundary_bit {bit : Bool} {w : List Bool} {r : List (List Bool)} (htx : (s.chan ch).bu.tx = (bit :: w) :: r) :
    s.sendBoundary ch = (s.setChan ch { s.chan ch with
      bu := { (s.chan ch).bu with tx := if w.isEmpty then r else w :: r } }).sendLine ch p bit false := by
  simp only [State.sendBoundary, chBit_of_one hon, hl, State.stuffOf, hmode, stuffDue_off, htx, nextTxBit, Bool.not_true,
    Bool.false_eq_true, if_false]

end

/-- Without stuffing every level of the receive lane is a data bit, fed to the port's CRC. -/
theorem receiveLevel_unstuffed (hmode : s.fld F.peStuff_MODE p.toNat = 0) (bit : Bool) :
    let b := (s.chan ch).bu
    s.receiveLevel ch p bit = (s.setChan ch { s.chan ch with bu := receiveBit { b with
      sampled := true, rxRun := runAfter 0 b.rxRun b.rxLast bit false, rxLast := bit } bit }).crcFeed p bit := by
  simp only [State.receiveLevel, State.stuffOf, hmode, stuffDue_off, Bool.false_and, Bool.or_false, Bool.false_eq_true, if_false]

/-- The running bit of channel ch has come to its sample point. -/
def State.sampleDue (s : State) (ch : Chan) : Prop :=
  s.groupUp ch = true ∧ s.chFld F.peBitcfg_EN ch = 1 ∧ (s.chan ch).bu.nextAt.isSome = true ∧
    (s.chan ch).bu.sampled = false ∧ (s.chan ch).bu.bitStart + (s.bitTiming ch).2 ≤ s.cycle

theorem exec_bitSamplePoint_off (h : s.sampleDue ch) (hoff : s.chFld F.peBitcfg_RXEN ch = 0) :
    exec (.bitSamplePoint ch) s =
      .next (s.setChan ch { s.chan ch with bu := { (s.chan ch).bu with sampled := true } }) := by
  obtain ⟨hup, hen, hnext, hsampled, hdue⟩ := h
  change execBitSamplePoint ch s = _
  simp only [execBitSamplePoint, hup, chBit_of_one hen, hnext, hsampled, hdue, chBit_of_zero hoff, Bool.not_false,
    Bool.and_true, decide_true, if_true]

theorem exec_bitSamplePoint_on (h : s.sampleDue ch) (hon : s.chFld F.peBitcfg_RXEN ch = 1)
    (hl : s.laneOf ch (s.chFld F.peBitcfg_RXL ch) = some p) :
    exec (.bitSamplePoint ch) s = .next (s.receiveLevel ch p (s.delivered p)) := by
  obtain ⟨hup, hen, hnext, hsampled, hdue⟩ := h
  change execBitSamplePoint ch s = _
  simp only [execBitSamplePoint, hup, chBit_of_one hen, hnext, hsampled, hdue, chBit_of_one hon, hl, Bool.not_false,
    Bool.and_true, decide_true, if_true]
  rfl

end

/-- Settles O34: each event by the equation of its operation. -/
theorem pinEvents : Obligations.PinEvents := by
  unfold Obligations.PinEvents
  intro s ch p x y n b
  refine ⟨fun level h => congrArg _ (edge_same h), fun level h hnone => ?edge,
    fun hup hmode hfilt hrun hfired => exec_readbackMismatch hup hmode hfilt hrun hfired,
    fun hup hvote a hstaged hpair hending hkind hold => ?vote,
    fun a hup hstaged hhold hch hkind htrig hending hpair hvote hdue => ?staged,
    fun hup hen => ⟨fun m hnext hdue hmodes hset => ?boundary, fun hnext hsampled hdue => ?sample⟩⟩
  case edge =>
    intro e u ended inc wanted
    have hheld : (u.port p).ts = y.ts := ts_showLevel level
    have hedge (hup : s.groupUp p = true) {v : State} (hv : u.stampEdge p level = v) :
        exec (.portEdge p level) s = .next (ended v) := congrArg _ ((edge_unbound h hup hnone).trans (congrArg ended hv))
    refine ⟨fun hdown => congrArg _ (edge_down h hdown), fun hup hnot => ?_, fun hup hwant hroom => ?_,
      fun hup hwant hfull => ?_⟩
    · exact hedge hup (stampEdge_skipped (s := u) hnot)
    · rw [← hheld] at hroom ⊢
      exact hedge hup ((stampEdge_selected (s := u) hwant).trans (if_neg hroom.not_ge))
    · rw [← hheld] at hfull
      exact hedge hup ((stampEdge_selected (s := u) hwant).trans (if_pos hfull))
  case vote =>
    exact congrArg _ ((if_pos hup).trans (expireVotes_single hvote hstaged hpair hending hkind hold))
  case staged =>
    intro v
    have hrun := runDue_dueDrive ⟨hch, hkind, htrig, hending, hpair, hvote, hdue⟩ hstaged hhold
    refine ⟨_, (exec_stagedActionDue hup).trans (congrArg _ hrun), ?_, ports_setChan .., regs_setChan ..⟩
    rw [chan_setChan_same, chan_writeLane, chan_setChan_same]
  case boundary =>
    intro per k b1 u
    have hexec : exec (.bitBoundary ch) s = .next (u.sendBoundary ch) := by
      refine congrArg _ ((if_pos ?_).trans (boundary_of_due hnext hdue hmodes hset))
      rw [hup, chBit_of_one hen]
      rfl
    have hchan : u.chan ch = { x with bu := b1 } := chan_setChan_same s ch _
    have hset (c : Channel) : u.setChan ch c = s.setChan ch c := setChan_setChan s ch _ c
    refine ⟨fun hoff => hexec.trans (congrArg _ (sendBoundary_off hoff)), fun hon hl hmode => ⟨fun htx => ?_,
      fun bit w r htx => ?_⟩⟩
    · have hempty : (u.chan ch).bu.tx = [] := by rw [hchan]; exact htx
      have hsend := sendBoundary_empty (s := u) hon hl hmode hempty
      rw [hchan, hset] at hsend
      exact hexec.trans (congrArg _ hsend)
    · have hword : (u.chan ch).bu.tx = (bit :: w) :: r := by rw [hchan]; exact htx
      have hsend := sendBoundary_bit (s := u) hon hl hmode hword
      rw [hchan, hset] at hsend
      exact hexec.trans (congrArg _ hsend)
  case sample =>
    have hpoint : s.sampleDue ch := ⟨hup, hen, hnext, hsampled, hdue⟩
    exact ⟨fun hoff => exec_bitSamplePoint_off hpoint hoff, fun hon hl hmode =>
      (exec_bitSamplePoint_on hpoint hon hl).trans (congrArg _ (receiveLevel_unstuffed hmode _))⟩

end Sys2Proof.Machine

/-!
PROOFS. What the bus programs share: taking part in the bus, status items, and control items.
-/

namespace Sys2Proof.Machine

section
variable {s u : State} {ch : Chan}

/-! ## Taking part in the bus (R284) -/

theorem isCan_iff {g : Config.BusProgram} : isCan g = true ↔ g = .canfd ∨ g = .canxl := by
  rw [isCan, Bool.or_eq_true, beq_iff_eq, beq_iff_eq]

theorem sends_iff {p : Prog} : p.sends = true ↔ p.state ∈ [1, 2] := by
  simp [Prog.sends]

theorem receives_of_state {p : Prog} (h : p.state ∈ [1, 2, 4]) (hidle : p.waitIdle = false) : p.receives = true := by
  simpa [Prog.receives, Prog.sends, hidle, or_assoc] using h

/-- What a receiving program's command does. -/
theorem received_of_receives (hrun : s.chExecutes ch = true) (h : (s.prog ch).receives = true) (f : State → State) :
    s.received ch f = .next (f s) := by
  rw [State.received, State.programRuns, hrun, h]
  rfl

/-! ## Status items (R281, R283) -/

theorem status_of_sink {q : Qid} (h : s.sinkOf ch true = some q) (kind : BitVec 4) (w : Word) :
    s.status ch kind w = s.holderPush ch q (mkItem true (optStatusPrio ch) kind (senderChannel ch) w) := by
  rw [State.status, State.sinkPush, h]

theorem status_unbound (h : s.sinkOf ch true = none) (kind : BitVec 4) (w : Word) :
    s.status ch kind w = s.chFault ch 0x22 := by
  rw [State.status, State.sinkPush, h]
  rfl

theorem rxError_eq {code : Nat} (h : code < 256) (lane : Nat) :
    s.rxError ch lane code = s.status ch 3 (BitVec.ofNat 32 (256 * lane + code)) := by
  rw [State.rxError, Nat.mod_eq_of_lt h]

theorem rxError_byte (lane : Nat) (err : Byte) :
    s.rxError ch lane err.toNat = s.status ch 3 (BitVec.ofNat 32 (256 * lane + err.toNat)) := rxError_eq err.isLt lane

theorem txFail_byte (tries : Nat) (err : Byte) :
    s.txFail ch tries err.toNat = (s.setProg ch { s.prog ch with frame := [], tries := 0, lastErr := 0 }).status ch 2
      (BitVec.ofNat 32 (256 * (tries % 256) + err.toNat)) := by
  rw [State.txFail, Nat.mod_eq_of_lt err.isLt]

/-- The word of a STATE item has no error count. -/
theorem stateWord_zero (p : Prog) :
    p.stateWord 0 = BitVec.ofNat 32 (2 ^ 13 * p.rec_.toNat + p.tec.toNat * 2 ^ 4 + p.state.toNat) := by
  rw [Prog.stateWord, Nat.mul_zero, Nat.zero_add]

/-- A change of state is reported once, and begins the wait for an idle bus anew. -/
theorem enterState_eq (n : BitVec 4) :
    let r := s.prog ch
    s.enterState ch n = if r.state = n then s
      else (s.setProg ch { r with state := n, idleFor := 0, busFree := 0 }).status ch 4
        (BitVec.ofNat 32 (2 ^ 13 * r.rec_.toNat + r.tec.toNat * 2 ^ 4 + n.toNat)) := by
  simp only [State.enterState, stateWord_zero]

/-! ## Control items (R284) -/

theorem nextControl_of_pop {q : Qid} {i : BitVec 64 × QWord} (hsrc : s.sourceOf ch true = some q)
    (hpop : s.popItem q (.channel ch) = (some i, u)) : s.nextControl ch = some (itemKind i.1, u) := by
  simp only [State.nextControl, hsrc, hpop]

theorem atBoundary_iff {g : Config.BusProgram} {p : Prog} {k : Nat} :
    p.atBoundary g k = true ↔ p.frame = [] ∨ k = 7 ∨ ((g = .canfd ∨ g = .canxl) ∨ g = .t1s) ∧ k ≠ 2 := by
  simp [Prog.atBoundary, isCan_iff, or_assoc]

section
variable {kind : BitVec 4} (hrun : s.chExecutes ch = true) (hnext : s.nextControl ch = some (kind, u))
include hrun hnext

/-- Within a frame a control item waits. -/
theorem control_waits (h : ¬ (s.prog ch).atBoundary (programOf ch) kind.toNat = true) (k : Nat) (f : State → State) :
    s.control ch k f = s := by
  simp only [State.control, State.programRuns, hrun, hnext, Bool.eq_false_of_not_eq_true h, Bool.not_true, Bool.not_false,
    Bool.false_eq_true, if_false, if_true]

section
variable (hbound : (s.prog ch).atBoundary (programOf ch) kind.toNat = true)
include hbound

/-- A control item that names no command the program accepts is discarded and reported. -/
theorem control_refused (h : accepts (programOf ch) kind.toNat = false) (k : Nat) (f : State → State) :
    s.control ch k f = u.status ch 3 0x11 := by
  simp only [State.control, State.programRuns, hrun, hnext, hbound, h, Bool.not_true, Bool.not_false, Bool.false_eq_true,
    if_false, if_true]
  rfl

theorem control_accepted {k : Nat} (hk : kind.toNat = k) (h : accepts (programOf ch) k = true) (f : State → State) :
    s.control ch k f = f u := by
  subst hk
  simp only [State.control, State.programRuns, hrun, hnext, hbound, h, Bool.not_true, Bool.false_eq_true, if_false, if_true]

/-- A command that only some programs accept. -/
theorem control_of_kind {k : Nat} (hk : kind.toNat = k) (f : State → State) :
    s.control ch k f = if accepts (programOf ch) k = true then f u else u.status ch 3 0x11 := by
  split_ifs with h
  · exact control_accepted hrun hnext hbound hk h f
  · exact control_refused hrun hnext hbound (hk ▸ Bool.eq_false_of_not_eq_true h) k f

end
end

/-! ## What the commands do (R284, R289, R290) -/

/-- WAKE is a command of CAN and LIN. -/
theorem accepts_wake {g : Config.BusProgram} : accepts g 5 = true ↔ (g = .canfd ∨ g = .canxl) ∨ g = .lin := by
  rw [accepts, Bool.or_eq_true, isCan_iff, beq_iff_eq]

/-- ABORT_TX is a command of the programs that send frames. -/
theorem accepts_abort {g : Config.BusProgram} : accepts g 7 = true ↔
    (g = .canfd ∨ g = .canxl) ∨ g = .lin ∨ g = .t1s ∨ g = .mdio ∨ g = .spi ∨ g = .tws ∨ g = .uart := by
  simp only [accepts, Bool.or_eq_true, isCan_iff, beq_iff_eq, or_assoc]

/-- RECOVER is a command of CAN. -/
theorem accepts_recover {g : Config.BusProgram} : accepts g 8 = true ↔ g = .canfd ∨ g = .canxl := isCan_iff

theorem accepts_unknown {g : Config.BusProgram} {k : Nat} (h : k = 0 ∨ 8 < k) : accepts g k = false := by
  obtain rfl | h := h
  · rfl
  · obtain ⟨n, rfl⟩ := Nat.exists_eq_add_of_lt h
    rw [show 8 + n + 1 = n + 9 by omega]
    rfl

/-- Where ONLINE leads. -/
theorem onlineState_eq (g : Config.BusProgram) (p : Prog) :
    onlineState g p = if ¬ (g = .canfd ∨ g = .canxl) then 1 else if p.state ∈ [1, 2, 3, 6] then p.state
      else if 255 < p.tec.toNat then 3 else if p.state = 4 then p.errState else 6 := by
  have hstays : (p.sends || p.state == 3 || p.state == 6) = true ↔ p.state ∈ [1, 2, 3, 6] := by
    simp [Prog.sends, or_assoc]
  have hother : (!isCan g) = true ↔ ¬ (g = .canfd ∨ g = .canxl) := by
    rw [← isCan_iff, Bool.not_eq_true', Bool.not_eq_true]
  simp only [onlineState, hstays, hother]

theorem driveStandby_eq (normal : Bool) :
    let w := s.setProg ch { s.prog ch with stb := normal }
    s.driveStandby ch normal = if (programOf ch = .canfd ∨ programOf ch = .canxl) ∨ programOf ch = .lin
      then w.writeLane ch 2 6 (optFlag ch 0 != normal) true (w.cycle + 1) else w := by
  simp only [State.driveStandby, Bool.or_eq_true, isCan_iff, beq_iff_eq]
  rfl

/-- The go-to-sleep frame's data add up, with their carries, to a checksum of 0. -/
theorem linSleepFrame_eq : s.linSleepFrame ch =
    let bits := linHeaderBits ch 0x3C ++
      ([0x00, 0xFF, 0xFF, 0xFF, 0xFF, 0xFF, 0xFF, 0xFF, 0x00] : List Byte).flatMap linByte
    let v := s.sendBits ch 0 bits (optBit ch)
    (v.setProg ch { v.prog ch with frame := [] }).status ch 1 (s.tbAgo (bits.length * optBit ch / 256)) := by
  have hdata : (0 :: List.replicate 7 0xFF : List Byte) ++ [linChecksum 0 (0 :: List.replicate 7 0xFF)] =
      [0x00, 0xFF, 0xFF, 0xFF, 0xFF, 0xFF, 0xFF, 0xFF, 0x00] := by decide
  rw [State.linSleepFrame, hdata, State.linSend, if_pos rfl]

theorem exec_busOffRecovery (hrun : s.chExecutes ch = true) (hst : (s.prog ch).state = 3)
    (hrec : (s.prog ch).recovering = true ∨ optAutoRecovery ch = true) (hfree : 128 ≤ (s.prog ch).busFree) :
    exec (.busOffRecovery ch) s =
      .next ((s.setProg ch { s.prog ch with tec := 0, rec_ := 0, recovering := false }).enterState ch 1) := by
  refine congrArg _ (if_pos ?_)
  simp [State.programRuns, hrun, Prog.recovers, hst, hrec, hfree]

end
end Sys2Proof.Machine

/-!
PROOFS. Partner sessions (R298 to R300): the bank of the table answers, and the table holds the session or takes it in.
-/

namespace Sys2Proof.Machine

section
variable {s : State} {t : Tid} {key addr reply dest deadline : Word} {b : BankId}

theorem openSession_badPage (hst : (s.thr t).st = .running) (hbad : s.badWord (s.partnerPage t) = true) :
    s.openSession t key addr reply dest deadline = (s.wordMet (s.partnerPage t)).threadFault t 0x08 := by
  simp only [State.openSession, hst, hbad, bne_self_eq_false, Bool.false_eq_true, if_false, if_true]

/-- What a session at a table comes to with the answer of the table's bank (R166, R173 to R177). -/
def State.sessionAnswered (s : State) (t : Tid) (b : BankId) (base key addr reply dest deadline : Word) : BankAns → State
  | .ok => s.tableSession t b base key addr reply dest deadline
  | .zero => s.bankGrant b (masterCore (coreOf t)) (.table t)
  | .refuse => (s.bankRefuses b (masterCore (coreOf t)) (.table t)).threadFault t 0x07
  | .wait => s.touchBank b

/-- A running thread asks the bank of a table that lies within one. -/
theorem openSession_asks {ans : BankAns} (hst : (s.thr t).st = .running) (hgood : s.badWord (s.partnerPage t) = false)
    (hlies : (s.partnerBase t).toNat % 0x20000 = 0) (hbank : bankOf? (s.partnerBase t).toNat = some b)
    (hans : s.bankAsk b (masterCore (coreOf t)) (.table t) false = ans) :
    s.openSession t key addr reply dest deadline =
      s.sessionAnswered t b (s.partnerBase t) key addr reply dest deadline ans := by
  subst hans
  simp only [State.openSession, hst, hgood, hlies, hbank, bne_self_eq_false, Bool.false_eq_true, if_false, not_true, ne_eq]
  rfl

section
variable {base : Word} {a : Nat}

theorem tableSession_badWord (hbad : (partnerProbes base key addr).find? (fun a => s.badWord a) = some a) :
    s.tableSession t b base key addr reply dest deadline =
      ((s.bankGrant b (masterCore (coreOf t)) (.table t)).wordMet a).threadFault t 0x08 := by
  simp only [State.tableSession, hbad]

section
variable (hgood : (partnerProbes base key addr).find? (fun a => s.badWord a) = none)
include hgood

theorem tableSession_found (hfound : s.findPartner (coreOf t) base key addr = some a) :
    s.tableSession t b base key addr reply dest deadline = s.bankGrant b (masterCore (coreOf t)) (.table t) := by
  simp only [State.tableSession, hgood, hfound]

variable (hnew : s.findPartner (coreOf t) base key addr = none)
include hnew

theorem tableSession_full (hfull : s.freePartner (coreOf t) base key addr = none) :
    s.tableSession t b base key addr reply dest deadline =
      (s.bankGrant b (masterCore (coreOf t)) (.table t)).reportLost (key.extractLsb' 23 9) 1 := by
  simp only [State.tableSession, hgood, hnew, hfull]

/-- The first free entry is taken unless it is locked, has stores on their way, or its bank takes no write now. -/
theorem tableSession_free (hfree : s.freePartner (coreOf t) base key addr = some a) :
    let c := coreOf t
    let u := s.bankGrant b (masterCore c) (.table t)
    let word0 := s.loadWord c a
    s.tableSession t b base key addr reply dest deadline =
      if (wordOwned word0 && wordOwner word0 != t) || s.entryBuffered c a then u
      else if s.mirrorRefuses b then (s.bankRefuses b (masterCore c) (.table t)).threadFault t 0x07
      else if s.mirroredAt a && !s.mirrorRoom then u
      else u.writePartner t a key addr reply dest deadline := by
  simp only [State.tableSession, hgood, hnew, hfree]

end
end
end

/-- Settles O35: a control item waits, is applied or is refused as its kind, the program and the frame boundary say; a
session by the answer of its table's bank and what the table holds. -/
theorem busControlAndSessions : Obligations.BusControlAndSessions := by
  unfold Obligations.BusControlAndSessions
  refine ⟨fun s ch q i u => ?control, fun s t key addr reply dest deadline b => ?session⟩
  case control =>
    intro p g can sending k prio bad boundary enters standby
    have henters (v : State) (n : BitVec 4) : v.enterState ch n = enters v n := enterState_eq n
    have hstandby (v : State) (normal : Bool) : v.driveStandby ch normal = standby v normal := driveStandby_eq normal
    refine ⟨fun v kind w => ⟨fun sq h => status_of_sink h kind w, fun h => status_unbound h kind w⟩,
      fun hrun hsrc hpop => ⟨fun hnot => ?waits, fun hbound => ?applies⟩, fun hrun hst hrec hfree => ?recovery⟩
    case waits =>
      have hwaits := control_waits hrun (nextControl_of_pop hsrc hpop) (mt atBoundary_iff.mp hnot)
      exact ⟨congrArg _ (hwaits 1 _), congrArg _ (hwaits 2 _), congrArg _ (hwaits 3 _), congrArg _ (hwaits 4 _),
        congrArg _ (hwaits 5 _), congrArg _ (hwaits 6 _)⟩
    case applies =>
      have hnext := nextControl_of_pop hsrc hpop
      have hdue : (s.prog ch).atBoundary (programOf ch) (itemKind i.1).toNat = true := atBoundary_iff.mpr hbound
      refine ⟨fun hk => ?online, fun hk => ?offline, fun hk => ?listen, fun hk => ?sleep, fun hk => ?wake,
        fun hk => ?counters, fun hk hnone => ?abortNone, fun hk hframe => ?abort, fun hk => ?recover, fun hk => ?unknown⟩
      case online =>
        refine congrArg _ ((control_accepted hrun hnext hdue hk rfl _).trans ?_)
        rw [henters, onlineState_eq]
      case offline => exact congrArg _ ((control_accepted hrun hnext hdue hk rfl _).trans (henters _ _))
      case listen => exact congrArg _ ((control_accepted hrun hnext hdue hk rfl _).trans (henters _ _))
      case sleep =>
        refine congrArg _ ((control_accepted hrun hnext hdue hk rfl _).trans ?_)
        rw [henters, hstandby, linSleepFrame_eq]
        simp only [Bool.and_eq_true, decide_eq_true_eq]
        rfl
      case wake =>
        refine congrArg _ ((control_of_kind hrun hnext hdue hk _).trans ?_)
        simp only [accepts_wake, hstandby]
        rfl
      case counters => exact congrArg _ (control_accepted hrun hnext hdue hk rfl _)
      case abortNone =>
        refine congrArg _ ((control_of_kind hrun hnext hdue hk _).trans ?_)
        simp only [accepts_abort, List.isEmpty_iff]
        rw [if_pos hnone]
      case abort =>
        refine congrArg _ ((control_of_kind hrun hnext hdue hk _).trans ?_)
        simp only [accepts_abort, List.isEmpty_iff]
        rw [if_neg hframe, txFail_byte]
      case recover =>
        refine congrArg _ ((control_of_kind hrun hnext hdue hk _).trans ?_)
        simp only [accepts_recover]
        rfl
      case unknown => exact congrArg _ (control_refused hrun hnext hdue (accepts_unknown hk) 1 _)
    case recovery => exact (exec_busOffRecovery hrun hst hrec hfree).trans (congrArg _ (henters _ _))
  case session =>
    intro c m page base home probes held found free bad opens hst
    refine ⟨fun hbad => congrArg _ (openSession_badPage hst hbad), fun hgood hlies hbank => ?_⟩
    intro u
    have hasks {ans : BankAns} (hans : s.bankAsk b m (.table t) false = ans) {v : State}
        (hv : s.sessionAnswered t b base key addr reply dest deadline ans = v) : opens = .next v :=
      congrArg _ ((openSession_asks hst hgood hlies hbank hans).trans hv)
    refine ⟨fun h => hasks h rfl, fun h => hasks h rfl, fun h => hasks h rfl, fun h =>
      ⟨fun a hbad => hasks h (tableSession_badWord hbad), fun hwords =>
        ⟨fun a hfound => hasks h (tableSession_found hwords hfound),
        fun hnew hfull => hasks h (tableSession_full hwords hnew hfull), fun a hnew hfree => ?_⟩⟩⟩
    intro word0 w
    have htakes := tableSession_free (b := b) (reply := reply) (dest := dest) (deadline := deadline) hwords hnew hfree
    have hkept (hlock : (wordOwned word0 && wordOwner word0 != t || s.entryBuffered c a) = true) : opens = .next u :=
      hasks h (htakes.trans (if_pos hlock))
    refine ⟨fun howned hother => hkept ?_, fun hbuf => hkept ?_, fun hlock hbuf => ?_⟩
    · simp [wordOwned, wordOwner, howned, hother]
    · rw [hbuf, Bool.or_true]
    · have hopen : ¬ (wordOwned word0 && wordOwner word0 != t || s.entryBuffered c a) = true := by
        simpa [wordOwned, wordOwner, hbuf, imp_iff_not_or] using hlock
      refine ⟨fun hmir => hasks h (htakes.trans ((if_neg hopen).trans (if_pos hmir))), fun hmir hroom => ?_⟩
      refine hasks h (htakes.trans ((if_neg hopen).trans ((if_neg ?_).trans (if_neg ?_))))
      · rw [hmir]
        exact Bool.false_ne_true
      · simpa using hroom

end Sys2Proof.Machine

/-!
PROOFS. CAN frames: their packets, the stuffing assist of their phases, what a sent and a received frame comes to.
-/

namespace Sys2Proof.Machine

/-! ## Packets (R281, R288) -/

theorem length_wordsOf : ∀ bytes : List Byte, (wordsOf bytes).length = (bytes.length + 3) / 4
  | a :: b :: c :: d :: r => by
    simp only [wordsOf, List.length_cons, length_wordsOf r]
    omega
  | [] => by simp [wordsOf]
  | [_] => by simp [wordsOf]
  | [_, _] => by simp [wordsOf]
  | [_, _, _] => by simp [wordsOf]

theorem bitsOf_header (fmt : BitVec 3) (id : BitVec 29) : bitsOf (fmt ++ id) 29 3 = fmt.toNat := by
  rw [bitsOf_eq_extractLsb', extractLsb'_append_high fmt id 0 3 rfl, BitVec.extractLsb'_eq_self]

/-- Every format but the refused ones says how many data bytes it has. -/
theorem canBytes_isSome {fmt : Nat} (h : fmt ≤ 4) (ctl : Word) : ∃ n, canBytes fmt ctl = some n := by
  by_cases hcc : fmt ≤ 1
  · exact ⟨_, if_pos hcc⟩
  · by_cases hfd : fmt ≤ 3
    · exact ⟨_, (if_neg hcc).trans (if_pos hfd)⟩
    · exact ⟨_, (if_neg hcc).trans ((if_neg hfd).trans (if_pos (by omega)))⟩

/-- The packet of a received frame is one that its own header asks for. -/
theorem canFrameOk_canFrameWords {f : CanFrame} (h : f.fmt.toNat ≤ 4) (time : Word) :
    canFrameOk (canFrameWords f time) = true := by
  obtain ⟨n, hn⟩ := canBytes_isSome h (canControlWord f)
  have hxl : f.fmt = 4 ↔ f.fmt.toNat = 4 := BitVec.toNat_inj.symm
  simp only [canFrameOk, canFrameWords, List.cons_append, canWords, bitsOf_header, hn, Option.map_some, Option.getD_some,
    beq_iff_eq, Option.some.injEq, List.length_cons, List.nil_append, List.length_append, length_wordsOf, List.length_take,
    List.length_replicate, hxl]
  split_ifs <;> simp only [List.length_cons, List.length_nil] <;> omega

section
variable {s u : State} {ch : Chan}

/-! ## The stuffing assist (R286) -/

/-- A port's stuffing assist is that of a phase. -/
def State.stuffed (s : State) (x : CanPhase) (p : Port) : Prop :=
  s.fld F.peStuff_MODE p.toNat = x.stuff.1 ∧ s.fld F.peStuff_N p.toNat = x.stuff.2

/-- The stuffing assist of a port set to that of a phase. -/
def State.setStuff (s : State) (x : CanPhase) (p : Port) : State :=
  (s.setFld F.peStuff_MODE x.stuff.1 p.toNat).setFld F.peStuff_N x.stuff.2 p.toNat

theorem stuffed_setStuff (x : CanPhase) (p : Port) : (s.setStuff x p).stuffed x p := by
  have hmode : x.stuff.1 % 2 ^ F.peStuff_MODE.len = x.stuff.1 := by cases x <;> rfl
  have hn : x.stuff.2 % 2 ^ F.peStuff_N.len = x.stuff.2 := by cases x <;> rfl
  refine ⟨?_, (fld_setFld_same _ _ _ _ _ (by decide)).trans hn⟩
  have hkeeps (u : State) : (u.setFld F.peStuff_N x.stuff.2 p.toNat).fld F.peStuff_MODE p.toNat =
      u.fld F.peStuff_MODE p.toNat := by
    simp only [State.fld, State.setFld, Fld.get, Fld.put]
    rw [show F.peStuff_MODE.kind = F.peStuff_N.kind from rfl, reg_setReg_same]
    exact bitsOf_putBits_other _ _ _ _ _ _ (by decide) (by decide)
  rw [State.setStuff, hkeeps]
  exact (fld_setFld_same _ _ _ _ _ (by decide)).trans hmode

/-- Setting one port's stuffing assist leaves every other register alone. -/
theorem reg_setStuff_ne {k : RegKind} {i j : Nat} {p : Port} (h : regOff k i j ≠ regOff .peStuff p.toNat 0) (x : CanPhase) :
    (s.setStuff x p).reg k i j = s.reg k i j :=
  (reg_setReg_ne _ _ _ _ _ _ _ _ h).trans (reg_setReg_ne _ _ _ _ _ _ _ _ h)

theorem stuffed_setStuff_of_stuffed {x : CanPhase} {p : Port} (h : s.stuffed x p) (q : Port) :
    (s.setStuff x q).stuffed x p := by
  by_cases hp : p = q
  · subst hp
    exact stuffed_setStuff x p
  · have hne : regOff .peStuff p.toNat 0 ≠ regOff .peStuff q.toNat 0 := by
      have : p.toNat ≠ q.toNat := fun e => hp (BitVec.eq_of_toNat_eq e)
      change 0x12000C + 0x40 * p.toNat + 0x0 * 0 ≠ 0x12000C + 0x40 * q.toNat + 0x0 * 0
      omega
    have hreg := reg_setStuff_ne (s := s) hne x
    exact ⟨(congrArg F.peStuff_MODE.get hreg).trans h.1, (congrArg F.peStuff_N.get hreg).trans h.2⟩

/-- The registers of channels lie below those of ports. -/
theorem laneOf_setStuff (x : CanPhase) (p : Port) (l : Nat) : (s.setStuff x p).laneOf ch l = s.laneOf ch l := by
  have hne : regOff .peLanes (engineOf ch).toNat (contextOf ch).toNat ≠ regOff .peStuff p.toNat 0 := by
    have he := (engineOf ch).isLt
    have hc := (contextOf ch).isLt
    change 0x100110 + 0x800 * (engineOf ch).toNat + 0x40 * (contextOf ch).toNat ≠ 0x12000C + 0x40 * p.toNat + 0x0 * 0
    omega
  unfold State.laneOf State.chReg
  rw [reg_setStuff_ne hne]

/-- The port that a lane binds takes a phase's stuffing assist. -/
def State.laneStuff (s : State) (ch : Chan) (x : CanPhase) (l : Nat) : State :=
  match s.laneOf ch l with
  | none => s
  | some p => s.setStuff x p

theorem canStuff_eq (x : CanPhase) : s.canStuff ch x =
    (s.laneStuff ch x (s.chFld F.peBitcfg_TXL ch)).laneStuff ch x (s.chFld F.peBitcfg_RXL ch) := rfl

theorem laneStuff_bound {l : Nat} {p : Port} (h : s.laneOf ch l = some p) (x : CanPhase) :
    s.laneStuff ch x l = s.setStuff x p := by
  rw [State.laneStuff, h]

theorem laneOf_laneStuff (x : CanPhase) (l m : Nat) : (s.laneStuff ch x l).laneOf ch m = s.laneOf ch m := by
  unfold State.laneStuff
  split
  · rfl
  · exact laneOf_setStuff ..

theorem stuffed_laneStuff_of_stuffed {x : CanPhase} {p : Port} (h : s.stuffed x p) (l : Nat) :
    (s.laneStuff ch x l).stuffed x p := by
  unfold State.laneStuff
  split
  · exact h
  · exact stuffed_setStuff_of_stuffed h _

/-- Both ports of the bit unit have the stuffing assist of the phase. -/
theorem stuffed_canStuff {x : CanPhase} {p : Port} (h : s.laneOf ch (s.chFld F.peBitcfg_TXL ch) = some p ∨
    s.laneOf ch (s.chFld F.peBitcfg_RXL ch) = some p) : (s.canStuff ch x).stuffed x p := by
  rw [canStuff_eq]
  obtain h | h := h
  · rw [laneStuff_bound h]
    exact stuffed_laneStuff_of_stuffed (stuffed_setStuff x p) _
  · rw [laneStuff_bound ((laneOf_laneStuff x _ _).trans h)]
    exact stuffed_setStuff x p

/-! ## Lost frames (R283) -/

theorem reportLost_now (h : (s.chan ch).pushHold = []) : s.reportLost ch 1 =
    (s.setProg ch { s.prog ch with lost := 0 }).status ch 5 (BitVec.ofNat 32 (min ((s.prog ch).lost.toNat + 1) 65535)) := by
  have hsome : min ((s.prog ch).lost.toNat + 1) 65535 ≠ 0 := by omega
  simp only [State.reportLost, if_neg hsome, h, List.isEmpty_nil, if_true]

/-! ## Frames sent (R288, R289) -/

/-- A packet that the program sends as a CAN frame. -/
def canFits (ch : Chan) (ws : List Word) : Bool := canFrameOk ws && canSupports (programOf ch) ws

/-- What comes of a frame that was on the wire. -/
def State.canResult (s : State) (ch : Chan) : BusResult → State
  | .done back => s.canSent ch back
  | .failed errs => s.canFailed ch errs

/-- A packet that fits is on the wire with its result; another is reported. -/
theorem canTx_eq {ws : List Word} (hrun : s.chExecutes ch = true) (hst : (s.prog ch).state ∈ [1, 2])
    (hframe : (s.prog ch).frame = []) (htake : s.takePacket ch false = (ws, u)) (r : BusResult) (e : CanEcho) :
    s.canTx ch r e = if ws = [] then u
      else if canFits ch ws then ((u.setProg ch { u.prog ch with frame := ws }).canWire ch ws e).canResult ch r
      else u.status ch 3 0x11 := by
  have hunfit : (!canFrameOk ws || !canSupports (programOf ch) ws) = !canFits ch ws := (Bool.not_and ..).symm
  simp only [State.canTx, State.programRuns, hrun, sends_iff.mpr hst, hframe, htake, hunfit, List.isEmpty_nil,
    List.isEmpty_iff, Bool.not_true, Bool.or_self, Bool.false_eq_true, if_false, if_true]
  refine if_congr Iff.rfl rfl ?_
  cases canFits ch ws with
  | false => rfl
  | true => cases r <;> simp only [State.canResult, Bool.not_true, Bool.false_eq_true, if_false, if_true]

theorem xlSilent_iff {fmt : Nat} : xlSilent ch fmt = true ↔ fmt = 4 ∧ (optFlag ch 10 = true ∨ optFlag ch 2 = true) := by
  simp only [xlSilent, fXlSilent, fFast, Bool.and_eq_true, Bool.or_eq_true, beq_iff_eq]

/-- A failed attempt is flagged, reported and counted. -/
theorem canAttempt_eq (err : Byte) :
    let fmt := bitsOf ((s.prog ch).frame.headD 0) 29 3
    let a := (if fmt = 4 ∧ (optFlag ch 10 = true ∨ optFlag ch 2 = true) then s else s.errorFlag ch).status ch 3
      (BitVec.ofNat 32 (256 * 1 + err.toNat))
    let r := a.prog ch
    s.canAttempt ch err = a.errUpdate ch { r with
      tries := r.tries + 1, lastErr := err, tec := cap9 (r.tec.toNat + if r.state = 2 ∧ err = 0x05 then 0 else 8)
      errs := cap10 (r.errs.toNat + 1) } := by
  simp only [State.canAttempt, rxError_byte, xlSilent_iff]
  rfl

/-- After its last attempt, or off the bus, a frame is given up. -/
theorem canFailed_once (err : Byte) :
    let b := s.canAttempt ch err
    let o := b.prog ch
    s.canFailed ch [err] = if o.state = 3 ∨ (optRetries ch < 16 ∧ optRetries ch < o.tries)
      then b.txFail ch o.tries o.lastErr.toNat else b := rfl

/-! ## Frames received (R285, R289) -/

theorem reintegrate_eq : s.reintegrate ch = if (s.prog ch).state ∈ [1, 2] then s.enterState ch 6
    else s.setProg ch { s.prog ch with waitIdle := true, idleFor := 0 } := by
  simp only [State.reintegrate, sends_iff]

/-- A protocol exception is reported, and the program integrates again. -/
theorem canRxError_exception (fmt : Nat) (dominant : Bool) :
    s.canRxError ch fmt 0x0C dominant = (s.status ch 3 (BitVec.ofNat 32 (256 * 1 + 0x0C))).reintegrate ch := if_pos rfl

/-- Another error is counted, after an error flag but in a silent data phase. -/
theorem canRxError_counted {err : Byte} (h : err ≠ 0x0C) (fmt : Nat) (dominant : Bool) :
    let w := BitVec.ofNat 32 (256 * 1 + err.toNat)
    let a := s.status ch 3 w
    let b := (s.errorFlag ch).status ch 3 w
    s.canRxError ch fmt err dominant = if fmt = 4 ∧ (optFlag ch 10 = true ∨ optFlag ch 2 = true)
      then (a.setProg ch { a.prog ch with errs := cap10 ((a.prog ch).errs.toNat + 1) }).reintegrate ch
      else b.errUpdate ch { b.prog ch with
        rec_ := cap9 ((b.prog ch).rec_.toNat + if dominant then 8 else 1), errs := cap10 ((b.prog ch).errs.toNat + 1) } := by
  have hother : ¬ err.toNat = errPex := fun e => h (BitVec.eq_of_toNat_eq e)
  simp only [State.canRxError, if_neg hother, rxError_byte, xlSilent_iff]

/-- What the end of a received frame comes to. -/
def State.canEnds (v s : State) (ch : Chan) (f : CanFrame) : FrameEnd → State
  | .complete => if 4 < f.fmt.toNat then v.canRxError ch f.fmt.toNat 0x03 false else v.canValid ch f
  | .cut k => v.closeEarly ch ((canFrameWords f (s.tbAgo f.back)).take k)
  | .error err dominant => v.canRxError ch f.fmt.toNat err dominant

theorem canRx_eq (hrun : s.chExecutes ch = true) (hrec : (s.prog ch).receives = true) (f : CanFrame) (e : FrameEnd) :
    let v := (s.startCrc ch).canPass ch (canPhases f.fmt.toNat) f.line
    s.canRx ch f e = if f.fmt.toNat = 4 ∧ programOf ch ≠ .canxl
      then (v.status ch 3 (BitVec.ofNat 32 (256 * 1 + 0x0C))).reintegrate ch else v.canEnds s ch f e := by
  simp only [State.canRx, State.programRuns, hrun, hrec, Bool.not_true, Bool.or_self, Bool.false_eq_true, if_false,
    Bool.and_eq_true, decide_eq_true_eq, bne_iff_ne]
  exact if_congr Iff.rfl rfl (by cases e <;> rfl)

theorem closeEarly_eq (ws : List Word) :
    let b := (s.dataPacket ch 1 ws).reportLost ch 1
    s.closeEarly ch ws = b.setProg ch { b.prog ch with
      waitIdle := decide (programOf ch = .canfd ∨ programOf ch = .canxl ∨ programOf ch = .uart), idleFor := 0 } := by
  have hwaits : (isCan (programOf ch) || programOf ch == .uart) =
      decide (programOf ch = .canfd ∨ programOf ch = .canxl ∨ programOf ch = .uart) := by
    rw [Bool.eq_iff_iff, Bool.or_eq_true, isCan_iff, beq_iff_eq, decide_eq_true_eq, or_assoc]
  rw [State.closeEarly, State.awaitIdle, hwaits]

end
end Sys2Proof.Machine

/-!
PROOFS. LIN frames: headers with their responses, those that the program sends, answers and takes from others.
-/

namespace Sys2Proof.Machine

section
variable {s u : State} {ch : Chan}

/-! ## Frames on the line (R283, R290) -/

theorem linSend_eq (bits : List Bool) (err : Byte) :
    let w := s.sendBits ch 0 bits (optBit ch)
    s.linSend ch bits err = if err = 0
      then (w.setProg ch { w.prog ch with frame := [] }).status ch 1 (s.tbAgo (bits.length * optBit ch / 256))
      else (w.setProg ch { w.prog ch with frame := [], tries := 0, lastErr := 0 }).status ch 2
        (BitVec.ofNat 32 (256 * (1 % 256) + err.toNat)) := by
  simp only [State.linSend, txFail_byte]

theorem exec_linResponseTimeout (hrun : s.chExecutes ch = true) (hrec : (s.prog ch).receives = true) :
    exec (.linResponseTimeout ch) s =
      .next ((s.setProg ch { s.prog ch with frame := [] }).status ch 3 (BitVec.ofNat 32 (256 * 1 + 0x07))) := by
  refine congrArg _ (if_pos ?_)
  rw [State.programRuns, hrun, hrec, Bool.and_self]

/-! ## The responder (R290) -/

section
variable {ws : List Word} (htake : s.takePacket ch false = (ws, u)) {pid : Byte} {inTime : Bool}
include htake

/-- No response, that of another identifier, or one that is late or may not be sent is reported. -/
theorem linRespond_late
    (h : ws = [] ∨ bitsOf (ws.headD 0) 0 6 ≠ pid.toNat % 64 ∨ inTime = false ∨ (s.prog ch).state ∉ [1, 2])
    (err : Byte) : s.linRespond ch pid inTime err = s.status ch 3 (BitVec.ofNat 32 (256 * 1 + 0x10)) := by
  cases ws with
  | nil => simp only [State.linRespond, htake]; rfl
  | cons w r =>
    have hno : ¬ (decide (bitsOf w 0 6 = pid.toNat % 64) && inTime && (s.prog ch).sends) = true := by
      rw [Bool.and_eq_true, Bool.and_eq_true, decide_eq_true_eq, sends_iff]
      rintro ⟨⟨hid, htime⟩, hst⟩
      obtain h | h | h | h := h
      · exact absurd h (List.cons_ne_nil w r)
      · exact h hid
      · exact absurd (htime.symm.trans h) Bool.true_eq_false.mp
      · exact h hst
    simp only [State.linRespond, htake, if_neg hno]
    rfl

theorem linRespond_answers {w : Word} {r : List Word} (hws : ws = w :: r) (hid : bitsOf w 0 6 = pid.toNat % 64)
    (htime : inTime = true) (hst : (s.prog ch).state ∈ [1, 2]) (err : Byte) :
    s.linRespond ch pid inTime err = if linFrameOk ws = true ∧ r ≠ []
      then u.linSend ch (linResponseBits ch (pid.toNat % 64) (linData ws)) err else u.status ch 3 0x11 := by
  simp only [State.linRespond, htake, hws, hid, htime, sends_iff.mpr hst, decide_true, Bool.and_self, if_true,
    Bool.and_eq_true, Bool.not_eq_true', List.isEmpty_eq_false_iff]
  rfl

end

/-- The response of another node to a valid header. -/
def State.linOther (s : State) (ch : Chan) (pid : Byte) : Option LinResponse → State
  | some r => s.linDeliver ch (pid.toNat % 64) r.data.length r
  | none => s

theorem linRateOk_iff {nominal measured : Nat} :
    linRateOk nominal measured = true ↔ 86 * nominal ≤ 100 * measured ∧ 100 * measured ≤ 114 * nominal := by
  rw [linRateOk, Bool.and_eq_true, decide_eq_true_eq, decide_eq_true_eq]

section
variable {x : LinHeard}

/-- A commander hears no header, and no program one with a short break. -/
theorem linHeader_unheard (h : optFlag ch 1 = true ∨ x.brk < 11) (pid : Byte) : s.linHeader ch pid x = s := by
  refine if_pos ?_
  obtain h | h := h
  · simp [fCommander, h]
  · simp [h]

/-- A header is valid with a rate that the responder takes and a parity that holds. -/
theorem linHeader_heard (hrun : s.chExecutes ch = true) (hrec : (s.prog ch).receives = true) (hflag : optFlag ch 1 = false)
    (hbrk : 11 ≤ x.brk) (pid : Byte) :
    s.linHeader ch pid x = if linRateOk (optBit ch) x.bitTime = true
      then (if pid = linPid (pid.extractLsb' 0 6)
        then (((s.rest ch [0]).status ch 7 (pid.setWidth 32)).linRespond ch pid x.inTime x.err).linOther ch pid x.resp
        else s.status ch 3 (BitVec.ofNat 32 (256 * 1 + 0x03)))
      else s.status ch 3 (BitVec.ofNat 32 (256 * 1 + 0x08)) := by
  simp only [State.linHeader, State.programRuns, hrun, hrec, fCommander, hflag, hbrk.not_gt, decide_false, Bool.not_true,
    Bool.or_self, Bool.false_eq_true, if_false]
  cases linRateOk (optBit ch) x.bitTime with
  | false => rfl
  | true =>
    simp only [Bool.not_true, Bool.false_eq_true, if_false, if_true, ne_eq, ite_not]
    cases x.resp <;> rfl

end

/-! ## The commander (R290) -/

theorem linStart_responder (h : optFlag ch 1 = false) (resp : Option LinResponse) (err : Byte) :
    s.linStart ch resp err = s := by
  refine if_pos ?_
  simp [fCommander, h]

/-- What follows a header whose response the commander does not publish. -/
def State.linAwait (s : State) (ch : Chan) (ws : List Word) (err : Byte) : Option LinResponse → State
  | some r => (if err = 0 then s else s.rxError ch 1 err.toNat).linDeliver ch (bitsOf (ws.getD 0 0) 0 6)
      (bitsOf (ws.getD 0 0) 8 4) r
  | none => if err = 0 then s.setProg ch { s.prog ch with frame := ws } else s.rxError ch 1 err.toNat

theorem linStart_eq {ws : List Word} (hrun : s.chExecutes ch = true) (hst : (s.prog ch).state ∈ [1, 2])
    (hflag : optFlag ch 1 = true) (htake : (s.rest ch [0]).takePacket ch false = (ws, u)) (resp : Option LinResponse)
    (err : Byte) :
    let id := bitsOf (ws.getD 0 0) 0 6
    s.linStart ch resp err = if ws = [] then u
      else if linFrameOk ws = true
        then (if 1 < ws.length then u.linSend ch (linHeaderBits ch id ++ linResponseBits ch id (linData ws)) err
          else (u.sendBits ch 0 (linHeaderBits ch id) (optBit ch)).linAwait ch ws err resp)
        else u.status ch 3 0x11 := by
  simp only [State.linStart, State.programRuns, hrun, sends_iff.mpr hst, fCommander, hflag, htake, Bool.not_true,
    Bool.or_self, Bool.false_eq_true, if_false]
  cases ws with
  | nil => rfl
  | cons w r =>
    rw [if_neg (List.cons_ne_nil w r)]
    cases linFrameOk (w :: r) with
    | false => rfl
    | true =>
      cases r with
      | nil =>
        simp only [Bool.not_true, Bool.false_eq_true, if_false, if_true, List.isEmpty_nil, List.length_singleton,
          Nat.lt_irrefl]
        by_cases herr : err = 0
        · cases resp <;> simp only [State.linAwait, if_pos herr] <;> rfl
        · cases resp <;> simp only [State.linAwait, if_neg herr] <;> rfl
      | cons w' r =>
        simp only [List.isEmpty_cons, Bool.not_true, Bool.not_false, Bool.false_eq_true, if_false, if_true]
        exact (if_pos (Nat.succ_lt_succ (Nat.succ_pos _))).symm

end

/-- Settles O36: a CAN frame by its packet, its result or its end, a LIN frame by its header and the response that
follows. -/
theorem canAndLinFrames : Obligations.CanAndLinFrames := by
  unfold Obligations.CanAndLinFrames
  intro s ch p g rxErr failing quiet again answered sent
  have hsent (v : State) (bits : List Bool) (err : Byte) : v.linSend ch bits err = sent v bits err := linSend_eq bits err
  refine ⟨fun f time hfmt => canFrameOk_canFrameWords hfmt time, fun x port hport => ?stuff,
    fun hhold => reportLost_now hhold,
    fun hrun hst hframe ws u htake => ⟨fun hws r e => ?none, fun hws e => ?sent⟩,
    fun hrun hst hidle => ⟨fun f => ?received, ?timeout, fun pid x => ?header⟩,
    fun hrun hst => ⟨fun hflag resp err => ?responder, fun hflag ws u htake => ?commander⟩⟩
  case stuff =>
    have h := stuffed_canStuff (x := x) hport
    cases x <;> exact h
  case none => exact congrArg _ ((canTx_eq hrun hst hframe htake r e).trans (if_pos hws))
  case sent =>
    intro fits v
    have hpacket (r : BusResult) {w : State} (hw : v.canResult ch r = w) :
        exec (.canTxFrame ch ⟨r, e⟩) s = .next (if fits then w else rxErr u 0 0x11) :=
      hw ▸ congrArg _ ((canTx_eq hrun hst hframe htake r e).trans (if_neg hws))
    refine ⟨fun back => hpacket (.done back) rfl, fun err => ?_⟩
    intro a r b o
    refine hpacket (.failed [err]) ((canFailed_once err).trans ?_)
    rw [show v.canAttempt ch err = b from canAttempt_eq err, txFail_byte]
  case received =>
    intro n phases v strange pex wrong
    have hend (e : FrameEnd) {w : State} (hw : v.canEnds s ch f e = w) :
        exec (.canRxFrame ch f e) s = .next (if strange then pex else w) := by
      refine congrArg _ ((canRx_eq hrun (receives_of_state hst hidle) f e).trans ?_)
      rw [reintegrate_eq]
      exact hw ▸ rfl
    have hwrong {err : Byte} (h : err ≠ 0x0C) (dominant : Bool) : v.canRxError ch n err dominant = wrong err dominant := by
      rw [canRxError_counted h, reintegrate_eq]
    refine ⟨fun hfmt => ?_, fun hfmt => ?_, fun k => ?_, fun err dominant => ?_⟩
    · intro a d c
      exact hend .complete (if_neg hfmt.not_gt)
    · have hknown : ¬ strange := fun h => hfmt.ne' h.1
      exact (hend .complete ((if_pos hfmt).trans (hwrong (by decide) false))).trans (congrArg _ (if_neg hknown))
    · exact hend (.cut k) (closeEarly_eq _)
    · refine hend (.error err dominant) ?_
      by_cases herr : err = 0x0C
      · subst herr
        exact ((canRxError_exception n dominant).trans reintegrate_eq).trans (if_pos rfl).symm
      · exact (hwrong herr dominant).trans (if_neg herr).symm
  case timeout => exact exec_linResponseTimeout hrun (receives_of_state hst hidle)
  case header =>
    intro id h others
    have hrec := receives_of_state hst hidle
    have hother (v : State) : v.linOther ch pid x.resp = others v := by
      refine (State.linOther.eq_def v ch pid x.resp).trans ?_
      rfl
    refine ⟨fun hdeaf => congrArg _ (linHeader_unheard hdeaf pid), fun hflag hbrk => ?_⟩
    have hheard {w : State} (hw : _ = w) : exec (.linHeaderRx ch pid x) s = .next w :=
      congrArg _ ((linHeader_heard hrun hrec hflag hbrk pid).trans hw)
    refine ⟨fun hrate => hheard (if_neg (mt linRateOk_iff.mp (by omega))), fun hlow hhigh => ?_⟩
    have hrate : linRateOk (optBit ch) x.bitTime = true := linRateOk_iff.mpr ⟨hlow, hhigh⟩
    refine ⟨fun hpid => hheard ((if_pos hrate).trans (if_neg hpid)), fun hpid ws u htake => ?_⟩
    have hvalid {w : State} (hw : h.linRespond ch pid x.inTime x.err = w) :
        exec (.linHeaderRx ch pid x) s = .next (others w) :=
      hheard ((if_pos hrate).trans ((if_pos hpid).trans ((hother _).trans (congrArg others hw))))
    refine ⟨fun hlate => hvalid (linRespond_late htake hlate x.err), fun w0 r hws hid htime hst => hvalid ?_⟩
    rw [linRespond_answers htake hws hid htime hst, hsent]
    rfl
  case responder => exact congrArg _ (linStart_responder hflag resp err)
  case commander =>
    have hpacket (hws : ws ≠ []) (resp : Option LinResponse) (err : Byte) {w : State} (hw : _ = w) :
        exec (.linFrameStart ⟨ch, resp, err⟩) s = .next w :=
      congrArg _ ((linStart_eq hrun hst hflag htake resp err).trans ((if_neg hws).trans hw))
    refine ⟨fun hws resp err => congrArg _ ((linStart_eq hrun hst hflag htake resp err).trans (if_pos hws)),
      fun hws hbad resp err => hpacket hws resp err (if_neg (ne_true_of_eq_false hbad)), fun hok => ?_⟩
    intro id v
    have hws : ws ≠ [] := by
      rintro rfl
      exact absurd hok Bool.false_ne_true
    refine ⟨fun hlen resp err => hpacket hws resp err ((if_pos hok).trans ((if_pos hlen).trans (hsent _ _ err))),
      fun hlen => ?_⟩
    have hheader (resp : Option LinResponse) (err : Byte) {w : State} (hw : v.linAwait ch ws err resp = w) :
        exec (.linFrameStart ⟨ch, resp, err⟩) s = .next w :=
      hpacket hws resp err ((if_pos hok).trans ((if_neg hlen.not_gt).trans hw))
    refine ⟨hheader none 0 rfl, fun err herr => hheader none err ((if_neg herr).trans (rxError_byte 1 err)),
      fun r err => hheader (some r) err ?_⟩
    rw [State.linAwait, rxError_byte]
    rfl

end Sys2Proof.Machine

/-!
PROOFS. Sensor programs and captures: SENT and PSI5 messages, sectors, zero crossings and quadrature counts.
-/

namespace Sys2Proof.Machine

section
variable {s : State} {ch : Chan}

/-! ## SENT (R291) -/

/-- A pulse of 12 + n ticks is nibble n, whatever the tick that the calibration pulse gives. -/
theorem sentNibble_ticks {t n : Nat} (ht : 0 < t) (hn : n < 16) :
    sentNibble (56 * t) ((12 + n) * t) = some (BitVec.ofNat 4 n) := by
  have hticks : (2 * 56 * ((12 + n) * t) + 56 * t) / (2 * (56 * t)) = 12 + n := by
    rw [show 2 * 56 * ((12 + n) * t) + 56 * t = 2 * (56 * t) * (12 + n) + 56 * t by ring, Nat.mul_add_div (by omega),
      Nat.div_eq_of_lt (by omega), Nat.add_zero]
  have hrange : 0 < 56 * t ∧ 12 ≤ 12 + n ∧ 12 + n ≤ 27 := by omega
  simp only [sentNibble, hticks, if_pos hrange, Nat.add_sub_cancel_left]

/-- The error that discards a message has a one-byte code. -/
theorem sentDecode_error_lt {lane : BitVec 2} {prev cal e : Nat} {pulses : List Nat}
    (h : sentDecode ch lane prev cal pulses = .error e) : e < 256 := by
  have hcode : e = errSync ∨ e = errRange ∨ e = errCrc := by
    unfold sentDecode at h
    dsimp only at h
    generalize (if prev ≤ cal then cal - prev else prev - cal) = drift at h
    split at h
    · exact .inl (Except.error.inj h).symm
    split at h
    · exact .inl (Except.error.inj h).symm
    split at h
    · exact .inr (.inl (Except.error.inj h).symm)
    split at h
    · exact .inl (Except.error.inj h).symm
    split at h
    · exact .inr (.inr (Except.error.inj h).symm)
    · cases h
  obtain rfl | rfl | rfl := hcode <;> decide

/-- Timestamps of a lane were lost. -/
def State.stampsLost (s : State) (ch : Chan) (lane : Nat) : Bool :=
  match s.laneOf ch lane with
  | some p => s.bit F.peTscfg_OVF p.toNat
  | none => false

/-- A message with an error: its calibration pulse counts, and the slow message begins anew. -/
def State.sentDrop (s : State) (ch : Chan) (lane cal e : Nat) : State :=
  let p := s.prog ch
  (s.setProg ch { p with cal := smSet 0 p.cal lane cal, slow := smSet [] p.slow lane [] }).status ch 3
    (BitVec.ofNat 32 (256 * lane + e))

/-- What the pulses of a message come to. -/
def State.sentRead (s : State) (ch : Chan) (lane : BitVec 2) (back cal : Nat) :
    Except Nat (BitVec 4 × List (BitVec 4)) → State
  | .error e => s.sentDrop ch lane.toNat cal e
  | .ok x =>
    let p := s.prog ch
    let bits := smGet [] p.slow lane.toNat ++ [x.1.extractLsb' 2 2]
    (s.setProg ch { p with
      cal := smSet 0 p.cal lane.toNat cal
      slow := smSet [] p.slow lane.toNat (bits.drop (bits.length - 18)) }).dataPacket ch 1
      [s.tbAgo back, (0 : BitVec 2) ++ lane ++ x.1 ++ sentData x.2]

theorem sentMessage_eq {w : State} {lane : BitVec 2} (hw : s.takeStamps ch lane.toNat = w) (back cal : Nat)
    (pulses : List Nat) :
    s.sentMessage ch lane back cal pulses = if w.stampsLost ch lane.toNat then w.sentDrop ch lane.toNat cal 0x0A
      else w.sentRead ch lane back cal (sentDecode ch lane (smGet 0 (w.prog ch).cal lane.toNat) cal pulses) := by
  subst hw
  refine if_congr Iff.rfl rfl ?_
  dsimp only
  cases hdec : sentDecode ch lane (smGet 0 ((s.takeStamps ch lane.toNat).prog ch).cal lane.toNat) cal pulses with
  | error e =>
    dsimp only
    rw [rxError_eq (sentDecode_error_lt hdec)]
    rfl
  | ok x => rfl

theorem stampsLost_of_overflow {l : Nat} {p : Port} (hl : s.laneOf ch l = some p) (h : s.fld F.peTscfg_OVF p.toNat = 1) :
    s.stampsLost ch l = true := by
  simp only [State.stampsLost, hl, State.bit, h]
  rfl

theorem stampsLost_of_kept {l : Nat} (h : ∀ p, s.laneOf ch l = some p → s.fld F.peTscfg_OVF p.toNat = 0) :
    s.stampsLost ch l = false := by
  unfold State.stampsLost
  cases hl : s.laneOf ch l with
  | none => rfl
  | some p => simp only [State.bit, h p hl, bne_self_eq_false]

/-! ## PSI5 (R292) -/

/-- What the bits of a frame within its window come to. -/
def State.psi5Read (s : State) (ch : Chan) (slot : BitVec 2) : Option (List Bool) → State
  | none => s.status ch 3 (BitVec.ofNat 32 (256 * 0 + 0x09))
  | some bs =>
    let n := optWidth ch
    if bs.length ≤ n then s.status ch 3 (BitVec.ofNat 32 (256 * 0 + 0x09))
    else if psi5Check ch (bs.take n) (bs.drop n) = false then s.status ch 3 (BitVec.ofNat 32 (256 * 0 + 0x04))
    else s.dataPacket ch (if optFlag ch 6 then 0 else slot.setWidth 4) [BitVec.ofNat 32 (spell (bs.take n).reverse)]

/-- A synchronous frame outside its slot's window is reported. -/
theorem psi5Frame_eq (slot : BitVec 2) (start : Nat) (bits : List (Option Bool)) :
    let p := s.prog ch
    s.psi5Frame ch slot start bits =
      if optFlag ch 6 = false ∧ (start < optSlotFrom ch slot ∨ optSlotTo ch slot < start)
      then s.status ch 3 (BitVec.ofNat 32 (256 * 0 + 0x08))
      else (s.setProg ch { p with slots := p.slots ||| ((1 : BitVec 4) <<< slot.toNat) }).psi5Read ch slot
        (bits.mapM id) := by
  have houtside : (!optFlag ch fAsync &&
      !(decide (optSlotFrom ch slot ≤ start) && decide (start ≤ optSlotTo ch slot))) = true ↔
      optFlag ch 6 = false ∧ (start < optSlotFrom ch slot ∨ optSlotTo ch slot < start) := by
    simp [fAsync]
  refine if_congr houtside rfl ?_
  cases bits.mapM id with
  | none => rfl
  | some bs =>
    have hcheck : (!psi5Check ch (bs.take (optWidth ch)) (bs.drop (optWidth ch))) = true ↔
        psi5Check ch (bs.take (optWidth ch)) (bs.drop (optWidth ch)) = false := by rw [Bool.not_eq_true']
    exact if_congr Iff.rfl rfl (if_congr hcheck rfl rfl)

/-- A slot that ends without a frame is reported. -/
theorem execPsi5SlotEnd_eq (hrun : s.chExecutes ch = true) (hrec : (s.prog ch).receives = true) (slot : BitVec 2) :
    let p := s.prog ch
    execPsi5SlotEnd ch slot s = .next (if p.slots.getLsbD slot.toNat
      then s.setProg ch { p with slots := p.slots &&& ~~~((1 : BitVec 4) <<< slot.toNat) }
      else s.status ch 3 (BitVec.ofNat 32 (256 * 0 + 0x07))) :=
  received_of_receives hrun hrec _

/-! ## Captures (R297, R308) -/

theorem quadPhase_eq (a b : Bool) : quadPhase a b = if a then (if b then 2 else 1) else (if b then 3 else 0) := by
  cases a <;> cases b <;> rfl

/-- A transition by its quarter turns: one forward, one back, or two, which are out of range. -/
theorem quadStep_of_turn {a b : Bool} {d : Nat}
    (hd : (quadPhase a b + 4 - quadPhase (s.prog ch).quadA (s.prog ch).quadB) % 4 = d) (z : Bool) :
    let p := s.prog ch
    let n := if z then 0 else if d = 1 then p.count + 1 else if d = 3 then p.count - 1 else p.count
    let v := s.setProg ch { p with quadA := a, quadB := b, count := n }
    let w := if d = 2 then v.status ch 3 (BitVec.ofNat 32 (256 * 0 + 0x09)) else v
    s.quadStep ch a b z = if n = p.count then w else w.capturePush ch 2 n := by
  subst hd
  rfl

end
end Sys2Proof.Machine

/-!
PROOFS. Network and serial programs: 10BASE-T1S frames and beacons, transfers of commanders, and characters.
-/

namespace Sys2Proof.Machine

section
variable {s u : State} {ch : Chan}

/-! ## 10BASE-T1S received (R294, R295) -/

/-- A node other than 0 reports four TO_TIMER periods without a BEACON. -/
theorem execT1sBeaconMissing_eq (hrun : s.chExecutes ch = true) (hrec : (s.prog ch).receives = true) :
    let p := s.prog ch
    execT1sBeaconMissing ch s = .next (if optNode ch = 0 ∨ s.ns < p.beaconAt + 4 * (100 * optToTimer ch) then s
      else (s.setProg ch { p with beaconAt := s.ns }).status ch 3 (BitVec.ofNat 32 (256 * 0 + 0x0E))) := by
  have hawaited : (decide (optNode ch = 0) || decide (s.ns < (s.prog ch).beaconAt + 400 * optToTimer ch)) = true ↔
      optNode ch = 0 ∨ s.ns < (s.prog ch).beaconAt + 4 * (100 * optToTimer ch) := by
    rw [Bool.or_eq_true, decide_eq_true_eq, decide_eq_true_eq, ← Nat.mul_assoc]
  intro p
  rw [execT1sBeaconMissing, received_of_receives hrun hrec]
  exact congrArg _ (if_congr hawaited rfl rfl)

/-- A BEACON restarts the count of TO_TIMER periods. -/
def State.hearBeacon (s : State) (ch : Chan) (beacon : Bool) : State :=
  if beacon then s.setProg ch { s.prog ch with beaconAt := s.ns } else s

theorem t1sRx_noFrame {x : T1sHeard} (h : x.nibbles = []) (dest : Qid) (back : Nat) :
    s.t1sRx ch dest back x = s.hearBeacon ch x.beacon := by
  refine if_pos ?_
  rw [h]
  rfl

/-- A frame with an error, or without its clock, is dropped at once, and one with a bad FCS after its words. -/
theorem t1sRx_frame {x : T1sHeard} (h : x.nibbles ≠ []) (dest : Qid) (back : Nat) :
    let v := (s.hearBeacon ch x.beacon).passGrid ch x.grid
    let bytes := afterSfd x.nibbles
    let w := v.throughSink ch bytes
    s.t1sRx ch dest back x = if x.err then v.status ch 3 (BitVec.ofNat 32 (256 * 0 + 0x03))
      else if 16 * x.grid.length < x.nibbles.length then v.status ch 3 (BitVec.ofNat 32 (256 * 0 + 0x08))
      else if fcsOk bytes then (w.serviceDeliver (optService ch) dest
        (BitVec.ofNat 32 bytes.length :: v.tbAgo back :: wordsOf bytes)).getD (v.reportLost ch 1)
      else w.status ch 3 (BitVec.ofNat 32 (256 * 0 + 0x04)) := by
  intro v bytes w
  have hsome : ¬ x.nibbles.isEmpty = true := mt List.isEmpty_iff.mp h
  refine (if_neg hsome).trans (if_congr Iff.rfl rfl (if_congr Iff.rfl rfl ?_))
  cases hfcs : fcsOk bytes with
  | false => rfl
  | true =>
    rw [if_pos rfl]
    refine (if_neg Bool.false_ne_true).trans ?_
    dsimp only
    split
    next hdelivered => exact (congrArg (Option.getD · (v.reportLost ch 1)) hdelivered).symm
    next hrefused => exact (congrArg (Option.getD · (v.reportLost ch 1)) hrefused).symm

/-! ## 10BASE-T1S sent (R293 to R295) -/

theorem t1sTx_noTurn (h : optNodes ch ≤ optNode ch) (r : BusResult) (grid : List MiiGrid) : s.t1sTx ch r grid = s := by
  refine if_pos ?_
  rw [decide_eq_true h, Bool.or_true]

/-- Node 0 alone sends BEACON. -/
theorem t1sBeacon_of_ne_zero (h : optNode ch ≠ 0) : s.t1sBeacon ch = s := if_pos h

/-- A packet that ends in mid-frame is an underrun, a malformed one is reported, another is on the wire. -/
theorem t1sTx_eq {ws : List Word} (hrun : s.chExecutes ch = true) (hst : (s.prog ch).state ∈ [1, 2])
    (hturn : optNode ch < optNodes ch) (htake : (s.t1sBeacon ch).takePacket ch false = (ws, u))
    (hframe : ((s.t1sBeacon ch).prog ch).frame = []) (r : BusResult) (grid : List MiiGrid) :
    s.t1sTx ch r grid = if ws = [] then u
      else if u.midPacket ch then u.txFail ch 1 0x0F
      else if t1sFrameOk ws then (u.setProg ch { u.prog ch with frame := ws }).t1sSend ch ws r grid
      else u.status ch 3 (BitVec.ofNat 32 (256 * 0 + 0x11)) := by
  simp only [State.t1sTx, State.programRuns, hrun, sends_iff.mpr hst, hturn.not_ge, htake, hframe, List.isEmpty_nil,
    List.isEmpty_iff, decide_false, Bool.not_true, Bool.or_self, Bool.false_eq_true, if_false, if_true, Bool.true_and]
  refine if_congr Iff.rfl rfl (if_congr Iff.rfl rfl ?_)
  cases t1sFrameOk ws <;> rfl

/-- A frame on the wire, as far as the grid of the clock goes. -/
def State.t1sWire (s : State) (ch : Chan) (ns : List (BitVec 4)) (grid : List MiiGrid) : State :=
  let tc := optClockChan ch
  ((((s.passGrid ch grid).wire tc 1 true (nibbleCycle s.cycle grid 0)).driveNibbles ch
    (ns.take (16 * grid.length)) grid).rest ch [0, 1, 2, 3]).rest tc [1]

/-- The nibbles of a frame: preamble, SFD, bytes and FCS. -/
def t1sNibbles (ws : List Word) : List (BitVec 4) := t1sPreamble ++ nibblesOf (t1sBytes ws ++ fcsOf (t1sBytes ws))

theorem t1sSend_done (ws : List Word) (back : Nat) (grid : List MiiGrid) :
    let w := s.t1sWire ch (t1sNibbles ws) grid
    s.t1sSend ch ws (.done back) grid = if 16 * grid.length < (t1sNibbles ws).length
      then (w.status ch 3 (BitVec.ofNat 32 (256 * 0 + 0x08))).txFail ch (w.prog ch).tries 0x08
      else (w.setProg ch { w.prog ch with frame := [], tries := 0, lastErr := 0 }).status ch 1 (w.tbAgo back) := rfl

/-- A collision of the first attempt is retried, any other failure is not. -/
theorem t1sSend_failed_first (h : (s.prog ch).tries = 0) (ws : List Word) (err : Byte) (grid : List MiiGrid) :
    let x := s.setProg ch { s.prog ch with tries := 1, lastErr := err }
    s.t1sSend ch ws (.failed [err]) grid = if err = 0x0D then x else x.txFail ch 1 err.toNat := by
  have hretry : ([err].all (fun e => e == errCollision) && decide (1 < 15)) = true ↔ err = 0x0D := by
    simp [errCollision]
  simp only [State.t1sSend, State.t1sFailed, h, List.length_singleton, Nat.zero_add]
  exact if_congr hretry rfl rfl

/-! ## Transfers of commanders (R281, R282, R295, R296) -/

/-- A packet of another length than its header asks for is reported; without one nothing is sent. -/
theorem transfer_eq {lanes : List Nat} {ws : List Word} (hrun : s.chExecutes ch = true) (hst : (s.prog ch).state ∈ [1, 2])
    (htake : (s.rest ch lanes).takePacket ch false = (ws, u)) (f : State → List Word → State) :
    s.transfer ch lanes f = if ws = [] then u else if packetFits ch ws then f u ws
      else u.status ch 3 (BitVec.ofNat 32 (256 * 0 + 0x11)) := by
  simp only [State.transfer, State.programRuns, hrun, sends_iff.mpr hst, htake, Bool.not_true, Bool.or_self,
    Bool.false_eq_true, if_false, List.isEmpty_iff]
  refine if_congr Iff.rfl rfl ?_
  cases packetFits ch ws <;> rfl

/-! ## Characters (R282, R296) -/

/-- CTS holds the next character back. -/
def State.ctsHolds (s : State) (ch : Chan) : Bool :=
  optFlag ch 8 && (match s.laneOf ch 3 with | some port => s.delivered port | none => false)

/-- A character is taken and sent; a packet that ends in mid-frame is an underrun. -/
theorem uartTx_eq {x : Option Word} (hrun : s.chExecutes ch = true) (hst : (s.prog ch).state ∈ [1, 2])
    (htake : s.takeWord ch = (x, u)) :
    s.uartTx ch = if s.ctsHolds ch then s
      else x.elim (if s.midPacket ch then s.status ch 3 (BitVec.ofNat 32 (256 * 0 + 0x0F)) else s)
        fun w => u.sendBits ch 0 (uartBits ch w) (optBit ch) := by
  have hheld : (!s.programRuns ch || !(s.prog ch).sends || s.ctsHolds ch) = s.ctsHolds ch := by
    rw [State.programRuns, hrun, sends_iff.mpr hst]
    rfl
  refine if_congr (iff_of_eq (congrArg (· = true) hheld)) rfl ?_
  rw [htake]
  cases x <;> rfl

theorem uartRx_eq (char : BitVec 9) (err : Byte) :
    let r := s.throughUnit ch (uartBits ch (char.setWidth 32))
    let got := if err = 0 then (r.reportLost ch 0).dataPacket ch 0
      [BitVec.ofNat 32 (char.toNat % 2 ^ min 9 (max 5 (optWidth ch)))]
      else r.status ch 3 (BitVec.ofNat 32 (256 * 1 + err.toNat))
    let v := if err = 0x0A then (got.reportLost ch 1).awaitIdle ch else got
    s.uartRx ch char err =
      if optFlag ch 8 then v.writeLane ch 2 6 (!(v.chan ch).pushHold.isEmpty) true (v.cycle + 1) else v := by
  have hoverrun : err.toNat = errOverrun ↔ err = 0x0A := by
    rw [← BitVec.toNat_inj]
    rfl
  simp only [State.uartRx, rxError_byte, hoverrun]
  rfl

end

/-- Settles O37: a sensor's message, a network frame, a transfer and a character, each by the equation of its operation. -/
theorem programFrames : Obligations.ProgramFrames := by
  unfold Obligations.ProgramFrames
  intro s ch p rxErr failing capture
  refine ⟨fun t n ht hn => sentNibble_ticks ht hn, fun hrun hst hidle => ?receives, fun hrun hst => ?sends⟩
  case receives =>
    have hrec {c : Instr} {f : State → State} {u : State} (hc : exec c s = s.received ch f) (hf : f s = u) :
        exec c s = .next u :=
      hc.trans ((received_of_receives hrun (receives_of_state hst hidle) f).trans (congrArg _ hf))
    refine ⟨fun lane back cal pulses => ?sent, fun slot start bits => ?psi5, ?beacon, fun dest back beacon ns grid => ?t1s,
      fun char err => hrec (f := fun u => u.uartRx ch char err) rfl (uartRx_eq char err),
      fun hall => hrec (f := fun u => u.hall ch hall) rfl rfl,
      fun lane => hrec (f := fun u => u.capturePush ch 4 (lane.setWidth 32)) rfl rfl, fun a b z => ?quad⟩
    case sent =>
      intro l w seen slow drop
      have hmessage {u : State} (hu : _ = u) : exec (.sentMessage ch lane back cal pulses) s = .next u :=
        hrec (f := fun u => u.sentMessage ch lane back cal pulses) rfl
          ((sentMessage_eq (w := w) rfl back cal pulses).trans hu)
      refine ⟨fun port hl hlost => hmessage (if_pos (stampsLost_of_overflow hl hlost)), fun hkept => ?_, fun id data => ?_⟩
      · refine hmessage ((if_neg (ne_true_of_eq_false (stampsLost_of_kept hkept))).trans ?_)
        cases hdec : sentDecode ch lane (smGet 0 (w.prog ch).cal l) cal pulses <;> rfl
      · exact hrec (f := fun u => u.slowMessage ch lane id data) rfl rfl
    case psi5 =>
      intro v n
      refine ⟨hrec (f := fun u => u.psi5Frame ch slot start bits) rfl ((psi5Frame_eq slot start bits).trans ?_),
        execPsi5SlotEnd_eq hrun (receives_of_state hst hidle) slot⟩
      refine if_congr Iff.rfl rfl ?_
      cases bits.mapM id <;> rfl
    case beacon => exact execT1sBeaconMissing_eq hrun (receives_of_state hst hidle)
    case t1s =>
      intro h v bytes w
      have hframe (err : Bool) (hns : ns ≠ []) {u : State} (hu : _ = u) :
          exec (.t1sRxFrame ch dest back ⟨beacon, ns, grid, err⟩) s = .next u :=
        hrec (f := fun u => u.t1sRx ch dest back ⟨beacon, ns, grid, err⟩) rfl
          ((t1sRx_frame (x := ⟨beacon, ns, grid, err⟩) hns dest back).trans hu)
      refine ⟨fun err => hrec (f := fun u => u.t1sRx ch dest back ⟨beacon, [], grid, err⟩) rfl
          (t1sRx_noFrame rfl dest back),
        fun hns => ⟨hframe true hns (if_pos rfl),
          fun hshort => hframe false hns ((if_neg Bool.false_ne_true).trans (if_pos hshort)), fun hclock => ?_⟩⟩
      have hsampled {u : State} (hu : _ = u) : exec (.t1sRxFrame ch dest back ⟨beacon, ns, grid, false⟩) s = .next u :=
        hframe false hns ((if_neg Bool.false_ne_true).trans ((if_neg hclock.not_gt).trans hu))
      exact ⟨fun hbad => hsampled (if_neg (ne_true_of_eq_false hbad)), fun hgood => hsampled (if_pos hgood)⟩
    case quad =>
      intro turn d n v w
      have hturn : (quadPhase a b + 4 - quadPhase p.quadA p.quadB) % 4 = d := by rw [quadPhase_eq, quadPhase_eq]
      exact hrec (f := fun u => u.quadStep ch a b z) rfl (quadStep_of_turn hturn z)
  case sends =>
    refine ⟨fun r grid hnone => congrArg _ (t1sTx_noTurn hnone r grid), fun hturn => ?t1s,
      fun lanes ws u htake => ?transfer, ?uart⟩
    case t1s =>
      intro h
      refine ⟨t1sBeacon_of_ne_zero, fun ws u htake hframe r grid => ?_⟩
      have hpacket (r : BusResult) (hws : ws ≠ []) {u' : State} (hu : _ = u') :
          exec (.t1sTxFrame ch ⟨r, grid⟩) s = .next u' :=
        congrArg _ ((t1sTx_eq hrun hst hturn htake hframe r grid).trans ((if_neg hws).trans hu))
      refine ⟨fun hws => congrArg _ ((t1sTx_eq hrun hst hturn htake hframe r grid).trans (if_pos hws)),
        fun hws hmid => hpacket r hws (if_pos hmid),
        fun hws hwhole hbad => hpacket r hws
          ((if_neg (ne_true_of_eq_false hwhole)).trans (if_neg (ne_true_of_eq_false hbad))),
        fun hwhole hok => ?_⟩
      intro v tc nibbles w
      have hws : ws ≠ [] := by
        rintro rfl
        exact absurd hok Bool.false_ne_true
      have hsend (r : BusResult) {u' : State} (hu : v.t1sSend ch ws r grid = u') :
          exec (.t1sTxFrame ch ⟨r, grid⟩) s = .next u' :=
        hpacket r hws ((if_neg (ne_true_of_eq_false hwhole)).trans ((if_pos hok).trans hu))
      exact ⟨fun back hclock => hsend (.done back) ((t1sSend_done ws back grid).trans (if_neg hclock.not_gt)),
        fun back hshort => hsend (.done back) ((t1sSend_done ws back grid).trans (if_pos hshort)),
        fun err htries => hsend (.failed [err]) ((t1sSend_failed_first htries ws err grid).trans
          (if_congr Iff.rfl rfl (txFail_byte 1 err)))⟩
    case transfer =>
      intro fits done v reads
      have hdone (f : State → List Word → State) : s.transfer ch lanes f = done (f u ws) := transfer_eq hrun hst htake f
      refine ⟨?_, ?_⟩
      · rintro rfl
        refine ⟨fun x => congrArg _ (hdone _), fun back data => congrArg _ (hdone _),
          fun err data => congrArg _ ((hdone _).trans (congrArg done (txFail_byte 1 err)))⟩
      · rintro rfl rdata w got
        exact congrArg _ (hdone _)
    case uart =>
      intro cts
      exact ⟨fun w u htake => congrArg _ (uartTx_eq hrun hst htake),
        fun u htake => congrArg _ (uartTx_eq hrun hst htake)⟩

end Sys2Proof.Machine

/-!
PROOFS. TB0: what every command but a cold reset leaves as it is, and the sum of a block cycle.
-/

namespace Sys2Proof.Machine

/-! ## What a command keeps (R303, R464) -/

/-- Every command but a cold reset keeps the commands that wait, TB0 with the increment of its cycle, and the canonical form
of memory: each by what the functions it is made of keep (Laws/Kept*.lean). -/
theorem outKeep_exec {anyMem : Bool} {c : Instr} {s : State} (hmem : (s.keepOf anyMem).2.2 = true)
    (hcold : ∀ straps hold lc, c ≠ .coldReset straps hold lc) : outKeep anyMem (exec c s) = some (s.keepOf anyMem) := by
  cases c with
  | coldReset straps hold lc => exact absurd rfl (hcold straps hold lc)
  | _ => simp [exec, hmem]

/-- TB0 is part of what is kept. -/
theorem tbSum_of_keepOf {anyMem : Bool} {t : State} {kept : List Instr × (BitVec 80 × Word) × Bool}
    (h : t.keepOf anyMem = kept) : t.tbSum = kept.2.1.1 := congrArg (fun kept => kept.2.1.1) h

theorem tbSum_exec {c : Instr} {s t : State} (hcold : ∀ straps hold lc, c ≠ .coldReset straps hold lc)
    (h : exec c s = .next t) : t.tbSum = s.tbSum := by
  have hkept := outKeep_exec (anyMem := true) (s := s) rfl hcold
  rw [h, outKeep_next] at hkept
  exact tbSum_of_keepOf (Option.some.inj hkept)

theorem tbSum_tick (s : State) : s.tick.tbSum = s.tbSum + s.incNow.setWidth 80 := by
  obtain ⟨w, hkept⟩ := keep_tick (anyMem := true) s rfl
  exact tbSum_of_keepOf hkept

/-- With no command waiting, a step is a block cycle (the model's queue: log entry 1). -/
theorem step_of_idle {s : State} (h : s.pending = []) : step s = .next s.tick := by
  rw [step, h]

/-- Settles O59: what each command keeps, then what a block cycle adds. -/
theorem timeBaseZeroRuns : Obligations.TimeBaseZeroRuns := by
  unfold Obligations.TimeBaseZeroRuns
  refine ⟨fun c s t hcold hexec => tbSum_exec hcold hexec, fun s t hidle hstep => ?_⟩
  have htick : s.tick = t := Host.Outcome.next.inj ((step_of_idle hidle).symm.trans hstep)
  exact htick ▸ tbSum_tick s

end Sys2Proof.Machine

/-!
PROOFS. The time-base unit: the time port, captures, references that are lost or readmitted, and passes through cycle count 0.
-/

namespace Sys2Proof.Machine

section
variable {s u : State} {n : BaseId} {j : BitVec 2}

theorem bit_of_fld_one {f : Fld} {i k : Nat} (h : s.fld f i k = 1) : s.bit f i k = true :=
  bne_iff_ne.mpr (ne_of_eq_of_ne h Nat.one_ne_zero)

/-! ## The settings of a base (R301, R325) -/

/-- Whether a base is in use is told by its TB.CFG register and its state. -/
theorem baseOn_congr (hcfg : u.reg .tbCfg n.toNat 0 = s.reg .tbCfg n.toNat 0) (hbase : u.base n = s.base n) :
    u.baseOn n = s.baseOn n := by
  have hen : u.bit F.tbCfg_EN n.toNat = s.bit F.tbCfg_EN n.toNat := congrArg (fun w => F.tbCfg_EN.get w != 0) hcfg
  rw [State.baseOn, State.baseOn, hen, hbase]

/-- The kind of a base is told by its TB.CFG register. -/
theorem isNet_congr (hcfg : u.reg .tbCfg n.toNat 0 = s.reg .tbCfg n.toNat 0) : u.isNet n = s.isNet n := by
  have hkind : u.fld F.tbCfg_KIND n.toNat = s.fld F.tbCfg_KIND n.toNat := congrArg F.tbCfg_KIND.get hcfg
  rw [State.isNet, State.isNet, State.baseKind, State.baseKind, hkind]

/-- The registers of the bases stand below those of the time-base unit. -/
theorem regOff_tbCfg_lt (n : BaseId) : regOff .tbCfg n.toNat 0 < 0x141000 := by
  have := n.isLt
  simp only [regOff, RegKind.desc]
  omega

/-- A write of a register of the time-base unit leaves TB.CFG alone. -/
theorem reg_tbCfg_setReg {k : RegKind} (hunit : 0x141000 ≤ regOff k 0 0) (v : Word) :
    (s.setReg k v).reg .tbCfg n.toNat 0 = s.reg .tbCfg n.toNat 0 :=
  reg_setReg_ne _ _ _ _ _ _ _ _ ((regOff_tbCfg_lt n).trans_le hunit).ne

/-- A flag of TB.STAT that an event sets leaves TB.CFG alone. -/
theorem reg_tbCfg_raise {f : Fld} (hf : f.kind = .tbStat) :
    (s.raise f n.toNat).reg .tbCfg n.toNat 0 = s.reg .tbCfg n.toNat 0 := by
  refine reg_setReg_ne (s.noteEvent f 1 n.toNat) _ _ _ _ _ _ _ ?_
  simp only [hf, regOff, RegKind.desc]
  omega

/-! ## The time port (R305) -/

theorem portSample_of_off (h : s.baseOn n = false) (j : BitVec 2) (step : Bool) : s.portSample n j step = s := by
  simp [State.portSample, h]

theorem eachRef_of_fixed {f : State → BaseId → BitVec 2 → State} (h : ∀ n j, f s n j = s) : s.eachRef f = s :=
  List.foldl_fixed' (fun n => List.foldl_fixed' (h n) refIds) baseIds

/-- The registers of the time port after a sample. -/
def State.portSampled (s : State) : State :=
  let u := (((({ s with soc := { s.soc with ntStep := false } }).setReg .tbPortl (s.soc.ntTime.extractLsb' 0 32)).setReg
    .tbPorth (s.soc.ntTime.extractLsb' 32 32)).setFld F.tbPort_NT_VALID s.soc.ntValid.toNat)
  if s.soc.ntStep = true then u.satAdd F.tbPort_STEPS 1 else u

theorem timeSample_eq (h : s.cycle % 16 = 0) :
    s.timeSample = s.portSampled.eachRef fun u n j => u.portSample n j s.soc.ntStep := if_neg (not_not_intro h)

theorem reg_tbCfg_portSampled : s.portSampled.reg .tbCfg n.toNat 0 = s.reg .tbCfg n.toNat 0 := by
  have hport (v : State) (x : Word) : (v.setReg .tbPort x).reg .tbCfg n.toNat 0 = v.reg .tbCfg n.toNat 0 :=
    reg_tbCfg_setReg (by decide) x
  have hhigh (v : State) (x : Word) : (v.setReg .tbPorth x).reg .tbCfg n.toNat 0 = v.reg .tbCfg n.toNat 0 :=
    reg_tbCfg_setReg (by decide) x
  have hlow (v : State) (x : Word) : (v.setReg .tbPortl x).reg .tbCfg n.toNat 0 = v.reg .tbCfg n.toNat 0 :=
    reg_tbCfg_setReg (by decide) x
  rw [State.portSampled]
  split
  · exact (hport _ _).trans ((hport _ _).trans ((hhigh _ _).trans (hlow _ _)))
  · exact (hport _ _).trans ((hhigh _ _).trans (hlow _ _))

/-- While no base is on, the sample reaches the port's registers alone. -/
theorem timeSample_of_off (h : s.cycle % 16 = 0) (hoff : ∀ m, s.baseOn m = false) : s.timeSample = s.portSampled := by
  have hbase (m : BaseId) : s.portSampled.base m = s.base m := by
    rw [State.portSampled]
    split <;> rfl
  rw [timeSample_eq h]
  exact eachRef_of_fixed fun m j =>
    portSample_of_off ((baseOn_congr reg_tbCfg_portSampled (hbase m)).trans (hoff m)) j _

/-! ## Captures (R307, R308) -/

/-- The packet that the signal engine reads for a capture entry reaches the time-base unit. -/
theorem exec_capturePacket {q : Qid} {items : List (BitVec 64)} (hon : s.baseOn n = true)
    (hv : s.refFld F.tbRefcfg_V n j = 1) (hsrc : s.refFld F.tbRefcfg_SRC n j = 2) (hsig : s.faults.sigLost = false)
    (hdom : (s.dom 20).st = .on) (hq : BitVec.ofNat 14 (s.refFld F.tbRefarg_ARG n j) = q)
    (hkind : s.fld F.qeQcfg_RKIND q.toNat = 3) (hquad : (s.dom (quadDomain (quadrantOf q))).st = .on)
    (hread : s.readPacket q .signalEngine (s.queue q).depth [] = (items, u)) :
    exec (.capturePacket n j) s = .next (if items = [] then s else u.capture n j items) := by
  have hvalid : s.refBit F.tbRefcfg_V n j = true := bit_of_fld_one hv
  change execCapturePacket n j s = _
  simp only [execCapturePacket, hq]
  simp [hon, hvalid, hsrc, hsig, hdom, hkind, atDomain_on _ _ _ hquad, hread]

/-- A packet that is not of two items is discarded and counted. -/
theorem capture_of_length {items : List (BitVec 64)} (h : items.length ≠ 2) : s.capture n j items = s.refError n j := by
  match items, h with
  | [], _ | [_], _ | _ :: _ :: _ :: _, _ => rfl

/-- An edge item and a capture item of the entry's kind are an observation at the position that the capture leaves. -/
theorem capture_observed {w1 w2 : BitVec 64} {x : RefEntry} (h1 : itemKind w1 = 0)
    (h2 : (itemKind w2).toNat = s.refFld F.tbRefcfg_CAPT n j + 1)
    (hpos : capturePos (s.ref n j) (s.refFld F.tbRefcfg_CAPT n j) (s.refFld F.tbRefcfg_LANE n j) (itemPayload w2) =
      some (some x)) :
    let v := s.setRef n j x
    s.capture n j [w1, w2] =
      v.observe n j (v.edgeTime (itemPayload w1)) (v.positionOf n j + v.refOffset n j) false := by
  simp [State.capture, h1, h2, hpos]

/-! ## References lost (R315, R318, R319) -/

/-- What a change of any reference entry keeps, the same change of all of them keeps. -/
theorem foldl_refIds_keeps {α : Type} {f : State → α} {g : State → BitVec 2 → State} (h : ∀ u j, f (g u j) = f u)
    (u : State) : f (refIds.foldl g u) = f u := by
  simp [refIds, h]

/-- A base in state st whose value at time t is v, running from there at rate r without correction, at reference sel. -/
def Base.anchoredAt (x : Base) (st : TbState) (v t r : Rat) (sel : BitVec 2) : Prop :=
  x.st = st ∧ x.va = v ∧ x.ta = t ∧ x.rate = r ∧ x.corr = 0 ∧ x.sel = sel

/-- The streaks of the references that are not excluded start again. -/
def State.clearStreaks (s : State) (n : BaseId) : State :=
  refIds.foldl (fun s j => if s.refBit F.tbRefstat_EXCL n j then s else s.setRef n j { s.ref n j with streak := 0 }) s

theorem base_clearStreaks (s : State) (n : BaseId) : (s.clearStreaks n).base n = s.base n :=
  foldl_refIds_keeps (f := fun u => u.base n) (fun u j => by dsimp only; split <;> rfl) s

theorem regs_clearStreaks (s : State) (n : BaseId) : (s.clearStreaks n).regs = s.regs :=
  foldl_refIds_keeps (f := State.regs) (fun u j => by split <;> rfl) s

theorem enterHoldover_eq (s : State) (n : BaseId) :
    let u := (s.reanchor n).clearStreaks n
    s.enterHoldover n = u.setBase n { u.base n with st := .holdover, rate := (u.base n).savedRate, corr := 0, hist := 0 } :=
  rfl

theorem reanchor_of_locked (h : (s.base n).st = .locked) :
    let phi := basePhiAt (s.isNet n) (s.base n) s.tbRat
    s.reanchor n = s.setBase n { s.base n with
      va := baseValueAt (s.isNet n) (s.base n) s.tbRat, ta := s.tbRat, phi := phi
      corr := if phi = 0 then 0 else (s.base n).corr } := by
  simp only [State.reanchor, h]

/-- A base that enters holdover from LOCKED is anchored now, at its saved rate; no register changes. -/
theorem enterHoldover_of_locked (h : (s.base n).st = .locked) :
    ((s.enterHoldover n).base n).anchoredAt .holdover (baseValueAt (s.isNet n) (s.base n) s.tbRat) s.tbRat
      (s.base n).savedRate (s.base n).sel ∧ (s.enterHoldover n).regs = s.regs := by
  constructor
  · simp [enterHoldover_eq, base_clearStreaks, reanchor_of_locked h, Base.anchoredAt]
  · simp [enterHoldover_eq, regs_clearStreaks, reanchor_of_locked h]

/-- A new generation keeps what a base is and which reference it follows. -/
theorem base_newGeneration (s : State) (n : BaseId) : ∃ gen quenches, (s.newGeneration n).base n =
    { s.base n with gen := gen, phi := 0, corr := 0, quenches := quenches } := by
  rw [State.newGeneration]
  dsimp only
  split <;> exact ⟨_, _, base_setBase_same ..⟩

/-- A base that stands still is anchored now, at rate 0. -/
theorem base_enterStill (s : State) (n : BaseId) :
    ((s.enterStill n).base n).anchoredAt .still (baseValueAt (s.isNet n) (s.base n) s.tbRat) s.tbRat 0 (s.base n).sel := by
  have hbase (v : State) := foldl_refIds_keeps (f := fun u => u.base n) (g := fun s j =>
    s.setRef n j { s.ref n j with obs := none, prev := none, winFirst := none }) (fun u j => rfl) v
  dsimp only at hbase
  obtain ⟨gen, quenches, hgen⟩ := base_newGeneration s n
  simp [State.enterStill, Base.anchoredAt, hbase, hgen]

theorem exec_referenceLost (hon : s.baseOn n = true) (hst : (s.base n).st = .locked) (hown : s.slaved n = false)
    (hlost : s.refValid n (s.base n).sel = false) :
    exec (.referenceLost n) s = .next ((s.raise F.tbStat_REFLOST n.toNat).leaveReference n) := by
  refine congrArg _ (if_pos ?_)
  rw [hon, hst, hown, hlost]
  rfl

/-- A NET base is held over when its reference is lost, whatever its other references are. -/
theorem leaveReference_of_net (h : s.isNet n = true) : s.leaveReference n = s.enterHoldover n := by
  rw [State.leaveReference, h]
  rfl

theorem fld_raise_same (s : State) (f : Fld) (i k : Nat) (h : f.lo + f.len ≤ 32) :
    (s.raise f i k).fld f i k = 1 % 2 ^ f.len := fld_setFld_same (s.noteEvent f 1 i k) f 1 i k h

/-- A base without a valid reference stands still; one that was LOCKED raises REFLOST before, which is no part of its
value. -/
theorem exec_stillTimeout (hon : s.baseOn n = true) (hst : (s.base n).st = .locked ∨ (s.base n).st = .holdover)
    (hown : s.slaved n = false) (hkind : s.isNet n = false) (hnone : s.noneValid n = true) :
    ∃ u : State, exec (.stillTimeout n) s = .next (u.enterStill n) ∧
      u.isNet n = s.isNet n ∧ u.base n = s.base n ∧ u.tbRat = s.tbRat := by
  have hdue : exec (.stillTimeout n) s = .next
      ((if (s.base n).st == .locked then s.raise F.tbStat_REFLOST n.toNat else s).enterStill n) := by
    refine congrArg _ (if_pos ?_)
    rw [hon, hkind, hown, hnone]
    rcases hst with hst | hst <;> rw [hst] <;> rfl
  refine ⟨_, hdue, ?_⟩
  split
  · exact ⟨isNet_congr (reg_tbCfg_raise rfl), rfl, rfl⟩
  · exact ⟨rfl, rfl, rfl⟩

/-! ## References readmitted, and the increment of TB0 (R303, R323) -/

/-- A 1 written to EXCL readmits an excluded reference, unless the running cycle excluded it (R10). -/
theorem wrRefstat_readmit {w : Writer} (hw : isBlock w = true) (hn : n ≠ 0) (hexcl : s.refFld F.tbRefstat_EXCL n j = 1)
    (hnow : F.tbRefstat_EXCL.get (s.setNow .tbRefstat n.toNat j.toNat) = 0) :
    s.wrRefstat w n j (F.tbRefstat_EXCL.put 0 1) =
      (s.setFld F.tbRefstat_EXCL 0 n.toNat j.toNat).setRef n j { s.ref n j with readmit := true } := by
  have hbit : s.refBit F.tbRefstat_EXCL n j = true := bit_of_fld_one hexcl
  have hput : F.tbRefstat_EXCL.get (F.tbRefstat_EXCL.put 0 1) = 1 := by decide
  rw [State.wrRefstat, hw, hbit, flagAfter, hput, hnow, decide_eq_false hn]
  rfl

theorem wrT0inc_of_block {w : Writer} (hw : isBlock w = true) (v : Word) : s.wrT0inc w v = s.store w .tbT0inc v := by
  rw [State.wrT0inc, hw]
  rfl

/-- A field of a whole word takes the whole word. -/
theorem putBits_word (w v : Word) : putBits w 0 32 (bitsOf v 0 32) = v := by
  refine BitVec.eq_of_getLsbD_eq fun i hi => ?_
  rw [getLsbD_putBits _ _ _ _ _ (by decide), if_pos ⟨Nat.zero_le i, by omega⟩, testBit_bitsOf]
  simp [hi]

/-- Before seal TB.T0INC takes the word written to it, from a record too. -/
theorem reg_store_tbT0inc_open (h : s.boot.seald = false) (w : Writer) (v : Word) :
    (s.store w .tbT0inc v).reg .tbT0inc = v := by
  cases w <;> simp [State.store, h, writeFields, recordFields, RegKind.desc, putBits_word]

/-- After seal TB.T0INC keeps its value. -/
theorem reg_store_tbT0inc_sealed (h : s.boot.seald = true) {w : Writer} (hw : w ≠ .boot) (v : Word) :
    (s.store w .tbT0inc v).reg .tbT0inc = s.reg .tbT0inc := by
  cases w with
  | boot => exact absurd rfl hw
  | _ => simp [State.store, h, writeFields, RegKind.desc]

/-! ## Passes through cycle count 0 (R349) -/

/-- A forward ANGLE or MAINS base at cycle count 0 passes it unless it has reached that of this lap before. -/
theorem passesZero_eq (hon : s.baseOn n = true) (hkind : s.isNet n = false)
    (hst : (s.base n).st = .locked ∨ (s.base n).st = .holdover) (hfwd : (s.base n).back = false)
    (hzero : (ratMod (s.baseNow n) (s.ringOf n)).floor < 2 ^ 32) :
    s.passesZero n = ((s.base n).zeroLap != some (s.lapOf n (s.baseNow n))) := by
  rw [State.passesZero, hon, hkind, hfwd, decide_eq_true hzero]
  rcases hst with hst | hst <;> rw [hst] <;> rfl

end

/-- Settles O38: the time port, a capture packet, a lost reference of each kind of base, and the accesses of the block
supervisor (`next_access`). -/
theorem timeReferences : Obligations.TimeReferences := by
  unfold Obligations.TimeReferences
  intro s n j w b anchored
  refine ⟨fun time valid step => rfl, fun hcycle => congrArg _ (if_pos hcycle),
    fun hcycle hoff => congrArg _ (timeSample_of_off hcycle hoff), ?capture, fun hon hown => ⟨?lost, ?still⟩,
    fun hw hn hexcl hnow => next_access w (wrRefstat_readmit hw hn hexcl hnow), fun v hw => ⟨?inc, ?opened, ?sealed⟩, ?pass⟩
  case capture =>
    intro q hon hv hsrc hsig hdom hkind hquad items u hread
    have hcapture := exec_capturePacket hon hv hsrc hsig hdom rfl hkind hquad hread
    refine ⟨fun hitems => hcapture.trans (congrArg _ (if_pos hitems)), fun hlen => ?_, ?_⟩
    · have hitems : items ≠ [] := by
        rintro rfl
        simp at hlen
      rw [hcapture, if_neg hitems, capture_of_length (by omega)]
      rfl
    · rintro w1 w2 x rfl h1 h2 hpos v
      exact hcapture.trans (congrArg _ ((if_neg (by simp)).trans (capture_observed h1 h2 hpos)))
  case lost =>
    intro hst hlost hkind
    have hnet : (s.raise F.tbStat_REFLOST n.toNat).isNet n = true := (isNet_congr (reg_tbCfg_raise rfl)).trans hkind
    obtain ⟨hheld, hregs⟩ := enterHoldover_of_locked (s := s.raise F.tbStat_REFLOST n.toNat) hst
    rw [hnet] at hheld
    refine ⟨_, (exec_referenceLost hon hst hown hlost).trans (congrArg _ (leaveReference_of_net hnet)), hheld, ?_⟩
    simp only [State.fld, State.reg, State.regAt, hregs]
    exact fld_raise_same s F.tbStat_REFLOST n.toNat 0 (by decide)
  case still =>
    intro hst hkind hnone
    obtain ⟨u, hexec, hnet, hbase, htime⟩ := exec_stillTimeout hon hst hown hkind hnone
    have hstill := base_enterStill u n
    rw [hnet, hkind, hbase, htime] at hstill
    exact ⟨_, hexec, hstill⟩
  case inc => exact next_access w (wrT0inc_of_block hw v)
  case opened => exact fun hopen => reg_store_tbT0inc_open hopen w v
  case sealed => exact fun hsealed hnot => reg_store_tbT0inc_sealed hsealed hnot v
  case pass =>
    intro hon hkind hst hfwd hzero lap
    have hpass : s.passesZero n = true ↔ b.zeroLap ≠ some lap :=
      (Bool.eq_iff_iff.mp (passesZero_eq hon hkind hst hfwd hzero)).trans bne_iff_ne
    exact ⟨fun hnew => congrArg _ (if_pos (hpass.mpr hnew)), fun hold => congrArg _ (if_neg fun h => hpass.mp h hold)⟩

end Sys2Proof.Machine

/-!
PROOFS. The whole block: the queue of commands, and the canonical form of memory.
-/

namespace Sys2Proof.Machine

/-! ## Commands and steps (log entries 1 and 33) -/

/-- An outcome that keeps something is a next state. -/
theorem next_of_outKeep {anyMem : Bool} {o : Out} {kept : List Instr × (BitVec 80 × Word) × Bool}
    (h : outKeep anyMem o = some kept) : ∃ t, o = .next t ∧ t.keepOf anyMem = kept := by
  cases o with
  | next t => exact ⟨t, rfl, Option.some.inj h⟩
  | fault _ => cases h
  | refused _ => cases h

/-- Every command, a cold reset among them, goes to a next state that keeps the commands that wait, and a canonical memory. -/
theorem exec_next (anyMem : Bool) (c : Instr) {s : State} (hmem : (s.keepOf anyMem).2.2 = true) :
    ∃ t, exec c s = .next t ∧ t.pending = s.pending ∧ (t.keepOf anyMem).2.2 = true := by
  by_cases hcold : ∃ straps hold lc, c = .coldReset straps hold lc
  · obtain ⟨straps, hold, lc, rfl⟩ := hcold
    obtain ⟨t, hexec, hkept⟩ := next_of_outKeep (keep_execColdReset (anyMem := anyMem) straps hold lc s)
    exact ⟨t, hexec, congrArg Prod.fst hkept, congrArg (fun kept => kept.2.2) hkept⟩
  · have hother : ∀ straps hold lc, c ≠ .coldReset straps hold lc := fun straps hold lc h => hcold ⟨straps, hold, lc, h⟩
    obtain ⟨t, hexec, hkept⟩ := next_of_outKeep (outKeep_exec hmem hother)
    exact ⟨t, hexec, congrArg Prod.fst hkept, (congrArg (fun kept => kept.2.2) hkept).trans hmem⟩

theorem memOk_iff (s : State) : s.memOk ↔ (s.keepOf false).2.2 = true := Iff.rfl

theorem memOk_tick {s : State} (h : s.memOk) : s.tick.memOk := by
  obtain ⟨w, hkept⟩ := keep_tick (anyMem := false) s h
  rw [memOk_iff, hkept]
  exact h

theorem step_of_command {s : State} {c : Instr} {rest : List Instr} (h : s.pending = c :: rest) :
    step s = exec c { s with pending := rest } := by
  rw [step, h]

/-- Settles O60: a step is a block cycle or the command at the front, and each keeps the form of memory. -/
theorem memoryStaysCanonical : Obligations.MemoryStaysCanonical := by
  unfold Obligations.MemoryStaysCanonical
  intro s t hmem hstep
  rcases hqueue : s.pending with _ | ⟨c, rest⟩
  · exact Host.Outcome.next.inj ((step_of_idle hqueue).symm.trans hstep) ▸ memOk_tick hmem
  · obtain ⟨u, hexec, -, hkept⟩ := exec_next false c (s := { s with pending := rest }) hmem
    rw [step_of_command hqueue, hexec] at hstep
    exact Host.Outcome.next.inj hstep ▸ hkept

/-- Settles O58: every command goes to a next state, and the commands that wait are among what it keeps. -/
theorem commandsLeaveTheQueue : Obligations.CommandsLeaveTheQueue := by
  unfold Obligations.CommandsLeaveTheQueue
  intro c s
  obtain ⟨t, hexec, hqueue, -⟩ := exec_next true c (s := s) rfl
  exact ⟨t, hexec, hqueue⟩

/-- Settles O56: the front of the queue decides the step. -/
theorem stepRunsFront : Obligations.StepRunsFront := by
  unfold Obligations.StepRunsFront
  exact fun s c rest => step_of_command rfl

end Sys2Proof.Machine

/-!
PROOFS. The ember domain: the calendar and its setting, ember ticks, wakes and the sentinel.
-/

namespace Sys2Proof.Machine

section
variable {s : State}

/-! ## Seconds of the calendar (R492 to R495, R500) -/

/-- A second that is due, and that no set of the same tick discards. -/
theorem calSecond_due (hdue : s.ember.secDue = true) (hset : s.ember.setDue = false) : s.calSecond =
    if s.ember.atEnd then { s with ember := { s.ember with sub := 0, secDue := false, calend := true } }
    else ({ s with ember := { s.ember.nextSecond with sub := 0, secDue := false } }).timerSecond :=
  if_neg (by rw [hdue, hset]; exact Bool.false_ne_true)

theorem atEnd_iff {e : Ember} :
    e.atEnd = true ↔ e.year = 2999 ∧ e.month = 12 ∧ e.day = 31 ∧ e.hour = 23 ∧ e.min = 59 ∧ e.sec = 59 := by
  simp [Ember.atEnd, and_assoc]

/-- A second that passes: the calendar goes on to what its next second is, and the wake timer counts. -/
theorem exec_calendarSecond {x : Ember} (hdue : s.ember.secDue = true) (hset : s.ember.setDue = false)
    (hgo : s.ember.atEnd = false) (hnext : s.ember.nextSecond = x) :
    exec .calendarSecond s = .next ({ s with ember := { x with sub := 0, secDue := false } }).timerSecond := by
  subst hnext
  exact congrArg _ ((calSecond_due hdue hset).trans (by rw [hgo]; rfl))

/-- The second after 23:59:59 begins the next day. -/
theorem nextSecond_midnight {e : Ember} (h : e.sec = 59 ∧ e.min = 59 ∧ e.hour = 23) :
    e.nextSecond = ({ e with hour := 0, min := 0, sec := 0 } : Ember).nextDay := by
  obtain ⟨hsec, hmin, hhour⟩ := h
  simp [Ember.nextSecond, hsec, hmin, hhour]

theorem leapYear_iff {y : Nat} : leapYear y = true ↔ y % 4 = 0 ∧ (y % 100 ≠ 0 ∨ y % 400 = 0) := by simp [leapYear]

theorem fld_lt (f : Fld) (i j : Nat) : s.fld f i j < 2 ^ f.len := Nat.mod_lt _ (Nat.two_pow_pos _)

/-- The wake timer counts down by one; what else it does is to note that it has reached 0. -/
theorem timerSecond_counts (h : s.fld F.embWtimer_COUNT ≠ 0) :
    s.timerSecond.fld F.embWtimer_COUNT = s.fld F.embWtimer_COUNT - 1 ∧
    s.timerSecond.ember = { s.ember with timerDue := s.ember.timerDue || s.fld F.embWtimer_COUNT == 1 } := by
  have hcount := fld_setFld_same s F.embWtimer_COUNT (s.fld F.embWtimer_COUNT - 1) 0 0 (by decide)
  rw [Nat.mod_eq_of_lt ((Nat.sub_le _ _).trans_lt (fld_lt _ 0 0))] at hcount
  rw [State.timerSecond, if_neg h]
  exact ⟨hcount, rfl⟩

theorem exec_wakeTimerFired_due (h : s.ember.timerDue = true) : exec .wakeTimerFired s =
    .next { s.setFld F.embWtimer_FIRED 1 with ember := { s.ember with timerDue := false } } :=
  congrArg _ (if_pos h)

/-! ## The latching read of CAL0 (R497, R504) -/

/-- A write at one key leaves every other, whatever an unlisted key reads as. -/
theorem smGet_smSet_other {α : Type} [DecidableEq α] (d e : α) (m : SMap α) {n k : Nat} (v : α) (h : k ≠ n) :
    smGet d (smSet e m n v) k = smGet d m k := by
  unfold smSet
  split
  · rw [smGet_erase, if_neg h]
  · rw [smGet_smInsert_ne _ _ _ _ _ h, smGet_erase, if_neg h]

theorem latched_readCal0 (s : State) (mst : Master) :
    (s.readCal0 mst).latched mst 8 0 = s.cal1View ∧ (s.readCal0 mst).latched mst 8 1 = s.cal2View := by
  have hne : latchKey mst 8 0 ≠ latchKey mst 8 1 := by simp [latchKey]
  exact ⟨(smGet_smSet_other _ _ _ _ hne).trans (smGet_smSet_same _ _ _ _), smGet_smSet_same _ _ _ _⟩

/-! ## Setting the calendar (R491, R496, R497, R505) -/

theorem access_calendarSet {w : Writer} {u : State} (hw : isBlock w = true) (h : s.calSet = u) :
    exec (.calendarSet w) s = .next (s.access w fun _ => u) := by
  refine next_access w (Eq.trans ?_ h)
  rw [State.wrEmb, hw]
  rfl

theorem access_calendarSet_other {w : Writer} (hw : isBlock w = false) :
    exec (.calendarSet w) s = .next (s.access w fun s => s.authorityFault w) := by
  refine congrArg _ (access_congr ?_)
  rw [State.wrEmb, hw]
  rfl

theorem calSet_of_failure {code : Nat} (h : setFailure (s.embLatest .embSet0) (s.embLatest .embSet1) = code) (hcode : code ≠ 0) :
    s.calSet = (s.setFld F.embCalerr_ERR 1).setFld F.embCalerr_REASON code := by
  subst h
  exact if_pos hcode

theorem calSet_of_good (h : setFailure (s.embLatest .embSet0) (s.embLatest .embSet1) = 0) : s.calSet =
    if s.ember.setPend.isSome then (s.setFld F.embCalerr_ERR 1).setFld F.embCalerr_REASON 7
    else { s.setFld F.embCalerr_PEND 1 with
      ember := { s.ember with setPend := some (2, s.embLatest .embSet0, s.embLatest .embSet1) } } :=
  if_neg (not_not_intro h)

/-- The first failure of a set, by the fields of its two words. -/
theorem setFailure_cases (v0 v1 : Word) :
    let y := (v1.extractLsb' 16 12).toNat
    let m := (v1.extractLsb' 8 4).toNat
    let d := (v1.extractLsb' 0 5).toNat
    let yearOk := 2000 ≤ y ∧ y ≤ 2999
    let monthOk := yearOk ∧ 1 ≤ m ∧ m ≤ 12
    let dayOk := monthOk ∧ 1 ≤ d ∧ d ≤ lastDay y m
    let hourOk := dayOk ∧ (v0.extractLsb' 16 5).toNat ≤ 23
    let minOk := hourOk ∧ (v0.extractLsb' 8 6).toNat ≤ 59
    let good := minOk ∧ (v0.extractLsb' 0 6).toNat ≤ 59
    (¬ yearOk → setFailure v0 v1 = 1) ∧ (yearOk → ¬ monthOk → setFailure v0 v1 = 2) ∧
    (monthOk → ¬ dayOk → setFailure v0 v1 = 3) ∧ (dayOk → ¬ hourOk → setFailure v0 v1 = 4) ∧
    (hourOk → ¬ minOk → setFailure v0 v1 = 5) ∧ (minOk → ¬ good → setFailure v0 v1 = 6) ∧
    (good → setFailure v0 v1 = 0) := by
  intro y m d yearOk monthOk dayOk hourOk minOk good
  have hchecks : setFailure v0 v1 =
      if y < 2000 ∨ 2999 < y then 1 else if m = 0 ∨ 12 < m then 2 else if d = 0 ∨ lastDay y m < d then 3
      else if 23 < (v0.extractLsb' 16 5).toNat then 4 else if 59 < (v0.extractLsb' 8 6).toNat then 5
      else if 59 < (v0.extractLsb' 0 6).toNat then 6 else 0 := by
    simp only [y, m, d, ← bitsOf_eq_extractLsb']
    rfl
  rw [hchecks]
  refine ⟨fun h => ?_, fun h h' => ?_, fun h h' => ?_, fun h h' => ?_, fun h h' => ?_, fun h h' => ?_, fun h => ?_⟩ <;>
    split_ifs <;> omega

theorem calApply_of_due {v0 v1 : Word} (h : s.ember.setPend = some (0, v0, v1)) : s.calApply =
    { (s.setFld F.embCalerr_PEND 0).setFld F.embCalerr_REASON 0 with ember := { s.ember with
      year := (v1.extractLsb' 16 12).toNat, month := (v1.extractLsb' 8 4).toNat, day := (v1.extractLsb' 0 5).toNat
      hour := (v0.extractLsb' 16 5).toNat, min := (v0.extractLsb' 8 6).toNat, sec := (v0.extractLsb' 0 6).toNat
      sub := 0, valid := true, calend := false, setPend := none, setDue := false, secDue := false } } := by
  simp only [← bitsOf_eq_extractLsb', State.calApply, h]
  rfl

theorem calApply_of_not_due (h : ∀ v0 v1 : Word, s.ember.setPend ≠ some (0, v0, v1)) : s.calApply = s := by
  rw [State.calApply]
  split
  · exact absurd ‹_› (h _ _)
  · rfl

end

/-- Settles O53: each second by where its carry ends; GO by the first failure of its values. -/
theorem calendar : Obligations.Calendar := by
  unfold Obligations.Calendar
  refine ⟨fun s => ⟨?idle, ?stops, ?passes, ?lastDay, ⟨?timerOff, ?timer⟩, ?fired, ?notFired, ?week, ?read⟩, ?set⟩
  case idle =>
    rintro (hdue | hset)
    · exact congrArg _ (if_pos (by rw [hdue]; rfl))
    · exact congrArg _ (if_pos (by rw [hset, Bool.or_true]))
  case stops =>
    intro hdue hset hend
    exact congrArg _ ((calSecond_due hdue hset).trans (if_pos (atEnd_iff.mpr hend)))
  case passes =>
    intro hdue hset hgo passed midnight
    have hsecond : ∀ {x : Ember}, s.ember.nextSecond = x → exec .calendarSecond s = .next (passed x) :=
      fun hnext => exec_calendarSecond hdue hset (Bool.eq_false_iff.mpr (mt atEnd_iff.mp hgo)) hnext
    have hday : ∀ {x : Ember}, midnight → ({ s.ember with hour := 0, min := 0, sec := 0 } : Ember).nextDay = x →
        exec .calendarSecond s = .next (passed x) := fun hmid hnext => hsecond ((nextSecond_midnight hmid).trans hnext)
    refine ⟨fun hsec => hsecond (if_pos hsec), fun hsec hmin => hsecond ?_, fun hsec hmin hhour => hsecond ?_,
      fun hmid hlt => hday hmid (if_pos hlt), fun hmid hlast hmonth => hday hmid ?_,
      fun hmid hlast hmonth => hday hmid ?_⟩
    · simp [Ember.nextSecond, hsec, hmin]
    · simp [Ember.nextSecond, hsec, hmin, hhour]
    · simp [Ember.nextDay, hlast, hmonth]
    · simp [Ember.nextDay, hlast, hmonth]
  case lastDay =>
    intro y m
    simp only [lastDay, leapYear_iff]
  case timerOff => exact fun hzero => if_pos hzero
  case timer => exact fun hcount => ⟨_, rfl, timerSecond_counts hcount⟩
  case fired =>
    intro hdue
    exact ⟨_, exec_wakeTimerFired_due hdue, bit_of_fld_one (fld_setFld_same s F.embWtimer_FIRED 1 0 0 (by decide)), rfl⟩
  case notFired => exact fun hdue => congrArg _ (if_neg (by rw [hdue]; exact Bool.false_ne_true))
  case week =>
    refine ⟨rfl, fun k => ?_, fun k => ?_⟩ <;> simp only [dayOfWeek] <;> omega
  case read =>
    intro mst _
    obtain ⟨hcal1, hcal2⟩ := latched_readCal0 s mst
    exact ⟨_, rfl, rfl, hcal1, hcal2, rfl, rfl⟩
  case set =>
    intro s v0 v1 y m d hr mi sc yearOk monthOk dayOk hourOk minOk good rejected
    obtain ⟨hyear, hmonth, hday, hhour, hmin, hsec, hnone⟩ := setFailure_cases v0 v1
    have hreject : ∀ {w : Writer} {code : Nat}, isBlock w = true → setFailure v0 v1 = code → code ≠ 0 →
        exec (.calendarSet w) s = .next (rejected w code) :=
      fun hw hcode hne => access_calendarSet hw (calSet_of_failure hcode hne)
    refine ⟨fun w hw => access_calendarSet_other hw, fun w hw => ⟨fun h => hreject hw (hyear h) (by decide),
        fun h h' => hreject hw (hmonth h h') (by decide), fun h h' => hreject hw (hday h h') (by decide),
        fun h h' => hreject hw (hhour h h') (by decide), fun h h' => hreject hw (hmin h h') (by decide),
        fun h h' => hreject hw (hsec h h') (by decide), fun hgood hpend => ?_, fun hgood hpend => ?_⟩,
      fun a0 a1 hdue => congrArg _ (calApply_of_due hdue), fun hnot => congrArg _ (calApply_of_not_due hnot)⟩
    · exact access_calendarSet hw ((calSet_of_good (hnone hgood)).trans (if_pos hpend))
    · exact access_calendarSet hw ((calSet_of_good (hnone hgood)).trans
        (if_neg (by rw [hpend]; exact Bool.false_ne_true)))

end Sys2Proof.Machine

/-!
PROOFS. Ember ticks, the wake ports that they sample, the sentinel and the clock that stops.
-/

namespace Sys2Proof.Machine

section
variable {s : State}

/-! ## Wake ports (R499) -/

/-- Samples of wake ports change their counts and the wakes that are due. -/
theorem wakePorts_keep (pins : BitVec 32) (ps : List Nat) (s : State) : ∃ filt due,
    ps.foldl (fun s p => s.wakePort p (pins.getLsbD p)) s = { s with ember := { s.ember with filt := filt, wakeDue := due } } := by
  induction ps generalizing s with
  | nil => exact ⟨s.ember.filt, s.ember.wakeDue, rfl⟩
  | cons p ps ih =>
    obtain ⟨filt, due, hrest⟩ := ih (s.wakePort p (pins.getLsbD p))
    refine ⟨filt, due, ?_⟩
    rw [List.foldl_cons, hrest, State.wakePort]
    split <;> rfl

/-- The sample of port p that a tick takes completes a wake. -/
def State.wakes (s : State) (pins : BitVec 32) (p : Nat) : Bool :=
  (wakeSample (s.fld F.embWcfg_MODE p) (s.fld F.embWcfg_FILT p) (smGet 0 s.ember.filt p) (pins.getLsbD p)).2

theorem wakeDue_wakePort (pins : BitVec 32) (p : Nat) (q : BitVec 5) :
    q ∈ (s.wakePort p (pins.getLsbD p)).ember.wakeDue ↔
      q ∈ s.ember.wakeDue ∨ s.wakes pins p = true ∧ q = BitVec.ofNat 5 p := by
  unfold State.wakePort State.wakes
  dsimp only
  split
  · simp [*]
  · simp [*]

theorem filt_wakePort {p k : Nat} (h : k ≠ p) (high : Bool) : smGet 0 (s.wakePort p high).ember.filt k = smGet 0 s.ember.filt k := by
  have hfilt : (s.wakePort p high).ember.filt = smSet 0 s.ember.filt p (wakeSample (s.fld F.embWcfg_MODE p) (s.fld F.embWcfg_FILT p)
      (smGet 0 s.ember.filt p) high).1 := by
    rw [State.wakePort]
    split <;> rfl
  rw [hfilt, smGet_smSet_ne _ _ _ _ _ h]

theorem wakes_wakePort {p k : Nat} (h : k ≠ p) (pins : BitVec 32) (high : Bool) : (s.wakePort p high).wakes pins k = s.wakes pins k := by
  unfold State.wakes
  rw [filt_wakePort h]
  rfl

/-- The ports of a list, each sampled once: a wake is due for those whose sample completes one. -/
theorem wakeDue_wakePorts (pins : BitVec 32) (ps : List Nat) (hps : ps.Nodup) (s : State) (q : BitVec 5) :
    q ∈ (ps.foldl (fun s p => s.wakePort p (pins.getLsbD p)) s).ember.wakeDue ↔
      q ∈ s.ember.wakeDue ∨ ∃ p ∈ ps, s.wakes pins p = true ∧ q = BitVec.ofNat 5 p := by
  induction ps generalizing s with
  | nil => simp
  | cons p ps ih =>
    obtain ⟨hp, hps⟩ := List.nodup_cons.mp hps
    have hsame : ∀ k ∈ ps, (s.wakePort p (pins.getLsbD p)).wakes pins k = s.wakes pins k :=
      fun k hk => wakes_wakePort (ne_of_mem_of_not_mem hk hp) _ _
    have htail : (∃ k ∈ ps, (s.wakePort p (pins.getLsbD p)).wakes pins k = true ∧ q = BitVec.ofNat 5 k) ↔
        ∃ k ∈ ps, s.wakes pins k = true ∧ q = BitVec.ofNat 5 k :=
      exists_congr fun k => and_congr_right fun hk => by rw [hsame k hk]
    rw [List.foldl_cons, ih hps, wakeDue_wakePort, htail, List.exists_mem_cons_iff, or_assoc]

/-! ## The ember tick (R492) -/

/-- A tick that no register write waits for applies none. -/
theorem embWrites_of_none (h : s.ember.writes = []) : s.embWrites = s := by
  have hember : ({ s.ember with writes := [] } : Ember) = s.ember := by rw [← h]
  rw [State.embWrites, h]
  exact congrArg (fun e => { s with ember := e }) hember

/-- Counting a tick changes SUB and whether its wrap is due. -/
theorem count_keeps (e : Ember) : ∃ sub due, e.count = { e with sub := sub, secDue := due } := by
  rw [Ember.count]
  split
  · exact ⟨e.sub, e.secDue, rfl⟩
  · split
    · exact ⟨_, e.secDue, rfl⟩
    · exact ⟨e.sub, _, rfl⟩

theorem count_of_stopped {e : Ember} (h : e.valid = false ∨ e.calend = true) : e.count = e := if_pos (by simpa using h)

theorem count_of_running {e : Ember} (hvalid : e.valid = true) (hgo : e.calend = false) : e.count =
    if e.sub < 32767 then { e with sub := e.sub + 1 } else { e with secDue := true } :=
  if_neg (by rw [hvalid, hgo]; exact Bool.false_ne_true)

theorem setTick_of_none {e : Ember} (h : e.setPend = none) : e.setTick = e := by rw [Ember.setTick, h]

theorem embSettle_of_nothing_due (hset : s.ember.setPend = none) (hsec : s.ember.secDue = false)
    (hwake : s.ember.wakeDue = []) (htimer : s.ember.timerDue = false) : s.embSettle = s := by
  have happly : s.calApply = s := calApply_of_not_due fun _ _ => by simp [hset]
  have hsecond : s.calSecond = s := if_pos (by rw [hsec]; rfl)
  rw [State.embSettle, happly, hsecond, hwake, List.foldl_nil]
  exact if_neg (by rw [htimer]; exact Bool.false_ne_true)

/-- An ember tick that finds nothing due from earlier ones: SUB counts, the clock runs and the ports are sampled. -/
theorem emberTick_of_nothing_due (pins : BitVec 32) (hset : s.ember.setPend = none) (hsec : s.ember.secDue = false)
    (hwake : s.ember.wakeDue = []) (htimer : s.ember.timerDue = false) (hwrites : s.ember.writes = []) :
    s.emberTick pins = (List.range 32).foldl (fun s p => s.wakePort p (pins.getLsbD p))
      { s with ember := { s.ember.count with clkstop := false, lastTick := s.ns } } := by
  obtain ⟨sub, due, hcount⟩ := count_keeps s.ember
  have hstep : s.ember.count.setTick = s.ember.count := setTick_of_none (by rw [hcount]; exact hset)
  have hnone : s.ember.count.writes = [] := by rw [hcount]; exact hwrites
  rw [State.emberTick, embSettle_of_nothing_due hset hsec hwake htimer, hstep, embWrites_of_none]
  exact hnone

/-- After such a tick a wake is due for the ports whose sample completed one. -/
theorem wakeDue_emberTick {pins : BitVec 32} (hset : s.ember.setPend = none) (hsec : s.ember.secDue = false)
    (hwake : s.ember.wakeDue = []) (htimer : s.ember.timerDue = false) (hwrites : s.ember.writes = []) {p : Nat} (hp : p < 32) :
    BitVec.ofNat 5 p ∈ (s.emberTick pins).ember.wakeDue ↔ s.wakes pins p = true := by
  obtain ⟨sub, due, hcount⟩ := count_keeps s.ember
  rw [emberTick_of_nothing_due pins hset hsec hwake htimer hwrites, hcount, wakeDue_wakePorts _ _ List.nodup_range]
  constructor
  · rintro (hbefore | ⟨k, hk, hwakes, heq⟩)
    · rw [hwake] at hbefore
      cases hbefore
    · have hk32 := List.mem_range.mp hk
      have hnat := congrArg BitVec.toNat heq
      rw [BitVec.toNat_ofNat, BitVec.toNat_ofNat, Nat.mod_eq_of_lt hp, Nat.mod_eq_of_lt hk32] at hnat
      exact hnat ▸ hwakes
  · exact fun hwakes => .inr ⟨p, List.mem_range.mpr hp, hwakes, rfl⟩

/-! ## Wakes, the sentinel and the clock (R499, R501 to R503) -/

theorem wakes_of_off {p : Nat} (h : s.fld F.embWcfg_MODE p = 0) (pins : BitVec 32) : s.wakes pins p = false := by
  rw [State.wakes, h]
  rfl

/-- A port that waits for one high sample wakes at its first. -/
theorem wakes_of_high {p : Nat} {pins : BitVec 32} (hmode : s.fld F.embWcfg_MODE p = 2) (hfilt : s.fld F.embWcfg_FILT p = 1)
    (hcount : smGet 0 s.ember.filt p = 0) (hhigh : pins.getLsbD p = true) : s.wakes pins p = true := by
  rw [State.wakes, hmode, hfilt, hcount, hhigh]
  rfl

theorem wakeSeen_of_due {p : BitVec 5} (h : p ∈ s.ember.wakeDue) : s.wakeSeen p =
    { s.setReg .embWstat (putBits (s.reg .embWstat) p.toNat 1 1) with
      ember := { s.ember with wakeDue := s.ember.wakeDue.erase p } } :=
  if_pos (List.contains_iff_mem.mpr h)

theorem wakeSeen_of_not_due {p : BitVec 5} (h : p ∉ s.ember.wakeDue) : s.wakeSeen p = s :=
  if_neg (mt List.contains_iff_mem.mp h)

theorem sentinelGood_iff {e : Ember} : e.sentinelGood = true ↔ e.sentA = 0x454D4252 ∧ e.sentB = 0xBAB2BDAD := by
  simp [Ember.sentinelGood]

theorem smGet_smDropRange {α : Type} (d : α) (m : SMap α) {lo hi n : Nat} (h : lo ≤ n ∧ n < hi) :
    smGet d (smDropRange m lo hi) n = d := by
  induction m with
  | nil => rfl
  | cons kv m ih =>
    obtain ⟨k, v⟩ := kv
    unfold smDropRange at ih ⊢
    rw [List.filter_cons]
    split
    · have hk : k ≠ n := by
        rintro rfl
        simp_all
      rw [smGet, if_neg hk, ih]
    · exact ih

/-- A register of the ember domain other than EMB.STAT is 0 once the ember content is lost. -/
theorem reg_emberLoss {k : RegKind} {i : Nat} (hrange : 0x1A0000 ≤ regOff k i 0 ∧ regOff k i 0 < 0x1B0000)
    (hstat : regOff k i 0 ≠ regOff .embStat 0 0) : s.emberLoss.reg k i = 0 := by
  refine (reg_setReg_ne _ _ _ _ _ _ _ _ hstat).trans ((reg_setReg_ne _ _ _ _ _ _ _ _ hstat).trans ?_)
  exact smGet_smDropRange 0 s.regs hrange

/-- A lost ember content sets both flags of EMB.STAT. -/
theorem emberLoss_lost : s.emberLoss.bit F.embStat_CAL_LOST = true ∧ s.emberLoss.bit F.embStat_EMB_LOST = true := by
  constructor
  · refine bit_of_fld_one ?_
    have hother : ∀ u : State, (u.setFld F.embStat_EMB_LOST 1).fld F.embStat_CAL_LOST = u.fld F.embStat_CAL_LOST := fun u =>
      (congrArg F.embStat_CAL_LOST.get (reg_setReg_same u .embStat _ 0 0)).trans
        (bitsOf_putBits_other _ _ _ _ _ _ (by decide) (by decide))
    exact (hother _).trans (fld_setFld_same _ F.embStat_CAL_LOST 1 0 0 (by decide))
  · exact bit_of_fld_one (fld_setFld_same _ F.embStat_EMB_LOST 1 0 0 (by decide))

end

/-- Settles O54: a tick by what it counts and the ports that it samples; each other command is one branch. -/
theorem emberTicksAndWakes : Obligations.EmberTicksAndWakes := by
  unfold Obligations.EmberTicksAndWakes
  intro s e
  refine ⟨?tick, fun p => ⟨fun hdue => ⟨s.wakeSeen p, rfl, ?woke, ?rest⟩, fun hnot => congrArg _ (wakeSeen_of_not_due hnot)⟩,
    rfl, fun ha hb => ?kept, fun hbad => ?lost, fun hdue => congrArg _ (if_pos hdue),
    fun hsoon => congrArg _ (if_neg (Nat.not_le.mpr hsoon))⟩
  case tick =>
    intro pins hset hsec hwake htimer hwrites
    refine ⟨_, rfl, ?_⟩
    have hports : ∀ p < 32, BitVec.ofNat 5 p ∈ (s.emberTick pins).ember.wakeDue ↔ s.wakes pins p = true :=
      fun p hp => wakeDue_emberTick hset hsec hwake htimer hwrites hp
    rw [emberTick_of_nothing_due pins hset hsec hwake htimer hwrites] at hports ⊢
    obtain ⟨filt, due, hkeep⟩ := wakePorts_keep pins (List.range 32)
      { s with ember := { s.ember.count with clkstop := false, lastTick := s.ns } }
    rw [hkeep] at hports ⊢
    refine ⟨rfl, rfl, fun hstop => ?_, fun hvalid hgo hsub => ?_, fun hvalid hgo hsub => ?_, ?_,
      fun p hp hoff => ?_, fun p hp hmode hfilt hcount hhigh => (hports p hp).mpr (wakes_of_high hmode hfilt hcount hhigh)⟩
    · rw [count_of_stopped hstop]
      exact ⟨rfl, hsec⟩
    · rw [count_of_running hvalid hgo, if_pos hsub]
      exact ⟨rfl, hsec⟩
    · rw [count_of_running hvalid hgo, if_neg (by rw [hsub]; exact lt_irrefl _)]
      exact ⟨hsub, rfl⟩
    · obtain ⟨sub, due, hcount⟩ := count_keeps s.ember
      rw [hcount]
      exact ⟨rfl, rfl, rfl, rfl, rfl, rfl⟩
    · rw [hports p hp, wakes_of_off hoff]
      exact Bool.false_ne_true
  case woke =>
    rw [wakeSeen_of_due hdue]
    have hbit : (putBits (s.reg .embWstat) p.toNat 1 1).getLsbD p.toNat = true := by
      rw [getLsbD_putBits _ _ _ _ _ (by have := p.isLt; omega), if_pos (by omega), Nat.sub_self]
      rfl
    exact (congrArg (·.getLsbD p.toNat) (reg_setReg_same s .embWstat _ 0 0)).trans hbit
  case rest =>
    rw [wakeSeen_of_due hdue]
  case kept =>
    exact congrArg _ (if_pos (sentinelGood_iff.mpr ⟨ha, hb⟩))
  case lost =>
    obtain ⟨hcal, hemb⟩ := emberLoss_lost (s := { s with ember := { s.ember with retok := true } })
    refine ⟨_, congrArg Host.Outcome.next (if_neg (mt sentinelGood_iff.mp hbad)), rfl, hcal, hemb,
      reg_emberLoss (by decide) (by decide), fun i hi => reg_emberLoss ?_ ?_, rfl, rfl⟩
    all_goals simp only [regOff, RegKind.desc]; omega

end Sys2Proof.Machine

/-!
PROOFS. The host's view of a register whose unit is in a low state.
-/

namespace Sys2Proof.Machine

/-! ## Reads that wait for a domain (R399, R554) -/

theorem wakeDomain_of_retained {s : State} {d : Nat} (h : (s.dom d).st = .retained) : s.wakeDomain d =
    (s.setDom d { s.dom d with st := .waking, since := s.ns, pdReq := false }).satAdd F.pwrDstat_WAKES 1 d := by
  rw [State.wakeDomain, h]

/-- A read through the host's view of a register of a retained domain wakes the domain and waits for it. -/
theorem exec_hostViewRead_retained {s : State} {off : BitVec 24} {d : Nat} (hview : off.toNat < 0x400000)
    (halign : off.toNat % 4 = 0) (hdomain : accessDomain false off.toNat = some d) (hst : (s.dom d).st = .retained) :
    exec (.hostViewRead off false) s = .next { s.wakeDomain d with
      regWaits := (s.wakeDomain d).regWaits ++ [⟨d, .hostRead off.toNat false⟩] } := by
  have hwaking : ((s.wakeDomain d).dom d).st = .waking := by
    rw [wakeDomain_of_retained hst, dom_satAdd, dom_setDom_same]
  have hwaits : ∀ f, s.regAtDomain d (.hostRead off.toNat false) f = { s.wakeDomain d with
      regWaits := (s.wakeDomain d).regWaits ++ [⟨d, .hostRead off.toNat false⟩] } := by
    intro f
    simp only [State.regAtDomain, hst, reduceCtorEq, if_false, hwaking, decide_false, Bool.false_and, Bool.false_eq_true]
  refine congrArg Host.Outcome.next ((if_neg (Nat.not_le.mpr hview)).trans ((if_neg (not_not_intro halign)).trans ?_))
  rw [hdomain]
  exact hwaits _

/-- The block with its signal engine RETAINED. -/
def signalRetained : State := State.reset.setDom 20 { st := .retained }

/-- Refutes O55: a read of SIG.CFG through the host's view, with the signal engine RETAINED, wakes the engine and waits for it
(R399), while the statement has every aligned read of the view answered at once. -/
theorem not_hostAndFabricPorts : ¬ Obligations.HostAndFabricPorts := by
  unfold Obligations.HostAndFabricPorts
  rintro ⟨hhost, -⟩
  obtain ⟨hread, -⟩ := hhost signalRetained
  obtain ⟨u, v, hexec, hu, hv, -⟩ := hread 0x160000 false (by decide) (by decide)
  rw [exec_hostViewRead_retained (d := 20) (by decide) (by decide) (by decide) rfl] at hexec
  have hwaits : u.regWaits = signalRetained.regWaits := by rw [hu, hv]
  rw [← Host.Outcome.next.inj hexec] at hwaits
  exact absurd hwaits (by decide)

end Sys2Proof.Machine

/-!
PROOFS. The end of a hearth reset that releases no master.
-/

namespace Sys2Proof.Machine

/-! ## Hearth resets without a release (R272, R484) -/

/-- With no CORE section of the hearth in the table nothing is read, and no master is released. -/
theorem exec_hearthResetComplete_unreleased {s : State} {h : HearthId} (hreset : s.boot.hearth = some h)
    (hon : (s.dom h.toNat).st = .on) (hnone : s.coreSections h = []) : exec (.hearthResetComplete []) s =
    .next { s.setFld F.bootHstat_BUSY 0 with boot := { s.boot with hearth := none } } := by
  refine congrArg Host.Outcome.next ?_
  rw [hreset]
  simp [State.hearthRead, hon, hnone, State.reloadCores, State.hearthBack]

/-- Hearth 0 in a hearth reset, its pin group orphaned, with a billet that has no CORE section for it. -/
def resetWithoutCores : State :=
  { State.reset with boot := { seald := true, stage := .run, hearth := some 0 }, faults := { State.reset.faults with hearths := [0] } }

/-- Refutes O52: a hearth reset that reads all its sections ends with the hearth still lost to its pin group when no section
releases a master (R272, R484), while the statement has it in service again. -/
theorem not_sealReleaseAndHearth : ¬ Obligations.SealReleaseAndHearth := by
  unfold Obligations.SealReleaseAndHearth
  rintro ⟨-, hreset⟩
  obtain ⟨-, -, hends⟩ := hreset resetWithoutCores []
  obtain ⟨hgood, -⟩ := hends 0 rfl rfl rfl
  obtain ⟨u, hexec, -, -, hback⟩ := hgood rfl
  rw [exec_hearthResetComplete_unreleased (h := 0) rfl rfl rfl] at hexec
  rw [← Host.Outcome.next.inj hexec] at hback
  exact hback (by decide)

end Sys2Proof.Machine

/-!
PROOFS. Power domains: requests, the drain, the low states and the wake.
-/

namespace Sys2Proof.Machine

section
variable {s : State} {w : Writer} {n : Nat}

/-! ## Requests (R396) -/

/-- A request of the block supervisor with GO set and no reserved bit, to a domain that exists. -/
theorem wrDreq_of_block {v : Word} (hw : isBlock w = true) (hn : n < 22) (hgo : F.pwrDreq_GO.get v = 1) (hrest : bitsOf v 2 29 = 0) :
    s.wrDreq w n v = match F.pwrDreq_TARGET.get v with
      | 0 => s.requestOn n
      | 1 => s.requestLow n false
      | 2 => s.requestLow n true
      | _ => s := by
  have hlow : decide (22 ≤ n) = false := decide_eq_false (Nat.not_le.mpr hn)
  rw [State.wrDreq, hw, hgo, hrest, hlow]
  rfl

theorem exec_powerRequestOn {d : BitVec 5} (hw : isBlock w = true) (hn : d.toNat < 22) :
    exec (.powerRequestOn w d) s = .next (s.access w fun _ => s.requestOn d.toNat) :=
  next_access w (wrDreq_of_block hw hn (by decide) (by decide))

theorem exec_powerRequestRetained {d : BitVec 5} (hw : isBlock w = true) (hn : d.toNat < 22) :
    exec (.powerRequestRetained w d) s = .next (s.access w fun _ => s.requestLow d.toNat false) :=
  next_access w (wrDreq_of_block hw hn (by decide) (by decide))

theorem exec_powerRequestOff {d : BitVec 5} (hw : isBlock w = true) (hn : d.toNat < 22) :
    exec (.powerRequestOff w d) s = .next (s.access w fun _ => s.requestLow d.toNat true) :=
  next_access w (wrDreq_of_block hw hn (by decide) (by decide))

/-- OFF is for the chain unit alone, RETAINED for every other domain. -/
theorem requestLow_wrong {off : Bool} (h : off ≠ (n == 21)) : s.requestLow n off = s.raise F.pwrDstat_DENIED n :=
  if_pos (bne_iff_ne.mpr h)

theorem requestLow_right {off : Bool} (h : off = (n == 21)) : s.requestLow n off =
    if (s.dom n).st ≠ .on then s else if s.refusesLow n then s.raise F.pwrDstat_DENIED n else s.startDrain n off :=
  if_neg (by rw [h]; simp)

theorem startDrain_of_on (hon : (s.dom n).st = .on) (off : Bool) : s.startDrain n off =
    s.setDom n { s.dom n with st := .draining, since := s.cycle, off := off, accepted := s.storesTo n } := if_pos hon

/-- A low-state request to a domain that is ON starts the drain unless the domain refuses it. -/
theorem requestLow_of_on {off : Bool} (h : off = (n == 21)) (hon : (s.dom n).st = .on) : s.requestLow n off =
    if s.refusesLow n then s.raise F.pwrDstat_DENIED n
    else s.setDom n { s.dom n with st := .draining, since := s.cycle, off := off, accepted := s.storesTo n } := by
  rw [requestLow_right h, if_neg (not_not_intro hon), startDrain_of_on hon]

/-- A domain that has drained is RETAINED 64 cycles on, with the power manager told. -/
theorem lowState_of_retained (hst : (s.dom n).st = .entering) (hcycle : (s.dom n).since + 64 ≤ s.cycle)
    (hoff : (s.dom n).off = false) : s.lowState n =
      (s.setDom n { s.dom n with st := .retained, pdReq := true, pdRet := true }).pulse (0xAC0 + n) := by
  have hlong : decide (s.cycle < (s.dom n).since + 64) = false := decide_eq_false (Nat.not_lt.mpr hcycle)
  refine (if_neg (by rw [hst, hlong]; decide)).trans ?_
  dsimp only
  rw [hoff]
  rfl

/-! ## Wake (R398, R399, R544) -/

/-- A domain that wakes is ON 12 us later, once the power manager's acknowledgement has gone. -/
theorem domainOn_of_ready (hst : (s.dom n).st = .waking) (hack : (s.dom n).pdAck = false)
    (hfell : (s.dom n).ackFell = none ∨ ∃ c, (s.dom n).ackFell = some c ∧ c + 64 ≤ s.cycle) (htime : (s.dom n).since + 12000 ≤ s.ns) :
    s.domainOn n =
      if n < 8 then (s.domainReachOn n).deliverHeldWakes n
      else if 16 ≤ n ∧ n < 20 then
        ((s.domainReachOn n).releaseAllHeld (BitVec.ofNat 2 (n - 16)) ((s.domainReachOn n).quad (BitVec.ofNat 2 (n - 16))).held.length).retryUnits
          (BitVec.ofNat 2 (n - 16))
      else if n = 21 then laneIds.foldl (fun s l => s.tryInit l) (s.domainReachOn n)
      else s.domainReachOn n := by
  have hlong : decide (s.ns < (s.dom n).since + 12000) = false := decide_eq_false (Nat.not_lt.mpr htime)
  rcases hfell with hnone | ⟨c, hsome, hc⟩
  · rw [State.domainOn, hst, hack, hnone, hlong]
    rfl
  · have hacked : decide (c + 64 ≤ s.cycle) = true := decide_eq_true hc
    simp only [State.domainOn, hst, hack, hsome, hacked, hlong]
    rfl

theorem domainOn_of_early (h : (s.dom n).st ≠ .waking ∨ (s.dom n).pdAck = true ∨ s.ns < (s.dom n).since + 12000) : s.domainOn n = s := by
  refine if_pos ?_
  rcases h with hst | hack | htime
  · simp [hst]
  · simp [hack]
  · simp [htime]

/-! ## Held items (R400) -/

/-- No domain in a low state has a limit for the items held for it. -/
theorem ageCheck_of_no_limit (hcycle : s.cycle % 1024 = 0) (h : ∀ i, i < 16 → (s.dom i).st = .on ∨ s.fld F.pwrHold_AGE i = 0) :
    s.ageCheck = s := by
  refine (if_neg (not_not_intro hcycle)).trans ?_
  refine List.foldlRecOn (motive := fun u => u = s) _ _ rfl fun u hu i hi => ?_
  subst hu
  refine if_pos ?_
  simpa using h i (List.mem_range.mp hi)

end

/-- Settles O44: each command is a branch of its operation, told by the state of the domain. -/
theorem powerDomains : Obligations.PowerDomains := by
  unfold Obligations.PowerDomains
  intro s w d n x
  refine ⟨fun hw hn => ⟨?on, ?wake, ?offDenied, ?retDenied, ?low⟩, ?drained, ?drains, ?retained, ?early, ?causes, rfl, ?fell, ?low2,
    ?notOn, ?reachesOn, ?between, ?check⟩
  case on => exact fun hst => (exec_powerRequestOn hw hn).trans (congrArg _ (access_congr (if_pos hst)))
  case wake => exact fun hst => (exec_powerRequestOn hw hn).trans (congrArg _ (access_congr (if_neg hst)))
  case offDenied => exact fun h21 => (exec_powerRequestOff hw hn).trans (congrArg _ (access_congr (requestLow_wrong (by simpa using h21))))
  case retDenied => exact fun h21 => (exec_powerRequestRetained hw hn).trans (congrArg _ (access_congr (requestLow_wrong (by simpa using h21))))
  case low =>
    intro draining
    refine ⟨fun h21 hst => ?_, fun h21 hon href => ?_, fun h21 hon href => ?_, fun h21 hon href => ?_⟩
    · exact (exec_powerRequestRetained hw hn).trans
        (congrArg _ (access_congr ((requestLow_right (by simpa using h21)).trans (if_pos hst))))
    · exact (exec_powerRequestRetained hw hn).trans
        (congrArg _ (access_congr ((requestLow_of_on (by simpa using h21) hon).trans (if_neg (by rw [href]; exact Bool.false_ne_true)))))
    · exact (exec_powerRequestRetained hw hn).trans
        (congrArg _ (access_congr ((requestLow_of_on (by simpa using h21) hon).trans (if_pos href))))
    · exact (exec_powerRequestOff hw hn).trans
        (congrArg _ (access_congr ((requestLow_of_on (by simpa using h21) hon).trans (if_neg (by rw [href]; exact Bool.false_ne_true)))))
  case drained =>
    intro hst hdrained
    exact congrArg _ (if_pos (by rw [decide_eq_true hst, hdrained]; rfl))
  case drains =>
    intro hnot
    refine congrArg _ (if_neg ?_)
    rw [Bool.and_eq_true, decide_eq_true_eq]
    rintro ⟨hst, hdrained⟩
    rcases hnot with hother | hholds
    · exact hother hst
    · exact Bool.false_ne_true (hholds.symm.trans hdrained)
  case retained =>
    exact fun hst hcycle hoff => congrArg Host.Outcome.next (lowState_of_retained hst hcycle hoff)
  case early =>
    intro hsoon
    exact congrArg Host.Outcome.next (if_pos (by rw [decide_eq_true hsoon, Bool.or_true]))
  case causes =>
    rintro cause hcause
    refine congrArg Host.Outcome.next (if_pos ?_)
    rcases hcause with ⟨rfl, h⟩ | ⟨rfl, h⟩ | ⟨rfl, h⟩ | ⟨rfl, h⟩ | ⟨rfl, h⟩ <;> simpa [wakesBy] using h
  case fell =>
    intro hack
    refine congrArg Host.Outcome.next ?_
    rw [if_pos hack]
  case low2 =>
    intro hack
    refine congrArg Host.Outcome.next ?_
    rw [if_neg (by rw [hack]; exact Bool.false_ne_true)]
  case notOn => exact fun h => congrArg _ (domainOn_of_early h)
  case reachesOn =>
    intro hst hack hfell htime u
    have hready : exec (.domainOn d) s = .next (s.domainOn n) := rfl
    rw [domainOn_of_ready hst hack hfell htime] at hready
    refine ⟨fun hd => hready.trans (congrArg _ ?_), fun hd => hready.trans (congrArg _ (if_pos hd)), fun hlo hhi => ?_,
      fun h21 => hready.trans (congrArg _ ?_)⟩
    · rw [if_neg (by omega), if_neg (by omega), if_neg (by omega)]
    · exact hready.trans (congrArg _ ((if_neg (by omega)).trans (if_pos ⟨hlo, hhi⟩)))
    · rw [if_neg (by omega), if_neg (by omega), if_pos h21]
  case between => exact fun hcycle => congrArg _ (if_pos hcycle)
  case check => exact fun hcycle hnone => congrArg _ (ageCheck_of_no_limit hcycle hnone)

end Sys2Proof.Machine

/-!
PROOFS. The lanes of the chain unit: their life and the codewords that they take.
-/

namespace Sys2Proof.Machine

section
variable {s : State} {w : Writer} {l : LaneId}

/-! ## Enabling a lane (R408) -/

theorem lane_store (k : RegKind) (v : Word) (i : Nat) (m : LaneId) : (s.store w k v i).lane m = s.lane m := by
  cases w <;> rfl

theorem wrLctl_enable (hw : isBlock w = true) {v : Word} (h : F.chnLctl_EN.get ((s.store w .chnLctl v l.toNat).reg .chnLctl l.toNat) = 1) :
    s.wrLctl w l v = (s.store w .chnLctl v l.toNat).tryInit l := by
  exact (if_neg (by rw [hw]; exact Bool.false_ne_true)).trans (if_pos (bit_of_fld_one h))

theorem laneDown_of_down {cause : Nat} (h : (s.lane l).st = .down) : s.laneDown l cause = s := by
  rw [State.laneDown, h]

theorem wrLctl_disable (hw : isBlock w = true) {v : Word} (h : F.chnLctl_EN.get ((s.store w .chnLctl v l.toNat).reg .chnLctl l.toNat) = 0)
    (hst : (s.lane l).st = .down) :
    s.wrLctl w l v = (s.store w .chnLctl v l.toNat).setLane l { s.lane l with faultDown := false } := by
  have hen : (s.store w .chnLctl v l.toNat).bit F.chnLctl_EN l.toNat = false := bne_eq_false_iff_eq.mpr h
  have hlane := lane_store (s := s) (w := w) .chnLctl v l.toNat l
  have hdown := laneDown_of_down (s := s.store w .chnLctl v l.toNat) (l := l) (cause := 1) (by rw [hlane]; exact hst)
  refine (if_neg (by rw [hw]; exact Bool.false_ne_true)).trans ((if_neg (by rw [hen]; exact Bool.false_ne_true)).trans ?_)
  simp only [hdown, hlane]

/-! ## INIT (R408) -/

/-- A lane that is down, enabled, with signal and no fault, of a block that knows its node, begins INIT. -/
theorem tryInit_of_ready (hst : (s.lane l).st = .down) (hen : s.fld F.chnLctl_EN l.toNat = 1) (hnode : s.fld F.blkNodeid_LOADED = 1)
    (hsig : (s.lane l).sig = true) (hfault : (s.lane l).faultDown = false) (hon : (s.dom 21).st = .on) : s.tryInit l =
      s.setLane l { s.lane l with st := .init, gotInit := false, sentReady := false, gotReady := false, lastInit := s.ns } := by
  refine if_pos ?_
  rw [hst, bit_of_fld_one hen, bit_of_fld_one hnode, hsig, hfault, hon]
  rfl

theorem tryInit_of_not_down (hst : (s.lane l).st ≠ .down) : s.tryInit l = s := by
  refine if_neg ?_
  rw [beq_eq_false_iff_ne.mpr hst]
  exact Bool.false_ne_true

theorem exec_laneInit_of_down (hst : (s.lane l).st = .down) (hen : s.fld F.chnLctl_EN l.toNat = 1)
    (hnode : s.fld F.blkNodeid_LOADED = 1) (hfault : (s.lane l).faultDown = false) (hon : (s.dom 21).st = .on) :
    exec (.laneInit l) s = .next (s.setLane l { s.lane l with sig := true, st := .init, gotInit := false, sentReady := false
                                                              gotReady := false, lastInit := s.ns }) := by
  have hexec : exec (.laneInit l) s = .next ((s.setLane l { s.lane l with sig := true }).tryInit l) := rfl
  have hlane := lane_setLane_same s l { s.lane l with sig := true }
  have hinit := tryInit_of_ready (s := s.setLane l { s.lane l with sig := true }) (l := l) (by rw [hlane]; exact hst) hen hnode
    (by rw [hlane]) (by rw [hlane]; exact hfault) hon
  rw [hexec, hinit, hlane, setLane_setLane]
  rfl

theorem exec_laneInit_of_not_down (hst : (s.lane l).st ≠ .down) :
    exec (.laneInit l) s = .next (s.setLane l { s.lane l with sig := true }) :=
  congrArg Host.Outcome.next (tryInit_of_not_down (by rw [lane_setLane_same]; exact hst))

theorem exec_initFlitTimer_due (hst : (s.lane l).st = .init) (hdue : (s.lane l).lastInit + 1000 ≤ s.ns) :
    exec (.initFlitTimer l) s = .next (s.setLane l
      { s.lane l with links := (s.lane l).links ++ [s.initFlit (s.lane l).gotInit], lastInit := s.ns }) := by
  refine congrArg Host.Outcome.next ((if_pos (by rw [hst, decide_eq_true hdue]; rfl)).trans ?_)
  simp only [State.linkSend, lane_setLane_same, setLane_setLane]

/-- What arrives at a lane in the state its TYPE asks for restarts the count of missing codewords and is taken. -/
theorem flitRx_of_ready {types : List (BitVec 4)} {f : Flit} (htype : f.type ∈ types)
    (hst : if f.type = tINIT then (s.lane l).st = .init else (s.lane l).st = .up) :
    s.flitRx l types f = (s.setLane l { s.lane l with lastCw := s.ns }).rxFlit l f := by
  refine if_pos ?_
  rw [Bool.and_eq_true, List.contains_iff_mem]
  refine ⟨?_, htype⟩
  split at hst <;> simp [*]

theorem tryUp_of_not_sent (h : (s.lane l).sentReady = false) : s.tryUp l = s := by
  refine if_neg ?_
  rw [h, Bool.and_false, Bool.false_and]
  exact Bool.false_ne_true

theorem tryUp_of_ready (hst : (s.lane l).st = .init) (hsent : (s.lane l).sentReady = true) (hgot : (s.lane l).gotReady = true) :
    s.tryUp l = (((s.setLane l { s.lane l with st := .up, credits := fullCredits, owed := [0, 0, 0, 0], txSeq := 0, rxNext := 0
                                               ack := 0x3FF, nak := false, replay := [], again := [], probeAt := none
                                               lastCw := s.ns, lastProbe := s.ns }).setFld
        F.chnLstat_PEER (s.lane l).peer.toNat l.toNat).pulse (0xA40 + l.toNat)).drainAll :=
  if_pos (by rw [hst, hsent, hgot]; rfl)

theorem initRx_of_init {f : Flit} (hst : (s.lane l).st = .init) : s.initRx l f =
    (s.setLane l { s.lane l with gotInit := true, gotReady := (s.lane l).gotReady || f.h2.getLsbD 31
                                 peer := f.h2.extractLsb' 0 18 }).tryUp l :=
  if_pos (beq_iff_eq.mpr hst)

/-- An INIT flit on its own channel goes to the lane's handshake. -/
theorem rxFlit_init {f : Flit} (htype : f.type = 14) (hvc : f.vc = 0) : s.rxFlit l f = s.initRx l f := by
  have hok : typeOk f = true := by simp [typeOk, htype, hvc]
  have hlink : isLinkFlit f = true := by simp [isLinkFlit, htype, tINIT]
  rw [State.rxFlit, hok, hlink, State.takeFlit, htype]
  rfl

theorem exec_initFlitRx_of_init {f : Flit} (htype : f.type = 14) (hvc : f.vc = 0) (hst : (s.lane l).st = .init)
    (hsent : (s.lane l).sentReady = false) :
    exec (.initFlitRx l f) s = .next (s.setLane l { s.lane l with lastCw := s.ns, gotInit := true
                                                                  gotReady := (s.lane l).gotReady || f.h2.getLsbD 31
                                                                  peer := f.h2.extractLsb' 0 18 }) := by
  have hexec : exec (.initFlitRx l f) s = .next (s.flitRx l [tINIT] f) := rfl
  have hlane := lane_setLane_same s l { s.lane l with lastCw := s.ns }
  have hready := flitRx_of_ready (s := s) (l := l) (types := [tINIT]) (f := f) (by rw [htype]; exact List.mem_singleton_self _)
    (by rw [if_pos (show f.type = tINIT from htype)]; exact hst)
  have hinit := initRx_of_init (s := s.setLane l { s.lane l with lastCw := s.ns }) (l := l) (f := f) (by rw [hlane]; exact hst)
  rw [hexec, hready, rxFlit_init htype hvc, hinit, hlane, setLane_setLane]
  exact congrArg Host.Outcome.next (tryUp_of_not_sent (by rw [lane_setLane_same]; exact hsent))

/-! ## Loss of signal and of codewords (R408, R533) -/

theorem exec_laneSignalLoss_of_down (hst : (s.lane l).st = .down) :
    exec (.laneSignalLoss l) s = .next (s.setLane l { s.lane l with sig := false, lock := false }) := by
  have hexec : exec (.laneSignalLoss l) s =
    .next ((s.laneDown l 2).setLane l { (s.laneDown l 2).lane l with sig := false, lock := false }) := rfl
  rw [hexec, laneDown_of_down hst]

theorem exec_codewordTimeout_of_init (hlate : (s.lane l).lastCw + 10000 ≤ s.ns) (hst : (s.lane l).st = .init) :
    exec (.codewordTimeout l) s = .next (s.setLane l { s.lane l with lock := false }) := by
  have hnot : ¬ (s.lane l).st = .up := by rw [hst]; decide
  refine congrArg Host.Outcome.next ((if_neg (by omega)).trans ?_)
  simp only [if_neg hnot]
  exact tryInit_of_not_down (by rw [lane_setLane_same, hst]; decide)

/-! ## Codewords (R409) -/

theorem codewordRx_of_unlocked {cw : Codeword} (h : (s.lane l).lock = false) : s.codewordRx l cw = s :=
  if_pos (by rw [h]; rfl)

theorem codewordRx_uncorrectable (h : (s.lane l).lock = true) :
    let bad := (s.satAdd F.chnLcnt_UNCORR 1 l.toNat).detect 2 l.toNat
    s.codewordRx l .uncorrectable =
      if (s.lane l).st = .up then bad.setLane l { bad.lane l with nak := true, nakDue := true } else bad :=
  if_neg (by rw [h]; exact Bool.false_ne_true)

/-- What any codeword that decodes does: it frees what it acknowledges. -/
def heardLane (s : State) (l : LaneId) (ack : BitVec 10) : Lane :=
  { s.lane l with lastCw := s.ns, replay := ackReplay (s.lane l).replay ack.toNat
                  again := (s.lane l).again.filter fun c => (ackReplay (s.lane l).replay ack.toNat).contains c }

section
variable {seq ack : BitVec 10} (hlock : (s.lane l).lock = true) (hseq : seq ≠ 0x3FF)
include hlock hseq

theorem codewordRx_outOfOrder (h : seq.toNat ≠ (s.lane l).rxNext) (flits : List Flit) :
    s.codewordRx l (.decoded false seq ack flits) = s.setLane l (heardLane s l ack) := by
  refine (if_neg (by rw [hlock]; exact Bool.false_ne_true)).trans ((if_neg hseq).trans (if_neg ?_))
  rw [beq_eq_false_iff_ne.mpr h, Bool.and_false]
  exact Bool.false_ne_true

theorem codewordRx_expected (hst : (s.lane l).st = .up) (h : seq.toNat = (s.lane l).rxNext) :
    s.codewordRx l (.decoded false seq ack []) =
      s.setLane l { heardLane s l ack with rxNext := ((s.lane l).rxNext + 1) % 1023, ack := seq, nak := false } := by
  refine (if_neg (by rw [hlock]; exact Bool.false_ne_true)).trans ((if_neg hseq).trans ((if_pos ?_).trans ?_))
  · rw [hst, h, beq_self_eq_true]
    rfl
  · exact (congrArg (fun x : Lane => (s.setLane l (heardLane s l ack)).setLane l
      { x with rxNext := ((s.lane l).rxNext + 1) % 1023, ack := seq, nak := false })
      (lane_setLane_same s l (heardLane s l ack))).trans (setLane_setLane _ _ _ _)

end

/-- Settles O45: each event of a lane's life, then the three outcomes of a codeword. -/
theorem chainLanes : Obligations.ChainLanes := by
  intro s w l
  refine ⟨fun v hw hen => next_access w (wrLctl_enable hw hen), fun v hw hen hst => next_access w (wrLctl_disable hw hen hst),
    exec_laneInit_of_down, exec_laneInit_of_not_down, exec_initFlitTimer_due, ?notYet, fun f => exec_initFlitRx_of_init,
    tryUp_of_ready, exec_laneSignalLoss_of_down, fun _ => rfl, fun h => congrArg Host.Outcome.next (if_pos h),
    exec_codewordTimeout_of_init, rfl, fun cw h => congrArg Host.Outcome.next (codewordRx_of_unlocked h), ?codeword⟩
  case notYet =>
    intro h
    refine congrArg Host.Outcome.next (if_neg ?_)
    rw [Bool.and_eq_true, beq_iff_eq, decide_eq_true_eq]
    exact fun hdue => h.elim (fun hst => hst hdue.1) (fun hns => absurd hdue.2 (by omega))
  case codeword =>
    intro hlock
    refine ⟨fun hst => ?_, fun hst => ?_, fun seq ack hst hseq => ⟨fun h flits => ?_, fun h => ?_⟩⟩
    · exact congrArg Host.Outcome.next ((codewordRx_uncorrectable hlock).trans (if_neg hst))
    · exact congrArg Host.Outcome.next ((codewordRx_uncorrectable hlock).trans (if_pos hst))
    · exact congrArg Host.Outcome.next (codewordRx_outOfOrder hlock hseq h flits)
    · exact congrArg Host.Outcome.next (codewordRx_expected hlock hseq hst h)

end
end Sys2Proof.Machine

/-!
PROOFS. The chain unit: flits that a lane receives in UP, messages on their way, timers, and the tunnel.
-/

namespace Sys2Proof.Machine

section
variable {s : State} {l : LaneId} {f : Flit}

/-! ## Flits received in UP (R409 to R412) -/

/-- The state after a flit of a lane that is UP has restarted the lane's count of missing codewords. -/
def heardOn (s : State) (l : LaneId) : State := s.setLane l { s.lane l with lastCw := s.ns }

theorem lane_heardOn : (heardOn s l).lane l = { s.lane l with lastCw := s.ns } := lane_setLane_same _ _ _

theorem flitRx_of_up {types : List (BitVec 4)} (hup : (s.lane l).st = .up) (htype : f.type ∈ types) (hne : f.type ≠ tINIT) :
    s.flitRx l types f = (heardOn s l).rxFlit l f :=
  flitRx_of_ready htype (by rw [if_neg hne]; exact hup)

theorem rxFlit_of_wrong_channel (h : typeOk f = false) : s.rxFlit l f = s.satAdd F.chnLcnt_UNCORR 1 l.toNat :=
  if_pos (by rw [h]; rfl)

/-- A link flit is taken, and so is a flit of the MESSAGE and TUNNEL channels, whose place frees later. -/
theorem rxFlit_of_ok (hok : typeOk f = true) (hvc : f.vc ≠ 2) : s.rxFlit l f = s.takeFlit l f := by
  refine (if_neg (by rw [hok]; exact Bool.false_ne_true)).trans ?_
  rw [if_neg hvc, ite_self]

/-- A CONTROL flit frees its place when it has been taken. -/
theorem rxFlit_of_control (hok : typeOk f = true) (hlink : isLinkFlit f = false) (hvc : f.vc = 2) :
    s.rxFlit l f = (s.takeFlit l f).freePlace (some (l, 2)) :=
  (if_neg (by rw [hok]; exact Bool.false_ne_true)).trans ((if_neg (by rw [hlink]; exact Bool.false_ne_true)).trans (if_pos hvc))

theorem exec_creditRx (hup : (s.lane l).st = .up) (htype : f.type = 15) (hvc : f.vc = 0) :
    exec (.creditRx l f) s = .next ((heardOn s l).creditRx l f) := by
  have hok : typeOk f = true := by simp [typeOk, htype, hvc]
  refine congrArg Host.Outcome.next ((flitRx_of_up hup (List.mem_singleton.mpr htype) (by rw [htype]; decide)).trans ?_)
  rw [rxFlit_of_ok hok (by rw [hvc]; decide), State.takeFlit, htype]
  rfl

theorem exec_probeRx (hup : (s.lane l).st = .up) (htype : f.type = 13) (hvc : f.vc = 0) :
    exec (.probeRx l f) s = .next ((heardOn s l).probeRx l f) := by
  have hok : typeOk f = true := by simp [typeOk, htype, hvc]
  refine congrArg Host.Outcome.next ((flitRx_of_up hup (List.mem_singleton.mpr htype) (by rw [htype]; decide)).trans ?_)
  rw [rxFlit_of_ok hok (by rw [hvc]; decide), State.takeFlit, htype]
  rfl

theorem exec_itemsFlitRx (hup : (s.lane l).st = .up) (htype : f.type = 8) (hvc : f.vc = 1) :
    exec (.itemsFlitRx l f) s = .next ((heardOn s l).forward f (s.fld F.chnLdly_DELAY l.toNat) (some (l, 1))) := by
  have hok : typeOk f = true := by simp [typeOk, htype, hvc]
  refine congrArg Host.Outcome.next ((flitRx_of_up hup (List.mem_singleton.mpr htype) (by rw [htype]; decide)).trans ?_)
  rw [rxFlit_of_ok hok (by rw [hvc]; decide), State.takeFlit, htype, hvc]
  rfl

theorem exec_itemsFlitRx_of_wrong_channel (hup : (s.lane l).st = .up) (htype : f.type = 8) (hvc : f.vc = 0) :
    exec (.itemsFlitRx l f) s = .next ((heardOn s l).satAdd F.chnLcnt_UNCORR 1 l.toNat) := by
  refine congrArg Host.Outcome.next ((flitRx_of_up hup (List.mem_singleton.mpr htype) (by rw [htype]; decide)).trans ?_)
  exact rxFlit_of_wrong_channel (by simp [typeOk, htype, hvc])

theorem exec_rwriteRx (hup : (s.lane l).st = .up) (htype : f.type = 9) (hvc : f.vc = 1) :
    exec (.rwriteRx l f) s = .next ((heardOn s l).forward f (s.fld F.chnLdly_DELAY l.toNat) (some (l, 1))) := by
  have hok : typeOk f = true := by simp [typeOk, htype, hvc]
  refine congrArg Host.Outcome.next ((flitRx_of_up hup (List.mem_singleton.mpr htype) (by rw [htype]; decide)).trans ?_)
  rw [rxFlit_of_ok hok (by rw [hvc]; decide), State.takeFlit, htype, hvc]
  rfl

theorem exec_timeFlitRx (hup : (s.lane l).st = .up) (htype : f.type = 11) (hvc : f.vc = 2) :
    exec (.timeFlitRx l f) s =
      .next (((heardOn s l).timeRx f (s.fld F.chnLdly_DELAY l.toNat)).freePlace (some (l, 2))) := by
  have hok : typeOk f = true := by simp [typeOk, htype, hvc]
  have hlink : isLinkFlit f = false := by simp [isLinkFlit, htype, tPROBE, tINIT, tCREDIT]
  refine congrArg Host.Outcome.next ((flitRx_of_up hup (List.mem_singleton.mpr htype) (by rw [htype]; decide)).trans ?_)
  rw [rxFlit_of_control hok hlink hvc, State.takeFlit, htype]
  rfl

/-! ## Credits, probes and time messages (R409, R410, R421, R422) -/

/-- The credits of a lane after a CREDIT flit. -/
def creditsAfter (x : Lane) (f : Flit) : List Nat :=
  (x.credits.zip ([bitsOf f.h2 24 8, bitsOf f.h2 16 8, bitsOf f.h2 8 8, bitsOf f.h2 0 8].zip fullCredits)).map
    fun c => min (c.1 + c.2.1) c.2.2

theorem creditRx_plain (h : f.h3.getLsbD 31 = false) : s.creditRx l f =
    s.setLane l { s.lane l with credits := creditsAfter (s.lane l) f } := if_neg (by rw [h]; exact Bool.false_ne_true)

theorem creditRx_nak (h : f.h3.getLsbD 31 = true) : s.creditRx l f =
    (s.setLane l { s.lane l with credits := creditsAfter (s.lane l) f
                                 again := replayFrom (s.lane l).replay (bitsOf f.h3 0 10) }).satAdd F.chnLcnt_REPLAY 1 l.toNat :=
  if_pos h

theorem pairWords_append (a b : Word) : pairWords (b ++ a) = [a, b] := by
  rw [pairWords, BitVec.extractLsb'_append_eq_right, BitVec.extractLsb'_append_eq_left]

theorem probeRx_request (h : f.h2 = 0) : s.probeRx l f = s.residence.2.linkSend l ⟨0, 13, 0, 0, 0, s.node, 1, 0,
    body12 [f.word 0, f.word 1, s.residence.1.extractLsb' 0 32, s.residence.1.extractLsb' 32 32]⟩ := by
  refine (if_pos h).trans ?_
  rw [pairWords_append]
  rfl

theorem probeRx_of_other (h : f.h2 ≠ 0) (hat : (s.lane l).probeAt ≠ some (f.word 1 ++ f.word 0)) : s.probeRx l f = s :=
  (if_neg h).trans (if_neg hat)

theorem timeRx_of_no_base (h : ∀ n, s.baseOn n = false) (d : Nat) : s.timeRx f d =
    { s with chain := { s.chain with timeSeen := smSet 0 s.chain.timeSeen f.src.toNat (s.ns + 1) } } := by
  have hoff := fun n => show (({ s with chain := { s.chain with timeSeen := smSet 0 s.chain.timeSeen f.src.toNat (s.ns + 1) } } :
    State)).baseOn n = false from h n
  refine eachRef_of_fixed fun n j => if_neg ?_
  rw [hoff]
  exact Bool.false_ne_true

theorem exec_probeTimer_due (hup : (s.lane l).st = .up) (h : (s.lane l).lastProbe + 1000000 ≤ s.ns) :
    exec (.probeTimer l) s = .next (s.setLane l { s.lane l with lastProbe := s.ns, probeDue := true }) :=
  congrArg Host.Outcome.next (if_pos (by rw [hup, decide_eq_true h]; rfl))

theorem exec_probeTimer_early (h : s.ns < (s.lane l).lastProbe + 1000000) : exec (.probeTimer l) s = .next s :=
  congrArg Host.Outcome.next (if_neg (by rw [decide_eq_false (Nat.not_le.mpr h), Bool.and_false]; exact Bool.false_ne_true))

theorem exec_probeTimer_of_not_up (h : (s.lane l).st ≠ .up) : exec (.probeTimer l) s = .next s :=
  congrArg Host.Outcome.next (if_neg (by rw [beq_eq_false_iff_ne.mpr h]; exact Bool.false_ne_true))

/-! ## Messages (R415, R416, R419, R420) -/

theorem forward_here {d : Nat} {p : Option (LaneId × BitVec 2)} (h : f.dest = s.node) : s.forward f d p = s.deliver ⟨f, s.ns, p⟩ :=
  if_pos h

theorem forward_out_of_hops {d : Nat} {p : Option (LaneId × BitVec 2)} (h : f.dest ≠ s.node) (hhops : f.hops = 16) :
    s.forward f d p = (s.stopHops f).freePlace p := (if_neg h).trans (if_pos hhops)

section
variable {d : Nat} {p : Option (LaneId × BitVec 2)} (h : f.dest ≠ s.node) (hhops : f.hops ≠ 16)
include h hhops

theorem forward_on (hage : { f.aged d with hops := f.hops + 1 }.age.toNat < 4000) :
    s.forward f d p = s.dispatch ⟨{ f.aged d with hops := f.hops + 1 }, s.ns, p⟩ :=
  (if_neg h).trans ((if_neg hhops).trans (if_neg (by rw [Flit.expired, decide_eq_false (Nat.not_le.mpr hage)]; exact Bool.false_ne_true)))

theorem forward_too_old (hage : 4000 ≤ { f.aged d with hops := f.hops + 1 }.age.toNat) :
    s.forward f d p = (s.stopAge { f.aged d with hops := f.hops + 1 }).freePlace p :=
  (if_neg h).trans ((if_neg hhops).trans (if_pos (decide_eq_true hage)))

end

theorem stopHops_of_not_items (h : f.type ≠ tITEMS) : s.stopHops f = s.satAdd F.chnCnt_HOP 1 :=
  congrArg (fun u : State => u.satAdd F.chnCnt_HOP 1) (if_neg h)

theorem deliver_items {m : Parked} (h : m.flit.type = 8) :
    s.deliver m = (m.flit.records.foldl (fun v r => v.deliverItem m.flit.src r) s).freePlace m.place := if_pos h

/-- The words of a flit as they wait for their banks: its place in a receive buffer frees with the last of them. -/
def waitingWords (f : Flit) (p : Option (LaneId × BitVec 2)) : List ((Nat × Word) × Option (LaneId × BitVec 2)) :=
  f.runWords.zipIdx.map fun k => (k.1, if k.2 + 1 = f.runWords.length then p else none)

theorem deliver_words {m : Parked} (h : m.flit.type ≠ 8) (hw : m.flit.runWords ≠ []) : s.deliver m =
    ({ s with chain := { s.chain with rwWait := s.chain.rwWait ++ waitingWords m.flit m.place } }).remoteWrites :=
  (if_neg h).trans (if_neg (by rw [List.isEmpty_eq_false_iff.mpr hw]; exact Bool.false_ne_true))

/-! ## The time timer (R422) -/

/-- The time timer, when it is due, sends over the UP lanes and notes its time. -/
theorem exec_timeFlitTimer_due (hen : s.fld F.chnTcfg_EN = 1) (hnet : s.isNet (BitVec.ofNat 4 (s.fld F.chnTcfg_TB)) = true)
    (hst : (s.base (BitVec.ofNat 4 (s.fld F.chnTcfg_TB))).st = .locked ∨ (s.base (BitVec.ofNat 4 (s.fld F.chnTcfg_TB))).st = .holdover)
    (hdue : s.chain.lastTime + 1000 * (s.fld F.chnTcfg_PERIOD) ≤ s.ns) :
    let n := BitVec.ofNat 4 (s.fld F.chnTcfg_TB)
    let b := s.base n
    exec .timeFlitTimer s = .next (
      let s1 := if (s.upLanes 15).isEmpty then s else s.setBase n { b with stepDue := false }
      let s2 := (s1.upLanes 15).foldl (fun s l => s.laneSend l (s.timeFlit (s.lane l).peer 0 b.stepDue b.gen)) s1
      { s2 with chain := { s2.chain with lastTime := s2.ns } }) := by
  refine congrArg Host.Outcome.next (if_pos ?_)
  rw [bit_of_fld_one hen, hnet, decide_eq_true hdue, Bool.and_true, Bool.true_and, Bool.true_and, Bool.or_eq_true, beq_iff_eq, beq_iff_eq]
  exact hst

theorem exec_timeFlitTimer_off (h : s.fld F.chnTcfg_EN = 0) : exec .timeFlitTimer s = .next s := by
  have hoff : s.bit F.chnTcfg_EN = false := bne_eq_false_iff_eq.mpr h
  exact congrArg Host.Outcome.next (if_neg (by rw [hoff]; exact Bool.false_ne_true))

end

/-! ## The tunnel (R423 to R426) -/

section
variable {s : State}

/-- The tunnel is enabled, has its node ID, and has not stopped on an error. -/
theorem tunnelRuns_of (hen : s.fld F.chnTuncfg_EN = 1) (hnode : s.fld F.blkNodeid_LOADED = 1) (hstop : s.chain.tunStopped = false) :
    s.tunnelRuns = true := by
  rw [State.tunnelRuns, bit_of_fld_one hen, bit_of_fld_one hnode, hstop]
  rfl

theorem exec_tunnelPoll_due {a b : BitVec 16} (hruns : s.tunnelRuns = true) (hdue : s.chain.lastPoll + 1000 ≤ s.ns) :
    exec (.tunnelPoll a b) s = .next { s with chain := { s.chain with lastPoll := s.ns, txCidx := a, rxPidx := b } } :=
  congrArg Host.Outcome.next (if_pos (by rw [hruns, decide_eq_true hdue]; rfl))

theorem exec_tunnelPoll_early {a b : BitVec 16} (h : s.ns < s.chain.lastPoll + 1000) : exec (.tunnelPoll a b) s = .next s :=
  congrArg Host.Outcome.next (if_neg (by rw [decide_eq_false (Nat.not_le.mpr h), Bool.and_false]; exact Bool.false_ne_true))

theorem exec_tunnelEntryClose_of_none (h : s.chain.tun = []) : exec .tunnelEntryClose s = .next s := by
  refine congrArg Host.Outcome.next ?_
  rw [State.closeEntry, h]
  rfl

theorem aged_zero {f : Flit} (h : f.age.toNat < 4000) : f.aged 0 = f := by
  have hage : BitVec.ofNat 12 (min 4095 (f.age.toNat + ageUnits 0)) = f.age := by
    rw [show ageUnits 0 = 0 from rfl, Nat.add_zero, Nat.min_eq_right (by omega), BitVec.ofNat_toNat, BitVec.setWidth_eq]
  rw [Flit.aged, hage]

section
variable {e : TunEntry} (hruns : s.tunnelRuns = true) (htun : s.chain.tun = [e]) (hold : e.since + 2000 ≤ s.ns)
include htun hold

theorem find_closing : s.chain.tun.find? (fun e => e.closes s.ns) = some e := by
  rw [htun]
  exact List.find?_cons_of_pos (by rw [TunEntry.closes, decide_eq_true hold, Bool.or_true])

theorem closeEntry_of_full (h : s.txSize ≤ s.txUsed) : s.closeEntry = s := by
  rw [State.closeEntry, find_closing htun hold]
  exact if_pos (by rw [decide_eq_true h, Bool.or_true])

include hruns

/-- An entry of one flit that has just come goes to the ring whole. -/
theorem closeEntry_of_room {f : Flit} (hflits : e.flits = [⟨f, s.ns, none⟩]) (hage : f.age.toNat < 4000) (h : s.txUsed < s.txSize) :
    let seq := smGet 0 s.chain.tunSeq e.dest.toNat
    s.closeEntry = ({ s with chain := { s.chain with tun := [], tunSeq := smSet 0 s.chain.tunSeq e.dest.toNat (seq + 1) } }).smRequest
      (.tunnel (s.txBase + 1536 * ((s.chain.txPidx.toNat + s.tunnelOut) % s.txSize)) (tunnelWords (s.tunnelHeader e.dest 1 seq) [f])) := by
  have hfresh : f.expired = false := decide_eq_false (Nat.not_le.mpr hage)
  rw [State.closeEntry, find_closing htun hold]
  refine (if_neg (by rw [hruns, decide_eq_false (Nat.not_le.mpr h)]; exact Bool.false_ne_true)).trans ?_
  simp only [htun, hflits, List.map_cons, List.map_nil, List.foldl_cons, List.foldl_nil, Nat.sub_self, aged_zero hage, hfresh,
    List.filter_cons, List.filter_nil, List.erase_cons_head, State.freePlace]
  rfl

end

section
variable {r : SmReq} (hr : s.soc.reqs.find? SmReq.isTunnel = some r)
include hr

theorem tunnelResponse_bad : s.tunnelResponse false =
    { ({ s with soc := { s.soc with reqs := s.soc.reqs.erase r } }).raise F.chnTunstat_WERR with
      chain := { s.chain with tunStopped := true } } := by
  rw [State.tunnelResponse, hr]
  rfl

theorem tunnelResponse_entry (h : r.isTunnelEntry = true) :
    let u := { s with soc := { s.soc with reqs := s.soc.reqs.erase r } }
    let v := ({ u with chain := { s.chain with txPidx := s.chain.txPidx + 1 } }).satAdd F.chnTunstat_ENTRIES 1
    s.tunnelResponse true =
      (v.smRequest (.tunnelIndex (v.txBase + 1536 * v.txSize) (s.chain.txPidx + 1))).vector (v.fld F.chnTuncfg_VEC) := by
  rw [State.tunnelResponse, hr]
  exact if_pos h

theorem tunnelResponse_index (h : r.isTunnelEntry = false) :
    s.tunnelResponse true = { s with soc := { s.soc with reqs := s.soc.reqs.erase r } } := by
  rw [State.tunnelResponse, hr]
  exact if_neg (Bool.eq_false_iff.mp h)

end

section
variable {header : BitVec 64} (hruns : s.tunnelRuns = true) (hsome : s.chain.rxCidx ≠ s.chain.rxPidx)
include hruns hsome

theorem tunnelRx_of_entry {flits : List Flit} : s.tunnelRx header flits =
    let u := ({ s with chain := { s.chain with rxCidx := s.chain.rxCidx + 1 } }).smRequest
      (.tunnelIndex (s.rxBase + 1536 * s.rxSize) (s.chain.rxCidx + 1))
    if tunnelEntryOk header flits then
      flits.foldl (fun (s : State) (f : Flit) =>
        if f.type = tITEMS || f.type = tRWRITE then s.forward { f with vc := 3 } 0 none else s) u
    else u.satAdd F.chnTunstat_BAD 1 :=
  if_neg (by rw [hruns, beq_eq_false_iff_ne.mpr hsome]; exact Bool.false_ne_true)

end

end

/-- Settles O46: each kind of flit on a lane that is UP, messages on their way, the timers; then each command of the tunnel. -/
theorem chainFlitsAndTunnel : Obligations.ChainFlitsAndTunnel := by
  refine ⟨fun s l f => ⟨fun hup => ⟨fun ht hvc => ⟨fun hnak => ?credits, fun hnak => ?nak⟩, fun ht hvc hd => ?items,
    fun ht hvc hd hw => ?words, fun ht hvc hd hhops => ?hops, exec_itemsFlitRx_of_wrong_channel hup, fun ht hvc h2 => ?request,
    fun ht hvc h2 hat => ?reply, fun ht hvc hbase => ?time, exec_probeTimer_due hup, exec_probeTimer_early⟩, exec_probeTimer_of_not_up,
    fun g dn p => forward_here, fun g dn p hd hhops => ⟨forward_on hd hhops, forward_too_old hd hhops⟩,
    fun hen hnet hst hdue => ⟨fun hnone => ?noLane, fun hone => ?oneLane⟩, exec_timeFlitTimer_off⟩, fun s => ⟨?poll,
    fun a b => exec_tunnelPoll_early, exec_tunnelEntryClose_of_none, ?close, fun r hr => ⟨?failed, ?entry, ?index⟩, ?rx⟩⟩
  case credits =>
    rw [exec_creditRx hup ht hvc, creditRx_plain hnak, lane_heardOn]
    rfl
  case nak =>
    rw [exec_creditRx hup ht hvc, creditRx_nak hnak, lane_heardOn]
    rfl
  case items =>
    refine (exec_itemsFlitRx hup ht hvc).trans (congrArg Host.Outcome.next ?_)
    exact (forward_here (s := heardOn s l) hd).trans (deliver_items ht)
  case words =>
    refine (exec_rwriteRx hup ht hvc).trans (congrArg Host.Outcome.next ?_)
    exact (forward_here (s := heardOn s l) hd).trans (deliver_words (by rw [ht]; decide) hw)
  case hops =>
    refine (exec_rwriteRx hup ht hvc).trans (congrArg Host.Outcome.next ?_)
    exact (forward_out_of_hops (s := heardOn s l) hd hhops).trans (by rw [stopHops_of_not_items (by rw [ht]; decide), heardOn])
  case request => exact (exec_probeRx hup ht hvc).trans (congrArg Host.Outcome.next (probeRx_request h2))
  case reply =>
    exact (exec_probeRx hup ht hvc).trans (congrArg Host.Outcome.next (probeRx_of_other h2 (by rw [lane_heardOn]; exact hat)))
  case time =>
    rw [exec_timeFlitRx hup ht hvc, timeRx_of_no_base (s := heardOn s l) hbase]
    rfl
  case noLane =>
    rw [exec_timeFlitTimer_due hen hnet hst hdue]
    simp only [hnone, List.isEmpty_nil, if_true, List.foldl_nil]
  case oneLane =>
    have hlanes : ∀ b : Base, (s.setBase (BitVec.ofNat 4 (s.fld F.chnTcfg_TB)) b).upLanes 15 = [l] := fun _ => hone
    rw [exec_timeFlitTimer_due hen hnet hst hdue]
    simp only [hone, hlanes, List.isEmpty_cons, Bool.false_eq_true, if_false, List.foldl_cons, List.foldl_nil]
    rfl
  case poll =>
    rintro a b ⟨hen, hnode, hstop⟩ hdue
    exact exec_tunnelPoll_due (tunnelRuns_of hen hnode hstop) hdue
  case close =>
    rintro e f ⟨hen, hnode, hstop⟩ htun hflits hold hage
    refine ⟨fun hfull => congrArg Host.Outcome.next (closeEntry_of_full htun hold hfull), fun hroom => ?_⟩
    refine congrArg Host.Outcome.next ((closeEntry_of_room (tunnelRuns_of hen hnode hstop) htun hold hflits hage hroom).trans ?_)
    simp only [tunnelWords, List.map_cons, List.map_nil, List.flatten_cons, List.flatten_nil, List.append_nil]
    rfl
  case failed => exact congrArg Host.Outcome.next (tunnelResponse_bad hr)
  case entry => exact fun h => congrArg Host.Outcome.next (tunnelResponse_entry hr h)
  case index => exact fun h => congrArg Host.Outcome.next (tunnelResponse_index hr h)
  case rx =>
    rintro header flits ⟨hen, hnode, hstop⟩ hsome
    have hrx := fun fs => tunnelRx_of_entry (flits := fs) (header := header) (tunnelRuns_of hen hnode hstop) hsome
    refine ⟨fun hbad => congrArg Host.Outcome.next ((hrx flits).trans (if_neg (Bool.eq_false_iff.mp hbad))), fun f hf hok ht => ?_⟩
    subst hf
    refine congrArg Host.Outcome.next ((hrx [f]).trans ((if_pos hok).trans ?_))
    exact if_pos (by rw [ht]; rfl)

end Sys2Proof.Machine

/-!
PROOFS. The fault counters: what an event does when it comes, when it is counted in its window, and the class actions.
-/

namespace Sys2Proof.Machine

section
variable {s : State} {cls : BitVec 4} {inst : BitVec 24}

/-! ## Alarms (R453, R461) -/

/-- A pulse of a source writes no register. -/
theorem reg_pulse (s : State) (n : Nat) (k : RegKind) (i j : Nat) : (s.pulse n).reg k i j = s.reg k i j := rfl

theorem getLsbD_raise {k : RegKind} {lo : Nat} (h : lo < 32) :
    ((s.raise ⟨k, lo, 1⟩).reg k).getLsbD lo = true := by
  have hreg : (s.raise ⟨k, lo, 1⟩).reg k = putBits ((s.noteEvent ⟨k, lo, 1⟩ 1 0 0).reg k) lo 1 1 := reg_setReg_same _ _ _ _ _
  rw [hreg, getLsbD_putBits _ _ _ _ _ (by omega), if_pos (by omega), Nat.sub_self]
  rfl

theorem getLsbD_alarm {level c : Nat} (h1 : 1 ≤ level) (h3 : level ≤ 3) :
    ((s.alarm level c).reg .fltAlm).getLsbD (level - 1) = true := by
  have hraised := getLsbD_raise (s := s) (k := .fltAlm) (lo := level - 1) (by omega)
  have hcause : ∀ (u : State) v, (u.setReg .fltAcause v).reg .fltAlm = u.reg .fltAlm :=
    fun u v => reg_setReg_ne _ _ _ _ _ _ _ _ (by decide)
  simp only [State.alarm, if_neg (show ¬ level = 0 by omega)]
  split
  · rw [reg_pulse, hcause]
    exact hraised
  · rw [hcause]
    exact hraised

theorem safeAlm_alarm {level c : Nat} (h1 : 1 ≤ level) (h3 : level ≤ 3) : (s.alarm level c).safeAlm (level - 1) = (true, false) := by
  rw [State.safeAlm, getLsbD_alarm h1 h3]
  rfl

/-! ## The class action (R452) -/

/-- The state in which a class action takes its effect: the action is counted, its source pulses, its alarm is raised. -/
def State.acting (s : State) (c : Nat) : State :=
  ((s.satAdd F.fltScnt_ACTIONS 1 c).pulse (0xA90 + c)).alarm (s.fld F.fltScfg_ALM c) c

theorem act_silent (h : s.fld F.fltScfg_ACTION cls.toNat = 0 ∨ s.fld F.fltScfg_ACTION cls.toNat = 5) :
    s.act cls inst = s.acting cls.toNat := by
  have heq : s.act cls inst = if s.fld F.fltScfg_ACTION cls.toNat = 0 || s.fld F.fltScfg_ACTION cls.toNat = 5
    then (s.acting cls.toNat).actEffect cls.toNat (s.fld F.fltScfg_ACTION cls.toNat) inst
    else ((s.acting cls.toNat).actEffect cls.toNat (s.fld F.fltScfg_ACTION cls.toNat) inst).faultActionNotice cls
      (BitVec.ofNat 4 (s.fld F.fltScfg_ACTION cls.toNat)) inst := rfl
  rcases h with h | h <;> rw [heq, h] <;> rfl

theorem actEffect_loseBlock {c : Nat} : s.actEffect c 8 inst = s.loseBlock c := by
  simp only [State.actEffect]

theorem act_of_effect {a : Nat} (h : s.fld F.fltScfg_ACTION cls.toNat = a) (h0 : a ≠ 0) (h5 : a ≠ 5) :
    s.act cls inst = ((s.acting cls.toNat).actEffect cls.toNat a inst).faultActionNotice cls (BitVec.ofNat 4 a) inst := by
  subst h
  exact if_neg (by simp [h0, h5])

theorem act_lostBlock (h : s.fld F.fltScfg_ACTION cls.toNat = 8) :
    s.act cls inst = ((s.acting cls.toNat).loseBlock cls.toNat).faultActionNotice cls 8 inst := by
  rw [act_of_effect h (by decide) (by decide), actEffect_loseBlock]
  rfl

/-! ## Counting (R451) -/

/-- The state of an event that is counted: its source pulses and its alarm is raised. -/
def State.eventNoted (s : State) (cls : BitVec 4) (inst : BitVec 24) : State :=
  ((((s.satAdd F.fltScnt_EVENTS 1 cls.toNat).setReg .fltSlast (0x80000000 ||| inst.setWidth 32) cls.toNat).pulse
    (0xA80 + cls.toNat)).alarm (s.fld F.fltScfg_ALM cls.toNat) cls.toNat)

/-- FLT.SLAST of an event: V and the place. -/
theorem slast_word (inst : BitVec 24) : BitVec.ofNat 32 (2 ^ 31 + inst.toNat) = 0x80000000 ||| inst.setWidth 32 := by
  have hlt := inst.isLt
  apply BitVec.eq_of_toNat_eq
  rw [BitVec.toNat_ofNat, BitVec.toNat_or, BitVec.toNat_setWidth, Nat.mod_eq_of_lt (by omega), Nat.mod_eq_of_lt (by omega)]
  exact Nat.two_pow_add_eq_or_of_lt (i := 31) (by omega) 1

theorem countEvent_eq : s.countEvent cls inst =
    let u := s.eventNoted cls inst
    if u.outOfService (s.fld F.fltScfg_ACTION cls.toNat) inst then u
    else match s.fld F.fltScfg_THRESH cls.toNat with
      | 0 => u
      | 1 => u.act cls inst
      | _ => u.track cls inst := by
  rw [State.countEvent, slast_word]
  rfl

section
variable (hin : (s.eventNoted cls inst).outOfService (s.fld F.fltScfg_ACTION cls.toNat) inst = false)
include hin

theorem countEvent_thresh_zero (h : s.fld F.fltScfg_THRESH cls.toNat = 0) : s.countEvent cls inst = s.eventNoted cls inst := by
  simp only [countEvent_eq, hin, h]
  rfl

theorem countEvent_thresh_one (h : s.fld F.fltScfg_THRESH cls.toNat = 1) :
    s.countEvent cls inst = (s.eventNoted cls inst).act cls inst := by
  simp only [countEvent_eq, hin, h]
  rfl

theorem countEvent_tracked (h : 2 ≤ s.fld F.fltScfg_THRESH cls.toNat) :
    s.countEvent cls inst = (s.eventNoted cls inst).track cls inst := by
  obtain ⟨n, hn⟩ := Nat.exists_eq_add_of_le h
  rw [Nat.add_comm] at hn
  simp only [countEvent_eq, hin, hn]
  rfl

end

/-- The tracking entry of one class and place. -/
def Track.isOf (cls : BitVec 4) (inst : BitVec 24) (e : Track) : Bool := e.cls == cls && e.inst == inst

def State.setTrack (s : State) (l : List Track) : State := { s with faults := { s.faults with track := l } }

theorem track_new (hfind : (s.tracked s.ns).find? (Track.isOf cls inst) = none) (hroom : (s.tracked s.ns).length < 256) :
    s.track cls inst = s.setTrack (s.tracked s.ns ++ [⟨cls, inst, 1, s.ns⟩]) := by
  rw [State.track, show (s.tracked s.ns).find? (fun e => e.cls == cls && e.inst == inst) = none from hfind]
  exact if_pos hroom

theorem track_full (hfind : (s.tracked s.ns).find? (Track.isOf cls inst) = none) (hfull : 256 ≤ (s.tracked s.ns).length) :
    s.track cls inst = ((s.setTrack (s.tracked s.ns)).satAdd F.fltStat_TOVF 1).act cls inst := by
  rw [State.track, show (s.tracked s.ns).find? (fun e => e.cls == cls && e.inst == inst) = none from hfind]
  exact if_neg (Nat.not_lt.mpr hfull)

section
variable {e : Track} (hfind : (s.tracked s.ns).find? (Track.isOf cls inst) = some e)
include hfind

theorem track_again (h : e.n + 1 < s.fld F.fltScfg_THRESH cls.toNat) : s.track cls inst =
    s.setTrack ((s.tracked s.ns).map fun x => if Track.isOf cls inst x then { x with n := x.n + 1 } else x) := by
  rw [State.track, show (s.tracked s.ns).find? (fun e => e.cls == cls && e.inst == inst) = some e from hfind]
  exact if_neg (Nat.not_le.mpr h)

theorem track_reached (h : s.fld F.fltScfg_THRESH cls.toNat ≤ e.n + 1) :
    s.track cls inst = (s.setTrack ((s.tracked s.ns).erase e)).act cls inst := by
  rw [State.track, show (s.tracked s.ns).find? (fun e => e.cls == cls && e.inst == inst) = some e from hfind]
  exact if_pos h

end

/-! ## Events and injections (R448, R464) -/

theorem wrInj_of_block {w : Writer} (hw : isBlock w = true) (hc : cls.toNat ≤ 11) :
    s.wrInj w (BitVec.ofNat 32 (2 ^ 31 + 2 ^ 24 * cls.toNat + inst.toNat)) = s.countEvent cls inst := by
  have hinst := inst.isLt
  have hnat : (BitVec.ofNat 32 (2 ^ 31 + 2 ^ 24 * cls.toNat + inst.toNat)).toNat = 2 ^ 31 + 2 ^ 24 * cls.toNat + inst.toNat := by
    rw [BitVec.toNat_ofNat, Nat.mod_eq_of_lt (by omega)]
  have hgo : F.fltInj_GO.get (BitVec.ofNat 32 (2 ^ 31 + 2 ^ 24 * cls.toNat + inst.toNat)) = 1 := by
    simp only [F.fltInj_GO, Fld.get, bitsOf, hnat]
    omega
  have hrest : bitsOf (BitVec.ofNat 32 (2 ^ 31 + 2 ^ 24 * cls.toNat + inst.toNat)) 28 3 = 0 := by
    simp only [bitsOf, hnat]
    omega
  have hcls : F.fltInj_CLASS.get (BitVec.ofNat 32 (2 ^ 31 + 2 ^ 24 * cls.toNat + inst.toNat)) = cls.toNat := by
    simp only [F.fltInj_CLASS, Fld.get, bitsOf, hnat]
    omega
  have hfld : F.fltInj_INSTANCE.get (BitVec.ofNat 32 (2 ^ 31 + 2 ^ 24 * cls.toNat + inst.toNat)) = inst.toNat := by
    simp only [F.fltInj_INSTANCE, Fld.get, bitsOf, hnat]
    omega
  refine (if_neg (by rw [hw]; exact Bool.false_ne_true)).trans ((if_neg ?_).trans ?_)
  · rw [hgo, hrest, hcls]
    simp [hc]
  · rw [hcls, hfld, BitVec.ofNat_toNat, BitVec.ofNat_toNat, BitVec.setWidth_eq, BitVec.setWidth_eq]

theorem wrInj_of_other {w : Writer} (hw : isBlock w = false) (v : Word) : s.wrInj w v = s.authorityFault w :=
  if_pos (by rw [hw]; rfl)

theorem exec_faultInject {w : Writer} : exec (.faultInject w cls inst) s =
    .next (s.access w fun s => s.wrInj w (BitVec.ofNat 32 (2 ^ 31 + 2 ^ 24 * cls.toNat + inst.toNat))) := rfl

/-- A detected event: the memory's own counters, then the word that waits or the fetching channel, then the count. -/
theorem faultEvent_eq (hc : cls.toNat ≤ 11) :
    let taken := { s with faults := { s.faults with events := s.faults.events.erase (cls, inst) } }
    s.faultEvent cls inst = (if cls.toNat = 0 then taken.countEcc (memIdOf inst) true
      else if cls.toNat = 1 then (taken.countEcc (memIdOf inst) false).errorFound (memIdOf inst) (lineOf inst)
      else taken).countEvent cls inst := by
  have h0 : (cls = 0) = (cls.toNat = 0) := propext BitVec.toNat_eq
  have h1 : (cls = 1) = (cls.toNat = 1) := propext BitVec.toNat_eq
  refine (if_neg (Nat.not_le.mpr (by omega))).trans ?_
  simp only [h0, h1]

/-- Settles O48: the event as it comes, the line that has no spare, injections, the count in its window, the alarm pair, and
each class action. -/
theorem faultEvents : Obligations.FaultEvents := by
  intro s cls inst c thresh counted track live mine taken found hc
  refine ⟨congrArg Host.Outcome.next (faultEvent_eq hc), fun m line h => if_pos h, fun w hw => ?_, fun w hw => ?_,
    ⟨fun hout => ?_, fun hin => ⟨countEvent_thresh_zero hin, countEvent_thresh_one hin, fun h2 hthresh => ?_⟩⟩,
    fun level h1 h3 => safeAlm_alarm h1 h3, act_silent, ?_⟩
  · simp only [exec_faultInject, wrInj_of_block hw hc]
  · simp only [exec_faultInject, wrInj_of_other hw]
  · rw [countEvent_eq]
    exact if_pos hout
  · have htrack := countEvent_tracked hin h2
    have hfld : (s.eventNoted cls inst).fld F.fltScfg_THRESH cls.toNat = thresh := hthresh
    exact ⟨fun hf hroom => htrack.trans (track_new hf hroom), fun hf hfull => htrack.trans (track_full hf hfull),
      fun e hf hn => htrack.trans (track_again hf (by rw [hfld]; exact hn)),
      fun e hf hn => htrack.trans (track_reached hf (by rw [hfld]; exact hn))⟩
  · exact ⟨fun h => act_of_effect h (by decide) (by decide), fun h => act_of_effect h (by decide) (by decide),
      fun h => act_of_effect h (by decide) (by decide), fun h => act_of_effect h (by decide) (by decide),
      fun h => act_of_effect h (by decide) (by decide), fun h => act_of_effect h (by decide) (by decide),
      act_lostBlock⟩

end
end Sys2Proof.Machine

/-!
PROOFS. Start-up: which copy of the billet is selected, its sections as they load, the digest, and a flash that fails.
-/

namespace Sys2Proof.Machine

section
variable {s : State}

/-! ## A boot that fails (R483) -/

theorem boot_bootFail (err sec : Byte) :
    (s.bootFail err sec).boot = { s.boot with stage := .failed, err := err, errsec := sec } := by
  simp only [State.bootFail]
  split <;> rfl

theorem bit_fatal_bootFail (err sec : Byte) : (s.bootFail err sec).bit F.fltAlm_FATAL = true := by
  have hset : (s.setFld F.fltAlm_FATAL 1).bit F.fltAlm_FATAL = true :=
    bit_of_fld_one (fld_setFld_same s F.fltAlm_FATAL 1 0 0 (by decide))
  simp only [State.bootFail]
  split <;> exact hset

/-! ## The copies (R468, R474 to R476) -/

/-- The distance of the copies on the flash, from the strap pins. -/
def State.copyDistance (s : State) : Nat := 2 ^ (21 + (s.reg .bootStrap).toNat % 8)

theorem bitsOf_low_three (w : Word) : bitsOf w 0 3 = w.toNat % 8 := by simp [bitsOf]

/-- Copy A, when it is valid, ends before copy B begins, and is not excluded. -/
def State.usableA (s : State) (a : List Byte) : Option (Word × Nat × List SectEntry) :=
  (parseCopy a).filter fun c => decide (c.2.1 ≤ s.copyDistance) && s.boot.excluded != some false

/-- Copy B, when it is valid and not excluded. -/
def State.usableB (s : State) (b : List Byte) : Option (Word × Nat × List SectEntry) :=
  (parseCopy b).filter fun _ => s.boot.excluded != some true

theorem usableA_some {a : List Byte} {x : Word × Nat × List SectEntry} (hp : parseCopy a = some x) (hlen : x.2.1 ≤ s.copyDistance)
    (hex : s.boot.excluded ≠ some false) : s.usableA a = some x := by
  rw [State.usableA, hp, Option.filter_some_pos (by rw [decide_eq_true hlen, bne_iff_ne.mpr hex]; rfl)]

theorem usableA_none {a : List Byte} (h : parseCopy a = none ∨ (∃ x, parseCopy a = some x ∧ s.copyDistance < x.2.1) ∨
    s.boot.excluded = some false) : s.usableA a = none := by
  rw [State.usableA]
  rcases h with hp | ⟨x, hp, hlen⟩ | hex
  · rw [hp]
    rfl
  · rw [hp, Option.filter_some_neg]
    simp [hlen]
  · simp [hex]

theorem usableB_some {b : List Byte} {y : Word × Nat × List SectEntry} (hp : parseCopy b = some y)
    (hex : s.boot.excluded ≠ some true) : s.usableB b = some y := by
  rw [State.usableB, hp, Option.filter_some_pos (p := fun _ => s.boot.excluded != some true) (bne_iff_ne.mpr hex)]

theorem usableB_none {b : List Byte} (h : parseCopy b = none ∨ s.boot.excluded = some true) : s.usableB b = none := by
  rw [State.usableB]
  rcases h with hp | hex
  · rw [hp]
    rfl
  · simp [hex]

theorem headersRead_of_not_rom {a b : List Byte} (h : s.boot.stage ≠ .rom) : s.headersRead a b = s := if_pos (bne_iff_ne.mpr h)

/-- The choice between the copies that can be used. -/
theorem headersRead_of_rom {a b : List Byte} (h : s.boot.stage = .rom) : s.headersRead a b =
    match s.usableA a, s.usableB b with
    | none, none => if s.fld F.bootCause_SOURCE = 4 then s.bootFail s.boot.lastErr s.boot.lastSec else s.bootFail errNoCopy 0
    | some x, none => s.selectCopy false x a
    | none, some y => s.selectCopy true y b
    | some x, some y => if newerSeq y.1 x.1 then s.selectCopy true y b else s.selectCopy false x a := by
  rw [State.usableA, State.usableB, State.copyDistance, ← bitsOf_low_three]
  exact if_neg (by rw [h]; decide)

theorem newerSeq_iff (a b : Word) : newerSeq a b = true ↔ 1 ≤ (a - b).toNat ∧ (a - b).toNat < 2 ^ 31 := by
  rw [newerSeq, Bool.and_eq_true, decide_eq_true_eq, decide_eq_true_eq]

/-! ## Sections (R473, R476, R478) -/

theorem tryInit_keeps (l : LaneId) : (s.tryInit l).boot = s.boot ∧ (s.tryInit l).mem = s.mem ∧ (s.tryInit l).pmem = s.pmem := by
  rw [State.tryInit]
  split <;> exact ⟨rfl, rfl, rfl⟩

/-- The lanes that NODEID lets begin INIT change lanes alone. -/
theorem tryInits_keep (ls : List LaneId) : ∀ s : State,
    (ls.foldl (fun s l => s.tryInit l) s).boot = s.boot ∧ (ls.foldl (fun s l => s.tryInit l) s).mem = s.mem ∧
      (ls.foldl (fun s l => s.tryInit l) s).pmem = s.pmem := by
  induction ls with
  | nil => exact fun _ => ⟨rfl, rfl, rfl⟩
  | cons l ls ih =>
    intro s
    obtain ⟨hboot, hmem, hpmem⟩ := ih (s.tryInit l)
    obtain ⟨hboot1, hmem1, hpmem1⟩ := tryInit_keeps (s := s) l
    exact ⟨hboot.trans hboot1, hmem.trans hmem1, hpmem.trans hpmem1⟩

/-- The boot state after a good section. -/
def State.bootAfter (s : State) (e : SectEntry) (bytes : List Byte) : Boot :=
  let more := s.boot.table.drop (s.boot.next + 1)
  { s.boot with
    next := s.boot.next + 1
    sealWords := if e.type = tySeal then wordsOf bytes else s.boot.sealWords
    critDone := s.boot.critDone || !(more.any SectEntry.crit)
    stage := if more.isEmpty then .sealing else if more.any SectEntry.crit then .critical else .rest }

theorem sectionDone_keeps (e : SectEntry) (bytes : List Byte) : (s.sectionDone e bytes).boot = s.bootAfter e bytes ∧
    (s.sectionDone e bytes).mem = s.mem ∧ (s.sectionDone e bytes).pmem = s.pmem := by
  by_cases h : e.type = tyBlock
  · simp only [State.sectionDone, if_pos h]
    obtain ⟨hboot, hmem, hpmem⟩ := tryInits_keep laneIds { s.setFld F.blkNodeid_LOADED 1 with boot := s.bootAfter e bytes }
    exact ⟨hboot, hmem, hpmem⟩
  · simp only [State.sectionDone, if_neg h]
    exact ⟨rfl, trivial, trivial⟩

section
variable {gap bytes : List Byte} {e : SectEntry} (hentry : s.boot.table[s.boot.next]? = some e)
  (hstage : s.boot.stage = .critical ∨ s.boot.stage = .rest) (hdue : s.soc.due = none)
  (hgap : s.boot.stream.length + gap.length = e.offset) (hlen : bytes.length = e.length)
include hentry hstage hdue hgap hlen

/-- The bytes of the section that the load has reached. -/
theorem sectionArrives_at : s.sectionArrives gap bytes =
    let r := ({ s with boot := { s.boot with stream := s.boot.stream ++ gap ++ bytes } }).loadSection e bytes
    if crc32c bytes ≠ e.crc then r.1.sectionFails errSectionCrc
    else if !r.2 then r.1.sectionFails errSectionFormat
    else r.1.sectionDone e bytes := by
  have hready : (s.boot.stage == .critical || s.boot.stage == .rest) = true := by
    rw [Bool.or_eq_true, beq_iff_eq, beq_iff_eq]
    exact hstage
  rw [State.sectionArrives, hentry]
  refine (if_neg ?_).trans (if_neg ?_)
  · rw [hready, hdue]
    exact Bool.false_ne_true
  · rw [hgap, hlen]
    simp

end

theorem sectionFails_of_excluded {err : Byte} (h : s.boot.excluded ≠ none) :
    s.sectionFails err = s.bootFail err (BitVec.ofNat 8 s.boot.next) := if_pos (Option.isSome_iff_ne_none.mpr h)

/-- A first bad section starts a reload that leaves its copy out. -/
theorem sectionFails_of_first {err : Byte} (h : s.boot.excluded = none) : ∃ straps hold, s.sectionFails err =
    ({ s with fresh := s.fresh + 1
              boot := { s.boot with excluded := some s.boot.copyB, fallback := true, lastErr := err
                                    lastSec := BitVec.ofNat 8 s.boot.next } }.resetDue (.reload 4 straps hold s.soc.lc)) :=
  ⟨s.bootPins.1.1, s.bootPins.1.2, if_neg (by rw [h]; exact Bool.false_ne_true)⟩

/-! ## The critical masters, the digest, the flash (R467, R478, R480) -/

theorem exec_criticalRelease_ready (hdone : s.boot.critDone = true) (hhold : s.boot.hold = false) (hrel : s.boot.released = false)
    (hstage : s.boot.stage = .rest ∨ s.boot.stage = .sealing) : exec .criticalRelease s =
      .next ((({ s with boot := { s.boot with released := true } }).setReg .bootTcrit s.tb0w).releaseRel true false) := by
  refine congrArg Host.Outcome.next (if_pos ?_)
  rw [hdone, hhold, hrel]
  simpa using hstage

theorem exec_criticalRelease_not (h : s.boot.critDone = false ∨ s.boot.hold = true ∨ s.boot.released = true) :
    exec .criticalRelease s = .next s := by
  refine congrArg Host.Outcome.next (if_neg ?_)
  rcases h with h | h | h <;> simp [h]

/-- Writes of the digest registers leave the boot state. -/
theorem boot_putDigest (ws : List Word) (is : List Nat) : ∀ s : State,
    (is.foldl (fun s i => s.setReg .bootDigest (ws.getD i 0) i) s).boot = s.boot := by
  induction is with
  | nil => exact fun _ => rfl
  | cons i is ih => exact fun s => ih (s.setReg .bootDigest (ws.getD i 0) i)

theorem putDigest_boot (ws : List Word) : (s.putDigest ws).boot = s.boot := boot_putDigest ws (List.range 8) s

/-- The first n digest registers, written in order. -/
theorem reg_digest_of_lt (ws : List Word) (n : Nat) : ∀ i < n,
    ((List.range n).foldl (fun s i => s.setReg .bootDigest (ws.getD i 0) i) s).reg .bootDigest i = ws.getD i 0 := by
  induction n with
  | zero => exact fun i hi => absurd hi (Nat.not_lt_zero i)
  | succ n ih =>
    intro i hi
    rw [List.range_succ, List.foldl_append, List.foldl_cons, List.foldl_nil]
    rcases Nat.lt_succ_iff_lt_or_eq.mp hi with hlt | heq
    · rw [reg_setReg_ne]
      · exact ih i hlt
      · simp only [regOff, RegKind.desc]
        omega
    · rw [heq, reg_setReg_same]

theorem reg_putDigest (ws : List Word) {i : Nat} (hi : i < 8) : (s.putDigest ws).reg .bootDigest i = ws.getD i 0 :=
  reg_digest_of_lt ws 8 i hi

theorem tryGo_of_not_hold (h : s.boot.stage ≠ .hold) : s.tryGo = s :=
  if_neg (by rw [beq_eq_false_iff_ne.mpr h]; exact Bool.false_ne_true)

theorem exec_digestValid {tail : List Byte} (htable : s.boot.table ≠ []) (hnext : s.boot.next = s.boot.table.length)
    (hvalid : s.boot.dvalid = false) (hfail : s.boot.stage ≠ .failed) (hhold : s.boot.stage ≠ .hold)
    (hlen : s.boot.stream.length + tail.length = s.boot.total) :
    let u := s.putDigest (sha256 (s.boot.stream ++ tail))
    exec (.digestValid tail) s = .next { u with boot := { u.boot with dvalid := true, stream := [] } } := by
  intro u
  have hboot : u.boot = s.boot := putDigest_boot _
  have hgo := tryGo_of_not_hold (s := { u with boot := { u.boot with dvalid := true, stream := [] } }) (by rw [hboot]; exact hhold)
  refine congrArg Host.Outcome.next ((if_neg ?_).trans hgo)
  rw [List.isEmpty_eq_false_iff.mpr htable, hnext, hvalid, hlen, beq_eq_false_iff_ne.mpr hfail]
  simp

theorem exec_flashTimeout_loading (hstage : s.boot.stage = .rom ∨ s.boot.stage = .critical ∨ s.boot.stage = .rest)
    (hdue : s.soc.due = none) : exec .flashTimeout s = .next (s.bootFail 4 0) := by
  have hloading : s.loading = true := by rcases hstage with h | h | h <;> rw [State.loading, h] <;> rfl
  refine congrArg Host.Outcome.next (if_pos ?_)
  rw [State.readsFlash, hloading, hdue]
  rfl

/-- Settles O51: the choice of the copy, what a section brings, then the releases, the digest and the flash. -/
theorem billetSelectionAndLoad : Obligations.BilletSelectionAndLoad := by
  refine ⟨fun s a b => ⟨fun h => congrArg Host.Outcome.next (headersRead_of_not_rom h), fun hrom => ?copies, fun err sec =>
    ⟨boot_bootFail err sec, bit_fatal_bootFail err sec⟩⟩, fun s => ⟨fun gap bytes e hentry hstage hdue hgap hlen => ?section_,
    exec_criticalRelease_ready, exec_criticalRelease_not, fun tail htable hnext hvalid hfail hhold hlen => ?digest,
    exec_flashTimeout_loading⟩⟩
  case copies =>
    have hexec : exec (.billetHeadersRead a b) s = .next _ := congrArg Host.Outcome.next (headersRead_of_rom hrom)
    refine ⟨fun x y hx hy hoff hex => ?_, fun x hx hoff hex hb => ?_, fun y hy hex ha => ?_, fun ha hb hsrc => ?_, fun ha hb hsrc => ?_⟩
    · have hA := usableA_some hx hoff (by rw [hex]; exact Option.some_ne_none _ |>.symm)
      have hB := usableB_some (s := s) hy (by rw [hex]; exact Option.some_ne_none _ |>.symm)
      rw [hexec, hA, hB]
      exact ⟨fun hnew => congrArg Host.Outcome.next (if_pos ((newerSeq_iff _ _).mpr hnew)),
        fun hold => congrArg Host.Outcome.next (if_neg fun hc => hold ((newerSeq_iff _ _).mp hc))⟩
    · rw [hexec, usableA_some hx hoff hex, usableB_none hb]
      rfl
    · rw [hexec, usableA_none ha, usableB_some hy hex]
      rfl
    · rw [hexec, usableA_none (.inl ha), usableB_none (.inl hb)]
      exact congrArg Host.Outcome.next (if_neg hsrc)
    · rw [hexec, usableA_none (.inl ha), usableB_none (.inl hb)]
      exact congrArg Host.Outcome.next (if_pos hsrc)
  case section_ =>
    intro u r sec
    have hexec : exec (.sectionLoaded gap bytes) s = .next _ :=
      congrArg Host.Outcome.next (sectionArrives_at hentry hstage hdue hgap hlen)
    refine ⟨fun hcrc hok => ?_, fun err herr => ?_⟩
    · obtain ⟨hboot, hmem, hpmem⟩ := sectionDone_keeps (s := r.1) e bytes
      refine ⟨r.1.sectionDone e bytes, hexec.trans (congrArg Host.Outcome.next ?_), hmem, hpmem, by rw [hboot]; rfl, by rw [hboot]; rfl, ?_⟩
      · exact (if_neg (not_not_intro hcrc)).trans (if_neg (by rw [hok]; exact Bool.false_ne_true))
      · rw [hboot]
        simp only [State.bootAfter, List.isEmpty_iff]
    · have hfails : exec (.sectionLoaded gap bytes) s = .next (r.1.sectionFails err) := by
        refine hexec.trans (congrArg Host.Outcome.next ?_)
        rcases herr with ⟨hcrc, rfl⟩ | ⟨hcrc, hbad, rfl⟩
        · exact if_pos hcrc
        · exact (if_neg (not_not_intro hcrc)).trans (if_pos (by rw [hbad]; rfl))
      rw [hfails]
      refine ⟨fun hex => congrArg Host.Outcome.next (sectionFails_of_excluded hex), fun hex => ?_⟩
      obtain ⟨straps, hold, h⟩ := sectionFails_of_first (err := err) hex
      exact ⟨straps, hold, congrArg Host.Outcome.next h⟩
  case digest =>
    have hexec := exec_digestValid htable hnext hvalid hfail hhold hlen
    generalize sha256 (s.boot.stream ++ tail) = ws at hexec ⊢
    have hstage : (s.putDigest ws).boot.stage = s.boot.stage := congrArg Boot.stage (putDigest_boot ws)
    exact ⟨_, hexec, rfl, hstage, fun i hi => reg_putDigest ws hi⟩

end
end Sys2Proof.Machine

/-!
PROOFS. Posted actions, the revalidation pass, the quench and the recomputation after it.
-/

namespace Sys2Proof.Machine

section
variable {s : State} {t : Tid}

/-! ## Posts (R329 to R332, R335, R339, R354) -/

/-- The state in which the posting registers hold the whole action. -/
def State.submitted (s : State) (t : Tid) (p4 : Word) : State := s.setReg .taP4 p4 t.toNat

/-- A post to a channel that is not mirrored is answered at once, and no record of it is sent. -/
theorem exec_post {p4 : Word} (hchan : s.mirrorsChan ((s.submitted t p4).postedAction t).ch = false)
    (hwaits : ∀ x ∈ s.regWaits, x.d ≠ mirrorPlace) :
    exec (.post t p4) s =
      .next (((s.submitted t p4).post t).2.setFld F.taPstat_RESULT ((s.submitted t p4).post t).1 t.toNat) := by
  have hexec : exec (.post t p4) s =
    .next (s.regAtMirror (s.p4Waits t p4) (.thread t) (regOff .taP4 t.toNat 0) p4 fun s => s.wrP4 t p4) := rfl
  have hplace : s.p4Waits t p4 = false := Bool.and_eq_false_iff.mpr (.inl hchan)
  rw [hexec, hplace, regAtMirror_of_room hwaits]
  refine congrArg Host.Outcome.next (if_neg ?_)
  rw [show s.mirrorsChan ((s.setReg .taP4 p4 t.toNat).postedAction t).ch = false from hchan]
  exact Bool.false_ne_true

/-- The registers of a posting port other than P4 stand while P4 is written. -/
theorem reg_submitted {k : RegKind} (hstride : k.desc.stride = 0x20) (hlow : k.desc.base < 0x158010) (hbase : 0x158000 ≤ k.desc.base)
    (p4 : Word) : (s.submitted t p4).reg k t.toNat = s.reg k t.toNat := by
  refine reg_setReg_ne _ _ _ _ _ _ _ _ ?_
  have hP4 : regOff .taP4 t.toNat 0 = 0x158010 + 0x20 * t.toNat := rfl
  rw [hP4, regOff, hstride, Nat.mul_zero]
  omega

section
variable (hmay : s.mayPost t (s.postedAction t).ch = true) (hgood : s.badPost t (s.postedAction t) = false)

theorem post_denied (h : s.mayPost t (s.postedAction t).ch = false) : s.post t =
    (5, if s.chBit F.peCcfg_VOTE (s.postedAction t).ch then s.chSatAdd F.peCerr_DISC 1 (s.postedAction t).ch else s) :=
  if_pos (by rw [h]; rfl)

include hmay

theorem post_bad (h : s.badPost t (s.postedAction t) = true) : s.post t = (4, s) :=
  (if_neg (by rw [hmay]; exact Bool.false_ne_true)).trans (if_pos h)

include hgood

theorem post_place : s.post t = s.place (s.postedAction t) 0 :=
  (if_neg (by rw [hmay]; exact Bool.false_ne_true)).trans (if_neg (Bool.eq_false_iff.mp hgood))

end

section
variable {a : Action} (hahead : a.ahead = false)
include hahead

theorem place_of_not_passed (h : s.passed a.base a.x = false) (lag : Nat) : s.place a lag = s.placeAhead a lag := by
  have ha : { a with ahead := false } = a := by rw [← hahead]
  simp only [State.place, h, ha, Bool.false_eq_true, if_false, Bool.not_false, Bool.or_true, if_true]

/-- A target that has passed drops an action whose LATE says so. -/
theorem place_dropped (h : s.passed a.base a.x = true) (htrig : a.trig = false) (hlate : a.late = 1) (lag : Nat) :
    s.place a lag = (2, s.countDrop a) := by
  simp only [State.place, h, if_true, hahead, htrig, hlate, Bool.not_true, Bool.or_false, Bool.false_eq_true, if_false]
  rfl

end

theorem countDrop_of_no_notice {a : Action} (h : a.ln = false) : s.countDrop a = s.satAdd F.taCnt_DROP 1 :=
  if_neg (Bool.eq_false_iff.mp h)

/-- An action within the horizon whose channel's queue has room is staged. -/
theorem placeAhead_staged {a : Action} {d : Nat} (hd : s.withinHorizon a.base a.x = some d) (hroom : s.queueRoom a.ch = true) :
    s.placeAhead a 0 = (0, s.enqueue
      ⟨a, if d ≤ s.cycle then s.cycle + 2 else d, s.genOf a.base, decide (d ≤ s.cycle), false, 0, s.spanFrom a d⟩) := by
  have hstage : s.stageAt a d false 0 = s.enqueue
      ⟨a, if decide (d ≤ s.cycle) = true then s.cycle + 2 else d, s.genOf a.base, decide (d ≤ s.cycle), false, 0, s.spanFrom a d⟩ := rfl
  rw [State.placeAhead, hd]
  refine (if_pos hroom).trans ?_
  rw [hstage]
  simp only [decide_eq_true_eq]
  rfl

theorem placeAhead_stored {a : Action} (h : s.withinHorizon a.base a.x = none ∨ s.queueRoom a.ch = false) (lag : Nat) :
    s.placeAhead a lag = s.toPend a := by
  rw [State.placeAhead]
  split
  · rename_i d hd
    exact if_neg (Bool.eq_false_iff.mp (h.resolve_left (by rw [hd]; exact Option.some_ne_none _)))
  · rfl

theorem toPend_of_room {a : Action} (h : s.pend.length < 8192) : s.toPend a = (1, { s with pend := s.pend ++ [a] }) := if_pos h

theorem toPend_of_full {a : Action} (h : 8192 ≤ s.pend.length) : s.toPend a = (3, s) := if_neg (Nat.not_lt.mpr h)

/-! ## The revalidation pass (R336) -/

/-- Nothing is staged at any channel. -/
theorem staged_flatten_nil {m : SMap Channel} (h : ∀ kv ∈ m, kv.2.staged = []) : (m.map fun kv => kv.2.staged).flatten = [] := by
  rw [List.flatten_eq_nil_iff]
  rintro l hl
  obtain ⟨kv, hkv, rfl⟩ := List.mem_map.mp hl
  exact h kv hkv

theorem exec_revalidationPass_again (h : s.passDone = s.cycle / 1024 + 1) : exec .revalidationPass s = .next s :=
  congrArg Host.Outcome.next (if_pos h)

theorem exec_revalidationPass (h : s.passDone ≠ s.cycle / 1024 + 1) :
    exec .revalidationPass s = .next { s.pass with passDone := s.cycle / 1024 + 1 } := congrArg Host.Outcome.next (if_neg h)

section
variable (hstaged : ∀ kv ∈ s.channels, kv.2.staged = [])
include hstaged

theorem pass_of_empty (h : s.pend = []) : s.pass = s := by
  simp only [State.pass, staged_flatten_nil hstaged, List.foldl_nil, h]
  rfl

theorem pass_of_one {a : Action} (h : s.pend = [a]) : s.pass = (({ s with pend := [] }).place a 0).2 := by
  have hleft : { s with pend := s.pend.erase a } = { s with pend := [] } := by rw [h, List.erase_cons_head]
  have hone : s.passPend a = (({ s with pend := [] }).place a 0).2 := congrArg (fun u : State => (u.place a 0).2) hleft
  simp only [State.pass, staged_flatten_nil hstaged, List.foldl_nil, h]
  exact hone

end

/-! ## The quench (R340, R342) -/

section
variable {n : BaseId} {g : Nat} {gen : Byte}

theorem quench_none (h : (s.base n).quenches = []) : s.quench n = s := by rw [State.quench, h]

theorem quench_early {more : List (Nat × Byte)} (h : (s.base n).quenches = (g, gen) :: more) (hearly : s.cycle < g + 2) :
    s.quench n = s := by
  rw [State.quench, h]
  exact if_neg (Nat.not_le.mpr hearly)

theorem quench_due {more : List (Nat × Byte)} (h : (s.base n).quenches = (g, gen) :: more) (hdue : g + 2 ≤ s.cycle) :
    s.quench n = s.applyQuench n g gen := by
  rw [State.quench, h]
  exact if_pos hdue

/-- What a withdrawal leaves of a channel. -/
def State.withoutQuenched (s : State) (n : BaseId) (g : Nat) (gen : Byte) (c : Channel) : Channel :=
  if c.staged.any (s.quenched n g gen) then
    { c with staged := unpair (c.staged.filter fun x => !s.quenched n g gen x), trig := false } else c

/-- Every staged entry. -/
def State.allStaged (s : State) : List Staged := (s.channels.map fun kv => kv.2.staged).flatten

/-- Without arrivals and without notices, the withdrawn entries wait for their recomputation. -/
theorem applyQuench_quiet (harr : s.arrivals = []) (hqn : ∀ kv ∈ s.channels, ∀ x ∈ kv.2.staged, x.act.qn = false) :
    s.applyQuench n g gen = (({ s with channels := smMap {} s.channels fun _ c => s.withoutQuenched n g gen c } : State).setBase n
      { s.base n with quenches := (s.base n).quenches.drop 1, recompAt := some g
                      recomp := (s.base n).recomp ++ ((s.allStaged.filter (quenchEnd n gen)).filter
                        fun x => !(s.base n).recomp.contains x) ++ s.allStaged.filter (s.quenched n g gen) }).satAdd F.taCnt_QUENCH 1 := by
  have hq : ∀ x ∈ s.allStaged.filter (s.quenched n g gen), x.act.qn = false := by
    intro x hx
    obtain ⟨l, hl, hxl⟩ := List.mem_flatten.mp (List.mem_filter.mp hx).1
    obtain ⟨kv, hkv, rfl⟩ := List.mem_map.mp hl
    exact hqn kv hkv x hxl
  have hnone : (s.allStaged.filter (s.quenched n g gen)).filter (fun x => x.act.qn) = [] :=
    List.filter_eq_nil_iff.mpr fun x hx => by rw [hq x hx]; exact Bool.false_ne_true
  have hall : (s.allStaged.filter (s.quenched n g gen)).filter (fun x => !x.act.qn) = s.allStaged.filter (s.quenched n g gen) :=
    List.filter_eq_self.mpr fun x hx => by rw [hq x hx]; rfl
  rw [State.allStaged] at hnone hall ⊢
  simp only [State.applyQuench, harr, List.filter_nil, List.map_nil, List.append_nil, hnone, hall, List.foldl_nil]
  rfl

theorem mem_smMap {α : Type} [DecidableEq α] {d : α} {f : Nat → α → α} {m : SMap α} {k : Nat} :
    smGet d (smMap d m f) k = d ∨ ∃ kv ∈ m, smGet d (smMap d m f) k = f kv.1 kv.2 := by
  induction m with
  | nil => exact .inl rfl
  | cons kv m ih =>
    have hrest : smGet d (smMap d m f) k = d ∨ ∃ kv' ∈ kv :: m, smGet d (smMap d m f) k = f kv'.1 kv'.2 :=
      ih.imp_right fun ⟨kv', hmem, h⟩ => ⟨kv', List.mem_cons_of_mem kv hmem, h⟩
    by_cases hd : f kv.1 kv.2 = d
    · have hhead : smMap d (kv :: m) f = smMap d m f := List.filterMap_cons_none (if_pos hd)
      rwa [hhead]
    · have hhead : smMap d (kv :: m) f = (kv.1, f kv.1 kv.2) :: smMap d m f := List.filterMap_cons_some (if_neg hd)
      rw [hhead, smGet]
      split
      · exact .inr ⟨kv, List.mem_cons_self, rfl⟩
      · exact hrest

/-- An entry whose pair is dissolved keeps its action, its generation and its deadline. -/
theorem mem_unpair {l : List Staged} {x : Staged} (h : x ∈ unpair l) : ∃ y ∈ l, x = y ∨ x = { y with pair := 0 } := by
  obtain ⟨y, hy, rfl⟩ := List.mem_map.mp h
  refine ⟨y, hy, ?_⟩
  split
  · exact .inr rfl
  · exact .inl rfl

/-- An entry that the withdrawal leaves, or its copy without a pair, was not withdrawn. -/
theorem mem_withoutQuenched {c : Channel} {x : Staged} (h : x ∈ (s.withoutQuenched n g gen c).staged) :
    ∃ y, s.quenched n g gen y = false ∧ (x = y ∨ x = { y with pair := 0 }) := by
  rw [State.withoutQuenched] at h
  split at h
  · obtain ⟨y, hy, hxy⟩ := mem_unpair h
    exact ⟨y, by simpa using (List.mem_filter.mp hy).2, hxy⟩
  · next hany => exact ⟨x, by simpa using fun hq => hany (List.any_eq_true.mpr ⟨x, h, hq⟩), .inl rfl⟩

/-- Of the older entries of a base, those that no vote and no trigger holds and that stay were due. -/
theorem deadline_of_not_quenched {y : Staged} (h : s.quenched n g gen y = false) (hold : y.olderThan n gen = true)
    (hend : y.ending = false) (htrig : y.act.trig = false) (hvote : s.chFld F.peCcfg_VOTE y.act.ch = 0) : y.deadline ≤ g + 1 := by
  simpa [State.quenched, State.dueBy, hold, hend, htrig, chBit_of_zero hvote] using h

end

/-! ## Recomputation (R341) -/

section
variable {n : BaseId} {x : Staged}

theorem exec_quenchRecompute_not (h : s.recomputes n = false) : exec (.quenchRecompute n) s = .next s :=
  congrArg Host.Outcome.next (if_neg (Bool.eq_false_iff.mp h))

theorem recomputes_none (h : (s.base n).recompAt = none) : s.recomputes n = false := by rw [State.recomputes, h]

theorem recomputes_eq {g : Nat} (h : (s.base n).recompAt = some g) :
    s.recomputes n = (decide (g + 3 ≤ s.cycle) && (s.base n).recompStep != s.cycle + 1) := by rw [State.recomputes, h]

/-- The channel of one action to recompute. -/
theorem recompChannels_one (x : Staged) : recompChannels [x] = [x.act.ch] := by
  have hinj : ∀ i ∈ List.range 512, ∀ j ∈ List.range 512, (BitVec.ofNat 9 i : Chan) = BitVec.ofNat 9 j → i = j := by
    intro i hi j hj h
    have hnat := congrArg BitVec.toNat h
    rwa [BitVec.toNat_ofNat, BitVec.toNat_ofNat, Nat.mod_eq_of_lt (List.mem_range.mp hi), Nat.mod_eq_of_lt (List.mem_range.mp hj)] at hnat
  have hnodup : ((List.range 512).map fun i => (BitVec.ofNat 9 i : Chan)).Nodup := List.nodup_range.map_on hinj
  have hmem : x.act.ch ∈ (List.range 512).map fun i => (BitVec.ofNat 9 i : Chan) :=
    List.mem_map.mpr ⟨x.act.ch.toNat, List.mem_range.mpr x.act.ch.isLt, by rw [BitVec.ofNat_toNat, BitVec.setWidth_eq]⟩
  have hids : (((List.range 512).map fun i => (BitVec.ofNat 9 i : Chan)).filter fun ch => [x].any fun y => y.act.ch == ch) =
      [x.act.ch] := by
    simp only [List.any_cons, List.any_nil, Bool.or_false]
    rw [List.filter_congr (q := fun ch => ch == x.act.ch) fun _ _ => Bool.beq_comm, List.filter_beq,
      List.count_eq_one_of_mem hnodup hmem]
    rfl
  rw [recompChannels, hids]
  rfl

/-- One action that is left is placed anew, and the recomputation ends when nothing is left. -/
theorem recompute_one (h : (s.base n).recomp = [x]) (hend : x.ending = false) :
    let v := ((s.setBase n { s.base n with recomp := [] }).place x.act 2).2
    s.recompute n = v.setBase n { v.base n with
      recompStep := s.cycle + 1, recompAt := if (v.base n).recomp.isEmpty then none else (v.base n).recompAt } := by
  have hone : s.recompute1 n x = ((s.setBase n { s.base n with recomp := [] }).place x.act 2).2 := by
    simp only [State.recompute1, h, hend, List.erase_cons_head]
    rfl
  have hnow : ((recompChannels [x]).take 32).filterMap (fun ch => nextRecomp ([x].filter fun y => y.act.ch == ch)) = [x] := by
    simp [recompChannels_one, nextRecomp]
  simp only [State.recompute, h, hnow, List.foldl_cons, List.foldl_nil, hone]

end

/-- Settles O40: the answers to a post, the pass, the withdrawal with what it leaves, and the recomputation. -/
theorem postingAndQuench : Obligations.PostingAndQuench := by
  refine ⟨fun s t p4 => ?post, fun s n => ?rest⟩
  case post =>
    intro u a answered entries hchan hwaits
    have hexec := exec_post (t := t) (p4 := p4) hchan hwaits
    have hanswer : ∀ {code : Nat} {v : State}, u.post t = (code, v) → exec (.post t p4) s = .next (answered v code) := by
      intro code v h
      have h' : (s.submitted t p4).post t = (code, v) := h
      rw [hexec, h']
    have hroom : u.queueRoom a.ch = decide (entries < 64) := rfl
    refine ⟨?fields, fun hmay hvote => ?_, fun hmay hvote => ?_, fun hmay hbad => hanswer (post_bad hmay hbad),
      fun hmay hgood hpassed => ?ahead, fun hmay hgood hpassed htrig hlate hln => ?_⟩
    case fields =>
      have hP0 : u.reg .taP0 t.toNat = s.reg .taP0 t.toNat := reg_submitted (by decide) (by decide) (by decide) p4
      have hP1 : u.reg .taP1 t.toNat = s.reg .taP1 t.toNat := reg_submitted (by decide) (by decide) (by decide) p4
      have hP2 : u.reg .taP2 t.toNat = s.reg .taP2 t.toNat := reg_submitted (by decide) (by decide) (by decide) p4
      have hP3 : u.reg .taP3 t.toNat = s.reg .taP3 t.toNat := reg_submitted (by decide) (by decide) (by decide) p4
      have hP4 : u.reg .taP4 t.toNat = p4 := reg_setReg_same _ _ _ _ _
      refine ⟨?_, ?_, ?_, ?_, hP3, rfl, ?_, ?_⟩
      · exact congrArg (fun v : Word => v.extractLsb' 28 4) hP0
      · exact congrArg (fun v : Word => v.extractLsb' 25 3) hP0
      · exact congrArg (fun v : Word => v.extractLsb' 12 9) hP0
      · exact congrArg₂ (fun x y : Word => x ++ y) hP2 hP1
      · exact congrArg (fun v : Word => v.getLsbD 31) hP4
      · exact congrArg (fun v : Word => v.getLsbD 30) hP4
    case ahead =>
      have hplace := (post_place hmay hgood).trans (place_of_not_passed rfl hpassed 0)
      refine ⟨fun d hd hlt => hanswer (hplace.trans (placeAhead_staged hd (hroom.trans (decide_eq_true hlt)))), fun d hd hfull hpend => ?_,
        fun hd hpend => ?_, fun hd hfull => ?_⟩
      · exact hanswer ((hplace.trans (placeAhead_stored (.inr (hroom.trans (decide_eq_false (Nat.not_lt.mpr hfull)))) 0)).trans
          (toPend_of_room hpend))
      · exact hanswer ((hplace.trans (placeAhead_stored (.inl hd) 0)).trans (toPend_of_room hpend))
      · exact hanswer ((hplace.trans (placeAhead_stored (.inl hd) 0)).trans (toPend_of_full hfull))
    · exact hanswer ((post_denied hmay).trans (by rw [chBit_of_zero hvote]; rfl))
    · exact hanswer ((post_denied hmay).trans (by rw [chBit_of_one hvote]; rfl))
    · refine hanswer (((post_place hmay hgood).trans (place_dropped rfl hpassed htrig hlate 0)).trans ?_)
      rw [countDrop_of_no_notice hln]
  case rest =>
    intro b lap
    refine ⟨exec_revalidationPass_again, fun hlap hstaged => ⟨fun hpend => ?_, fun a hpend => ?_⟩,
      fun h => congrArg Host.Outcome.next (quench_none h), fun g gen more h hearly => congrArg Host.Outcome.next (quench_early h hearly),
      fun g gen more h hdue harr hqn => ⟨?_, ?_⟩, fun h => exec_quenchRecompute_not (recomputes_none h), fun g h hnot => ?_,
      fun g x h hdue hstep hone hend => ?_⟩
    · rw [exec_revalidationPass hlap, pass_of_empty hstaged hpend]
    · rw [exec_revalidationPass hlap, pass_of_one hstaged hpend]
    · refine congrArg Host.Outcome.next ((quench_due h hdue).trans ((applyQuench_quiet harr hqn).trans ?_))
      rw [h]
      rfl
    · intro ch x hx hbase hgen0 hgen1 hend htrig hvote
      have hold : x.olderThan n gen = true := by
        rw [Staged.olderThan, decide_eq_true hgen0, decide_eq_true hgen1, hbase, beq_self_eq_true]
        rfl
      have hstaged : ∃ c, x ∈ (s.withoutQuenched n g gen c).staged := by
        rcases mem_smMap (d := ({} : Channel)) (m := s.channels) (k := ch.toNat) (f := fun _ c => s.withoutQuenched n g gen c) with
          hnone | ⟨kv, -, hsome⟩
        · exact absurd (show x ∈ ({} : Channel).staged from hnone ▸ hx) List.not_mem_nil
        · exact ⟨kv.2, hsome ▸ hx⟩
      obtain ⟨c, hc⟩ := hstaged
      obtain ⟨y, hy, rfl | rfl⟩ := mem_withoutQuenched hc
      · exact deadline_of_not_quenched hy hold hend htrig hvote
      · exact deadline_of_not_quenched (y := y) hy hold hend htrig hvote
    · refine exec_quenchRecompute_not ((recomputes_eq h).trans (Bool.and_eq_false_iff.mpr ?_))
      exact hnot.imp (fun hlt => decide_eq_false (Nat.not_le.mpr hlt)) bne_eq_false_iff_eq.mpr
    · have hgo : s.recomputes n = true := by rw [recomputes_eq h, decide_eq_true hdue, bne_iff_ne.mpr hstep]; rfl
      exact congrArg Host.Outcome.next ((if_pos hgo).trans (recompute_one hone hend))

end
end Sys2Proof.Machine

/-!
PROOFS. The signal engine: packets read, lookups begun, fills and write-backs that return, and changes of the directory.
-/

namespace Sys2Proof.Machine

section
variable {s : State}

/-! ## Reading packets (R358) -/

theorem exec_sigPacketRead_none (h : s.nextOffer = none) : exec .sigPacketRead s = .next s := by
  have hexec : exec .sigPacketRead s = execSigPacketRead s := rfl
  rw [hexec, execSigPacketRead, h]

/-- The engine works: its domain is ON and it is not lost. -/
theorem sigWorks_of (hon : (s.dom 20).st = .on) (hlost : s.faults.sigLost = false) : s.sigWorks = true := by
  rw [State.sigWorks, hon, hlost]
  rfl

theorem exec_sigPacketRead {q : Qid} (hworks : s.sigWorks = true) (hoffer : s.nextOffer = some q)
    (hquad : (s.dom (16 + (quadrantOf q).toNat)).st = .on) : exec .sigPacketRead s = .next (s.readCandidate q) := by
  have hexec : exec .sigPacketRead s = execSigPacketRead s := rfl
  rw [hexec, execSigPacketRead, hoffer]
  exact congrArg Host.Outcome.next ((if_pos hworks).trans (atDomain_on s _ _ hquad))

section
variable {q : Qid} {items : List (BitVec 64)} {u : State} (hcap : s.captureEntry q = none)
  (hread : s.sigRead q (min (s.queue q).depth (16384 - s.storeUse)) [] = (items, u))
include hcap hread

theorem readCandidate_nothing (h : items = []) : s.readCandidate q = u := by
  subst h
  simp only [State.readCandidate, hcap, hread]
  rfl

theorem readCandidate_some {last : BitVec 64} (h : items.getLast? = some last) : s.readCandidate q = u.storePart q items := by
  have hne : items.isEmpty = false := List.isEmpty_eq_false_iff.mpr fun hnil => by rw [hnil] at h; exact nomatch h
  simp only [State.readCandidate, hcap, hread, hne]
  rfl

end

theorem storePart_goesOn {q : Qid} {items : List (BitVec 64)} {last : BitVec 64} {p : SigPacket} (h : items.getLast? = some last)
    (hpart : s.partRead = some p) :
    s.storePart q items = s.replacePacket { p with items := p.items ++ items, whole := itemEnd last } := by
  simp only [State.storePart, h, hpart]

theorem storePart_begins {q : Qid} {items : List (BitVec 64)} {last : BitVec 64} (h : items.getLast? = some last)
    (hpart : s.partRead = none) : s.storePart q items = { s.bump with sigPackets := s.bump.sigPackets ++
      [{ id := s.bump.seq, q := q, items := items, whole := itemEnd last, started := false, lines := [], frame := none
         next := 0, waiting := none }] } := by
  simp only [State.storePart, h, hpart]

/-! ## Lookups (R359, R361, R370, R373, R375) -/

section
variable {q : Qid} {p : SigPacket} (hfind : s.sigPackets.find? (fun p => p.q == q) = some p) (hwait : p.waiting = none)
include hfind

theorem exec_directoryLookup_part (h : p.whole = false) : exec (.directoryLookup q) s = .next s := by
  have hexec : exec (.directoryLookup q) s = execDirectoryLookup q s := rfl
  rw [hexec, execDirectoryLookup, hfind]
  exact congrArg Host.Outcome.next (if_neg (by rw [h]; exact Bool.false_ne_true))

include hwait

theorem exec_directoryLookup_whole (h : p.whole = true) : exec (.directoryLookup q) s = .next (s.lookup p) := by
  have hexec : exec (.directoryLookup q) s = execDirectoryLookup q s := rfl
  rw [hexec, execDirectoryLookup, hfind]
  exact congrArg Host.Outcome.next (if_pos (by rw [h, hwait]; rfl))

end

/-- A probe of a packet that has read no line stops at a line that the cache does not hold. -/
theorem probe_of_missing {p : SigPacket} {ch : Chan} {key : Word} {home size n i : Nat} {seen : List Nat} (hlines : p.lines = [])
    (h : s.cached ((home + i) % size) = none) : s.probe p ch key home size (n + 1) i seen = (.need ((home + i) % size), seen) := by
  simp only [State.probe, State.lineFor, hlines, smGet, List.isEmpty_nil, if_true, h, Option.map_none]

section
variable {p : SigPacket} (hworks : s.sigWorks = true)
include hworks

/-- A packet without an accepted key is dropped and counted. -/
theorem lookup_rejected (hstart : p.started = false) (hkey : s.packetKey p.items = none) :
    s.lookup p = (s.dropPacket p).satAdd F.sigCnt_COUNT 1 8 := by
  refine (if_neg (by rw [hworks]; exact Bool.false_ne_true)).trans ?_
  simp only [hstart, Bool.false_eq_true, if_false, hkey]
  rfl

/-- A lookup that has no line yet needs its home line. -/
theorem lookup_needs_home {ch : Chan} {key : Word} (hstart : p.started = true) (hkey : p.key = some (ch, key))
    (hframe : p.frame = none) (hlines : p.lines = [])
    (hnone : s.cached (homeLine (s.fld F.sigCfg_BLOG) ch key % 2 ^ s.fld F.sigCfg_BLOG) = none) :
    s.lookup p = s.needLine { p with waiting := none, fill := 0 } (homeLine (s.fld F.sigCfg_BLOG) ch key % 2 ^ s.fld F.sigCfg_BLOG) := by
  obtain ⟨id, q, items, whole, started, lines, frame, next, key', waiting, fill⟩ := p
  subst hstart hkey hframe hlines
  refine (if_neg (by rw [hworks]; exact Bool.false_ne_true)).trans ?_
  simp only [if_true, probe_of_missing, Nat.add_zero, hnone]
  rfl

end

section
variable {p : SigPacket} {l : Nat}

/-- With the directory off a packet that needs a line goes to the slag queue. -/
theorem needLine_off (h : s.fld F.sigCfg_DIRON = 0) : s.needLine p l = (s.dropPacket p).noRouteYet p := by
  have hoff : s.bit F.sigCfg_DIRON = false := bne_eq_false_iff_eq.mpr h
  exact if_neg (by rw [hoff]; exact Bool.false_ne_true)

/-- The first fill of a line is asked for at once. -/
theorem needLine_asks (h : s.fld F.sigCfg_DIRON = 1) (hfills : s.fills = []) (hback : l ∉ s.writeBacks) :
    let v := { s.bump with fills := [{ line := l, install := true, drop := false, id := s.bump.seq }] }
    s.needLine p l = ((v.satAdd F.sigCnt_COUNT 1 2).smRequest (.fill l (s.lineAddr l))).replacePacket
      { p with waiting := some l, fill := s.bump.seq } := by
  have hask : s.askFill l = (s.bump.seq, (({ s.bump with fills := s.bump.fills ++
      [{ line := l, install := true, drop := false, id := s.bump.seq }] } : State).sigCount 2).smRequest (.fill l (s.lineAddr l))) := by
    rw [State.askFill, hfills]
    refine if_neg ?_
    rw [State.outstanding, hfills, List.contains_eq_mem, decide_eq_false hback]
    decide
  refine (if_pos (bit_of_fld_one h)).trans ?_
  rw [hask, show s.bump.fills = [] from hfills]
  rfl

end

/-! ## Fills and write-backs that return (R373, R374) -/

theorem reissueFills_of_no_packets (h : s.sigPackets = []) : s.reissueFills = s := by rw [State.reissueFills, h]; rfl

theorem resumeLookups_of_no_packets (n : Nat) (h : s.sigPackets = []) : s.resumeLookups n = s := by rw [State.resumeLookups, h]; rfl

theorem retryInstalls_of_no_fills (h : s.fills = []) : s.retryInstalls = s := by rw [State.retryInstalls, h]; rfl

theorem sigPackets_writeBack (l : Nat) (x : CacheLine) : (s.writeBack l x).sigPackets = s.sigPackets := by
  rw [State.writeBack]
  split <;> rfl

/-- A line that is installed leaves the packets as they are. -/
theorem sigPackets_installLine {l : Nat} {ws : List Word} {v : State} (h : s.installLine l ws = some v) : v.sigPackets = s.sigPackets := by
  simp only [State.installLine] at h
  split at h
  · cases h; rfl
  · split at h
    · cases h; rfl
    · split at h
      · cases h; rfl
      · split at h
        · cases h
        · cases h
          exact sigPackets_writeBack _ _

theorem sigPackets_keepLine (f : SigFill) (ws : List Word) : (s.keepLine f ws).sigPackets = s.sigPackets := by
  rw [State.keepLine]
  split
  · rfl
  · split
    · next h => exact sigPackets_installLine h
    · rfl

theorem keepLine_of_dropped {f : SigFill} (h : f.install = false) (ws : List Word) : s.keepLine f ws = s :=
  if_pos (by rw [h]; rfl)

theorem keepLine_of_install {f : SigFill} {l : Nat} (h : f.install = true) (hline : f.line = l) (ws : List Word) : s.keepLine f ws =
    match s.installLine l ws with
    | some v => v
    | none => { s with fills := s.fills ++ [{ f with got := some ws }] } := by
  subst hline
  exact if_neg (by rw [h]; decide)

section
variable {l : BitVec 21} {words : List Word} {f : SigFill} (hfills : s.fills = [f]) (hline : f.line = l.toNat)
  (hdrop : f.drop = false) (hgot : f.got = none) (hpackets : s.sigPackets = [])
include hfills hline hdrop hgot hpackets

/-- The state in which the only fill has returned. -/
def State.fillTaken (s : State) (l : Nat) : State :=
  { s with fills := [], soc := { s.soc with reqs := s.soc.reqs.erase (.fill l (s.lineAddr l)) } }

/-- The only fill of an engine without packets returns: its line is kept, or its failure is noted. -/
theorem exec_fillReturn (ok : Bool) : exec (.directoryFillReturn l ok words) s = .next (
    if ok then (s.fillTaken l.toNat).keepLine f ((words ++ List.replicate 16 0).take 16)
    else ((s.fillTaken l.toNat).raise F.sigStat_FERR).satAdd F.sigCnt_COUNT 1 9) := by
  have hexec : exec (.directoryFillReturn l ok words) s =
    .next (s.fillReturn l.toNat ok ((words ++ List.replicate 16 0).take 16)) := rfl
  have hfind : s.fills.find? (fun f => f.line == l.toNat && f.got.isNone) = some f := by
    rw [hfills]
    exact List.find?_cons_of_pos (by rw [hline, hgot, beq_self_eq_true]; rfl)
  have hquiet : ∀ u : State, u.sigPackets = [] → ∀ n, (u.resumeLookups n).reissueFills = u := fun u h n => by
    rw [resumeLookups_of_no_packets n h, reissueFills_of_no_packets h]
  rw [hexec, State.fillReturn, hfind]
  refine congrArg Host.Outcome.next ?_
  simp only [hdrop, Bool.false_eq_true, if_false, hpackets, hfills, List.erase_cons_head, List.map_nil, List.filter_nil,
    List.foldl_nil]
  cases ok
  case false =>
    refine (if_neg Bool.false_ne_true).trans ((reissueFills_of_no_packets rfl).trans ?_)
    simp only [State.fillTaken, hpackets]
    rfl
  case true =>
    refine (if_pos rfl).trans ((hquiet _ ((sigPackets_keepLine _ _).trans rfl) _).trans ?_)
    simp only [State.fillTaken, hpackets]
    rfl

end

theorem exec_writeBackResponse {l : BitVec 21} {ok : Bool} (hback : l.toNat ∈ s.writeBacks) (hpackets : s.sigPackets = [])
    (hfills : s.fills = []) : exec (.directoryWriteBackResponse l ok) s = .next { s with
      writeBacks := s.writeBacks.erase l.toNat
      soc := { s.soc with reqs := s.soc.reqs.eraseP fun r => match r with | .writeBack k _ _ => k == l.toNat | _ => false } } := by
  refine congrArg Host.Outcome.next ((if_pos (List.contains_iff_mem.mpr hback)).trans ?_)
  refine (congrArg State.reissueFills (retryInstalls_of_no_fills ?_)).trans ((reissueFills_of_no_packets ?_).trans ?_)
  · exact hfills
  · exact hpackets
  · rfl

/-! ## Changes of the directory (R375, R378, R379) -/

section
variable {w : Writer} (hw : isBlock w = true)

/-- The word of an invalidation says GO and names its line. -/
theorem invalidateWord_fields (l : BitVec 21) :
    F.sigInv_GO.get (F.sigInv_GO.put (l.setWidth 32) 1) = 1 ∧ bitsOf (F.sigInv_GO.put (l.setWidth 32) 1) 21 10 = 0 ∧
      F.sigInv_LINE.get (F.sigInv_GO.put (l.setWidth 32) 1) = l.toNat := by
  refine ⟨bitsOf_putBits_same _ 31 1 1 (by decide), ?_, ?_⟩
  · refine (bitsOf_putBits_other _ 31 1 1 21 10 (by decide) (.inl (by decide))).trans ?_
    have hlt := l.isLt
    rw [bitsOf, BitVec.toNat_setWidth, Nat.mod_eq_of_lt (by omega)]
    omega
  · refine (bitsOf_putBits_other _ 31 1 1 0 21 (by decide) (.inl (by decide))).trans ?_
    rw [bitsOf_eq_extractLsb', BitVec.extractLsb'_setWidth_of_le (by decide), BitVec.extractLsb'_eq_self]

/-- The word of a replacement says GO and names its entry. -/
theorem replaceWord_fields (e : BitVec 23) :
    F.sigPwcmd_GO.get (F.sigPwcmd_GO.put (e.setWidth 32) 1) = 1 ∧ bitsOf (F.sigPwcmd_GO.put (e.setWidth 32) 1) 23 8 = 0 ∧
      F.sigPwcmd_ENTRY.get (F.sigPwcmd_GO.put (e.setWidth 32) 1) = e.toNat := by
  refine ⟨bitsOf_putBits_same _ 31 1 1 (by decide), ?_, ?_⟩
  · refine (bitsOf_putBits_other _ 31 1 1 23 8 (by decide) (.inl (by decide))).trans ?_
    have hlt := e.isLt
    rw [bitsOf, BitVec.toNat_setWidth, Nat.mod_eq_of_lt (by omega)]
    omega
  · refine (bitsOf_putBits_other _ 31 1 1 0 23 (by decide) (.inl (by decide))).trans ?_
    rw [bitsOf_eq_extractLsb', BitVec.extractLsb'_setWidth_of_le (by decide), BitVec.extractLsb'_eq_self]

include hw

/-- An invalidation of an engine without packets and fills. -/
theorem wrSigInv_quiet (l : BitVec 21) (hfills : s.fills = []) (hpackets : s.sigPackets = []) :
    s.wrSigInv w (F.sigInv_GO.put (l.setWidth 32) 1) =
      match s.cached l.toNat with
      | some x => if x.pinned then s else s.setCached l.toNat none
      | none => s := by
  obtain ⟨hgo, hrest, hline⟩ := invalidateWord_fields l
  have hs : { s with fills := [], sigPackets := [] } = s := by rw [← hfills, ← hpackets]
  have hcache : ∀ x, (s.setCached l.toNat x).reissueFills = s.setCached l.toNat x := fun x => reissueFills_of_no_packets hpackets
  refine (if_neg (by rw [hw]; exact Bool.false_ne_true)).trans ((if_neg (by rw [hgo, hrest]; decide)).trans ?_)
  simp only [hline, hfills, hpackets, List.filter_nil, List.map_nil, hs]
  cases hc : s.cached l.toNat with
  | none => exact reissueFills_of_no_packets hpackets
  | some x => simp only [hcache]

theorem wrPwcmd_of_block (e : BitVec 23) : s.wrPwcmd w (F.sigPwcmd_GO.put (e.setWidth 32) 1) =
    if (s.cached (e.toNat / 4)).any (fun x => x.pinned) && s.pinWrite.isNone then
      { s with pinWrite := some ⟨e.toNat, [s.reg .sigPw 0, s.reg .sigPw 1, s.reg .sigPw 2, s.reg .sigPw 3],
                s.cycle + 1 + (Config.replaceDelay s.fresh).toNat⟩
               fresh := s.fresh + 1 }
    else s.raise F.sigStat_PWERR := by
  obtain ⟨hgo, hrest, hentry⟩ := replaceWord_fields e
  refine (if_neg (by rw [hw]; exact Bool.false_ne_true)).trans ((if_neg (by rw [hgo, hrest]; decide)).trans ?_)
  simp only [hentry]
  rfl

theorem wrSigCfg_of_block {v : Word} (h : F.sigCfg_BLOG.get v ≤ 21) : s.wrSigCfg w v =
    if s.bit F.sigCfg_DIRON && !(s.store w .sigCfg v).bit F.sigCfg_DIRON then (s.store w .sigCfg v).directoryOff
    else s.store w .sigCfg v :=
  (if_neg (by rw [hw]; exact Bool.false_ne_true)).trans (if_neg (Nat.not_lt.mpr h))

end

/-- A replacement whose time has come writes the four words of its entry. -/
theorem replacePinned_due {p : PinWrite} {x : CacheLine} (h : s.pinWrite = some p) (hdue : p.due ≤ s.cycle)
    (hx : s.cached (p.entry / 4) = some x) : s.replacePinned = ({ s with pinWrite := none }).setCached (p.entry / 4)
      (some { x with words := p.words.zipIdx.foldl (fun (ws : List Word) (k : Word × Nat) => ws.set (4 * (p.entry % 4) + k.2) k.1) x.words }) := by
  have hx' : ({ s with pinWrite := none } : State).cached (p.entry / 4) = some x := hx
  rw [State.replacePinned, h]
  refine (if_neg (Nat.not_lt.mpr hdue)).trans ?_
  simp only [hx']

/-- Settles O42: packets read, lookups, fills, write-backs, and each change of the directory. -/
theorem signalEngine : Obligations.SignalEngine := by
  intro s q w
  refine ⟨exec_sigPacketRead_none, ?read, ?lookup, ?fill, fun l ok => exec_writeBackResponse, fun hw htakes => ⟨?invalidate, ?replace,
    ?diron⟩, fun p x h hdue hx => replacePinned_due h hdue hx⟩
  case read =>
    rintro ⟨hon, hlost⟩ hoffer hcap hquad items u hread
    have hexec := exec_sigPacketRead (sigWorks_of hon hlost) hoffer hquad
    refine ⟨fun hnil => ?_, fun last hlast => ⟨fun p hp => ?_, fun hp => ?_⟩⟩
    · rw [hexec, readCandidate_nothing hcap hread hnil]
    · rw [hexec, readCandidate_some hcap hread hlast, storePart_goesOn hlast hp]
    · rw [hexec, readCandidate_some hcap hread hlast, storePart_begins hlast hp]
      rfl
  case lookup =>
    rintro p hfind ⟨hon, hlost⟩ hwait
    have hworks := sigWorks_of hon hlost
    refine ⟨exec_directoryLookup_part hfind, fun hwhole hstart hkey => ?_, fun ch key hwhole hstart hkey hframe hlines => ?_⟩
    · rw [exec_directoryLookup_whole hfind hwait hwhole, lookup_rejected hworks hstart hkey]
    · intro home hnone
      have hexec := (exec_directoryLookup_whole hfind hwait hwhole).trans
        (congrArg Host.Outcome.next (lookup_needs_home hworks hstart hkey hframe hlines hnone))
      refine ⟨fun hoff => ?_, fun hon hfills hback => ?_⟩
      · rw [hexec, needLine_off hoff]
        rfl
      · rw [hexec, needLine_asks hon hfills hback]
  case fill =>
    intro l words f hfills hline hdrop hgot hpackets
    have hexec := exec_fillReturn (words := words) hfills hline hdrop hgot hpackets
    have hwords : words.length = 16 → (words ++ List.replicate 16 0).take 16 = words := fun h => by
      rw [List.take_append_of_le_length (by omega), List.take_of_length_le (by omega)]
    refine ⟨fun hlen hinst => ?_, fun hlen hinst => ?_, hexec false⟩
    · refine (hexec true).trans (congrArg Host.Outcome.next ?_)
      rw [hwords hlen]
      exact keepLine_of_install (s := s.fillTaken l.toNat) hinst hline words
    · refine (hexec true).trans (congrArg Host.Outcome.next ?_)
      exact keepLine_of_dropped hinst _
  case invalidate =>
    intro l hfills hpackets
    have hwr := wrSigInv_quiet hw l hfills hpackets
    refine ⟨fun x hx hpin => ?_, fun x hx hpin => ?_, fun hx => ?_⟩
    · exact next_access_takes w _ htakes (hwr.trans (by
        rw [show s.cached l.toNat = some x from hx]
        exact if_neg (Bool.eq_false_iff.mp hpin)))
    · exact next_access_takes w _ htakes (hwr.trans (by
        rw [show s.cached l.toNat = some x from hx]
        exact if_pos hpin))
    · exact next_access_takes w _ htakes (hwr.trans (by rw [show s.cached l.toNat = none from hx]))
  case replace =>
    intro e wrong
    have hwrong : ((s.cached (e.toNat / 4)).any (fun x => x.pinned) && s.pinWrite.isNone) = false → wrong := fun h =>
      next_access_takes w _ htakes ((wrPwcmd_of_block hw e).trans (if_neg (Bool.eq_false_iff.mp h)))
    refine ⟨fun x hx hpin hfree => ?_, fun h => hwrong ?_, fun h => hwrong ?_, fun x hx hpin => hwrong ?_⟩
    · have hdelay := (Config.replaceDelay s.fresh).isLt
      refine ⟨s.cycle + 1 + (Config.replaceDelay s.fresh).toNat, by omega, by omega, ?_⟩
      refine next_access_takes w _ htakes ((wrPwcmd_of_block hw e).trans (if_pos ?_))
      rw [show s.cached (e.toNat / 4) = some x from hx, hfree, Option.any_some, hpin]
      rfl
    · rw [Option.isNone_eq_false_iff.mpr h, Bool.and_false]
    · rw [show s.cached (e.toNat / 4) = none from h]
      rfl
    · rw [show s.cached (e.toNat / 4) = some x from hx, Option.any_some, hpin]
      rfl
  case diron =>
    intro v hv u
    refine ⟨fun h => ?_, fun hon hoff => ?_⟩
    · refine next_access_takes w _ htakes ((wrSigCfg_of_block hw hv).trans (if_neg ?_))
      rcases h with h | h
      · have hbit : s.bit F.sigCfg_DIRON = false := bne_eq_false_iff_eq.mpr h
        rw [hbit]
        exact Bool.false_ne_true
      · have hbit : (s.store w .sigCfg v).bit F.sigCfg_DIRON = true := bne_iff_ne.mpr h
        rw [hbit, Bool.not_true, Bool.and_false]
        exact Bool.false_ne_true
    · refine next_access_takes w _ htakes ((wrSigCfg_of_block hw hv).trans (if_pos ?_))
      have hbit : (s.store w .sigCfg v).bit F.sigCfg_DIRON = false := bne_eq_false_iff_eq.mpr hoff
      rw [bit_of_fld_one hon, hbit]
      rfl

end
end Sys2Proof.Machine

/-!
PROOFS. What a unit's push leaves of the mirrored tasks: MIR.TSKM reads the same after it.
-/

namespace Sys2Proof.Machine

/-- MIR.TSKM in a register table. -/
def tskmOf (m : SMap Word) (j : Fin 128) : Word := smGet 0 m (regOff .mirTskm j.val 0)

section
variable {s : State}

/-- Whether a task is mirrored is told by MIR.TSKM alone. -/
theorem mirrorsTask_of_tskm {u : State} (h : tskmOf u.regs = tskmOf s.regs) (k : TaskId) : u.mirrorsTask k = s.mirrorsTask k := by
  have hlt : k.toNat / 32 < 128 := by have := k.isLt; omega
  have hword : u.reg .mirTskm (k.toNat / 32) = s.reg .mirTskm (k.toNat / 32) := congrFun h ⟨k.toNat / 32, hlt⟩
  rw [State.mirrorsTask, State.mirrorsTask, State.fld, State.fld, show F.mirTskm_TASKS.kind = .mirTskm from rfl, hword]

/-! ## Fields that lie elsewhere -/

/-- A field of register i lies outside MIR.TSKM. -/
def Fld.offTskm (f : Fld) (i : Nat) : Prop := ∀ n : Fin 128, regOff .mirTskm n.val 0 ≠ regOff f.kind i 0

theorem tskm_setFld {f : Fld} {v i : Nat} (h : f.offTskm i) : tskmOf (s.setFld f v i).regs = tskmOf s.regs :=
  funext fun n => reg_setReg_ne s f.kind .mirTskm _ i 0 n.val 0 (h n)

theorem tskm_satAdd {f : Fld} {v i : Nat} (h : f.offTskm i) : tskmOf (s.satAdd f v i).regs = tskmOf s.regs :=
  tskm_setFld (s := s.noteEvent f v i 0) h

theorem tskm_raise {f : Fld} {i : Nat} (h : f.offTskm i) : tskmOf (s.raise f i).regs = tskmOf s.regs :=
  tskm_setFld (s := s.noteEvent f 1 i 0) h

theorem offTskm_slaglost : F.qeSlaglost_COUNT.offTskm 0 := fun n => by
  simp only [F.qeSlaglost_COUNT, regOff, RegKind.desc]
  omega

theorem offTskm_ndrop : F.fltStat_NDROP.offTskm 0 := fun n => by
  simp only [F.fltStat_NDROP, regOff, RegKind.desc]
  omega

theorem offTskm_slagcnt {i : Nat} (h : i < 16) : F.qeSlagcnt_COUNT.offTskm i := fun n => by
  simp only [F.qeSlagcnt_COUNT, regOff, RegKind.desc]
  omega

theorem offTskm_dstat {f : Fld} (hf : f.kind = .pwrDstat) {d : Nat} (h : d < 22) : f.offTskm d := fun n => by
  simp only [hf, regOff, RegKind.desc]
  omega

theorem tskm_foldl {α : Type} {g : State → α → State} (h : ∀ s x, tskmOf (g s x).regs = tskmOf s.regs) (l : List α) :
    ∀ s : State, tskmOf (l.foldl g s).regs = tskmOf s.regs := by
  induction l with
  | nil => exact fun _ => rfl
  | cons x l ih => exact fun s => (ih (g s x)).trans (h s x)

/-! ## Domains -/

theorem tskm_rouse (t : Tid) : tskmOf (s.rouse t).regs = tskmOf s.regs := by
  rw [State.rouse]
  split <;> rfl

theorem tskm_domainReachOn (d : Nat) : tskmOf (s.domainReachOn d).regs = tskmOf s.regs := by
  refine (tskm_foldl (fun _ t => tskm_rouse t) _ _).trans ?_
  exact tskm_foldl (g := fun s q => s.setQueue q ((s.queue q).mapWords QWord.unheld)) (fun _ _ => rfl) _ s

theorem tskm_wakeDomain {d : Nat} (h : d < 22) : tskmOf (s.wakeDomain d).regs = tskmOf s.regs := by
  rw [State.wakeDomain]
  split
  · exact (tskm_domainReachOn d).trans (tskm_raise (offTskm_dstat rfl h))
  · exact (tskm_domainReachOn d).trans (tskm_raise (offTskm_dstat rfl h))
  · exact tskm_satAdd (offTskm_dstat rfl h)
  · rfl

theorem quadDomain_lt (k : Quadrant) : quadDomain k < 22 := by
  have := k.isLt
  rw [quadDomain]
  omega

theorem tskm_wakeQuad (q : Qid) : tskmOf (s.wakeQuad q).regs = tskmOf s.regs := by
  rw [State.wakeQuad]
  split
  · rfl
  · exact tskm_wakeDomain (quadDomain_lt _)

/-! ## Slots and words of the pool -/

theorem tskm_touchQueue (q : Qid) : tskmOf (s.touchQueue q).regs = tskmOf s.regs := by
  rw [State.touchQueue]
  split <;> rfl

theorem tskm_giveSlot (k : Quadrant) : tskmOf (s.giveSlot k).regs = tskmOf s.regs := by
  simp only [State.giveSlot]
  split <;> rfl

theorem tskm_dropClaim (o : BitVec 12) (k : Quadrant) (used : Bool) (n : Nat) :
    tskmOf (s.dropClaim o k used n).regs = tskmOf s.regs := by
  rw [State.dropClaim]
  split
  · rfl
  · split
    · rfl
    · exact tskm_giveSlot k

theorem tskm_takeSlot (o : BitVec 12) (k : Quadrant) (a : PoolAns) (n : Nat) : tskmOf (s.takeSlot o k a n).regs = tskmOf s.regs := by
  simp only [State.takeSlot]
  split
  · exact tskm_dropClaim o k false n
  · exact tskm_dropClaim o k true n
  · rfl
  · rfl

theorem tskm_storeWord (q : Qid) (w : QWord) : tskmOf (s.storeWord q w).regs = tskmOf s.regs := by
  simp only [State.storeWord]
  split <;> exact tskm_touchQueue q

/-- The domain that holds a queue's items is one of the 22. -/
theorem holdDomain_lt {q : Qid} {d : Nat} (h : s.holdDomain q = some d) : d < 22 := by
  have hr : s.fld F.qeQcfg_READER q.toNat < 512 := fld_lt F.qeQcfg_READER q.toNat 0
  simp only [State.holdDomain] at h
  split at h <;> cases h <;> omega

theorem tskm_storeHeld (q : Qid) (item : BitVec 64) (o : BitVec 12) (floor : Bool) :
    tskmOf (s.storeHeld q item o floor).regs = tskmOf s.regs := by
  rw [State.storeHeld]
  split
  · exact tskm_storeWord q _
  · next d hd =>
    split
    · exact tskm_storeWord q _
    · simp only []
      split
      · exact (tskm_wakeDomain (holdDomain_lt hd)).trans (tskm_storeWord q _)
      · exact tskm_storeWord q _

theorem tskm_mirrorQueue (op : Nat) (q : Qid) (owner : BitVec 12) (item : BitVec 64) :
    tskmOf (s.mirrorQueue op q owner item).regs = tskmOf s.regs := by
  rw [State.mirrorQueue]
  split
  · rw [State.mirrorEmit]
    split <;> rfl
  · rfl

/-! ## The slag queue -/

theorem tskm_freeSlagSlot (w : QWord) : tskmOf (s.freeSlagSlot w).regs = tskmOf s.regs := by
  simp only [State.freeSlagSlot]
  split <;> rfl

theorem tskm_dropSlagRecord {u : State} (h : s.dropSlagRecord = some u) : tskmOf u.regs = tskmOf s.regs := by
  rw [State.dropSlagRecord] at h
  split at h
  · cases h
  · cases h
    refine (tskm_satAdd offTskm_slaglost).trans ?_
    exact (tskm_foldl (fun _ w => tskm_freeSlagSlot w) _ _).trans (tskm_touchQueue slagQueue)

theorem tskm_makeSlagRoom (n : Nat) : ∀ s : State, tskmOf (s.makeSlagRoom n).regs = tskmOf s.regs := by
  induction n with
  | zero => exact fun _ => rfl
  | succ n ih =>
    intro s
    rw [State.makeSlagRoom]
    split
    · rfl
    · split
      · rfl
      · next u hu => exact (ih u).trans (tskm_dropSlagRecord hu)

theorem tskm_claimFree (k : Quadrant) (n : Nat) : ∀ s : State, tskmOf (s.claimFree k n).regs = tskmOf s.regs := by
  induction n with
  | zero => exact fun _ => rfl
  | succ n ih =>
    intro s
    simp only [State.claimFree]
    split
    · rfl
    · exact (ih _).trans (tskm_giveSlot k)

theorem tskm_writeSlagRecord (w1 w2 : BitVec 64) : tskmOf (s.writeSlagRecord w1 w2).regs = tskmOf s.regs :=
  (tskm_touchQueue slagQueue).trans ((tskm_takeSlot ownerSlag 3 _ 0).trans (tskm_takeSlot ownerSlag 3 _ 0))

theorem tskm_slag (reason : BitVec 4) (dest : Word) (item : BitVec 64) : tskmOf (s.slag reason dest item).regs = tskmOf s.regs := by
  have hcnt : tskmOf (s.satAdd F.qeSlagcnt_COUNT 1 (reason.toNat - 1)).regs = tskmOf s.regs :=
    tskm_satAdd (offTskm_slagcnt (by have := reason.isLt; omega))
  simp only [State.slag]
  split
  · exact (tskm_satAdd offTskm_slaglost).trans hcnt
  · refine (tskm_claimFree 3 _ _).trans ?_
    split
    · exact (tskm_writeSlagRecord _ _).trans ((tskm_makeSlagRoom _ _).trans hcnt)
    · exact (tskm_satAdd offTskm_slaglost).trans ((tskm_makeSlagRoom _ _).trans hcnt)

/-! ## Notices -/

theorem tskm_takePlace (x : HeldNotice) (full slot : Bool) : tskmOf (s.takePlace x full slot).2.regs = tskmOf s.regs := by
  simp only [State.takePlace]
  split
  · refine (tskm_dropClaim _ _ _ _).trans ?_
    split <;> rfl
  · split <;> split <;> rfl

theorem tskm_setHeldNotice (h : Holder) (n : Option HeldNotice) : tskmOf (s.setHeldNotice h n).regs = tskmOf s.regs := by
  cases h <;> rfl

theorem tskm_tryNotice {q : Qid} {item : BitVec 64} {n : Nat} {u : State} (h : s.tryNotice q item n = some u) :
    tskmOf u.regs = tskmOf s.regs := by
  simp only [State.tryNotice] at h
  split at h
  · cases h
  · split at h
    · cases h
    · cases h
    · cases h
      exact (tskm_mirrorQueue _ _ _ _).trans ((tskm_storeHeld _ _ _ _).trans (tskm_takeSlot _ _ _ _))

theorem tskm_notice (h : Holder) (q : Qid) (item : BitVec 64) : tskmOf (s.notice h q item).regs = tskmOf s.regs := by
  rw [State.notice]
  split
  · exact tskm_satAdd offTskm_ndrop
  · split
    · exact tskm_satAdd offTskm_ndrop
    · split
      · next u hu => exact (tskm_tryNotice hu).trans (tskm_wakeQuad q)
      · exact (tskm_setHeldNotice h _).trans ((tskm_takePlace _ _ _).trans (tskm_wakeQuad q))

/-! ## Pushes -/

theorem tskm_staleNotice (q : Qid) (o : BitVec 12) : tskmOf (s.staleNotice q o).regs = tskmOf s.regs := by
  rw [State.staleNotice]
  split
  · exact tskm_notice _ _ _
  · rfl

theorem tskm_pushItem (q : Qid) (item : BitVec 64) (o : BitVec 12) (role : Word) (n : Nat) :
    tskmOf (s.pushItem q item o role n).2.regs = tskmOf s.regs := by
  simp only [State.pushItem]
  split
  · exact tskm_dropClaim _ _ _ _
  · exact (tskm_staleNotice q o).trans ((tskm_slag _ _ _).trans (tskm_dropClaim _ _ _ _))
  · exact (tskm_slag _ _ _).trans (tskm_dropClaim _ _ _ _)
  · exact tskm_dropClaim _ _ _ _
  · exact tskm_dropClaim _ _ _ _
  · rfl
  · split
    · rfl
    · split
      · rfl
      · exact (tskm_mirrorQueue _ _ _ _).trans ((tskm_storeHeld _ _ _ _).trans (tskm_takeSlot _ _ _ _))

theorem tskm_push (q : Qid) (item : BitVec 64) (o : BitVec 12) (role : Word) (n : Nat) :
    tskmOf (s.push q item o role n).2.regs = tskmOf s.regs := by
  simp only [State.push]
  split
  · rfl
  · split
    · exact tskm_pushItem q item o role n
    · split
      · exact (tskm_pushItem q item o role n).trans (tskm_wakeDomain (quadDomain_lt _))
      · exact tskm_wakeDomain (quadDomain_lt _)

theorem tskm_unitPush (x : HeldNotice) : tskmOf (s.unitPush x).2.regs = tskmOf s.regs := by
  have hpush := tskm_push (s := s) x.q x.item (ownerNotice (quadrantOf x.q)) 0 x.wait
  rw [State.unitPush]
  split
  · next u hu => rw [hu] at hpush; exact hpush
  · next u hu => rw [hu] at hpush; exact hpush
  · next u hu => rw [hu] at hpush; exact (tskm_slag _ _ _).trans hpush
  · next u hu => rw [hu] at hpush; exact (tskm_takePlace _ _ _).trans hpush

end
end Sys2Proof.Machine

/-!
PROOFS. Temper tasks on their grid, and the fires of the event matrix.
-/

namespace Sys2Proof.Machine

section
variable {s : State} {w : Writer} {c : CoreId} {k : TaskId}

/-! ## Tasks that are not mirrored -/

theorem taskRoom_of_not_mirrored (hk : s.mirrorsTask k = false) : s.taskRoom k = true := by
  rw [State.taskRoom, hk]
  rfl

/-- No record of a task that is not mirrored is sent. -/
theorem mirrorTask_of_not_mirrored {u : State} (h : tskmOf u.regs = tskmOf s.regs) (hk : s.mirrorsTask k = false) :
    u.mirrorTask k = u := if_neg (by rw [mirrorsTask_of_tskm h, hk]; exact Bool.false_ne_true)

section
variable (hk : s.mirrorsTask (s.selected c) = false) (hwaits : ∀ y ∈ s.regWaits, y.d ≠ mirrorPlace)
  (hover : s.overTask w c = true)
include hk hwaits hover

/-- A write of a window register of a task that is not mirrored acts at once. -/
theorem taskWrite_of_not_mirrored {r : RegKind} {v : Word} {u : State} (hsel : r ≠ .tskSel) (hstat : r ≠ .tskStat)
    (hu : s.wrTaskReg w r c v = u) (hregs : tskmOf u.regs = tskmOf s.regs) : s.taskWrite w r c v = u := by
  have hfree : s.taskWaits w r c = false := by
    rw [State.taskWaits, taskRoom_of_not_mirrored hk]
    exact Bool.and_false _
  rw [State.taskWrite, hfree, regAtMirror_of_room hwaits]
  refine (if_neg (beq_eq_false_iff_ne.mpr hsel ▸ Bool.false_ne_true)).trans ((if_neg (by rw [hover]; exact Bool.false_ne_true)).trans
    ((if_neg (beq_eq_false_iff_ne.mpr hstat ▸ Bool.false_ne_true)).trans ?_))
  rw [hu, mirrorTask_of_not_mirrored hregs hk]

end

/-! ## Enabling and rebasing (R344, R348, R356) -/

/-- A task with the configuration that a write of its TSK.CFG gives it. -/
def State.configured (s : State) (w : Writer) (x : Task) (v : Word) : Task :=
  let own := if w = .boot ∨ s.boot.seald = false then F.tskCfg_OWNCORE.get v else F.tskCfg_OWNCORE.get x.cfg
  { x with cfg := F.tskCfg_BASE.put (F.tskCfg_OWNCORE.put (v &&& 0xFFFFFFC0) own) (F.tskCfg_BASE.get v) }

/-- A write of the configuration of a task that is not enabled. -/
theorem wrTaskCfg_of_disabled {v : Word} (hS : F.tskCfg_S.get v ≤ 32) (hM : F.tskCfg_M.get v ≠ 0) (hoff : (s.task k).enabled = false) :
    let y := s.configured w (s.task k) v
    s.wrTaskCfg w k v = if y.enabled then
        if s.periodOk y then s.setTask k { s.startGrid y with jobs := 0, onGrid := false } else s.taskIgnored k
      else s.setTask k y := by
  have hok : (decide (32 < F.tskCfg_S.get v) || decide (F.tskCfg_M.get v = 0)) = false := by
    rw [decide_eq_false (Nat.not_lt.mpr hS), decide_eq_false hM]
    rfl
  refine (if_neg (by rw [hok]; exact Bool.false_ne_true)).trans ?_
  simp only [hoff, Bool.false_and, Bool.or_false, Bool.false_eq_true, if_false, Bool.not_false, Bool.true_and, Bool.not_eq_true']
  rfl

/-- The command register's REBASE starts the grid anew. -/
theorem wrTaskReg_rebase (hper : 0 < (s.task (s.selected c)).per.toNat) :
    s.wrTaskReg w .tskCmd c (F.tskCmd_REBASE.put 0 1) =
      s.setTask (s.selected c) { s.startGrid (s.task (s.selected c)) with lagn := false } :=
  if_pos (by rw [decide_eq_true hper]; decide)

/-! ## The end of a job (R345, R346) -/

theorem doneWord_field (k : TaskId) : BitVec.ofNat 12 (F.tskDone_TASK.get (k.setWidth 32)) = k ∧ (k.setWidth 32).toNat < 4096 := by
  have hk := k.isLt
  refine ⟨?_, ?_⟩
  · rw [show F.tskDone_TASK.get (k.setWidth 32) = bitsOf (k.setWidth 32) 0 12 from rfl, bitsOf_eq_extractLsb',
      BitVec.extractLsb'_setWidth_of_le (by decide), BitVec.extractLsb'_eq_self, BitVec.ofNat_toNat, BitVec.setWidth_eq]
  · rw [BitVec.toNat_setWidth, Nat.mod_eq_of_lt (by omega)]
    exact hk

theorem tskm_baseWord (n : BaseId) : tskmOf (s.baseWord n).2.regs = tskmOf s.regs := by
  simp only [State.baseWord]
  split <;> rfl

theorem exec_taskDone (hk : s.mirrorsTask k = false) (hwaits : ∀ y ∈ s.regWaits, y.d ≠ mirrorPlace)
    (hrun : (s.task k).running = true) : exec (.taskDone w k) s =
      .next ((s.baseWord (s.task k).base).2.setTask k
        ((s.baseWord (s.task k).base).2.nextRelease { s.task k with running := false } ((s.baseWord (s.task k).base).1.toNat : Int))) := by
  obtain ⟨htask, hlt⟩ := doneWord_field k
  have hexec : exec (.taskDone w k) s = .next (s.regAtMirror (s.doneWaits (k.setWidth 32)) w (regOff .tskDone 0 0) (k.setWidth 32)
    fun s => s.wrDone (k.setWidth 32)) := rfl
  have hfree : s.doneWaits (k.setWidth 32) = false := by
    rw [State.doneWaits, htask, taskRoom_of_not_mirrored hk]
    exact Bool.and_false _
  rw [hexec, hfree, regAtMirror_of_room hwaits]
  refine congrArg Host.Outcome.next ((if_neg ?_).trans ?_)
  · rw [htask, hrun, decide_eq_false (Nat.not_le.mpr hlt)]
    exact Bool.false_ne_true
  · simp only [htask]
    exact mirrorTask_of_not_mirrored (s := s) (tskm_baseWord _) hk

/-! ## Releases (R345) -/

theorem exec_taskRelease_held (h : (s.task k).held.isSome = true) : exec (.taskRelease k) s = .next s := by
  refine congrArg Host.Outcome.next ?_
  simp only [State.releaseTask, h, Bool.or_true, Bool.true_or, if_true, ite_self]

/-- The task after its release on the grid point of its job. -/
def Task.onTime (x : Task) : Task :=
  { x with lastR := x.nextR, k := x.k + 1, jobs := x.jobs + 1, lag := 0, onGrid := true, noted := false }

/-- A release that fires an event pulses its source. -/
def State.releasePulse (s : State) (x : Task) : State :=
  if F.tskCfg_RELE.get x.cfg = 1 then s.pulse (0x900 + F.tskDest_ESRC.get x.dest) else s

theorem tskm_releasePulse (x : Task) : tskmOf (s.releasePulse x).regs = tskmOf s.regs := by
  rw [State.releasePulse]
  split <;> rfl

/-- A task that may be released on its grid point. -/
structure State.ReleaseDue (s : State) (x : Task) : Prop where
  enabled : x.enabled = true
  idle : x.running = false
  free : x.held = none
  period : 0 < x.per.toNat
  stages : s.stages x.base = true
  on : s.baseDisabled x.base = false
  plain : s.wraps x.base = false
  passed : s.passed x.base (x.nextR : Int) = true
  grid : s.ringMod x.base (x.nextR - s.gridPoint x x.k) = 0

/-- A task that is due on its grid point is released without lag. -/
theorem releaseTask_of_due (hk : s.mirrorsTask k = false) (h : s.ReleaseDue (s.task k)) :
    s.releaseTask k = (s.release1 k (s.task k) 0 true).mirrorTask k := by
  obtain ⟨henabled, hidle, hfree, hperiod, hstages, hon, hplain, hpassed, hgrid⟩ := h
  have hper : decide ((s.task k).per.toNat = 0) = false := decide_eq_false (Nat.ne_of_gt hperiod)
  refine (if_neg ?_).trans ((if_neg ?_).trans ?_)
  · rw [hk, taskRoom_of_not_mirrored hk, Bool.and_false]
    exact Bool.false_ne_true
  · rw [henabled, hidle, hfree, hper, hstages, hon, hpassed]
    decide
  · simp only [hgrid, hplain, Bool.false_and, Bool.false_eq_true, if_false, Int.zero_ediv, Int.toNat_zero, decide_true]

theorem release1_quiet {x : Task} (h : F.tskCfg_RELQ.get x.cfg = 0) :
    s.release1 k x 0 true = (s.setTask k (s.nextRelease x.onTime x.nextR)).releasePulse x := by
  simp only [State.release1, h, Nat.not_lt_zero, decide_false, Bool.false_and, Bool.false_eq_true, if_false, if_true]
  rfl

/-- The item of a release without lag. -/
theorem releaseItem_onTime (x : Task) (k : TaskId) : releaseItem x k x.k 0 =
    mkItem true (BitVec.ofNat 4 (F.tskDest_PRIO.get x.dest)) (BitVec.ofNat 4 (F.tskDest_KIND.get x.dest))
      (BitVec.ofNat 22 (3 * 2 ^ 18 + 4)) (BitVec.ofNat 32 (4096 * k.toNat + x.k % 4096)) := by
  rw [releaseItem, Nat.zero_min, Nat.mul_zero, Nat.zero_add]
  rfl

theorem release1_pushes {x : Task} (h : F.tskCfg_RELQ.get x.cfg = 1) :
    let r := ((s.setTask k { x.onTime with running := true }).releasePulse x).unitPush
      { q := BitVec.ofNat 14 (F.tskDest_QID.get x.dest), item := releaseItem x k x.k 0 }
    s.release1 k x 0 true = r.2.setTask k { r.2.task k with held := r.1 } := by
  simp only [State.release1, h, Nat.not_lt_zero, decide_false, Bool.false_and, Bool.false_eq_true, if_false, if_true]
  rfl

theorem exec_taskRelease_quiet (hk : s.mirrorsTask k = false) (h : s.ReleaseDue (s.task k))
    (hq : F.tskCfg_RELQ.get (s.task k).cfg = 0) : exec (.taskRelease k) s =
      .next ((s.setTask k (s.nextRelease (s.task k).onTime (s.task k).nextR)).releasePulse (s.task k)) := by
  refine congrArg Host.Outcome.next ((releaseTask_of_due hk h).trans ?_)
  rw [release1_quiet hq]
  exact mirrorTask_of_not_mirrored (s := s) (tskm_releasePulse _) hk

theorem exec_taskRelease_pushes (hk : s.mirrorsTask k = false) (h : s.ReleaseDue (s.task k))
    (hq : F.tskCfg_RELQ.get (s.task k).cfg = 1) :
    let x := s.task k
    let r := ((s.setTask k { x.onTime with running := true }).releasePulse x).unitPush
      { q := BitVec.ofNat 14 (F.tskDest_QID.get x.dest), item := releaseItem x k x.k 0 }
    exec (.taskRelease k) s = .next (r.2.setTask k { r.2.task k with held := r.1 }) := by
  refine congrArg Host.Outcome.next ((releaseTask_of_due hk h).trans ?_)
  rw [release1_pushes hq]
  exact mirrorTask_of_not_mirrored (s := s) ((tskm_unitPush _).trans (tskm_releasePulse _)) hk

end

/-! ## Event fires (R350 to R353, R357, R399) -/

section
variable {s : State} {i : BitVec 12}

theorem exec_softwareEventPulse (w : Writer) (src : BitVec 10) :
    exec (.softwareEventPulse w src) s = .next (s.pulse (0xB00 + src.toNat)) := by
  have hgo : F.evmSwset_GO.get (F.evmSwset_GO.put (src.setWidth 32) 1) = 1 := bitsOf_putBits_same _ 31 1 1 (by decide)
  have hrest : bitsOf (F.evmSwset_GO.put (src.setWidth 32) 1) 10 21 = 0 := by
    refine (bitsOf_putBits_other _ 31 1 1 10 21 (by decide) (.inl (by decide))).trans ?_
    have hlt := src.isLt
    rw [bitsOf, BitVec.toNat_setWidth, Nat.mod_eq_of_lt (by omega)]
    omega
  have hsrc : F.evmSwset_SRC.get (F.evmSwset_GO.put (src.setWidth 32) 1) = src.toNat := by
    refine (bitsOf_putBits_other _ 31 1 1 0 10 (by decide) (.inl (by decide))).trans ?_
    rw [bitsOf_eq_extractLsb', BitVec.extractLsb'_setWidth_of_le (by decide), BitVec.extractLsb'_eq_self]
  refine congrArg Host.Outcome.next ((if_neg (by rw [hgo, hrest]; decide)).trans ?_)
  rw [hsrc]

theorem exec_eventFire_none (h : ∀ f ∈ s.fires, f.input ≠ i ∨ s.cycle < f.due) : exec (.eventFire i) s = .next s := by
  have hexec : exec (.eventFire i) s = execEventFire i s := rfl
  have hnone : s.fires.find? (fun f => f.input == i && decide (f.due ≤ s.cycle)) = none := by
    refine List.find?_eq_none.mpr fun f hf => ?_
    rw [Bool.and_eq_true, beq_iff_eq, decide_eq_true_eq]
    exact fun hc => (h f hf).elim (fun hi => hi hc.1) (fun hd => absurd hc.2 (Nat.not_le.mpr hd))
  rw [hexec, execEventFire, hnone]

theorem exec_eventFire_some {f : Fire} (h : s.fires.find? (fun f => f.input == i && decide (f.due ≤ s.cycle)) = some f) :
    let u := { s with fires := s.fires.erase f }
    exec (.eventFire i) s = .next (if f.gateOk then u.fire i.toNat f.tb else u) := by
  have hexec : exec (.eventFire i) s = execEventFire i s := rfl
  rw [hexec, execEventFire, h]

section
variable {n : Nat} {tb : Word}

theorem fire_channel (h : n < 0x200) : s.fire n tb = if (s.chan (BitVec.ofNat 9 n)).trig then s.overrun n else
    s.setChan (BitVec.ofNat 9 n) { s.chan (BitVec.ofNat 9 n) with trig := true, trigAt := s.cycle } := if_pos h

theorem fire_consumer (h : 0x200 ≤ n) (hlt : n < 0xFE0) : s.fire n tb = if (smGet none s.evmHeld n).isSome then s.overrun n else
    let r := s.unitPush { q := BitVec.ofNat 14 (s.fld F.evmCdest_QID n), item := s.consumerItem n tb }
    { r.2 with evmHeld := smSet none r.2.evmHeld n r.1 } := (if_neg (Nat.not_lt.mpr h)).trans (if_pos hlt)

theorem fire_domain (h : 0xFE0 ≤ n) (hlt : n < 0xFF5) : s.fire n tb = if s.wokeNow.contains n then s.overrun n else
    { s with wokeNow := n :: s.wokeNow }.wakeDomain (n - 0xFE0) :=
  (if_neg (by omega)).trans ((if_neg (Nat.not_lt.mpr h)).trans (if_pos hlt))

theorem fire_nothing (h : 0xFF5 ≤ n) : s.fire n tb = s :=
  (if_neg (by omega)).trans ((if_neg (by omega)).trans (if_neg (Nat.not_lt.mpr h)))

end

end

/-- Settles O41: a task enabled, started anew, finished and released; then each kind of input that fires. -/
theorem tasksAndEvents : Obligations.TasksAndEvents := by
  refine ⟨fun s w c k => ?tasks, fun s i => ?events⟩
  case tasks =>
    intro x hk hwaits
    refine ⟨fun hsel hover => ?window, exec_taskDone hk hwaits, exec_taskRelease_held,
      fun h1 h2 h3 h4 h5 h6 h7 h8 h9 => ⟨?quiet, ?pushes⟩⟩
    case window =>
      obtain rfl : s.selected c = k := hsel.symm
      refine ⟨fun v hS hM hoff => ?_, fun hper => ?_⟩
      · have hcfg := wrTaskCfg_of_disabled (w := w) hS hM hoff
        refine ⟨fun hy => ?_, fun hy hp => ?_, fun hy hp => ?_⟩
        · exact next_access w (taskWrite_of_not_mirrored hk hwaits hover (by decide) (by decide)
            (hcfg.trans (if_neg (Bool.eq_false_iff.mp hy))) rfl)
        · exact next_access w (taskWrite_of_not_mirrored hk hwaits hover (by decide) (by decide)
            (hcfg.trans ((if_pos hy).trans (if_neg (Bool.eq_false_iff.mp hp)))) rfl)
        · exact next_access w (taskWrite_of_not_mirrored hk hwaits hover (by decide) (by decide)
            (hcfg.trans ((if_pos hy).trans (if_pos hp))) rfl)
      · exact next_access w (taskWrite_of_not_mirrored hk hwaits hover (by decide) (by decide) (wrTaskReg_rebase hper) rfl)
    case quiet => exact exec_taskRelease_quiet hk ⟨h1, h2, h3, h4, h5, h6, h7, h8, h9⟩
    case pushes =>
      intro hq
      have hpush := exec_taskRelease_pushes hk ⟨h1, h2, h3, h4, h5, h6, h7, h8, h9⟩ hq
      simp only [releaseItem_onTime] at hpush
      exact hpush
  case events =>
    intro n
    refine ⟨exec_softwareEventPulse, exec_eventFire_none, fun f hf => ?_⟩
    intro u overrun
    have hexec := exec_eventFire_some hf
    have hfire : f.gateOk = true → ∀ v, u.fire n f.tb = v → exec (.eventFire i) s = .next v := fun hgate v hv =>
      hexec.trans (congrArg Host.Outcome.next ((if_pos hgate).trans hv))
    refine ⟨fun hgate => hexec.trans (congrArg Host.Outcome.next (if_neg (Bool.eq_false_iff.mp hgate))), fun hgate =>
      ⟨fun hn => hfire hgate _ (fire_channel hn), fun h0 h1 => ⟨fun hheld => ?_, fun hfree => ?_⟩,
        fun h0 h1 => ⟨fun hwoke => ?_, fun hwoke => ?_⟩, fun hn => hfire hgate _ (fire_nothing hn)⟩⟩
    · exact hfire hgate _ ((fire_consumer h0 h1).trans (if_pos hheld))
    · have hnone : (smGet none u.evmHeld n).isSome = false := by rw [show smGet none u.evmHeld n = none from hfree]; rfl
      exact hfire hgate _ ((fire_consumer h0 h1).trans (if_neg (Bool.eq_false_iff.mp hnone)))
    · exact hfire hgate _ ((fire_domain h0 h1).trans (if_pos (List.contains_iff_mem.mpr hwoke)))
    · exact hfire hgate _ ((fire_domain h0 h1).trans (if_neg fun hc => hwoke (List.contains_iff_mem.mp hc)))

end Sys2Proof.Machine
